-- ==== Sys2Proof/Word.lean ====
section
/-! DEFINITION. The word types of the Ulimin: the spec's bytes, 64-bit register words, 128-bit command
registers and 512-bit token payloads (R2, R146, R275, R286). -/

namespace Sys2Proof

/-- Eight bits, the unit every address counts (R2). -/
abbrev Byte := BitVec 8

/-- A general or system register (R276, R340). -/
abbrev Word := BitVec 64

/-- A command register or a deque entry (R89, R286). -/
abbrev Word128 := BitVec 128

/-- The payload of a token, one beat (R146). -/
abbrev Beat := BitVec 512

/-- A scalar register number (R276). -/
abbrev Reg := BitVec 5

end Sys2Proof
end

