-- ==== Sys2Proof/Syntax.lean ====
section
/-! DEFINITION. The instructions of the Ulimin: one constructor per row of spec/opcode_table.json, and the plain
data their operands are made of. Scalar words carry the fields of R275 and R279-R284; cells, CTRL payloads,
router words and stream commands carry theirs (R289, R298, R294, R286) and the place they act at; the package's
events carry what comes from outside the machine or names the object they act on (DESIGN CHOICE, assumption 13). -/

namespace Sys2Proof

/-- A thread: a system core 0-31 (IO0 first, as PSUPER counts, R342) or a launch thread of a control core
(R76, R333). -/
inductive ThreadId where
  | sys (n : Nat)
  | ctl (die core thr : Nat)
  deriving DecidableEq, Repr

/-- A site of a placed region or instance, footprint-relative (R4, R117). -/
structure Node where
  place : Nat
  x : Nat
  y : Nat
  deriving DecidableEq, Repr

/-- A region port: the place that declares it and its number (R115, R286). -/
structure PortRef where
  place : Nat
  port : Nat
  deriving DecidableEq, Repr

/-- The kinds of a token (R147); codes 10-15 are reserved. -/
inductive Kind where
  | data | hdr | sot | eot | mark | ord | done | kill | ctrl | idx
  | rsvd (n : Nat)
  deriving DecidableEq, Repr

/-- What the SEC-DED code of a token's sideband shows (R148): the code itself is not in the spec, so the token
holds the class of its error and not the code's bits (DESIGN CHOICE, assumption 8). -/
inductive Check where
  | good | single | double
  deriving DecidableEq, Repr

/-- A token (R146). Bit `j` of `mask` is set when payload byte `j` is live; `res` holds the mod-3 residues of the
sixteen containers. -/
structure Token where
  kind : Kind
  pay : Beat
  mask : BitVec 64
  res : BitVec 32
  route : BitVec 12
  last : Bool
  void : Bool
  chk : Check
  deriving DecidableEq, Repr

/-- The fields of a cell word beside its OP (R289). -/
structure CellF where
  rep : BitVec 6
  fmt : BitVec 4
  rs : BitVec 3
  pred : BitVec 3
  sela : BitVec 6
  selb : BitVec 6
  selc : BitVec 6
  outen : BitVec 6
  imm : BitVec 16
  deriving DecidableEq, Repr

/-- The fields of a router-operator word beside its ROP (R294). -/
structure RopF where
  slot : Bool
  in0 : BitVec 6
  in1 : BitVec 6
  in2 : BitVec 6
  deriving DecidableEq, Repr

/-- The fields of a CTRL token's payload beside its OP (R298). -/
structure CtrlF where
  tsb : BitVec 32
  tsa : BitVec 32
  rsv2 : BitVec 2
  rs : BitVec 3
  scale : BitVec 3
  fmtb : BitVec 4
  fmta : BitVec 4
  kg : BitVec 16
  ng : BitVec 8
  mg : BitVec 8
  rsv7 : BitVec 7
  acc : Bool
  deriving DecidableEq, Repr

/-- The fields of a stream command beside its OP and PORT (R286). -/
structure CmdF where
  slot : BitVec 5
  scope : BitVec 3
  hint : BitVec 2
  cscope : BitVec 16
  flags : BitVec 8
  count : BitVec 24
  tag : BitVec 8
  base : BitVec 48
  deriving DecidableEq, Repr

/-- What the power controller's sensors read at one sample (R18, R20). -/
structure Sample where
  ppkg : BitVec 16
  ifab : BitVec 16
  tjmax : BitVec 16
  hotdie : BitVec 4
  deriving DecidableEq, Repr

/-- Where a datagram is sent: a network address and a UDP port (R58). -/
structure UdpAddr where
  addr : BitVec 128
  port : BitVec 16
  deriving DecidableEq, Repr

/-- The end of a Brosum message here: the port group of an I/O die, and the device ID it has (R24, R43). -/
structure GroupEnd where
  io : Nat
  dev : Nat
  deriving DecidableEq, Repr

/-- A datagram that reaches an I/O die's Ethernet port: source address, destination address and UDP port, and the bytes
behind the UDP header (R14, R58). -/
structure Datagram where
  mac : BitVec 48
  addr : BitVec 128
  port : BitVec 16
  bytes : List Byte
  deriving DecidableEq, Repr

/-- Who waits for a message's answer (R37, R38): a thread, a generator's request by its number, a ring agent, a line of
the landing buffer (R360), a seam or a guy line by the port that sent the token and its sequence number, a slice's request of the LLC, or nobody. -/
inductive Agent where
  | thread (t : ThreadId)
  | gen (place port elem : Nat)
  | ring (io port : Nat)
  | line (die core line : Nat)
  | seam (n : Node) (code seq : Nat)
  | guy (n : Node) (asid route seq : Nat)
  | slice (no : Nat)
  /-- a memory node, for the accesses of its firing -/
  | node (n : Node)
  | unit
  deriving DecidableEq, Repr

/-- What the source endpoint tells of a message's traffic (R26). -/
inductive Traffic where
  | request | response | control
  deriving DecidableEq, Repr

/-- A message handed to an encoder (R26, R27): its endpoints (R25), or with `dev` the device IDs of a Brosum message, its
traffic, its place in its stream (R47), the bytes, and the agent whose request it carries or answers. -/
structure Msg where
  src : BitVec 12
  dst : BitVec 12
  dev : Bool
  traffic : Traffic
  seq : BitVec 16
  body : List Byte
  who : Agent
  deriving DecidableEq, Repr

/-- A message as its destination knows it (R33). A Brosum message is one of the port group of the I/O die `io`, whose
source and destination are devices (R24, R25). -/
structure MsgKey where
  net : Nat
  src : Nat
  dst : Nat
  msgid : Nat
  io : Nat
  deriving DecidableEq, Repr

/-- What the wire does to a flit of a fragment: the bits it turns, of the 256 and of the 32 of its CRC (R31). -/
structure WireErr where
  flit : Nat
  mask : BitVec 288
  deriving DecidableEq, Repr

/-- The four ring operations and their operands (R98): block address and count or position, and the scope that
tags the operation. -/
inductive RingOp where
  | claim (block n scope : Nat)
  | commit (block pos scope : Nat)
  | wait (block n scope : Nat)
  | retire (block pos scope : Nat)
  deriving DecidableEq, Repr

/-- What the network or the memory reports to a scalar thread (R314-R317). -/
inductive MemReport where
  /-- the access in flight at the thread's pc is answered -/
  | value
  /-- store-buffer entry `i` is performed and acknowledged -/
  | stored (i : Nat)
  /-- store-buffer entry `i` met an uncorrectable error on a line filled for a write -/
  | storeUncorrectable (i : Nat)
  /-- the write of entry `i` or its acknowledgement is lost; `performed` tells whether the write took place -/
  | storeLost (i : Nat) (performed : Bool) (msg : MsgKey) (cls bitmap : Nat) (timer : Bool)
  /-- the load at the pc met an uncorrectable error -/
  | uncorrectable
  /-- the message of the load or atomic at the pc is lost; `performed` matters for an atomic (R317) -/
  | lost (performed : Bool) (msg : MsgKey) (cls bitmap : Nat) (timer : Bool)
  deriving DecidableEq, Repr

/-- The instructions and steps of the Ulimin. (PRESUMED, assumption 120.) -/
inductive Instr where
  /-- ADD (R304). Integer add. -/
  | add (d : Reg) (a : Reg) (b : Reg) (w : Bool)
  /-- SUB (R304). Integer subtract. -/
  | sub (d : Reg) (a : Reg) (b : Reg) (w : Bool)
  /-- AND (R304). Bitwise and. -/
  | and (d : Reg) (a : Reg) (b : Reg) (w : Bool)
  /-- OR (R304). Bitwise or. -/
  | or (d : Reg) (a : Reg) (b : Reg) (w : Bool)
  /-- XOR (R304). Bitwise exclusive or. -/
  | xor (d : Reg) (a : Reg) (b : Reg) (w : Bool)
  /-- SHL (R304). Shift left. -/
  | shl (d : Reg) (a : Reg) (b : Reg) (w : Bool)
  /-- SHR (R304). Logical shift right. -/
  | shr (d : Reg) (a : Reg) (b : Reg) (w : Bool)
  /-- SRA (R304). Arithmetic shift right. -/
  | sra (d : Reg) (a : Reg) (b : Reg) (w : Bool)
  /-- MUL (R304). Low half of a product. -/
  | mul (d : Reg) (a : Reg) (b : Reg) (w : Bool)
  /-- MULH (R304). High half of a signed product. -/
  | mulh (d : Reg) (a : Reg) (b : Reg) (w : Bool)
  /-- MULHU (R304). High half of an unsigned product. -/
  | mulhu (d : Reg) (a : Reg) (b : Reg) (w : Bool)
  /-- DIV (R305). Signed division with defined results for the special cases. -/
  | div (d : Reg) (a : Reg) (b : Reg) (w : Bool)
  /-- DIVU (R305). Unsigned division. -/
  | divu (d : Reg) (a : Reg) (b : Reg) (w : Bool)
  /-- REM (R305). Signed remainder. -/
  | rem (d : Reg) (a : Reg) (b : Reg) (w : Bool)
  /-- REMU (R305). Unsigned remainder. -/
  | remu (d : Reg) (a : Reg) (b : Reg) (w : Bool)
  /-- MIN (R304). Signed minimum. -/
  | min (d : Reg) (a : Reg) (b : Reg) (w : Bool)
  /-- MAX (R304). Signed maximum. -/
  | max (d : Reg) (a : Reg) (b : Reg) (w : Bool)
  /-- MINU (R304). Unsigned minimum. -/
  | minu (d : Reg) (a : Reg) (b : Reg) (w : Bool)
  /-- MAXU (R304). Unsigned maximum. -/
  | maxu (d : Reg) (a : Reg) (b : Reg) (w : Bool)
  /-- SLT (R304). Set if less than, signed. -/
  | slt (d : Reg) (a : Reg) (b : Reg) (w : Bool)
  /-- SLTU (R304). Set if less than, unsigned. -/
  | sltu (d : Reg) (a : Reg) (b : Reg) (w : Bool)
  /-- CLZ (R304). Count leading zeros. -/
  | clz (d : Reg) (a : Reg) (w : Bool)
  /-- CTZ (R304). Count trailing zeros. -/
  | ctz (d : Reg) (a : Reg) (w : Bool)
  /-- POPC (R304). Population count. -/
  | popc (d : Reg) (a : Reg) (w : Bool)
  /-- BSWAP (R304). Byte reversal. -/
  | bswap (d : Reg) (a : Reg) (w : Bool)
  /-- CRCW (R306). Advance a CRC-32C over 8-64 bits of gb. -/
  | crcw (d : Reg) (a : Reg) (b : Reg) (sc : BitVec 2)
  /-- ADDI (R307). Add a sign-extended immediate. -/
  | addi (d : Reg) (a : Reg) (imm : BitVec 16)
  /-- ANDI (R307). And with a zero-extended immediate. -/
  | andi (d : Reg) (a : Reg) (imm : BitVec 16)
  /-- ORI (R307). Or with a zero-extended immediate. -/
  | ori (d : Reg) (a : Reg) (imm : BitVec 16)
  /-- XORI (R307). Exclusive or with a zero-extended immediate. -/
  | xori (d : Reg) (a : Reg) (imm : BitVec 16)
  /-- SHLI (R307). Shift left by an immediate. -/
  | shli (d : Reg) (a : Reg) (imm : BitVec 6)
  /-- SHRI (R307). Logical shift right by an immediate. -/
  | shri (d : Reg) (a : Reg) (imm : BitVec 6)
  /-- SRAI (R307). Arithmetic shift right by an immediate. -/
  | srai (d : Reg) (a : Reg) (imm : BitVec 6)
  /-- SLTI (R307). Set if less than an immediate, signed. -/
  | slti (d : Reg) (a : Reg) (imm : BitVec 16)
  /-- SLTUI (R307). Set if less than an immediate, unsigned. -/
  | sltui (d : Reg) (a : Reg) (imm : BitVec 16)
  /-- LIH (R307). Load an immediate into bits 31:16, sign-extended. -/
  | lih (d : Reg) (imm : BitVec 16)
  /-- FADD (R309). Floating add, rounded once. -/
  | fadd (d : Reg) (a : Reg) (b : Reg) (rs : BitVec 3) (p : Bool)
  /-- FSUB (R309). Floating subtract. -/
  | fsub (d : Reg) (a : Reg) (b : Reg) (rs : BitVec 3) (p : Bool)
  /-- FMUL (R309). Floating multiply. -/
  | fmul (d : Reg) (a : Reg) (b : Reg) (rs : BitVec 3) (p : Bool)
  /-- FDIV (R309). Floating divide. -/
  | fdiv (d : Reg) (a : Reg) (b : Reg) (rs : BitVec 3) (p : Bool)
  /-- FSQRT (R309). Floating square root. -/
  | fsqrt (d : Reg) (a : Reg) (rs : BitVec 3) (p : Bool)
  /-- FMAC (R309). Fused multiply-add into gd with one rounding. -/
  | fmac (d : Reg) (a : Reg) (b : Reg) (rs : BitVec 3) (p : Bool)
  /-- FMIN (R310). Floating minimum. -/
  | fmin (d : Reg) (a : Reg) (b : Reg) (p : Bool)
  /-- FMAX (R310). Floating maximum. -/
  | fmax (d : Reg) (a : Reg) (b : Reg) (p : Bool)
  /-- FEQ (R310). Floating equality test. -/
  | feq (d : Reg) (a : Reg) (b : Reg) (p : Bool)
  /-- FLT (R310). Floating less-than test. -/
  | flt (d : Reg) (a : Reg) (b : Reg) (p : Bool)
  /-- FLE (R310). Floating less-or-equal test. -/
  | fle (d : Reg) (a : Reg) (b : Reg) (p : Bool)
  /-- FCVT (R311). Conversion between binary32, binary64 and 64-bit integers, chosen by the conversion code. -/
  | fcvt (d : Reg) (a : Reg) (code : BitVec 5) (rs : BitVec 3)
  /-- FCLASS (R310). Classify a floating value. -/
  | fclass (d : Reg) (a : Reg) (p : Bool)
  /-- LDB (R312). Load a byte, sign-extended. -/
  | ldb (d : Reg) (a : Reg) (imm : BitVec 16)
  /-- LDBU (R312). Load a byte, zero-extended. -/
  | ldbu (d : Reg) (a : Reg) (imm : BitVec 16)
  /-- LDH (R312). Load a halfword, sign-extended. -/
  | ldh (d : Reg) (a : Reg) (imm : BitVec 16)
  /-- LDHU (R312). Load a halfword, zero-extended. -/
  | ldhu (d : Reg) (a : Reg) (imm : BitVec 16)
  /-- LDW (R312). Load a word, sign-extended. -/
  | ldw (d : Reg) (a : Reg) (imm : BitVec 16)
  /-- LDWU (R312). Load a word, zero-extended. -/
  | ldwu (d : Reg) (a : Reg) (imm : BitVec 16)
  /-- LDD (R312). Load a doubleword. -/
  | ldd (d : Reg) (a : Reg) (imm : BitVec 16)
  /-- STB (R312). Store a byte into the store buffer. -/
  | stb (d : Reg) (a : Reg) (imm : BitVec 16)
  /-- STH (R312). Store a halfword. -/
  | sth (d : Reg) (a : Reg) (imm : BitVec 16)
  /-- STW (R312). Store a word. -/
  | stw (d : Reg) (a : Reg) (imm : BitVec 16)
  /-- STD (R312). Store a doubleword. -/
  | std (d : Reg) (a : Reg) (imm : BitVec 16)
  /-- LDA (R315). Acquire load at a scope. -/
  | lda (d : Reg) (a : Reg) (sc : BitVec 3) (u : Bool) (w : BitVec 2)
  /-- STL (R315). Release store at a scope. -/
  | stl (a : Reg) (b : Reg) (sc : BitVec 3) (w : BitVec 2)
  /-- AMOADD (R316). Atomic add. -/
  | amoadd (d : Reg) (a : Reg) (b : Reg) (sc : BitVec 3) (w : Bool)
  /-- AMOSWAP (R316). Atomic swap. -/
  | amoswap (d : Reg) (a : Reg) (b : Reg) (sc : BitVec 3) (w : Bool)
  /-- AMOCAS (R316). Atomic compare and swap. -/
  | amocas (d : Reg) (a : Reg) (b : Reg) (sc : BitVec 3) (w : Bool)
  /-- AMOMIN (R316). Atomic minimum. -/
  | amomin (d : Reg) (a : Reg) (b : Reg) (sc : BitVec 3) (u : Bool) (w : Bool)
  /-- AMOMAX (R316). Atomic maximum. -/
  | amomax (d : Reg) (a : Reg) (b : Reg) (sc : BitVec 3) (u : Bool) (w : Bool)
  /-- AMOAND (R316). Atomic and. -/
  | amoand (d : Reg) (a : Reg) (b : Reg) (sc : BitVec 3) (w : Bool)
  /-- AMOOR (R316). Atomic or. -/
  | amoor (d : Reg) (a : Reg) (b : Reg) (sc : BitVec 3) (w : Bool)
  /-- AMOXOR (R316). Atomic exclusive or. -/
  | amoxor (d : Reg) (a : Reg) (b : Reg) (sc : BitVec 3) (w : Bool)
  /-- BEQ (R319). Branch if equal. -/
  | beq (a : Reg) (b : Reg) (imm : BitVec 16)
  /-- BNE (R319). Branch if not equal. -/
  | bne (a : Reg) (b : Reg) (imm : BitVec 16)
  /-- BLT (R319). Branch if less than, signed. -/
  | blt (a : Reg) (b : Reg) (imm : BitVec 16)
  /-- BGE (R319). Branch if greater or equal, signed. -/
  | bge (a : Reg) (b : Reg) (imm : BitVec 16)
  /-- BLTU (R319). Branch if less than, unsigned. -/
  | bltu (a : Reg) (b : Reg) (imm : BitVec 16)
  /-- BGEU (R319). Branch if greater or equal, unsigned. -/
  | bgeu (a : Reg) (b : Reg) (imm : BitVec 16)
  /-- JMP (R320). Jump relative. -/
  | jmp (imm : BitVec 26)
  /-- JAL (R320). Jump relative and link in g31. -/
  | jal (imm : BitVec 26)
  /-- JALR (R320). Jump to a register plus offset and link. -/
  | jalr (d : Reg) (a : Reg) (imm : BitVec 16)
  /-- FENCE (R324). Order earlier accesses before later ones at a scope. -/
  | fence (sc : BitVec 3)
  /-- BARINIT (R105). Initialise a barrier's count, scope and phase. -/
  | barinit (d : Reg) (a : Reg) (b : Reg)
  /-- BARARR (R105). Arrive at a barrier as a release; may complete the phase and wake waiters. -/
  | bararr (d : Reg) (a : Reg)
  /-- BARWAIT (R105). Wait until a barrier's phase changes, as an acquire. -/
  | barwait (d : Reg) (a : Reg) (b : Reg)
  /-- WFE (R326). Wait for the thread's event flag. -/
  | wfe
  /-- KSET (R327). Write one half of a command register. -/
  | kset (a : Reg) (kx : BitVec 3) (p : Bool)
  /-- KMOV (R327). Copy a command register. -/
  | kmov (kx : BitVec 3) (ky : BitVec 3)
  /-- KLD (R327). Load a command register from memory. -/
  | kld (a : Reg) (kx : BitVec 3)
  /-- SCMD (R328). Check a stream command, test its scope and queue it on its port. -/
  | scmd (d : Reg) (kx : BitVec 3)
  /-- PSTAT (R329). Return a region port's status word. -/
  | pstat (d : Reg) (a : Reg)
  /-- FLOAD (R330). Load a catalogue routine into a context slot of the region. -/
  | fload (d : Reg) (a : Reg) (p : BitVec 2)
  /-- FSEL (R331). Select the context slot to switch to at the next segment end. -/
  | fsel (p : BitVec 2)
  /-- FSEAM (R332). Stitch or unstitch a seam between cores of the region. -/
  | fseam (d : Reg) (a : Reg) (p : Bool)
  /-- LAUNCH (R69). Read a launch record and create a task-graph entry, as a release at PACKAGE. -/
  | launch (d : Reg) (a : Reg)
  /-- LWAIT (R322). Wait for a launch's completion record and reap its entry. -/
  | lwait (d : Reg) (a : Reg)
  /-- DQPUSH (R92). Append an entry at the tail of the thread's deque, spilling if needed. -/
  | dqpush (d : Reg) (a : Reg) (b : Reg)
  /-- DQPOP (R93). Take the entry at the tail of the thread's own deque, discarding cancelled entries. -/
  | dqpop (d : Reg)
  /-- DQSTEAL (R94). Send a steal request to the head of a named or chosen victim's deque. -/
  | dqsteal (d : Reg) (a : Reg)
  /-- RCLAIM (R98). Claim n granules of a ring. -/
  | rclaim (d : Reg) (a : Reg) (b : Reg)
  /-- RCOMMIT (R98). Commit a ring claim as a release. -/
  | rcommit (d : Reg) (a : Reg) (b : Reg)
  /-- RWAIT (R99). Reserve up to n committed granules of a ring. -/
  | rwait (d : Reg) (a : Reg) (b : Reg)
  /-- RRETIRE (R98). Retire a ring reservation as a release. -/
  | rretire (d : Reg) (a : Reg) (b : Reg)
  /-- SCOPEN (R107). Create a live child of the current cancel scope. -/
  | scopen (d : Reg)
  /-- SCCLOSE (R107). Free a cancel scope with no work left. -/
  | scclose (d : Reg) (a : Reg)
  /-- SCSET (R107). Set the thread's current scope. -/
  | scset (d : Reg) (a : Reg)
  /-- CANCEL (R108). Cancel a scope subtree at the kill point and return a ticket. -/
  | cancel (d : Reg) (a : Reg) (b : Reg)
  /-- CWAIT (R111). Wait until a cancellation ticket is acknowledged. -/
  | cwait (d : Reg) (a : Reg)
  /-- ERET (R337). Return from a handler to EPC. -/
  | eret
  /-- HALT (R339). End a control-core thread or park a system core. -/
  | halt
  /-- CACHE_CLEAN (R343). Write a dirty line back to the LLC. -/
  | cacheClean (a : Reg)
  /-- CACHE_CLEANINV (R343). Write back and invalidate a line. -/
  | cacheCleaninv (a : Reg)
  /-- CACHE_INV (R343). Invalidate a line, discarding dirty data. -/
  | cacheInv (a : Reg)
  /-- CACHE_BLOCKINV (R343). Clean and invalidate a 128 KiB block and drop its decoded tiles. -/
  | cacheBlockinv (a : Reg)
  /-- TLBINV_PAGE (R344). Drop the translation of one page for an ASID. -/
  | tlbinvPage (a : Reg) (b : Reg)
  /-- TLBINV_ASID (R344). Drop every non-global translation of an ASID. -/
  | tlbinvAsid (a : Reg) (b : Reg)
  /-- TLBINV_ALL (R344). Drop every translation of every ASID. -/
  | tlbinvAll (a : Reg) (b : Reg)
  /-- SWAPP (R345). Start the plane swap of R66 for a partition. -/
  | swapp (d : Reg) (a : Reg)
  /-- SYSRD (R340). Read a system register. -/
  | sysrd (g : Reg) (num : BitVec 16)
  /-- SYSWR (R340). Write a system register. -/
  | syswr (g : Reg) (num : BitVec 16)
  /-- TRAP (R338). Take the TRAPI trap with num16 in EVAL. -/
  | trap (num : BitVec 16)
  /-- LOAD (R356). Read a pattern of elements and send them as one segment. -/
  | cmdLoad (p : PortRef) (f : CmdF)
  /-- STORE (R356). Consume one segment and write its elements by the pattern. -/
  | cmdStore (p : PortRef) (f : CmdF)
  /-- COPY (R357). Copy pattern elements to a contiguous destination. -/
  | cmdCopy (p : PortRef) (f : CmdF)
  /-- GATHER (R358). Read elements at indexed addresses and send a segment. -/
  | cmdGather (p : PortRef) (f : CmdF)
  /-- SCATTER (R358). Write segment elements at indexed addresses. -/
  | cmdScatter (p : PortRef) (f : CmdF)
  /-- REDUCE (R359). Combine arriving elements into memory. -/
  | cmdReduce (p : PortRef) (f : CmdF)
  /-- MCAST (R360). Read lines once and multicast them to named cores. -/
  | cmdMcast (p : PortRef) (f : CmdF)
  /-- FILL (R357). Write a value to every pattern element. -/
  | cmdFill (p : PortRef) (f : CmdF)
  /-- PSET (R351). Write one half of a pattern slot. -/
  | cmdPset (p : PortRef) (f : CmdF)
  /-- INJECT (R362). Send raw tokens of a given kind from memory. -/
  | cmdInject (p : PortRef) (f : CmdF)
  /-- SYNC (R363). End after the thread's earlier commands end and their writes are performed. -/
  | cmdSync (p : PortRef) (f : CmdF)
  /-- RECORD (R365). Log admitted tokens or node results as 96-byte entries. -/
  | cmdRecord (p : PortRef) (f : CmdF)
  /-- REPLAY (R365). Feed logged entries back in place of reads. -/
  | cmdReplay (p : PortRef) (f : CmdF)
  /-- XPUT (R361). Write a segment into a remote device's memory over Brosum. -/
  | cmdXput (p : PortRef) (f : CmdF)
  /-- XGET (R361). Read from a remote device's memory and send a segment. -/
  | cmdXget (p : PortRef) (f : CmdF)
  /-- CREDUCE (R359). Combine arriving elements into a remote device's memory. -/
  | cmdCreduce (p : PortRef) (f : CmdF)
  /-- PREFETCH (R364). Allocate the pattern's lines in their slices. -/
  | cmdPrefetch (p : PortRef) (f : CmdF)
  /-- FLUSH (R364). Write back, and optionally invalidate, the pattern's lines. -/
  | cmdFlush (p : PortRef) (f : CmdF)
  /-- CELL_ADD (R372). Element-wise add firing. -/
  | cellAdd (n : Node) (w : CellF)
  /-- CELL_SUB (R372). Element-wise subtract firing. -/
  | cellSub (n : Node) (w : CellF)
  /-- CELL_MUL (R372). Element-wise multiply firing. -/
  | cellMul (n : Node) (w : CellF)
  /-- CELL_MAC (R372). Element-wise multiply-add with one rounding. -/
  | cellMac (n : Node) (w : CellF)
  /-- CELL_MIN (R374). Element-wise minimum. -/
  | cellMin (n : Node) (w : CellF)
  /-- CELL_MAX (R374). Element-wise maximum. -/
  | cellMax (n : Node) (w : CellF)
  /-- CELL_ABS (R374). Element-wise absolute value. -/
  | cellAbs (n : Node) (w : CellF)
  /-- CELL_NEG (R374). Element-wise negation. -/
  | cellNeg (n : Node) (w : CellF)
  /-- CELL_CMP (R375). Element-wise comparison giving all-ones or zero. -/
  | cellCmp (n : Node) (w : CellF)
  /-- CELL_SEL (R375). Element-wise select by input c. -/
  | cellSel (n : Node) (w : CellF)
  /-- CELL_AND (R376). Bitwise and of elements. -/
  | cellAnd (n : Node) (w : CellF)
  /-- CELL_OR (R376). Bitwise or of elements. -/
  | cellOr (n : Node) (w : CellF)
  /-- CELL_XOR (R376). Bitwise exclusive or of elements. -/
  | cellXor (n : Node) (w : CellF)
  /-- CELL_NOT (R376). Bitwise not of elements. -/
  | cellNot (n : Node) (w : CellF)
  /-- CELL_SHL (R376). Element-wise shift left. -/
  | cellShl (n : Node) (w : CellF)
  /-- CELL_SHR (R376). Element-wise logical shift right. -/
  | cellShr (n : Node) (w : CellF)
  /-- CELL_SRA (R376). Element-wise arithmetic shift right. -/
  | cellSra (n : Node) (w : CellF)
  /-- CELL_RCP (R377). Element-wise reciprocal. -/
  | cellRcp (n : Node) (w : CellF)
  /-- CELL_RSQ (R377). Element-wise reciprocal square root. -/
  | cellRsq (n : Node) (w : CellF)
  /-- CELL_SQRT (R377). Element-wise square root. -/
  | cellSqrt (n : Node) (w : CellF)
  /-- CELL_EXP2 (R377). Element-wise power of two. -/
  | cellExp2 (n : Node) (w : CellF)
  /-- CELL_LOG2 (R377). Element-wise base-2 logarithm. -/
  | cellLog2 (n : Node) (w : CellF)
  /-- CELL_TANH (R377). Element-wise hyperbolic tangent. -/
  | cellTanh (n : Node) (w : CellF)
  /-- CELL_SIG (R377). Element-wise sigmoid. -/
  | cellSig (n : Node) (w : CellF)
  /-- CELL_CVT (R378). Convert elements to the target format, gathering or widening. -/
  | cellCvt (n : Node) (w : CellF)
  /-- CELL_SCALE (R380). Apply block and tile scales, giving unscaled elements. -/
  | cellScale (n : Node) (w : CellF)
  /-- CELL_RSUM (R381). Sum the live elements of a beat exactly. -/
  | cellRsum (n : Node) (w : CellF)
  /-- CELL_RMAX (R381). Greatest live element of a beat. -/
  | cellRmax (n : Node) (w : CellF)
  /-- CELL_ACC (R382). Accumulate beats lane by lane and emit on LAST or EOT. -/
  | cellAcc (n : Node) (w : CellF)
  /-- CELL_PERM (R383). Permute 32-bit containers by an index beat. -/
  | cellPerm (n : Node) (w : CellF)
  /-- CELL_BCAST (R384). Broadcast one element to a whole beat. -/
  | cellBcast (n : Node) (w : CellF)
  /-- CELL_PACK (R379). Convert two beats into one of half width. -/
  | cellPack (n : Node) (w : CellF)
  /-- CELL_UNPACK (R379). Convert half a beat to twice its width. -/
  | cellUnpack (n : Node) (w : CellF)
  /-- CELL_CONST (R384). Send a constant beat per trigger. -/
  | cellConst (n : Node) (w : CellF)
  /-- CELL_PASS (R384). Send input a unchanged. -/
  | cellPass (n : Node) (w : CellF)
  /-- CELL_FILTER (R390). Compact lanes into two arms by a predicate, with an index stream. -/
  | cellFilter (n : Node) (w : CellF)
  /-- CELL_LOOP (R392). Run a windowed loop, confirming or squashing iterations. -/
  | cellLoop (n : Node) (w : CellF)
  /-- CELL_COUNT (R391). Send counter IDX tokens with LAST. -/
  | cellCount (n : Node) (w : CellF)
  /-- CELL_LD (R396). Memory node load per lane, ordered by ORD. -/
  | cellLd (n : Node) (w : CellF)
  /-- CELL_ST (R397). Memory node store per lane. -/
  | cellSt (n : Node) (w : CellF)
  /-- CELL_AT (R398). Memory node atomic per lane. -/
  | cellAt (n : Node) (w : CellF)
  /-- CELL_LDA (R396). Memory node acquire load. -/
  | cellLda (n : Node) (w : CellF)
  /-- CELL_STL (R397). Memory node release store. -/
  | cellStl (n : Node) (w : CellF)
  /-- CELL_FORK (R399). Copy one ORD token to branches. -/
  | cellFork (n : Node) (w : CellF)
  /-- CELL_JOIN (R399). Send one ORD or DONE once every input holds one. -/
  | cellJoin (n : Node) (w : CellF)
  /-- CELL_FENCE (R400). Fire on trigger and DONE inputs and emit ORD. -/
  | cellFence (n : Node) (w : CellF)
  /-- CELL_AGEN (R403). Scratchpad write or read of a memory-tile row. -/
  | cellAgen (n : Node) (w : CellF)
  /-- CELL_BUF (R401). Memory tile in BUF mode writes or reads a buffer. -/
  | cellBuf (n : Node) (w : CellF)
  /-- CELL_FIFO (R401). Memory tile in FIFO mode enqueues or dequeues a beat. -/
  | cellFifo (n : Node) (w : CellF)
  /-- CELL_LINEBUF (R402). Line buffer appends rows or reads an indexed row. -/
  | cellLinebuf (n : Node) (w : CellF)
  /-- CELL_SPORT (R404). Two-way port FIFO transfer. -/
  | cellSport (n : Node) (w : CellF)
  /-- CELL_MSEQ (R405). Send an MMA control token, and MDRAIN on LAST. -/
  | cellMseq (n : Node) (w : CellF)
  /-- MMA (R193). The matrix node multiplies K/16 slab groups into the active accumulator. -/
  | mma (n : Node) (c : CtrlF)
  /-- MZERO (R406). Zero the active accumulator buffer. -/
  | mzero (n : Node) (c : CtrlF)
  /-- MDRAIN (R169). Swap the accumulator buffers and drain the old one as a segment. -/
  | mdrain (n : Node) (c : CtrlF)
  /-- CELL_HDRGEN (R407). Rewrite HDR fields from constant slots. -/
  | cellHdrgen (n : Node) (w : CellF)
  /-- CELL_MARKIN (R408). Insert reference markers into a stream. -/
  | cellMarkin (n : Node) (w : CellF)
  /-- CELL_FLAGS (R409). Send a flag segment at each EOT. -/
  | cellFlags (n : Node) (w : CellF)
  /-- CELL_SEGIN (R410). Split a segment at LAST. -/
  | cellSegin (n : Node) (w : CellF)
  /-- CELL_PITCH (R411). Request one instance of a routine per record and return its results. -/
  | cellPitch (n : Node) (w : CellF)
  /-- CELL_PITCHG (R411). Request a gang of 2-4 instances per record. -/
  | cellPitchg (n : Node) (w : CellF)
  /-- CELL_ARGP (R412). Deliver an argument line into the instance. -/
  | cellArgp (n : Node) (w : CellF)
  /-- CELL_STRIKE (R412). Send results on result lines and release the footprint at EOT. -/
  | cellStrike (n : Node) (w : CellF)
  /-- ROP_STEER (R389). Send data to T or F by a predicate. -/
  | ropSteer (n : Node) (w : RopF)
  /-- ROP_MERGE (R389). Take the next token from the input a control token names. -/
  | ropMerge (n : Node) (w : RopF)
  /-- ROP_CARRY (R389). Loop-carry a value between the initial and back-edge inputs. -/
  | ropCarry (n : Node) (w : RopF)
  /-- ROP_INVAR (R389). Repeat a held value per control token until LAST. -/
  | ropInvar (n : Node) (w : RopF)
  /-- ROP_ORDMERGE (R162). Rebuild lane order from two arms and an index beat. -/
  | ropOrdmerge (n : Node) (w : RopF)
  /-- ROP_GATE (R389). Pass or discard data by a control token. -/
  | ropGate (n : Node) (w : RopF)
  /-- POWER_ON_RESET (R49). Reset releases system core 0 of IO0 into the boot ROM while the other 31 system cores wait. -/
  | powerOnReset
  /-- BOOT_LINK_TIMEOUT (R49). No Ethernet link comes up within 5 s, so the boot attempt fails with CAUSE 1. -/
  | bootLinkTimeout
  /-- BOOT_DHCP_OFFER (R49). A DHCPv4 or DHCPv6 offer naming a boot file arrives, and the ROM starts the fetch. -/
  | bootDhcpOffer (http : Bool)
  /-- BOOT_DHCP_TIMEOUT (R49). No usable DHCP offer arrives within 8 s, so the attempt fails with CAUSE 2. -/
  | bootDhcpTimeout
  /-- BOOT_IMAGE_FETCHED (R51). The boot file transfer ends; the ROM checks the image, copies it to boot SRAM and jumps to ENTRY, or fails with a cause. -/
  | bootImageFetched (ok : Bool) (img : List Byte)
  /-- BOOT_RETRY_TIMER (R49). The retry delay after a failed boot attempt expires, and the ROM retries on IO0 or IO1. -/
  | bootRetryTimer
  /-- CORE_RAIL_UNDERVOLT (R17). A core rail falls below 0.34 V; its fabric die is held in reset and its partitions fault. -/
  | coreRailUndervolt (die : Nat)
  /-- POWER_SAMPLE (R18). The 10 us power-controller sample updates PWRSTAT and raises or lowers the throttle factor f. -/
  | powerSample (r : Sample)
  /-- PWRCAP_WRITE (R19). A write to PWRCAP sets CAPW, IPEAK and LOCK with clamping, ignored while LOCK is 1, applied at the next sample. -/
  | pwrcapWrite (v : Word)
  /-- THERMAL_TRIP (R21). A junction reaches 115 C; the core rails are removed, all partitions lose state and THERMTRIP latches. -/
  | thermalTrip (hot : BitVec 4) (temp : BitVec 16)
  /-- RAIL_SET_FRAME (R22). The package sends a 24-bit rail-set frame for one die over RCTLCK and RCTLDA. -/
  | railSetFrame (die : BitVec 3) (code : Byte)
  /-- RAIL_FRAME_REPEAT (R22). 2 us after the first copy, the package sends the second copy of the rail-set frame. -/
  | railFrameRepeat
  /-- BROSUM_PORT_TRAIN (R12). A Brosum port trains to 8 or 4 lanes, exchanges capability words and joins the spray set at the next message ID, or stays down. -/
  | brosumPortTrain (p lanes : Nat) (cap : Word)
  /-- BROSUM_PORT_DOWN (R13). A Brosum port goes down during traffic; its fragments in flight become erasures and it leaves the spray set. -/
  | brosumPortDown (p : Nat)
  /-- PCIE_LINK_TRAIN (R15). An enabled PCIe endpoint trains to the highest common speed and width. -/
  | pcieLinkTrain (io gen width : Nat)
  /-- MESSAGE_ENCODE (R29). An endpoint cuts a message into k data and m parity fragments and sends them on the enabled planes or spray-set members. -/
  | messageEncode (m : Msg)
  /-- FRAGMENT_ARRIVE (R33). A fragment arrives whole; it is CRC- and header-checked, then joins or opens a decode slot or is dropped as late or stale. -/
  | fragmentArrive (i plane : Nat) (errs : List WireErr)
  /-- MESSAGE_DELIVER (R34). A slot holding k valid fragments delivers its message, repaired if needed, and closes. -/
  | messageDeliver (k : MsgKey)
  /-- INGRESS_SLOT_ADMIT (R35). A fragment waiting in a plane ingress buffer opens a decode slot once one frees. -/
  | ingressSlotAdmit (i : Nat)
  /-- DECODE_TIMEOUT (R36). A decode slot still short of k fragments at its timeout is closed, the message is declared lost and a loss notice is sent. -/
  | decodeTimeout (k : MsgKey)
  /-- LOSS_NOTICE_RECEIVE (R37). A CTRL loss notice reaches the source; a Brosum message is retransmitted once, otherwise NET_LOSS is raised at the requester. -/
  | lossNoticeReceive (i : Nat)
  /-- RESPONSE_TIMER_EXPIRE (R37). A requester's response timer expires with no response, so NET_LOSS is raised with the TIMER bit set. -/
  | responseTimerExpire (i : Nat)
  /-- SPRCODE_WRITE (R40). A write to SPRCODE sets the code and plane mask of one network and class, or is refused whole with ERR set. -/
  | sprcodeWrite (io idx : Nat) (v : Word)
  /-- SPRCODE_ERR_CLEAR (R40). A write to SPRCODE with ERR = 1 clears ERR and changes nothing else. -/
  | sprcodeErrClear (io idx : Nat)
  /-- SPRCNT_WRITE (R42). A write to an SPRCNT register clears its counters. -/
  | sprcntWrite (idx : Nat)
  /-- BROSUM_ACK_SEND (R43). After 64 messages or 1024 cycles, the receiving port group sends a cumulative acknowledgement. -/
  | brosumAckSend (dst : GroupEnd) (src : Nat)
  /-- BROSUM_ACK_RECEIVE (R43). A cumulative acknowledgement frees the retain copies it names. -/
  | brosumAckReceive (i : Nat)
  /-- BROSUM_RETAIN_TIMEOUT (R44). A retained message is neither acknowledged nor loss-notified within twice the decode timeout; it is retransmitted once, or NET_LOSS is raised. -/
  | brosumRetainTimeout (i : Nat)
  /-- OTP_REVOKE_BLOW (R52). A keyed OTPCTL write naming slot 0-3 blows that root slot's REVOKE fuse, unless all four slots would be revoked. -/
  | otpRevokeBlow (slot : BitVec 2)
  /-- OTP_SVN_BLOW (R52). A keyed OTPCTL write naming 64-127 blows one SVNFUSE bit and raises the security version floor. -/
  | otpSvnBlow (bit : BitVec 6)
  /-- ATTREQ_REPORT (R55). A write to ATTREQ snapshots the measurements and starts a signed attestation report, or sets ERR while BUSY. -/
  | attreqReport (v : Word)
  /-- ATTEST_REPORT_DONE (R55). The key block finishes writing the signed report, sets DONE and clears BUSY. -/
  | attestReportDone
  /-- ATTREQ_ERR_CLEAR (R55). A write to ATTREQ with ERR = 1 clears ERR and starts no report. -/
  | attreqErrClear
  /-- RPPUSH_WRITE (R57). A host write to RPPUSH asks ring port p to push N staged granules, or is refused. `hv` and `staged` are
  the writes of HOSTVER and of the staging that the host has posted ahead of it and that have not come before. -/
  | rppushWrite (io p : Nat) (v : Word) (hv : Option (BitVec 32)) (staged : List (Nat × List Byte))
  /-- UDP_HELLO (R58). A HELLO datagram arrives; the agent answers with the lower of the client version and 1. -/
  | udpHello (io : Nat) (mac : BitVec 48) (to_ : UdpAddr) (bytes : List Byte)
  /-- UDP_PUSH (R58). A PUSH datagram from the bound source asks for a push, or is acknowledged again from the last 64 SEQ values. -/
  | udpPush (io : Nat) (mac : BitVec 48) (addr : BitVec 128) (port : BitVec 16) (bytes : List Byte)
  /-- RING_AGENT_PUSH (R56). The ring agent performs one queued push as RCLAIM, copy and RCOMMIT under the port's scope and reports its status. -/
  | ringAgentPush (io p : Nat)
  /-- RPBIND2_WRITE (R342). A write to RPBIND2 applies all three binding registers of the selected ring port at once. -/
  | rpbind2Write (io : Nat) (v : Word)
  /-- PARTCMD_CREATE (R65). PARTCMD CREATE builds a partition from its record and loads its catalogue, or reports BADREC, NOASID, FULL or CONFLICT. -/
  | partcmdCreate (v : Word)
  /-- PARTCMD_DESTROY (R65). PARTCMD DESTROY discards all state of the partition and frees its ASID. -/
  | partcmdDestroy (v : Word)
  /-- PARTCMD_HALT (R83). PARTCMD HALT moves a RUNNING partition to HALTING and stops admission, dispatch and threads. -/
  | partcmdHalt (v : Word)
  /-- PARTCMD_RESUME (R83). PARTCMD RESUME restarts a HALTED partition from where it stopped. -/
  | partcmdResume (v : Word)
  /-- PARTCMD_DRAIN (R65). PARTCMD DRAIN starts a background copy of a STORED partition's planes to its save area. -/
  | partcmdDrain (v : Word)
  /-- PARTCMD_FILL (R65). PARTCMD FILL, in two writes, loads a DRAINED partition into free storeroom planes. -/
  | partcmdFill (v : Word)
  /-- PARTCMD_ERR_CLEAR (R64). A write to PARTCMD with ERR = 1 clears ERR and starts no command. -/
  | partcmdErrClear
  /-- PARTITION_COPY_DONE (R65). A DRAIN or FILL background copy ends; the state changes and BUSY clears. -/
  | partitionCopyDone
  /-- PARTITION_HALTED (R83). A HALTING partition becomes HALTED once every halt condition holds and nothing is outstanding. -/
  | partitionHalted (asid : Nat)
  /-- SWAP_PLANES_DONE (R66). 875 cycles after acceptance, a SWAPP exchange of the swap set completes. -/
  | swapPlanesDone (t : ThreadId)
  /-- LAUNCH_COMPLETE (R73). A running launch meets its three completion conditions; its record is written, its region returned and successor edges evaluated. -/
  | launchComplete (asid slot : Nat)
  /-- LAUNCH_AGING (R75). A READY launch's wait passes another 4096 cycles, and it moves to the tail of the next higher queue. -/
  | launchAging (asid slot : Nat)
  /-- DISPATCH (R76). Each cycle the dispatcher asks the Curator for a free region for the highest unblocked head and starts its folio load. -/
  | dispatch (asid : Nat)
  /-- HEAD_BLOCK_LIMIT (R77). A queue head blocked for 16,384 cycles stops service of every lower queue until it is placed. -/
  | headBlockLimit (asid level : Nat)
  /-- FOLIO_POWER_READY (R79). A folio load's sites are powered and ready, so tokens may enter the region. -/
  | folioPowerReady (place : Nat)
  /-- BLOCK_SCHEDULE (R81). At a segment end, the block scheduler chooses the next resident block by PASS and WAIT. -/
  | blockSchedule (place : Nat)
  /-- CONTEXT_SWITCH (R82). Once the drain completes, the region switches to the chosen or selected configuration. -/
  | contextSwitch (place : Nat)
  /-- RGRATE_WRITE (R85). A write to RGRATE programs the rate limiter of one region input port. -/
  | rgrateWrite (place : Nat) (v : Word)
  /-- RATE_WINDOW (R85). A rate-limiter window ends, and the port's token allowance is renewed under the throttle factor. -/
  | rateWindow (place port : Nat)
  /-- DQEXT_WRITE (R90). A write to DQEXT sets the deque extension, clamped, or is ignored while the extension holds entries. -/
  | dqextWrite (asid die core : Nat) (v : Word)
  /-- STEAL_REQUEST (R95). A steal request reaches the victim deque, which removes the head entry and keeps a copy until acknowledgement. -/
  | stealRequest (t : ThreadId)
  /-- STEAL_RESPONSE (R95). The steal response reaches the thief, whose DQSTEAL returns the entry. -/
  | stealResponse (t : ThreadId)
  /-- STEAL_ACK (R95). The thief's acknowledgement reaches the victim, which frees its copy. -/
  | stealAck (no : Nat)
  /-- STEAL_COPY_TIMEOUT (R95). A steal copy has no acknowledgement or loss notice within four decode timeouts; it is written to a fault record and DEQUE_LOST is raised. -/
  | stealCopyTimeout (no : Nat)
  /-- RING_OP_AT_SLICE (R98). A ring operation reaches the control block's home slice and is granted, refused or left waiting. -/
  | ringOpAtSlice (asid : Nat) (op : RingOp) (who : Agent)
  /-- RING_WAIT_GRANT (R98). A waiting RCLAIM or RWAIT is granted in arrival order once its condition holds. -/
  | ringWaitGrant (asid block : Nat) (claims : Bool)
  /-- RING_REINIT (R97). A plain store to a registered control block reinitialises the ring; table entries are dropped and waiting operations return REFUSED. -/
  | ringReinit (asid block : Nat)
  /-- WAIT_DEADLOCK (R103). The census-silence count reaches 65,536; the supervisor takes WAIT_DEADLOCK with a census record. -/
  | waitDeadlock (asid : Nat)
  /-- CANCEL_ACKNOWLEDGE (R110). A cancellation quiesces; its record is written with a release and the ticket is acknowledged. -/
  | cancelAcknowledge (asid ticket : Nat)
  /-- CATCTL_LOAD (R121). A write to CATCTL starts a catalogue load for the partition, or sets ERR while BUSY. -/
  | catctlLoad (v : Word)
  /-- CATALOGUE_LOAD_DONE (R121). A catalogue load ends; on success the digest is replaced and the caches invalidated, otherwise RESULT and INDEX report the failure. -/
  | catalogueLoadDone
  /-- CATCTL_ERR_CLEAR (R122). A write to CATCTL with ERR = 1 clears ERR and starts no load. -/
  | catctlErrClear
  /-- CATALOGUE_FETCH_DONE (R123). A catalogue-cache miss fetch returns; the image is checked and used, or the request ends in FOLIO_INVALID. -/
  | catalogueFetchDone (asid die core routine : Nat)
  /-- CURATOR_SERVE_HEAD (R129). The Curator examines a queue head by the spiral search and grants, folds, stows, queues it or faults it. -/
  | curatorServeHead (asid core : Nat)
  /-- STOW_COPY_DONE (R131). Every stow copy of a request completes, and the callee is placed at the freed origins. -/
  | stowCopyDone (asid core : Nat)
  /-- STOWED_RESULT_ARRIVE (R133). A result token for a stowed instance is buffered in its stow record, and the first queues an unstow request. -/
  | stowedResultArrive (place : Nat) (k : Nat) (tok : Token)
  /-- UNSTOW_COPY_DONE (R133). An unstow copy completes, and the restored instance consumes its buffered results. -/
  | unstowCopyDone (place : Nat)
  /-- STOWCFG_WRITE (R134). A write to STOWCFG sets the stow area, or is ignored while any instance is stowed. -/
  | stowcfgWrite (asid : Nat) (v : Word)
  /-- CURATOR_STALL (R136). A queue head waits 32,768 cycles with no change; the supervisor takes CURATOR_STALL with a census record. -/
  | curatorStall (asid core : Nat)
  /-- GRANULES_STANDBY (R141). The partition's free granules are brought to standby after it enters RUNNING or resumes. -/
  | granulesStandby (asid : Nat)
  /-- SWITCH_FORWARD (R155). A token reaches a switch box, is checked for CHECK and route ID and sent on, fanned out or faulted. -/
  | switchForward (n : Node) (src : BitVec 6)
  /-- SITE_CLOCK_GATE (R173). A configured site idle for 32 cycles is clock-gated. -/
  | siteClockGate (n : Node)
  /-- SITE_WAKE (R173). 2 cycles after a token arrives for a clock-gated site, the site wakes and takes it. -/
  | siteWake (n : Node)
  /-- PAGE_WALK_DONE (R206). A page walk ends; the generator holds the new translation or the access faults. -/
  | pageWalkDone (place port : Nat)
  /-- SLICE_REQUEST (R213). A request reaches a slice; it hits, merges, joins an MCAST group, takes a pending entry or is refused with a retry hint. -/
  | sliceRequest (i : Nat)
  /-- RETRY_TIMER_EXPIRE (R426). A generator's retry timer reaches zero, and the refused request is sent again. -/
  | retryTimerExpire (place port elem : Nat)
  /-- PRIO_RESERVATION_EXPIRE (R214). A pending-entry reservation for a PRIO request lapses after 1024 cycles. -/
  | prioReservationExpire (die slice : Nat)
  /-- SLICE_FILL_INSTALL (R215). A fill reaches its slice; held writes are applied, waiting reads are served and the line is installed. -/
  | sliceFillInstall (die slice line : Nat)
  /-- WRITEBACK_ACK (R211). The LLC acknowledges a write-back, and the slice frees the line's pending entry. -/
  | writebackAck (die slice line : Nat)
  /-- LLC_REQUEST (R218). A request reaches a base die's LLC port and enters the request queue or the annex queue. -/
  | llcRequest (i : Nat)
  /-- LLC_FILL (R215). An HBM4E fill reaches the LLC and serves the requests waiting on the line. -/
  | llcFill (base line : Nat)
  /-- EXPANDER_DECODE_DONE (R220). The expander finishes decoding a compressed tile and installs the requested line, or raises DECOMP_FORMAT. -/
  | expanderDecodeDone (die slice line : Nat)
  /-- GENERATOR_RESPONSE (R204). A response reaches an address generator's reorder buffer and is sent on in request order. -/
  | generatorResponse (i : Nat)
  /-- FRESUME_RESUME (R227). A FRESUME write with ABANDON 0 resumes the faulted port, node or copy from its record. -/
  | fresumeResume (asid : Nat) (addr : Word)
  /-- FRESUME_ABANDON (R227). A FRESUME write with ABANDON 1 drops the segment, taints the verdict and ends the launch FAULTED. -/
  | fresumeAbandon (asid : Nat) (addr : Word)
  /-- WAVE_COMPLETE (R250). Every output of a rollback region has passed a wave's MARK, so the wave commits and its held writes are performed. -/
  | waveComplete (place : Nat)
  /-- ROLLBACK (R252). An error-class fault in a rollback region stops admission, discards uncommitted output and restores the last complete wave. -/
  | rollback (place : Nat)
  /-- ROLLBACK_REREAD (R252). After the restore, the input ports re-read their streams from the saved counters. -/
  | rollbackReread (place : Nat)
  /-- RBAREA_WRITE (R251). A write to RBAREA sets the rollback area, or is ignored while copies are held there. -/
  | rbareaWrite (asid : Nat) (v : Word)
  /-- TAKE_ASYNC_TRAP (R334). A pending asynchronous trap is taken at an instruction boundary once INH is clear. -/
  | takeAsyncTrap (t : ThreadId)
  /-- MEMORY_RESPONSE_ARRIVE (R314). A load value, store acknowledgement or atomic result reaches a scalar thread; errors may be reported. -/
  | memoryResponseArrive (t : ThreadId) (r : MemReport)
  /-- WFE_TIMEOUT (R326). A WFE waits 65,536 cycles with no event, then clears the flag and continues. -/
  | wfeTimeout (t : ThreadId)
  /-- COMMAND_START (R348). A queued stream command starts once it heads its queue, its predecessor has issued and its port is declared; it latches its pattern and fields. -/
  | commandStart (place port : Nat)
  /-- MCAST_LANDING (R360). An MCAST line lands in a named core's landing buffer, where an MRX LOAD takes it. -/
  | mcastLanding (die core line : Nat)
  /-- MCAST_DEPARTURE_NOTICE (R360). A slice departure notice reaches the MCAST port; the last one ends the MCAST DONE. -/
  | mcastDepartureNotice (place port line : Nat)
  /-- MCAST_DROP_NOTICE (R360). A drop notice reaches a named core; its landing lines are discarded and the MRX LOAD falls back to ordinary reads. -/
  | mcastDropNotice (die core line : Nat)
  /-- FLOAD_DONE (R330). The contexts of an FLOAD are valid, and the instruction retires. -/
  | floadDone (t : ThreadId)
  /-- REGISTER_WRITE (R340). A write to a system register with no row of its own updates its RW fields. -/
  | registerWrite (num : BitVec 16) (v : Word)
  /-- ETHERNET_LINK_UP (R49). IO0's or IO1's Ethernet port completes training during boot, so BOOTSTAT goes to link up and the ROM sends its DHCP solicitations. -/
  | ethernetLinkUp (io : Nat)
  /-- HBM4E_STACK_TRAINED (R59). An HBM4E stack finishes training, so accesses to it stop faulting with NOT_READY and are served normally. -/
  | hbm4eStackTrained (n : Nat)
  /-- FABRIC_DIE_TRAINED (R59). A fabric die finishes training and becomes usable at 875 MHz with the reduced codes. -/
  | fabricDieTrained (die : Nat)
  /-- CORE_RAIL_UP (R17). A core rail rises into range under boot firmware's control, and its fabric die leaves the reset it was held in. -/
  | coreRailUp (die : Nat)
  deriving DecidableEq, Repr

end Sys2Proof
end

