-- ==== Sys2Proof/Decode.lean ====
section
/-! DEFINITION. Decoding and encoding, written from the formats and opcode maps of R275-R298: scalar words,
router-operator words, cell words, stream commands and CTRL payloads. A scalar word and a router word may have
the same 32 bits; which decoder reads a word depends on where it stands (R275, R294). -/

namespace Sys2Proof

/-- Bits `lo+len-1 : lo` of a number (R2). -/
def bitsOf (n lo len : Nat) : Nat := n / 2 ^ lo % 2 ^ len

/-- A one-bit field as a number. -/
def bit1 (b : Bool) : Nat := if b then 1 else 0

/-! ### Scalar words (R275-R284) -/

/-- The `.W` choice of the integer group: sub 0 or 1 (R279). -/
def withW (sub : Nat) (f : Bool → Instr) : Option Instr :=
  if sub = 0 then some (f false) else if sub = 1 then some (f true) else none

/-- A unary form, whose b field must be zero (R279, R285). -/
def noB (b : Reg) (r : Option Instr) : Option Instr := if b = 0 then r else none

/-- `some i` when the guard holds (R285: otherwise the word is ILLEGAL). -/
def onlyIf (c : Bool) (i : Instr) : Option Instr := if c then some i else none

/-- A pair destination: even and in the range 2-30 (R276). -/
def pairOk (d : Reg) : Bool := d.toNat % 2 = 0 && d.toNat ≠ 0

/-- Major 0x01 (R279). -/
def decodeInt (d a b : Reg) (sub fn : Nat) : Option Instr :=
  match fn with
  | 0 => withW sub (.add d a b)
  | 1 => withW sub (.sub d a b)
  | 2 => withW sub (.and d a b)
  | 3 => withW sub (.or d a b)
  | 4 => withW sub (.xor d a b)
  | 5 => withW sub (.shl d a b)
  | 6 => withW sub (.shr d a b)
  | 7 => withW sub (.sra d a b)
  | 8 => withW sub (.mul d a b)
  | 9 => withW sub (.mulh d a b)
  | 10 => withW sub (.mulhu d a b)
  | 11 => withW sub (.div d a b)
  | 12 => withW sub (.divu d a b)
  | 13 => withW sub (.rem d a b)
  | 14 => withW sub (.remu d a b)
  | 15 => withW sub (.min d a b)
  | 16 => withW sub (.max d a b)
  | 17 => withW sub (.minu d a b)
  | 18 => withW sub (.maxu d a b)
  | 19 => withW sub (.slt d a b)
  | 20 => withW sub (.sltu d a b)
  | 21 => noB b (withW sub (.clz d a))
  | 22 => noB b (withW sub (.ctz d a))
  | 23 => noB b (withW sub (.popc d a))
  | 24 => noB b (withW sub (.bswap d a))
  | 25 => onlyIf (sub ≤ 3) (.crcw d a b (BitVec.ofNat 2 sub))
  | _ => none

/-- Major 0x0C (R280, R281). Func bit 0 is the precision, bits 7:1 the operation. -/
def decodeFp (d a b : Reg) (sub fn : Nat) : Option Instr :=
  let p := fn % 2 = 1
  let r := BitVec.ofNat 3 sub
  match fn / 2 with
  | 0 => some (.fadd d a b r p)
  | 1 => some (.fsub d a b r p)
  | 2 => some (.fmul d a b r p)
  | 3 => some (.fdiv d a b r p)
  | 4 => noB b (some (.fsqrt d a r p))
  | 5 => some (.fmac d a b r p)
  | 6 => onlyIf (sub = 0) (.fmin d a b p)
  | 7 => onlyIf (sub = 0) (.fmax d a b p)
  | 8 => onlyIf (sub = 0) (.feq d a b p)
  | 9 => onlyIf (sub = 0) (.flt d a b p)
  | 10 => onlyIf (sub = 0) (.fle d a b p)
  | 11 => onlyIf (b.toNat ≤ 9 && fn % 2 = 0) (.fcvt d a b r)
  | 12 => onlyIf (b = 0 && sub = 0) (.fclass d a p)
  | _ => none

/-- Major 0x1B (R282): LDA and STL. -/
def decodeAcqRel (d a b : Reg) (sub fn : Nat) : Option Instr :=
  let w := BitVec.ofNat 2 fn
  let sc := BitVec.ofNat 3 sub
  let u := bitsOf fn 3 1 = 1
  if sub ≤ 4 ∧ fn < 16 then
    if bitsOf fn 2 1 = 0 then onlyIf (b = 0 && !(u && w = 3)) (.lda d a sc u w)
    else onlyIf (d = 0 && !u) (.stl a b sc w)
  else none

/-- Major 0x1C (R282): the atomics. -/
def decodeAmo (d a b : Reg) (sub fn : Nat) : Option Instr :=
  let sc := BitVec.ofNat 3 sub
  let w := bitsOf fn 3 1 = 1
  let u := bitsOf fn 4 1 = 1
  if sub ≤ 4 ∧ fn < 32 then
    match fn % 8 with
    | 0 => onlyIf (!u) (.amoadd d a b sc w)
    | 1 => onlyIf (!u) (.amoswap d a b sc w)
    | 2 => onlyIf (!u) (.amocas d a b sc w)
    | 3 => some (.amomin d a b sc u w)
    | 4 => some (.amomax d a b sc u w)
    | 5 => onlyIf (!u) (.amoand d a b sc w)
    | 6 => onlyIf (!u) (.amoor d a b sc w)
    | _ => onlyIf (!u) (.amoxor d a b sc w)
  else none

/-- Major 0x2C (R284). -/
def decodeSync (d a b : Reg) (sub fn : Nat) : Option Instr :=
  match fn with
  | 0 => onlyIf (d = 0 && a = 0 && b = 0 && sub ≤ 4) (.fence (BitVec.ofNat 3 sub))
  | 1 => onlyIf (sub = 0) (.barinit d a b)
  | 2 => onlyIf (b = 0 && sub = 0) (.bararr d a)
  | 3 => onlyIf (sub = 0) (.barwait d a b)
  | 4 => onlyIf (d = 0 && a = 0 && b = 0 && sub = 0) .wfe
  | _ => none

/-- Major 0x2D, K format (R283): kx in bits 15:13, ky in bits 12:10, part in bits 9:8. -/
def decodeK (d a : Reg) (kx ky : BitVec 3) (part fn : Nat) : Option Instr :=
  match fn with
  | 0 => onlyIf (d = 0 && ky = 0 && part ≤ 1) (.kset a kx (part = 1))
  | 1 => onlyIf (d = 0 && a = 0 && part = 0) (.kmov kx ky)
  | 2 => onlyIf (d = 0 && ky = 0 && part = 0) (.kld a kx)
  | 3 => onlyIf (a = 0 && ky = 0 && part = 0) (.scmd d kx)
  | 4 => onlyIf (kx = 0 && ky = 0 && part = 0) (.pstat d a)
  | 5 => onlyIf (kx = 0 && ky = 0) (.fload d a (BitVec.ofNat 2 part))
  | 6 => onlyIf (d = 0 && a = 0 && kx = 0 && ky = 0) (.fsel (BitVec.ofNat 2 part))
  | 7 => onlyIf (kx = 0 && ky = 0 && part ≤ 1) (.fseam d a (part = 1))
  | _ => none

/-- Major 0x2E (R284). -/
def decodeTask (d a b : Reg) (sub fn : Nat) : Option Instr :=
  if sub = 0 then
    match fn with
    | 0 => onlyIf (pairOk d && b = 0) (.launch d a)
    | 1 => onlyIf (b = 0) (.lwait d a)
    | 2 => some (.dqpush d a b)
    | 3 => onlyIf (pairOk d && a = 0 && b = 0) (.dqpop d)
    | 4 => onlyIf (pairOk d && b = 0) (.dqsteal d a)
    | 5 => some (.rclaim d a b)
    | 6 => some (.rcommit d a b)
    | 7 => onlyIf (pairOk d) (.rwait d a b)
    | 8 => some (.rretire d a b)
    | _ => none
  else none

/-- Major 0x2F (R284). -/
def decodeScope (d a b : Reg) (sub fn : Nat) : Option Instr :=
  if sub = 0 then
    match fn with
    | 0 => onlyIf (a = 0 && b = 0) (.scopen d)
    | 1 => onlyIf (b = 0) (.scclose d a)
    | 2 => onlyIf (b = 0) (.scset d a)
    | 3 => some (.cancel d a b)
    | 4 => onlyIf (b = 0) (.cwait d a)
    | _ => none
  else none

/-- Major 0x30 (R284, R343, R344). -/
def decodeSys (d a b : Reg) (sub fn : Nat) : Option Instr :=
  match fn with
  | 0 => onlyIf (d = 0 && a = 0 && b = 0 && sub = 0) .eret
  | 1 => onlyIf (d = 0 && a = 0 && b = 0 && sub = 0) .halt
  | 2 =>
    if d = 0 ∧ b = 0 then
      match sub with
      | 0 => some (.cacheClean a)
      | 1 => some (.cacheCleaninv a)
      | 2 => some (.cacheInv a)
      | 3 => some (.cacheBlockinv a)
      | _ => none
    else none
  | 3 =>
    if d = 0 then
      match sub with
      | 0 => some (.tlbinvPage a b)
      | 1 => some (.tlbinvAsid a b)
      | 2 => some (.tlbinvAll a b)
      | _ => none
    else none
  | 4 => onlyIf (b = 0 && sub = 0) (.swapp d a)
  | _ => none

/-- A scalar word (R275, R278, R285): `none` is ILLEGAL. -/
def decodeScalar (w : BitVec 32) : Option Instr :=
  let n := w.toNat
  let d := BitVec.ofNat 5 (n / 2 ^ 21)
  let a := BitVec.ofNat 5 (n / 2 ^ 16)
  let b := BitVec.ofNat 5 (n / 2 ^ 11)
  let sub := bitsOf n 8 3
  let fn := bitsOf n 0 8
  let imm := BitVec.ofNat 16 n
  let sh := BitVec.ofNat 6 n
  let shOk := bitsOf n 6 10 = 0
  match n / 2 ^ 26 with
  | 0x01 => decodeInt d a b sub fn
  | 0x02 => some (.addi d a imm)
  | 0x03 => some (.andi d a imm)
  | 0x04 => some (.ori d a imm)
  | 0x05 => some (.xori d a imm)
  | 0x06 => onlyIf shOk (.shli d a sh)
  | 0x07 => onlyIf shOk (.shri d a sh)
  | 0x08 => onlyIf shOk (.srai d a sh)
  | 0x09 => some (.slti d a imm)
  | 0x0A => some (.sltui d a imm)
  | 0x0B => onlyIf (a = 0) (.lih d imm)
  | 0x0C => decodeFp d a b sub fn
  | 0x10 => some (.ldb d a imm)
  | 0x11 => some (.ldbu d a imm)
  | 0x12 => some (.ldh d a imm)
  | 0x13 => some (.ldhu d a imm)
  | 0x14 => some (.ldw d a imm)
  | 0x15 => some (.ldwu d a imm)
  | 0x16 => some (.ldd d a imm)
  | 0x17 => some (.stb d a imm)
  | 0x18 => some (.sth d a imm)
  | 0x19 => some (.stw d a imm)
  | 0x1A => some (.std d a imm)
  | 0x1B => decodeAcqRel d a b sub fn
  | 0x1C => decodeAmo d a b sub fn
  | 0x20 => some (.beq d a imm)
  | 0x21 => some (.bne d a imm)
  | 0x22 => some (.blt d a imm)
  | 0x23 => some (.bge d a imm)
  | 0x24 => some (.bltu d a imm)
  | 0x25 => some (.bgeu d a imm)
  | 0x26 => some (.jmp (BitVec.ofNat 26 n))
  | 0x27 => some (.jal (BitVec.ofNat 26 n))
  | 0x28 => some (.jalr d a imm)
  | 0x2C => decodeSync d a b sub fn
  | 0x2D => decodeK d a (BitVec.ofNat 3 (n / 2 ^ 13)) (BitVec.ofNat 3 (n / 2 ^ 10)) (bitsOf n 8 2) fn
  | 0x2E => decodeTask d a b sub fn
  | 0x2F => decodeScope d a b sub fn
  | 0x30 => decodeSys d a b sub fn
  | 0x31 => onlyIf (a = 0) (.sysrd d imm)
  | 0x32 => onlyIf (a = 0) (.syswr d imm)
  | 0x33 => onlyIf (d = 0 && a = 0) (.trap imm)
  | _ => none

/-- Four bytes, lowest address first, as one word (R2, R275). -/
def wordOfBytes : List Byte → Option (BitVec 32)
  | b0 :: b1 :: b2 :: b3 :: _ => some (b3 ++ b2 ++ b1 ++ b0)
  | _ => none

/-- The bytes of a scalar word as memory holds them, lowest address first (R2). -/
def bytesOfWord (w : BitVec 32) : List Byte :=
  [w.extractLsb' 0 8, w.extractLsb' 8 8, w.extractLsb' 16 8, w.extractLsb' 24 8]

/-- The scalar instruction at the head of a list of bytes. -/
def decodeBytes (bs : List Byte) : Option Instr := (wordOfBytes bs).bind decodeScalar

/-- The instruction this decoder reads from a table word: the table numbers a 32-bit word as R275 does. A
router-table word has the bits of a branch, and the scalar decoder reads it as one. (DEDUCED, assumption 19.) -/
def decodeTableWord (nbits w : Nat) : Option Instr :=
  if nbits ≤ 32 then decodeBytes (bytesOfWord (BitVec.ofNat 32 w)) else none

/-- A word of the RR format (R275). -/
def rrWord (maj : Nat) (d a b : Reg) (sub fn : Nat) : BitVec 32 :=
  BitVec.ofNat 32 (maj * 2 ^ 26 + d.toNat * 2 ^ 21 + a.toNat * 2 ^ 16 + b.toNat * 2 ^ 11 + sub * 2 ^ 8 + fn)

/-- A word of the RI, M, B or S format (R275). -/
def riWord (maj : Nat) (d a : Reg) (imm : Nat) : BitVec 32 :=
  BitVec.ofNat 32 (maj * 2 ^ 26 + d.toNat * 2 ^ 21 + a.toNat * 2 ^ 16 + imm)

/-- A word of the J format (R275). -/
def jWord (maj : Nat) (disp : BitVec 26) : BitVec 32 := BitVec.ofNat 32 (maj * 2 ^ 26 + disp.toNat)

/-- A word of the K format (R275, R283). -/
def kWord (d a : Reg) (kx ky : BitVec 3) (part fn : Nat) : BitVec 32 :=
  BitVec.ofNat 32 (0x2D * 2 ^ 26 + d.toNat * 2 ^ 21 + a.toNat * 2 ^ 16 + kx.toNat * 2 ^ 13 + ky.toNat * 2 ^ 10 +
    part * 2 ^ 8 + fn)

/-- The word of a scalar instruction, field by field from the tables of R278-R284; `none` for a row that is no
scalar instruction. -/
def encodeScalar : Instr → Option (BitVec 32)
  | .add d a b w => some (rrWord 0x01 d a b (bit1 w) (0))
  | .sub d a b w => some (rrWord 0x01 d a b (bit1 w) (1))
  | .and d a b w => some (rrWord 0x01 d a b (bit1 w) (2))
  | .or d a b w => some (rrWord 0x01 d a b (bit1 w) (3))
  | .xor d a b w => some (rrWord 0x01 d a b (bit1 w) (4))
  | .shl d a b w => some (rrWord 0x01 d a b (bit1 w) (5))
  | .shr d a b w => some (rrWord 0x01 d a b (bit1 w) (6))
  | .sra d a b w => some (rrWord 0x01 d a b (bit1 w) (7))
  | .mul d a b w => some (rrWord 0x01 d a b (bit1 w) (8))
  | .mulh d a b w => some (rrWord 0x01 d a b (bit1 w) (9))
  | .mulhu d a b w => some (rrWord 0x01 d a b (bit1 w) (10))
  | .div d a b w => some (rrWord 0x01 d a b (bit1 w) (11))
  | .divu d a b w => some (rrWord 0x01 d a b (bit1 w) (12))
  | .rem d a b w => some (rrWord 0x01 d a b (bit1 w) (13))
  | .remu d a b w => some (rrWord 0x01 d a b (bit1 w) (14))
  | .min d a b w => some (rrWord 0x01 d a b (bit1 w) (15))
  | .max d a b w => some (rrWord 0x01 d a b (bit1 w) (16))
  | .minu d a b w => some (rrWord 0x01 d a b (bit1 w) (17))
  | .maxu d a b w => some (rrWord 0x01 d a b (bit1 w) (18))
  | .slt d a b w => some (rrWord 0x01 d a b (bit1 w) (19))
  | .sltu d a b w => some (rrWord 0x01 d a b (bit1 w) (20))
  | .clz d a w => some (rrWord 0x01 d a 0 (bit1 w) (21))
  | .ctz d a w => some (rrWord 0x01 d a 0 (bit1 w) (22))
  | .popc d a w => some (rrWord 0x01 d a 0 (bit1 w) (23))
  | .bswap d a w => some (rrWord 0x01 d a 0 (bit1 w) (24))
  | .crcw d a b sc => some (rrWord 0x01 d a b sc.toNat (25))
  | .addi d a imm => some (riWord 0x02 d a imm.toNat)
  | .andi d a imm => some (riWord 0x03 d a imm.toNat)
  | .ori d a imm => some (riWord 0x04 d a imm.toNat)
  | .xori d a imm => some (riWord 0x05 d a imm.toNat)
  | .shli d a imm => some (riWord 0x06 d a imm.toNat)
  | .shri d a imm => some (riWord 0x07 d a imm.toNat)
  | .srai d a imm => some (riWord 0x08 d a imm.toNat)
  | .slti d a imm => some (riWord 0x09 d a imm.toNat)
  | .sltui d a imm => some (riWord 0x0A d a imm.toNat)
  | .lih d imm => some (riWord 0x0B d 0 imm.toNat)
  | .fadd d a b rs p => some (rrWord 0x0C d a b rs.toNat (0 + bit1 p))
  | .fsub d a b rs p => some (rrWord 0x0C d a b rs.toNat (2 + bit1 p))
  | .fmul d a b rs p => some (rrWord 0x0C d a b rs.toNat (4 + bit1 p))
  | .fdiv d a b rs p => some (rrWord 0x0C d a b rs.toNat (6 + bit1 p))
  | .fsqrt d a rs p => some (rrWord 0x0C d a 0 rs.toNat (8 + bit1 p))
  | .fmac d a b rs p => some (rrWord 0x0C d a b rs.toNat (10 + bit1 p))
  | .fmin d a b p => some (rrWord 0x0C d a b 0 (12 + bit1 p))
  | .fmax d a b p => some (rrWord 0x0C d a b 0 (14 + bit1 p))
  | .feq d a b p => some (rrWord 0x0C d a b 0 (16 + bit1 p))
  | .flt d a b p => some (rrWord 0x0C d a b 0 (18 + bit1 p))
  | .fle d a b p => some (rrWord 0x0C d a b 0 (20 + bit1 p))
  | .fcvt d a code rs => some (rrWord 0x0C d a code rs.toNat (22))
  | .fclass d a p => some (rrWord 0x0C d a 0 0 (24 + bit1 p))
  | .ldb d a imm => some (riWord 0x10 d a imm.toNat)
  | .ldbu d a imm => some (riWord 0x11 d a imm.toNat)
  | .ldh d a imm => some (riWord 0x12 d a imm.toNat)
  | .ldhu d a imm => some (riWord 0x13 d a imm.toNat)
  | .ldw d a imm => some (riWord 0x14 d a imm.toNat)
  | .ldwu d a imm => some (riWord 0x15 d a imm.toNat)
  | .ldd d a imm => some (riWord 0x16 d a imm.toNat)
  | .stb d a imm => some (riWord 0x17 d a imm.toNat)
  | .sth d a imm => some (riWord 0x18 d a imm.toNat)
  | .stw d a imm => some (riWord 0x19 d a imm.toNat)
  | .std d a imm => some (riWord 0x1A d a imm.toNat)
  | .lda d a sc u w => some (rrWord 0x1B d a 0 sc.toNat (0 + bit1 u * 8 + w.toNat))
  | .stl a b sc w => some (rrWord 0x1B 0 a b sc.toNat (4 + w.toNat))
  | .amoadd d a b sc w => some (rrWord 0x1C d a b sc.toNat (0 + bit1 w * 8))
  | .amoswap d a b sc w => some (rrWord 0x1C d a b sc.toNat (1 + bit1 w * 8))
  | .amocas d a b sc w => some (rrWord 0x1C d a b sc.toNat (2 + bit1 w * 8))
  | .amomin d a b sc u w => some (rrWord 0x1C d a b sc.toNat (3 + bit1 u * 16 + bit1 w * 8))
  | .amomax d a b sc u w => some (rrWord 0x1C d a b sc.toNat (4 + bit1 u * 16 + bit1 w * 8))
  | .amoand d a b sc w => some (rrWord 0x1C d a b sc.toNat (5 + bit1 w * 8))
  | .amoor d a b sc w => some (rrWord 0x1C d a b sc.toNat (6 + bit1 w * 8))
  | .amoxor d a b sc w => some (rrWord 0x1C d a b sc.toNat (7 + bit1 w * 8))
  | .beq a b imm => some (riWord 0x20 a b imm.toNat)
  | .bne a b imm => some (riWord 0x21 a b imm.toNat)
  | .blt a b imm => some (riWord 0x22 a b imm.toNat)
  | .bge a b imm => some (riWord 0x23 a b imm.toNat)
  | .bltu a b imm => some (riWord 0x24 a b imm.toNat)
  | .bgeu a b imm => some (riWord 0x25 a b imm.toNat)
  | .jmp imm => some (jWord 0x26 imm)
  | .jal imm => some (jWord 0x27 imm)
  | .jalr d a imm => some (riWord 0x28 d a imm.toNat)
  | .fence sc => some (rrWord 0x2C 0 0 0 sc.toNat (0))
  | .barinit d a b => some (rrWord 0x2C d a b 0 (1))
  | .bararr d a => some (rrWord 0x2C d a 0 0 (2))
  | .barwait d a b => some (rrWord 0x2C d a b 0 (3))
  | .wfe => some (rrWord 0x2C 0 0 0 0 (4))
  | .kset a kx p => some (kWord 0 a kx 0 (bit1 p) 0)
  | .kmov kx ky => some (kWord 0 0 kx ky 0 1)
  | .kld a kx => some (kWord 0 a kx 0 0 2)
  | .scmd d kx => some (kWord d 0 kx 0 0 3)
  | .pstat d a => some (kWord d a 0 0 0 4)
  | .fload d a p => some (kWord d a 0 0 p.toNat 5)
  | .fsel p => some (kWord 0 0 0 0 p.toNat 6)
  | .fseam d a p => some (kWord d a 0 0 (bit1 p) 7)
  | .launch d a => some (rrWord 0x2E d a 0 0 (0))
  | .lwait d a => some (rrWord 0x2E d a 0 0 (1))
  | .dqpush d a b => some (rrWord 0x2E d a b 0 (2))
  | .dqpop d => some (rrWord 0x2E d 0 0 0 (3))
  | .dqsteal d a => some (rrWord 0x2E d a 0 0 (4))
  | .rclaim d a b => some (rrWord 0x2E d a b 0 (5))
  | .rcommit d a b => some (rrWord 0x2E d a b 0 (6))
  | .rwait d a b => some (rrWord 0x2E d a b 0 (7))
  | .rretire d a b => some (rrWord 0x2E d a b 0 (8))
  | .scopen d => some (rrWord 0x2F d 0 0 0 (0))
  | .scclose d a => some (rrWord 0x2F d a 0 0 (1))
  | .scset d a => some (rrWord 0x2F d a 0 0 (2))
  | .cancel d a b => some (rrWord 0x2F d a b 0 (3))
  | .cwait d a => some (rrWord 0x2F d a 0 0 (4))
  | .eret => some (rrWord 0x30 0 0 0 0 (0))
  | .halt => some (rrWord 0x30 0 0 0 0 (1))
  | .cacheClean a => some (rrWord 0x30 0 a 0 0 (2))
  | .cacheCleaninv a => some (rrWord 0x30 0 a 0 1 (2))
  | .cacheInv a => some (rrWord 0x30 0 a 0 2 (2))
  | .cacheBlockinv a => some (rrWord 0x30 0 a 0 3 (2))
  | .tlbinvPage a b => some (rrWord 0x30 0 a b 0 (3))
  | .tlbinvAsid a b => some (rrWord 0x30 0 a b 1 (3))
  | .tlbinvAll a b => some (rrWord 0x30 0 a b 2 (3))
  | .swapp d a => some (rrWord 0x30 d a 0 0 (4))
  | .sysrd g num => some (riWord 0x31 g 0 num.toNat)
  | .syswr g num => some (riWord 0x32 g 0 num.toNat)
  | .trap num => some (riWord 0x33 0 0 num.toNat)
  | _ => none

/-! ### Cell words (R289, R292) -/

/-- The fields of a cell word beside OP (R289). -/
def cellFields (w : BitVec 64) : CellF :=
  { rep := w.extractLsb' 50 6, fmt := w.extractLsb' 46 4, rs := w.extractLsb' 43 3, pred := w.extractLsb' 40 3,
    sela := w.extractLsb' 34 6, selb := w.extractLsb' 28 6, selc := w.extractLsb' 22 6,
    outen := w.extractLsb' 16 6, imm := w.extractLsb' 0 16 }

/-- A cell word from its OP and fields (R289). -/
def cellWord (op : BitVec 8) (f : CellF) : BitVec 64 :=
  op ++ f.rep ++ f.fmt ++ f.rs ++ f.pred ++ f.sela ++ f.selb ++ f.selc ++ f.outen ++ f.imm

/-- The operation a cell word's OP names at a site (R292). OP 0x51 configures a matrix node, whose firings are
the CTRL rows (R298), so it is not among these. -/
def decodeCell (n : Node) (w : BitVec 64) : Option Instr :=
  let f := cellFields w
  match (w.extractLsb' 56 8).toNat with
  | 0x01 => some (.cellAdd n f)
  | 0x02 => some (.cellSub n f)
  | 0x03 => some (.cellMul n f)
  | 0x04 => some (.cellMac n f)
  | 0x05 => some (.cellMin n f)
  | 0x06 => some (.cellMax n f)
  | 0x07 => some (.cellAbs n f)
  | 0x08 => some (.cellNeg n f)
  | 0x09 => some (.cellCmp n f)
  | 0x0A => some (.cellSel n f)
  | 0x0B => some (.cellAnd n f)
  | 0x0C => some (.cellOr n f)
  | 0x0D => some (.cellXor n f)
  | 0x0E => some (.cellNot n f)
  | 0x0F => some (.cellShl n f)
  | 0x10 => some (.cellShr n f)
  | 0x11 => some (.cellSra n f)
  | 0x12 => some (.cellRcp n f)
  | 0x13 => some (.cellRsq n f)
  | 0x14 => some (.cellSqrt n f)
  | 0x15 => some (.cellExp2 n f)
  | 0x16 => some (.cellLog2 n f)
  | 0x17 => some (.cellTanh n f)
  | 0x18 => some (.cellSig n f)
  | 0x19 => some (.cellCvt n f)
  | 0x1A => some (.cellScale n f)
  | 0x1B => some (.cellRsum n f)
  | 0x1C => some (.cellRmax n f)
  | 0x1D => some (.cellAcc n f)
  | 0x1E => some (.cellPerm n f)
  | 0x1F => some (.cellBcast n f)
  | 0x20 => some (.cellPack n f)
  | 0x21 => some (.cellUnpack n f)
  | 0x22 => some (.cellConst n f)
  | 0x23 => some (.cellPass n f)
  | 0x30 => some (.cellFilter n f)
  | 0x31 => some (.cellLoop n f)
  | 0x32 => some (.cellCount n f)
  | 0x40 => some (.cellLd n f)
  | 0x41 => some (.cellSt n f)
  | 0x42 => some (.cellAt n f)
  | 0x43 => some (.cellLda n f)
  | 0x44 => some (.cellStl n f)
  | 0x45 => some (.cellFork n f)
  | 0x46 => some (.cellJoin n f)
  | 0x47 => some (.cellFence n f)
  | 0x48 => some (.cellAgen n f)
  | 0x49 => some (.cellBuf n f)
  | 0x4A => some (.cellFifo n f)
  | 0x4B => some (.cellLinebuf n f)
  | 0x4C => some (.cellSport n f)
  | 0x50 => some (.cellMseq n f)
  | 0x58 => some (.cellHdrgen n f)
  | 0x59 => some (.cellMarkin n f)
  | 0x5A => some (.cellFlags n f)
  | 0x5B => some (.cellSegin n f)
  | 0x60 => some (.cellPitch n f)
  | 0x61 => some (.cellPitchg n f)
  | 0x62 => some (.cellArgp n f)
  | 0x63 => some (.cellStrike n f)
  | _ => none

/-- The cell word of a cell operation. -/
def encodeCell : Instr → Option (BitVec 64)
  | .cellAdd _ f => some (cellWord 0x01 f)
  | .cellSub _ f => some (cellWord 0x02 f)
  | .cellMul _ f => some (cellWord 0x03 f)
  | .cellMac _ f => some (cellWord 0x04 f)
  | .cellMin _ f => some (cellWord 0x05 f)
  | .cellMax _ f => some (cellWord 0x06 f)
  | .cellAbs _ f => some (cellWord 0x07 f)
  | .cellNeg _ f => some (cellWord 0x08 f)
  | .cellCmp _ f => some (cellWord 0x09 f)
  | .cellSel _ f => some (cellWord 0x0A f)
  | .cellAnd _ f => some (cellWord 0x0B f)
  | .cellOr _ f => some (cellWord 0x0C f)
  | .cellXor _ f => some (cellWord 0x0D f)
  | .cellNot _ f => some (cellWord 0x0E f)
  | .cellShl _ f => some (cellWord 0x0F f)
  | .cellShr _ f => some (cellWord 0x10 f)
  | .cellSra _ f => some (cellWord 0x11 f)
  | .cellRcp _ f => some (cellWord 0x12 f)
  | .cellRsq _ f => some (cellWord 0x13 f)
  | .cellSqrt _ f => some (cellWord 0x14 f)
  | .cellExp2 _ f => some (cellWord 0x15 f)
  | .cellLog2 _ f => some (cellWord 0x16 f)
  | .cellTanh _ f => some (cellWord 0x17 f)
  | .cellSig _ f => some (cellWord 0x18 f)
  | .cellCvt _ f => some (cellWord 0x19 f)
  | .cellScale _ f => some (cellWord 0x1A f)
  | .cellRsum _ f => some (cellWord 0x1B f)
  | .cellRmax _ f => some (cellWord 0x1C f)
  | .cellAcc _ f => some (cellWord 0x1D f)
  | .cellPerm _ f => some (cellWord 0x1E f)
  | .cellBcast _ f => some (cellWord 0x1F f)
  | .cellPack _ f => some (cellWord 0x20 f)
  | .cellUnpack _ f => some (cellWord 0x21 f)
  | .cellConst _ f => some (cellWord 0x22 f)
  | .cellPass _ f => some (cellWord 0x23 f)
  | .cellFilter _ f => some (cellWord 0x30 f)
  | .cellLoop _ f => some (cellWord 0x31 f)
  | .cellCount _ f => some (cellWord 0x32 f)
  | .cellLd _ f => some (cellWord 0x40 f)
  | .cellSt _ f => some (cellWord 0x41 f)
  | .cellAt _ f => some (cellWord 0x42 f)
  | .cellLda _ f => some (cellWord 0x43 f)
  | .cellStl _ f => some (cellWord 0x44 f)
  | .cellFork _ f => some (cellWord 0x45 f)
  | .cellJoin _ f => some (cellWord 0x46 f)
  | .cellFence _ f => some (cellWord 0x47 f)
  | .cellAgen _ f => some (cellWord 0x48 f)
  | .cellBuf _ f => some (cellWord 0x49 f)
  | .cellFifo _ f => some (cellWord 0x4A f)
  | .cellLinebuf _ f => some (cellWord 0x4B f)
  | .cellSport _ f => some (cellWord 0x4C f)
  | .cellMseq _ f => some (cellWord 0x50 f)
  | .cellHdrgen _ f => some (cellWord 0x58 f)
  | .cellMarkin _ f => some (cellWord 0x59 f)
  | .cellFlags _ f => some (cellWord 0x5A f)
  | .cellSegin _ f => some (cellWord 0x5B f)
  | .cellPitch _ f => some (cellWord 0x60 f)
  | .cellPitchg _ f => some (cellWord 0x61 f)
  | .cellArgp _ f => some (cellWord 0x62 f)
  | .cellStrike _ f => some (cellWord 0x63 f)
  | _ => none

/-! ### Router-operator words (R294) -/

/-- A router-operator word: bits 31:30 are 0b10, bits 6:0 zero, and an operator's unused inputs 0x00. -/
def decodeRouter (n : Node) (w : BitVec 32) : Option Instr :=
  let f : RopF := { slot := w.extractLsb' 29 1 = 1, in0 := w.extractLsb' 19 6, in1 := w.extractLsb' 13 6, in2 := w.extractLsb' 7 6 }
  if w.extractLsb' 30 2 = 2 ∧ w.extractLsb' 0 7 = 0 then
    match (w.extractLsb' 25 4).toNat with
    | 1 => onlyIf (f.in2 = 0) (.ropSteer n f)
    | 2 => some (.ropMerge n f)
    | 3 => some (.ropCarry n f)
    | 4 => onlyIf (f.in2 = 0) (.ropInvar n f)
    | 5 => some (.ropOrdmerge n f)
    | 6 => onlyIf (f.in2 = 0) (.ropGate n f)
    | _ => none
  else none

/-- A router-operator word from its ROP and fields. -/
def routerWord (rop : BitVec 4) (f : RopF) : BitVec 32 :=
  (2 : BitVec 2) ++ BitVec.ofBool f.slot ++ rop ++ f.in0 ++ f.in1 ++ f.in2 ++ (0 : BitVec 7)

/-- The router word of a router operation. -/
def encodeRouter : Instr → Option (BitVec 32)
  | .ropSteer _ f => some (routerWord 1 f)
  | .ropMerge _ f => some (routerWord 2 f)
  | .ropCarry _ f => some (routerWord 3 f)
  | .ropInvar _ f => some (routerWord 4 f)
  | .ropOrdmerge _ f => some (routerWord 5 f)
  | .ropGate _ f => some (routerWord 6 f)
  | _ => none

/-! ### Stream commands (R286, R287) -/

/-- The fields of a stream command beside OP and PORT. -/
def cmdFields (w : Word128) : CmdF :=
  { slot := w.extractLsb' 109 5, scope := w.extractLsb' 106 3, hint := w.extractLsb' 104 2,
    cscope := w.extractLsb' 88 16, flags := w.extractLsb' 80 8, count := w.extractLsb' 56 24,
    tag := w.extractLsb' 48 8, base := w.extractLsb' 0 48 }

/-- A stream command from its OP, PORT and fields. -/
def cmdWord (op : BitVec 8) (port : BitVec 6) (f : CmdF) : Word128 :=
  op ++ port ++ f.slot ++ f.scope ++ f.hint ++ f.cscope ++ f.flags ++ f.count ++ f.tag ++ f.base

/-- The command of a word handed over in a region; `none` when its OP is unassigned. -/
def decodeCmd (place : Nat) (w : Word128) : Option Instr :=
  let f := cmdFields w
  let p : PortRef := { place := place, port := (w.extractLsb' 114 6).toNat }
  match (w.extractLsb' 120 8).toNat with
  | 0x00 => some (.cmdLoad p f)
  | 0x01 => some (.cmdStore p f)
  | 0x02 => some (.cmdCopy p f)
  | 0x03 => some (.cmdGather p f)
  | 0x04 => some (.cmdScatter p f)
  | 0x05 => some (.cmdReduce p f)
  | 0x06 => some (.cmdMcast p f)
  | 0x07 => some (.cmdFill p f)
  | 0x08 => some (.cmdPset p f)
  | 0x09 => some (.cmdInject p f)
  | 0x0A => some (.cmdSync p f)
  | 0x0B => some (.cmdRecord p f)
  | 0x0C => some (.cmdReplay p f)
  | 0x0D => some (.cmdXput p f)
  | 0x0E => some (.cmdXget p f)
  | 0x0F => some (.cmdCreduce p f)
  | 0x10 => some (.cmdPrefetch p f)
  | 0x11 => some (.cmdFlush p f)
  | _ => none

/-- The word of a stream command. -/
def encodeCmd : Instr → Option Word128
  | .cmdLoad p f => some (cmdWord 0x00 (BitVec.ofNat 6 p.port) f)
  | .cmdStore p f => some (cmdWord 0x01 (BitVec.ofNat 6 p.port) f)
  | .cmdCopy p f => some (cmdWord 0x02 (BitVec.ofNat 6 p.port) f)
  | .cmdGather p f => some (cmdWord 0x03 (BitVec.ofNat 6 p.port) f)
  | .cmdScatter p f => some (cmdWord 0x04 (BitVec.ofNat 6 p.port) f)
  | .cmdReduce p f => some (cmdWord 0x05 (BitVec.ofNat 6 p.port) f)
  | .cmdMcast p f => some (cmdWord 0x06 (BitVec.ofNat 6 p.port) f)
  | .cmdFill p f => some (cmdWord 0x07 (BitVec.ofNat 6 p.port) f)
  | .cmdPset p f => some (cmdWord 0x08 (BitVec.ofNat 6 p.port) f)
  | .cmdInject p f => some (cmdWord 0x09 (BitVec.ofNat 6 p.port) f)
  | .cmdSync p f => some (cmdWord 0x0A (BitVec.ofNat 6 p.port) f)
  | .cmdRecord p f => some (cmdWord 0x0B (BitVec.ofNat 6 p.port) f)
  | .cmdReplay p f => some (cmdWord 0x0C (BitVec.ofNat 6 p.port) f)
  | .cmdXput p f => some (cmdWord 0x0D (BitVec.ofNat 6 p.port) f)
  | .cmdXget p f => some (cmdWord 0x0E (BitVec.ofNat 6 p.port) f)
  | .cmdCreduce p f => some (cmdWord 0x0F (BitVec.ofNat 6 p.port) f)
  | .cmdPrefetch p f => some (cmdWord 0x10 (BitVec.ofNat 6 p.port) f)
  | .cmdFlush p f => some (cmdWord 0x11 (BitVec.ofNat 6 p.port) f)
  | _ => none

/-! ### CTRL payloads (R298) -/

/-- The fields of a CTRL payload beside its OP. -/
def ctrlFields (w : Beat) : CtrlF :=
  { tsb := w.extractLsb' 96 32, tsa := w.extractLsb' 64 32, rsv2 := w.extractLsb' 62 2, rs := w.extractLsb' 59 3,
    scale := w.extractLsb' 56 3, fmtb := w.extractLsb' 52 4, fmta := w.extractLsb' 48 4, kg := w.extractLsb' 32 16,
    ng := w.extractLsb' 24 8, mg := w.extractLsb' 16 8, rsv7 := w.extractLsb' 9 7, acc := w.extractLsb' 8 1 = 1 }

/-- A CTRL payload's low 128 bits. -/
def ctrlWord (op : BitVec 8) (f : CtrlF) : Word128 :=
  f.tsb ++ f.tsa ++ f.rsv2 ++ f.rs ++ f.scale ++ f.fmtb ++ f.fmta ++ f.kg ++ f.ng ++ f.mg ++ f.rsv7 ++
    BitVec.ofBool f.acc ++ op

/-- The matrix operation of a CTRL token; `none` is a CTRL fault (R298). -/
def decodeCtrl (n : Node) (w : Beat) : Option Instr :=
  let f := ctrlFields w
  if w.extractLsb' 128 384 = 0 then
    match (w.extractLsb' 0 8).toNat with
    | 0x51 => some (.mma n f)
    | 0x52 => some (.mzero n f)
    | 0x53 => some (.mdrain n f)
    | _ => none
  else none

/-- The CTRL payload of a matrix operation. -/
def encodeCtrl : Instr → Option Word128
  | .mma _ f => some (ctrlWord 0x51 f)
  | .mzero _ f => some (ctrlWord 0x52 f)
  | .mdrain _ f => some (ctrlWord 0x53 f)
  | _ => none

/-- The words of an instruction that has an encoding: its width in bits and its value, bit 0 the least
significant; `none` for a step of the package, which has no encoding. -/
def encode (i : Instr) : Option (Nat × Nat) :=
  match encodeScalar i, encodeCell i, encodeRouter i, encodeCmd i, encodeCtrl i with
  | some w, _, _, _, _ => some (32, w.toNat)
  | _, some w, _, _, _ => some (64, w.toNat)
  | _, _, some w, _, _ => some (32, w.toNat)
  | _, _, _, some w, _ => some (128, w.toNat)
  | _, _, _, _, some w => some (128, w.toNat)
  | _, _, _, _, _ => none

end Sys2Proof
end

