-- ==== Sys2Proof/Config.lean ====
section
/-! DEFINITION. What one implementation fixes and the spec leaves open: uninterpreted constants with no body, so
that a claim holds whatever they are (assumptions 7, 17, 18), and the fixed numbers of the spec. -/

namespace Sys2Proof.Config

/-- How the key block derives the identity key from the OTP secret (R54 names no function; DESIGN CHOICE, assumption 7). -/
opaque deriveKey : BitVec 256 → Nat

/-- The nonce of a signature of the identity key (R55 fixes none; DESIGN CHOICE, assumption 7). -/
opaque signNonce : Nat → Nat

/-- A byte whose value the spec calls undefined (R101; DESIGN CHOICE, assumption 17). -/
opaque freeByte : Nat → Byte

/-- The result of a special function where the model's enclosure does not settle the rounding (R377;
DESIGN CHOICE, assumption 18): operation, format, rounding code and operand. -/
opaque sfuOpen : Nat → Nat → Nat → Nat → Nat


/-- How many requests beyond the first a base die's annex queue holds (R218 gives its 64 MiB and no size of an entry;
DESIGN CHOICE, assumption 29). -/
opaque annexSpare : Nat

/-- How many requests a base die's annex queue holds: one at least (R218). -/
def annexEntries : Nat := annexSpare + 1

end Sys2Proof.Config
end

