-- ==== Sys2Proof/Machine/State.lean ====
section
/-! DEFINITION. The state of the Ulimin as plain data, the reasons a step can stop, and the state after reset. -/

namespace Sys2Proof.Machine

/-- Why the machine stops with a fault. Every fault the spec describes is taken as a trap or recorded as a
fault record in a next state (R247, R335), so nothing raises a stop of this kind for an instruction. -/
inductive Fault where
  /-- A physical address above the 48 bits of R206 was formed inside the model; no operation raises it, since
  every physical address is cut to 48 bits. Safe: the machine would stop where the hardware has no address. -/
  | noSuchAddress (pa : Nat)
  deriving DecidableEq, Repr

/-- Why the model gives no meaning. -/
inductive Refusal where
  /-- An arm of Dispatch.lean that has no meaning yet raises it. Safe: no claim about such a run is provable. -/
  | notModelled (mnemonic : String)
  deriving DecidableEq, Repr

/-! ### Memory -/

/-- Package memory as the LLC shows it: strictly rising addresses, no entry equal to zero (R202, R218). -/
abbrev Mem := List Host.Cell

/-! ### Threads (R276, R286, R303, R333-R342) -/

/-- The modes, coded as ESTAT.MODE (R333). -/
inductive Mode where
  | user | supervisor | monitor
  deriving DecidableEq, Repr

/-- The registers a trap saves into, one bank for each handler mode (R334, R341). -/
structure Bank where
  pmode : BitVec 2
  inh : Bool
  epc : Word
  ecause : Word
  eval : Word
  tvec : Word
  escratch : Word
  deriving DecidableEq, Repr

/-- What a thread is doing (R49, R333, R334, R339). -/
inductive RunState where
  /-- system core 0 of IO0 in the boot ROM -/
  | rom
  /-- a system core before firmware's first write to its EPC and ESTAT -/
  | unstarted
  | running
  /-- a system core after HALT -/
  | parked
  /-- a system core after DOUBLE_TRAP, until reset; a control-core thread after DOUBLE_TRAP or a kill -/
  | stopped
  /-- a launch thread after HALT -/
  | ended
  deriving DecidableEq, Repr

/-- The wait a thread stands in (R323). (DESIGN CHOICE, assumption 118.) -/
inductive Wait where
  | none
  | ring (block : Nat) (claims : Bool) (d : Reg)
  | barrier (b : Nat)
  /-- the phase a BARWAIT waited for has completed, and PHASE is now this (R105, R113) -/
  | passed (ph : Nat)
  | launch (lid : Nat)
  | ticket (t : Nat)
  | wfe (until_ : Nat)
  | scmd
  | fload (place slot routine readyAt : Nat) (d : Reg)
  | steal
  | swapp (asid doneAt : Nat) (d : Reg)
  /-- its scope tag has been killed; the waiting instruction returns CANCELLED (R323) -/
  | killed
  deriving DecidableEq, Repr

/-- An asynchronous trap posted to a thread (R335, R342). -/
structure AsyncTrap where
  code : Nat
  asid : Nat
  eval : Word
  norec : Bool
  deriving DecidableEq, Repr

/-- A translated address with the attributes of its page (R207). `sram` marks the boot SRAM (DEDUCED, assumption 5). -/
structure Xl where
  pa : Nat
  cpol : Nat
  iset : Nat
  share : Bool
  comp : Bool
  pte : Word
  sram : Bool
  asid : Nat
  /-- the virtual address it was translated from -/
  va : Nat
  deriving DecidableEq, Repr

/-- A page that is a compressed window, as the accesses through it name it: its tile directory, the partition, and its
virtual page of 2^size bytes (R219, R220). -/
structure CompPage where
  dir : Nat
  asid : Nat
  page : Nat
  size : Nat
  /-- the page is global (R207, R344) -/
  glob : Bool
  deriving DecidableEq, Repr

/-- A store accepted into the store buffer (R314): its address, translated, and its bytes. -/
structure StoreEnt where
  va : Nat
  xl : Xl
  bytes : List Byte
  deriving DecidableEq, Repr

/-- An imprecise error not yet taken (R314): code, subcode, record address, no record. -/
structure ImpErr where
  code : Nat
  sub : Nat
  recAddr : Word
  norec : Bool
  deriving DecidableEq, Repr

structure Thread where
  id : ThreadId
  run : RunState
  mode : Mode
  pc : Word
  gpr : Vector Word 32
  kreg : Vector Word128 8
  fflags : BitVec 7
  tstat : Word
  scope : Nat
  scopeFree : Bool
  sup : Bank
  mon : Bank
  asid : Nat
  event : Bool
  lastRing : Option Nat
  stbuf : List StoreEnt
  imp : List ImpErr
  async : List AsyncTrap
  wait : Wait
  /-- the place whose launch a control-core thread runs, and its launch slot -/
  place : Nat
  lslot : Nat
  /-- stream commands it has handed over (R363) -/
  cmds : Nat
  /-- stopped at an instruction boundary by HALT of the partition (R83) -/
  frozen : Bool
  deriving DecidableEq, Repr

/-! ### Folios (chapter 06) -/

/-- A declared stream port (R119): number, site, generator (0 ag0, 1 ag1). -/
structure PortDecl where
  num : Nat
  x : Nat
  y : Nat
  gen : Nat
  deriving DecidableEq, Repr

/-- A word of a folio's tables with its site (R119). -/
structure Placed (n : Nat) where
  x : Nat
  y : Nat
  word : BitVec n
  deriving DecidableEq, Repr

/-- A folio image (R117-R119). -/
structure Folio where
  w : Nat
  h : Nat
  cls : Nat
  foldable : Bool
  stow : Nat
  warm : Bool
  narg : Nat
  nres : Nat
  mkint : Nat
  masks : List (BitVec 16)
  cells : List (Placed 64)
  routs : List (Placed 32)
  ports : List PortDecl
  routine : Nat
  deriving DecidableEq, Repr

/-! ### Tasks, scopes, rings (chapters 04 and 05) -/

/-- The states of a task-graph entry (R70). -/
inductive TgState where
  | pending | held | ready | running | complete
  deriving DecidableEq, Repr

/-- How an edge stands (R71). -/
inductive Edge where
  | unsatisfied | satisfied | held
  deriving DecidableEq, Repr

/-- A launch record's predecessor with its policy (R67). -/
structure Pred where
  lid : Nat
  policy : Nat
  edge : Edge
  deriving DecidableEq, Repr

/-- A task-graph entry (R67, R70, R74, R75, R77). -/
structure TgEntry where
  slot : Nat
  gen : Nat
  st : TgState
  entry : Nat
  arg : Word
  crec : Nat
  folio : Nat
  scope : Nat
  prio : Nat
  record : Bool
  replay : Bool
  preds : List Pred
  creator : Option ThreadId
  place : Option Nat
  startCycle : Nat
  level : Nat
  /-- its place among the launches of the partition by when they entered READY (R75) -/
  qseq : Nat
  readyAt : Nat
  /-- the cycle it joined its present queue in (R75) -/
  joined : Nat
  /-- the cycle of its last aging, with the level and the cycle of joining before it (R76, R86) -/
  was : Option (Nat × Nat × Nat)
  blockedAt : Option Nat
  /-- a queue head that has reached the limit of R77 -/
  capped : Bool
  threadDone : Bool
  killed : Bool
  status : Nat
  verdict : Nat
  flags : BitVec 7
  segs : Nat
  rollbacks : Nat
  nfault : Nat
  fcode : Nat
  fwhere : List Nat
  faddr : Nat
  frec : Nat
  deriving DecidableEq, Repr

/-- A cancel scope (R106). -/
structure Scope where
  id : Nat
  parent : Nat
  cancelled : Bool
  work : Nat
  deriving DecidableEq, Repr

/-- An outstanding or acknowledged cancellation (R110-R112). The list holds R112's counts in record order:
LAUNCHES, SEGS, INSTS, CMDS, RESPS, ATOMS, WRITES, BARS, VOIDED, DQLEFT, NETLOSS. -/
structure Ticket where
  val : Nat
  scope : Nat
  addr : Nat
  owner : Option ThreadId
  acked : Bool
  killCycle : Nat
  counts : List Nat
  deriving DecidableEq, Repr

/-- A barrier (R104). -/
structure Barrier where
  id : Nat
  n : Nat
  scope : Nat
  phase : Nat
  arrived : List Nat
  /-- participants cancelled after arriving: counted out from the next phase on (R109) -/
  leaving : Nat
  dead : Bool
  deriving DecidableEq, Repr

/-- A copy the victim of a steal keeps until the response of that steal is acknowledged (R95). -/
structure StealCopy where
  no : Nat
  thief : ThreadId
  entry : Word128
  at_ : Nat
  deriving DecidableEq, Repr

/-- The deque of one core of a partition (R88-R95), head first. `ext` tells of the oldest entries, which the extension
holds, where each lies there; nothing for one that waits for a place. -/
structure Deque where
  die : Nat
  core : Nat
  entries : List Word128
  ext : List (Option Nat)
  dqext : Word
  skip : Nat
  lfsr : BitVec 16
  copies : List StealCopy
  deriving DecidableEq, Repr

/-- A steal in progress: the request, then the victim's answer (R95). -/
structure Steal where
  no : Nat
  thief : ThreadId
  asid : Nat
  die : Nat
  core : Nat
  dst : Reg
  answered : Bool
  entry : Option Word128
  /-- the response has reached the thief and its acknowledgement is on the way -/
  acked : Bool
  /-- the thief waits no more: its response timer has expired -/
  gone : Bool
  /-- the thief has been killed: the ticket that waits for the messages of its steal (R110, R113) -/
  dead : Option Nat
  deriving DecidableEq, Repr

/-- How a ring claim stands (R98, R101). -/
inductive ClaimSt where
  | opened | committed | void
  deriving DecidableEq, Repr

structure Claim where
  pos : Nat
  n : Nat
  st : ClaimSt
  scope : Nat
  deriving DecidableEq, Repr

structure Resv where
  pos : Nat
  n : Nat
  retired : Bool
  scope : Nat
  deriving DecidableEq, Repr

/-- A waiting RCLAIM or RWAIT (R98). -/
structure RWaiter where
  who : Agent
  claims : Bool
  n : Nat
  scope : Nat
  deriving DecidableEq, Repr

/-- The tables the home slice keeps of a registered ring (R97). -/
structure Ring where
  asid : Nat
  block : Nat
  pa : Nat
  die : Nat
  iset : Nat
  /-- a plain store has reached the control block since (R97) -/
  stored : Bool
  claims : List Claim
  resvs : List Resv
  waiters : List RWaiter
  deriving DecidableEq, Repr

/-- A fault record in use and what resumes from it (R225-R227). -/
inductive RecOwner where
  | port (place port : Nat)
  /-- a seam or a guy line whose token's message was lost (R38) -/
  | line (a : Agent)
  | node (n : Node)
  | pitch (n : Node)
  /-- the stow or unstow copy of an instance, or a copy into the rollback area (R134, R251) -/
  | copy (place : Nat)
  | scalar
  deriving DecidableEq, Repr

structure RecUse where
  addr : Nat
  owner : RecOwner
  code : Nat
  deriving DecidableEq, Repr

/-- A request in a Curator queue (R127-R136): a pitch, or the unstow of an instance. -/
structure PitchReq where
  /-- the queue it stands in: 32 times the die, plus the core -/
  core : Nat
  node : Node
  /-- the call's number at its PITCH -/
  call : Nat
  routine : Nat
  k : Nat
  scope : Nat
  unstow : Option Nat
  /-- victims being stowed for this request, once chosen (R131) -/
  stowing : Option (List Nat)
  /-- the origins they free, where the callee is to be placed (R131) -/
  freed : List (Nat × Nat)
  /-- the sites, by granule, of the footprints found free as they were chosen, kept until it is granted (R131, R132) -/
  kept : List (Nat × Nat × BitVec 16)
  /-- out of its queue: until its fault record is resumed, 1 the pitch itself, 2 its stow or unstow copy (R134, R135); 3 it
  has been withdrawn and its copies run to their end (R143) -/
  frozen : Nat
  waitFrom : Nat
  deriving DecidableEq, Repr

/-- A partition's state (R65). -/
inductive PState where
  | running | halting | halted | stored | drained
  deriving DecidableEq, Repr

/-- A rectangle of whole cores on one die (R63). -/
structure Rect where
  die : Nat
  col : Nat
  row : Nat
  cols : Nat
  rows : Nat
  deriving DecidableEq, Repr

/-- A routine held by a core's catalogue cache, least recently used first (R123). -/
structure CacheEnt where
  die : Nat
  core : Nat
  routine : Nat
  lines : Nat
  folio : Folio
  deriving DecidableEq, Repr

/-- A freezing fault that waits for a record to be free (R226). -/
structure LateFault where
  owner : RecOwner
  code : Nat
  sub : Nat
  flags : Nat
  site : List Nat
  va : Nat
  port : Nat
  slot : Nat
  tag : Nat
  cscope : Nat
  cnt : List Nat
  elem : Nat
  net : Nat
  cls : Nat
  src : Nat
  msgid : Nat
  bitmap : Nat
  pte : Word
  lslot : Nat
  deriving DecidableEq, Repr

structure Partition where
  asid : Nat
  rects : List Rect
  ptroot : Nat
  catbase : Nat
  catcount : Nat
  /-- NARG and NRES of the routines, as the catalogue's load read them (R121) -/
  heads : List (Nat × Nat)
  homedie : Nat
  homecore : Nat
  st : PState
  rbhalt : Bool
  tasks : List TgEntry
  gens : List (Nat × Nat)
  qseq : Nat
  lastStart : Option Nat
  scopes : List Scope
  lastScope : Nat
  tickets : List Ticket
  tickSeq : Nat
  bars : List Barrier
  deques : List Deque
  silent : Nat
  ctvec : Word
  census : Word
  stowcfg : Word
  frarea : Word
  psuper : Word
  rbarea : Word
  recs : List RecUse
  nextRec : Nat
  lateFaults : List LateFault
  digest : Option (BitVec 256)
  loading : Bool
  poolUsed : List Nat
  curq : List PitchReq
  rrCore : Nat
  cache : List CacheEnt
  /-- miss fetches under way: die, core, routine (R123) -/
  fetching : List (Nat × Nat × Nat)
  standby : Bool
  /-- the launch threads while the partition's planes are stored (R62, R66) -/
  parked : List Thread
  /-- when the partition was HALTED, for the wait counts of R75 -/
  haltedAt : Nat
  deriving DecidableEq, Repr

/-! ### Regions, instances (chapter 06) -/

/-- What a request asks of a slice (R210-R217, R359, R364). -/
inductive ReqKind where
  | read
  | write (bytes : List (Byte × Bool))
  | reduce (op fmt : Nat) (sat : Bool) (bytes : List Byte)
  | mcast (mask pair : Nat)
  | prefetch
  | flush (inv : Bool)
  /-- an element of a remote device (R361) -/
  | remote (dev : Nat)
  deriving DecidableEq, Repr

/-- A request of a generator in transit to its slice. -/
structure Req where
  place : Nat
  port : Nat
  /-- the request's number at its port -/
  elem : Nat
  die : Nat
  core : Nat
  pa : Nat
  len : Nat
  kind : ReqKind
  policy : Nat
  share : Bool
  iset : Nat
  comp : Option CompPage
  prio : Bool
  refusals : Nat
  /-- element reads at PACKAGE or SYSTEM bind SHARE_PKG lines from the LLC (R238) -/
  fromLlc : Bool
  /-- issued by killed work, with the ticket that counts its response (R108, R110) -/
  dead : Option Nat
  deriving DecidableEq, Repr

/-- A command as it stands in a port's queue (R328, R348). -/
structure QCmd where
  word : Word128
  thread : ThreadId
  /-- number of the command within its thread, for SYNC (R363) -/
  seq : Nat
  deriving DecidableEq, Repr

/-- How an element of a running command stands (R204, R214, R426). -/
inductive ElemSt where
  /-- to be issued, or issued again after a resume -/
  | queued
  /-- sent, under its port's request number -/
  | sent (no : Nat)
  | retry (due : Nat) (r : Req)
  | done (bytes : List Byte)
  /-- answered by a fault or a loss, which is raised once every element before it is done (R224) -/
  | bad (code sub : Nat) (pte : Word) (msg : MsgKey) (cls bitmap : Nat) (timer : Bool)
  deriving DecidableEq, Repr

structure Elem where
  n : Nat
  addr : Nat
  data : List Byte
  refusals : Nat
  /-- an output of a rollback region, or a log entry, of a wave that is not complete (R250) -/
  hold : Option Nat
  st : ElemSt
  deriving DecidableEq, Repr

/-- A started command with what it latched (R348) and its progress. -/
structure Running where
  cmd : QCmd
  pat : BitVec 178
  pat2 : BitVec 178
  next : Nat
  elems : List Elem
  /-- elements delivered or performed -/
  doneN : Nat
  /-- bytes gathered toward the next beat, or taken from the last one -/
  bytes : List Byte
  beats : Nat
  /-- indices taken and not used yet, nothing for a dead lane (R358) -/
  idx : List (Option (BitVec 32))
  /-- of a segment it sends: 0 SOT is next, 1 HDR, 2 beats, 3 all sent; of one it takes: 1 once SOT has come, 2 HDR -/
  stage : Nat
  eotSeen : Bool
  /-- rows, columns and element width of the segment it takes, as its HDR tells (R205) -/
  bounds : Option (Nat × Nat × Nat)
  /-- a walk is awaited for this address (R203) -/
  walking : Option Nat
  /-- frozen at this element (R224) -/
  frozen : Option Nat
  /-- an MRX LOAD that has fallen back to ordinary reads (R360) -/
  fallback : Bool
  deriving DecidableEq, Repr

/-- The translation entry a generator holds (R203), and the ASID it was walked for (R207). -/
structure Xlat where
  asid : Nat
  vpage : Nat
  size : Nat
  pte : Word
  lv : Nat
  deriving DecidableEq, Repr

/-- The translation entry of a generator, by the site of the die it stands at and which of the two it is; it outlives the
work that had it walked (R203). -/
structure GenXlat where
  die : Nat
  x : Nat
  y : Nat
  gen : Nat
  ent : Xlat
  deriving DecidableEq, Repr

/-- What a port saves as it inserts a wave's MARK (R250). -/
structure PortMark where
  wave : Nat
  runs : List Running
  queue : List QCmd
  slots : List (Nat × BitVec 178)
  donecnt : BitVec 32
  mkBeats : Nat
  mkWave : Nat
  segs : BitVec 32
  midSeg : Bool
  logSeq : Nat
  flags : BitVec 7
  deriving DecidableEq, Repr

/-- A region port (R329, R347-R350, R85). -/
structure Port where
  num : Nat
  queue : List QCmd
  running : Option Running
  /-- commands that have issued their last request and have not ended, the oldest first (R348) -/
  older : List Running
  /-- the number of the next request -/
  reqNo : Nat
  /-- RECORD or REPLAY commands under way beside the others, the oldest first (R365) -/
  logs : List Running
  slots : List (Nat × BitVec 178)
  donecnt : BitVec 32
  tag : BitVec 8
  tagi : BitVec 8
  end_ : Nat
  segs : BitVec 32
  cnt : Nat
  winlg : Nat
  /-- tokens admitted in the window of the last admission (R85) -/
  used : Nat
  /-- the cycle of the last admission -/
  lastIn : Nat
  /-- markers inserted (R250): DATA beats since the last one, next wave number, whether one is asked for (R255) -/
  mkBeats : Nat
  mkWave : Nat
  mkAsked : Bool
  saved : List PortMark
  /-- entries logged or replayed (R258, R365) -/
  logSeq : Nat
  /-- sticky flags of REDUCE (R249, R359) -/
  flags : BitVec 7
  /-- a segment is under way on the port's channel -/
  midSeg : Bool
  /-- a generator that counts as stopped by RBHALT or a rollback until it re-reads (R83, R252) -/
  held : Bool
  deriving DecidableEq, Repr

/-- How an instance stands to the stow area: `vacated` once its copy has completed and its footprint is kept for the callee
(R131-R133). -/
inductive StowSt where
  | awake | copying | vacated | stowed | unstowing
  deriving DecidableEq, Repr

/-- What an instance has beside a region (R127-R133, R137). -/
structure Inst where
  caller : Node
  call : Nat
  /-- the logical instances dealt to it, in order; `cur` is the position of the one that runs -/
  logical : List Nat
  cur : Nat
  args : List Nat
  results : List Nat
  st : StowSt
  /-- the stow slots of its granules -/
  stowSlots : List Nat
  /-- result tokens in its stow record, in arrival order, with their lines -/
  buffered : List (Nat × Token)
  /-- the last cycle a token entered or left its footprint -/
  activeAt : Nat
  /-- the STRIKE of the running logical instance has passed its EOT -/
  struck : Bool
  /-- the waves its region had sent to its PITCH before it began (R139) -/
  wave : Nat
  deriving DecidableEq, Repr

/-- A write of an output port of a rollback region that waits for its wave (R239, R250): the store node or the stream
port it came from, its wave, address and bytes, the cache hint of its command, the scope of an STL, and whether the
firing's DONE waits for it. -/
structure Held where
  node : Option Node
  /-- the command of a stream port it belongs to (R108) -/
  cmd : Option QCmd
  port : Nat
  wave : Nat
  va : Nat
  /-- where it translates to (R230) -/
  pa : Nat
  bytes : List Byte
  hint : Nat
  stl : Option Nat
  done : Bool
  /-- the element of its command, for a fault of its commit (R225) -/
  elem : Nat
  deriving DecidableEq, Repr

/-- The logged result of an atomic of an uncommitted wave (R239): its node, firing and wave. -/
structure AtomLog where
  node : Node
  fired : Nat
  wave : Nat
  vals : List (BitVec 32)
  deriving DecidableEq, Repr

/-- Rollback mode of a region (R250-R253). -/
structure Rollback where
  complete : Nat
  retries : Nat
  limit : Bool
  /-- an error-class fault has been found and the region is to roll back; nothing in it moves until then (R252) -/
  due : Bool
  /-- a held write has met a fault, and nothing is committed until its record is resumed or abandoned (R224) -/
  stuck : Bool
  /-- by output, a store node or the tile of a stream port: the MARKs of the segment it has passed, 2^32 once it has
  passed the EOT -/
  passed : List (Node × Nat)
  /-- the commit buffers, in order of entry -/
  held : List Held
  atoms : List AtomLog
  /-- flags gathered for segments that are not final, those of a call instance with the wave its call belongs to (R249, R252) -/
  flags : List (Nat × BitVec 7 × Option Nat)
  /-- the store nodes whose DONEs the commit of a wave has put out, and the wave: the region behind the MARK has not had them (R254) -/
  dones : List (Node × Nat)
  /-- a copy into the rollback area has met a fault, and nothing in the region moves until it is resumed (R251) -/
  copyFault : Bool
  deriving DecidableEq, Repr

/-- A region or a call instance (R114, R139). -/
structure Place where
  id : Nat
  asid : Nat
  die : Nat
  gx : Nat
  gy : Nat
  /-- the extent in granules -/
  gw : Nat
  gh : Nat
  lslot : Nat
  scope : Nat
  slots : List (Option Folio)
  run : Nat
  sel : Option Nat
  chosen : Option Nat
  /-- the segments begun when the block scheduler last chose, or as the running block was switched to (R81) -/
  sched : Option Nat
  passc : List Nat
  /-- the PASS the chosen block would have had, had another been chosen in its stead (R331) -/
  spare : Nat
  /-- the block scheduler has found every WAIT 0; the first block to have received a record since (R81) -/
  idle : Bool
  first : Option Nat
  /-- segments completed under contexts that ran before, and those begun at the running one's ports before it ran (R74) -/
  past : Nat
  before : Nat
  ready : Bool
  ports : List Port
  unstitched : List (Nat × Nat)
  rgport : Nat
  killed : Bool
  stopped : Bool
  verdict : Nat
  /-- the region segments a ROUTE, SIDEBAND or RESIDUE fault of which has written a record (R248) -/
  segFault : List Nat
  /-- flags of the units that have passed the EOT of a segment, by segment number (R249, R409) -/
  segFlags : List (Nat × BitVec 7)
  rb : Option Rollback
  inst : Option Inst
  deriving DecidableEq, Repr

/-! ### Sites (chapter 07) -/

/-- A container with its live bytes, and whether its beat was VOID (R390). -/
structure Cont where
  val : BitVec 32
  live : BitVec 4
  void : Bool
  deriving DecidableEq, Repr

/-- What a memory node carries (R365, R393-R398): firings since SOT; lanes done of the firing under way with their
values; confirmations owed by firings that went ahead; the wave under way; entries logged or replayed. -/
structure MemSt where
  fired : Nat
  lane : Nat
  vals : List (BitVec 32)
  conf : Nat
  wave : Nat
  logged : Nat
  deriving DecidableEq, Repr

/-- A physical instance granted to a call: its place, argument lines and result lines (R130, R137), and the segments
that have ended on each result line. -/
structure Callee where
  place : Nat
  args : List Nat
  results : List Nat
  ended : List Nat
  deriving DecidableEq, Repr

/-- A call of a PITCH node (R411-R413, R419). -/
structure Call where
  num : Nat
  routine : Nat
  k : Nat
  narg : Nat
  nres : Nat
  /-- the record -/
  toks : List Token
  hdr : Option Token
  phys : List Callee
  /-- logical instances whose argument lines have been opened, and closed -/
  opened : List Nat
  closed : List Nat
  /-- results that have returned, result j of logical instance i at i·NRES + j -/
  res : List (Nat × Token)
  sent : Nat
  /-- struck by a cancellation that the PITCH survives (R108, R413) -/
  struck : Bool
  deriving DecidableEq, Repr

/-- What a PITCH owes its output: a framing token, once the MARK it is has returned on the lines listed, or a call's
results. -/
inductive PItem where
  | frame (t : Token) (lines : List Nat)
  | call (num : Nat)
  deriving DecidableEq, Repr

/-- A PITCH: tokens of the record in hand and the routine named for it, what its output is owed in order, its calls, and
the number of the next one (R411, R413). -/
structure PitchSt where
  toks : List Token
  routine : Nat
  items : List PItem
  calls : List Call
  next : Nat
  deriving DecidableEq, Repr

/-- The state an operator carries across firings (R149, R162-R173, chapters 17 and 18). -/
inductive OpSt where
  | none
  /-- gathered output elements and whether any came from a VOID beat (R378, R381) -/
  | gather (elems : List (Nat × Bool)) (void : Bool) (sub : Nat)
  /-- ACC's sixteen lanes and filled marks (R382) -/
  | acc (lanes : List (BitVec 32)) (filled : BitVec 16) (void : Bool)
  /-- COUNT: index i, tokens left of the run and whether its trigger was VOID (R391) -/
  | count (i left : Nat) (void : Bool)
  /-- LOOP: kept records, next, oldest, squashed yet to be discarded on b and c, a KILL to come on b and c, and
  one more after an early one (R151, R392) -/
  | loop (kept : List (Nat × Token)) (next oldest sqB sqC : Nat) (exiting : Option Nat) (open_ killB killC lateB lateC : Bool)
  /-- FILTER's two arms: containers gathered (R390) -/
  | filter (arm0 arm1 : List Cont)
  /-- ORDMERGE's arms: the containers of the beats in hand that are not used yet (R162) -/
  | ord (arm0 arm1 : List Cont)
  /-- CARRY: in LOOP (R389) -/
  | carry (looping : Bool)
  /-- INVAR's held value (R389) -/
  | invar (v : Option Token)
  /-- memory tile: rows, buffers (segment tokens, full), FIFO queues (R171, R401-R404) -/
  | tile (rows : List (Nat × Token)) (bufs : List (List Token × Bool)) (fifo fifo2 : List Token) (wr rd : Nat)
  /-- matrix node: the active accumulator, the other one, whether the active one holds a result of VOID (R169) -/
  | matrix (active other : List (BitVec 32)) (void : Bool)
  /-- MSEQ: the next trigger opens an accumulation, MZERO due (R405) -/
  | mseq (first zeroDue : Bool)
  /-- SCALE: scale bytes held, element position in the tile (R380) -/
  | scale (bytes : List Byte) (taken pos : Nat) (sidecar : Nat)
  | pitch (p : PitchSt)
  /-- ARGP: its line's EOT has passed (R412) -/
  | line (ended : Bool)
  /-- STRIKE: results taken of the present call (R412) -/
  | strike (k : Nat)
  /-- memory node (R394-R398) -/
  | mem (m : MemSt)
  /-- SEGIN: segment number in force (R410) -/
  | segin (no : BitVec 32)
  deriving DecidableEq, Repr

/-- A snapshot taken as a wave's MARK passed: state, flags and input registers. Results before the MARK leave the
region before the wave is complete, so a restore puts none back (R250). -/
structure Snap where
  wave : Nat
  st : OpSt
  flags : BitVec 7
  ina : List Token
  inb : List Token
  inc : List Token
  hdrs : List (Option Token)
  segOpen : Bool
  segOpenB : Bool
  beats : Nat
  beatsB : Nat
  /-- tile rows whose old contents have been copied to the rollback area since, and to the site's storeroom plane (R251) -/
  copied : List Nat
  planed : List Nat
  deriving DecidableEq, Repr

/-- A site's state (R149). `hdrs` are the headers in force on inputs a, b, c; `out` are the result places with the
output each leaves by; `snaps` the two snapshots of R250. -/
structure Site where
  node : Node
  ina : List Token
  inb : List Token
  inc : List Token
  out : List (Nat × Token)
  flags : BitVec 7
  hdrs : List (Option Token)
  segOpen : Bool
  /-- a segment is open on the second channel of an SPORT tile (R158, R404) -/
  segOpenB : Bool
  /-- DATA tokens taken since the header in force, on the first channel and on that second one (R189) -/
  beats : Nat
  beatsB : Nat
  st : OpSt
  gated : Bool
  waking : Option Nat
  lastActive : Nat
  frozen : Bool
  snaps : List Snap
  deriving DecidableEq, Repr

/-- What earlier work of a partition has left in a memory tile or an accumulator, by die and site of the die (R142). -/
structure LeftOver where
  asid : Nat
  die : Nat
  x : Nat
  y : Nat
  st : OpSt
  deriving DecidableEq, Repr

/-- A guy line: its tokens in the order they were sent, and the sequence number of the next (R47, R137, R138). -/
structure GuyLine where
  asid : Nat
  route : Nat
  next : Nat
  toks : List Token
  deriving DecidableEq, Repr

/-- A slot's state as a MARK passed (R250, R389). -/
structure SlotSnap where
  wave : Nat
  st : OpSt
  hdrs : List (Option Token)
  segOpen : Bool
  beats : List Nat
  deriving DecidableEq, Repr

/-- A slot of a switch box, with the headers in force on its inputs (R156, R158). -/
structure RSlot where
  node : Node
  slot : Bool
  in0 : List Token
  in1 : List Token
  in2 : List Token
  out : List (Nat × Token)
  st : OpSt
  hdrs : List (Option Token)
  segOpen : Bool
  frozen : Bool
  /-- DATA tokens taken on each input since its header (R189) -/
  beats : List Nat
  snaps : List SlotSnap
  deriving DecidableEq, Repr

/-- The token a registered segment holds where it ends at a box (R154): code 0x20-0x3F of R290. -/
structure Seg where
  node : Node
  code : Nat
  tok : Token
  /-- the token's place among those the segment has carried (R47) -/
  seq : Nat
  deriving DecidableEq, Repr

/-! ### Slices, LLC (chapter 09) -/

/-- What comes back to a generator. -/
inductive RespKind where
  | data (bytes : List Byte)
  | ack (flags : BitVec 7)
  | refused (hint : Nat) (r : Req)
  | fault (code sub : Nat) (pte : Word)
  | lost (msg : MsgKey) (cls bitmap : Nat) (timer : Bool)
  deriving DecidableEq, Repr

structure Resp where
  place : Nat
  port : Nat
  elem : Nat
  kind : RespKind
  dead : Option Nat
  deriving DecidableEq, Repr

/-- A line of a slice; `bad` and `soft` are its words with an uncorrectable error, and with one the next read corrects
(R202). -/
structure SLine where
  line : Nat
  data : List Byte
  dirty : Bool
  share : Bool
  bad : List Nat
  soft : List Nat
  deriving DecidableEq, Repr

/-- Why a pending-line entry is in use (R211, R213). -/
inductive PendKind where
  | fill
  | llc
  | forward
  | mcast
  | writeback
  deriving DecidableEq, Repr

structure Pend where
  /-- the number of the request the slice has sent the LLC for it -/
  no : Nat
  line : Nat
  kind : PendKind
  taken : Nat
  waiting : List Req
  held : List Req
  /-- a write to the line was acknowledged since the fill was issued (R215) -/
  acked : Bool
  share : Bool
  /-- the line is installed once its fill arrives (R210, R211) -/
  install : Bool
  /-- the bytes of a line on its way to the LLC (R211), or of an MCAST's line (R217) -/
  data : List Byte
  /-- words of the line with an uncorrectable error, and words the LLC has corrected (R202) -/
  bad : List Nat
  fixed : List Nat
  /-- the window whose tile the fill decodes (R219, R220) -/
  comp : Option CompPage
  /-- what the LLC has answered -/
  answer : Option RespKind
  deriving DecidableEq, Repr

/-- An open MCAST group (R217): line, mask of cores of the die, the MCAST's own request and the joined ones. -/
structure Group where
  line : Nat
  mask : Nat
  req : Req
  joined : List Req
  closed : Bool
  deriving DecidableEq, Repr

/-- A decoded tile a slice keeps (R220): the window it was decoded for, its number, 4096 bytes. -/
structure Tile where
  win : CompPage
  idx : Nat
  bytes : List Byte
  deriving DecidableEq, Repr

/-- A non-leaf entry in a core's page-table walker (R203): the table that level `lv + 1` of the walk of the
addresses with this prefix reads. -/
structure WalkEnt where
  die : Nat
  core : Nat
  asid : Nat
  lv : Nat
  vpre : Nat
  table : Nat
  deriving DecidableEq, Repr

structure Slice where
  die : Nat
  idx : Nat
  lines : List SLine
  pend : List Pend
  resv : Option (Nat × Nat × Nat × Nat)
  groups : List Group
  waitMcast : List Req
  tiles : List Tile
  deriving DecidableEq, Repr

/-- A request at a base die's LLC: the slice and line it answers, and what it asks, nothing for a fill or, with `back`, a
write-back (R211, R218). -/
structure LReq where
  no : Nat
  die : Nat
  slice : Nat
  line : Nat
  req : Option Req
  back : Bool
  deriving DecidableEq, Repr

structure Llc where
  base : Nat
  lines : List Nat
  /-- words of resident lines with an uncorrectable error, and with one the next read corrects (R202) -/
  bad : List Nat
  soft : List Nat
  fills : List Nat
  queue : List LReq
  annex : List LReq
  deriving DecidableEq, Repr

/-- The network part of a NET_LOSS record (R37). -/
structure NetInfo where
  key : MsgKey
  cls : Nat
  bitmap : Nat
  timer : Bool
  deriving DecidableEq, Repr

/-- A line in a core's landing buffer (R360). -/
structure Landing where
  die : Nat
  core : Nat
  line : Nat
  /-- the virtual address the MCAST read it at, and its BASE (R360) -/
  va : Nat
  base : Nat
  place : Nat
  port : Nat
  /-- the partition and scope of the MCAST -/
  asid : Nat
  scope : Nat
  /-- the line has left its slice and is on its way -/
  inflight : Option (List Byte)
  data : Option (List Byte)
  /-- the loss of its message, as the record of the LOAD that takes the line will have it (R225, R360) -/
  lost : Option NetInfo
  /-- its message was repaired, or the line corrected (R34, R202) -/
  fixed : Bool
  /-- its MCAST was stopped or dropped, and the drop notice is on its way -/
  dropped : Bool
  deriving DecidableEq, Repr

/-! ### Networks (chapter 02) -/

/-- The header of a fragment (R32), its reserved bits with it. -/
structure FragHdr where
  msgid : BitVec 16
  src : BitVec 12
  dst : BitVec 12
  /-- L - 1 -/
  len : BitVec 12
  idx : BitVec 4
  k : BitVec 4
  m : BitVec 3
  /-- F/32 - 1 -/
  fsz : BitVec 4
  cls : BitVec 2
  net : BitVec 2
  retx : BitVec 1
  seq : BitVec 16
  plane : BitVec 4
  rsv : BitVec 4
  deriving DecidableEq, Repr

/-- A fragment in flight: its header, its payload and the I/O die whose port carries it, 0 on an on-chip network (R31). -/
structure Frag where
  hdr : FragHdr
  pay : List Byte
  io : Nat
  deriving DecidableEq, Repr

/-- An open decode slot (R33-R36). -/
structure DSlot where
  key : MsgKey
  len : Nat
  k : Nat
  m : Nat
  fsz : Nat
  cls : Nat
  seq : Nat
  frags : List (Nat × List Byte)
  /-- a fragment of a Brosum retransmission has opened or joined it (R44) -/
  retx : Bool
  /-- the cycle its decode timeout ends (R36, R41) -/
  due : Nat
  deriving DecidableEq, Repr

/-- The finished window of a source at a destination (R33): H and the map of H-255 .. H, bit i for H-i. -/
structure Window where
  net : Nat
  src : Nat
  dst : Nat
  io : Nat
  h : Nat
  map : BitVec 256
  deriving DecidableEq, Repr

/-- A loss notice on its way back (R36), under a number of its own. -/
structure Notice where
  no : Nat
  key : MsgKey
  cls : Nat
  bitmap : Nat
  deriving DecidableEq, Repr

/-- A response timer's entry for one message of a request or of its response (R37). -/
structure Timer where
  who : Agent
  key : MsgKey
  cls : Nat
  due : Nat
  /-- the message is the response, or an acknowledgement -/
  answer : Bool
  deriving DecidableEq, Repr

/-- How a message leaves: k, m, the greatest F and the planes or ports (R29, R30, R46). -/
structure Code where
  k : Nat
  m : Nat
  fmax : Nat
  members : List Nat
  deriving DecidableEq, Repr

/-- A retain copy of a Brosum message with the code it was sent under (R40, R43, R44). -/
structure Retain where
  msg : Msg
  key : MsgKey
  cls : Nat
  code : Code
  sentAt : Nat
  retx : Bool
  deriving DecidableEq, Repr

/-- An acknowledgement of a port group on its way (R43), under a number of its own: the I/O die, the messages'
destination and source, the IDs. -/
structure BackAck where
  no : Nat
  io : Nat
  dst : Nat
  src : Nat
  ids : List Nat
  deriving DecidableEq, Repr

/-- Messages finished at a port group since the last acknowledgement, and since when (R43). -/
structure Owed where
  io : Nat
  dst : Nat
  src : Nat
  n : Nat
  since : Nat
  deriving DecidableEq, Repr

/-- A delivered message (R34): its place in its stream, its bytes and whether it was repaired. -/
structure Delivered where
  key : MsgKey
  seq : Nat
  body : List Byte
  repaired : Bool
  deriving DecidableEq, Repr

structure NetCnt where
  net : Nat
  ep : Nat
  late : BitVec 32
  stale : BitVec 32
  crc : BitVec 32
  repaired : BitVec 32
  lost : BitVec 32
  wait : BitVec 32
  deriving DecidableEq, Repr

/-- What a message carries (R23): a generator's request to its slice or its answer, its request on the way to the port group
that sends it on, a line for a landing buffer, a token of a seam or a guy line, a token sent again that had arrived, the
acknowledgement of one, the three messages of a steal, a slice's request of the LLC and the answer, a loss notice, an
acknowledgement of a port group. -/
inductive Cargo where
  | req (place port elem : Nat)
  | resp (place port elem : Nat)
  | remote (place port elem : Nat)
  | line (die core line : Nat)
  | token (a : Agent)
  | again (a : Agent)
  | taken (a : Agent)
  | steal (no : Nat)
  | stealBack (no : Nat)
  | stealAck (no : Nat)
  | toLlc (no : Nat)
  | fromLlc (no : Nat)
  | notice (no : Nat)
  | ack (no : Nat)
  deriving DecidableEq, Repr

structure Net where
  nextId : List (Nat × Nat × Nat × Nat)
  flight : List Frag
  /-- fragments held in plane ingress buffers, each with the cycle up to which its wait is counted (R35) -/
  ingress : List (Frag × Nat)
  /-- fragments of unfinished messages that failed CRC (R34) -/
  failed : List (MsgKey × Nat)
  slots : List DSlot
  windows : List Window
  notices : List Notice
  timers : List Timer
  retain : List Retain
  acks : List BackAck
  owed : List Owed
  delivered : List Delivered
  counters : List NetCnt
  /-- what each message that has not been delivered carries; `none` for one that is lost and to be sent again (R38) -/
  transit : List (Option MsgKey × Cargo)
  /-- messages of seam and guy lines that their ports keep until they are acknowledged: number and bytes (R38) -/
  kept : List (Agent × Nat × List Byte)
  /-- the number the next notice, acknowledgement, steal or request of the LLC takes -/
  serial : Nat
  deriving DecidableEq, Repr

/-! ### Package registers and units (chapters 01-04) -/

structure BPort where
  lanes : Nat
  peer : Nat
  cap : Word
  mismatch : Bool
  /-- joins the spray set at the next message ID (R13) -/
  joined : Bool
  deriving DecidableEq, Repr

/-- A push asked of a ring port: granules, their bytes, the SEQ of a datagram and how often that datagram has come
again since (R57, R58), and the binding it was asked under, which it keeps to its end (R342). -/
structure Push where
  n : Nat
  bytes : List Byte
  seq : Option (BitVec 32)
  again : Nat
  b0 : Word
  b1 : Word
  b2 : Word
  deriving DecidableEq, Repr

/-- A ring port of an I/O die (R56-R58). -/
structure RingPort where
  b0 : Word
  b1 : Word
  b2 : Word
  staged0 : Word
  staged1 : Word
  donecnt : BitVec 32
  busy : Bool
  status : BitVec 4
  queue : List Push
  seqs : List (BitVec 32 × Nat)
  /-- the port's 64 KiB of BAR2 (R57) -/
  staging : Mem
  /-- a push whose claim waits, with the binding it began under -/
  waiting : Option (Push × Word × Word)
  /-- what a ring operation has told the agent: position and status -/
  granted : Option (Nat × Nat)
  deriving DecidableEq, Repr

/-- Where the boot ROM stands (R49). -/
structure Boot where
  /-- failed attempts since reset, and the cycle at which the present wait ends -/
  fails : Nat
  due : Nat
  deriving DecidableEq, Repr

structure Ident where
  roothash : List (BitVec 256)
  revoke : BitVec 4
  svnfuse : BitVec 64
  devid : BitVec 12
  /-- fused sites: die, core, x, y (R10) -/
  fused : List (Nat × Nat × Nat × Nat)
  /-- the OTP secret from which reset derives the identity key pair; no access reads it (R54) -/
  secret : BitVec 256
  /-- the public half, and the certificate for it (R54) -/
  pubkey : List Byte
  cert : List Byte
  deriving DecidableEq, Repr

/-- A DRAIN or FILL under way: its partition and save area, and the record of a FILL (R65). -/
structure CopyJob where
  asid : Nat
  addr : Nat
  record : List Byte
  deriving DecidableEq, Repr

structure Pkg where
  pwrcap : Word
  capApplied : Word
  pwrstat : Word
  thermtrip : Word
  bootstat : Word
  boot : Boot
  ident : Ident
  fwDigest : BitVec 256
  fwSvn : BitVec 32
  rtDigest : BitVec 256
  /-- firmware has set the runtime digest since reset (R54) -/
  rtSet : Bool
  attreq : Word
  report : Option (List Byte)
  rails : List (BitVec 8)
  railReset : List Bool
  /-- frames awaiting their second copy, and when each is due, the oldest first (R22) -/
  railFrames : List (BitVec 24 × Nat)
  railSent : List (BitVec 24)
  dieTrained : List Bool
  fullService : List Bool
  hbmTrained : List Bool
  bports : List BPort
  ethUp : List Bool
  pcieStrap : List Bool
  pcieLink : List (Nat × Nat)
  hostver : List (BitVec 32)
  /-- the address firmware has assigned to each I/O die's ring agent (R58) -/
  agentAddr : List (BitVec 128)
  /-- datagrams and message-signalled interrupts sent out, oldest first -/
  udpOut : List (Nat × List Byte)
  msix : List (Nat × Nat)
  sprcode : List Word
  /-- the code registers of the die mesh and the package network that firmware has written since reset (R59) -/
  sprWritten : List Bool
  sprcodeB : List Word
  sprtmo : List Word
  sprsel : Word
  partcmd : Word
  partstat : Word
  fillRec : Option Nat
  copying : Option CopyJob
  catbase2 : Word
  catctl : Word
  catJob : Option (Nat × Nat × Nat)
  rpsel : List Word
  rports : List RingPort
  deriving DecidableEq, Repr

/-- What firmware and the host do beside the package's registers and instructions: the runtime digest (R54), the ring
agent's address (R58), full service of a die (R59, R60), and the host's writes to HOSTVER and to the staging of BAR2 (R57);
and the errors that the checks of R199-R202 are there to find.
The spec names no register or row for them (DESIGN CHOICE, assumption 121). -/
inductive Outside where
  | runtimeDigest (d : BitVec 256)
  | agentAddress (io : Nat) (addr : BitVec 128)
  | fullService (die : Nat)
  | hostver (io : Nat) (v : BitVec 32)
  | stage (io p off : Nat) (bytes : List Byte)
  /-- a cell of 64 bits of HBM4E has come to hold an error, one that the next read corrects or, `hard`, one that none does
  (R202) -/
  | wordError (word : Nat) (hard : Bool)
  /-- the two computations of a result that stands in a result place disagree (R199, R200) -/
  | pathsDiffer (n : Node)
  deriving DecidableEq, Repr

/-- What happens next where the spec leaves the choice to timing or to the outside (DESIGN CHOICE, assumption 1). -/
inductive Turn where
  | thread (t : ThreadId)
  | site (n : Node)
  | router (n : Node) (slot : Bool)
  /-- the k-th of the port's commands under way -/
  | port (p : PortRef) (k : Nat)
  | event (i : Instr)
  | outside (a : Outside)
  | tick (n : Nat)
  deriving DecidableEq, Repr

/-- A warm footprint: the routine last struck there (R127). -/
structure Warm where
  asid : Nat
  die : Nat
  gx : Nat
  gy : Nat
  folio : Folio
  deriving DecidableEq, Repr

structure State where
  agenda : List Turn
  cur : ThreadId
  cycle : Nat
  freeCtr : Nat
  pkg : Pkg
  threads : List Thread
  parts : List Partition
  places : List Place
  nextPlace : Nat
  sites : List Site
  rslots : List RSlot
  segs : List Seg
  left : List LeftOver
  /-- tokens on guy lines (R137, R138) -/
  guy : List GuyLine
  warm : List Warm
  rings : List Ring
  steals : List Steal
  mem : Mem
  sram : Mem
  /-- eight-byte words of HBM4E with an uncorrectable error (R202) -/
  badWords : List Nat
  /-- eight-byte words of HBM4E with an error that the next read corrects (R202) -/
  softWords : List Nat
  /-- accesses made in one step that a level has corrected a word for (R202) -/
  corrected : Nat
  slices : List Slice
  walkers : List WalkEnt
  /-- walk requests of generators in arrival order: die, core, place, port (R203) -/
  walkq : List (Nat × Nat × Nat × Nat)
  /-- the translations that generators hold (R203, R207) -/
  xlats : List GenXlat
  llc : List Llc
  reqs : List Req
  lreqs : List LReq
  resps : List Resp
  landing : List Landing
  net : Net
  deriving DecidableEq, Repr

/-! ### Reset -/

def Bank.reset : Bank :=
  { pmode := 0, inh := false, epc := 0, ecause := 0, eval := 0, tvec := 0, escratch := 0 }

/-- A thread with every register zero (DESIGN CHOICE, assumption 3). -/
def Thread.fresh (id : ThreadId) : Thread :=
  { id := id, run := .unstarted, mode := .monitor, pc := 0, gpr := Vector.replicate 32 0,
    kreg := Vector.replicate 8 0, fflags := 0, tstat := 0, scope := 0, scopeFree := false, sup := .reset,
    mon := .reset, asid := 0, event := false, lastRing := none, stbuf := [],
    imp := [], async := [], wait := .none, place := 0, lslot := 0, cmds := 0, frozen := false }

/-- The code word of a network's class after reset (R24, R39): PEN, M, K. -/
def sprcodeReset (pen m k : Nat) : Word := BitVec.ofNat 64 (pen * 2 ^ 48 + m * 2 ^ 8 + k)

def RingPort.reset : RingPort :=
  { b0 := 0, b1 := 0, b2 := 1024, staged0 := 0, staged1 := 0, donecnt := 0, busy := false, status := 0,
    queue := [], seqs := [], staging := [], waiting := none, granted := none }

/-- The package registers at the reset values of R19-R21, R39-R42, R53, R55, R64, R122 and R342, every link down
and every die untrained (R59). (DESIGN CHOICE, assumption 9.) -/
def Pkg.reset : Pkg :=
  { pwrcap := BitVec.ofNat 64 (10000 * 2 ^ 16 + 200 * 2 ^ 8), capApplied := BitVec.ofNat 64 (10000 * 2 ^ 16 + 200 * 2 ^ 8),
    pwrstat := BitVec.ofNat 64 (16 * 2 ^ 7), thermtrip := 0, bootstat := 0, boot := { fails := 0, due := 8750000000 },
    ident := { roothash := List.replicate 4 0, revoke := 0, svnfuse := 0, devid := 0, fused := [], secret := 0, pubkey := [], cert := [] },
    fwDigest := 0, fwSvn := 0, rtDigest := 0, rtSet := false, attreq := 0, report := none, rails := List.replicate 8 0,
    railReset := List.replicate 8 true, railFrames := [], railSent := [], dieTrained := List.replicate 8 false,
    fullService := List.replicate 8 false, hbmTrained := List.replicate 16 false,
    bports := List.replicate 32 { lanes := 0, peer := 0, cap := 0, mismatch := false, joined := false },
    ethUp := [false, false], pcieStrap := [true, true], pcieLink := [(0, 0), (0, 0)], hostver := [0, 0], agentAddr := [0, 0],
    udpOut := [], msix := [],
    sprcode := List.replicate 4 (sprcodeReset 0x1F 1 4) ++
      [sprcodeReset 0x3FF 1 4, sprcodeReset 0x3FF 1 4, sprcodeReset 0x3FF 2 8, sprcodeReset 0x3FF 1 4] ++
      List.replicate 4 (sprcodeReset 0xFFFF 2 14),
    sprWritten := List.replicate 8 false,
    sprcodeB := List.replicate 4 (sprcodeReset 0xFFFF 2 14), sprtmo := [4096, 16384, 65536], sprsel := 0,
    partcmd := 0, partstat := 0, fillRec := none, copying := none, catbase2 := 0, catctl := 0, catJob := none,
    rpsel := [0, 0], rports := List.replicate 128 .reset }

def Net.reset : Net :=
  { nextId := [], flight := [], ingress := [], failed := [], slots := [], windows := [], notices := [], timers := [],
    retain := [], acks := [], owed := [], delivered := [], counters := [], transit := [], kept := [], serial := 1 }

/-- The machine right after reset: system core 0 of IO0 in the boot ROM in monitor mode, the other 31 system
cores waiting for firmware (R49, R333), no partition, memory with nothing listed. -/
def State.reset : State :=
  { agenda := [], cur := .sys 0, cycle := 0, freeCtr := 0, pkg := .reset,
    threads := { Thread.fresh (.sys 0) with run := .rom } ::
      (List.range 31).map (fun n => Thread.fresh (.sys (n + 1))),
    parts := [], places := [], nextPlace := 1, sites := [], rslots := [], segs := [], left := [], guy := [], warm := [],
    rings := [], steals := [], mem := [], sram := [], badWords := [], softWords := [], corrected := 0, slices := [], walkers := [], walkq := [], xlats := [], llc := [], reqs := [], lreqs := [],
    resps := [], landing := [], net := .reset }

end Sys2Proof.Machine
end

