-- ==== Sys2Proof/Machine/Data.lean ====
section
/-! DEFINITION. What every file of the machine uses: lists, bytes and numbers, and memory as a list of bytes in its one
canonical form. -/

namespace Sys2Proof.Machine

/-- The outcome of a step of this machine. -/
abbrev Out := Host.Outcome State Fault Refusal

/-! ### Lists -/

/-- `l` with `f` applied to the members that satisfy `p`. -/
def updBy {α : Type} (p : α → Bool) (f : α → α) (l : List α) : List α :=
  l.map (fun u => if p u then f u else u)

/-- `l` with its first member that satisfies `p` replaced by `x`, or with `x` at its end. -/
def putBy {α : Type} (p : α → Bool) (x : α) : List α → List α
  | [] => [x]
  | y :: l => if p y then x :: l else y :: putBy p x l

/-- `l` with `f` applied to its first member that satisfies `p`. -/
def updFirst {α : Type} (p : α → Bool) (f : α → α) : List α → List α
  | [] => []
  | x :: l => if p x then f x :: l else x :: updFirst p f l

/-- `l` with position `i` replaced. -/
def setAt {α : Type} (l : List α) (i : Nat) (x : α) : List α := l.set i x

/-- `k` bytes of a number, least significant first (R2). -/
def natBytes : Nat → Nat → List Byte
  | 0, _ => []
  | k + 1, n => BitVec.ofNat 8 n :: natBytes k (n / 256)

/-- The number whose bytes these are, least significant first (R2). -/
def bytesNat : List Byte → Nat
  | [] => 0
  | b :: l => b.toNat + 256 * bytesNat l

/-- The signed value of the low `n` bits of `v`. -/
def signed (n v : Nat) : Int := if v % 2 ^ n < 2 ^ (n - 1) then v % 2 ^ n else (v % 2 ^ n : Int) - 2 ^ n

/-- A signed value in 64 bits. -/
def ofSigned (v : Int) : Word := BitVec.ofInt 64 v

/-! ### The bytes of memory -/

/-- What an address reads as: its listed byte, or zero when nothing is listed (DESIGN CHOICE, assumption 4). -/
def memByte : Mem → Nat → Byte
  | [], _ => 0
  | (b, v) :: m, a => if b = a then v else memByte m a

/-- Writes one byte and keeps the form: rising addresses, no zero entry. -/
def memPut : Mem → Nat → Byte → Mem
  | [], a, v => if v = 0 then [] else [(a, v)]
  | (b, u) :: m, a, v =>
    if b < a then (b, u) :: memPut m a v
    else if b = a then (if v = 0 then m else (a, v) :: m)
    else if v = 0 then (b, u) :: m else (a, v) :: (b, u) :: m

/-- `k` bytes from `a` on. -/
def memRead (m : Mem) (a : Nat) : Nat → List Byte
  | 0 => []
  | k + 1 => memByte m a :: memRead m (a + 1) k

/-- Writes bytes from `a` on. -/
def memWrite (m : Mem) (a : Nat) : List Byte → Mem
  | [] => m
  | b :: l => memWrite (memPut m a b) (a + 1) l

/-- Every listed address lies above `lo`, addresses rise strictly and no entry is zero. -/
def Memory.above : Nat → Mem → Bool
  | _, [] => true
  | lo, (a, v) :: m => decide (lo ≤ a) && decide (v ≠ 0) && Memory.above (a + 1) m

/-- The canonical form of memory. -/
def Memory.wf (m : Mem) : Bool := Memory.above 0 m

/-! ### Stacks and base dies (R8, R218) -/

/-- The xor of the `n` groups of `w` bits of `l`. -/
def xorGroups (w l : Nat) : Nat → Nat
  | 0 => 0
  | n + 1 => (l / 2 ^ (w * n) % 2 ^ w) ^^^ xorGroups w l n

/-- The HBM4E stack that owns a physical address (R218). -/
def stackOf (pa : Nat) : Nat := xorGroups 4 (pa / 4096) 9

/-- The base die of a line. -/
def baseOf (line : Nat) : Nat := stackOf (line * 128) / 2

end Sys2Proof.Machine
end

