-- ==== Sys2Proof/Machine/Spray.lean ====
section
/-! DEFINITION. The sending side of the fragment spray networks: endpoints and classes, coding in GF(2^8), codes and
planes, fragments with their flits, response timers, and what each message carries (R23-R32, R37, R39, R45, R46). -/

namespace Sys2Proof

/-! ### Endpoints (R24, R25) -/

def coreEp (die core : Nat) : BitVec 12 := BitVec.ofNat 12 (256 * die + core)
def sliceEp (die idx : Nat) : BitVec 12 := BitVec.ofNat 12 (256 * die + 32 + idx)
def llcEp (base : Nat) : BitVec 12 := BitVec.ofNat 12 (256 * base + 96)
def sysEp (n : Nat) : BitVec 12 := BitVec.ofNat 12 (256 * (8 + n / 16) + n % 16)
def portGroupEp (io : Nat) : BitVec 12 := BitVec.ofNat 12 (256 * (8 + io) + 64)

def threadEp : ThreadId → BitVec 12
  | .sys n => sysEp n
  | .ctl die core _ => coreEp die core

/-- The values that name an endpoint; all others are reserved (R25). -/
def endpointOk (e : BitVec 12) : Bool :=
  let die := e.toNat / 256
  let n := e.toNat % 256
  if die < 8 then n ≤ 96 else die < 10 && (n < 16 || n = 64)

/-- Cores and slices attach to the die mesh (R24). -/
def onMesh (e : BitVec 12) : Bool := e.toNat < 2048 && e.toNat % 256 < 96

/-- The network of a message (R24). -/
def Msg.net (m : Msg) : Nat :=
  if m.dev then 2 else if onMesh m.src && onMesh m.dst && m.src.toNat / 256 = m.dst.toNat / 256 then 0 else 1

/-- The class of a message: above 256 bytes it is BULK, whatever it carries (R26). (DEDUCED, assumption 31.) -/
def Msg.cls (m : Msg) : Nat :=
  if m.body.length > 256 then 2 else match m.traffic with | .request => 0 | .response => 1 | .control => 3

/-- The ends of a message exist: endpoints of the package, or devices (R25). -/
def Msg.endsOk (m : Msg) : Bool := m.dev || (endpointOk m.src && endpointOk m.dst)

/-- An endpoint's number among those of every device: Brosum's port groups are apart by the device they belong to. -/
def groupOf (dev ep : Nat) : Nat := 4096 * (dev + 1) + ep

/-- The endpoint whose slots and counters a message's destination has: for Brosum the port group of the device it goes to, so that
what a peer decodes is the peer's (R24, R42). -/
def MsgKey.ep (k : MsgKey) : Nat := if k.net = 2 then groupOf k.dst (portGroupEp k.io).toNat else k.dst

end Sys2Proof

namespace Sys2Proof.Machine

def State.updNet (s : State) (f : Net → Net) : State := { s with net := f s.net }

/-! ### GF(2^8) (R28) -/

/-- `a` times x modulo 0x11D. -/
def gfx (a : Nat) : Nat := if a ≥ 128 then (2 * a) ^^^ 0x11D else 2 * a

/-- The product over the low `k` bits of `b`. -/
def gmulBits : Nat → Nat → Nat → Nat
  | 0, _, _ => 0
  | k + 1, a, b => (if b % 2 = 1 then a else 0) ^^^ gmulBits k (gfx a) (b / 2)

def gmul (a b : Nat) : Nat := gmulBits 8 a b

/-- The product of `a^2`, `a^4`, ..., `k` of them. -/
def gfPow : Nat → Nat → Nat
  | 0, _ => 1
  | k + 1, a => gmul (gmul a a) (gfPow k (gmul a a))

/-- The inverse, `a^254`. -/
def ginv (a : Nat) : Nat := gfPow 7 a

/-- The coefficient of data fragment `i` in parity fragment `j`. -/
def parityCoef (j i : Nat) : Nat := if j = 0 then 1 else ginv ((0x80 + j) ^^^ i)

/-- The row of fragment `n` under `k` data fragments. -/
def fragRow (k n : Nat) : List Nat :=
  if n < k then (List.range k).map (fun i => if i = n then 1 else 0) else (List.range k).map (parityCoef (n - k))

def xorBytes (a b : List Nat) : List Nat := List.zipWith (fun x y => x ^^^ y) a b

/-- Parity fragment `j` of data fragments of `f` bytes. -/
def parityFrag (f j : Nat) (data : List (List Nat)) : List Nat :=
  (data.mapIdx (fun i d => d.map (gmul (parityCoef j i)))).foldl xorBytes (List.replicate f 0)

/-- One column of the elimination: a row with a nonzero coefficient there is scaled to 1 and removed from every
other row. -/
def eliminate (c : Nat) (rows : List (List Nat × List Nat)) : List (List Nat × List Nat) :=
  match rows.find? (fun r => r.1.getD c 0 ≠ 0 && (r.1.take c).all (fun x => x = 0)) with
  | none => rows
  | some p =>
    let q := ginv (p.1.getD c 0)
    let a := p.1.map (gmul q)
    let v := p.2.map (gmul q)
    rows.map (fun r =>
      if r = p then (a, v)
      else
        let x := r.1.getD c 0
        (xorBytes r.1 (a.map (gmul x)), xorBytes r.2 (v.map (gmul x))))

/-- The data fragments that `k` fragments, given by number and payload, rebuild. -/
def rebuild (k : Nat) (frags : List (Nat × List Nat)) : List (List Nat) :=
  let done := (List.range k).foldl (fun rows c => eliminate c rows) (frags.map (fun f => (fragRow k f.1, f.2)))
  (List.range k).map (fun c => match done.find? (fun r => r.1.getD c 0 ≠ 0) with | some r => r.2 | none => [])

/-! ### Fragments on the wire (R31, R32) -/

/-- The 96 bits of a header. -/
def FragHdr.pack (h : FragHdr) : BitVec 96 :=
  h.msgid ++ h.src ++ h.dst ++ h.len ++ h.idx ++ h.k ++ h.m ++ h.fsz ++ h.cls ++ h.net ++ h.retx ++ h.seq ++ h.plane ++ h.rsv

def FragHdr.unpack (w : BitVec 96) : FragHdr :=
  { msgid := w.extractLsb' 80 16, src := w.extractLsb' 68 12, dst := w.extractLsb' 56 12, len := w.extractLsb' 44 12
    idx := w.extractLsb' 40 4, k := w.extractLsb' 36 4, m := w.extractLsb' 33 3, fsz := w.extractLsb' 29 4
    cls := w.extractLsb' 27 2, net := w.extractLsb' 25 2, retx := w.extractLsb' 24 1, seq := w.extractLsb' 8 16
    plane := w.extractLsb' 4 4, rsv := w.extractLsb' 0 4 }

/-- `n` bits of `v`, the lowest first, into the CRC register `c` of the IEEE 802.3 polynomial. -/
def crcBits : Nat → Nat → Nat → Nat
  | 0, _, c => c
  | n + 1, v, c => crcBits n (v / 2) (if (c ^^^ v) % 2 = 1 then (c / 2) ^^^ 0xEDB88320 else c / 2)

/-- CRC-32 over the 32 bytes of a flit. -/
def flitCrc (d : BitVec 256) : BitVec 32 := BitVec.ofNat 32 (crcBits 256 d.toNat 0xFFFFFFFF ^^^ 0xFFFFFFFF)

/-- A flit with the CRC of its sideband. -/
structure Flit where
  data : BitVec 256
  crc : BitVec 32
  deriving DecidableEq, Repr

def flitOf (d : BitVec 256) : Flit := { data := d, crc := flitCrc d }

/-- The payload flits, `n` of them. -/
def payFlits : Nat → List Byte → List Flit
  | 0, _ => []
  | n + 1, bs => flitOf (BitVec.ofNat 256 (bytesNat (bs.take 32))) :: payFlits n (bs.drop 32)

/-- The flits of a fragment: the header in bytes 0-11 of flit 0, then the payload (R31). -/
def Frag.flits (f : Frag) : List Flit := flitOf (f.hdr.pack.setWidth 256) :: payFlits (f.hdr.fsz.toNat + 1) f.pay

/-- Flits as they arrive with what the wire did to them. -/
def hurt (errs : List WireErr) (fs : List Flit) : List Flit :=
  errs.foldl (fun l e => l.modify e.flit (fun x =>
    { data := x.data ^^^ e.mask.extractLsb' 0 256, crc := x.crc ^^^ e.mask.extractLsb' 256 32 })) fs

/-- Every flit passes its CRC. -/
def crcGood (fs : List Flit) : Bool := fs.all (fun x => flitCrc x.data = x.crc)

/-- The fragment that flits hold. -/
def fragOf (io : Nat) (fs : List Flit) : Frag :=
  { hdr := FragHdr.unpack ((fs.headD (flitOf 0)).data.setWidth 96), pay := fs.tail.flatMap (fun x => natBytes 32 x.data.toNat), io := io }

def Frag.key (f : Frag) : MsgKey :=
  { net := f.hdr.net.toNat, src := f.hdr.src.toNat, dst := f.hdr.dst.toNat, msgid := f.hdr.msgid.toNat, io := f.io }

/-! ### Codes and planes (R24, R27, R29, R30, R39, R59) -/

/-- Planes of an on-chip network. -/
def planesOf (net : Nat) : Nat := if net = 0 then 5 else if net = 1 then 10 else 16

/-- The code register of a network and class; Brosum's belong to an I/O die (R39). -/
def codeReg (s : State) (io net cls : Nat) : Nat :=
  if net = 2 ∧ io = 1 then (s.pkg.sprcodeB.getD cls 0).toNat else (s.pkg.sprcode.getD (4 * net + cls) 0).toNat

/-- k and m of the code in force on an on-chip network: R59's reduced codes until firmware has written the register, whose
own value is R24's from reset (R39). The spec gives both (DESIGN CHOICE, assumption 126). -/
def onChipCode (s : State) (net cls : Nat) : Nat × Nat :=
  if s.pkg.sprWritten.getD (4 * net + cls) false then
    (bitsOf (codeReg s 0 net cls) 0 4, bitsOf (codeReg s 0 net cls) 8 3)
  else if net = 1 ∧ cls = 2 then (6, 4) else (3, 2)

def noPort : BPort := { lanes := 0, peer := 0, cap := 0, mismatch := false, joined := false }

/-- Ports of I/O die `io` trained to device `dst` and enabled for the class, in ascending order (R30). -/
def spraySet (s : State) (io cls dst : Nat) : List Nat :=
  (List.range 16).filter (fun i =>
    let b := s.pkg.bports.getD (16 * io + i) noPort
    b.joined && b.lanes ≠ 0 && b.peer = dst && bitsOf (codeReg s io 2 cls) (48 + i) 1 = 1)

/-- The I/O die that sends to a device: the first with a port trained to it. (DEDUCED, assumption 32.) -/
def brosumIo (s : State) (dst : Nat) : Nat :=
  match (List.range 32).find? (fun p =>
      let b := s.pkg.bports.getD p noPort
      b.lanes ≠ 0 && b.peer = dst) with
  | some p => p / 16
  | none => 0

/-- The capability word of the device `dst` as exchanged (R45). -/
def peerCap (s : State) (dst : Nat) : Nat :=
  match s.pkg.bports.find? (fun b => b.lanes ≠ 0 && b.peer = dst) with | some b => b.cap.toNat | none => 0

/-- The device at the other end of a Brosum message: a peer's message is coded toward us as ours toward it (PRESUMED,
assumption 13). -/
def msgFar (s : State) (m : Msg) : Nat := if m.dst = s.pkg.ident.devid then m.src.toNat else m.dst.toNat

/-- The I/O die whose port group a message has to do with, 0 on an on-chip network. -/
def msgIo (s : State) (m : Msg) : Nat := if m.dev then brosumIo s (msgFar s m) else 0

/-- The code a message leaves under; `none` is R30's refusal. -/
def codeFor (s : State) (m : Msg) : Option Code :=
  if !m.dev then
    let (k, p) := onChipCode s m.net m.cls
    some { k := k, m := p, fmax := 512, members := List.range (planesOf m.net) }
  else
    let dev := msgFar s m
    let io := msgIo s m
    let c := codeReg s io 2 m.cls
    let set_ := spraySet s io m.cls dev
    let cap := peerCap s dev
    let p := bitsOf c 8 3
    if set_.length < p + 1 then none
    else some { k := min (min (bitsOf c 0 4) (set_.length - p)) (bitsOf cap 24 4), m := min p (bitsOf cap 21 3),
                fmax := min 512 (32 * (bitsOf cap 17 4 + 1)), members := set_ }

/-- F of R27. -/
def fragSize (l k : Nat) : Nat := ((l + k - 1) / k + 31) / 32 * 32

/-- A transfer cut into pieces of at most `n` bytes, `k` pieces at most (R26). -/
def cutInto (n : Nat) : Nat → List Byte → List (List Byte)
  | 0, _ => []
  | k + 1, bs => if bs.length ≤ n then [bs] else bs.take n :: cutInto n k (bs.drop n)

/-- The greatest message under a code, and the pieces a transfer is cut into (R26, R46). -/
def Code.span (c : Code) : Nat := min 4096 (c.fmax * c.k)

def pieces (c : Code) (body : List Byte) : List (List Byte) := cutInto c.span (body.length / c.span + 1) body

/-- The next message ID of a source endpoint on a network, and the state with it taken (R32). (DESIGN CHOICE, assumption 30.) -/
def takeMsgId (s : State) (net src io : Nat) : Nat × State :=
  let mine (x : Nat × Nat × Nat × Nat) : Bool := x.1 = net && x.2.1 = src && x.2.2.1 = io
  let n := match s.net.nextId.find? mine with | some x => x.2.2.2 | none => 0
  (n, s.updNet (fun w => { w with nextId := putBy mine (net, src, io, (n + 1) % 65536) w.nextId }))

/-- The fragments of one message under a code, in the order of their numbers; those whose plane is disabled are not
sent (R27-R30). -/
def fragments (s : State) (m : Msg) (cls : Nat) (key : MsgKey) (c : Code) (retx : Bool) : List Frag :=
  let f := fragSize m.body.length c.k
  let padded := m.body.map BitVec.toNat ++ List.replicate (c.k * f - m.body.length) 0
  let data := (List.range c.k).map (fun i => (padded.drop (i * f)).take f)
  let all := data ++ (List.range c.m).map (fun j => parityFrag f j data)
  let size := c.members.length
  let pen := codeReg s 0 key.net cls
  (all.mapIdx (fun n pay =>
    { hdr := { msgid := BitVec.ofNat 16 key.msgid, src := m.src, dst := m.dst, len := BitVec.ofNat 12 (m.body.length - 1)
               idx := BitVec.ofNat 4 n, k := BitVec.ofNat 4 c.k, m := BitVec.ofNat 3 c.m, fsz := BitVec.ofNat 4 (f / 32 - 1)
               cls := BitVec.ofNat 2 cls, net := BitVec.ofNat 2 key.net, retx := BitVec.ofBool retx, seq := m.seq
               plane := BitVec.ofNat 4 (c.members.getD ((key.msgid % size + n) % size) 0), rsv := 0 }
      pay := pay.map (BitVec.ofNat 8), io := key.io : Frag })).filter
    (fun x => key.net = 2 || bitsOf pen (48 + x.hdr.plane.toNat) 1 = 1)

/-! ### Timers (R37, R41) -/

/-- The decode timeout of a network, from SPRTMO (R41). (DEDUCED, assumption 74.) -/
def decodeTimeout (s : State) (net : Nat) : Nat := (s.pkg.sprtmo.getD net 0).toNat % 2 ^ 32

/-- Four decode timeouts, or eight of Brosum's where it is crossed (R37). -/
def responseSpan (s : State) (net : Nat) : Nat := if net = 2 then 8 * decodeTimeout s 2 else 4 * decodeTimeout s net

/-- A request on the way to the port group that sends it on crosses Brosum (R37). -/
def Cargo.crosses : Cargo → Bool
  | .remote _ _ _ => true
  | _ => false

/-- The entry a message keeps for its requester: a request arms the timer as it is issued; a later message of the same
request, and its response or acknowledgement, stand under that timer (R37). (DESIGN CHOICE, assumption 33.) -/
def timerFor (s : State) (m : Msg) (key : MsgKey) (cls : Nat) (cargo : Option Cargo) : List Timer :=
  if m.who = .unit then []
  else
    let span := responseSpan s (if (cargo.map Cargo.crosses).getD false then 2 else key.net)
    let due := match s.net.timers.find? (fun t => t.who = m.who) with | some t => t.due | none => s.cycle + span
    [{ who := m.who, key := key, cls := cls, due := due, answer := m.traffic ≠ .request }]

/-- Every timer of an agent is taken down. -/
def dropTimers (s : State) (who : Agent) : State :=
  s.updNet (fun w => { w with timers := w.timers.filter (fun t => t.who ≠ who) })

/-! ### Sending (R23, R26-R30, R43) -/

/-- Whether a Brosum message leaves a retain copy: every one does toward a peer with the feature, but for the link's own
acknowledgements and notices, whose acknowledgements would never end (R43, R46; DESIGN CHOICE, assumption 127). -/
def retained (s : State) (m : Msg) (cargo : Option Cargo) : Bool :=
  m.dev && bitsOf (peerCap s (msgFar s m)) 2 1 = 1 &&
  (match cargo with | some (.ack _) => false | some (.notice _) => false | _ => true)

/-- One message of a transfer is coded and sent; what it carries is in transit until the message is delivered. -/
def encodeOne (cls : Nat) (c : Code) (cargo : Option Cargo) (s : State) (m : Msg) : State :=
  let io := msgIo s m
  let (id, s1) := takeMsgId s m.net m.src.toNat io
  let key : MsgKey := { net := m.net, src := m.src.toNat, dst := m.dst.toNat, msgid := id, io := io }
  s1.updNet (fun w => { w with
    flight := w.flight ++ fragments s1 m cls key c false
    failed := w.failed.filter (fun f => f.1 ≠ key)
    timers := w.timers ++ timerFor s1 m key cls cargo
    transit := w.transit ++ (cargo.map (fun g => (some key, g))).toList
    retain := if retained s m cargo then w.retain ++ [{ msg := m, key := key, cls := cls, code := c, sentAt := s.cycle, retx := false }]
      else w.retain })

/-- The census silence of a partition starts again (R102). -/
def stir (s : State) (asid : Nat) : State :=
  { s with parts := updBy (fun p => p.asid = asid) (fun p => { p with silent := s.cycle }) s.parts }

/-- The partition an agent acts for. -/
def agentAsid (s : State) (a : Agent) : Option Nat :=
  let ofPlace (k : Nat) : Option Nat := (s.places.find? (fun p => p.id = k)).map (fun p => p.asid)
  match a with
  | .thread t => (s.threads.find? (fun u => u.id = t)).map (fun u => u.asid)
  | .gen place _ _ => ofPlace place
  | .line die core line => (s.landing.find? (fun l => l.die = die && l.core = core && l.line = line)).map (fun l => l.asid)
  | .seam n _ _ => ofPlace n.place
  | .guy _ asid _ _ => some asid
  | .node n => ofPlace n.place
  | .slice no =>
    let of (p : Pend) : Option Nat := (p.waiting ++ p.held).findSome? (fun r => ofPlace r.place)
    match s.slices.findSome? (fun x => (x.pend.find? (fun p => p.no = no)).bind of) with
    | some a => some a
    | none => (s.lreqs.find? (fun l => l.no = no)).bind (fun l => l.req.bind (fun r => ofPlace r.place))
  | .ring _ _ | .unit => none

/-- The partition whose traffic a cargo is, where its agent tells none. -/
def cargoAsid (s : State) (c : Option Cargo) : Option Nat :=
  match c with
  | some (.steal no) | some (.stealBack no) | some (.stealAck no) => (s.steals.find? (fun x => x.no = no)).map (fun x => x.asid)
  | some (.toLlc no) | some (.fromLlc no) => agentAsid s (.slice no)
  | _ => none

/-- A message of an agent is sent or received: its partition is not silent (R102). -/
def stirAgent (s : State) (a : Agent) (c : Option Cargo) : State :=
  match (agentAsid s a).or (cargoAsid s c) with | some k => stir s k | none => s

/-- A transfer leaves cut into messages, each with its own class and code: the last of a cut one may be no BULK (R26). -/
def sendUnder (s : State) (m : Msg) (cargo : Option Cargo) (c : Code) : State :=
  (pieces c m.body).foldl (fun st b =>
    let x := { m with body := b }
    encodeOne x.cls (if x.cls = m.cls then c else (codeFor st x).getD c) cargo st x) (stirAgent s m.who cargo)

/-- A message inside the package sets out with its cargo. -/
def sendMessage (s : State) (m : Msg) (cargo : Cargo) : State :=
  match codeFor s m with
  | some c => sendUnder s m (some cargo) c
  | none => s

/-- A message between two endpoints of the package. -/
def packageMsg (src dst : BitVec 12) (traffic : Traffic) (seq : Nat) (body : List Byte) (who : Agent) : Msg :=
  { src := src, dst := dst, dev := false, traffic := traffic, seq := BitVec.ofNat 16 seq, body := body, who := who }

/-- Nothing of a cargo is on its way or lost. -/
def State.arrived (s : State) (c : Cargo) : Bool := !s.net.transit.any (fun x => x.2 = c)

/-- A cargo is on its way no more. -/
def State.offTransit (s : State) (c : Cargo) : State :=
  s.updNet (fun w => { w with transit := w.transit.filter (fun x => x.2 ≠ c) })

/-- The next number for a notice, an acknowledgement, a steal or a request of the LLC. -/
def takeSerial (s : State) : Nat × State := (s.net.serial, s.updNet (fun w => { w with serial := w.serial + 1 }))

end Sys2Proof.Machine
end

