-- ==== Sys2Proof/Machine/Memory.lean ====
section
/-! DEFINITION. The levels of memory: slices and their lines, the LLC of each base die, HBM4E, their words with errors and
the expander, translation and permission (chapter 09), and one access at a time through them. -/

namespace Sys2Proof.Machine

/-! ### Stacks (R7, R59, R202) -/

/-- The end of the physical addresses that have storage: sixteen stacks of 64 GiB, less the 32 MiB of each that hold the
annex queues (R7, R202). R218's fold spreads every 64 KiB over the sixteen stacks, so the addresses from 0 on fill them
evenly (DEDUCED, assumption 16). -/
def memTop : Nat := 16 * (64 * 2 ^ 30 - 32 * 2 ^ 20)

/-- Whether an address has storage on a stack that is trained; an access before that is NOT_READY (R59), and so is one of
an address that no stack holds (DESIGN CHOICE, assumption 16). -/
def stackReady (s : State) (pa : Nat) : Bool := pa < memTop && s.pkg.hbmTrained.getD (stackOf pa) false

/-! ### Words with errors (R202) -/

/-- The bytes touch the eight-byte word `w`. -/
def inWord (pa n w : Nat) : Bool := w * 8 < pa + n && pa < w * 8 + 8

/-- The bytes cover all of the word `w`. -/
def overWord (pa n w : Nat) : Bool := pa ≤ w * 8 && w * 8 + 8 ≤ pa + n

/-- Some of the words is covered only in part. -/
def torn (ws : List Nat) (pa n : Nat) : Bool := ws.any (fun w => inWord pa n w && !overWord pa n w)

/-- The words of a line. -/
def wordsOf (line : Nat) (ws : List Nat) : List Nat := ws.filter (fun w => w / 16 = line)

/-- What a level delivers: the bytes, the words among them with an uncorrectable error, and those it has corrected. -/
structure Got where
  data : List Byte
  bad : List Nat
  fixed : List Nat
  deriving DecidableEq, Repr

/-- The part of what was read from `base` on that bytes from `pa` on make up. -/
def Got.cut (g : Got) (base pa n : Nat) : Got :=
  { data := (g.data.drop (pa - base)).take n, bad := g.bad.filter (inWord pa n), fixed := g.fixed.filter (inWord pa n) }

/-! ### Translated accesses -/

/-- What an access comes to: its value in a state, a fault with code, subcode and the entry at which the walk
ended (R225, R431), or a wait at a slice. -/
inductive Acc (α : Type) where
  | ok (s : State) (v : α)
  | fault (s : State) (code sub : Nat) (pte : Word)
  | wait

/-- One access after another. -/
def Acc.bind {α β : Type} : Acc α → (State → α → Acc β) → Acc β
  | .ok s v, f => f s v
  | .fault s c k p, _ => .fault s c k p
  | .wait, _ => .wait

/-- The bytes that are delivered: an uncorrectable word is a MEMORY fault, a corrected one counts for the work that
consumes the data (R202). -/
def useGot (pte : Word) (s : State) (g : Got) : Acc (List Byte) :=
  if !g.bad.isEmpty then .fault s 10 1 pte
  else .ok (if g.fixed.isEmpty then s else { s with corrected := s.corrected + 1 }) g.data

/-- An access has corrected a word: the work it was for takes the verdict corrected (R202, R256). -/
def correctedIn (s s1 : State) : Bool := s.corrected < s1.corrected

/-! ### The LLC (R202, R210, R218) -/

def llcAt (s : State) (base : Nat) : Llc :=
  (s.llc.find? (fun x => x.base = base)).getD { base := base, lines := [], bad := [], soft := [], fills := [], queue := [], annex := [] }

def State.setLlc (s : State) (x : Llc) : State := { s with llc := putBy (fun y => y.base = x.base) x s.llc }

/-- A line is resident and the most recently used of its set of 16 ways: the least recently used one leaves, its errors with
it to HBM4E; a line that comes in has its correctable words corrected there, which are told, and brings the others (R202,
R210). -/
def llcHold (s : State) (line : Nat) : State × List Nat :=
  let x := llcAt s (baseOf line)
  let rest := x.lines.filter (fun y => y ≠ line)
  let set_ := rest.filter (fun y => y % 2 ^ 20 = line % 2 ^ 20)
  let out := if set_.length ≥ 16 then set_.take 1 else []
  let gone (w : Nat) : Bool := out.contains (w / 16)
  let x1 := { x with lines := rest.filter (fun y => !out.contains y) ++ [line]
                     bad := x.bad.filter (fun w => !gone w), soft := x.soft.filter (fun w => !gone w) }
  let s1 := { s with badWords := s.badWords.filter (fun w => !gone w) ++ x.bad.filter gone }
  if x.lines.contains line then (s1.setLlc x1, [])
  else ({ s1 with softWords := s1.softWords.filter (fun w => w / 16 ≠ line) }.setLlc { x1 with bad := x1.bad ++ wordsOf line s1.badWords },
        wordsOf line s.softWords)

/-- Bytes of a line read at the LLC, which corrects its own copy. -/
def llcGet (s : State) (pa n : Nat) : State × Got :=
  let (s1, f) := llcHold s (pa / 128)
  let x := llcAt s1 (baseOf (pa / 128))
  (s1.setLlc { x with soft := x.soft.filter (fun w => !inWord pa n w) },
    { data := memRead s1.mem pa n, bad := x.bad.filter (inWord pa n), fixed := (f ++ x.soft).filter (inWord pa n) })

/-- Bytes of a line written at the LLC (R231): a word they cover is whole again. -/
def llcPut (s : State) (pa : Nat) (bs : List Byte) : State :=
  let (s1, _) := llcHold s (pa / 128)
  let x := llcAt s1 (baseOf (pa / 128))
  { s1.setLlc { x with bad := x.bad.filter (fun w => !overWord pa bs.length w), soft := x.soft.filter (fun w => !inWord pa bs.length w) } with
    mem := memWrite s1.mem pa bs }

/-- Bytes from a 64-byte boundary on written at the LLC, 64 at a time. -/
def llcPutAll : Nat → State → Nat → List Byte → State
  | 0, s, _, _ => s
  | k + 1, s, pa, bs => if bs.isEmpty then s else llcPutAll k (llcPut s pa (bs.take 64)) (pa + 64) (bs.drop 64)

/-- A write of these bytes at the LLC covers a word with an uncorrectable error only in part. -/
def llcTorn (s : State) (pa n : Nat) : Bool :=
  let x := llcAt s (baseOf (pa / 128))
  torn (if x.lines.contains (pa / 128) then x.bad else s.badWords) pa n

/-- A line is written back, its uncorrectable words with it. -/
def llcBack (s : State) (line : Nat) (data : List Byte) (bad : List Nat) : State :=
  let s1 := llcPut s (line * 128) data
  let x := llcAt s1 (baseOf line)
  s1.setLlc { x with bad := x.bad ++ bad }

/-- An access made in one step waits at the LLC behind the requests that stand there: any to its line, and all while the queue
is full or the annex holds anything (R218). -/
def llcBusy (s : State) (line : Nat) : Bool :=
  let x := llcAt s (baseOf line)
  x.queue.length ≥ 1024 || !x.annex.isEmpty || (s.lreqs ++ x.queue).any (fun q => q.line = line)

/-- A plain store has reached a registered ring control block (R97). -/
def markRing (s : State) (pa n : Nat) : State :=
  { s with rings := updBy (fun r => r.pa < pa + n && pa < r.pa + 64) (fun r => { r with stored := true }) s.rings }

/-- A write performed at the LLC, or in the boot SRAM. A partial write of a word with an uncorrectable error is a MEMORY fault
(R202). -/
def llcStore (s : State) (x : Xl) (bs : List Byte) : Acc Unit :=
  if x.sram then .ok { s with sram := memWrite s.sram x.pa bs } ()
  else if !stackReady s x.pa then .fault s 10 2 x.pte
  else if llcTorn s x.pa bs.length then .fault s 10 1 x.pte
  else .ok (llcPut (markRing s x.pa bs.length) x.pa bs) ()

/-! ### Slices (R209-R213) -/

/-- The slice a line is homed in (R212). -/
def sliceIndex (iset pa : Nat) : Nat :=
  let l := pa % 2 ^ 48 / 128
  if iset = 0 then 16 * (pa / 2 ^ 35 % 4) + xorGroups 4 l 11
  else if iset = 1 then 32 * (pa / 2 ^ 35 % 2) + xorGroups 5 l 9
  else xorGroups 6 l 7

/-- A slice with nothing in it. -/
def emptySlice (d i : Nat) : Slice :=
  { die := d, idx := i, lines := [], pend := [], resv := none, groups := [], waitMcast := [], tiles := [] }

def sliceAt (s : State) (d i : Nat) : Slice :=
  (s.slices.find? (fun x => x.die = d && x.idx = i)).getD (emptySlice d i)

def State.setSlice (s : State) (x : Slice) : State :=
  { s with slices := putBy (fun y => y.die = x.die && y.idx = x.idx) x s.slices }

/-- The key of a line: a line of a compressed window is kept apart from the line of the directory that has its
address (R219, R220). (DESIGN CHOICE, assumption 65.) -/
def lineKey (x : Xl) : Nat := x.pa / 128 + if x.comp then 2 ^ 41 else 0

/-- The key of a request's line. -/
def Req.line (r : Req) : Nat := r.pa / 128 + if r.comp.isSome then 2 ^ 41 else 0

/-- A line as most recently used (R210). -/
def Slice.touch (x : Slice) (l : SLine) : Slice :=
  { x with lines := x.lines.filter (fun y => y.line ≠ l.line) ++ [l] }

def Slice.drop (x : Slice) (line : Nat) : Slice := { x with lines := x.lines.filter (fun y => y.line ≠ line) }

def Slice.find (x : Slice) (line : Nat) : Option SLine := x.lines.find? (fun y => y.line = line)

def Slice.pending (x : Slice) (line : Nat) : Bool := x.pend.any (fun p => p.line = line)

/-- The line is on its way to the LLC, and accesses to it wait (R211). -/
def Slice.writingBack (x : Slice) (line : Nat) : Bool := x.pend.any (fun p => p.line = line && p.kind = .writeback)

/-- An entry is free for an access that has reserved none (R213, R214). -/
def Slice.hasRoom (x : Slice) : Bool := x.pend.length < if x.resv.isSome then 47 else 48

/-- Fills of the line in flight learn that a write to it has been acknowledged, and its group takes no more joiners
(R215, R217). -/
def Slice.written (x : Slice) (line : Nat) : Slice :=
  { x with
    pend := x.pend.map (fun p => if p.line = line then { p with acked := true } else p)
    groups := updBy (fun g => g.line = line) (fun g => { g with closed := true }) x.groups }

/-- The way that a line takes in a full set of 16: the least recently used (R210). -/
def Slice.victim (x : Slice) (line : Nat) : Option SLine :=
  let set_ := x.lines.filter (fun y => y.line % 2048 = line % 2048 && y.line ≠ line)
  if set_.length < 16 then none else set_.head?

/-- Bytes put over a line from offset `o` on. -/
def overlay (data : List Byte) (o : Nat) (bs : List Byte) : List Byte :=
  data.take o ++ bs ++ data.drop (o + bs.length)

/-- Bytes of a line that a slice holds, and the line with the words among them corrected (R202). -/
def SLine.got (l : SLine) (pa n : Nat) : SLine × Got :=
  ({ l with soft := l.soft.filter (fun w => !inWord pa n w) },
    { data := (l.data.drop (pa % 128)).take n, bad := l.bad.filter (inWord pa n), fixed := l.soft.filter (inWord pa n) })

/-- A line with bytes written over it. -/
def SLine.put (l : SLine) (pa : Nat) (bs : List Byte) : SLine :=
  { l with
    data := overlay l.data (pa % 128) bs
    bad := l.bad.filter (fun w => !overWord pa bs.length w)
    soft := l.soft.filter (fun w => !inWord pa bs.length w) }

/-- A clean line with the bytes and the errors it was filled with. -/
def filled (line : Nat) (share : Bool) (g : Got) : SLine :=
  { line := line, data := g.data, dirty := false, share := share, bad := g.bad, soft := [] }

def emptyPend (no line now : Nat) (kind : PendKind) : Pend :=
  { no := no, line := line, kind := kind, taken := now, waiting := [], held := [], acked := false, share := false, install := true
    data := [], bad := [], fixed := [], comp := none, answer := none }

/-- A slice's request of the LLC travels to the port of the line's base die (R23, R218). -/
def sendLlc (s : State) (q : LReq) (bytes : List Byte) : State :=
  sendMessage { s with lreqs := s.lreqs ++ [q] }
    (packageMsg (sliceEp q.die q.slice) (llcEp (baseOf q.line)) .request 0 (natBytes 8 (q.line * 128) ++ bytes) (.slice q.no)) (.toLlc q.no)

/-- A dirty line that leaves a slice, or is cleaned there, keeps a pending entry until the LLC acknowledges the write-back
(R211). -/
def writeBack (s : State) (d i : Nat) (l : SLine) (waiting : List Req) : State :=
  let (no, s1) := takeSerial s
  let x := sliceAt s1 d i
  let p := { emptyPend no l.line s.cycle .writeback with waiting := waiting, data := l.data, bad := l.bad, share := l.share }
  sendLlc (s1.setSlice { x with pend := x.pend ++ [p] })
    { no := no, die := d, slice := i, line := l.line, req := none, back := true } l.data

/-- A line is installed in its set: a dirty victim is written back (R210, R211). -/
def installAt (s : State) (x : Slice) (l : SLine) : State :=
  match x.victim l.line with
  | none => s.setSlice (x.touch l)
  | some v =>
    let s1 := s.setSlice ((x.drop v.line).touch l)
    if v.dirty then writeBack s1 x.die x.idx v [] else s1

/-- The SHARE_PKG lines of a die leave its slices, and fills of them that are pending will not install (R211).
(DEDUCED, assumption 66.) -/
def flashInvalidate (s : State) (d : Nat) : State :=
  { s with slices := updBy (fun x => x.die = d) (fun x =>
   { x with
          lines := x.lines.filter (fun l => !l.share)
          pend := updBy (fun p => p.share) (fun p => { p with install := false }) x.pend }) s.slices }

/-! ### The expander (R219-R222) -/

/-- DX4's payload: nibbles left, bytes made so far with the last first (R221). `none` is COUNT. -/
def dx4 (dict : List Byte) : Nat → List Nat → List Byte → Option (List Byte)
  | _, [], acc => if acc.length = 4096 then some acc.reverse else none
  | 0, _, _ => none
  | k + 1, c :: r, acc =>
    if c < 15 then (if acc.length = 4096 then none else dx4 dict k r (dict.getD c 0 :: acc))
    else match r with
      | lo :: hi :: r' => if acc.length = 4096 then none else dx4 dict k r' (BitVec.ofNat 8 (lo + 16 * hi) :: acc)
      | _ => none

/-- The nibbles of payload bytes, low nibble first. -/
def nibbles : List Byte → List Nat
  | [] => []
  | b :: l => b.toNat % 16 :: b.toNat / 16 :: nibbles l

/-- The 16-bit little-endian words of the bytes, added up. -/
def sum16 : List Byte → Nat
  | a :: b :: l => a.toNat + 256 * b.toNat + sum16 l
  | _ => 0

/-- The ones'-complement sum with end-around carry (R219). -/
def onesSum (bs : List Byte) : Nat := let n := sum16 bs; if n = 0 then 0 else (n - 1) % 65535 + 1

/-- The sectors of a tile's chunk: where they begin and how many they are (R219). -/
def chunkOf (m : Mem) (dir t : Nat) : Nat × Nat :=
  let e := bytesNat (memRead m (dir + 8 * t) 8)
  (dir + 128 * bitsOf e 0 39, bitsOf e 39 5 + 1)

/-- The tile of a compressed window, or the DECOMP_FORMAT subcode (R221, R222). -/
def expandTile (m : Mem) (dir t : Nat) : Except Nat (List Byte) :=
  let e := bytesNat (memRead m (dir + 8 * t) 8)
  let codec := bitsOf e 44 4
  let len := bitsOf e 39 5 + 1
  let at_ := dir + 128 * bitsOf e 0 39
  let chunk := memRead m at_ (128 * len)
  let ver := (chunk.getD 0 0).toNat
  let nnib := bytesNat ((chunk.drop 2).take 2)
  if codec ≥ 2 ∨ (codec = 0 ∧ len ≠ 32) ∨ (codec = 1 ∧ at_ + 2 ≤ 2 ^ 48 ∧ (ver ≠ 1 ∨ chunk.getD 1 0 ≠ 0)) then .error 1
  else if (codec = 1 ∧ 19 + (nnib + 1) / 2 > 128 * len) ∨ at_ + 128 * len > 2 ^ 48 then .error 2
  else
    let out := if codec = 0 then some chunk
      else dx4 ((chunk.drop 4).take 15) (nnib + 1) ((nibbles (chunk.drop 19)).take nnib) []
    match out with
    | none => .error 3
    | some bs => if onesSum bs = bitsOf e 48 16 then .ok bs else .error 4

/-- Lines read through the LLC one after another: the words with errors and those corrected. -/
def llcLines : Nat → State → Nat → State × List Nat × List Nat
  | 0, s, _ => (s, [], [])
  | k + 1, s, pa =>
    let (s1, g) := llcGet s pa 128
    let (s2, b, f) := llcLines k s1 (pa + 128)
    (s2, g.bad ++ b, g.fixed ++ f)

/-- A decoded tile, what it corrected, or the code and subcode of the fault. -/
inductive Expanded where
  | tile (bytes : List Byte) (fixed : Bool)
  | fault (code sub : Nat)
  deriving DecidableEq, Repr

/-- The expander reads the directory entry and the chunk through the LLC, whose errors it meets as any read does, and decodes
the tile (R202, R220, R222). (DEDUCED, assumption 132.) -/
def expandAt (s : State) (dir t : Nat) : State × Expanded :=
  let a := dir + 8 * t
  if !stackReady s a then (s, .fault 10 2)
  else
    let (s1, g) := llcGet s a 8
    let (at_, len) := chunkOf s1.mem dir t
    if !g.bad.isEmpty then (s1, .fault 10 1)
    else if at_ + 128 * len > 2 ^ 48 then (s1, match expandTile s1.mem dir t with | .error k => .fault 11 k | .ok _ => .fault 11 2)
    else if !(List.range len).all (fun i => stackReady s1 (at_ + 128 * i)) then (s1, .fault 10 2)
    else
      let (s2, bad, fixed) := llcLines len s1 at_
      if !bad.isEmpty then (s2, .fault 10 1)
      else match expandTile s2.mem dir t with
        | .error k => (s2, .fault 11 k)
        | .ok bs => (s2, .tile bs (!(g.fixed ++ fixed).isEmpty))

/-- The directory of a compressed page and the tile a translated address falls in: the page's base is the
address without its page offset (R219). -/
def compDir (x : Xl) (pageBits : Nat) : Nat × Nat :=
  (x.pa / 2 ^ pageBits * 2 ^ pageBits, x.pa % 2 ^ pageBits / 4096)

/-- The size of the page of a leaf, as a number of offset bits (R206). -/
def pageBits (lv : Nat) : Nat := if lv = 1 then 35 else if lv = 2 then 26 else 17

/-- The page of a compressed window that an access goes through: its directory, its partition and its first virtual address,
with the size. -/
def Xl.window (x : Xl) (lv : Nat) : CompPage :=
  { dir := (compDir x (pageBits lv)).1, asid := x.asid, page := x.va / 2 ^ pageBits lv, size := pageBits lv, glob := bitsOf x.pte.toNat 6 1 = 1 }

/-- A decoded tile, from the slice's last four or decoded now (R220). -/
def tileFor (s : State) (d i : Nat) (w : CompPage) (t : Nat) : State × Expanded :=
  match (sliceAt s d i).tiles.find? (fun y => y.win = w && y.idx = t) with
  | some y => (s, .tile y.bytes false)
  | none =>
    match expandAt s w.dir t with
    | (s1, .fault c k) => (s1, .fault c k)
    | (s1, .tile bs f) =>
      let sl := sliceAt s1 d i
      let ts := sl.tiles ++ [{ win := w, idx := t, bytes := bs }]
      (s1.setSlice { sl with tiles := ts.drop (ts.length - 4) }, .tile bs f)

/-- The line of a decoded tile that holds an address. -/
def tileLine (bs : List Byte) (pa : Nat) : List Byte := (bs.drop (pa % 4096 / 128 * 128)).take 128

/-! ### One access at a slice or at the LLC -/

/-- The registered ring whose control block's line an access touches: no slice but the block's home slice holds it (R97). -/
def State.ringLine (s : State) (pa n : Nat) : Option Ring :=
  s.rings.find? (fun r => r.pa / 128 * 128 < pa + n && pa < r.pa / 128 * 128 + 128)

/-- Where an access goes: one that touches the line of a registered ring control block is performed at the block's home slice,
whoever makes it (R97). -/
def placeOf (s : State) (die : Option Nat) (x : Xl) (n : Nat) : Option Nat × Xl :=
  match if x.sram then none else s.ringLine x.pa n with
  | some r => (some r.die, { x with iset := r.iset })
  | none => (die, x)

/-- A read performed at the LLC, or in the boot SRAM. -/
def llcLoad (s : State) (lv : Nat) (x : Xl) (n : Nat) : Acc (List Byte) :=
  if x.sram then .ok s (memRead s.sram x.pa n)
  else if !stackReady s x.pa then .fault s 10 2 x.pte
  else if x.comp then
    match expandAt s (compDir x (pageBits lv)).1 (compDir x (pageBits lv)).2 with
    | (s1, .fault c k) => .fault s1 c k x.pte
    | (s1, .tile bs f) => useGot x.pte s1 { data := (bs.drop (x.pa % 4096)).take n, bad := [], fixed := if f then [0] else [] }
  else
    let (s1, g) := llcGet s x.pa n
    useGot x.pte s1 g

/-- A read that misses in a slice (R210, R213, R220). -/
def missRead (s : State) (d lv : Nat) (x : Xl) (n : Nat) : Acc (List Byte) :=
  let i := sliceIndex x.iset x.pa
  let alloc := x.cpol = 0 || x.cpol = 2
  if !stackReady s x.pa then .fault s 10 2 x.pte
  else if !(sliceAt s d i).hasRoom then .wait
  else if x.comp then
    match tileFor s d i (x.window lv) (compDir x (pageBits lv)).2 with
    | (s1, .fault c k) => .fault s1 c k x.pte
    | (s1, .tile bs f) =>
      let g : Got := { data := tileLine bs x.pa, bad := [], fixed := if f then [x.pa / 8] else [] }
      useGot x.pte (if alloc then installAt s1 (sliceAt s1 d i) (filled (lineKey x) x.share g) else s1) (g.cut (x.pa / 128 * 128) x.pa n)
  else if llcBusy s (x.pa / 128) then .wait
  else if alloc then
    let (s1, g) := llcGet s (x.pa / 128 * 128) 128
    useGot x.pte (installAt s1 (sliceAt s1 d i) (filled (lineKey x) x.share g)) (g.cut (x.pa / 128 * 128) x.pa n)
  else
    let (s1, g) := llcGet s x.pa n
    useGot x.pte s1 g

/-- Reads bytes within a line for an agent on a die, or at the LLC for a system core (R210, R211, R220, R229). -/
def readBytes (s : State) (die0 : Option Nat) (lv : Nat) (x0 : Xl) (n : Nat) : Acc (List Byte) :=
  let (die, x) := placeOf s die0 x0 n
  match (if x.sram then none else die) with
  | none => if !x.sram && llcBusy s (x.pa / 128) then .wait else llcLoad s lv x n
  | some d =>
    let sl := sliceAt s d (sliceIndex x.iset x.pa)
    if sl.writingBack (lineKey x) then .wait
    else match sl.find (lineKey x) with
      | some l => useGot x.pte (s.setSlice (sl.touch (l.got x.pa n).1)) (l.got x.pa n).2
      | none => if sl.pending (lineKey x) then .wait else missRead s d lv x n

/-- The policy of a write: a SHARE_PKG page writes through (R210). -/
def writePolicy (x : Xl) : Nat := if x.share && x.cpol < 2 then 2 else x.cpol

/-- A write to a line that its slice holds (R210). -/
def hitWrite (s : State) (sl : Slice) (l : SLine) (x : Xl) (bs : List Byte) : Acc Unit :=
  let pol := writePolicy x
  if torn l.bad x.pa bs.length then .fault s 10 1 x.pte
  else if pol ≤ 1 then
    .ok ((markRing s x.pa bs.length).setSlice ((sl.touch { l.put x.pa bs with dirty := true }).written l.line)) ()
  else if !sl.hasRoom || llcBusy s l.line then .wait
  else if pol = 2 then
    (llcStore s x bs).bind (fun s1 _ => .ok (s1.setSlice ((sl.touch (l.put x.pa bs)).written l.line)) ())
  else
    (llcStore (if l.dirty then llcBack s l.line l.data l.bad else s) x bs).bind (fun s1 _ =>
      .ok (s1.setSlice ((sl.drop l.line).written l.line)) ())

/-- A write that misses (R210, R213). -/
def missWrite (s : State) (sl : Slice) (x : Xl) (bs : List Byte) : Acc Unit :=
  let line := x.pa / 128
  if !stackReady s x.pa then .fault s 10 2 x.pte
  else if !sl.hasRoom || llcBusy s line then .wait
  else if writePolicy x = 0 then
    let (s1, g) := llcGet s (line * 128) 128
    if torn g.bad x.pa bs.length then .fault s1 10 1 x.pte
    else .ok (installAt (markRing s1 x.pa bs.length) (sl.written line) { (filled line x.share g).put x.pa bs with dirty := true }) ()
  else (llcStore s x bs).bind (fun s1 _ => .ok (s1.setSlice (sl.written line)) ())

/-- Writes bytes within a line (R210, R211). `wait` where the line is pending, no entry is free or requests stand before it at
the LLC. -/
def writeBytes (s : State) (die0 : Option Nat) (x0 : Xl) (bs : List Byte) : Acc Unit :=
  let (die, x) := placeOf s die0 x0 bs.length
  match (if x.sram then none else die) with
  | none => if !x.sram && llcBusy s (x.pa / 128) then .wait else llcStore s x bs
  | some d =>
    let sl := sliceAt s d (sliceIndex x.iset x.pa)
    if sl.writingBack (x.pa / 128) then .wait
    else match sl.find (x.pa / 128) with
      | some l => hitWrite s sl l x bs
      | none => if sl.pending (x.pa / 128) then .wait else missWrite s sl x bs

/-- A line leaves a slice, a dirty one for the LLC in the same step (R236). (DESIGN CHOICE, assumption 158.) -/
def evictNow (s : State) (d idx line : Nat) : State :=
  let sl := sliceAt s d idx
  match sl.find line with
  | none => s
  | some l => (if l.dirty then llcBack s line l.data l.bad else s).setSlice (sl.drop line)

/-! ### Translation (R206-R208) -/

/-- The partition that holds an ASID. -/
def partOf (s : State) (asid : Nat) : Option Partition := s.parts.find? (fun p => p.asid = asid)

def State.setPart (s : State) (p : Partition) : State :=
  { s with parts := updBy (fun q => q.asid = p.asid) (fun _ => p) s.parts }

/-- What an access needs of its page (R208): R, W, COMP clear, X, U. -/
structure Need where
  r : Bool
  w : Bool
  plain : Bool
  x : Bool
  u : Bool
  deriving DecidableEq, Repr

def Need.load (user : Bool) : Need := { r := true, w := false, plain := false, x := false, u := user }
def Need.store (user : Bool) : Need := { r := false, w := true, plain := true, x := false, u := user }
def Need.atomic (user : Bool) : Need := { r := true, w := true, plain := true, x := false, u := user }
def Need.fetch (user : Bool) : Need := { r := false, w := false, plain := true, x := true, u := user }

/-- The PERMISSION subcode of the first check that fails (R208). (DEDUCED, assumption 64.) -/
def permSub (e : Nat) (nd : Need) : Option Nat :=
  if nd.r && bitsOf e 2 1 = 0 then some 1
  else if (nd.w && bitsOf e 3 1 = 0) || (nd.plain && bitsOf e 12 1 = 1) then some 2
  else if nd.x && bitsOf e 4 1 = 0 then some 3
  else if nd.u && bitsOf e 5 1 = 0 then some 4
  else none

/-- The leaf rules of R207. -/
def leafOk (e lv : Nat) : Bool :=
  lv ≠ 0 && bitsOf e 48 16 = 0 && bitsOf e 14 3 = 0 && bitsOf e 7 3 < 4 && bitsOf e 10 2 ≠ 3 &&
  (lv ≠ 1 || (bitsOf e 17 18 = 0 && bitsOf e 10 2 = 2)) && (lv ≠ 2 || bitsOf e 17 9 = 0) &&
  !(bitsOf e 12 1 = 1 && bitsOf e 7 3 = 3)

/-- The index of a level (R206). -/
def walkIdx (va lv : Nat) : Nat :=
  if lv = 0 then bitsOf va 44 4 else if lv = 1 then bitsOf va 35 9 else if lv = 2 then bitsOf va 26 9 else bitsOf va 17 9

/-- The address bits above a level's index, with it. -/
def walkPrefix (va lv : Nat) : Nat :=
  if lv = 0 then va / 2 ^ 44 else if lv = 1 then va / 2 ^ 35 else va / 2 ^ 26

/-- A table word, read as write-back allocate through the 64-slice set (R203). -/
def readTable (s : State) (die : Option Nat) (a : Nat) : Acc Nat :=
  let x : Xl := { pa := a % 2 ^ 48, cpol := 0, iset := 2, share := false, comp := false, pte := 0, sram := false, asid := 0, va := 0 }
  (match die with | none => llcLoad s 3 x 8 | some _ => readBytes s die 3 x 8).bind (fun s' bs => .ok s' (bytesNat bs))

/-- Keeps a non-leaf entry in the core's walker, 32 at most, the least recently used leaving (R203).
(DESIGN CHOICE, assumption 23.) -/
def keepWalk (s : State) (e : WalkEnt) : State :=
  let rest := s.walkers.filter (fun w => w ≠ e)
  let mine := rest.filter (fun w => w.die = e.die && w.core = e.core)
  let rest' := if mine.length < 32 then rest else
    match mine with | [] => rest | v :: _ => rest.filter (fun w => w ≠ v)
  { s with walkers := rest' ++ [e] }

/-- The levels of a walk from `lv` on, `k` of them left: the leaf with its level, or the fault (R206). -/
def walkFrom (die : Option Nat) (core asid va : Nat) : Nat → Nat → Nat → State → Acc (Nat × Nat)
  | 0, _, _, s => .fault s 8 2 0
  | k + 1, lv, a, s =>
    match readTable s die (a + 8 * walkIdx va lv) with
    | .wait => .wait
    | .fault s' c j p => .fault s' c j p
    | .ok s' e =>
      let w := BitVec.ofNat 64 e
      if bitsOf e 0 1 = 0 then .fault s' 8 1 w
      else if bitsOf e 1 1 = 1 then (if leafOk e lv then .ok s' (e, lv) else .fault s' 8 2 w)
      else if lv = 3 ∨ bitsOf e 2 10 ≠ 0 ∨ bitsOf e 48 16 ≠ 0 then .fault s' 8 2 w
      else
        let next := bitsOf e 12 36 * 4096
        let s'' := match die with
          | some d => keepWalk s' { die := d, core := core, asid := asid, lv := lv, vpre := walkPrefix va lv, table := next }
          | none => s'
        walkFrom die core asid va k (lv + 1) next s''

/-- The deepest table the core's walker can supply (R203). -/
def walkStart (s : State) (die : Option Nat) (core asid va root : Nat) : Nat × Nat :=
  match die with
  | none => (0, root)
  | some d =>
    let at_ (lv : Nat) := s.walkers.find? (fun w => w.die = d && w.core = core && w.asid = asid && w.lv = lv &&
      w.vpre = walkPrefix va lv)
    match at_ 2, at_ 1, at_ 0 with
    | some w, _, _ => (3, w.table)
    | _, some w, _ => (2, w.table)
    | _, _, some w => (1, w.table)
    | _, _, _ => (0, root)

/-- The leaf of a virtual address in a partition (R206). (DEDUCED, assumption 22.) -/
def walk (s : State) (die : Option Nat) (core asid va : Nat) : Acc (Nat × Nat) :=
  match partOf s asid with
  | none => .fault s 8 1 0
  | some p =>
    let (lv, a) := walkStart s die core asid va p.ptroot
    walkFrom die core asid va (4 - lv) lv a s

/-- The physical address and attributes a leaf gives (R206, R207). -/
def leafXl (e lv va asid : Nat) : Xl :=
  let k := pageBits lv
  { pa := bitsOf e k (48 - k) * 2 ^ k + va % 2 ^ k, cpol := bitsOf e 7 3, iset := bitsOf e 10 2,
    share := bitsOf e 13 1 = 1, comp := bitsOf e 12 1 = 1, pte := BitVec.ofNat 64 e, sram := false, asid := asid, va := va }

/-- Translation with the permission check, for an agent on a die or at the LLC (R206, R208). -/
def translate (s : State) (die : Option Nat) (core asid va : Nat) (nd : Need) : Acc (Xl × Nat) :=
  if va ≥ 2 ^ 48 then .fault s 8 3 0
  else (walk s die core asid va).bind (fun s' (e, lv) =>
    match permSub e nd with
    | some k => .fault s' 9 k (BitVec.ofNat 64 e)
    | none => .ok s' (leafXl e lv va asid, lv))

/-- A physical access of a system-core thread that acts in no partition (DEDUCED, assumption 5). -/
def physXl (io0 : Bool) (va : Nat) : Xl :=
  { pa := va, cpol := 3, iset := 2, share := false, comp := false, pte := 0, sram := io0 && va < 2 ^ 26, asid := 0, va := va }

/-! ### What the package's own units read and write, in supervisor's right -/

/-- Writes at most 64 bytes of one line into a partition for an agent at the LLC; `none` when a fault stands in the way. -/
def hwPut (s : State) (asid va : Nat) (bs : List Byte) : Option State :=
  match translate s none 0 asid va (Need.store false) with
  | .ok s' (x, _) => match llcStore s' x bs with | .ok s'' () => some s'' | _ => none
  | _ => none

/-- Writes bytes 64 at a time; `none` when a fault stands in the way of any of them. -/
def hwWrite : Nat → State → Nat → Nat → List Byte → Option State
  | 0, s, _, _, _ => some s
  | k + 1, s, asid, va, bs =>
    if bs.isEmpty then some s
    else match hwPut s asid va (bs.take 64) with
      | none => none
      | some s' => hwWrite k s' asid (va + 64) (bs.drop 64)

/-- An access of the partition's units, which walk and read through the slices of its home die and leave them as they are;
where a slice would make them wait the LLC is read. -/
def Acc.orAtLlc {α : Type} (a b : Acc α) : Acc α := match a with | .wait => b | x => x

def unitXl (s : State) (asid va : Nat) (nd : Need) : Acc (Xl × Nat) :=
  match partOf s asid with
  | some p => (translate s (some p.homedie) p.homecore asid va nd).orAtLlc (translate s none 0 asid va nd)
  | none => translate s none 0 asid va nd

/-- Bytes written at the LLC are in every slice's copy of their line as well: records are released at PACKAGE. -/
def patchSlices (s : State) (pa : Nat) (bs : List Byte) : State :=
  let put (d : List Byte) : List Byte := if d.isEmpty then d else overlay d (pa % 128) bs
  let torn (l : List Nat) : List Nat := l.filter (fun w => !overWord pa bs.length w)
  { s with slices := s.slices.map (fun x => { x with
      lines := updBy (fun l => l.line = pa / 128) (fun l => { l with data := put l.data, bad := torn l.bad, soft := torn l.soft }) x.lines
      pend := updBy (fun l => l.line = pa / 128) (fun l => { l with
        data := put l.data
        bad := torn l.bad
        answer := l.answer.map (fun a => match a with | .data d => if l.kind = .fill || l.kind = .mcast then .data (put d) else a | _ => a) }) x.pend }) }

/-- Writes a record of at most 64 bytes in one line: a completion, cancellation, fault or census record (R73, R103, R112,
R226). (DEDUCED, assumption 21.) -/
def recPut (s : State) (asid va : Nat) (bs : List Byte) : Option State :=
  match unitXl s asid va (Need.store false) with
  | .ok _ (x, _) => match llcStore s x bs with | .ok s'' () => some (patchSlices s'' x.pa bs) | _ => none
  | _ => none

/-- Bytes from `pa` on come to hold, at every level, values that the spec does not give: what a background copy writes there
(R65, R134; DESIGN CHOICE, assumption 42). -/
def freeSpan (s : State) (pa n : Nat) : State :=
  let at_ (a : Nat) : Byte := Config.freeByte (s.freeCtr + (a - pa))
  let inside (a : Nat) : Bool := pa ≤ a && a < pa + n
  let put (line : Nat) (d : List Byte) : List Byte :=
    (List.range d.length).map (fun i => if inside (128 * line + i) then at_ (128 * line + i) else d.getD i 0)
  let out (w : Nat) : Bool := !inWord pa n w
  { s with
    freeCtr := s.freeCtr + n
    mem := memWrite s.mem pa ((List.range n).map (fun i => Config.freeByte (s.freeCtr + i)))
    badWords := s.badWords.filter out
    softWords := s.softWords.filter out
    llc := s.llc.map (fun x => { x with bad := x.bad.filter out, soft := x.soft.filter out })
    slices := s.slices.map (fun x => { x with lines := x.lines.map (fun l => { l with data := put l.line l.data }) }) }

/-- Every line of a run of memory lies on a trained stack (R59). -/
def spanReady (s : State) (pa n : Nat) : Bool :=
  pa + n ≤ memTop &&
  ((List.range 16).all (fun k => s.pkg.hbmTrained.getD k false) || (List.range (n / 128)).all (fun i => stackReady s (pa + 128 * i)))

/-- A word of a run of memory has an uncorrectable error at the LLC or in HBM4E (R202). -/
def spanBad (s : State) (pa n : Nat) : Bool :=
  s.badWords.any (inWord pa n) || s.llc.any (fun x => x.bad.any (inWord pa n))

/-- Reads at most 64 bytes of one line from a partition. -/
def hwGet (s : State) (asid va n : Nat) : Option (List Byte) :=
  match unitXl s asid va (Need.load false) with
  | .ok _ (x, lv) =>
    let die := match partOf s asid with | some p => some p.homedie | none => none
    match (readBytes s die lv x n).orAtLlc (llcLoad s lv x n) with | .ok _ bs => some bs | _ => none
  | _ => none

/-- The state in which the words that a unit's reads, of `n` bytes each 64 apart, correct are whole again; each is told as
corrected (R202). -/
def hwSeen : Nat → State → Nat → Nat → Nat → State
  | 0, s, _, _, _ => s
  | k + 1, s, asid, va, n =>
    let s1 := match unitXl s asid va (Need.load false) with
      | .ok _ (x, lv) =>
        match (readBytes s ((partOf s asid).map (fun p => p.homedie)) lv x n).orAtLlc (llcLoad s lv x n) with
        | .ok s1 _ => if correctedIn s s1 then s1 else s
        | _ => s
      | _ => s
    hwSeen k s1 asid (va + 64) n

/-- Reads bytes 64 at a time. -/
def hwRead : Nat → State → Nat → Nat → Option (List Byte)
  | 0, _, _, _ => some []
  | k + 1, s, asid, va => match hwGet s asid va 64, hwRead k s asid (va + 64) with
    | some a, some b => some (a ++ b)
    | _, _ => none

end Sys2Proof.Machine
end

