-- ==== Sys2Proof/Machine/Ops.lean ====
section
/-! DEFINITION. The named operations over threads and registers, fault records (R225, R226), taking a trap
(R334-R336) and returning from one (R337), and the accesses of a scalar thread (R312-R317). -/

namespace Sys2Proof

def ThreadId.isSys : ThreadId → Bool
  | .sys _ => true
  | .ctl _ _ _ => false

/-- The die whose slices a control core reaches memory through; a system core has none (R229, R313). -/
def ThreadId.die? : ThreadId → Option Nat
  | .sys _ => none
  | .ctl d _ _ => some d

/-- The die of a thread in the coding of R25 bits 11:8. -/
def ThreadId.dieCode : ThreadId → Nat
  | .sys n => if n < 16 then 8 else 9
  | .ctl d _ _ => d

def ThreadId.coreNo : ThreadId → Nat
  | .sys n => n % 16
  | .ctl _ c _ => c

def ThreadId.thrNo : ThreadId → Nat
  | .sys _ => 0
  | .ctl _ _ n => n

end Sys2Proof

namespace Sys2Proof.Machine

/-! ### Threads and registers -/

/-- A fabric die that work can use: trained, and not held in reset (R17, R59). -/
def State.dieUsable (s : State) (die : Nat) : Bool := s.pkg.dieTrained.getD die false && !s.pkg.railReset.getD die true

def State.thread? (s : State) (t : ThreadId) : Option Thread := s.threads.find? (fun u => u.id = t)

/-- Puts a thread back in its place. -/
def State.setThread (s : State) (t : Thread) : State :=
  { s with threads := updBy (fun u => u.id = t.id) (fun _ => t) s.threads }

/-- Changes a thread in its place. -/
def State.updThread (s : State) (t : ThreadId) (f : Thread → Thread) : State :=
  { s with threads := updBy (fun u => u.id = t) f s.threads }

/-- A scalar instruction acts on the thread that issues; with no such thread nothing happens (DESIGN CHOICE, assumption 10). -/
def onCur (s : State) (f : Thread → State) : Out :=
  match s.thread? s.cur with
  | some t => .next (f t)
  | none => .next s

/-- A general register; g0 reads zero (R276). -/
def Thread.reg (t : Thread) (r : Reg) : Word := if r = 0 then 0 else t.gpr[r.toNat]'(r.isLt)

/-- Writes a general register; a write to g0 is discarded (R276). -/
def Thread.writeReg (t : Thread) (r : Reg) (v : Word) : Thread :=
  if r = 0 then t else { t with gpr := t.gpr.set r.toNat v (r.isLt) }

/-- Writes a pair: the first half to gd, the second to g(d+1) (R276). -/
def Thread.writePair (t : Thread) (d : Reg) (lo hi : Word) : Thread := (t.writeReg d lo).writeReg (d + 1) hi

/-- Moves past the instruction's word (R319). -/
def Thread.advance (t : Thread) : Thread := { t with pc := t.pc + 4 }

/-- The thread has written gd and moved on. -/
def Thread.retire (t : Thread) (d : Reg) (v : Word) : Thread := (t.writeReg d v).advance

/-- A command register (R286, R327). -/
def Thread.kget (t : Thread) (k : BitVec 3) : Word128 := t.kreg[k.toNat]'(k.isLt)

def Thread.kset (t : Thread) (k : BitVec 3) (v : Word128) : Thread :=
  { t with kreg := t.kreg.set k.toNat v (k.isLt) }

/-! ### Launch entries and places -/

def State.place? (s : State) (p : Nat) : Option Place := s.places.find? (fun x => x.id = p)

def State.updPlace (s : State) (p : Nat) (f : Place → Place) : State :=
  { s with places := updBy (fun x => x.id = p) f s.places }

def State.updPart (s : State) (asid : Nat) (f : Partition → Partition) : State :=
  { s with parts := updBy (fun p => p.asid = asid) f s.parts }

def Partition.task? (p : Partition) (slot : Nat) : Option TgEntry := p.tasks.find? (fun e => e.slot = slot)

def Partition.updTask (p : Partition) (slot : Nat) (f : TgEntry → TgEntry) : Partition :=
  { p with tasks := updBy (fun e => e.slot = slot) f p.tasks }

def State.updTask (s : State) (asid slot : Nat) (f : TgEntry → TgEntry) : State :=
  s.updPart asid (fun p => p.updTask slot f)

/-- A fault of a launch: it counts, and the first one is kept (R74). -/
def TgEntry.fault (e : TgEntry) (code : Nat) (where_ : List Nat) (va rec_ : Nat) : TgEntry :=
  let e1 := { e with nfault := min 65535 (e.nfault + 1) }
  if e.nfault = 0 then { e1 with fcode := code, fwhere := where_, faddr := va, frec := rec_ } else e1

/-! ### Fault records (R225, R226) -/

structure FaultInfo where
  code : Nat
  sub : Nat
  flags : Nat
  site : List Nat
  va : Nat
  port : Nat
  slot : Nat
  tag : Nat
  cscope : Nat
  asid : Nat
  cnt : List Nat
  elem : Nat
  net : Nat
  cls : Nat
  src : Nat
  msgid : Nat
  bitmap : Nat
  pte : Word
  deriving DecidableEq, Repr

/-- The 64 bytes of a fault record (R225). -/
def faultBytes (f : FaultInfo) : List Byte :=
  natBytes 2 f.code ++ natBytes 1 f.sub ++ natBytes 1 f.flags ++
  (f.site.map (BitVec.ofNat 8)).take 4 ++ natBytes 8 f.va ++ natBytes 1 f.port ++ natBytes 1 f.slot ++
  natBytes 1 f.tag ++ natBytes 1 0 ++ natBytes 2 f.cscope ++ natBytes 2 f.asid ++
  natBytes 4 (f.cnt.getD 0 0) ++ natBytes 4 (f.cnt.getD 1 0) ++ natBytes 4 (f.cnt.getD 2 0) ++
  natBytes 4 (f.cnt.getD 3 0) ++ natBytes 4 f.elem ++ natBytes 1 f.net ++ natBytes 1 f.cls ++ natBytes 2 f.src ++
  natBytes 2 f.msgid ++ natBytes 2 0 ++ natBytes 4 f.bitmap ++ natBytes 8 f.pte.toNat

/-- The base and the number of a partition's records (R226). -/
def Partition.recBase (p : Partition) : Nat := bitsOf p.frarea.toNat 12 36 * 4096
def Partition.recCount (p : Partition) : Nat := 2 ^ bitsOf p.frarea.toNat 0 4

/-- The first record from position `i` on that is not in use, `k` tried, round robin (R226). -/
def freeRecord (p : Partition) : Nat → Nat → Option Nat
  | 0, _ => none
  | k + 1, i =>
    let j := i % p.recCount
    if p.recs.any (fun r => r.addr = p.recBase + 64 * j) then freeRecord p k (j + 1) else some j

/-- Takes a record for a fault and writes it: its address and whether it was left unwritten, or nothing when
every record is in use (R226). -/
def takeRecord (s : State) (asid : Nat) (owner : RecOwner) (f : FaultInfo) : State × Option (Nat × Bool) :=
  match partOf s asid with
  | none => (s, none)
  | some p =>
    match freeRecord p (p.recs.length + 1) p.nextRec with
    | none => (s, none)
    | some j =>
      let addr := p.recBase + 64 * j
      let s1 := s.updPart asid (fun q =>
        { q with recs := q.recs ++ [{ addr := addr, owner := owner, code := f.code }], nextRec := (j + 1) % p.recCount })
      if p.recBase = 0 then (s1, some (addr, true))
      else match recPut s1 asid addr (faultBytes f) with
        | some s2 => (s2, some (addr, false))
        | none => (s1, some (addr, true))

/-! ### Asynchronous traps (R326, R335, R336, R339) -/

/-- Posts an asynchronous trap: it becomes pending and sets the event flag. A stopped or ended thread takes
nothing. -/
def postTrap (s : State) (t : ThreadId) (a : AsyncTrap) : State :=
  s.updThread t (fun u =>
    if u.run = .stopped ∨ u.run = .ended then u else { u with async := u.async ++ [a], event := true })

/-- The system core named by PSUPER (R336, R342). -/
def supervisorOf (s : State) (asid : Nat) : ThreadId :=
  match partOf s asid with
  | some p => .sys (bitsOf p.psuper.toNat 0 5)
  | none => .sys 0

def postSupervisor (s : State) (asid code : Nat) (eval : Word) (norec : Bool) : State :=
  postTrap s (supervisorOf s asid) { code := code, asid := asid, eval := eval, norec := norec }

/-! ### Taking a trap and returning -/

structure TrapReq where
  code : Nat
  sub : Nat
  imp : Bool
  asyn : Bool
  norec : Bool
  asid : Nat
  epc : Word
  eval : Word
  deriving DecidableEq, Repr

def Mode.code : Mode → Nat
  | .user => 0
  | .supervisor => 1
  | .monitor => 2

def Mode.ofCode (n : Nat) : Mode := if n = 0 then .user else if n = 1 then .supervisor else .monitor

/-- The bank of a handler mode; user mode has none of its own (R334, R341). -/
def Thread.bank (t : Thread) : Mode → Bank
  | .monitor => t.mon
  | _ => t.sup

def Thread.setBank (t : Thread) (m : Mode) (b : Bank) : Thread :=
  match m with
  | .monitor => { t with mon := b }
  | _ => { t with sup := b }

/-- ESTAT.INH as the thread stands (R334). (DEDUCED, assumption 62.) -/
def Thread.inh (t : Thread) : Bool :=
  match t.mode with
  | .user => false
  | m => (t.bank m).inh

/-- The mode a thread's own trap enters (R336, R338). -/
def ownTarget (t : Thread) (code : Nat) : Mode :=
  if !t.id.isSys then .supervisor
  else match t.mode with
    | .monitor => .monitor
    | .supervisor => if code = 35 then .monitor else .supervisor
    | .user => .supervisor

/-- The mode an asynchronous trap enters (R336). -/
def asyncTarget (t : Thread) (asid : Nat) : Mode :=
  if !t.id.isSys then .supervisor else if asid ≠ 0 ∧ t.asid = asid then .supervisor else .monitor

/-- ECAUSE of a trap (R342). -/
def ecauseWord (r : TrapReq) : Word :=
  BitVec.ofNat 64 (r.asid % 2 ^ 16 * 2 ^ 48 + r.sub % 256 * 2 ^ 24 + bit1 r.norec * 2 ^ 18 + bit1 r.asyn * 2 ^ 17 +
    bit1 r.imp * 2 ^ 16 + r.code % 2 ^ 16)

/-- Where a trap goes: TVEC of the mode, or CTVEC of the partition on a control core (R334). -/
def trapVector (s : State) (t : Thread) (tm : Mode) : Word :=
  if t.id.isSys then (t.bank tm).tvec
  else match partOf s t.asid with
    | some p => p.ctvec
    | none => 0

/-- The entry itself (R334): EPC, ECAUSE, EVAL, PMODE and INH of the target mode's bank, the mode and the pc. -/
def Thread.enter (t : Thread) (tm : Mode) (vec : Word) (r : TrapReq) : Thread :=
  let b := t.bank tm
  let b' := { b with pmode := BitVec.ofNat 2 t.mode.code, inh := true, epc := r.epc, ecause := ecauseWord r, eval := r.eval }
  { t.setBank tm b' with mode := tm, pc := vec, wait := .none }

/-- Takes a trap in a mode. -/
def enterTrap (s : State) (t : Thread) (tm : Mode) (r : TrapReq) : State :=
  s.setThread (t.enter tm (trapVector s t tm) r)

/-- A port, node or pitch of a launch stands frozen (R74, R135, R224). -/
def anyFrozen (s : State) (asid lslot : Nat) : Bool :=
  let mine := s.places.filter (fun x => x.asid = asid && x.lslot = lslot)
  let of (n : Node) : Bool := mine.any (fun y => y.id = n.place)
  mine.any (fun x => x.ports.any (fun q => (q.older ++ q.running.toList ++ q.logs).any (fun r => r.frozen.isSome))) ||
  s.sites.any (fun x => x.frozen && of x.node) || s.rslots.any (fun x => x.frozen && of x.node) ||
  (match partOf s asid with | some p => p.curq.any (fun r => r.frozen ≠ 0 && of r.node) | none => false)

/-- The traps that stand pending at a launch thread that has ended go to the partition supervisor (R336). -/
def passTraps (s : State) (t : Thread) : State :=
  t.async.foldl (fun st a => postSupervisor st a.asid a.code a.eval a.norec) (s.updThread t.id (fun u => { u with async := [] }))

/-- The launch a control-core thread runs ends with its thread (R74, R334). -/
def threadEnds (s : State) (t : Thread) (faulted : Bool) : State :=
  match t.id with
  | .sys _ => s
  | .ctl _ _ _ =>
    (stir (passTraps s t) t.asid).updTask t.asid t.lslot (fun e =>
      let e1 := { e with threadDone := true }
      if faulted || anyFrozen s t.asid t.lslot then { e1 with status := 1, verdict := 2 } else e1)

/-- DOUBLE_TRAP (R334); its record counts as a fault of the launch (R74). (DEDUCED, assumption 71.) -/
def doubleTrap (s : State) (t : Thread) (code : Nat) : State :=
  let b := t.bank t.mode
  let first := bitsOf b.ecause.toNat 0 16
  let both := BitVec.ofNat 64 (first * 2 ^ 16 + code)
  match t.id with
  | .sys _ =>
    let b' := { b with ecause := BitVec.ofNat 64 (b.ecause.toNat / 2 ^ 16 * 2 ^ 16 + 43), eval := both }
    s.setThread { t.setBank t.mode b' with run := .stopped, wait := .none }
  | .ctl d c n =>
    let s1 := threadEnds (s.setThread { t with run := .stopped, wait := .none }) t true
    let f : FaultInfo :=
      { code := 43, sub := 0, flags := 0, site := [d, c, 255, n], va := b.epc.toNat, port := 0, slot := 0, tag := 0,
        cscope := t.scope, asid := t.asid, cnt := [], elem := 0, net := 0, cls := 0, src := 0, msgid := 0, bitmap := 0,
        pte := both }
    let (s2, r) := takeRecord s1 t.asid .scalar f
    let (a, nr) := r.getD (0, true)
    postSupervisor (s2.updTask t.asid t.lslot (fun e => e.fault f.code f.site f.va a)) t.asid 43 (BitVec.ofNat 64 a) nr

/-- A synchronous trap of a thread (R334, R336): DOUBLE_TRAP in a handler. -/
def syncTrap (s : State) (t : Thread) (code sub : Nat) (imp norec : Bool) (epc eval : Word) : State :=
  if t.inh then doubleTrap s t code
  else enterTrap s t (ownTarget t code)
    { code := code, sub := sub, imp := imp, asyn := false, norec := norec, asid := t.asid, epc := epc, eval := eval }

def illegal (s : State) (t : Thread) (w : Word) : State := syncTrap s t 32 0 false false t.pc w
def misaligned (s : State) (t : Thread) (a : Word) : State := syncTrap s t 33 0 false false t.pc a
def privTrap (s : State) (t : Thread) (w : Word) : State := syncTrap s t 34 0 false false t.pc w

/-- The word of an instruction, for EVAL (R335). -/
def wordOf (i : Instr) : Word := ((encodeScalar i).getD 0).setWidth 64

/-- ERET's effect on a thread (R337). (DEDUCED, assumption 63.) -/
def Thread.eret (t : Thread) : Thread :=
  let b := t.bank t.mode
  let m := Mode.ofCode (min b.pmode.toNat t.mode.code)
  { t.setBank t.mode { b with inh := false } with pc := b.epc, mode := m }

/-! ### Scopes, launches and tickets by their numbers (R68, R106, R111) -/

def Partition.scope? (p : Partition) (id : Nat) : Option Scope := p.scopes.find? (fun x => x.id = id)

/-- The scope exists: LIVE or CANCELLED. -/
def Partition.scopeExists (p : Partition) (id : Nat) : Bool := (p.scope? id).isSome

def Partition.scopeCancelled (p : Partition) (id : Nat) : Bool :=
  match p.scope? id with | some x => x.cancelled | none => false

/-- A launch ID: generation and slot (R68). -/
def lidOf (gen slot : Nat) : Nat := gen % 2 ^ 16 * 2 ^ 12 + slot

/-- The entry a launch ID names; `none` when no entry holds that ID. -/
def Partition.launch? (p : Partition) (lid : Nat) : Option TgEntry :=
  if lid / 2 ^ 28 ≠ 0 then none
  else p.tasks.find? (fun e => lidOf e.gen e.slot = lid)

/-- A ticket that CWAIT still knows: not yet acknowledged, or among the 16 most recent acknowledged (R111). -/
def Partition.knownTicket (p : Partition) (v : Nat) : Option Ticket :=
  let acked := p.tickets.filter (fun k => k.acked)
  ((p.tickets.filter (fun k => !k.acked)) ++ acked.drop (acked.length - 16)).find? (fun k => k.val = v)

/-- The scopes a thread works for: its own, unless that has been freed, and that of the launch it runs. -/
def threadScopes (s : State) (t : Thread) : List Nat :=
  (if t.scopeFree then [] else [t.scope]) ++ (if t.id.isSys then [] else
    match (partOf s t.asid).bind (fun p => p.task? t.lslot) with
    | some e => [e.scope]
    | none => [])

/-- A thread's work is cancelled (R38, R108). -/
def threadCancelled (s : State) (t : Thread) : Bool :=
  match partOf s t.asid with | some p => (threadScopes s t).any p.scopeCancelled | none => false

/-- Whether the instruction a thread waits in is abandoned, or ended, by an asynchronous trap (R323). -/
def Wait.abandoned : Wait → Bool
  | .none | .ring _ _ _ | .barrier _ | .launch _ | .ticket _ | .wfe _ | .scmd | .killed | .passed _ => true
  | _ => false

/-- A thread as it stands at its instruction boundary when an asynchronous trap arrives: WFE and HALT of a
system core have ended, any other wait is abandoned (R323, R339). -/
def Thread.atBoundary (t : Thread) : Thread :=
  match t.wait, t.run with
  | .wfe _, _ => { t with pc := t.pc + 4, wait := .none, event := false }
  | _, .parked => { t with pc := t.pc + 4, run := .running }
  | _, _ => { t with wait := .none }

def State.ring? (s : State) (asid block : Nat) : Option Ring := s.rings.find? (fun r => r.asid = asid && r.block = block)

/-- What a thread waits for has come, or will not: the instruction retires, with what it was granted, CANCELLED or STALE, before
a trap is taken or HALT stops the thread (R323, R346). A wait at a ring that a plain store has reached returns REFUSED (R97). -/
def waitMet (s : State) (t : Thread) : Bool :=
  match t.wait with
  | .killed | .passed _ => true
  | .launch lid => match (partOf s t.asid).bind (fun p => p.launch? lid) with | some e => e.st = .complete | none => true
  | .ticket v => match (partOf s t.asid).bind (fun p => p.knownTicket v) with | some k => k.acked | none => true
  | .ring block _ _ => match s.ring? t.asid block with | some r => r.stored && r.waiters.any (fun w => w.who = .thread t.id) | none => false
  | _ => false

/-- The pending asynchronous trap a thread can take now: the oldest whose target mode has INH clear, when INH is clear for the
thread as it stands (R334). -/
def Thread.takeable (t : Thread) : Option AsyncTrap :=
  if (t.run = .running ∨ t.run = .parked) ∧ t.wait.abandoned ∧ !t.frozen ∧ !t.inh
  then t.async.find? (fun a => !(t.bank (asyncTarget t a.asid)).inh)
  else none

/-- A thread's ring operation that still waits is abandoned: it has changed nothing (R323). -/
def abandonRing (s : State) (t : ThreadId) : State :=
  { s with rings := s.rings.map (fun r => { r with waiters := r.waiters.filter (fun w => w.who ≠ .thread t) }) }

/-- Takes the pending asynchronous trap, if one can be taken (R334-R336, R346). -/
def takeAsync (s : State) (t : Thread) : Option State :=
  match if waitMet s t then none else t.takeable with
  | none => none
  | some a =>
    let u := { t.atBoundary with async := t.async.erase a }
    some (enterTrap (abandonRing s t.id) u (asyncTarget t a.asid)
      { code := a.code, sub := 0, imp := false, asyn := true, norec := a.norec, asid := a.asid, epc := u.pc, eval := a.eval })

/-! ### Access faults of a thread (R302, R314, R335) -/

/-- The network part of a record of another fault: zero. -/
def NetInfo.none : NetInfo :=
  { key := { net := 0, src := 0, dst := 0, msgid := 0, io := 0 }, cls := 0, bitmap := 0, timer := false }

/-- The address a record shows: of a DECOMP_FORMAT fault, the first of the tile (R225). -/
def tileVa (code va : Nat) : Nat := if code = 11 then va / 4096 * 4096 else va

def scalarInfo (t : Thread) (code sub : Nat) (pte : Word) (va : Nat) (write : Bool) (n : NetInfo) : FaultInfo :=
  { code := code, sub := sub, flags := bit1 write + 2 * bit1 n.timer, site := [t.id.dieCode, t.id.coreNo, 0, 0],
    va := tileVa code va, port := 0, slot := 0, tag := 0, cscope := t.scope, asid := t.asid, cnt := [], elem := 0,
    net := n.key.net, cls := n.cls, src := n.key.src, msgid := n.key.msgid, bitmap := n.bitmap, pte := pte }

/-- Takes a record for an access fault of a thread, counts it for the thread's launch and taints the verdict for
a NET_LOSS (R38, R74, R226, R256). EVAL and NOREC of the trap. -/
def scalarRecord (s : State) (t : Thread) (f : FaultInfo) : State × Word × Bool :=
  let (s1, r) := takeRecord s t.asid .scalar f
  let (a, nr) := r.getD (0, true)
  let s2 := match t.id with
    | .sys _ => s1
    | .ctl _ _ _ => s1.updTask t.asid t.lslot (fun e =>
        let e1 := e.fault f.code f.site f.va a
        if f.code = 12 then { e1 with verdict := 2 } else e1)
  (s2, BitVec.ofNat 64 a, nr)

/-- A precise access fault at the instruction at pc. -/
def accessFault (s : State) (t : Thread) (code sub : Nat) (pte : Word) (va : Nat) (write : Bool) : State :=
  if t.inh then doubleTrap s t code
  else
    let (s1, ev, nr) := scalarRecord s t (scalarInfo t code sub pte va write .none)
    syncTrap s1 t code sub false nr t.pc ev

/-- Takes the oldest imprecise error before the instruction at pc (R314). -/
def takeImprecise (s : State) (t : Thread) (e : ImpErr) : State :=
  syncTrap s { t with imp := t.imp.drop 1 } e.code e.sub true e.norec t.pc e.recAddr

/-! ### Memory accesses of a thread (R313, R314) -/

/-- Translation for a thread's access. -/
def threadXl (s : State) (t : Thread) (va : Nat) (nd : Need) : Acc (Xl × Nat) :=
  match t.id with
  | .sys n =>
    if va ≥ 2 ^ 48 then .fault s 8 3 0
    else if t.asid = 0 then .ok s (physXl (n < 16) va, 3)
    else translate s none n t.asid va nd
  | .ctl d c _ => translate s (some d) c t.asid va nd

/-- R313's checks in their order, then the access itself. -/
def checked (s : State) (t : Thread) (ea : Word) (n : Nat) (nd : Bool → Need) (write : Bool)
    (k : State → Xl → Nat → State) : State :=
  if ea.toNat % n ≠ 0 then misaligned s t ea
  else match threadXl s t ea.toNat (nd (t.mode = .user)) with
    | .wait => s
    | .fault s' c j p => accessFault s' t c j p ea.toNat write
    | .ok s' (x, lv) => k s' x lv

/-- The bytes a load is given from the store buffer, the newest write winning byte by byte; a compressed page's bytes are decoded
ones, which no buffered store holds (R222, R314). -/
def forward (buf : List StoreEnt) (x : Xl) (i : Nat) (b : Byte) : Byte :=
  buf.foldl (fun c e =>
    if e.xl.sram = x.sram ∧ x.comp = false ∧ e.xl.pa ≤ x.pa + i ∧ x.pa + i < e.xl.pa + e.bytes.length
    then e.bytes.getD (x.pa + i - e.xl.pa) c else c) b

/-- Every byte of a load stands in the store buffer. -/
def wholly (buf : List StoreEnt) (x : Xl) (n : Nat) : Bool :=
  !x.comp && n > 0 && (List.range n).all (fun i => buf.any (fun e => e.xl.sram = x.sram && e.xl.pa ≤ x.pa + i && x.pa + i < e.xl.pa + e.bytes.length))

/-- Bytes a thread reads; a correctable error taints its launch's verdict no more than to corrected (R202, R256). -/
def threadBytes (s : State) (t : Thread) (die : Option Nat) (lv : Nat) (x : Xl) (n : Nat) : Acc (List Byte) :=
  (readBytes s die lv x n).bind (fun s1 bs =>
    .ok (if correctedIn s s1 && !t.id.isSys then s1.updTask t.asid t.lslot (fun e => { e with verdict := max e.verdict 1 }) else s1) bs)

/-- A load's bytes: memory overlaid with the thread's store buffer; a load that finds every byte there asks no memory
(R314). (DEDUCED, assumption 12.) -/
def threadRead (s : State) (t : Thread) (x : Xl) (lv n : Nat) : Acc (List Byte) :=
  if wholly t.stbuf x n then .ok s ((List.range n).map (fun i => forward t.stbuf x i 0))
  else (threadBytes s t t.id.die? lv x n).bind (fun s' bs =>
    .ok s' (bs.mapIdx (fun i b => forward t.stbuf x i b)))

/-- Performs one buffered store; an error its destination reports becomes an imprecise error with its record
(R314); of cancelled work it raises nothing (R318). `none` when the slice makes it wait. -/
def performStore (s : State) (t : Thread) (e : StoreEnt) : Option (State × List ImpErr) :=
  match writeBytes s t.id.die? e.xl e.bytes with
  | .ok s' () => some (s', [])
  | .wait => none
  | .fault s' c k p =>
    if threadCancelled s t then some (s', [])
    else
    let (s1, ev, nr) := scalarRecord s' t (scalarInfo t c k p e.va true .none)
    some (s1, [{ code := c, sub := k, recAddr := ev, norec := nr }])

/-- Performs buffered stores in order; `none` when one has to wait. -/
def drainList (t : Thread) : List StoreEnt → State → Option (State × List ImpErr)
  | [], s => some (s, [])
  | e :: l, s =>
    match performStore s t e with
    | none => none
    | some (s1, a) => (drainList t l s1).map (fun (s2, b) => (s2, a ++ b))

/-- What FENCE, LDA, STL, an atomic and HALT do first (R314): an imprecise error is taken before the
instruction; the buffered stores are performed; an error among them is taken as well. -/
def syncPoint (s : State) (t : Thread) (k : State → Thread → State) : State :=
  match t.imp with
  | e :: _ => takeImprecise s t e
  | [] =>
    match drainList t t.stbuf s with
    | none => s
    | some (s1, []) => let u := { t with stbuf := [] }; k (s1.setThread u) u
    | some (s1, e :: es) => takeImprecise s1 { t with stbuf := [], imp := e :: es } e

/-- An acquire at PACKAGE or SYSTEM scope: the SHARE_PKG lines of the thread's die leave its slices (R211, R236).
A system core has none. -/
def acquireAt (s : State) (t : Thread) (sc : Nat) : State :=
  match t.id.die? with
  | some d => if sc ≥ 3 then flashInvalidate s d else s
  | none => s

/-! ### Status instructions (R321) -/

/-- TSTAT of a report: CODE, MAJOR and FUNC (R342). -/
def tstatWord (maj fn code : Nat) : Word := BitVec.ofNat 64 (fn * 2 ^ 16 + maj * 2 ^ 8 + code)

/-- A status instruction ends: TSTAT, and gd with its value, or −code when the outcome is not OK (R321). -/
def Thread.report (t : Thread) (d : Reg) (maj fn code : Nat) (v : Word) : Thread :=
  ({ t with tstat := tstatWord maj fn code, wait := .none }).retire d (if code = 0 then v else ofSigned (-(code : Int)))

/-- The same for a pair result: g(d+1) is zero unless OK (R321). -/
def Thread.reportPair (t : Thread) (d : Reg) (maj fn code : Nat) (v w : Word) : Thread :=
  (({ t with tstat := tstatWord maj fn code, wait := .none }).writePair d
    (if code = 0 then v else ofSigned (-(code : Int))) (if code = 0 then w else 0)).advance

/-- DQPOP and DQSTEAL report through TSTAT alone (R321). -/
def Thread.reportEntry (t : Thread) (d : Reg) (fn code : Nat) (e : Word128) : Thread :=
  (({ t with tstat := tstatWord 0x2E fn code, wait := .none }).writePair d
    (if code = 0 then e.extractLsb' 0 64 else 0) (if code = 0 then e.extractLsb' 64 64 else 0)).advance

/-- A status instruction without gd. -/
def Thread.reportOnly (t : Thread) (maj fn code : Nat) : Thread :=
  ({ t with tstat := tstatWord maj fn code, wait := .none }).advance

end Sys2Proof.Machine
end

