-- ==== Sys2Proof/Machine/Fetch.lean ====
section
/-! DEFINITION. What a step runs: the word a thread fetches (R285, R313), the word a site, a router slot or a port
is configured or loaded with, and how a word is placed where the next step fetches it. -/

namespace Sys2Proof.Machine

/-- What a fetch comes to: a word, the state after a fetch trap, or a wait at a slice. -/
inductive Fetched where
  | word (s : State) (w : BitVec 32)
  | trapped (s : State)
  | wait

/-- Fetches the word at pc (R285): alignment, translation and permission come before decoding. -/
def fetch (s : State) (t : Thread) : Fetched :=
  if t.pc.toNat % 4 ≠ 0 then .trapped (misaligned s t t.pc)
  else match (threadXl s t t.pc.toNat (Need.fetch (t.mode = .user))).bind
      (fun s' (x, lv) => threadBytes s' t t.id.die? lv x 4) with
    | .wait => .wait
    | .fault s' c k p => .trapped (accessFault s' t c k p t.pc.toNat false)
    | .ok s' bs => .word s' ((wordOfBytes bs).getD 0)

/-- Whether a thread may issue: it runs, HALT of its partition has not stopped it, and no unit owes it an answer
(R83, R323). -/
def Thread.canIssue (t : Thread) : Bool :=
  t.run = .running && !t.frozen &&
  match t.wait with
  | .ring _ _ _ | .fload _ _ _ _ _ | .steal | .swapp _ _ _ => false
  | _ => true

/-- A control core's thread runs while its die is trained and out of reset, once the load that began its launch has powered the
region (R17, R78, R79, R86); a system core always does. -/
def threadUp (s : State) (t : Thread) : Bool :=
  match t.id with
  | .sys _ => true
  | .ctl die _ _ => s.dieUsable die && (match s.place? t.place with | some p => p.ready | none => true)

/-- The folio a place runs. -/
def Place.folio (p : Place) : Option Folio := (p.slots.getD p.run none)

/-- The cell word a site is configured with (R117, R289). -/
def cellAt (s : State) (n : Node) : Option (BitVec 64) :=
  match (s.place? n.place).bind Place.folio with
  | none => none
  | some f => (f.cells.find? (fun c => c.x = n.x && c.y = n.y)).map (fun c => c.word)

def State.site? (s : State) (n : Node) : Option Site := s.sites.find? (fun x => x.node = n)

def State.rslot? (s : State) (n : Node) (k : Bool) : Option RSlot := s.rslots.find? (fun x => x.node = n && x.slot = k)

/-- The operation a site performs: its cell word's, or, at a matrix node (OP 0x51), the one its CTRL token names;
any other token at a matrix node is met by MMA (R192, R292, R298, R387). -/
def siteInstr (s : State) (n : Node) : Option Instr :=
  match cellAt s n, s.site? n with
  | some w, some x =>
    if w.extractLsb' 56 8 = 0x51 then
      x.ina.head?.map (fun t =>
        match (if t.kind = .ctrl then decodeCtrl n t.pay else none) with
        | some i => i
        | none => .mma n (ctrlFields t.pay))
    else decodeCell n w
  | _, _ => none

/-- The operation of a router slot (R294). -/
def routerInstr (s : State) (n : Node) (k : Bool) : Option Instr :=
  match (s.place? n.place).bind Place.folio with
  | none => none
  | some f =>
    ((f.routs.filter (fun c => c.x = n.x && c.y = n.y)).findSome? (fun c =>
      if c.word.extractLsb' 29 1 = BitVec.ofNat 1 (bit1 k) then decodeRouter n c.word else none))

/-- The commands a port has under way, the oldest first (R348). -/
def Port.runs (q : Port) : List Running := q.older ++ q.running.toList

/-- The k-th command a port has under way, RECORD and REPLAY behind the others; behind them all a PSET at the head of the queue,
which is never under way (R351). -/
def portInstr (s : State) (p : PortRef) (k : Nat) : Option Instr :=
  match s.place? p.place with
  | none => none
  | some x => match x.ports.find? (fun q => q.num = p.port) with
    | none => none
    | some q => match ((q.runs ++ q.logs).map (fun r => r.cmd) ++ (q.queue.head?.toList.filter (fun c => c.word.extractLsb' 120 8 = 0x08)))[k]? with
      | none => none
      | some c => decodeCmd p.place c.word

/-- Time passes and nothing else does (DESIGN CHOICE, assumption 2). -/
def idle (s : State) : State := { s with cycle := s.cycle + 1 }

/-- The thread that issues, ready to fetch: the load of a program from outside (DESIGN CHOICE, assumption 6). -/
def readyThread (t : Thread) : Thread :=
  { t with run := .running, frozen := false, wait := .none, async := [], imp := [] }

/-- A word stored where a thread fetches: at the translated address, with every slice's copy of its line gone. -/
def storeFetchWord (s : State) (t : Thread) (w : BitVec 32) : State :=
  match threadXl s t t.pc.toNat (Need.fetch (t.mode = .user)) with
  | .ok _ (x, _) =>
    if x.sram then { s with sram := memWrite s.sram x.pa (bytesOfWord w) }
    else
      let line := x.pa / 128
      let other (w : Nat) : Bool := w / 16 ≠ line
      { s with
          mem := memWrite s.mem x.pa (bytesOfWord w)
          slices := s.slices.map (fun y => { y with lines := y.lines.filter (fun l => l.line ≠ line), pend := y.pend.filter (fun l => l.line ≠ line) })
          lreqs := s.lreqs.filter (fun q => q.line ≠ line)
          llc := s.llc.map (fun c => { c with bad := c.bad.filter other, queue := c.queue.filter (fun q => q.line ≠ line) })
          badWords := s.badWords.filter other
          pkg := { s.pkg with hbmTrained := List.replicate 16 true } }
  | _ => s

end Sys2Proof.Machine
end

