-- ==== Sys2Proof/Machine/Number.lean ====
section
/-! DEFINITION. Number formats and exact arithmetic (chapter 08): values as sign, mantissa and power of two, one
rounding for every format, and conversions. -/

namespace Sys2Proof.Machine

/-! ### Flags (R186) -/

/-- A set of sticky flags, in the bit order of R186. -/
abbrev Flags := BitVec 7

def fInvalid : Flags := 1
def fDivZero : Flags := 2
def fOverflow : Flags := 4
def fUnderflow : Flags := 8
def fInexact : Flags := 16
def fSaturated : Flags := 32
def fNanIn : Flags := 64

/-- A flag if a condition holds. -/
def flagIf (c : Bool) (f : Flags) : Flags := if c then f else 0

/-! ### Formats (R175-R180) -/

/-- What the top exponent means (R176). -/
inductive TopExp where
  | ieee | e4m3 | finite
  deriving DecidableEq, Repr

/-- A floating format: exponent bits, fraction bits, bias, top exponent. -/
structure Fmt where
  eb : Nat
  mb : Nat
  bias : Nat
  top : TopExp
  deriving DecidableEq, Repr

def fp32 : Fmt := { eb := 8, mb := 23, bias := 127, top := .ieee }
def fp64 : Fmt := { eb := 11, mb := 52, bias := 1023, top := .ieee }
def bf16 : Fmt := { eb := 8, mb := 7, bias := 127, top := .ieee }
def fp16 : Fmt := { eb := 5, mb := 10, bias := 15, top := .ieee }
def e4m3 : Fmt := { eb := 4, mb := 3, bias := 7, top := .e4m3 }
def e5m2 : Fmt := { eb := 5, mb := 2, bias := 15, top := .ieee }
def e2m1 : Fmt := { eb := 2, mb := 1, bias := 1, top := .finite }

def Fmt.width (f : Fmt) : Nat := 1 + f.eb + f.mb

/-- The floating format of a code, or `none` for an integer format (R175). -/
def floatFmt (code : Nat) : Option Fmt :=
  match code with
  | 0 => some fp32
  | 1 => some bf16
  | 2 => some fp16
  | 3 => some e4m3
  | 4 => some e5m2
  | 5 => some e2m1
  | _ => none

/-- The element width of a format code (R175). -/
def fmtWidth (code : Nat) : Nat :=
  match code with
  | 0 | 6 => 32
  | 1 | 2 | 7 => 16
  | 5 | 9 => 4
  | _ => 8

/-- A number read from a format: NaN, an infinity, or sign, mantissa and exponent of two; zero keeps its sign. -/
inductive Val where
  | nan
  | inf (neg : Bool)
  | num (neg : Bool) (m : Nat) (e : Int)
  deriving DecidableEq, Repr

def Val.neg? : Val → Bool
  | .nan => false
  | .inf n => n
  | .num n _ _ => n

def Val.isNan : Val → Bool
  | .nan => true
  | _ => false

def Val.isInf : Val → Bool
  | .inf _ => true
  | _ => false

def Val.isZero : Val → Bool
  | .num _ m _ => m = 0
  | _ => false

/-- The value of an encoding (R176, R177). -/
def Fmt.read (f : Fmt) (n : Nat) : Val :=
  let s := bitsOf n (f.eb + f.mb) 1 = 1
  let e := bitsOf n f.mb f.eb
  let t := bitsOf n 0 f.mb
  let special := f.top = .ieee && e = 2 ^ f.eb - 1
  if special then (if t = 0 then .inf s else .nan)
  else if f.top = .e4m3 && e = 2 ^ f.eb - 1 && t = 2 ^ f.mb - 1 then .nan
  else if e = 0 then .num s t (1 - (f.bias : Int) - f.mb)
  else .num s (t + 2 ^ f.mb) ((e : Int) - f.bias - f.mb)

/-- The canonical NaN (R180); E2M1 has none and takes +0 (R184). -/
def Fmt.nan (f : Fmt) : Nat :=
  match f.top with
  | .ieee => (2 ^ f.eb - 1) * 2 ^ f.mb + 2 ^ (f.mb - 1)
  | .e4m3 => 2 ^ (f.eb + f.mb) - 1
  | .finite => 0

/-- The sign bit at the top of a format. -/
def Fmt.sign (f : Fmt) (neg : Bool) : Nat := if neg then 2 ^ (f.eb + f.mb) else 0

/-- The largest finite magnitude's encoding (R176). -/
def Fmt.maxBits (f : Fmt) : Nat :=
  match f.top with
  | .ieee => (2 ^ f.eb - 1) * 2 ^ f.mb - 1
  | .e4m3 => 2 ^ (f.eb + f.mb) - 2
  | .finite => 2 ^ (f.eb + f.mb) - 1

def Fmt.inf (f : Fmt) (neg : Bool) : Nat := f.sign neg + (2 ^ f.eb - 1) * 2 ^ f.mb

/-! ### Rounding (R181-R183) -/

/-- A rounding code: mode and SAT (R181). -/
structure Rs where
  mode : Nat
  sat : Bool
  deriving DecidableEq, Repr

def rsOf (c : BitVec 3) : Rs := { mode := c.toNat % 4, sat := c.toNat ≥ 4 }

/-- The number of bits of `n`. -/
def bitLen (n : Nat) : Nat := if n = 0 then 0 else Nat.log2 n + 1

/-- Whether a magnitude is rounded up: `odd` the last kept bit, `rem` of `2^sh` cut off, `more` when a nonzero
part lies below `rem` (R182). -/
def roundUp (mode : Nat) (neg odd : Bool) (rem sh : Nat) (more : Bool) : Bool :=
  let inexact := rem ≠ 0 || more
  match mode with
  | 0 => sh ≠ 0 && (2 * rem > 2 ^ sh || (2 * rem = 2 ^ sh && (more || odd)))
  | 1 => false
  | 2 => inexact && !neg
  | _ => inexact && neg

/-- What an overflowing result becomes, with its flags beside overflow and inexact (R183). -/
def Fmt.overflowed (f : Fmt) (rs : Rs) (neg : Bool) : Nat × Flags :=
  let wouldInf := rs.mode = 0 || (rs.mode = 2 && !neg) || (rs.mode = 3 && neg)
  let maxB := f.sign neg + f.maxBits
  if wouldInf then
    if rs.sat then (maxB, fSaturated)
    else match f.top with
      | .ieee => (f.inf neg, 0)
      | .e4m3 => (f.nan, 0)
      | .finite => (maxB, 0)
  else (maxB, 0)

/-- Rounds ±(m + more)·2^e once to a format, `more` standing for a nonzero part below the last bit of `m`
(R182, R183). -/
def Fmt.round (f : Fmt) (rs : Rs) (neg : Bool) (m : Nat) (e : Int) (more : Bool) : Nat × Flags :=
  if m = 0 && !more then (f.sign neg, 0)
  else
    let q : Int := max (e + bitLen m - (f.mb + 1)) (1 - (f.bias : Int) - f.mb)
    let sh := (q - e).toNat
    let kept := if q ≤ e then m * 2 ^ (e - q).toNat else m / 2 ^ sh
    let rem := if q ≤ e then 0 else m % 2 ^ sh
    let inexact := rem ≠ 0 || more
    let k := kept + bit1 (roundUp rs.mode neg (kept % 2 = 1) rem sh more)
    let (k2, q2) := if k = 2 ^ (f.mb + 1) then (k / 2, q + 1) else (k, q)
    let bits := if k2 < 2 ^ f.mb then k2 else (q2 + f.mb + f.bias).toNat * 2 ^ f.mb + (k2 - 2 ^ f.mb)
    if bits > f.maxBits then
      let (b, fl) := f.overflowed rs neg
      (b, fl ||| fOverflow ||| fInexact)
    else
      (f.sign neg + bits, flagIf inexact fInexact ||| flagIf (inexact && k2 < 2 ^ f.mb) fUnderflow)

/-- Rounds a value that is a number; a NaN or an infinity takes its encoding. -/
def Fmt.put (f : Fmt) (rs : Rs) : Val → Nat × Flags
  | .nan => (f.nan, 0)
  | .inf n => (f.inf n, 0)
  | .num n m e => f.round rs n m e false

/-- A conversion between floating formats (R184). -/
def Fmt.convert (f : Fmt) (rs : Rs) (v : Val) : Nat × Flags :=
  match v with
  | .nan => (f.nan, fNanIn ||| flagIf (f.top = .finite) fInvalid)
  | .num n m e => f.round rs n m e false
  | .inf n =>
    match f.top with
    | .ieee => (f.inf n, 0)
    | .e4m3 => if rs.sat then (f.sign n + f.maxBits, fSaturated) else (f.nan, fInvalid)
    | .finite => (f.sign n + f.maxBits, if rs.sat then fSaturated else fInvalid)

/-- A value rounded to an integer by the mode, and whether that is inexact (R185). -/
def roundInt (mode : Nat) (neg : Bool) (m : Nat) (e : Int) : Int × Bool :=
  if 0 ≤ e then ((if neg then -(m : Int) else m) * 2 ^ e.toNat, false)
  else
    let sh := (-e).toNat
    let kept := m / 2 ^ sh
    let rem := m % 2 ^ sh
    let k := kept + bit1 (roundUp mode neg (kept % 2 = 1) rem sh false)
    (if neg then -(k : Int) else k, rem ≠ 0)

/-- The least and the greatest value of an integer of `w` bits. -/
def intLo (w : Nat) (sgn : Bool) : Int := if sgn then -(2 ^ (w - 1) : Int) else 0
def intHi (w : Nat) (sgn : Bool) : Int := if sgn then 2 ^ (w - 1) - 1 else 2 ^ w - 1

/-- The low `w` bits of an integer. -/
def wrapInt (w : Nat) (v : Int) : Nat := (v % (2 ^ w : Int)).toNat

/-- A floating value as an integer of `w` bits (R185). -/
def toInt (w : Nat) (sgn : Bool) (rs : Rs) : Val → Nat × Flags
  | .nan => (0, fInvalid ||| fNanIn)
  | .inf n =>
    if rs.sat then (wrapInt w (if n then intLo w sgn else intHi w sgn), fInvalid ||| fSaturated) else (0, fInvalid)
  | .num n m e =>
    let (v, inexact) := roundInt rs.mode n m e
    if v < intLo w sgn then
      (if rs.sat then (wrapInt w (intLo w sgn), fInvalid ||| fSaturated) else (wrapInt w v, fInvalid))
    else if intHi w sgn < v then
      (if rs.sat then (wrapInt w (intHi w sgn), fInvalid ||| fSaturated) else (wrapInt w v, fInvalid))
    else (wrapInt w v, flagIf inexact fInexact)

/-- An integer result in `w` bits: wrapped, or clamped with `saturated` under SAT (R185). -/
def fitInt (w : Nat) (sgn : Bool) (sat : Bool) (v : Int) : Nat × Flags :=
  if sat && v < intLo w sgn then (wrapInt w (intLo w sgn), fSaturated)
  else if sat && intHi w sgn < v then (wrapInt w (intHi w sgn), fSaturated)
  else (wrapInt w v, 0)

/-- An integer as a value. -/
def ofInt (v : Int) : Val := .num (v < 0) v.natAbs 0

/-! ### Exact sums, products, quotients and roots -/

/-- The least exponent of some numbers. -/
def minExp : List (Bool × Nat × Int) → Int → Int
  | [], e => e
  | (_, _, e) :: l, a => minExp l (min e a)

/-- The exact sum at a common exponent. -/
def sumAt (e : Int) : List (Bool × Nat × Int) → Int
  | [] => 0
  | (n, m, x) :: l => (if n then -(m : Int) else m) * 2 ^ (x - e).toNat + sumAt e l

/-- The sign of an exact zero sum: −0 if every term is −0, or if the mode is RDN (R194). -/
def zeroSign (mode : Nat) (ts : List (Bool × Nat × Int)) : Bool := mode = 3 || ts.all (fun t => t.1 && t.2.1 = 0)

/-- The exact sum of numbers. -/
def sumNums (mode : Nat) (ts : List (Bool × Nat × Int)) : Val :=
  match ts with
  | [] => .num false 0 0
  | (_, _, x) :: _ =>
    let e := minExp ts x
    let v := sumAt e ts
    if v = 0 then .num (zeroSign mode ts) 0 0 else .num (v < 0) v.natAbs e

/-- The finite members of some values. -/
def finites : List Val → List (Bool × Nat × Int)
  | [] => []
  | .num n m e :: l => (n, m, e) :: finites l
  | _ :: l => finites l

/-- The exact sum of values that are no NaN: opposed infinities are invalid (R193, R309). -/
def sumVals (mode : Nat) (vs : List Val) : Val × Flags :=
  let pos := vs.any (fun v => v = .inf false)
  let neg := vs.any (fun v => v = .inf true)
  if pos && neg then (.nan, fInvalid)
  else if pos then (.inf false, 0)
  else if neg then (.inf true, 0)
  else (sumNums mode (finites vs), 0)

/-- The exact product of values that are no NaN: zero times infinity is invalid. -/
def mulVals : Val → Val → Val × Flags
  | .num a m e, .num b n f => (.num (a != b) (m * n) (e + f), 0)
  | .inf a, .inf b => (.inf (a != b), 0)
  | .inf a, .num b n _ => if n = 0 then (.nan, fInvalid) else (.inf (a != b), 0)
  | .num a m _, .inf b => if m = 0 then (.nan, fInvalid) else (.inf (a != b), 0)
  | _, _ => (.nan, 0)

def Val.negate : Val → Val
  | .nan => .nan
  | .inf n => .inf (!n)
  | .num n m e => .num (!n) m e

/-- The greatest `r` with `r² ≤ n`, from bit `k-1` down. -/
def isqrtFrom : Nat → Nat → Nat → Nat
  | 0, _, r => r
  | k + 1, n, r => if (r + 2 ^ k) * (r + 2 ^ k) ≤ n then isqrtFrom k n (r + 2 ^ k) else isqrtFrom k n r

def isqrt (n : Nat) : Nat := isqrtFrom (bitLen n / 2 + 1) n 0

/-- The square root of a positive number to well over 64 bits, rounded once (R309, R377). -/
def Fmt.sqrtNum (f : Fmt) (rs : Rs) (m : Nat) (e : Int) : Nat × Flags :=
  let k : Int := if e % 2 = 0 then 140 else 141
  let n := m * 2 ^ k.toNat
  let r := isqrt n
  f.round rs false r ((e - k) / 2) (r * r ≠ n)

/-- The quotient of numbers, the divisor not zero, rounded once (R309). -/
def Fmt.divNum (f : Fmt) (rs : Rs) (neg : Bool) (m : Nat) (e : Int) (n : Nat) (g : Int) : Nat × Flags :=
  let k := 140 + bitLen n
  let q := m * 2 ^ k / n
  f.round rs neg q (e - g - k) (m * 2 ^ k % n ≠ 0)

/-- The order of two values that are no NaN, with −0 below +0 when `zeros` is set (R310, R374). -/
def ltVal (zeros : Bool) (a b : Val) : Bool :=
  match a, b with
  | .inf x, .inf y => x && !y
  | .inf x, _ => x
  | _, .inf y => !y
  | .num x m e, .num y n f =>
    let d := sumAt (min e f) [(x, m, e), (!y, n, f)]
    if m = 0 && n = 0 then zeros && x && !y else d < 0
  | _, _ => false

/-- Equality of values that are no NaN; both zeros are equal (R310). -/
def eqVal (a b : Val) : Bool := !ltVal false a b && !ltVal false b a

end Sys2Proof.Machine
end

