-- ==== Sys2Proof/Machine/Folio.lean ====
section
/-! DEFINITION. Folios: the master tables of the cell opcodes (R371, R387), folio images (R117-R119), the rules that
make a folio invalid (R293, R297, R124 and the operator chapters), and the tracks between switch boxes (R153, R290). -/

namespace Sys2Proof.Machine

/-! ### Site kinds (R118, R144, R145) -/

inductive SiteKind where
  | cell | tile | matrix | rowPort
  deriving DecidableEq, Repr

/-- The kind of a footprint-relative site: by the granule's kind (R118), then by the first row of R144 that
matches. -/
def siteKind (cls x y : Nat) : SiteKind :=
  let s := decide ((cls + x / 4) % 2 = 1)
  if s && x % 4 = 3 then .rowPort
  else if (x + y) % 2 = 1 then .tile
  else if x % 4 = 1 && y % 4 = 1 then .matrix
  else .cell

/-! ### Tracks (R153, R290) -/

/-- The length of track `t` (R290); 0 for the reserved one. -/
def trackLen (t : Nat) : Nat := if t < 4 then 1 else if t < 6 then 4 else if t = 6 then 16 else 0

/-- The cycles a segment takes (R154). -/
def trackCycles (t : Nat) : Nat := if t < 4 then 1 else if t < 6 then 2 else 4

/-- The box a segment code leaves for, `none` off the footprint's west or north edge. -/
def farBox (code x y : Nat) : Option (Nat × Nat) :=
  let n := trackLen (code % 8)
  match (code - 0x20) / 8 with
  | 0 => if y ≥ n then some (x, y - n) else none
  | 1 => some (x + n, y)
  | 2 => some (x, y + n)
  | _ => if x ≥ n then some (x - n, y) else none

/-- The box a segment that ends here comes from. -/
def nearBox (code x y : Nat) : Option (Nat × Nat) :=
  let n := trackLen (code % 8)
  match (code - 0x20) / 8 with
  | 0 => some (x, y + n)
  | 1 => if x ≥ n then some (x - n, y) else none
  | 2 => if y ≥ n then some (x, y - n) else none
  | _ => some (x + n, y)

def isSegCode (c : Nat) : Bool := 0x20 ≤ c && c < 0x40 && c % 8 ≠ 7

/-! ### The master tables (R371, R387) -/

/-- What an opcode's rows say: its site, which inputs it has (0 none, 1 needed, 2 optional), which must be streams,
its outputs, what RS it takes (0 zero, 1 any, 2 zero or SAT), whether it predicates, its latency, whether it carries
state, and whether it belongs to chapter 18 (R386). -/
structure OpInfo where
  kind : SiteKind
  ins : Nat × Nat × Nat
  stream : Bool × Bool × Bool
  outs : Nat
  rs : Nat
  pred : Bool
  lat : Nat
  state : Bool
  flow : Bool
  deriving DecidableEq, Repr

/-- An element-wise row: operands, RS, PRED, L, state (R371). -/
def lane (a b c rs : Nat) (pred : Bool) (lat : Nat) (state : Bool) : OpInfo :=
  { kind := .cell, ins := (a, b, c), stream := (true, false, false), outs := 1, rs := rs, pred := pred, lat := lat,
    state := state, flow := false }

/-- A row of R387. -/
def flowOp (kind : SiteKind) (a b c outs lat : Nat) (state : Bool) : OpInfo :=
  { kind := kind, ins := (a, b, c), stream := (true, true, true), outs := outs, rs := 0, pred := false, lat := lat,
    state := state, flow := true }

/-- The row of an opcode, `none` where it is unassigned or a CTRL op only (R292). -/
def opInfo (op : Nat) : Option OpInfo :=
  match op with
  | 0x01 | 0x02 => some (lane 1 1 0 1 true 2 false)
  | 0x03 => some (lane 1 1 0 1 true 3 false)
  | 0x04 => some (lane 1 1 1 1 false 4 false)
  | 0x05 | 0x06 => some (lane 1 1 0 0 true 1 false)
  | 0x07 | 0x08 => some (lane 1 0 0 2 true 1 false)
  | 0x09 => some (lane 1 1 0 0 true 1 false)
  | 0x0A => some (lane 1 1 1 0 false 1 false)
  | 0x0B | 0x0C | 0x0D => some (lane 1 1 0 0 true 1 false)
  | 0x0E => some (lane 1 0 0 0 true 1 false)
  | 0x0F | 0x10 | 0x11 => some (lane 1 1 0 0 true 1 false)
  | 0x12 | 0x13 | 0x14 | 0x15 | 0x16 | 0x17 | 0x18 => some (lane 1 0 0 1 true 6 false)
  | 0x19 => some (lane 1 0 0 1 false 2 true)
  | 0x1A => some { lane 1 1 0 1 false 3 true with stream := (true, true, false) }
  | 0x1B => some (lane 1 0 0 1 false 4 true)
  | 0x1C => some (lane 1 0 0 0 false 2 true)
  | 0x1D => some (lane 1 2 0 1 false 3 true)
  | 0x1E => some (lane 1 1 0 0 false 4 false)
  | 0x1F => some (lane 1 0 0 0 false 1 false)
  | 0x20 => some (lane 1 1 0 1 false 2 false)
  | 0x21 => some (lane 1 0 0 1 false 2 false)
  | 0x22 => some (lane 1 0 0 0 false 1 false)
  | 0x23 => some (lane 1 0 0 0 true 1 false)
  | 0x30 => some { flowOp .cell 1 1 0 7 1 true with stream := (true, false, true) }
  | 0x31 => some (flowOp .cell 1 1 1 7 1 true)
  | 0x32 => some (flowOp .cell 1 0 0 1 1 true)
  | 0x40 | 0x43 => some (flowOp .cell 1 2 2 7 8 true)
  | 0x41 | 0x44 => some (flowOp .cell 1 1 2 6 8 true)
  | 0x42 => some (flowOp .cell 1 1 2 7 8 true)
  | 0x45 => some (flowOp .cell 1 0 0 1 1 false)
  | 0x46 => some (flowOp .cell 2 2 2 1 1 false)
  | 0x47 => some (flowOp .cell 1 2 2 1 1 false)
  | 0x48 => some (flowOp .tile 1 1 1 1 2 true)
  | 0x49 | 0x4A => some (flowOp .tile 2 2 0 3 2 true)
  | 0x4B => some (flowOp .tile 2 1 0 3 2 true)
  | 0x4C => some (flowOp .tile 2 2 0 3 2 true)
  | 0x50 => some (flowOp .cell 1 0 0 1 1 true)
  | 0x51 => some (flowOp .matrix 1 0 0 1 1 true)
  | 0x58 => some (flowOp .cell 1 0 0 1 1 false)
  | 0x59 => some (flowOp .cell 1 1 0 1 1 false)
  | 0x5A => some (flowOp .cell 1 0 0 3 1 true)
  | 0x5B => some (flowOp .cell 1 0 0 1 1 true)
  | 0x60 | 0x61 => some (flowOp .cell 1 2 0 1 1 true)
  | 0x62 => some (flowOp .cell 0 0 0 1 1 true)
  | 0x63 => some (flowOp .cell 1 0 0 0 1 true)
  | _ => none

/-- The formats an opcode accepts (R368, R386); for CVT, PACK, UNPACK and SCALE, as a target. -/
def fmtOk (op fmt : Nat) : Bool :=
  if op = 0x0F ∨ op = 0x10 ∨ op = 0x11 then 6 ≤ fmt && fmt ≤ 10
  else if 0x12 ≤ op ∧ op ≤ 0x18 then fmt ≤ 2
  else if op = 0x1D then fmt = 0 || fmt = 6
  else if op = 0x20 then fmt ≤ 10 && fmtWidth fmt ≤ 16
  else if op = 0x21 then fmt ≤ 10 && fmtWidth fmt ≥ 8
  else if 0x40 ≤ op ∧ op ≤ 0x44 then fmt = 0 || fmt = 6
  else op ≤ 0x23 && fmt ≤ 10

/-- The IMM range of an opcode (R371, R387, R395, R411). -/
def immOk (op imm : Nat) : Bool :=
  let scopes := bitsOf imm 0 3 ≤ 4 && bitsOf imm 8 3 ≤ 4 && bitsOf imm 12 4 = 0
  match op with
  | 0x09 => imm ≤ 6
  | 0x1D | 0x21 | 0x32 | 0x46 => imm ≤ 1
  | 0x1F => imm ≤ 63
  | 0x22 | 0x49 | 0x50 => imm ≤ 3
  | 0x31 => imm ≤ 15
  | 0x40 => scopes && bitsOf imm 3 4 = 0 && bitsOf imm 0 3 = 0
  | 0x43 => scopes && bitsOf imm 3 4 = 0
  | 0x41 => scopes && bitsOf imm 3 5 = 0 && bitsOf imm 0 3 = 0
  | 0x44 => scopes && bitsOf imm 3 5 = 0
  | 0x42 => scopes && bitsOf imm 7 1 = 0 && (bitsOf imm 6 1 = 0 || bitsOf imm 3 3 = 3 || bitsOf imm 3 3 = 4)
  | 0x47 => imm ≤ 4
  | 0x4B => imm < 2048
  | 0x58 => imm ≤ 63
  | 0x5A => imm ≤ 127
  | 0x60 => bitsOf imm 8 7 = 0
  | 0x61 => 2 ≤ bitsOf imm 8 3 && bitsOf imm 8 3 ≤ 4 && bitsOf imm 11 4 = 0
  | 0x62 => imm ≤ 7
  | _ => imm = 0

/-! ### Images (R119) -/

/-- The header of an image. -/
structure ImgHead where
  magic : Nat
  fmtver : Nat
  w : Nat
  h : Nat
  cls : Nat
  pol : Nat
  narg : Nat
  nres : Nat
  ncell : Nat
  nrout : Nat
  len : Nat
  mkint : Nat
  nport : Nat
  maskoff : Nat
  celloff : Nat
  routoff : Nat
  portoff : Nat
  rsv : Bool
  deriving DecidableEq, Repr

def folioHead (bs : List Byte) : ImgHead :=
  let f (o n : Nat) := bytesNat ((bs.drop o).take n)
  { magic := f 0 4, fmtver := f 4 2, w := f 6 1, h := f 7 1, cls := f 8 1, pol := f 9 1, narg := f 10 1, nres := f 11 1,
    ncell := f 12 2, nrout := f 14 2, len := f 16 4, mkint := f 20 2, nport := f 22 1, maskoff := f 24 4,
    celloff := f 28 4, routoff := f 32 4, portoff := f 36 4, rsv := f 23 1 ≠ 0 || f 40 24 ≠ 0 }

/-- The header's own rules (R117-R119). -/
def ImgHead.ok (h : ImgHead) : Bool :=
  h.magic = 0x4F494C46 && h.fmtver = 1 && 1 ≤ h.w && h.w ≤ 32 && 1 ≤ h.h && h.h ≤ 16 && h.cls ≤ 2 && h.pol < 16 &&
  bitsOf h.pol 1 2 ≠ 3 && h.narg ≤ 8 && h.nres ≤ 4 && 64 ≤ h.len && h.len ≤ 65536 && h.len % 8 = 0 && h.nport ≤ 64 &&
  !h.rsv && h.maskoff + 2 * (h.w * h.h) ≤ h.len && h.celloff + 16 * h.ncell ≤ h.len &&
  h.routoff + 8 * h.nrout ≤ h.len && h.portoff + 8 * h.nport ≤ h.len

/-- A site from a 4-byte placement: rgx, rgy, rx, ry (R119). -/
def placement (bs : List Byte) : Nat × Nat :=
  let f (i : Nat) := (bs.getD i 0).toNat
  (4 * f 0 + f 2, 4 * f 1 + f 3)

/-- The folio of an image, its tables read as the header places them. -/
def folioOf (routine : Nat) (bs : List Byte) : Folio :=
  let h := folioHead bs
  let at_ (o n : Nat) := (bs.drop o).take n
  { w := h.w, h := h.h, cls := h.cls, foldable := bitsOf h.pol 0 1 = 1, stow := bitsOf h.pol 1 2, warm := bitsOf h.pol 3 1 = 1,
    narg := h.narg, nres := h.nres, mkint := h.mkint,
    masks := (List.range (h.w * h.h)).map (fun i => BitVec.ofNat 16 (bytesNat (at_ (h.maskoff + 2 * i) 2))),
    cells := (List.range h.ncell).map (fun i =>
      let e := at_ (h.celloff + 16 * i) 16
      let p := placement (e.drop 8)
      { x := p.1, y := p.2, word := BitVec.ofNat 64 (bytesNat (e.take 8)) }),
    routs := (List.range h.nrout).map (fun i =>
      let e := at_ (h.routoff + 8 * i) 8
      let p := placement (e.drop 4)
      { x := p.1, y := p.2, word := BitVec.ofNat 32 (bytesNat (e.take 4)) }),
    ports := (List.range h.nport).map (fun i =>
      let e := at_ (h.portoff + 8 * i) 8
      let f (j : Nat) := (e.getD j 0).toNat
      { num := f 0, x := 4 * f 1 + f 3 % 16, y := 4 * f 2 + f 3 / 16, gen := f 4 }),
    routine := routine }

/-- The mask bit of a footprint-relative site (R117). -/
def Folio.uses (f : Folio) (x y : Nat) : Bool :=
  x < 4 * f.w && y < 4 * f.h && (f.masks.getD (y / 4 * f.w + x / 4) 0).getLsbD (4 * (y % 4) + x % 4)

/-- Placement bytes in range and zero where they must be (R119). -/
def tablesOk (bs : List Byte) (f : Folio) : Bool :=
  let h := folioHead bs
  let at_ (o n : Nat) := (bs.drop o).take n
  let small (e : List Byte) : Bool := (e.getD 2 0).toNat < 4 && (e.getD 3 0).toNat < 4
  (List.range h.ncell).all (fun i => let e := at_ (h.celloff + 16 * i) 16; small (e.drop 8) && bytesNat (e.drop 12) = 0) &&
  (List.range h.nrout).all (fun i => small ((at_ (h.routoff + 8 * i) 8).drop 4)) &&
  (List.range h.nport).all (fun i =>
    let e := at_ (h.portoff + 8 * i) 8
    (e.getD 0 0).toNat < 64 && (e.getD 3 0).toNat % 16 < 4 && (e.getD 3 0).toNat / 16 < 4 && (e.getD 4 0).toNat < 2 &&
      bytesNat (e.drop 5) = 0) &&
  f.cells.all (fun c => f.uses c.x c.y) && f.routs.all (fun c => f.uses c.x c.y) && f.ports.all (fun c => f.uses c.x c.y) &&
  (f.cls ≠ 2 || f.masks.all (fun m => m.toNat &&& 0x8888 = 0))

/-! ### Words of a folio -/

/-- A constant slot of a site: its four quarters, zero where no word names one (R296). -/
def Folio.const (f : Folio) (x y slot : Nat) : BitVec 64 :=
  let q (i : Nat) : Nat :=
    match f.routs.find? (fun c => c.x = x && c.y = y && c.word.toNat / 2 ^ 30 = 3 && bitsOf c.word.toNat 28 2 = slot &&
      bitsOf c.word.toNat 26 2 = i) with
    | some c => bitsOf c.word.toNat 0 16
    | none => 0
  BitVec.ofNat 64 (q 0 + q 1 * 2 ^ 16 + q 2 * 2 ^ 32 + q 3 * 2 ^ 48)

def Folio.cell? (f : Folio) (x y : Nat) : Option (BitVec 64) :=
  (f.cells.find? (fun c => c.x = x && c.y = y)).map (fun c => c.word)

/-- Switch words of a box: OUT, SRC, ROUTE (R295). -/
def Folio.switches (f : Folio) (x y : Nat) : List (Nat × Nat × Nat) :=
  (f.routs.filter (fun c => c.x = x && c.y = y && c.word.toNat / 2 ^ 30 = 1)).map (fun c =>
    (bitsOf c.word.toNat 24 6, bitsOf c.word.toNat 18 6, bitsOf c.word.toNat 6 12))

/-- Router-operator words of a box: SLOT, ROP, IN0-IN2 (R294). -/
def Folio.routers (f : Folio) (x y : Nat) : List (Nat × Nat × Nat × Nat × Nat) :=
  (f.routs.filter (fun c => c.x = x && c.y = y && c.word.toNat / 2 ^ 30 = 2)).map (fun c =>
    let w := c.word.toNat
    (bitsOf w 29 1, bitsOf w 25 4, bitsOf w 19 6, bitsOf w 13 6, bitsOf w 7 6))

def opOf (w : BitVec 64) : Nat := bitsOf w.toNat 56 8

/-- The select codes of a cell word's inputs a, b and c that its opcode has. -/
def cellSels (w : BitVec 64) : List Nat :=
  [bitsOf w.toNat 34 6, bitsOf w.toNat 28 6, bitsOf w.toNat 22 6]

/-- The copies of a replicated operator, row-major (R166). (DEDUCED, assumption 44.) -/
def Folio.group (f : Folio) (w : BitVec 64) : List (Nat × Nat) :=
  (List.range (4 * f.h)).flatMap (fun y => (List.range (4 * f.w)).filterMap (fun x =>
    if f.cells.any (fun c => c.x = x && c.y = y && c.word = w) then some (x, y) else none))

/-- A copy that is not its group's lead. -/
def Folio.isCopy (f : Folio) (x y : Nat) : Bool :=
  match f.cell? x y with
  | none => false
  | some w => bitsOf w.toNat 50 6 ≠ 0 && (f.group w).head? ≠ some (x, y)

/-- Where the channel that a code names at a box comes from: a site's output, or a router slot's, `k` segments
followed back. -/
def Folio.source (f : Folio) : Nat → Nat → Nat → Nat → Option (Nat × Nat × Nat)
  | 0, _, _, _ => none
  | k + 1, x, y, code =>
    if isSegCode code then
      match nearBox code x y with
      | none => none
      | some (u, v) => match (f.switches u v).find? (fun s => s.1 = code) with
        | some s => f.source k u v s.2.1
        | none => none
    else if code = 0 then none else some (x, y, code)

/-- The number of segments a channel of the footprint can have. -/
def Folio.span (f : Folio) : Nat := 64 * f.w * f.h * 8

/-- The DONE leaves behind an input of a FENCE, through JOIN trees: each with the DSCOPE of its memory node, if it is
one (R400). -/
def Folio.leaves (f : Folio) : Nat → Nat → Nat → Nat → List (Option Nat)
  | 0, _, _, _ => [none]
  | k + 1, x, y, code =>
    match f.source f.span x y code with
    | some (u, v, c) => match f.cell? u v with
      | some w =>
        if c ≥ 0x10 then [none]
        else if opOf w = 0x46 then
          ((cellSels w).filter (fun s => s ≠ 0)).flatMap (fun s => f.leaves k u v s)
        else if 0x40 ≤ opOf w ∧ opOf w ≤ 0x44 then [some (bitsOf w.toNat 8 3)]
        else [none]
      | none => [none]
    | none => [none]

/-- The selects of the cell at a site; those of a copy that is not its group's lead are not used (R166). -/
def Folio.sels (f : Folio) (x y : Nat) : List Nat :=
  match f.cell? x y with | some w => if f.isCopy x y then [] else cellSels w | none => []

/-- How many inputs take what a code names at a box, over all the branches of its route (R155, R399). -/
def Folio.ends (f : Folio) : Nat → Nat → Nat → Nat → Nat
  | 0, _, _, _ => 0
  | k + 1, x, y, code =>
    ((f.sels x y).filter (fun c => c = code)).length +
    ((f.routers x y).flatMap (fun r => [r.2.2.1, r.2.2.2.1, r.2.2.2.2].filter (fun c => c = code))).length +
    (((f.switches x y).filter (fun s => s.2.1 = code)).map (fun s =>
      match farBox s.1 x y with | some (u, v) => f.ends k u v s.1 | none => 0)).sum

/-! ### The rules for cell words (R293, R166, R167, R386-R412) -/

/-- One input's select: unused where the opcode has none, present where it needs one, no code R290 forbids, no
constant where a stream is required. -/
def selOk (need : Nat) (stream : Bool) (flow : Bool) (c : Nat) : Bool :=
  if need = 0 && flow then c = 0
  else (need ≠ 1 || c ≠ 0) && (c = 0 || (1 ≤ c && c ≤ 4 && !stream) || (0x10 ≤ c && c ≤ 0x13) || isSegCode c)

/-- What an opcode demands of its slots, its site and its neighbours beyond R293's fields. -/
def opRules (f : Folio) (catcount : Nat) (c : Placed 64) : Bool :=
  let op := opOf c.word
  let w := c.word.toNat
  let imm := bitsOf w 0 16
  let slot (i : Nat) := (f.const c.x c.y i).toNat
  let port (g : Nat) := f.ports.any (fun p => p.x = c.x && p.y = c.y && p.gen = g)
  let sel (i : Nat) := (cellSels c.word).getD i 0
  match op with
  | 0x32 => 1 ≤ slot 2 % 2 ^ 32 && slot 2 % 2 ^ 32 < 2 ^ 31
  | 0x40 | 0x41 | 0x42 | 0x43 | 0x44 =>
    bitsOf (slot 0) 48 16 = 0 && slot 0 % 4 = 0 && (op = 0x41 || op = 0x44 || op = 0x42 || (bitsOf imm 7 1 = 1) = (sel 1 ≠ 0))
  | 0x45 => f.ends f.span c.x c.y 0x08 ≤ 4
  | 0x46 => if imm % 2 = 1 then sel 2 ≠ 0 else sel 0 ≠ 0 || sel 1 ≠ 0 || sel 2 ≠ 0
  | 0x47 =>
    let ls := ((if sel 1 = 0 then [] else f.leaves 32 c.x c.y (sel 1)) ++ (if sel 2 = 0 then [] else f.leaves 32 c.x c.y (sel 2)))
    (f.mkint = 0 || imm % 8 = 0) && ls.length ≤ 16 && ls.all (fun l => match l with | some d => d = imm % 8 | none => true)
  | 0x48 => !port 0 && !port 1
  | 0x49 | 0x4A => (port 0 == decide (sel 0 = 0)) && (!port 1 || bitsOf w 16 1 = 0) && (sel 1 = 0 || port 0 || port 1)
  | 0x4B => (port 0 == decide (sel 0 = 0)) && (!port 1 || bitsOf w 16 1 = 0)
  | 0x4C => sel 1 = 0 || port 0 || port 1
  | 0x50 => slot 0 % 256 = 0x51
  | 0x51 =>
    let tile (x y : Nat) : Bool := match f.cell? x y with
      | some v => opOf v = 0x49 && bitsOf v.toNat 16 1 = 0
      | none => false
    tile (c.x - 1) c.y && tile c.x (c.y - 1) && tile (c.x + 1) c.y && tile c.x (c.y + 1)
  | 0x60 | 0x61 =>
    (bitsOf imm 15 1 = 1 || imm % 256 < catcount) && (bitsOf imm 15 1 = 1) = (sel 1 ≠ 0)
  | 0x62 => imm % 8 < f.narg
  | _ => true

/-- A cell word breaks a rule. `origin` is the placed origin where it is known, for the cores of a group. -/
def cellBad (f : Folio) (catcount : Nat) (origin : Option (Nat × Nat)) (c : Placed 64) : Bool :=
  let w := c.word.toNat
  let op := opOf c.word
  match opInfo op with
  | none => true
  | some i =>
    let fmt := bitsOf w 46 4
    let rs := bitsOf w 43 3
    let pred := bitsOf w 40 3
    let outen := bitsOf w 16 6
    let rep := bitsOf w 50 6
    let sel (k : Nat) := (cellSels c.word).getD k 0
    let cNeed := if i.pred && pred ≠ 0 then 1 else i.ins.2.2
    let grp := f.group c.word
    let core (p : Nat × Nat) : Nat × Nat := match origin with
      | some (gx, gy) => ((gx + p.1 / 4) / 4, (gy + p.2 / 4) / 4)
      | none => (0, 0)
    let fields := i.kind = siteKind f.cls c.x c.y && (fmt = 15 || fmtOk op fmt) && pred ≤ 2 && (i.pred || pred = 0) &&
      (i.rs = 1 || rs = 0 || (i.rs = 2 && rs = 4)) && immOk op (bitsOf w 0 16) &&
      outen < 8 && (outen &&& i.outs) = outen
    let sels := selOk i.ins.1 i.stream.1 i.flow (sel 0) && selOk i.ins.2.1 i.stream.2.1 i.flow (sel 1) &&
      selOk cNeed (i.stream.2.2 && i.flow) i.flow (sel 2) &&
      (f.isCopy c.x c.y || (cellSels c.word).all (fun k => !isSegCode k || (match nearBox k c.x c.y with
        | some (u, v) => u < 4 * f.w && v < 4 * f.h
        | none => false)))
    let reps := rep = 0 || (!i.state && grp.length = rep + 1 &&
      (f.cells.filter (fun d => d.word = c.word)).length = rep + 1 &&
      grp.all (fun p => core p = core (c.x, c.y)))
    let one := (f.cells.filter (fun d => d.x = c.x && d.y = c.y)).length = 1
    !(fields && sels && reps && one && opRules f catcount c)

/-! ### The rules for router-table words (R297, R388) -/

/-- Inputs of a router operator that it needs (R294, R388). -/
def ropNeeds (rop : Nat) : Nat := if rop = 2 ∨ rop = 3 ∨ rop = 5 then 3 else 2

/-- The outputs of a router operator. -/
def ropOuts (rop : Nat) : Nat := if rop = 1 then 2 else 1

/-- A segment that ends at a box comes from a box of the footprint (R153). -/
def Folio.segInside (f : Folio) (x y code : Nat) : Bool :=
  match nearBox code x y with | some (u, v) => u < 4 * f.w && v < 4 * f.h | none => false

/-- A source that a box offers: a segment that ends there, an output of its site, an output of one of its router
slots. -/
def Folio.offers (f : Folio) (x y code : Nat) : Bool :=
  if isSegCode code then f.segInside x y code
  else if 0x08 ≤ code ∧ code ≤ 0x0A then
    (match f.cell? x y with
     | some w => (match opInfo (opOf w) with | some i => i.outs / 2 ^ (code - 8) % 2 = 1 | none => false) && !f.isCopy x y
     | none => false)
  else if 0x10 ≤ code ∧ code ≤ 0x13 then
    (f.routers x y).any (fun r => r.1 = (code - 0x10) / 2 && (code - 0x10) % 2 < ropOuts r.2.1)
  else false

/-- Something at the box takes the segment that ends there (R155). -/
def Folio.taken (f : Folio) (x y code : Nat) : Bool :=
  (f.switches x y).any (fun s => s.2.1 = code) ||
  (f.routers x y).any (fun r => r.2.2.1 = code || r.2.2.2.1 = code || r.2.2.2.2 = code) ||
  (f.sels x y).contains code

def switchBad (f : Folio) (c : Placed 32) : Bool :=
  let w := c.word.toNat
  let out := bitsOf w 24 6
  let src := bitsOf w 18 6
  let route := bitsOf w 6 12
  let here := f.switches c.x c.y
  let inSite := ((f.sels c.x c.y).filter (fun s => s = src)).length
  let far := match (if isSegCode out then farBox out c.x c.y else none) with
    | some (x, y) => x < 4 * f.w && y < 4 * f.h && f.taken x y out
    | none => false
  bitsOf w 0 6 ≠ 0 || route ≥ 3072 || !far || !f.offers c.x c.y src ||
  (here.filter (fun s => s.1 = out)).length ≠ 1 || here.any (fun s => s.2.1 = src && s.2.2 ≠ route) ||
  (here.filter (fun s => s.2.1 = src)).length + inSite > 4

def routerBad (f : Folio) (c : Placed 32) : Bool :=
  let w := c.word.toNat
  let rop := bitsOf w 25 4
  let slot := bitsOf w 29 1
  let ins := [bitsOf w 19 6, bitsOf w 13 6, bitsOf w 7 6]
  let okIn (k code : Nat) : Bool :=
    if k < ropNeeds rop then f.offers c.x c.y code && !(0x10 ≤ code && code ≤ 0x13 && (code - 0x10) / 2 = slot) else code = 0
  bitsOf w 0 7 ≠ 0 || rop = 0 || rop > 6 || ((f.routers c.x c.y).filter (fun r => r.1 = slot)).length ≠ 1 ||
  !((List.range 3).all (fun k => okIn k (ins.getD k 0)))

def constBad (f : Folio) (c : Placed 32) : Bool :=
  let w := c.word.toNat
  bitsOf w 16 10 ≠ 0 ||
  (f.routs.filter (fun d => d.x = c.x && d.y = c.y && d.word.toNat / 2 ^ 26 = w / 2 ^ 26)).length ≠ 1

def wordBad (f : Folio) (c : Placed 32) : Bool :=
  match c.word.toNat / 2 ^ 30 with
  | 0 => true
  | 1 => switchBad f c
  | 2 => routerBad f c
  | _ => constBad f c

/-- The earliest of sites in row-major order. -/
def firstSite : List (Nat × Nat) → Option (Nat × Nat)
  | [] => none
  | p :: l => match firstSite l with
    | none => some p
    | some q => if p.2 < q.2 ∨ (p.2 = q.2 ∧ p.1 ≤ q.1) then some p else some q

/-- The site of the first offending word, `none` for a folio that may be loaded (R293, R297). -/
def Folio.bad (f : Folio) (catcount : Nat) (origin : Option (Nat × Nat)) : Option (Nat × Nat) :=
  firstSite (((f.cells.filter (cellBad f catcount origin)).map (fun c => (c.x, c.y))) ++
    ((f.routs.filter (wordBad f)).map (fun c => (c.x, c.y))))

/-! ### The catalogue (R120-R124) -/

/-- What loading a catalogue comes to: none, or RESULT and INDEX of the first failure (R122). (DEDUCED, assumption 45.) -/
def catCheck (s : State) (asid base : Nat) : Nat → Nat → Option (Nat × Nat)
  | 0, _ => none
  | k + 1, i =>
    match hwGet s asid (base + 16 * i) 16 with
    | none => some (3, i)
    | some e =>
      let image := bytesNat (e.take 8)
      let len := bytesNat ((e.drop 8).take 4)
      if image % 64 ≠ 0 ∨ image ≥ 2 ^ 48 ∨ bytesNat (e.drop 12) ≠ 0 then some (1, i)
      else match hwGet s asid image 64 with
        | none => some (3, i)
        | some hd =>
          let h := folioHead hd
          if !h.ok then some (2, i) else if h.len ≠ len then some (1, i) else catCheck s asid base k (i + 1)

/-- The state in which the words that reading a catalogue entry's image corrects are whole again (R202). -/
def imageSeen (s : State) (p : Partition) (routine : Nat) : State :=
  match hwGet s p.asid (p.catbase + 16 * routine) 16 with
  | none => s
  | some e => hwSeen (((bytesNat ((e.drop 8).take 4)) + 63) / 64) (hwSeen 1 s p.asid (p.catbase + 16 * routine) 16) p.asid (bytesNat (e.take 8)) 64

/-- The image of a catalogue entry, read through the partition's pages. -/
def readImage (s : State) (p : Partition) (routine : Nat) : Option (List Byte) :=
  match hwGet s p.asid (p.catbase + 16 * routine) 16 with
  | none => none
  | some e =>
    let image := bytesNat (e.take 8)
    let len := bytesNat ((e.drop 8).take 4)
    (hwRead ((len + 63) / 64) s p.asid image).map (fun bs => bs.take len)

/-- What fetching a routine gives. -/
inductive Fetch where
  | folio (f : Folio)
  | unreadable
  | invalid (x y : Nat)
  deriving DecidableEq, Repr

/-- A routine's folio, checked as FLOAD and the Curator check it (R123, R293, R297). -/
def fetchFolio (s : State) (p : Partition) (routine : Nat) (origin : Option (Nat × Nat)) : Fetch :=
  match readImage s p routine with
  | none => .unreadable
  | some bs =>
    if !(folioHead bs).ok then .invalid 0 0
    else
      let f := folioOf routine bs
      if !tablesOk bs f then .invalid 0 0
      else match f.bad p.catcount origin with
        | some (x, y) => .invalid x y
        | none => .folio f

end Sys2Proof.Machine
end

