-- ==== Sys2Proof/Machine/Operands.lean ====
section
/-! DEFINITION. The operand forms of scalar instructions: .W and 64-bit reads and results, immediates, effective
addresses and branch targets, and the access an instruction makes (R277, R301, R304, R307, R312, R319). -/

namespace Sys2Proof.Machine

/-- The width of an integer form (R304). -/
def formWidth (w : Bool) : Nat := if w then 32 else 64

/-- A source of an integer form: the whole register, or bits 31:0 (R301). -/
def Thread.src (t : Thread) (r : Reg) (w : Bool) : Nat := (t.reg r).toNat % 2 ^ formWidth w

/-- An integer result: a .W result is sign-extended from bit 31 (R301). -/
def extInt (w : Bool) (v : Nat) : Word := if w then ofSigned (signed 32 v) else BitVec.ofNat 64 v

/-- An imm16 that is sign-extended or zero-extended (R277). -/
def simm (imm : BitVec 16) : Word := imm.signExtend 64
def zimm (imm : BitVec 16) : Word := imm.setWidth 64

/-- The effective address of the M format (R312). -/
def Thread.ea (t : Thread) (a : Reg) (imm : BitVec 16) : Word := t.reg a + simm imm

/-- The target of a B- or J-format displacement (R319, R320). -/
def Thread.target (t : Thread) (disp : Word) : Word := t.pc + disp * 4

/-- A loaded value, sign- or zero-extended from `n` bytes (R312). -/
def extLoad (n : Nat) (sgn : Bool) (bs : List Byte) : Word :=
  if sgn then ofSigned (signed (8 * n) (bytesNat bs)) else BitVec.ofNat 64 (bytesNat bs)

/-- The low `n` bytes of a register (R312). -/
def regBytes (n : Nat) (v : Word) : List Byte := natBytes n v.toNat

/-- An integer register form: gd := f n x y (R304). -/
def intRR (d a b : Reg) (w : Bool) (f : Nat → Nat → Nat → Nat) (s : State) : Out :=
  onCur s (fun t => s.setThread (t.retire d (extInt w (f (formWidth w) (t.src a w) (t.src b w)))))

/-- A unary integer form (R304). -/
def intR (d a : Reg) (w : Bool) (f : Nat → Nat → Nat) (s : State) : Out :=
  onCur s (fun t => s.setThread (t.retire d (extInt w (f (formWidth w) (t.src a w)))))

/-- An immediate form: gd := f ga (R307). -/
def intRI (d a : Reg) (f : Word → Word) (s : State) : Out :=
  onCur s (fun t => s.setThread (t.retire d (f (t.reg a))))

/-! ### The access at a pc (R38, R315-R317) -/

/-- The address the access at a thread's pc names, and whether it writes. -/
def pcAccess (t : Thread) (i : Instr) : Option (Nat × Bool) :=
  match i with
  | .ldb _ a m | .ldbu _ a m | .ldh _ a m | .ldhu _ a m | .ldw _ a m | .ldwu _ a m | .ldd _ a m => some ((t.ea a m).toNat, false)
  | .lda _ a _ _ _ => some ((t.reg a).toNat, false)
  | .kld a _ => some ((t.reg a).toNat, false)
  | .stl _ a _ _ => some ((t.reg a).toNat, true)
  | .amoadd _ a _ _ _ | .amoswap _ a _ _ _ | .amocas _ a _ _ _ | .amoand _ a _ _ _ | .amoor _ a _ _ _ | .amoxor _ a _ _ _ =>
    some ((t.reg a).toNat, true)
  | .amomin _ a _ _ _ _ | .amomax _ a _ _ _ _ => some ((t.reg a).toNat, true)
  | _ => none

/-- The instruction at a thread's pc, as a fetch finds it. -/
def pcInstr (s : State) (t : Thread) : Option Instr :=
  match fetch s t with
  | .word _ w => decodeScalar w
  | _ => none

end Sys2Proof.Machine
end

