-- ==== Sys2Proof/Machine/Launch.lean ====
section
/-! DEFINITION. Scopes and their work, task-graph entries, edges, completion records, LAUNCH and LWAIT
(R67-R74, R106, R322). -/

namespace Sys2Proof.Machine

/-! ### Scopes (R106) -/

/-- Whether `id` is `root` or lies below it, `k` parents looked at. -/
def Partition.under (p : Partition) (root : Nat) : Nat → Nat → Bool
  | 0, id => id = root
  | k + 1, id =>
    if id = root then true
    else if id = 0 then false
    else match p.scope? id with | some x => p.under root k x.parent | none => false

/-- `id` lies in the subtree of `root`. -/
def Partition.inSubtree (p : Partition) (root id : Nat) : Bool := p.under root p.scopes.length id

/-- WORK of a scope rises or falls (R106). -/
def Partition.workUp (p : Partition) (id : Nat) : Partition :=
  { p with scopes := updBy (fun x => x.id = id) (fun x => { x with work := x.work + 1 }) p.scopes }

def Partition.workDown (p : Partition) (id : Nat) : Partition :=
  { p with scopes := updBy (fun x => x.id = id) (fun x => { x with work := x.work - 1 }) p.scopes }

/-! ### Event flags (R326) -/

/-- Sets a thread's event flag. -/
def State.setEvent (s : State) (t : ThreadId) : State := s.updThread t (fun u => { u with event := true })

/-- Sets the flag of every thread that acts in a partition and satisfies `c`. -/
def State.setEvents (s : State) (asid : Nat) (c : Thread → Bool) : State :=
  { s with threads := updBy (fun u => u.asid = asid && c u) (fun u => { u with event := true }) s.threads }

/-! ### Task-graph entries (R68, R70, R71) -/

/-- The generation of a slot. -/
def Partition.gen (p : Partition) (slot : Nat) : Nat :=
  match p.gens.find? (fun x => x.1 = slot) with | some (_, g) => g | none => 0

/-- What an edge becomes by its predecessor's outcome; `none` cancels the successor (R71). Policies: 0 hold, 1 run,
2 cancel. -/
def edgeOf (policy status verdict : Nat) : Option Edge :=
  if status = 0 ∧ verdict ≤ 1 then some .satisfied
  else if status = 0 ∨ status = 1 then some .held
  else if policy = 0 then some .held
  else if policy = 1 then some .satisfied
  else none

/-- The edge towards a predecessor as it stands now: evaluated if the predecessor is COMPLETE, satisfied if its ID
is stale (R71), or names a launch that has not been made (DESIGN CHOICE, assumption 136). -/
def Partition.edgeNow (p : Partition) (lid policy : Nat) : Option Edge :=
  match p.launch? lid with
  | none => some .satisfied
  | some e => if e.st = .complete then edgeOf policy e.status e.verdict else some .unsatisfied

/-- The 64 bytes of a completion record (R74). -/
def completionBytes (e : TgEntry) (cycles : Nat) : List Byte :=
  natBytes 4 (lidOf e.gen e.slot) ++ natBytes 1 e.status ++ natBytes 1 e.verdict ++ natBytes 2 0 ++
  natBytes 8 e.flags.toNat ++ natBytes 8 cycles ++ natBytes 4 e.segs ++ natBytes 2 (min 65535 e.rollbacks) ++
  natBytes 2 e.nfault ++ natBytes 2 e.fcode ++ (List.range 4).map (fun i => BitVec.ofNat 8 (e.fwhere.getD i 0)) ++
  natBytes 2 0 ++ natBytes 8 e.faddr ++ natBytes 8 e.frec ++ natBytes 8 0

/-- Writes an entry's completion record with a release at PACKAGE scope; CREC_FAULT when the write faults; the
creating thread's event flag is set (R73, R74, R326, R335). -/
def writeCompletion (s : State) (asid : Nat) (e : TgEntry) (cycles : Nat) : State :=
  let s1 := match recPut s asid e.crec (completionBytes e cycles) with
    | some s' => s'
    | none => postSupervisor s asid 41 (BitVec.ofNat 64 (lidOf e.gen e.slot)) false
  match e.creator with
  | some t => s1.setEvent t
  | none => s1

/-- An entry joins the tail of the ready queue of its priority (R75). -/
def Partition.enqueue (p : Partition) (slot now : Nat) : Partition :=
  { (p.updTask slot (fun e =>
      { e with st := .ready, level := e.prio, qseq := p.qseq, readyAt := now, joined := now, was := none, blockedAt := none
               capped := false })) with qseq := p.qseq + 1 }

/-- The entry goes to the state its edges give it (R70). -/
def Partition.settle (p : Partition) (slot now : Nat) : Partition :=
  match p.task? slot with
  | none => p
  | some e =>
    if e.st ≠ .pending ∧ e.st ≠ .held then p
    else if e.preds.any (fun x => x.edge = .held) then p.updTask slot (fun e => { e with st := .held })
    else if e.preds.any (fun x => x.edge = .unsatisfied) then p.updTask slot (fun e => { e with st := .pending })
    else p.enqueue slot now

/-- The successors' edges towards a launch are evaluated; the slots that are to be cancelled come back (R71). -/
def Partition.evaluate (p : Partition) (lid status verdict now : Nat) : Partition × List Nat :=
  let hit (e : TgEntry) : Bool := (e.st = .pending || e.st = .held) &&
    e.preds.any (fun x => x.lid = lid && x.edge = .unsatisfied)
  let slots := (p.tasks.filter hit).map (fun e => e.slot)
  let doomed := (p.tasks.filter (fun e => hit e && e.preds.any (fun x => x.lid = lid && x.edge = .unsatisfied &&
    (edgeOf x.policy status verdict).isNone))).map (fun e => e.slot)
  let p1 := { p with
    tasks := updBy hit (fun e =>
      { e with preds := updBy (fun x => x.lid = lid && x.edge = .unsatisfied)
                (fun x => { x with edge := (edgeOf x.policy status verdict).getD .unsatisfied }) e.preds }) p.tasks }
  (slots.foldl (fun q k => if doomed.contains k then q else q.settle k now) p1, doomed)

/-- An entry becomes COMPLETE: its record is written, its scope's WORK falls, and its successors' edges are
evaluated, those that cancel completing in turn, and the partition is not silent (R102); one that is COMPLETE already stays as it is; `k` bounds the chain (R70,
R71, R73). -/
def completeEntry : Nat → State → Nat → Nat → State
  | 0, s, _, _ => s
  | k + 1, s, asid, slot =>
    match (partOf s asid).bind (fun p => p.task? slot) with
    | none => s
    | some e =>
      if e.st = .complete then s else
      let cycles := if e.st = .running then s.cycle - e.startCycle else 0
      let s1 := writeCompletion (stir s asid) asid e cycles
      let s2 := s1.updPart asid (fun p => (p.updTask slot (fun x => { x with st := .complete })).workDown e.scope)
      match partOf s2 asid with
      | none => s2
      | some p =>
        let (p', doomed) := p.evaluate (lidOf e.gen slot) e.status e.verdict s2.cycle
        doomed.foldl (fun st j =>
          completeEntry k (st.updTask asid j (fun x => { x with status := 2, verdict := 0 })) asid j) (s2.setPart p')

/-- An entry that is cancelled before it runs (R70, R108). -/
def cancelEntry (s : State) (asid slot : Nat) : State :=
  completeEntry 4097 (s.updTask asid slot (fun e => { e with status := 2, verdict := 0 })) asid slot

/-! ### LAUNCH and LWAIT -/

/-- Reads `n` doublewords for a thread. -/
def readWords (t : Thread) : Nat → State → Nat → Acc (List Byte)
  | 0, s, _ => .ok s []
  | n + 1, s, va =>
    ((threadXl s t va (Need.load (t.mode = .user))).bind (fun s1 (x, lv) => threadRead s1 t x lv 8)).bind
      (fun s2 bs => (readWords t n s2 (va + 8)).bind (fun s3 r => .ok s3 (bs ++ r)))

/-- A thread enters a census wait, which starts the silence of its partition again (R102); a wait it already
stands in goes on. -/
def waitIn (s : State) (t : Thread) (w : Wait) : State :=
  if t.wait = w then s.setThread t else stir (s.setThread { t with wait := w }) t.asid

/-- The fields of a launch record (R67). -/
structure LaunchRec where
  entry : Nat
  arg : Nat
  crec : Nat
  folio : Nat
  scope : Nat
  ctl : Nat
  npred : Nat
  policy : Nat
  preds : List Nat
  rsv : Nat
  deriving DecidableEq, Repr

def launchRec (bs : List Byte) : LaunchRec :=
  let f (o n : Nat) := bytesNat ((bs.drop o).take n)
  { entry := f 0 8, arg := f 8 8, crec := f 16 8, folio := f 24 1, rsv := f 25 1, scope := f 26 2, ctl := f 28 1,
    npred := f 29 1, policy := f 30 2, preds := (List.range 8).map (fun i => f (32 + 4 * i) 4) }

/-- A completion record can be written at an address of the partition (R67). -/
def crecWritable (s : State) (asid va : Nat) : Bool :=
  match unitXl s asid va (Need.store false) with | .ok _ _ => true | _ => false

/-- R67's rules for a record that makes an entry. (DEDUCED, assumption 68.) POLICY bits of predecessors at or beyond NPRED are not
looked at: the spec does not say what they must be (DESIGN CHOICE, assumption 148). -/
def LaunchRec.ok (r : LaunchRec) (s : State) (p : Partition) : Bool :=
  r.entry % 4 = 0 && r.entry < 2 ^ 48 && r.crec % 64 = 0 && r.crec < 2 ^ 48 && crecWritable s p.asid r.crec && r.folio < p.catcount && r.rsv = 0 && r.ctl < 64 &&
  !(bitsOf r.ctl 3 1 = 1 && bitsOf r.ctl 4 1 = 1) && r.npred ≤ 8 &&
  (List.range 8).all (fun i =>
    if i < r.npred then bitsOf r.policy (2 * i) 2 ≠ 3 && r.preds.getD i 0 < 2 ^ 28 else r.preds.getD i 0 = 0) &&
  p.scopeExists r.scope

/-- The lowest slot that holds no entry (R68). -/
def Partition.freeSlot (p : Partition) : Nat → Nat → Option Nat
  | 0, _ => none
  | k + 1, i => if (p.task? i).isSome then p.freeSlot k (i + 1) else some i

/-- The state code LAUNCH returns (R322). -/
def TgState.code : TgState → Nat
  | .pending => 0
  | .held => 1
  | .ready => 2
  | .running => 3
  | .complete => 4

/-- A fresh entry for a record (R67, R70). -/
def newEntry (r : LaunchRec) (slot gen : Nat) (who : Option ThreadId) (edges : List Edge) : TgEntry :=
  { slot := slot, gen := gen, st := .pending, entry := r.entry, arg := BitVec.ofNat 64 r.arg, crec := r.crec,
    folio := r.folio, scope := r.scope, prio := r.ctl % 8, record := bitsOf r.ctl 3 1 = 1,
    replay := bitsOf r.ctl 4 1 = 1,
    preds := (List.range r.npred).map (fun i =>
      { lid := r.preds.getD i 0, policy := bitsOf r.policy (2 * i) 2, edge := edges.getD i .unsatisfied }),
    creator := who, place := none, startCycle := 0, level := r.ctl % 8, qseq := 0, readyAt := 0, joined := 0, was := none, blockedAt := none, capped := false,
    threadDone := false, killed := false, status := 0, verdict := 0, flags := 0, segs := 0, rollbacks := 0, nfault := 0,
    fcode := 0, fwhere := [], faddr := 0, frec := 0 }

/-- Creates the entry of a record; an edge that cancels completes it at once as CANCELLED (R70, R71). -/
def createEntry (s : State) (asid : Nat) (p : Partition) (r : LaunchRec) (slot : Nat) (who : Option ThreadId) : State :=
  let edges := (List.range r.npred).map (fun i => p.edgeNow (r.preds.getD i 0) (bitsOf r.policy (2 * i) 2))
  let e := newEntry r slot (p.gen slot) who (edges.map (fun x => x.getD .unsatisfied))
  let p1 := ({ p with tasks := p.tasks ++ [e] }).workUp r.scope
  let s1 := stir (s.setPart p1) asid
  if edges.any Option.isNone then cancelEntry s1 asid slot
  else s1.updPart asid (fun q => q.settle slot s1.cycle)

/-- The release form: every held edge of the named launch becomes satisfied (R72). The status. -/
def releaseHeld (s : State) (asid : Nat) (p : Partition) (lid : Nat) : State × Nat :=
  match p.launch? lid with
  | none => (s, 5)
  | some e =>
    if e.st ≠ .held then (s, 5)
    else
      let p1 := p.updTask e.slot (fun x =>
        { x with preds := updBy (fun y => y.edge = .held) (fun y => { y with edge := .satisfied }) x.preds })
      (stir (s.setPart (p1.settle e.slot s.cycle)) asid, 0)

/-- The state entered, as LAUNCH reports it. -/
def stateCode (s : State) (asid lid : Nat) : Nat :=
  match (partOf s asid).bind (fun p => p.launch? lid) with
  | some e => e.st.code
  | none => 0

/-- What LAUNCH does with a record's bytes: the state, the status of R69 and the launch ID. (DEDUCED, assumption 67.) -/
def launchWith (s : State) (asid : Nat) (who : Option ThreadId) (bytes : Option (List Byte)) : State × Nat × Nat :=
  match partOf s asid with
  | none => (s, 4, 0)
  | some p =>
    if p.st = .stored ∨ p.st = .drained then (s, 4, 0)
    else match bytes with
      | none => (s, 3, 0)
      | some bs =>
        let r := launchRec bs
        if bitsOf r.ctl 5 1 = 1 then
          let lid := r.preds.getD 0 0
          if lid ≥ 2 ^ 28 then (s, 3, 0)
          else let (s1, c) := releaseHeld s asid p lid; (s1, c, lid)
        else if !r.ok s p then (s, 3, 0)
        else if p.scopeCancelled r.scope then (s, 2, 0)
        else match p.freeSlot 4096 0 with
          | none => (s, 1, 0)
          | some slot => (createEntry s asid p r slot who, 0, lidOf (p.gen slot) slot)

/-- LAUNCH ends with what `launchWith` gives (R322). -/
def launchDone (d : Reg) (t : Thread) (s : State) (bytes : Option (List Byte)) : State :=
  let (s1, c, lid) := launchWith s t.asid (some t.id) bytes
  s1.updThread t.id (fun u =>
    u.reportPair d 0x2E 0 c (BitVec.ofNat 64 lid) (BitVec.ofNat 64 (stateCode s1 t.asid lid)))

/-- LAUNCH, a release at PACKAGE scope; a record that is misaligned or unreadable gives BADREC (R69, R322). -/
def execLaunch (d a : Reg) (s : State) : Out :=
  onCur s (fun t0 => syncPoint s t0 (fun s0 t =>
    let va := (t.reg a).toNat
    if va % 8 ≠ 0 then launchDone d t s0 none
    else match readWords t 8 s0 va with
      | .wait => s0
      | .fault s1 _ _ _ => launchDone d t s1 none
      | .ok s1 bs => launchDone d t s1 (some bs)))

/-- LWAIT: STATUS + 256·VERDICT of a COMPLETE launch, which it reaps as an acquire at PACKAGE scope; otherwise the
thread waits; STALE when no entry holds the ID (R322). -/
def execLwait (d a : Reg) (s : State) : Out :=
  onCur s (fun t =>
    let lid := (t.reg a).toNat % 2 ^ 32
    if t.wait = .killed then s.setThread (t.report d 0x2E 1 2 0)
    else match (partOf s t.asid).bind (fun p => p.launch? lid) with
    | none => s.setThread (t.report d 0x2E 1 8 0)
    | some e =>
      if e.st = .complete then
        let s1 := (acquireAt s t 3).updPart t.asid (fun p =>
          { p with tasks := p.tasks.filter (fun x => x.slot ≠ e.slot)
                   gens := putBy (fun x => x.1 = e.slot) (e.slot, (e.gen + 1) % 2 ^ 16) p.gens })
        s1.setThread (t.report d 0x2E 1 0 (BitVec.ofNat 64 (e.status + 256 * e.verdict)))
      else waitIn s t (.launch lid))

end Sys2Proof.Machine
end

