-- ==== Sys2Proof/Machine/Place.lean ====
section
/-! DEFINITION. Places: which granules are free (R76, R125), loading a folio into a region or an instance (R78, R114,
R142), and giving it back (R73). -/

namespace Sys2Proof.Machine

/-! ### Occupancy (R10, R76, R117, R125) -/

/-- The site of the die a footprint-relative site of a place falls on (R4). -/
def Place.at_ (p : Place) (x y : Nat) : Nat × Nat := (4 * p.gx + x, 4 * p.gy + y)

/-- The core of a site of a die. -/
def coreOf (x y : Nat) : Nat := 8 * (y / 16) + x / 16

/-- The core that holds a granule of a die. -/
def coreOfGranule (gx gy : Nat) : Nat := 8 * (gy / 4) + gx / 4

/-- A region's or an instance's home core (R76). -/
def Place.core (p : Place) : Nat := coreOfGranule p.gx p.gy

/-- The first folio a place holds. -/
def Place.shape (p : Place) : Option Folio := p.slots.findSome? (fun f => f)

/-- The partition's planes are the active ones. -/
def PState.active : PState → Bool
  | .running | .halting | .halted => true
  | .stored | .drained => false

/-- Tokens of a partition move: it is RUNNING, or its segments run on to their ends (R83). -/
def movesAsid (s : State) (asid : Nat) : Bool :=
  match partOf s asid with | some p => p.st = .running || p.st = .halting | none => false

def activeAsid (s : State) (asid : Nat) : Bool := match partOf s asid with | some p => p.st.active | none => false

/-- The bits of granule (gx, gy) of a die that a place occupies: a launch region every site of its granules, an
instance those its masks name, a stowed one none (R76, R125, R131). -/
def Place.holds (p : Place) (gx gy : Nat) : BitVec 16 :=
  if p.gx ≤ gx ∧ gx < p.gx + p.gw ∧ p.gy ≤ gy ∧ gy < p.gy + p.gh then
    match p.inst, p.shape with
    | none, _ => 0xFFFF
    | some i, some f => if i.st = .stowed then 0 else f.masks.getD ((gy - p.gy) * f.w + (gx - p.gx)) 0
    | some _, none => 0
  else 0

/-- The sites of a granule that a request whose victims are being stowed keeps for itself (R132). -/
def keptFor (s : State) (die gx gy : Nat) : BitVec 16 :=
  (s.parts.filter (fun p => activeAsid s p.asid)).foldl (fun m p => (p.curq.filter (fun r =>
    r.core / 32 = die && r.stowing.isSome && r.frozen ≠ 3)).foldl (fun m r => (r.kept.filter (fun g => g.1 = gx && g.2.1 = gy)).foldl
      (fun m g => m ||| g.2.2) m) m) 0

/-- Occupied bits of a granule. -/
def occupied (s : State) (die gx gy : Nat) : BitVec 16 :=
  (s.places.filter (fun p => p.die = die && activeAsid s p.asid)).foldl (fun m p => m ||| p.holds gx gy) (keptFor s die gx gy)

/-- A site of a core can be fused off: it is a cell or a memory tile (R10); a core's first granule is an A-granule. -/
def canFuse (x y : Nat) : Bool := x < 16 && y < 16 && (siteKind 0 x y = .cell || siteKind 0 x y = .tile)

/-- The fused sites of a core that the identity record can name: two at most (R10). -/
def Ident.fusedIn (d : Ident) (die core : Nat) : List (Nat × Nat) :=
  ((d.fused.filter (fun f => f.1 = die && f.2.1 = core && canFuse f.2.2.1 f.2.2.2)).map (fun f => f.2.2)).take 2

/-- Fused bits of a granule (R10). -/
def fusedBits (s : State) (die gx gy : Nat) : BitVec 16 :=
  ((List.range 32).flatMap (fun c => (s.pkg.ident.fusedIn die c).map (fun f => (die, c, f)))).foldl (fun m f =>
    let x := 16 * (f.2.1 % 8) + f.2.2.1
    let y := 16 * (f.2.1 / 8) + f.2.2.2
    if x / 4 = gx ∧ y / 4 = gy then m ||| (1#16 <<< (4 * (y % 4) + x % 4)) else m) 0

/-- The granules of a footprint at an origin, each with its mask. -/
def Folio.granules (f : Folio) (gx gy : Nat) : List (Nat × Nat × BitVec 16) :=
  (List.range f.h).flatMap (fun j => (List.range f.w).map (fun i => (gx + i, gy + j, f.masks.getD (j * f.w + i) 0)))

/-- The rectangle of a partition on a die, in granules: origin and extent. -/
def Partition.area (p : Partition) (die : Nat) : Option (Nat × Nat × Nat × Nat) :=
  (p.rects.find? (fun r => r.die = die)).map (fun r => (4 * r.col, 4 * r.row, 4 * r.cols, 4 * r.rows))

/-- The footprint at an origin lies in the partition's rectangle and the origin is of the folio's class (R118,
R125). -/
def fits (p : Partition) (die gx gy : Nat) (f : Folio) : Bool :=
  (f.cls = 2 || f.cls = gx % 2) &&
  match p.area die with
  | some (x, y, w, h) => x ≤ gx && gx + f.w ≤ x + w && y ≤ gy && gy + f.h ≤ y + h
  | none => false

/-- A thread that has executed HALT and whose stores have left it is the dispatcher's again (R339). -/
def Thread.idle (t : Thread) : Bool := t.run = .ended && t.stbuf.isEmpty

/-- A launch thread that a control core has idle (R76). -/
def idleThread (s : State) (die core : Nat) : Option Nat :=
  (List.range 4).find? (fun n => !s.threads.any (fun t => t.id = .ctl die core n && !t.idle))

/-- A folio names a fused site where it stands (R10). -/
def fusedUnder (s : State) (f : Folio) (die gx gy : Nat) : Bool :=
  (f.granules gx gy).any (fun g => (g.2.2 &&& fusedBits s die g.1 g.2.1) ≠ 0)

/-- A launch region can stand at an origin of a die that is usable (R17, R59, R76). -/
def regionFree (s : State) (p : Partition) (f : Folio) (die gx gy : Nat) : Bool :=
  s.dieUsable die && fits p die gx gy f &&
  (f.granules gx gy).all (fun g => occupied s die g.1 g.2.1 = 0) && !fusedUnder s f die gx gy &&
  (idleThread s die (coreOfGranule gx gy)).isSome

/-- The first origin where a launch's region is free: dies in ascending order, origins row-major (R76). -/
def findRegion (s : State) (p : Partition) (f : Folio) : Option (Nat × Nat × Nat) :=
  (List.range 8).findSome? (fun d => (List.range 16).findSome? (fun gy => (List.range 32).findSome? (fun gx =>
    if regionFree s p f d gx gy then some (d, gx, gy) else none)))

/-! ### Loading -/

/-- The state an operator starts with. -/
def opStart (op imm : Nat) : OpSt :=
  match op with
  | 0x19 | 0x1B | 0x1C => .gather [] false 0
  | 0x1A => .scale [] 0 0 0
  | 0x1D => .acc (List.replicate 16 0) 0 false
  | 0x30 => .filter [] []
  | 0x31 => .loop [] 0 0 0 0 none false false false false false
  | 0x32 => .count 0 0 false
  | 0x40 | 0x41 | 0x42 | 0x43 | 0x44 => .mem { fired := 0, lane := 0, vals := [], conf := 0, wave := 0, logged := 0 }
  | 0x48 | 0x4A | 0x4B | 0x4C => .tile [] [] [] [] 0 0
  | 0x49 => .tile [] (List.replicate (imm % 4 + 1) ([], false)) [] [] 0 0
  | 0x50 => .mseq true true
  | 0x51 => .matrix [] [] false
  | 0x5B => .segin 0
  | 0x60 | 0x61 => .pitch { toks := [], routine := 0, items := [], calls := [], next := 0 }
  | 0x62 => .line false
  | 0x63 => .strike 0
  | _ => .none

/-- What a router operator starts with (R389). -/
def ropStart (rop : Nat) : OpSt :=
  match rop with
  | 3 => .carry false
  | 4 => .invar none
  | 5 => .ord [] []
  | _ => .none

def freshSite (n : Node) (st : OpSt) (now : Nat) : Site :=
  { node := n, ina := [], inb := [], inc := [], out := [], flags := 0, hdrs := [none, none, none], segOpen := false, segOpenB := false, beats := 0, beatsB := 0, st := st,
    gated := false, waking := none, lastActive := now, frozen := false, snaps := [] }

def freshSlot (n : Node) (slot : Bool) (st : OpSt) : RSlot :=
  { node := n, slot := slot, in0 := [], in1 := [], in2 := [], out := [], st := st, hdrs := [none, none, none], segOpen := false, frozen := false, beats := [0, 0, 0], snaps := [] }

/-- The tokens a port admits in a window of 2^winlg cycles at a rate of `cnt`, cut by the throttle factor (R85). -/
def windowOf (s : State) (cnt winlg : Nat) : Nat :=
  max 1 ((if cnt = 0 then 2 ^ winlg else cnt) * bitsOf s.pkg.pwrstat.toNat 7 5 / 16)

/-- The port's present window still has room for a token: those admitted in it are fewer than the window admits (R85). -/
def Port.mayIn (s : State) (q : Port) : Bool :=
  s.cycle / 2 ^ q.winlg ≠ q.lastIn / 2 ^ q.winlg || q.used < windowOf s q.cnt q.winlg

/-- A token has been admitted: it counts in the window it came in. -/
def Port.tookIn (s : State) (q : Port) : Port :=
  { q with used := (if s.cycle / 2 ^ q.winlg = q.lastIn / 2 ^ q.winlg then q.used else 0) + 1, lastIn := s.cycle }

/-- A port with every pattern slot zero (R85, R329, R350). -/
def freshPort (s : State) (num : Nat) : Port :=
  { num := num, queue := [], running := none, older := [], reqNo := 0, logs := [], slots := [], donecnt := 0, tag := 0, tagi := 0, end_ := 0, segs := 0, cnt := 0,
    winlg := 8, used := 0, lastIn := s.cycle, mkBeats := 0, mkWave := 0, mkAsked := false, saved := [], logSeq := 0, flags := 0, midSeg := false,
    held := false }

/-- The state of a tile's rows or an accumulator put over an operator's start (R142). -/
def OpSt.restore (now left : OpSt) : OpSt :=
  match now, left with
  | .tile _ b f g w r, .tile rows _ _ _ _ _ => .tile rows b f g w r
  | .matrix _ _ _, .matrix a b _ => .matrix a b false
  | x, _ => x

/-- What is left of an operator's state for later work. -/
def OpSt.leaves : OpSt → Option OpSt
  | .tile rows _ _ _ _ _ => some (.tile rows [] [] [] 0 0)
  | .matrix a b _ => some (.matrix a b false)
  | _ => none

/-- What a site of a die was left holding for a partition. (DESIGN CHOICE, assumption 41.) -/
def leftAt (s : State) (asid die x y : Nat) : OpSt :=
  match s.left.find? (fun l => l.asid = asid && l.die = die && l.x = x && l.y = y) with
  | some l => l.st
  | none => .none

/-- The sites of a folio as a place configures them. -/
def sitesOf (s : State) (p : Place) (f : Folio) : List Site :=
  f.cells.map (fun c =>
    let (x, y) := p.at_ c.x c.y
    freshSite { place := p.id, x := c.x, y := c.y }
      ((opStart (opOf c.word) (bitsOf c.word.toNat 0 16)).restore (leftAt s p.asid p.die x y)) s.cycle)

def slotsOf (p : Place) (f : Folio) : List RSlot :=
  (f.routs.filter (fun c => c.word.toNat / 2 ^ 30 = 2)).map (fun c =>
    freshSlot { place := p.id, x := c.x, y := c.y } (bitsOf c.word.toNat 29 1 = 1) (ropStart (bitsOf c.word.toNat 25 4)))

/-- A stowed instance has left its footprint. -/
def Place.away (p : Place) : Bool := match p.inst with | some i => i.st = .stowed | none => false

/-- Tile rows and accumulators of a place are kept for later work of the partition; those of a stowed instance were as it left,
and are no longer in the fabric (R142). -/
def keepLeft (s : State) (p : Place) : State :=
  if p.away then s
  else { s with left := (s.sites.filter (fun x => x.node.place = p.id)).foldl (fun l x =>
      match x.st.leaves with
      | none => l
      | some st =>
        let (u, v) := p.at_ x.node.x x.node.y
        putBy (fun y => y.asid = p.asid && y.die = p.die && y.x = u && y.y = v)
          { asid := p.asid, die := p.die, x := u, y := v, st := st } l) s.left }

/-- The sites and router slots of a place are those of the folio in context `k` (R78, R82). -/
def configure (s : State) (p : Place) (k : Nat) : State :=
  match p.slots.getD k none with
  | none => s
  | some f =>
    let s1 := keepLeft s p
    { s1 with
      sites := s1.sites.filter (fun x => x.node.place ≠ p.id) ++ sitesOf s1 p f
      rslots := s1.rslots.filter (fun x => x.node.place ≠ p.id) ++ slotsOf p f
      segs := s1.segs.filter (fun x => x.node.place ≠ p.id) }

/-- The ports a folio declares that the place does not have yet; every slot of the place's ports is zero after a load (R350), and
a port of the folio counts its segments anew, unless the running context has it (R353). -/
def Place.addPorts (p : Place) (s : State) (f : Folio) : Place :=
  let has (g : Folio) (q : Port) : Bool := g.ports.any (fun d => d.num = q.num)
  let runs (q : Port) : Bool := match p.folio with | some g => has g q | none => false
  let old := p.ports.map (fun q => { q with slots := [], segs := if has f q && !runs q then 0 else q.segs })
  { p with ports := old ++ ((f.ports.map (fun d => d.num)).eraseDups.filter (fun n => !old.any (fun q => q.num = n))).map (freshPort s) }

/-- A warm footprint shares a site with what a place holds. -/
def Warm.meets (w : Warm) (die : Nat) (p : Place) : Bool :=
  w.die = die && (w.folio.granules w.gx w.gy).any (fun g => (g.2.2 &&& p.holds g.1 g.2.1) ≠ 0)

/-- A place for a folio at an origin, its folio in context slot 0; a marker interval sets rollback mode (R78, R119,
R250). -/
def placeFolio (s : State) (asid die gx gy lslot scope : Nat) (f : Folio) (inst : Option Inst) : State × Nat :=
  let id := s.nextPlace
  let p0 : Place :=
    { id := id, asid := asid, die := die, gx := gx, gy := gy, gw := f.w, gh := f.h, lslot := lslot, scope := scope,
      slots := [some f, none, none, none], run := 0, sel := none, chosen := none, sched := none, passc := [0, 0, 0, 0], spare := 0, idle := false, first := none, past := 0, before := 0,
      ready := false, ports := [], unstitched := [], rgport := 0, killed := false, stopped := false, verdict := 0,
      segFault := [], segFlags := [],
      rb := if f.mkint = 0 || inst.isSome then none else some { complete := 0, retries := 0, limit := false, due := false, stuck := false, passed := [], held := [], atoms := [], flags := [], dones := [], copyFault := false }, inst := inst }
  let p := p0.addPorts s f
  let s1 := { s with places := s.places ++ [p], nextPlace := id + 1, warm := s.warm.filter (fun w => !w.meets die p) }
  (configure s1 p 0, id)

/-- A place is gone from the fabric; what its tiles hold stays for later work (R73, R142). -/
def removePlace (s : State) (id : Nat) : State :=
  match s.place? id with
  | none => s
  | some p =>
    let s1 := keepLeft s p
    { s1 with
      places := s1.places.filter (fun x => x.id ≠ id)
      sites := s1.sites.filter (fun x => x.node.place ≠ id)
      rslots := s1.rslots.filter (fun x => x.node.place ≠ id)
      segs := s1.segs.filter (fun x => x.node.place ≠ id)
      reqs := s1.reqs.filter (fun x => x.place ≠ id)
      resps := s1.resps.filter (fun x => x.place ≠ id) }

/-! ### Requests that leave (R143) -/

/-- The requests of a queue, its head first; those frozen by a fault stand in none. -/
def Partition.queueOf (p : Partition) (core : Nat) : List PitchReq := p.curq.filter (fun r => r.core = core && r.frozen = 0)

/-- The wait of a request that has come to head its queue starts (R136). -/
def Partition.newHeads (old p : Partition) (now : Nat) : Partition :=
  let head (q : Partition) (r : PitchReq) : Bool := (q.queueOf r.core).head? = some r
  { p with curq := p.curq.map (fun r => if head p r && !head old r then { r with waitFrom := now } else r) }

/-- Requests are taken from the Curator; one whose stow copies are under way stands in no queue until they have completed
(R143). -/
def Partition.withdraw (p : Partition) (now : Nat) (hit : PitchReq → Bool) : Partition :=
  Partition.newHeads p { p with curq := p.curq.filterMap (fun r =>
      if !hit r then some r else if r.stowing.isSome then some { r with frozen := 3 } else none) } now

/-! ### A core's catalogue cache (R123) -/

def Partition.cached (p : Partition) (die core routine : Nat) : Option Folio :=
  (p.cache.find? (fun e => e.die = die && e.core = core && e.routine = routine)).map (fun e => e.folio)

/-- A hit makes its routine the most recently used. -/
def Partition.touchCache (p : Partition) (die core routine : Nat) : Partition :=
  match p.cache.find? (fun e => e.die = die && e.core = core && e.routine = routine) with
  | some e => { p with cache := p.cache.filter (fun x => x ≠ e) ++ [e] }
  | none => p

/-- The lines that a core's routines take in its cache. -/
def cacheLines (die core : Nat) (l : List CacheEnt) : Nat :=
  ((l.filter (fun e => e.die = die && e.core = core)).map (fun e => e.lines)).foldl (fun a b => a + b) 0

/-- Leaves out least recently used routines of a core, none that is pinned, until `n` more lines fit into sixteen (R123). -/
def makeRoom (pin : CacheEnt → Bool) (die core n : Nat) : Nat → List CacheEnt → List CacheEnt
  | 0, l => l
  | k + 1, l =>
    if cacheLines die core l + n ≤ 16 then l
    else match l.find? (fun e => e.die = die && e.core = core && !pin e) with
      | some v => makeRoom pin die core n k (l.filter (fun e => e ≠ v))
      | none => l

/-- A routine whose image is being loaded into the fabric: for a launch, an instance or an FLOAD (R123). -/
def pinned (s : State) (asid : Nat) (e : CacheEnt) : Bool :=
  s.places.any (fun x => x.asid = asid && x.die = e.die && x.core = e.core && (!x.ready && x.slots.contains (some e.folio) ||
    s.threads.any (fun t => match t.wait with | .fload pl _ r _ _ => pl = x.id && r = e.routine | _ => false)))

/-- An image enters a core's cache, if it fits beside those that are pinned (R123). -/
def Partition.fillCache (p : Partition) (pin : CacheEnt → Bool) (die core routine lines : Nat) (f : Folio) : Partition :=
  let rest := p.cache.filter (fun e => !(e.die = die && e.core = core && e.routine = routine))
  let room := makeRoom pin die core lines 17 rest
  if cacheLines die core room + lines ≤ 16 then
    { p with cache := room ++ [{ die := die, core := core, routine := routine, lines := lines, folio := f }] }
  else p

end Sys2Proof.Machine
end

