-- ==== Sys2Proof/Machine/Fabric.lean ====
section
/-! DEFINITION. Tokens on the fabric: residues and checks (R146-R148, R198-R200), faults of nodes and what they do to
the segment (R152, R248, R432), switch boxes (R153-R155), gating (R173), and how kinds meet at a node's inputs (R151,
R157-R159). -/

namespace Sys2Proof

/-- Container `i` of a payload. -/
def Token.lane (t : Token) (i : Nat) : Nat := bitsOf t.pay.toNat (32 * i) 32

/-- All four bytes of a container are live. -/
def Token.laneLive (t : Token) (i : Nat) : Bool := bitsOf t.mask.toNat (4 * i) 4 = 15

/-- Lane 0 as a decision; a dead lane reads as zero (R388). -/
def Token.decides (t : Token) : Bool := t.laneLive 0 && t.lane 0 ≠ 0

def Kind.framing : Kind → Bool
  | .hdr | .sot | .eot | .mark => true
  | _ => false

def Kind.code : Kind → Nat
  | .data => 0
  | .hdr => 1
  | .sot => 2
  | .eot => 3
  | .mark => 4
  | .ord => 5
  | .done => 6
  | .kill => 7
  | .ctrl => 8
  | .idx => 9
  | .rsvd n => n

end Sys2Proof

namespace Sys2Proof.Machine

/-! ### Tokens (R146, R198) -/

/-- The residues of a payload's sixteen containers, `k` of them from the low end. -/
def residuesOf : Nat → Nat → Nat
  | 0, _ => 0
  | k + 1, n => n % 2 ^ 32 % 3 + 4 * residuesOf k (n / 2 ^ 32)

def residues (pay : Beat) : BitVec 32 := BitVec.ofNat 32 (residuesOf 16 pay.toNat)

/-- A token with correct residues and CHECK. (DESIGN CHOICE, assumption 37.) -/
def mkTok (k : Kind) (pay : Beat) (mask : BitVec 64) (last void : Bool) : Token :=
  { kind := k, pay := pay, mask := mask, res := residues pay, route := 0, last := last, void := void, chk := .good }

/-- A token of a kind with a payload, every byte live. -/
def plainTok (k : Kind) (pay : Nat) : Token := mkTok k (BitVec.ofNat 512 pay) (BitVec.allOnes 64) false false

/-- The token sent on in place of a quarantined one, and the VOID result of operators without a pass-through
(R248, R371). -/
def voidTok (k : Kind) (last : Bool) : Token := mkTok k 0 0 last true

/-- The low 64 bits of the sideband: live bits of bytes 0-7, residues, route and flags; the CHECK byte is not in the
spec and is a free value (R146, assumption 8). -/
def sideLow (s : State) (t : Token) : Word :=
  BitVec.ofNat 64 (t.mask.toNat % 2 ^ 8 * 2 ^ 56 + t.res.toNat * 2 ^ 24 + t.route.toNat * 2 ^ 12 + bit1 t.void * 2 ^ 9 +
    bit1 t.last * 2 ^ 8 + (Config.freeByte s.freeCtr).toNat)

/-! ### The work a place belongs to -/

/-- The launch region an instance works for, or the place itself (R114, R139). -/
def regionOf (s : State) (p : Place) : Place :=
  match p.inst with
  | none => p
  | some _ => (s.places.find? (fun q => q.asid = p.asid && q.lslot = p.lslot && q.inst.isNone)).getD p

/-- The place's scope is cancelled or it has been killed: its faults count for nothing (R108, R227, R257). -/
def placeDead (s : State) (p : Place) : Bool :=
  p.killed || (match partOf s p.asid with | some q => q.scopeCancelled p.scope | none => true)

def State.updSite (s : State) (n : Node) (f : Site → Site) : State :=
  { s with sites := updBy (fun x => x.node = n) f s.sites }

def State.updSlot (s : State) (n : Node) (k : Bool) (f : RSlot → RSlot) : State :=
  { s with rslots := updBy (fun x => x.node = n && x.slot = k) f s.rslots }

/-- A launch's verdict rises (R256). -/
def taint (s : State) (p : Place) (v : Nat) : State :=
  if placeDead s p then s else s.updTask p.asid p.lslot (fun e => { e with verdict := max e.verdict v })

/-- The core of a site of a place. -/
def Place.coreAt (p : Place) (n : Node) : Nat := let (u, v) := p.at_ n.x n.y; coreOf u v

/-- WHERE of a fault at a site of a place (R225). -/
def whereOf (p : Place) (x y : Nat) : List Nat :=
  let (u, v) := p.at_ x y
  [p.die, coreOf u v, u % 16, v % 16]

/-! ### Freezing faults (R224, R226, R432) -/

/-- The trap that announces a record goes to the region's launch thread, or to the partition supervisor once that
thread has halted (R336). -/
def portFault (s : State) (asid lslot code : Nat) (addr : Word) (norec : Bool) : State :=
  match s.threads.find? (fun t => !t.id.isSys && t.asid = asid && t.lslot = lslot && (t.run = .running || t.run = .parked)) with
  | some t => postTrap s t.id { code := code, asid := asid, eval := addr, norec := norec }
  | none => postSupervisor s asid code addr norec

def LateFault.info (f : LateFault) (asid : Nat) : FaultInfo :=
  { code := f.code, sub := f.sub, flags := f.flags, site := f.site, va := f.va, port := f.port, slot := f.slot, tag := f.tag,
    cscope := f.cscope, asid := asid, cnt := f.cnt, elem := f.elem, net := f.net, cls := f.cls, src := f.src,
    msgid := f.msgid, bitmap := f.bitmap, pte := f.pte }

/-- A port, node or copy that has frozen takes a record and PORT_FAULT is raised; with no record free it waits
(R226, R432). (DEDUCED, assumption 43.) -/
def freezeRecord (s : State) (asid : Nat) (f : LateFault) : State :=
  match takeRecord s asid f.owner (f.info asid) with
  | (s1, some (a, nr)) =>
    portFault (s1.updTask asid f.lslot (fun e => e.fault f.code f.site f.va a)) asid f.lslot 40 (BitVec.ofNat 64 a) nr
  | (s1, none) => s1.updPart asid (fun p => { p with lateFaults := p.lateFaults ++ [f] })

/-- A program-class fault at a node (R247, R432): what the record says. -/
def nodeLate (p : Place) (n : Node) (owner : RecOwner) (code flags : Nat) : LateFault :=
  { owner := owner, code := code, sub := 0, flags := flags, site := whereOf p n.x n.y, va := 0, port := 0, slot := 0, tag := 0,
    cscope := p.scope, cnt := [], elem := 0, net := 0, cls := 0, src := 0, msgid := 0, bitmap := 0, pte := 0, lslot := p.lslot }

/-- What a fault at a port says of the network (R37). (DEDUCED, assumption 54.) -/
def NetInfo.put (n : NetInfo) (f : LateFault) : LateFault :=
  { f with net := n.key.net, cls := n.cls, src := n.key.src, msgid := n.key.msgid, bitmap := n.bitmap, flags := f.flags + 2 * bit1 n.timer }

/-- The kinds that head a node's inputs, one more than their codes and 0 where nothing stands, as CNT0-CNT2 of a record give
them (R152; DESIGN CHOICE, assumption 140). -/
def kindsHeld (heads : List (Option Token)) : List Nat :=
  heads.map (fun o => match o with | some t => t.kind.code + 1 | none => 0)

/-- A program-class fault at a node: it is frozen and a record names it and the kinds it held (R152). -/
def nodeFault (s : State) (n : Node) (code : Nat) : State :=
  match s.place? n.place with
  | none => s
  | some p =>
    if placeDead s p then s
    else
      let kinds := match s.site? n with | some x => kindsHeld [x.ina.head?, x.inb.head?, x.inc.head?] | none => []
      freezeRecord (s.updSite n (fun x => { x with frozen := true })) p.asid { nodeLate p n (.node n) code 0 with cnt := kinds }

/-- The same at a router slot. -/
def slotFault (s : State) (n : Node) (k : Bool) (code : Nat) : State :=
  match s.place? n.place with
  | none => s
  | some p =>
    if placeDead s p then s
    else
      let kinds := match s.rslots.find? (fun x => x.node = n && x.slot = k) with
        | some x => kindsHeld [x.in0.head?, x.in1.head?, x.in2.head?]
        | none => []
      freezeRecord (s.updSlot n k (fun x => { x with frozen := true })) p.asid { nodeLate p n (.node n) code 0 with cnt := kinds }

/-! ### Error-class faults (R148, R200, R248, R252, R253) -/

/-- Whether the region rolls back for an error-class fault found now. -/
def willRollBack (s : State) (p : Place) : Bool :=
  match (regionOf s p).rb with
  | some r => !r.limit && r.retries < 2
  | none => false

/-- Writes of a place that slices have acknowledged and the LLC has not (R230, R433). -/
def forwarding (s : State) (p : Place) : Bool :=
  let mine (q : LReq) : Bool := match q.req with | some r => r.place = p.id && (match r.kind with | .write _ => true | _ => false) | none => false
  s.lreqs.any mine || s.llc.any (fun x => x.queue.any mine || x.annex.any mine)

/-- A memory or network fault of the error class that is found beyond R253's retries: the region rolls back no more in this segment,
whose verdict is tainted (R253, R256). -/
def overLimit (s : State) (p : Place) (code sub : Nat) : State :=
  if ((code = 10 && sub = 1) || code = 12) && (regionOf s p).rb.isSome && !willRollBack s p then
    taint (s.updPlace (regionOf s p).id (fun q => { q with rb := q.rb.map (fun b => { b with limit := true }) })) p 2
  else s

/-- A field of a header's payload (R299). -/
def hdrField (t : Token) (lo len : Nat) : Nat := bitsOf t.pay.toNat lo len

/-- The region segment that a fault at a site is part of: its header's number, or else that of the last segment that a port
of the region has begun (R248, R299). (DEDUCED, assumption 156.) -/
def faultSegment (s : State) (r : Place) (n : Node) : Nat :=
  match (s.sites.find? (fun x => x.node = n)).bind (fun x => x.hdrs.findSome? (fun h => h)) with
  | some h => hdrField h 160 32
  | none => (r.ports.foldl (fun a q => max a q.segs.toNat) 0) - 1

/-- An error-class fault: a rollback falls due, or the segment is tainted, the fault counts, and the region segment's
first writes a record (R248, R253). -/
def errorFault (s : State) (p : Place) (n : Node) (code : Nat) (pte : Word) : State :=
  if placeDead s p then s
  else
    let r := regionOf s p
    if willRollBack s p then s.updPlace r.id (fun q => { q with rb := q.rb.map (fun b => { b with due := true }) })
    else
      let s0 := s.updPlace r.id (fun q => { q with rb := q.rb.map (fun b => { b with limit := true }) })
      let s1 := taint s0 p 2
      let seg := faultSegment s r n
      if r.segFault.contains seg then s1.updTask p.asid p.lslot (fun e => { e with nfault := min 65535 (e.nfault + 1) })
      else
        let f : LateFault := { nodeLate p n .scalar code 0 with pte := pte }
        let s2 := s1.updPlace r.id (fun q => { q with segFault := seg :: q.segFault })
        let (s3, a) := takeRecord s2 p.asid .scalar (f.info p.asid)
        let s4 := { s3 with freeCtr := s3.freeCtr + 1 }
        s4.updTask p.asid p.lslot (fun e => e.fault code f.site 0 (match a with | some (k, _) => k | none => 0))

/-- What a box or a consumer finds of a token's code and residues (R148, R200): the code of the error, if any. -/
def tokenError (t : Token) (consumer : Bool) : Option Nat :=
  if t.chk = .double then some 2
  else if consumer && t.res ≠ residues t.pay then some 7
  else none

/-- A token as the place that checks it goes on with it: a single-bit error is corrected, an error substituted unless
the region rolls back (R148, R248). -/
def inspect (s : State) (p : Place) (n : Node) (t : Token) (consumer : Bool) : State × Token :=
  match tokenError t consumer with
  | some code => (errorFault s p n code (sideLow s t), { voidTok t.kind t.last with route := t.route })
  | none => if t.chk = .single then (taint s p 1, { t with chk := .good }) else (s, t)

/-- Whether the place is about to roll back. -/
def rollDue (s : State) (p : Place) : Bool :=
  match (regionOf s p).rb with | some r => r.due | none => false

/-- A copy of a tile row has frozen the region a place works for (R251). -/
def copyStuck (s : State) (p : Place) : Bool :=
  match (regionOf s p).rb with | some r => r.copyFault | none => false

/-- Tokens move in a place: its die is usable and its sites are powered, it is not killed, no rollback is due, no copy has frozen it and
its partition is not halted (R79, R83, R251, R252). -/
def placeMoves (s : State) (p : Place) : Bool :=
  p.ready && s.dieUsable p.die && !p.killed && !rollDue s p && !copyStuck s p && movesAsid s p.asid && (match p.inst with | some i => i.st = .awake | none => true)

/-! ### Switch boxes (R154, R155) -/

/-- Where a token can go from a box. -/
inductive Branch where
  | seg (out route : Nat)
  | site (i : Nat)
  | router (slot : Bool) (i : Nat)
  deriving DecidableEq, Repr

/-- Everything that takes the source `code` at a box. -/
def Folio.branches (f : Folio) (x y code : Nat) : List Branch :=
  ((f.switches x y).filter (fun w => w.2.1 = code)).map (fun w => .seg w.1 w.2.2) ++
  (match f.cell? x y with
   | some w => if f.isCopy x y then [] else (List.range 3).filterMap (fun i => if (cellSels w).getD i 0 = code then some (.site i) else none)
   | none => []) ++
  (f.routers x y).flatMap (fun r =>
    let ins := [r.2.2.1, r.2.2.2.1, r.2.2.2.2]
    (List.range 3).filterMap (fun i => if ins.getD i 0 = code then some (.router (r.1 = 1) i) else none))

def Site.input (x : Site) (i : Nat) : List Token := if i = 0 then x.ina else if i = 1 then x.inb else x.inc

def Site.setInput (x : Site) (i : Nat) (l : List Token) : Site :=
  if i = 0 then { x with ina := l } else if i = 1 then { x with inb := l } else { x with inc := l }

def RSlot.input (x : RSlot) (i : Nat) : List Token := if i = 0 then x.in0 else if i = 1 then x.in1 else x.in2

def RSlot.setInput (x : RSlot) (i : Nat) (l : List Token) : RSlot :=
  if i = 0 then { x with in0 := l } else if i = 1 then { x with in1 := l } else { x with in2 := l }

def segAt (s : State) (n : Node) (code : Nat) : Option Seg := s.segs.find? (fun g => g.node = n && g.code = code)

/-! ### Tokens between cores (R23, R38, R47, R116, R138) -/

/-- The bytes of a token as a message carries them; the arrangement is the model's own (DESIGN CHOICE, assumption 13). -/
def tokBytes (t : Token) : List Byte :=
  natBytes 64 t.pay.toNat ++ natBytes 8 t.mask.toNat ++ natBytes 4 t.res.toNat ++ natBytes 2 t.route.toNat ++
    [BitVec.ofNat 8 (t.kind.code + 16 * bit1 t.last + 32 * bit1 t.void)]

/-- The port that sends on a seam or a guy line. -/
def lineNode : Agent → Option Node
  | .seam n _ _ => some n
  | .guy n _ _ _ => some n
  | _ => none

/-- The site that takes the tokens of a guy line: the ARGP of an argument line, the PITCH of a result line (R137). -/
def guySink (s : State) (asid route : Nat) : Option (Place × Node) :=
  s.places.findSome? (fun p =>
    match p.inst with
    | none => none
    | some i =>
      if p.asid ≠ asid then none
      else if i.results.contains route then (s.place? i.caller.place).map (fun q => (q, i.caller))
      else if !i.args.contains route then none
      else
        let k := i.args.findIdx (fun a => a = route)
        match p.folio.bind (fun f => f.cells.find? (fun c => c.word.extractLsb' 56 8 = 0x62#8 && bitsOf c.word.toNat 0 3 = k)) with
        | some c => some (p, { place := p.id, x := c.x, y := c.y })
        | none => some (p, { place := p.id, x := 0, y := 0 }))

/-- The endpoints of a line that leaves its core; nothing for one within a core, which is a circuit. -/
def lineEnds (s : State) (a : Agent) : Option (BitVec 12 × BitVec 12) :=
  match (lineNode a).bind (fun n => (s.place? n.place).map (fun p => (p, n))) with
  | none => none
  | some (p, n) =>
    let to_ : Option (Place × Node) := match a with
      | .seam _ code _ => (farBox code n.x n.y).map (fun q => (p, { n with x := q.1, y := q.2 }))
      | .guy _ asid route _ => guySink s asid route
      | _ => none
    match to_ with
    | none => none
    | some (q, m) =>
      let src := coreEp p.die (p.coreAt n)
      let dst := coreEp q.die (q.coreAt m)
      if src = dst then none else some (src, dst)

/-- A token goes to the far side of a line as a message, which its port keeps until it is acknowledged (R38). -/
def sendToken (s : State) (a : Agent) (seq : Nat) (c : Cargo) (body : List Byte) : State :=
  match lineEnds s a with
  | none => s
  | some (src, dst) =>
    let kept := (a, seq, body) :: s.net.kept.filter (fun x => x.1 ≠ a)
    sendMessage (s.updNet (fun w => { w with kept := kept })) (packageMsg src dst .request seq body a) c

/-- A seam that is unstitched holds a token that would cross it (R116). -/
def seamHolds (p : Place) (x y u v : Nat) : Bool :=
  let (a, b) := p.at_ x y
  let (c, d) := p.at_ u v
  let m := coreOf a b
  let k := coreOf c d
  m ≠ k && (p.unstitched.contains (m, k) || p.unstitched.contains (k, m))

/-- A site is clock-gated while it has neither fired nor accepted a token (R173). -/
def Site.asleep (x : Site) (now : Nat) : Bool := x.gated && x.lastActive + 32 ≤ now

/-- A branch can take a token now. (DESIGN CHOICE, assumption 39.) -/
def branchReady (s : State) (p : Place) (n : Node) : Branch → Bool
  | .seg out _ => match farBox out n.x n.y with
    | some (u, v) => (segAt s { n with x := u, y := v } out).isNone && !seamHolds p n.x n.y u v
    | none => false
  | .site i => match s.site? n with
    | some x => (x.input i).isEmpty && !x.asleep s.cycle
    | none => false
  | .router k i => match s.rslot? n k with
    | some x => (x.input i).isEmpty
    | none => false

/-- The token goes down a branch; one that enters from an output takes the route ID (R295), and one that crosses a seam is a
message until its far side has it (R116). -/
def branchPut (s : State) (n : Node) (t : Token) : Branch → State
  | .seg out route => match farBox out n.x n.y with
    | some (u, v) =>
      let far : Node := { n with x := u, y := v }
      let tok := { t with route := BitVec.ofNat 12 route }
      if (lineEnds s (.seam n out 0)).isNone then { s with segs := s.segs ++ [{ node := far, code := out, tok := tok, seq := 0 }] }
      else
        let (no, s1) := takeSerial s
        sendToken { s1 with segs := s1.segs ++ [{ node := far, code := out, tok := tok, seq := no }] } (.seam n out no) no
          (.token (.seam n out no)) (tokBytes tok)
    | none => s
  | .site i => s.updSite n (fun x => { x.setInput i (x.input i ++ [t]) with lastActive := s.cycle })
  | .router k i => s.updSlot n k (fun x => x.setInput i (x.input i ++ [t]))

/-- The token at the end of a segment, once it is there. -/
def segTok (s : State) (n : Node) (code : Nat) : Option Token :=
  match segAt s n code, nearBox code n.x n.y with
  | some g, some (u, v) => if g.seq = 0 || s.arrived (.token (.seam { n with x := u, y := v } code g.seq)) then some g.tok else none
  | _, _ => none

/-- The token a source offers at a box. -/
def sourceTok (s : State) (n : Node) (code : Nat) : Option Token :=
  if isSegCode code then segTok s n code
  else if 0x08 ≤ code ∧ code ≤ 0x0A then
    (s.site? n).bind (fun x => if x.frozen then none else (x.out.find? (fun o => o.1 = code - 8)).map (fun o => o.2))
  else if 0x10 ≤ code ∧ code ≤ 0x13 then
    (s.rslot? n ((code - 0x10) / 2 = 1)).bind (fun x =>
      if x.frozen then none else (x.out.find? (fun o => o.1 = (code - 0x10) % 2)).map (fun o => o.2))
  else none

/-- Takes away the first member that satisfies `p`. -/
def dropFirst {α : Type} (p : α → Bool) : List α → List α
  | [] => []
  | x :: l => if p x then l else x :: dropFirst p l

/-- The source has sent its token. -/
def sourceTake (s : State) (n : Node) (code : Nat) : State :=
  if isSegCode code then { s with segs := dropFirst (fun g => g.node = n && g.code = code) s.segs }
  else if code ≤ 0x0A then s.updSite n (fun x => { x with out := dropFirst (fun o => o.1 = code - 8) x.out })
  else s.updSlot n ((code - 0x10) / 2 = 1) (fun x => { x with out := dropFirst (fun o => o.1 = (code - 0x10) % 2) x.out })

/-- A gated site starts to wake (R173). -/
def wakeSite (s : State) (n : Node) : State :=
  s.updSite n (fun x => if x.asleep s.cycle && x.waking.isNone then { x with waking := some (s.cycle + 2) } else x)

/-- A gated site that a token has reached starts to wake (R173). -/
def startWake (s : State) (n : Node) (bs : List Branch) : State :=
  if bs.any (fun b => match b with | .site _ => true | _ => false) then
    wakeSite s n
  else s

/-- SWITCH_FORWARD: the box checks a token and sends it on every branch once all are ready (R115, R148, R155). -/
def execSwitchForward (n : Node) (src : BitVec 6) (s : State) : Out :=
  let code := src.toNat
  match s.place? n.place, sourceTok s n code with
  | some p, some t =>
    match p.folio with
    | none => .next s
    | some f =>
      if !placeMoves s p then .next s
      else
        let bs := f.branches n.x n.y code
        let s0 := startWake s n bs
        if !isSegCode code && bs.isEmpty then .next s0
        else if !bs.all (branchReady s0 p n) then .next s0
        else
          let (s1, t1) := inspect s0 p n t false
          let astray := isSegCode code && tokenError t false = none &&
            (bs.isEmpty || bs.any (fun b => match b with | .seg _ r => t.route ≠ BitVec.ofNat 12 r | _ => false))
          let (s2, t2) := if astray then (errorFault s1 p n 1 (sideLow s1 t1), voidTok t1.kind t1.last) else (s1, t1)
          if rollDue s2 p then .next s2
          else .next (bs.foldl (fun st b => branchPut st n t2 b) (sourceTake s2 n code))
  | _, _ => .next s

/-! ### Gating (R173) -/

/-- SITE_CLOCK_GATE: a configured site that has neither fired nor accepted a token for 32 cycles, whatever its inputs and
outputs hold; one that wakes already goes on waking (R173). -/
def execSiteClockGate (n : Node) (s : State) : Out :=
  match s.site? n with
  | none => .next s
  | some x =>
    if x.lastActive + 32 ≤ s.cycle && x.waking.isNone then
      .next (s.updSite n (fun y => { y with gated := true }))
    else .next s

/-- SITE_WAKE: two cycles after a token arrived, the site is awake (R173). -/
def execSiteWake (n : Node) (s : State) : Out :=
  match s.site? n with
  | none => .next s
  | some x => match x.waking with
    | some c => if c ≤ s.cycle then .next (s.updSite n (fun y => { y with gated := false, waking := none, lastActive := s.cycle })) else .next s
    | none => .next s

/-! ### Headers (R158, R159, R299) -/

def hdrFmtA (t : Token) : Nat := hdrField t 8 4
def hdrFmtB (t : Token) : Nat := hdrField t 12 4
def hdrScale (t : Token) : Nat := hdrField t 16 3
def hdrRows (t : Token) : Nat := hdrField t 32 16
def hdrCols (t : Token) : Nat := hdrField t 48 16

/-- A field of a header replaced, residues formed anew. -/
def hdrSet (t : Token) (lo len v : Nat) : Token :=
  let n := t.pay.toNat
  let p := BitVec.ofNat 512 (n - bitsOf n lo len * 2 ^ lo + v % 2 ^ len * 2 ^ lo)
  { t with pay := p, res := residues p }

/-- The exponent field of an FP32 encoding is all ones: an infinity or a NaN. -/
def fp32Special (n : Nat) : Bool := bitsOf n 23 8 = 255

/-- A header R299 admits, the conditions of R188 on scale modes, scales and pads among them. -/
def hdrOk (t : Token) : Bool :=
  let n := t.pay.toNat
  let kind := hdrScale t % 4
  let a := hdrFmtA t
  bitsOf n 0 8 = 1 && hdrRows t ≠ 0 && hdrCols t ≠ 0 && a ≤ 10 && hdrFmtB t ≤ 10 && bitsOf n 19 13 = 0 && n / 2 ^ 192 = 0 &&
  (hdrScale t < 4 || kind = 1 || kind = 3) && (kind ≥ 2 || hdrField t 64 32 = 0) && !fp32Special (hdrField t 64 32) &&
  (kind = 0 || a ≤ 5) && (a > 5 || !fp32Special (hdrField t 96 32))

end Sys2Proof.Machine
end

