-- ==== Sys2Proof/Machine/ScalarMem.lean ====
section
/-! DEFINITION. Loads, stores, acquire loads, release stores and atomics of scalar threads (R312-R317). -/

namespace Sys2Proof.Machine

/-! ### Loads and stores (R312-R314) -/

/-- A load of `n` bytes at an address: the checks of R313, then the bytes, those of the store buffer included. -/
def loadAt (n : Nat) (sgn : Bool) (d : Reg) (s : State) (t : Thread) (ea : Word) : State :=
  checked s t ea n Need.load false (fun s1 x lv =>
    match threadRead s1 t x lv n with
    | .wait => s
    | .fault s2 c k p => accessFault s2 t c k p ea.toNat false
    | .ok s2 bs => s2.setThread (t.retire d (extLoad n sgn bs)))

/-- A store of `n` bytes: after the checks it enters the store buffer; a full buffer first performs its oldest
entry (R314). -/
def storeAt (n : Nat) (d : Reg) (s : State) (t : Thread) (ea : Word) : State :=
  checked s t ea n Need.store true (fun s1 x _ =>
    let ent : StoreEnt := { va := ea.toNat, xl := x, bytes := regBytes n (t.reg d) }
    if !x.sram && !stackReady s1 x.pa then accessFault s1 t 10 2 x.pte ea.toNat true
    else match t.stbuf with
      | e :: rest =>
        if t.stbuf.length < 16 then s1.setThread { t.advance with stbuf := t.stbuf ++ [ent] }
        else match performStore s1 t e with
          | none => s
          | some (s2, errs) => s2.setThread { t.advance with stbuf := rest ++ [ent], imp := t.imp ++ errs }
      | [] => s1.setThread { t.advance with stbuf := [ent] })

def loadInstr (n : Nat) (sgn : Bool) (d a : Reg) (imm : BitVec 16) (s : State) : Out :=
  onCur s (fun t => loadAt n sgn d s t (t.ea a imm))

def storeInstr (n : Nat) (d a : Reg) (imm : BitVec 16) (s : State) : Out :=
  onCur s (fun t => storeAt n d s t (t.ea a imm))

def execLdb (d a : Reg) (imm : BitVec 16) (s : State) : Out := loadInstr 1 true d a imm s
def execLdbu (d a : Reg) (imm : BitVec 16) (s : State) : Out := loadInstr 1 false d a imm s
def execLdh (d a : Reg) (imm : BitVec 16) (s : State) : Out := loadInstr 2 true d a imm s
def execLdhu (d a : Reg) (imm : BitVec 16) (s : State) : Out := loadInstr 2 false d a imm s
def execLdw (d a : Reg) (imm : BitVec 16) (s : State) : Out := loadInstr 4 true d a imm s
def execLdwu (d a : Reg) (imm : BitVec 16) (s : State) : Out := loadInstr 4 false d a imm s
def execLdd (d a : Reg) (imm : BitVec 16) (s : State) : Out := loadInstr 8 false d a imm s
def execStb (d a : Reg) (imm : BitVec 16) (s : State) : Out := storeInstr 1 d a imm s
def execSth (d a : Reg) (imm : BitVec 16) (s : State) : Out := storeInstr 2 d a imm s
def execStw (d a : Reg) (imm : BitVec 16) (s : State) : Out := storeInstr 4 d a imm s
def execStd (d a : Reg) (imm : BitVec 16) (s : State) : Out := storeInstr 8 d a imm s

/-! ### Acquire loads and release stores (R315) -/

/-- LDA: imprecise errors first (R314), then the load; at PACKAGE or SYSTEM the SHARE_PKG lines of the die leave
before it (R236). The earlier stores of the thread stay in its buffer. -/
def execLda (d a : Reg) (sc : BitVec 3) (u : Bool) (w : BitVec 2) (s : State) : Out :=
  onCur s (fun t =>
    match t.imp with
    | e :: _ => takeImprecise s t e
    | [] => loadAt (2 ^ w.toNat) (!u) d (acquireAt s t sc.toNat) t (t.reg a))

/-- STL: every earlier access is performed first, then its own write, whose errors are precise (R315). -/
def execStl (a b : Reg) (_sc : BitVec 3) (w : BitVec 2) (s : State) : Out :=
  onCur s (fun t0 =>
    let n := 2 ^ w.toNat
    syncPoint s t0 (fun s0 t =>
      checked s0 t (t.reg a) n Need.store true (fun s1 x _ =>
        match writeBytes s1 t.id.die? x (regBytes n (t.reg b)) with
        | .wait => s0
        | .fault s2 c k p => accessFault s2 t c k p (t.reg a).toNat true
        | .ok s2 () => s2.setThread t.advance)))

/-! ### Atomics (R316, R236) -/

/-- What the operations write, on n-bit values; `none` for an AMOCAS that does not write (R316). -/
inductive AmoOp where
  | add | swap | cas | min | max | and | or | xor
  deriving DecidableEq, Repr

def amoNew (op : AmoOp) (u : Bool) (n old v e : Nat) : Option Nat :=
  let lt := if u then decide (old < v) else decide (signed n old < signed n v)
  match op with
  | .add => some ((old + v) % 2 ^ n)
  | .swap => some v
  | .cas => if old = e then some v else none
  | .min => some (if lt then old else v)
  | .max => some (if lt then v else old)
  | .and => some (old &&& v)
  | .or => some (old ||| v)
  | .xor => some (old ^^^ v)

/-- At PACKAGE or SYSTEM scope the requester's slice first writes the line back if dirty and invalidates it, and
the atomic is performed at the LLC (R236). The die of the access, or none for the LLC. -/
def amoPlace (s : State) (die : Option Nat) (sc : Nat) (x : Xl) : State × Option Nat :=
  match die with
  | none => (s, none)
  | some d =>
    if sc ≥ 3 then (evictNow s d (sliceIndex x.iset x.pa) (x.pa / 128), none) else (s, some d)

/-- The line of the access waits at the slice for a fill or a write-back. -/
def linePending (s : State) (die : Option Nat) (x : Xl) : Bool :=
  match die with
  | none => false
  | some d => (sliceAt s d (sliceIndex x.iset x.pa)).pending (x.pa / 128)

/-- An atomic on an aligned operand: an acquire and a release at its scope, one indivisible step. -/
def amo (op : AmoOp) (d a b : Reg) (sc : BitVec 3) (u w : Bool) (s : State) : Out :=
  onCur s (fun t0 =>
    let n := if w then 8 else 4
    syncPoint s t0 (fun s00 t =>
      let s0 := acquireAt s00 t sc.toNat
      let ea := t.reg a
      checked s0 t ea n Need.atomic true (fun s1 x lv =>
        if linePending s1 t.id.die? x then s00
        else
          let (s2, die) := amoPlace s1 t.id.die? sc.toNat x
          match threadBytes s2 t die lv x n with
          | .wait => s00
          | .fault s3 c k p => accessFault s3 t c k p ea.toNat true
          | .ok s3 bs =>
            let old := bytesNat bs
            let res := extLoad n (!u) bs
            match amoNew op u (8 * n) old ((t.reg b).toNat % 2 ^ (8 * n)) ((t.reg d).toNat % 2 ^ (8 * n)) with
            | none => s3.setThread (t.retire d res)
            | some v =>
              match writeBytes s3 die x (natBytes n v) with
              | .wait => s00
              | .fault s4 c k p => accessFault s4 t c k p ea.toNat true
              | .ok s4 () => s4.setThread (t.retire d res))))

def execAmoadd (d a b : Reg) (sc : BitVec 3) (w : Bool) (s : State) : Out := amo .add d a b sc false w s
def execAmoswap (d a b : Reg) (sc : BitVec 3) (w : Bool) (s : State) : Out := amo .swap d a b sc false w s
def execAmocas (d a b : Reg) (sc : BitVec 3) (w : Bool) (s : State) : Out := amo .cas d a b sc false w s
def execAmomin (d a b : Reg) (sc : BitVec 3) (u w : Bool) (s : State) : Out := amo .min d a b sc u w s
def execAmomax (d a b : Reg) (sc : BitVec 3) (u w : Bool) (s : State) : Out := amo .max d a b sc u w s
def execAmoand (d a b : Reg) (sc : BitVec 3) (w : Bool) (s : State) : Out := amo .and d a b sc false w s
def execAmoor (d a b : Reg) (sc : BitVec 3) (w : Bool) (s : State) : Out := amo .or d a b sc false w s
def execAmoxor (d a b : Reg) (sc : BitVec 3) (w : Bool) (s : State) : Out := amo .xor d a b sc false w s

end Sys2Proof.Machine
end

