-- ==== Sys2Proof/Machine/Access.lean ====
section
/-! DEFINITION. Accesses of a region's ports and memory nodes: translation and slices (R203-R210), faults (R224, R225,
R247), and the commit buffers of a rollback region (R239, R250, R255). -/

namespace Sys2Proof.Machine

/-- A fabric access runs as a user access of the place's partition, from a die (R208). -/
def fabXl (s : State) (p : Place) (core va : Nat) (nd : Need) : Acc (Xl × Nat) := translate s (some p.die) core p.asid va nd

/-- An access with the cache hint of its command (R209). -/
def Xl.hinted (x : Xl) (hint : Nat) : Xl := { x with cpol := max x.cpol hint }

/-! ### Faults of accesses (R224, R225, R247) -/

/-- An access fault as its record says it. -/
def accessLate (p : Place) (n : Node) (owner : RecOwner) (code sub va : Nat) (pte : Word) (write : Bool) (elem cnt : Nat) : LateFault :=
  { nodeLate p n owner code (bit1 write + 4) with sub := sub, va := tileVa code va, pte := pte, elem := elem, cnt := [cnt] }

/-- An error-class fault that a rollback answers: UNCORRECTABLE or NET_LOSS (R247). -/
def rollsBack (s : State) (p : Place) (code sub : Nat) : Bool := ((code = 10 && sub = 1) || code = 12) && willRollBack s p

def rollNow (s : State) (p : Place) : State :=
  s.updPlace (regionOf s p).id (fun q => { q with rb := q.rb.map (fun b => { b with due := true }) })

/-- A memory node or tile meets an access fault: the region rolls back, or the node freezes with a record. -/
def nodeAccessFault (s : State) (p : Place) (n : Node) (code sub va : Nat) (pte : Word) (write : Bool) (elem cnt : Nat) : State :=
  if placeDead s p then s
  else if rollsBack s p code sub then rollNow s p
  else freezeRecord ((overLimit s p code sub).updSite n (fun x => { x with frozen := true })) p.asid
    (accessLate p n (.node n) code sub va pte write elem cnt)

/-! ### Commit buffers (R239, R250, R255) -/

/-- The rollback state of the region a place works for. -/
def regionRb (s : State) (p : Place) : Option Rollback := (regionOf s p).rb

def State.updRb (s : State) (p : Place) (f : Rollback → Rollback) : State :=
  s.updPlace (regionOf s p).id (fun q => { q with rb := q.rb.map f })

/-- Bytes an output port of the region has in its commit buffer. -/
def Rollback.load (r : Rollback) (node : Option Node) (port : Nat) : Nat :=
  ((r.held.filter (fun h => h.node = node && h.port = port)).map (fun h => h.bytes.length)).foldl (fun a b => a + b) 0

/-- The bytes at a physical address with the uncommitted writes of the region laid over them, in order of entry: a read of the
region is bound to them (R230, R239). -/
def overHeld (pa : Nat) (bs : List Byte) (hs : List Held) : List Byte :=
  hs.foldl (fun l h =>
    ((List.range l.length).zip l).map (fun p =>
      if h.pa ≤ pa + p.1 && pa + p.1 < h.pa + h.bytes.length then h.bytes.getD (pa + p.1 - h.pa) 0 else p.2)) bs

/-- Bytes a place reads; a correctable error gives its launch the verdict corrected (R202, R256). -/
def fabBytes (s : State) (p : Place) (die : Option Nat) (lv : Nat) (x : Xl) (n : Nat) : Acc (List Byte) :=
  (readBytes s die lv x n).bind (fun s1 bs => .ok (if correctedIn s s1 then taint s1 p 1 else s1) bs)

/-- What a read of the region gets: memory, under the region's uncommitted writes. -/
def fabRead (s : State) (p : Place) (core hint va n : Nat) : Acc (List Byte) :=
  (fabXl s p core va (Need.load true)).bind (fun s1 (x, lv) =>
    (fabBytes s1 p (some p.die) lv (x.hinted hint) n).bind (fun s2 bs =>
      .ok s2 (match regionRb s2 p with | some r => overHeld x.pa bs r.held | none => bs)))

/-- A write performed at memory. -/
def fabWrite (s : State) (p : Place) (core hint va : Nat) (bs : List Byte) : Acc Unit :=
  (fabXl s p core va (Need.store true)).bind (fun s1 (x, _) => writeBytes s1 (some p.die) (x.hinted hint) bs)

/-- Every input port of the region is asked for a MARK at its next beat (R255). -/
def askMarks (s : State) (p : Place) : State :=
  s.updPlace (regionOf s p).id (fun q => { q with ports := q.ports.map (fun x => { x with mkAsked := true }) })

/-- An output of the region has passed a MARK, or the EOT (R250). -/
def passMark (s : State) (p : Place) (n : Node) (t : Token) : State :=
  let k := if t.kind = .eot then 2 ^ 32 else t.pay.toNat % 2 ^ 32 + 1
  if t.kind = .mark || t.kind = .eot then s.updRb p (fun b => { b with passed := putBy (fun x => x.1 = n) (n, k) b.passed }) else s

/-- Writes that wait for their commit take the bytes an atomic of the region has put over them: it is ordered behind them (R241). -/
def patchHeld (s : State) (p : Place) (pa : Nat) (bytes : List Byte) : State :=
  let lay (h : Held) : Held :=
    { h with bytes := h.bytes.mapIdx (fun i b => if pa ≤ h.pa + i && h.pa + i < pa + bytes.length then bytes.getD (h.pa + i - pa) 0 else b) }
  s.updRb p (fun b => { b with held := b.held.map lay })

/-- One write of a store node or port in a rollback region enters the commit buffer after its translation; a buffer of
64 KiB that is full makes it wait, and one that a single wave has filled is COMMIT_OVERFLOW, code 15 (R250, R255).
(DESIGN CHOICE, assumption 55.) (DESIGN CHOICE, assumption 79.) -/
def holdWrite (s : State) (p : Place) (core : Nat) (r : Rollback) (h : Held) : Acc Unit :=
  (fabXl s p core h.va (Need.store true)).bind (fun s1 (x, _) =>
    let n := r.load h.node h.port + h.bytes.length
    if n ≤ 65536 then
      let s2 := s1.updRb p (fun b => { b with held := b.held ++ [{ h with pa := x.pa }] })
      .ok (if n ≥ 49152 then askMarks s2 p else s2) ()
    else if (r.held.filter (fun g => g.node = h.node && g.port = h.port)).all (fun g => g.wave = h.wave) then .fault s1 15 0 0
    else .wait)

end Sys2Proof.Machine
end

