-- ==== Sys2Proof/Machine/Deques.lean ====
section
/-! DEFINITION. Deques: push, pop, spill and refill, the extension's registers, and steals (R88-R96). -/

namespace Sys2Proof.Machine

/-- The core whose deque is the thread's own: its core, or the home core for a system core (R96). -/
def ownCore (t : Thread) (p : Partition) : Nat × Nat :=
  match t.id with
  | .ctl d c _ => (d, c)
  | .sys _ => (p.homedie, p.homecore)

def Partition.deque? (p : Partition) (dc : Nat × Nat) : Option Deque :=
  p.deques.find? (fun q => q.die = dc.1 && q.core = dc.2)

/-- A core's deque as it stands at the creation of the partition (R94). -/
def freshDeque (dc : Nat × Nat) : Deque :=
  { die := dc.1, core := dc.2, entries := [], ext := [], dqext := 0, skip := 0,
    lfsr := BitVec.ofNat 16 (0xACE1 ^^^ (dc.2 + 1)), copies := [] }

def Partition.deque (p : Partition) (dc : Nat × Nat) : Deque := (p.deque? dc).getD (freshDeque dc)

def Partition.setDeque (p : Partition) (q : Deque) : Partition :=
  { p with deques := putBy (fun x => x.die = q.die && x.core = q.core) q p.deques }

/-- Entries held in the extension, and on chip: the run that ends at the tail (R88). -/
def Deque.spilled (q : Deque) : Nat := q.ext.length
def Deque.onchip (q : Deque) : Nat := q.entries.length - q.ext.length

/-- The extension's base and its size in entries, zero when absent (R90). -/
def Deque.extBase (q : Deque) : Nat := bitsOf q.dqext.toNat 12 36 * 4096
def Deque.extSize (q : Deque) : Nat := if bitsOf q.dqext.toNat 0 5 = 0 then 0 else 2 ^ bitsOf q.dqext.toNat 0 5

def entryScope (e : Word128) : Nat := (e.extractLsb' 112 16).toNat
def entryNoSteal (e : Word128) : Bool := e.extractLsb' 88 1 = 1

/-- Places of the extension that hold nothing, `k` of them, the lowest first: entry `i` of it lies at BASE + 16·i
(DESIGN CHOICE, assumption 25). -/
def Deque.freePlaces (q : Deque) (k : Nat) : List Nat :=
  ((List.range (q.ext.length + k)).filter (fun i => !q.ext.contains (some i))).take k

/-- An entry written at a place of the extension. -/
def Deque.putExt (q : Deque) (s : State) (asid : Nat) (x : Nat × Word128) : Option State :=
  hwPut s asid (q.extBase + 16 * x.1) (natBytes 16 x.2.toNat)

/-- Moves the 32 oldest on-chip entries to the extension. `none` is DEQUE_FULL (R92). -/
def spill (s : State) (asid : Nat) (q : Deque) : Option (State × Deque) :=
  if q.spilled + 32 > q.extSize then none
  else
    let at_ := q.freePlaces 32
    (at_.zip ((q.entries.drop q.spilled).take 32)).foldlM (fun st x => q.putExt st asid x) s |>.map
      (fun st => (st, { q with ext := q.ext ++ at_.map some }))

/-- When fewer than 32 entries are on chip and the extension holds entries, the youngest 32 of them return (R92). Entries
that cannot be read stay where they are, for that changes no operation's outcome (R88). -/
def refill (s : State) (asid : Nat) (q : Deque) : Deque :=
  let n := min 32 q.spilled
  let back := q.ext.drop (q.spilled - n)
  let reads (x : Option Nat) : Bool := match x with | some i => (hwGet s asid (q.extBase + 16 * i) 16).isSome | none => true
  if q.onchip < 32 && back.all reads then { q with ext := q.ext.take (q.spilled - n) } else q

/-- Entries discarded for a cancelled scope: SKIP counts, saturating (R91, R93). -/
def Deque.skipBy (q : Deque) (n : Nat) : Deque := { q with skip := min (2 ^ 23 - 1) (q.skip + n) }

def Partition.dropWork (p : Partition) (es : List Word128) : Partition := es.foldl (fun q e => q.workDown (entryScope e)) p

/-- DQPUSH (R92, R322): the entry carries the current scope. -/
def execDqpush (d a b : Reg) (s : State) : Out :=
  onCur s (fun t =>
    let rep (s' : State) (c : Nat) : State := s'.setThread (t.report d 0x2E 2 c 0)
    match partOf s t.asid with
    | none => rep s 6
    | some p =>
      if t.scopeFree then rep s 3
      else if p.scopeCancelled t.scope then rep s 2
      else
        let q := p.deque (ownCore t p)
        let e : Word128 := BitVec.ofNat 16 t.scope ++ (t.reg b).extractLsb' 0 48 ++ t.reg a
        let push (s' : State) (q' : Deque) : State :=
          rep (s'.updPart p.asid (fun r =>
            (r.setDeque { q' with entries := q'.entries ++ [e] }).workUp t.scope)) 0
        if q.onchip < 256 then push s q
        else match spill s p.asid q with
          | some (s', q') => push s' q'
          | none => syncTrap s t 36 0 false false t.pc q.dqext)

/-- The cancelled entries at the tail, and the sequence without them. -/
def cutTail (p : Partition) (es : List Word128) : List Word128 × List Word128 :=
  let r := es.reverse
  ((r.takeWhile (fun e => p.scopeCancelled (entryScope e))).reverse,
   (r.dropWhile (fun e => p.scopeCancelled (entryScope e))).reverse)

/-- A deque whose tail has been cut to `es`. -/
def Deque.shrink (q : Deque) (es : List Word128) : Deque := { q with entries := es, ext := q.ext.take es.length }

/-- DQPOP (R93): discards cancelled entries at the tail, then takes the tail. -/
def execDqpop (d : Reg) (s : State) : Out :=
  onCur s (fun t =>
    match partOf s t.asid with
    | none => s.setThread (t.reportEntry d 3 6 0)
    | some p =>
      let q := p.deque (ownCore t p)
      let (gone, live) := cutTail p q.entries
      let taken := live.getLast?
      let q1 := refill s p.asid ((q.shrink live.dropLast).skipBy gone.length)
      let p2 := ((p.setDeque q1).dropWork gone).dropWork taken.toList
      (s.setPart p2).setThread (match taken with
        | some e => t.reportEntry d 3 0 e
        | none => t.reportEntry d 3 1 0))

/-! ### DQEXT and DQSTAT (R90, R91) -/

/-- DQEXT_WRITE: BASE and LGE, LGE held within 8-24 when it is not 0; ignored while the extension holds entries.
(DEDUCED, assumption 73.) -/
def execDqextWrite (asid die core : Nat) (v : Word) (s : State) : Out :=
  match partOf s asid with
  | none => .next s
  | some p =>
    let q := p.deque (die, core)
    if q.spilled ≠ 0 then .next s
    else
      let l := bitsOf v.toNat 0 5
      let l' := if l = 0 then 0 else if l < 8 then 8 else if l > 24 then 24 else l
      .next (s.setPart (p.setDeque { q with dqext := BitVec.ofNat 64 (bitsOf v.toNat 12 36 * 4096 + l') }))

def dqstatWord (q : Deque) : Word := BitVec.ofNat 64 (q.skip * 2 ^ 41 + q.spilled * 2 ^ 16 + q.onchip)

/-! ### Steals (R94, R95) -/

/-- The cores of a partition in ascending die and core order. -/
def Partition.cores (p : Partition) : List (Nat × Nat) :=
  (List.range 8).flatMap (fun d => (List.range 32).filterMap (fun c =>
    if p.rects.any (fun r => r.die = d && r.col ≤ c % 8 && c % 8 < r.col + r.cols && r.row ≤ c / 8 && c / 8 < r.row + r.rows)
    then some (d, c) else none))

/-- One step of the LFSR (R94). -/
def lfsrStep (x : BitVec 16) : BitVec 16 := (x >>> 1) ^^^ (if x.extractLsb' 0 1 = 1 then 0xB400 else 0)

/-- Sends a steal request, a message to the victim's core: the thread waits for the response (R23, R95). -/
def sendSteal (s : State) (t : Thread) (d : Reg) (v : Nat × Nat) : State :=
  let (no, s1) := takeSerial s
  let x : Steal := { no := no, thief := t.id, asid := t.asid, die := v.1, core := v.2, dst := d, answered := false, entry := none
                     acked := false, gone := false, dead := none }
  sendMessage (({ s1 with steals := s1.steals ++ [x] }).setThread { t with wait := .steal })
    (packageMsg (threadEp t.id) (coreEp v.1 v.2) .request no (natBytes 8 t.asid) (.thread t.id)) (.steal no)

/-- DQSTEAL: a named victim, or with 0xFFFF one the core's LFSR chooses (R94, R322). -/
def execDqsteal (d a : Reg) (s : State) : Out :=
  onCur s (fun t =>
    let v := (t.reg a).toNat
    let rep (s' : State) (c : Nat) : State := s'.setThread (t.reportEntry d 4 c 0)
    match partOf s t.asid with
    | none => rep s 6
    | some p =>
      let own := ownCore t p
      if v = 0xFFFF then
        let others := p.cores.filter (fun c => c ≠ own)
        if others.length = 0 then rep s 1
        else
          let q := p.deque own
          let l := lfsrStep q.lfsr
          let s1 := s.setPart (p.setDeque { q with lfsr := l })
          sendSteal s1 t d (others.getD (l.toNat % others.length) own)
      else if v ≥ 2 ^ 11 ∨ bitsOf v 5 3 ≠ 0 then rep s 6
      else
        let c := (v / 256, v % 32)
        if !p.cores.contains c then rep s 6
        else if c = own then rep s 1
        else sendSteal s t d c)

/-- What a steal takes from the head: the cancelled entries it discards, the entry, and what is left; NOSTEAL
entries stay in place (R93). -/
def stealFrom (p : Partition) : List Word128 → List Word128 × Option Word128 × List Word128
  | [] => ([], none, [])
  | e :: l =>
    if p.scopeCancelled (entryScope e) then
      let (g, x, r) := stealFrom p l
      (e :: g, x, r)
    else if entryNoSteal e then
      let (g, x, r) := stealFrom p l
      (g, x, e :: r)
    else ([], some e, l)

/-- Which entries a steal leaves: those it passes over, and those behind the one it takes. -/
def stealKeeps (p : Partition) : List Word128 → List Bool
  | [] => []
  | e :: l =>
    if p.scopeCancelled (entryScope e) then false :: stealKeeps p l
    else if entryNoSteal e then true :: stealKeeps p l
    else false :: l.map (fun _ => true)

/-- The deque after a steal: what it took and discarded is gone, on chip or in the extension (R88, R92). -/
def Deque.afterSteal (s : State) (p : Partition) (q : Deque) (rest : List Word128) : Deque :=
  let ext := ((q.ext.zip (stealKeeps p q.entries)).filter (fun x => x.2)).map (fun x => x.1)
  refill s p.asid { q with entries := rest, ext := ext }

/-- STEAL_REQUEST: the request reaches the victim, which removes the head entry, keeps a copy and answers (R93, R95). -/
def execStealRequest (tid : ThreadId) (s : State) : Out :=
  match s.steals.find? (fun x => x.thief = tid && !x.answered && s.arrived (.steal x.no)) with
  | none => .next s
  | some x =>
    match partOf s x.asid with
    | none => .next s
    | some p =>
      let q := p.deque (x.die, x.core)
      let (gone, e, rest) := stealFrom p q.entries
      let q1 := { (Deque.afterSteal s p q rest).skipBy gone.length with
                    copies := q.copies ++ e.toList.map (fun w => { no := x.no, thief := tid, entry := w, at_ := s.cycle }) }
      let p1 := ((p.setDeque q1).dropWork gone).dropWork e.toList
      let s1 := { s.setPart p1 with
                  steals := updBy (fun y => y.no = x.no) (fun y => { y with answered := true, entry := e }) s.steals }
      .next (sendMessage s1 (packageMsg (coreEp x.die x.core) (threadEp tid) .response x.no
        (natBytes 1 (if e.isSome then 0 else 1) ++ natBytes 16 (e.getD 0).toNat) (if x.gone then .unit else .thread tid)) (.stealBack x.no))

/-- STEAL_RESPONSE: the response reaches the thief, which acknowledges it and whose DQSTEAL returns; a thief that has been killed
loses the entry with it, and one that waits no more drops it (R95, R113). -/
def execStealResponse (tid : ThreadId) (s : State) : Out :=
  match s.steals.find? (fun x => x.thief = tid && x.answered && !x.acked && s.arrived (.stealBack x.no)) with
  | none => .next s
  | some x =>
    if x.gone then .next { s with steals := s.steals.filter (fun y => y.no ≠ x.no) }
    else
      let s1 := { s with steals := updBy (fun y => y.no = x.no) (fun y => { y with acked := true }) s.steals }
      let s2 := sendMessage s1 (packageMsg (threadEp tid) (coreEp x.die x.core) .control x.no (natBytes 4 x.no) .unit) (.stealAck x.no)
      .next (s2.updThread tid (fun u =>
        if u.wait = .steal && x.dead.isNone then
          (match x.entry with | some e => u.reportEntry x.dst 4 0 e | none => u.reportEntry x.dst 4 1 0)
        else u))

/-- STEAL_ACK: the acknowledgement reaches the victim, which frees its copy (R95). -/
def execStealAck (no : Nat) (s : State) : Out :=
  match s.steals.find? (fun x => x.no = no && x.acked && s.arrived (.stealAck no)) with
  | none => .next s
  | some x =>
    .next { s.updPart x.asid (fun p =>
              let q := p.deque (x.die, x.core)
              p.setDeque { q with copies := q.copies.filter (fun c => c.no ≠ no) }) with
            steals := s.steals.filter (fun y => y.no ≠ no) }

/-- A thief's DQSTEAL returns EMPTY. -/
def stealEmpty (s : State) (x : Steal) : State :=
  s.updThread x.thief (fun u => if u.wait = .steal && !x.gone then u.reportEntry x.dst 4 1 0 else u)

/-- The response timer of a thief expires: its DQSTEAL returns EMPTY, and what the victim takes for it, or has taken, ends
by the victim's copy (R95). -/
def stealExpired (s : State) (tid : ThreadId) : State :=
  let open_ := s.steals.filter (fun x => x.thief = tid && !x.acked && !x.gone)
  match (open_.filter (fun x => x.dead.isSome) ++ open_).head? with
  | none => s
  | some x => { (if x.dead.isSome then s else stealEmpty s x) with steals := updBy (fun y => y.no = x.no) (fun y => { y with gone := true }) s.steals }

/-- An entry goes back before the head: on chip where nothing is in the extension and there is room, else into a free place of
the extension; where none can be written it waits for one (R88, R95). -/
def Deque.unsteal (q : Deque) (s : State) (asid : Nat) (e : Word128) : State × Deque :=
  if q.ext.isEmpty && q.onchip < 256 then (s, { q with entries := e :: q.entries })
  else
    let i := (q.freePlaces 1).headD 0
    match (if i < q.extSize then q.putExt s asid (i, e) else none) with
    | some s1 => (s1, { q with entries := e :: q.entries, ext := some i :: q.ext })
    | none => (s, { q with entries := e :: q.entries, ext := none :: q.ext })

/-- A loss notice for a steal's message: a lost request never reaches the victim; the entry of a lost response returns to the
victim's head; the thief's DQSTEAL returns EMPTY (R95). -/
def stealLost (s : State) (no : Nat) : State :=
  match s.steals.find? (fun x => x.no = no && !x.acked) with
  | none => s
  | some x =>
    let s0 := { s with steals := s.steals.filter (fun y => y.no ≠ no) }
    let s1 := if x.dead.isSome then s0 else stealEmpty s0 x
    match partOf s1 x.asid with
    | none => s1
    | some p =>
      let q := p.deque (x.die, x.core)
      match q.copies.find? (fun c => c.no = no) with
      | none => s1
      | some c =>
        let (s2, q1) := { q with copies := q.copies.filter (fun c => c.no ≠ no) }.unsteal s1 p.asid c.entry
        s2.updPart p.asid (fun r => (r.setDeque q1).workUp (entryScope c.entry))

/-- The record of a lost deque entry (R95). -/
def dequeLostInfo (asid die core : Nat) (e : Word128) : FaultInfo :=
  { code := 37, sub := 0, flags := 0, site := [die, core, 0, 0], va := (e.extractLsb' 0 64).toNat, port := 0, slot := 0,
    tag := 0, cscope := entryScope e, asid := asid, cnt := [], elem := 0, net := 0, cls := 0, src := 0, msgid := 0,
    bitmap := 0, pte := e.extractLsb' 64 64 }

/-- STEAL_COPY_TIMEOUT: a copy neither acknowledged nor reported lost within four decode timeouts goes into a fault
record and DEQUE_LOST is raised; without a free record the victim keeps it (R95, R226). -/
def execStealCopyTimeout (no : Nat) (s : State) : Out :=
  match s.parts.findSome? (fun p => p.deques.findSome? (fun q =>
      (q.copies.find? (fun c => c.no = no)).map (fun c => (p.asid, q, c)))) with
  | none => .next s
  | some (asid, q, c) =>
    if s.cycle < c.at_ + 4 * decodeTimeout s (if c.thief.dieCode = q.die then 0 else 1) then .next s
    else match takeRecord s asid .scalar (dequeLostInfo asid q.die q.core c.entry) with
      | (s1, some (a, nr)) =>
        .next (postSupervisor (s1.updPart asid (fun p =>
          let r := p.deque (q.die, q.core)
          p.setDeque { r with copies := r.copies.filter (fun x => x.no ≠ no) })) asid 37 (BitVec.ofNat 64 a) nr)
      | (_, none) => .next s

end Sys2Proof.Machine
end

