-- ==== Sys2Proof/Machine/Crypto.lean ====
section
/-! DEFINITION. The functions R51, R54 and R55 name: SHA-256, and ECDSA over the curve P-256. The spec gives their
names; the functions are those of FIPS 180-4 and FIPS 186-4 (PRESUMED, assumption 7). -/

namespace Sys2Proof.Machine

/-! ### SHA-256 -/

/-- The largest number whose power `e` is at most `v`, found bit by bit from below `2 ^ n`. -/
def rootFloor (e v : Nat) : Nat → Nat → Nat
  | 0, r => r
  | n + 1, r => rootFloor e v n (if (r + 2 ^ n) ^ e ≤ v then r + 2 ^ n else r)

/-- The first 32 bits after the point of the root of degree `e` of `p`. -/
def rootBits (e p : Nat) : BitVec 32 := BitVec.ofNat 32 (rootFloor e (p * 2 ^ (32 * e)) 37 0)

/-- The 64 primes up to 311. -/
def shaPrimes : List Nat :=
  (List.range 312).filter (fun n => decide (2 ≤ n) && (List.range 18).all (fun d => decide (d < 2 ∨ n ≤ d) || n % d != 0))

/-- The constants of the rounds, from the cube roots of the primes. -/
def shaConstants : List (BitVec 32) := shaPrimes.map (rootBits 3)

/-- The working words at the start, from the square roots of the first eight primes. -/
def shaStart : List (BitVec 32) := (shaPrimes.take 8).map (rootBits 2)

/-- The sum without carries of three turns of a word to the right. -/
def turned (i j k : Nat) (x : BitVec 32) : BitVec 32 := x.rotateRight i ^^^ x.rotateRight j ^^^ x.rotateRight k

/-- One round on the eight working words: its constant and its word of the schedule. -/
def shaRound (w : List (BitVec 32)) (key : BitVec 32 × BitVec 32) : List (BitVec 32) :=
  match w with
  | [a, b, c, d, e, f, g, h] =>
    let pick := g ^^^ (e &&& (f ^^^ g))
    let most := (a &&& (b ||| c)) ||| (b &&& c)
    let new := h + turned 6 11 25 e + pick + key.1 + key.2
    [new + turned 2 13 22 a + most, a, b, c, d + new, e, f, g]
  | _ => w

/-- `k` further words of the schedule, the words so far with the latest first. -/
def shaSchedule : Nat → List (BitVec 32) → List (BitVec 32)
  | 0, ws => ws
  | k + 1, ws =>
    let old := ws.getD 14 0
    let late := ws.getD 1 0
    let low := old.rotateRight 7 ^^^ old.rotateRight 18 ^^^ (old >>> 3)
    let high := late.rotateRight 17 ^^^ late.rotateRight 19 ^^^ (late >>> 10)
    shaSchedule k ((high + ws.getD 6 0 + low + ws.getD 15 0) :: ws)

/-- The big-endian number of bytes. -/
def beNat (bs : List Byte) : Nat := bytesNat bs.reverse

/-- `n` bytes of a number, most significant first. -/
def beBytes (n v : Nat) : List Byte := (natBytes n v).reverse

def shaWord (block : List Byte) (i : Nat) : BitVec 32 := BitVec.ofNat 32 (beNat ((block.drop (4 * i)).take 4))

def shaBlock (w : List (BitVec 32)) (block : List Byte) : List (BitVec 32) :=
  let ws := (shaSchedule 48 ((List.range 16).map (shaWord block)).reverse).reverse
  List.zipWith (· + ·) w ((shaConstants.zip ws).foldl shaRound w)

/-- `k` blocks of 64 bytes. -/
def shaBlocks : Nat → List (BitVec 32) → List Byte → List (BitVec 32)
  | 0, s, _ => s
  | k + 1, s, bs => shaBlocks k (shaBlock s (bs.take 64)) (bs.drop 64)

/-- The message with its one bit, zeros and 64-bit length. -/
def shaPad (bs : List Byte) : List Byte :=
  bs ++ 0x80 :: List.replicate ((119 - bs.length % 64) % 64) 0 ++ beBytes 8 (8 * bs.length)

/-- The digest, most significant word first. -/
def sha256 (bs : List Byte) : BitVec 256 :=
  let m := shaPad bs
  BitVec.ofNat 256 ((shaBlocks (m.length / 64) shaStart m).foldl (fun n w => n * 2 ^ 32 + w.toNat) 0)

/-! ### ECDSA over P-256 -/

def p256Prime : Nat := 2 ^ 256 - 2 ^ 224 + 2 ^ 192 + 2 ^ 96 - 1
def p256Order : Nat := 0xFFFFFFFF00000000FFFFFFFFFFFFFFFFBCE6FAADA7179E84F3B9CAC2FC632551
def p256B : Nat := 0x5AC635D8AA3A93E7B3EBBD55769886BC651D06B0CC53B0F63BCE3C3E27D2604B

/-- Powers modulo `m`, `k` bits of the exponent looked at. -/
def powMod (m : Nat) : Nat → Nat → Nat → Nat
  | 0, _, _ => 1 % m
  | k + 1, b, e =>
    let h := powMod m k (b * b % m) (e / 2)
    if e % 2 = 1 then b * h % m else h

/-- The inverse modulo a prime. -/
def invMod (m a : Nat) : Nat := powMod m 256 (a % m) (m - 2)

/-- A point of the curve, nothing for the point at infinity. -/
abbrev EcPoint := Option (Nat × Nat)

def p256G : EcPoint :=
  some (0x6B17D1F2E12C4247F8BCE6E563A440F277037D812DEB33A0F4A13945D898C296,
    0x4FE342E2FE1A7F9B8EE7EB4A7C0F9E162BCE33576B315ECECBB6406837BF51F5)

/-- The point with slope `l` through a point and a second abscissa. -/
def ecLine (l x1 y1 x2 : Nat) : Nat × Nat :=
  let p := p256Prime
  let x := (l * l + 2 * p - x1 - x2) % p
  (x, (l * (x1 + p - x) + p - y1) % p)

def ecAdd (a b : EcPoint) : EcPoint :=
  let p := p256Prime
  match a, b with
  | none, q => q
  | q, none => q
  | some (x1, y1), some (x2, y2) =>
    if x1 = x2 then
      if (y1 + y2) % p = 0 then none
      else some (ecLine ((3 * x1 * x1 + p - 3) * invMod p (2 * y1) % p) x1 y1 x2)
    else some (ecLine ((y2 + p - y1) * invMod p (x2 + p - x1) % p) x1 y1 x2)

/-- `k` bits of a multiple of a point. -/
def ecMul : Nat → Nat → EcPoint → EcPoint
  | 0, _, _ => none
  | k + 1, n, q =>
    let h := ecMul k (n / 2) (ecAdd q q)
    if n % 2 = 1 then ecAdd q h else h

def onCurve (x y : Nat) : Bool :=
  x < p256Prime && y < p256Prime && y * y % p256Prime = (x * x * x + (p256Prime - 3) * x + p256B) % p256Prime

/-- The two 32-byte integers of a public key or a signature (R50). -/
def twoInts (bs : List Byte) : Nat × Nat := (beNat (bs.take 32), beNat ((bs.drop 32).take 32))

/-- Whether a signature of a digest is that of the public point's owner (R51). -/
def ecdsaVerify (key : List Byte) (digest : BitVec 256) (sig : List Byte) : Bool :=
  let (x, y) := twoInts key
  let (r, t) := twoInts sig
  let n := p256Order
  if !onCurve x y || r = 0 || t = 0 || r ≥ n || t ≥ n then false
  else
    let w := invMod n t
    match ecAdd (ecMul 256 (digest.toNat * w % n) p256G) (ecMul 256 (r * w % n) (some (x, y))) with
    | none => false
    | some (u, _) => u % n = r

/-- The signature of a digest under a private key with the nonces a counter gives, the first of `k` that serves. -/
def ecdsaSignFrom (key z : Nat) : Nat → Nat → List Byte
  | 0, _ => List.replicate 64 0
  | k + 1, ctr =>
    let n := p256Order
    let e := 1 + Config.signNonce ctr % (n - 1)
    let r := match ecMul 256 e p256G with | some (x, _) => x % n | none => 0
    let t := invMod n e * (z + r * key) % n
    if r = 0 ∨ t = 0 then ecdsaSignFrom key z k (ctr + 1) else beBytes 32 r ++ beBytes 32 t

/-- The private half of the device identity key, derived from the OTP secret (R54). -/
def identityKey (d : Ident) : Nat := 1 + Config.deriveKey d.secret % (p256Order - 1)

/-- The public half, as SEC 1 encodes it (R50, R54). -/
def identityPublic (d : Ident) : List Byte :=
  match ecMul 256 (identityKey d) p256G with
  | some (x, y) => beBytes 32 x ++ beBytes 32 y
  | none => List.replicate 64 0

/-- The identity key's signature of a digest: 64 bytes, with a nonce that nothing fixes (R55). -/
def identitySign (d : Ident) (digest : BitVec 256) (ctr : Nat) : List Byte :=
  ecdsaSignFrom (identityKey d) digest.toNat 8 ctr

end Sys2Proof.Machine
end

