-- ==== Sys2Proof/Machine/Rings.lean ====
section
/-! DEFINITION. Rings: the control block, the home slice's tables, the four operations for any agent, grants to
waiters, and reinitialisation (R97-R101, R322). -/

namespace Sys2Proof

def RingOp.block : RingOp → Nat
  | .claim b _ _ | .commit b _ _ | .wait b _ _ | .retire b _ _ => b

def RingOp.scope : RingOp → Nat
  | .claim _ _ s | .commit _ _ s | .wait _ _ s | .retire _ _ s => s

def RingOp.isClaim : RingOp → Bool
  | .claim _ _ _ => true
  | _ => false

/-- A count of zero or above the ring's size (R98). -/
def RingOp.badCount (op : RingOp) (lgn : Nat) : Bool :=
  match op with
  | .claim _ n _ | .wait _ n _ => n = 0 || n > 2 ^ lgn
  | _ => false

end Sys2Proof

namespace Sys2Proof.Machine

/-! ### The control block (R97) -/

structure RBlock where
  base : Nat
  lgn : Nat
  oscope : Nat
  pclaim : Nat
  ptail : Nat
  cres : Nat
  chead : Nat
  voids : Nat
  rsv : Bool
  deriving DecidableEq, Repr

def ringBlock (bs : List Byte) : RBlock :=
  let f (o n : Nat) := bytesNat ((bs.drop o).take n)
  { base := f 0 8, lgn := f 8 1, oscope := f 9 1, pclaim := f 16 8, ptail := f 24 8, cres := f 32 8, chead := f 40 8,
    voids := f 48 4, rsv := f 10 6 ≠ 0 || f 52 12 ≠ 0 }

/-- LGN within 4-24, OSCOPE within 0-4 and every reserved byte zero (R97). -/
def RBlock.ok (b : RBlock) : Bool := 4 ≤ b.lgn && b.lgn ≤ 24 && b.oscope ≤ 4 && !b.rsv

/-- The counters as they stand in the block. -/
def RBlock.counters (b : RBlock) : List Byte :=
  natBytes 8 b.pclaim ++ natBytes 8 b.ptail ++ natBytes 8 b.cres ++ natBytes 8 b.chead ++ natBytes 4 b.voids

/-! ### The counters' advance (R98, R99, R101) -/

/-- PTAIL passes contiguous committed or VOID claims. -/
def tailOver (cs : List Claim) : Nat → Nat → Nat
  | 0, p => p
  | k + 1, p => match cs.find? (fun c => c.pos = p && c.st ≠ .opened) with
    | some c => tailOver cs k (p + c.n)
    | none => p

/-- CRES passes VOID claims that start at it. -/
def resOver (cs : List Claim) : Nat → Nat → Nat
  | 0, p => p
  | k + 1, p => match cs.find? (fun c => c.pos = p && c.st = .void) with
    | some c => resOver cs k (p + c.n)
    | none => p

/-- CHEAD passes contiguous retired reservations and VOID claims. -/
def headOver (cs : List Claim) (rs : List Resv) : Nat → Nat → Nat
  | 0, p => p
  | k + 1, p => match rs.find? (fun r => r.pos = p && r.retired), cs.find? (fun c => c.pos = p && c.st = .void) with
    | some r, _ => headOver cs rs k (p + r.n)
    | none, some c => headOver cs rs k (p + c.n)
    | none, none => p

/-- Block and tables with every counter advanced as far as it goes; what CHEAD has passed leaves the tables. -/
def ringAdvance (b : RBlock) (r : Ring) : RBlock × Ring :=
  let k := r.claims.length + r.resvs.length + 1
  let tail := tailOver r.claims k b.ptail
  let res := resOver r.claims k b.cres
  let head := headOver r.claims r.resvs k b.chead
  ({ b with ptail := tail, cres := max res b.cres, chead := head },
   { r with claims := r.claims.filter (fun c => head < c.pos + c.n)
            resvs := r.resvs.filter (fun x => head < x.pos + x.n) })

/-- Committed granules in one run from CRES, up to PTAIL or the next VOID claim (R99). (DESIGN CHOICE, assumption 69.) -/
def runLength (cs : List Claim) : Nat → Nat → Nat
  | 0, _ => 0
  | k + 1, p => match cs.find? (fun c => c.pos ≤ p && p < c.pos + c.n && c.st = .committed) with
    | some c => (c.pos + c.n - p) + runLength cs k (c.pos + c.n)
    | none => 0

/-- The count an RWAIT of `n` is granted, if it is granted (R99). -/
def waitGrant (b : RBlock) (r : Ring) (n : Nat) : Option Nat :=
  let run := min (runLength r.claims (r.claims.length + 1) b.cres) (b.ptail - b.cres)
  if (r.resvs.filter (fun x => !x.retired)).length ≥ 64 then none
  else if run ≥ n then some n
  else if run ≥ 1 && r.claims.any (fun c => c.pos = b.cres + run && c.st = .void) then some run
  else none

/-- Whether an RCLAIM of `n` is granted (R98). -/
def claimGrant (b : RBlock) (r : Ring) (n : Nat) : Bool :=
  b.pclaim + n - b.chead ≤ 2 ^ b.lgn && (r.claims.filter (fun c => c.st = .opened)).length < 64

/-! ### A ring at its home slice -/

def State.setRing (s : State) (r : Ring) : State :=
  { s with rings := putBy (fun x => x.asid = r.asid && x.block = r.block) r s.rings }

/-- The home slice of a block: on the die of the partition's home core, by the block's page (R97, R212). -/
def homeDie (s : State) (asid : Nat) : Nat := match partOf s asid with | some p => p.homedie | none => 0

/-- Registers a block with empty tables at its first ring operation; no slice keeps a copy of its line but the
home slice from then on (R97). -/
def ringOpen (s : State) (asid block : Nat) (x : Xl) : State × Ring :=
  match s.ring? asid block with
  | some r => (s, r)
  | none =>
    let r : Ring := { asid := asid, block := block, pa := x.pa, die := homeDie s asid, iset := x.iset, stored := false,
                      claims := [], resvs := [], waiters := [] }
    let holders := s.slices.filter (fun y => (y.find (x.pa / 128)).isSome)
    let s1 := holders.foldl (fun st y => evictNow st y.die y.idx (x.pa / 128)) s
    (s1.setRing r, r)

/-- The address of a registered block as an access. -/
def Ring.xl (r : Ring) : Xl :=
  { pa := r.pa, cpol := 0, iset := r.iset, share := false, comp := false, pte := 0, sram := false, asid := r.asid, va := r.block }

/-- How an operation ends for the one that issued it. -/
inductive RingRes where
  | granted (p m : Nat)
  | status (code : Nat)
  | waits
  deriving DecidableEq, Repr

/-- Tells the waiting thread of a ring operation its result (R322): RCLAIM gives P; RWAIT gives P and m. A ring
agent's port takes it up at its next step. -/
def tellWaiter (s : State) (w : RWaiter) (res : RingRes) : State :=
  match w.who with
  | .thread t => s.updThread t (fun u =>
      match u.wait with
      | .ring _ claims d =>
        match res with
        | .granted p m =>
          if claims then u.report d 0x2E 5 0 (BitVec.ofNat 64 p)
          else u.reportPair d 0x2E 7 0 (BitVec.ofNat 64 p) (BitVec.ofNat 64 m)
        | .status c => if claims then u.report d 0x2E 5 c 0 else u.reportPair d 0x2E 7 c 0 0
        | .waits => u
      | _ => u)
  | .ring io port =>
    { s with pkg := { s.pkg with
        rports := s.pkg.rports.mapIdx (fun i r => if i = io * 64 + port then
          { r with granted := match res with | .granted p _ => some (p, 0) | .status c => some (0, c) | .waits => none } else r) } }
  | _ => s

/-- A plain store reached the block: every table entry is dropped and every waiter returns REFUSED (R97). -/
def ringReset (s : State) (r : Ring) : State × Ring :=
  let r' := { r with claims := [], resvs := [], waiters := [], stored := false }
  let p := (partOf s r.asid)
  let down (q : Partition) : Partition :=
    ((r.claims.filter (fun c => c.st = .opened)).map (fun c => c.scope) ++
      (r.resvs.filter (fun c => !c.retired)).map (fun c => c.scope)).foldl Partition.workDown q
  let s1 := match p with | some q => s.setPart (down q) | none => s
  (r.waiters.foldl (fun st w => tellWaiter st w (.status 6)) (s1.setRing r'), r')

/-- A ring as a plain store to its block leaves it: nothing reads the tables before they are dropped (R97). -/
def ringFresh (s : State) (asid block : Nat) : State :=
  match s.ring? asid block with
  | some r => if r.stored then (ringReset s r).1 else s
  | none => s

/-- Every ring of a partition as plain stores leave it. -/
def ringsFresh (s : State) (asid : Nat) : State :=
  (s.rings.filter (fun r => r.asid = asid && r.stored)).foldl (fun st r => ringFresh st asid r.block) s

/-- Writes the counters back at the home slice; `none` when the line has to wait there. The ring's own writes are
no plain stores. -/
def ringPut (s : State) (r : Ring) (x : Xl) (b : RBlock) : Option State :=
  match writeBytes s (some r.die) { x with pa := x.pa + 16, iset := r.iset } b.counters with
  | .ok s' () => some (s'.setRing r)
  | _ => none

/-- The granules of a VOID claim hold undefined bytes: each is a free value (R101; DESIGN CHOICE, assumption 17). -/
def freeGranules (asid base lgn : Nat) : Nat → State → Nat → State
  | 0, s, _ => s
  | k + 1, s, pos =>
    let s1 := { s with freeCtr := s.freeCtr + 64 }
    freeGranules asid base lgn k ((hwPut s1 asid (base + 64 * (pos % 2 ^ lgn))
      ((List.range 64).map (fun i => Config.freeByte (s.freeCtr + i)))).getD s1) (pos + 1)

/-- The threads that last named the ring have their event flag set when PTAIL or CHEAD advances (R326). -/
def ringEvents (s : State) (asid block : Nat) (old new : RBlock) : State :=
  if old.ptail = new.ptail ∧ old.chead = new.chead then s
  else s.setEvents asid (fun t => t.lastRing = some block)

/-- One operation on block and tables: the new block and tables and the result (R98). -/
def ringApply (b : RBlock) (r : Ring) (who : Agent) (queued : Bool) (op : RingOp) : RBlock × Ring × RingRes :=
  match op with
  | .claim _ n sc =>
    if n = 0 ∨ n > 2 ^ b.lgn then (b, r, .status 6)
    else if (queued || !r.waiters.any (fun w => w.claims)) && claimGrant b r n then
      ({ b with pclaim := b.pclaim + n },
       { r with claims := r.claims ++ [{ pos := b.pclaim, n := n, st := .opened, scope := sc }] }, .granted b.pclaim n)
    else (b, (if queued then r else
      { r with waiters := r.waiters ++ [{ who := who, claims := true, n := n, scope := sc }] }), .waits)
  | .commit _ p _ =>
    if r.claims.any (fun c => c.pos = p && c.st = .opened) then
      let r1 := { r with claims := updBy (fun c => c.pos = p && c.st = .opened) (fun c => { c with st := .committed }) r.claims }
      let (b2, r2) := ringAdvance b r1
      (b2, r2, .granted p 0)
    else (b, r, .status 6)
  | .wait _ n sc =>
    if n = 0 ∨ n > 2 ^ b.lgn then (b, r, .status 6)
    else
      let (b1, r1) := ringAdvance b r
      match (if queued || !r1.waiters.any (fun w => !w.claims) then waitGrant b1 r1 n else none) with
      | some m =>
        let (b2, r2) := ringAdvance { b1 with cres := b1.cres + m }
          { r1 with resvs := r1.resvs ++ [{ pos := b1.cres, n := m, retired := false, scope := sc }] }
        (b2, r2, .granted b1.cres m)
      | none => (b1, (if queued then r1 else
          { r1 with waiters := r1.waiters ++ [{ who := who, claims := false, n := n, scope := sc }] }), .waits)
  | .retire _ p _ =>
    if r.resvs.any (fun x => x.pos = p && !x.retired) then
      let r1 := { r with resvs := updBy (fun x => x.pos = p && !x.retired) (fun x => { x with retired := true }) r.resvs }
      let (b2, r2) := ringAdvance b r1
      (b2, r2, .granted p 0)
    else (b, r, .status 6)

/-- The scope whose WORK the operation changes, and how (R106): an open claim or reservation counts. -/
def ringWork (p : Partition) (r : Ring) (op : RingOp) : Partition :=
  match op with
  | .claim _ _ sc => p.workUp sc
  | .wait _ _ sc => p.workUp sc
  | .commit _ pos _ => match r.claims.find? (fun c => c.pos = pos && c.st = .opened) with
    | some c => p.workDown c.scope
    | none => p
  | .retire _ pos _ => match r.resvs.find? (fun c => c.pos = pos && !c.retired) with
    | some c => p.workDown c.scope
    | none => p

/-- A ring operation at the home slice, the block's page already translated: the state after it, the result and OSCOPE;
`none` when the block's line has to wait (R97, R98). (DESIGN CHOICE, assumption 117.) -/
def ringAtSlice (s : State) (asid : Nat) (x : Xl) (who : Agent) (op : RingOp) :
    Option (State × RingRes × Nat) :=
  let (s1, r0) := ringOpen (ringFresh s asid op.block) asid op.block x
  match readBytes s1 (some r0.die) 3 { x with iset := r0.iset } 64 with
  | .ok s2 bs =>
    let b := ringBlock bs
    let cancelled := match partOf s2 asid with | some p => p.scopeCancelled op.scope | none => false
    if !b.ok || op.badCount b.lgn then some (s2, .status 6, 0)
    else if op.isClaim && cancelled then some (s2, .status 2, 0)
    else
      let (b', r', res) := ringApply b r0 who false op
      let s3 := match res, partOf s2 asid with
        | .granted _ _, some p => s2.setPart (ringWork p r0 op)
        | _, _ => s2
      match ringPut s3 r' x b' with
      | none => none
      | some s4 => some (ringEvents s4 asid op.block b b', res, b.oscope)
  | _ => none

/-- Grants waiters of one kind in arrival order as long as their condition holds (R98); `k` bounds the round. -/
def grantWaiters : Nat → State → Nat → Nat → Bool → State
  | 0, s, _, _, _ => s
  | k + 1, s, asid, block, claims =>
    match s.ring? asid block with
    | none => s
    | some r =>
      match r.waiters.find? (fun w => w.claims = claims), readBytes s (some r.die) 3
          r.xl 64 with
      | some w, .ok s1 bs =>
        let b := ringBlock bs
        let op : RingOp := if claims then .claim block w.n w.scope else .wait block w.n w.scope
        let (b', r', res) := ringApply b r w.who true op
        match res with
        | .waits => s
        | _ =>
          let r2 := { r' with waiters := r'.waiters.erase w }
          let s2 := match res, partOf s1 asid with
            | .granted _ _, some p => s1.setPart (ringWork p r op)
            | _, _ => s1
          match ringPut s2 r2 r.xl b' with
          | none => s
          | some s3 =>
            let s4 := tellWaiter (ringEvents s3 asid block b b') w res
            let s5 := match w.who with
              | .thread t => match s4.thread? t with
                | some u => if !claims then acquireAt s4 u b.oscope else s4
                | none => s4
              | _ => s4
            grantWaiters k s5 asid block claims
      | _, _ => s

/-- RING_WAIT_GRANT (R98, R99, R323): waiting operations of a ring whose condition holds are granted. -/
def execRingWaitGrant (asid block : Nat) (claims : Bool) (s : State) : Out :=
  .next (grantWaiters 64 (ringFresh s asid block) asid block claims)

/-- RING_REINIT: a plain store to a registered control block reinitialises the ring (R97). -/
def execRingReinit (asid block : Nat) (s : State) : Out := .next (ringFresh s asid block)

/-- The read of the control block itself meets a fault (R56, R322). -/
def ringBlockFaults (s : State) (asid block : Nat) (x : Xl) : Bool :=
  let die := match s.ring? asid block with | some r => r.die | none => homeDie s asid
  match readBytes s (some die) 3 x 64 with
  | .fault _ _ _ _ => true
  | _ => false

/-- RING_OP_AT_SLICE: an operation of any agent reaches the home slice (R98). Translation and permission are those
of the partition's supervisor for an agent that is no thread. -/
def execRingOpAtSlice (asid : Nat) (op : RingOp) (who : Agent) (s : State) : Out :=
  match translate s none 0 asid op.block (Need.atomic false) with
  | .ok s1 (x, _) =>
    if op.block % 64 ≠ 0 then .next s
    else match ringAtSlice s1 asid x who op with
      | none => .next s
      | some (s2, res, _) => .next (tellWaiter s2 { who := who, claims := op.isClaim, n := 0, scope := op.scope } res)
  | _ => .next s

/-! ### The four instructions (R98, R322) -/

/-- The fault the read of the control block itself meets at its home slice (R322, R335). -/
def ringReadFault (s : State) (asid block : Nat) (x : Xl) : Option (State × Nat × Nat × Word) :=
  let die := match s.ring? asid block with | some r => r.die | none => homeDie s asid
  match readBytes s (some die) 3 x 64 with
  | .fault s1 c k p => some (s1, c, k, p)
  | _ => none

/-- A ring instruction: the block's alignment, the current scope, translation with R and W, then the operation;
a fault that the read of the block meets is the instruction's trap (R335). -/
def ringInstr (fn : Nat) (d : Reg) (op : RingOp) (pair : Bool) (s : State) (t0 : Thread) : State :=
  let t := { t0 with lastRing := some op.block }
  let bad (c : Nat) : State :=
    s.setThread (if pair then t.reportPair d 0x2E fn c 0 0 else t.report d 0x2E fn c 0)
  if op.block % 64 ≠ 0 then misaligned s t0 (BitVec.ofNat 64 op.block)
  else match partOf s t.asid with
    | none => bad 6
    | some _ =>
      if t.scopeFree then bad 3
      else match threadXl s t op.block (Need.atomic (t.mode = .user)) with
        | .wait => s
        | .fault s1 c k p => accessFault s1 t0 c k p op.block true
        | .ok s1 (x, _) =>
          match ringAtSlice (s1.setThread t) t.asid x (.thread t.id) op with
          | none => match ringReadFault s1 t.asid op.block x with
            | some (s2, c, k, p) => accessFault s2 t0 c k p op.block true
            | none => s
          | some (s2, .waits, _) =>
            s2.updThread t.id (fun u => { u with wait := .ring op.block op.isClaim d }) |> fun s3 => stir s3 t.asid
          | some (s2, .status c, _) =>
            s2.updThread t.id (fun u => if pair then u.reportPair d 0x2E fn c 0 0 else u.report d 0x2E fn c 0)
          | some (s2, .granted p m, osc) =>
            match op with
            | .claim _ _ _ => s2.updThread t.id (fun u => u.report d 0x2E fn 0 (BitVec.ofNat 64 p))
            | .wait _ _ _ =>
              (acquireAt s2 t osc).updThread t.id (fun u => u.reportPair d 0x2E fn 0 (BitVec.ofNat 64 p) (BitVec.ofNat 64 m))
            | _ => s2.updThread t.id (fun u => u.report d 0x2E fn 0 0)

def execRclaim (d a b : Reg) (s : State) : Out :=
  onCur s (fun t => ringInstr 5 d (.claim (t.reg a).toNat (t.reg b).toNat t.scope) false s t)

/-- RCOMMIT is a release at OSCOPE: the thread's earlier stores are performed first (R100). -/
def execRcommit (d a b : Reg) (s : State) : Out :=
  onCur s (fun t0 => syncPoint s t0 (fun s0 t =>
    ringInstr 6 d (.commit (t.reg a).toNat (t.reg b).toNat t.scope) false s0 t))

/-- An RWAIT grant is an acquire at OSCOPE (R100). -/
def execRwait (d a b : Reg) (s : State) : Out :=
  onCur s (fun t => ringInstr 7 d (.wait (t.reg a).toNat (t.reg b).toNat t.scope) true s t)

def execRretire (d a b : Reg) (s : State) : Out :=
  onCur s (fun t0 => syncPoint s t0 (fun s0 t =>
    ringInstr 8 d (.retire (t.reg a).toNat (t.reg b).toNat t.scope) false s0 t))

end Sys2Proof.Machine
end

