-- ==== Sys2Proof/Machine/Package.lean ====
section
/-! DEFINITION. The package's own steps: network boot (R49-R53), rails, power control and thermal trip (R16-R22),
PCIe (R15), fuses and attestation (R52, R54, R55), ring ports and their agents (R56-R58), bring-up (R59). -/

namespace Sys2Proof.Machine

def State.updPkg (s : State) (f : Pkg → Pkg) : State := { s with pkg := f s.pkg }

/-- A field of a 64-bit register replaced. -/
def putField (w : Word) (lo len v : Nat) : Word :=
  BitVec.ofNat 64 (w.toNat - bitsOf w.toNat lo len * 2 ^ lo + v % 2 ^ len * 2 ^ lo)

/-- Fabric cycles in a second at 1.75 GHz (R9). -/
def cyclesPerSecond : Nat := 1750000000

/-! ### Boot (R49-R53) -/

def bootStage (s : State) : Nat := bitsOf s.pkg.bootstat.toNat 28 4
def bootPort (s : State) : Nat := bitsOf s.pkg.bootstat.toNat 15 1

/-- System core 0 of IO0 is in the ROM. -/
def inRom (s : State) : Bool := match s.thread? (.sys 0) with | some t => t.run = .rom | none => false

def setStage (s : State) (n due : Nat) : State :=
  s.updPkg (fun p => { p with bootstat := putField p.bootstat 28 4 n, boot := { p.boot with due := s.cycle + due } })

/-- Seconds until the retry after the `n`-th failure: 1, 2, 4 and 8 for each port's four, then 60 (R49). -/
def retryDelay (n : Nat) : Nat := if n ≥ 8 then 60 else 2 ^ ((n - 1) % 4)

/-- The port tried after `n` failures: IO0 for the first four, IO1 for the next four, then IO0 (R49).
(DEDUCED, assumption 61.) -/
def retryPort (n : Nat) : Nat := if 4 ≤ n ∧ n < 8 then 1 else 0

/-- An attempt fails with a cause (R49, R53). -/
def bootFail (s : State) (cause : Nat) : State :=
  let n := s.pkg.boot.fails + 1
  s.updPkg (fun p => { p with
    bootstat := putField (putField (putField p.bootstat 28 4 15) 24 4 cause) 16 8
      (min 255 (bitsOf p.bootstat.toNat 16 8 + 1))
    boot := { fails := n, due := s.cycle + retryDelay n * cyclesPerSecond } })

/-- POWER_ON_RESET: the state after reset; fuses stand, the identity key is derived anew from the OTP secret (R54), THERMTRIP bit 0 is left, and the schedule goes
on (R21, R49, R52). -/
def execPowerOnReset (s : State) : Out :=
  .next { State.reset with
    agenda := s.agenda
    freeCtr := s.freeCtr
    pkg := { Pkg.reset with
      ident := { s.pkg.ident with pubkey := identityPublic s.pkg.ident }
      pcieStrap := s.pkg.pcieStrap
      thermtrip := s.pkg.thermtrip &&& 1 } }

/-- ETHERNET_LINK_UP: the port comes up; during boot on that port the ROM sends its DHCP solicitations (R49). -/
def execEthernetLinkUp (io : Nat) (s : State) : Out :=
  let s1 := s.updPkg (fun p => { p with ethUp := p.ethUp.set io true })
  .next (if inRom s ∧ bootStage s = 0 ∧ bootPort s = io then setStage s1 1 (8 * cyclesPerSecond) else s1)

def execBootLinkTimeout (s : State) : Out :=
  .next (if inRom s ∧ bootStage s = 0 ∧ s.pkg.boot.due ≤ s.cycle then bootFail s 1 else s)

/-- BOOT_DHCP_OFFER: the ROM holds an address and starts the fetch; `http` tells a URL of that kind (R49, R53). -/
def execBootDhcpOffer (http : Bool) (s : State) : Out :=
  .next (if inRom s ∧ bootStage s = 1 then
    (setStage s 3 0).updPkg (fun p => { p with bootstat := putField p.bootstat 14 1 (bit1 http) })
    else s)

def execBootDhcpTimeout (s : State) : Out :=
  .next (if inRom s ∧ bootStage s = 1 ∧ s.pkg.boot.due ≤ s.cycle then bootFail s 2 else s)

/-- The header fields of an image (R50). -/
structure ImgHdr where
  magic : Nat
  fmtver : Nat
  keyidx : Nat
  svn : Nat
  rsv : Bool
  load : Nat
  entry : Nat
  len : Nat
  key : List Byte
  sig : List Byte
  deriving DecidableEq, Repr

def imgHdr (img : List Byte) : ImgHdr :=
  let f (o n : Nat) := (img.drop o).take n
  { magic := bytesNat (f 0 4), fmtver := bytesNat (f 4 2), keyidx := bytesNat (f 6 2), svn := bytesNat (f 8 4),
    rsv := bytesNat (f 12 4) ≠ 0 || bytesNat (f 36 28) ≠ 0 || bytesNat (f 192 64) ≠ 0, load := bytesNat (f 16 8),
    entry := bytesNat (f 24 8), len := bytesNat (f 32 4), key := f 64 64, sig := f 128 64 }

/-- R51's first check, over every header field. A file that does not hold the whole body fails here
(DESIGN CHOICE, assumption 26). Bytes of the file beyond the body are not looked at: no check of R51 speaks of them
(DESIGN CHOICE, assumption 26). -/
def ImgHdr.ok (h : ImgHdr) (size : Nat) : Bool :=
  h.magic = 0x4B4E4431 && h.fmtver = 1 && h.keyidx ≤ 3 && !h.rsv && h.load % 4096 = 0 && h.len % 64 = 0 &&
  64 ≤ h.len && h.len ≤ 48 * 2 ^ 20 && h.load + h.len ≤ 2 ^ 26 && h.entry % 4 = 0 && h.entry < h.len &&
  256 + h.len ≤ size

/-- The one bits of a number, `k` looked at. -/
def onesIn : Nat → Nat → Nat
  | 0, _ => 0
  | k + 1, n => n % 2 + onesIn k (n / 2)

/-- The cause of R51's first failing check, 0 when the image may run. -/
def imageCause (d : Ident) (img : List Byte) : Nat :=
  let h := imgHdr img
  if !h.ok img.length then 4
  else if sha256 h.key ≠ d.roothash.getD h.keyidx 0 ∨ bitsOf d.revoke.toNat h.keyidx 1 = 1 then 5
  else
    let digest := sha256 (img.take 128 ++ (img.drop 256).take h.len)
    if !ecdsaVerify h.key digest h.sig then 6
    else if h.svn < onesIn 64 d.svnfuse.toNat then 7
    else 0

/-- The image starts: its body in boot SRAM, system core 0 at LOADADDR + ENTRY in monitor mode, the measurements
kept (R49, R51, R54). -/
def imageStart (s : State) (img : List Byte) : State :=
  let h := imgHdr img
  let s1 := { s with sram := memWrite s.sram h.load ((img.drop 256).take h.len) }
  let s2 := s1.updPkg (fun p => { p with
    bootstat := putField p.bootstat 28 4 5
    fwDigest := sha256 (img.take 128 ++ (img.drop 256).take h.len)
    fwSvn := BitVec.ofNat 32 h.svn })
  s2.updThread (.sys 0) (fun t =>
    { t with run := .running, mode := .monitor, pc := BitVec.ofNat 64 (h.load + h.entry) })

/-- BOOT_IMAGE_FETCHED: a transfer error or a file longer than 48 MiB plus 256 bytes is CAUSE 3; otherwise R51's
checks decide (R49). -/
def execBootImageFetched (ok : Bool) (img : List Byte) (s : State) : Out :=
  .next (if inRom s ∧ bootStage s = 3 then
    if !ok || img.length > 48 * 2 ^ 20 + 256 then bootFail s 3
    else
      let c := imageCause s.pkg.ident img
      if c = 0 then imageStart s img else bootFail s c
    else s)

/-- BOOT_RETRY_TIMER: the delay is over and the next attempt begins (R49). -/
def execBootRetryTimer (s : State) : Out :=
  .next (if inRom s ∧ bootStage s = 15 ∧ s.pkg.boot.due ≤ s.cycle then
    (setStage s 0 (5 * cyclesPerSecond)).updPkg (fun p => { p with
      bootstat := putField p.bootstat 15 1 (retryPort p.boot.fails) })
    else s)

/-! ### Rails, power, thermal trip (R16-R22) -/

/-- The threads, launches and contents of a fabric die that is held in reset are gone, and every partition with a
rectangle on the die faults: its running launches end FAULTED and tainted, and what they hold on any die stops (R17;
DEDUCED, assumption 27). -/
def dieLost (s : State) (die : Nat) : State :=
  let hit (asid : Nat) : Bool := s.parts.any (fun p => p.asid = asid && p.rects.any (fun r => r.die = die))
  let gone (p : Place) : Bool := p.die = die || hit p.asid
  let mine := (s.places.filter gone).map (fun p => p.id)
  let out (n : Node) : Bool := !mine.contains n.place
  let doomed (asid slot : Nat) : Bool := s.places.any (fun p => gone p && p.asid = asid && p.lslot = slot)
  { s with
    sites := s.sites.filter (fun x => out x.node)
    rslots := s.rslots.filter (fun x => out x.node)
    segs := s.segs.filter (fun x => out x.node)
    left := s.left.filter (fun x => x.die ≠ die)
    reqs := s.reqs.filter (fun x => !mine.contains x.place)
    resps := s.resps.filter (fun x => !mine.contains x.place)
    slices := s.slices.filter (fun x => x.die ≠ die)
    walkers := s.walkers.filter (fun x => x.die ≠ die)
    landing := s.landing.filter (fun x => x.die ≠ die)
    places := updBy gone
      (fun p => { p with ports := p.ports.map (fun q => { q with queue := [], running := none, older := [], logs := [] }), stopped := true }) s.places
    threads := updBy (fun t => match t.id with | .ctl d _ _ => d = die || mine.contains t.place | _ => false)
      (fun t => { t with run := .stopped, wait := .none, stbuf := [] }) s.threads
    parts := s.parts.map (fun p => { p with
      curq := p.curq.filter (fun r => r.core / 32 ≠ die && !mine.contains r.node.place)
      parked := updBy (fun t => match t.id with | .ctl d _ _ => d = die || mine.contains t.place | _ => false)
        (fun t => { t with run := .stopped, wait := .none, stbuf := [] }) p.parked
      tasks := updBy (fun e => e.st = .running && (hit p.asid || doomed p.asid e.slot))
        (fun e => { e with threadDone := true, status := 1, verdict := 2 }) p.tasks }) }

/-- CORE_RAIL_UNDERVOLT: below 0.34 V the die is held in reset and its partitions fault (R17). -/
def execCoreRailUndervolt (die : Nat) (s : State) : Out :=
  .next ((dieLost s die).updPkg (fun p => { p with
    railReset := p.railReset.set die true
    dieTrained := p.dieTrained.set die false
    fullService := p.fullService.set die false }))

/-- CORE_RAIL_UP: the rail is in range and the die leaves the reset it was held in (R17). -/
def execCoreRailUp (die : Nat) (s : State) : Out :=
  .next (s.updPkg (fun p => { p with railReset := p.railReset.set die false }))

/-- The core rails are removed: every partition loses its state, no completion record is written, and THERMTRIP
latches the die and the temperature (R21). -/
def thermalTrip (hot : BitVec 4) (temp : BitVec 16) (s : State) : State :=
  { s with
    parts := []
    places := []
    sites := []
    rslots := []
    segs := []
    left := []
    guy := []
    warm := []
    rings := []
    steals := []
    slices := []
    walkers := []
    landing := []
    reqs := []
    resps := []
    threads := s.threads.filter (fun t => t.id.isSys)
    pkg := { s.pkg with
      railReset := List.replicate 8 true
      dieTrained := List.replicate 8 false
      fullService := List.replicate 8 false
      thermtrip := BitVec.ofNat 64 (temp.toNat * 2 ^ 16 + hot.toNat * 2 + 1) } }

def execThermalTrip (hot : BitVec 4) (temp : BitVec 16) (s : State) : Out := .next (thermalTrip hot temp s)

/-- The throttle factor and THR after a sample: the strictest case that holds (R18). -/
def throttle (f thr : Nat) (power current hot : Bool) : Nat × Nat :=
  if hot then (max 1 (f - 4), 3)
  else if current then (max 1 (f - 2), 2)
  else if power then (max 1 (f - 1), 1)
  else (min 16 (f + 1), if f + 1 ≥ 16 then 0 else thr)

/-- PWRSTAT with the fields of a sample, FACT and THR as given (R20). -/
def pwrstatOf (r : Sample) (f thr : Nat) : Word :=
  BitVec.ofNat 64 (r.tjmax.toNat * 2 ^ 48 + r.ifab.toNat * 2 ^ 32 + r.ppkg.toNat * 2 ^ 16 +
    r.hotdie.toNat * 2 ^ 12 + f * 2 ^ 7 + thr)

/-- POWER_SAMPLE: the caps written since apply, every field of PWRSTAT is updated at once, and f moves; at 115 °C
R21 applies in place of f's move (R18-R21). -/
def execPowerSample (r : Sample) (s : State) : Out :=
  let st := s.pkg.pwrstat.toNat
  let sampled (f thr : Nat) : State := s.updPkg (fun p => { p with capApplied := p.pwrcap, pwrstat := pwrstatOf r f thr })
  if r.tjmax.toInt ≥ 920 then .next (thermalTrip r.hotdie r.tjmax (sampled (bitsOf st 7 5) (bitsOf st 0 2)))
  else
    let cap := s.pkg.pwrcap.toNat
    let power := r.ppkg.toNat > bitsOf cap 16 14
    let cur := r.ifab.toNat > bitsOf cap 8 8 * 100
    let hot := r.tjmax.toInt ≥ 840
    let m := throttle (bitsOf st 7 5) (bitsOf st 0 2) power cur hot
    .next (sampled m.1 m.2)

/-- PWRCAP_WRITE: CAPW and IPEAK held within their ranges; ignored while LOCK is 1 (R19). -/
def execPwrcapWrite (v : Word) (s : State) : Out :=
  if bitsOf s.pkg.pwrcap.toNat 0 1 = 1 then .next s
  else
    let n := v.toNat
    let capw := max 1000 (min 10000 (bitsOf n 16 14))
    let ip := max 20 (min 200 (bitsOf n 8 8))
    .next (s.updPkg (fun p => { p with pwrcap := BitVec.ofNat 64 (capw * 2 ^ 16 + ip * 2 ^ 8 + n % 2) }))

/-- One CRC-8 step for each of `k` bits of `v`, the most significant first: polynomial x^8 + x^2 + x + 1 (R22). -/
def crc8 : Nat → Nat → Nat → Nat
  | 0, _, c => c
  | k + 1, v, c =>
    let top := (c / 128 + v / 2 ^ k) % 2
    crc8 k v ((c * 2 % 256) ^^^ (if top = 1 then 7 else 0))

/-- A rail-set frame (R22). -/
def railFrame (die : BitVec 3) (code : Byte) : BitVec 24 :=
  let top := 0xA * 2 ^ 12 + die.toNat * 2 ^ 9 + code.toNat * 2
  BitVec.ofNat 24 (top * 256 + crc8 16 top 0)

/-- The codes of 0.36 V to 0.44 V, which a core-rail regulator applies; it ignores any other (R16, R22). -/
def railCodeOk (code : Byte) : Bool := 60 ≤ code.toNat && code.toNat ≤ 140

/-- RAIL_SET_FRAME: the first copy goes out, and the regulator applies its code if that lies in the range (R16, R22). -/
def execRailSetFrame (die : BitVec 3) (code : Byte) (s : State) : Out :=
  .next (s.updPkg (fun p => { p with
    rails := if railCodeOk code then p.rails.set die.toNat code else p.rails
    railFrames := p.railFrames ++ [(railFrame die code, s.cycle + 3500)]
    railSent := p.railSent ++ [railFrame die code] }))

/-- RAIL_FRAME_REPEAT: 2 us after its first copy a frame's second goes out, the oldest frame first (R22). -/
def execRailFrameRepeat (s : State) : Out :=
  match s.pkg.railFrames with
  | [] => .next s
  | (f, due) :: rest =>
    .next (if due ≤ s.cycle then s.updPkg (fun p => { p with railFrames := rest, railSent := p.railSent ++ [f] }) else s)

/-! ### PCIe and bring-up (R15, R59) -/

/-- The widths a link can have, the greatest not above `w` (R15). -/
def linkWidth (w : Nat) : Nat := if w ≥ 16 then 16 else if w ≥ 8 then 8 else if w ≥ 4 then 4 else if w ≥ 2 then 2 else 1

/-- PCIE_LINK_TRAIN: an enabled endpoint trains to the highest common speed and width, the partner's given (R15). -/
def execPcieLinkTrain (io gen width : Nat) (s : State) : Out :=
  .next (if s.pkg.pcieStrap.getD io false then
    s.updPkg (fun p => { p with pcieLink := p.pcieLink.set io (max 1 (min 7 gen), linkWidth width) }) else s)

def execHbm4eStackTrained (n : Nat) (s : State) : Out :=
  .next (s.updPkg (fun p => { p with hbmTrained := p.hbmTrained.set n true }))

/-- FABRIC_DIE_TRAINED: a die that is not held in reset becomes usable in reduced service (R59). -/
def execFabricDieTrained (die : Nat) (s : State) : Out :=
  .next (if s.pkg.railReset.getD die true then s
    else s.updPkg (fun p => { p with dieTrained := p.dieTrained.set die true }))

/-- A die moves to full service only when every partition on it has halted (R60). -/
def fullServiceOk (s : State) (die : Nat) : Bool :=
  s.dieUsable die && s.parts.all (fun p => !p.rects.any (fun r => r.die = die) ||
    (p.st ≠ .running && p.st ≠ .halting))

/-- A word of HBM4E has come to hold an error: a hard one, or one that its next read corrects (R202). -/
def wordError (w : Nat) (hard : Bool) (s : State) : State :=
  if s.badWords.contains w then s
  else if hard then { s with badWords := w :: s.badWords, softWords := s.softWords.filter (fun x => x ≠ w) }
  else { s with softWords := if s.softWords.contains w then s.softWords else w :: s.softWords }

/-- The host reaches the functions of an I/O die: the strap enables its port and the link has trained (R15, R57). -/
def hostReaches (s : State) (io : Nat) : Bool := s.pkg.pcieStrap.getD io false && (s.pkg.pcieLink.getD io (0, 0)).1 ≠ 0

/-- What firmware and the host do beside registers and instructions: the runtime digest is set once, the ring agent is
given its address, a die whose partitions have halted is declared in full service, the host writes HOSTVER or the staging
of a port that its strap enables and that is not BUSY (R54, R57-R60; DESIGN CHOICE, assumption 121). -/
def outsideAct (a : Outside) (s : State) : State :=
  match a with
  | .runtimeDigest d => if s.pkg.rtSet then s else s.updPkg (fun p => { p with rtDigest := d, rtSet := true })
  | .agentAddress io v => s.updPkg (fun p => { p with agentAddr := p.agentAddr.set io v })
  | .fullService die =>
    if fullServiceOk s die then s.updPkg (fun p => { p with fullService := p.fullService.set die true }) else s
  | .hostver io v =>
    if hostReaches s io then s.updPkg (fun p => { p with hostver := p.hostver.set io v }) else s
  | .stage io p off bytes =>
    let r := s.pkg.rports.getD (io * 64 + p) .reset
    if hostReaches s io && !r.busy && off + bytes.length ≤ 65536 then
      s.updPkg (fun q => { q with rports := q.rports.set (io * 64 + p) { r with staging := memWrite r.staging off bytes } })
    else s
  | .wordError w hard => wordError w hard s
  | .pathsDiffer _ => s

/-! ### Fuses and attestation (R52, R54, R55) -/

/-- OTP_REVOKE_BLOW: a REVOKE fuse is blown unless all four slots would be revoked (R52). -/
def execOtpRevokeBlow (slot : BitVec 2) (s : State) : Out :=
  let r := s.pkg.ident.revoke ||| (1 <<< slot.toNat)
  .next (if r = 15 then s else s.updPkg (fun p => { p with ident := { p.ident with revoke := r } }))

/-- OTP_SVN_BLOW: an SVNFUSE bit is blown (R52). -/
def execOtpSvnBlow (bit : BitVec 6) (s : State) : Out :=
  .next (s.updPkg (fun p => { p with ident := { p.ident with svnfuse := p.ident.svnfuse ||| (1 <<< bit.toNat) } }))

/-- A digest in its place by ascending ASID. -/
def insertDigest (x : Nat × BitVec 256) : List (Nat × BitVec 256) → List (Nat × BitVec 256)
  | [] => [x]
  | y :: l => if x.1 ≤ y.1 then x :: y :: l else y :: insertDigest x l

/-- Partitions that hold a catalogue digest, in ascending ASID. -/
def digests (s : State) : List (Nat × BitVec 256) :=
  (s.parts.filterMap (fun p => p.digest.map (fun d => (p.asid, d)))).foldr insertDigest []

/-- Bytes of a 256-bit digest. -/
def digestBytes (d : BitVec 256) : List Byte := (natBytes 32 d.toNat).reverse

/-- The report of R55 over the measurements as they stand: the fields, up to 64 digests from FIRST on, and the
signature over them. -/
def attestReport (s : State) (nonce : List Byte) (first : Nat) : List Byte :=
  let all := digests s
  let from_ := all.filter (fun x => first ≤ x.1)
  let here := from_.take 64
  let next := match from_.drop 64 with | (a, _) :: _ => a | [] => 0
  let body := natBytes 4 0x41545431 ++ natBytes 2 1 ++ natBytes 2 here.length ++
    natBytes 4 s.pkg.ident.devid.toNat ++ natBytes 4 s.pkg.fwSvn.toNat ++ natBytes 2 all.length ++ natBytes 2 next ++
    natBytes 12 0 ++ nonce ++ digestBytes s.pkg.fwDigest ++ digestBytes s.pkg.rtDigest ++
    here.flatMap (fun (a, d) => natBytes 2 a ++ natBytes 6 0 ++ digestBytes d)
  body ++ identitySign s.pkg.ident (sha256 body) s.freeCtr

/-- ATTREQ_ERR_CLEAR: a write with ERR = 1 clears ERR and starts nothing (R55). -/
def execAttreqErrClear (s : State) : Out :=
  .next (s.updPkg (fun p => { p with attreq := putField p.attreq 2 1 0 }))

/-- ATTREQ_REPORT: a write starts a report over the measurements of this cycle, or sets ERR while BUSY (R55). The buffer
lies in package memory whatever ADDR is: below 64 MiB too it is not IO0's boot SRAM, which the spec leaves open
(DESIGN CHOICE, assumption 122.) A buffer on a stack that has not trained, or with a word that cannot be corrected, is read and written
as if it were ready (DESIGN CHOICE, assumption 146). -/
def execAttreqReport (v : Word) (s : State) : Out :=
  if bitsOf v.toNat 2 1 = 1 then execAttreqErrClear s
  else if bitsOf s.pkg.attreq.toNat 0 1 = 1 then
    .next (s.updPkg (fun p => { p with attreq := putField p.attreq 2 1 1 }))
  else
    let addr := bitsOf v.toNat 6 42 * 64
    let buf := memRead s.mem addr 34
    let s1 := { s with freeCtr := s.freeCtr + 8 }
    .next (s1.updPkg (fun p => { p with
      attreq := BitVec.ofNat 64 (addr + bitsOf p.attreq.toNat 2 1 * 4 + 1)
      report := some (attestReport s (buf.take 32) (bytesNat (buf.drop 32))) }))

/-- ATTEST_REPORT_DONE: the report overwrites the buffer; DONE is set and BUSY clears (R55). -/
def execAttestReportDone (s : State) : Out :=
  match s.pkg.report with
  | none => .next s
  | some bs =>
    .next ((llcPutAll (bs.length / 64 + 1) s (bitsOf s.pkg.attreq.toNat 6 42 * 64) bs).updPkg (fun p => { p with
      attreq := putField (putField p.attreq 0 1 0) 1 1 1
      report := none }))

/-! ### Ring ports (R56-R58) -/

def State.rport (s : State) (io p : Nat) : RingPort := s.pkg.rports.getD (io * 64 + p) .reset

def State.setRport (s : State) (io p : Nat) (r : RingPort) : State :=
  s.updPkg (fun q => { q with rports := q.rports.set (io * 64 + p) r })

def RingPort.src (r : RingPort) : Nat := bitsOf r.b2.toNat 30 2
def RingPort.limit (r : RingPort) : Nat := bitsOf r.b2.toNat 0 11

/-- A datagram of the ring agent: the 16-byte header of R58. -/
def udpHead (op port status : Nat) (seq : Nat) : List Byte :=
  natBytes 1 1 ++ natBytes 1 op ++ natBytes 1 port ++ natBytes 1 status ++ natBytes 4 seq ++ natBytes 2 0 ++ natBytes 6 0

/-- A push ends with a status: DONECNT, STATUS, the vector of a host's push, or the recorded SEQ of a datagram and an
ACK for each time it has come (R57, R58). -/
def pushDone (s : State) (io p : Nat) (job : Push) (status : Nat) : State :=
  let r := s.rport io p
  let rest := r.queue
  let r1 := { r with donecnt := r.donecnt + 1, status := BitVec.ofNat 4 status, waiting := none, granted := none,
                     busy := !rest.isEmpty }
  match job.seq with
  | none => (s.setRport io p r1).updPkg (fun q => { q with msix := q.msix ++ [(io, p)] })
  | some n =>
    let seqs := r.seqs ++ [(n, status)]
    (s.setRport io p { r1 with seqs := seqs.drop (seqs.length - 64) }).updPkg (fun q =>
      { q with udpOut := q.udpOut ++ List.replicate (1 + job.again) (io, udpHead 2 p status n.toNat) })

/-- RPSTAT of a ring port (R57). -/
def RingPort.rpstat (r : RingPort) : Word :=
  BitVec.ofNat 64 (r.donecnt.toNat * 2 ^ 32 + bit1 r.busy * 16 + r.status.toNat)

/-- What the host reads at an offset of BAR0, `none` where no function answers: RPPUSH is write-only, RPSTAT of each
port, VERSION and HOSTVER, and zero elsewhere (R57; DESIGN CHOICE, assumption 121). -/
def hostRead0 (s : State) (io off : Nat) : Option Word :=
  if !hostReaches s io || off ≥ 65536 then none
  else some (
    if off < 4096 ∧ off % 64 = 8 then (s.rport io (off / 64)).rpstat
    else if off = 0x1000 then 0x10000
    else if off = 0x1008 then (s.pkg.hostver.getD io 0).setWidth 64
    else 0)

/-- What the host reads of the staging in BAR2, 65,536 bytes a port (R57). -/
def hostRead2 (s : State) (io off n : Nat) : Option (List Byte) :=
  if !hostReaches s io || off + n > 2 ^ 22 then none
  else some (memRead (s.rport io (off / 65536)).staging (off % 65536) n)

/-- The one physical function of an enabled PCIe port (R57). -/
structure PcieFunction where
  classCode : Nat
  msixVectors : Nat
  bar0 : Nat
  bar2 : Nat
  deriving DecidableEq, Repr

/-- A disabled port presents no device (R15, R57). -/
def pcieFunction (s : State) (io : Nat) : Option PcieFunction :=
  if s.pkg.pcieStrap.getD io false then some { classCode := 0x1200, msixVectors := 64, bar0 := 2 ^ 16, bar2 := 2 ^ 22 }
  else none

/-- The host's writes of HOSTVER and of a port's staging, at their offsets, in their order (R57). -/
def hostPosted (io p : Nat) (hv : Option (BitVec 32)) (staged : List (Nat × List Byte)) (s : State) : State :=
  staged.foldl (fun st x => outsideAct (.stage io p x.1 x.2) st) (match hv with | some v => outsideAct (.hostver io v) s | none => s)

/-- RPPUSH_WRITE: the host asks for N granules of the staging; refused while BUSY, and unless HOSTVER's major version is 1.
No write comes from a host that no link reaches (R15, R57). The granules are those of the staging at this write
(DEDUCED, assumption 70.) -/
def execRppushWrite (io p : Nat) (v : Word) (hv : Option (BitVec 32)) (staged : List (Nat × List Byte)) (s0 : State) : Out :=
  let s := hostPosted io p hv staged s0
  let r := s.rport io p
  if !hostReaches s io then .next s
  else if r.busy then .next (s.setRport io p { r with status := 3 })
  else
    let n := bitsOf v.toNat 0 11
    let job : Push := { n := n, bytes := memRead r.staging 0 (64 * min n 1024), seq := none, again := 0, b0 := r.b0, b1 := r.b1, b2 := r.b2 }
    if (s.pkg.hostver.getD io 0).toNat / 2 ^ 16 ≠ 1 ∨ r.src ≠ 1 ∨ n > 1024 then .next (pushDone s io p job 3)
    else .next (s.setRport io p { r with busy := true, queue := r.queue ++ [job] })

/-- Bytes of the Ethernet frame that carries a datagram: 14 of header and 4 of check sequence, 20 or 40 of IP, 8 of UDP
(R14; PRESUMED, assumption 123). -/
def dgFrame (d : Datagram) : Nat := d.bytes.length + 26 + if d.addr.toNat < 2 ^ 32 then 20 else 40

/-- The fields of the 16-byte header (R58). -/
structure UdpHdr where
  ver : Nat
  op : Nat
  port : Nat
  seq : BitVec 32
  n : Nat
  deriving DecidableEq, Repr

def dgHdr (d : Datagram) : UdpHdr :=
  let f (o n : Nat) := bytesNat ((d.bytes.drop o).take n)
  { ver := f 0 1, op := f 1 1, port := f 2 1, seq := BitVec.ofNat 32 (f 4 4), n := f 8 2 }

/-- The ring agent listens for the datagram: the link is up, the frame is of at most 9,216 bytes, it is addressed to UDP
port 0x4B55 at the agent's address, its header is whole and names a port bound to its source (R14, R58). -/
def udpHeard (s : State) (io : Nat) (d : Datagram) : Bool :=
  let r := s.rport io (dgHdr d).port
  s.pkg.ethUp.getD io false && dgFrame d ≤ 9216 && d.port = 0x4B55 && d.addr = s.pkg.agentAddr.getD io 0 &&
  16 ≤ d.bytes.length && (dgHdr d).port < 64 && r.src = 2 && bitsOf r.b1.toNat 0 48 = d.mac.toNat

/-- UDP_HELLO: the agent answers with the lower of the client's version and 1; other sources are dropped (R58). OP, STATUS
and SEQ of the answer are 0: the spec gives its version alone (DESIGN CHOICE, assumption 145). -/
def execUdpHello (io : Nat) (mac : BitVec 48) (to_ : UdpAddr) (bytes : List Byte) (s : State) : Out :=
  let d : Datagram := { mac := mac, addr := to_.addr, port := to_.port, bytes := bytes }
  if !udpHeard s io d || (dgHdr d).op ≠ 0 then .next s
  else .next (s.updPkg (fun q => { q with
    udpOut := q.udpOut ++ [(io, natBytes 1 (min (dgHdr d).ver 1) ++ (udpHead 0 (dgHdr d).port 0 0).drop 1)] }))

/-- A repeat of a datagram whose push has not ended: it is acknowledged when the push ends. -/
def Push.repeated (j : Push) (seq : BitVec 32) : Push := if j.seq = some seq then { j with again := j.again + 1 } else j

/-- UDP_PUSH: a SEQ among the last 64 is acknowledged again, one whose push is still under way when that ends; otherwise
the push of N granules is queued (R58). A datagram of a version above 1, or that does not carry its N granules, is dropped
(DESIGN CHOICE, assumption 124.) -/
def execUdpPush (io : Nat) (mac : BitVec 48) (addr : BitVec 128) (port : BitVec 16) (bytes : List Byte) (s : State) : Out :=
  let d : Datagram := { mac := mac, addr := addr, port := port, bytes := bytes }
  let h := (dgHdr d)
  let r := s.rport io h.port
  if !udpHeard s io d || h.op ≠ 1 || h.ver > 1 || h.n > 140 || d.bytes.length < 16 + 64 * h.n then .next s
  else match r.seqs.find? (fun x => x.1 = h.seq) with
    | some (_, st) => .next (s.updPkg (fun q => { q with udpOut := q.udpOut ++ [(io, udpHead 2 h.port st h.seq.toNat)] }))
    | none =>
      let under := r.queue.any (fun j => j.seq = some h.seq) ||
        (match r.waiting with | some (j, _, _) => j.seq = some h.seq | none => false)
      if under then .next (s.setRport io h.port { r with
        queue := r.queue.map (fun j => j.repeated h.seq)
        waiting := r.waiting.map (fun (j, b) => (j.repeated h.seq, b)) })
      else .next (s.setRport io h.port { r with busy := true, queue := r.queue ++
        [{ n := h.n, bytes := (d.bytes.drop 16).take (64 * h.n), seq := some h.seq, again := 0, b0 := r.b0, b1 := r.b1, b2 := r.b2 }] })

/-- Copies granules into ring storage from position `pos`, wrapping; `none` when a copy faults (R97). -/
def copyGranules (asid base lgn : Nat) : Nat → State → Nat → List Byte → Option State
  | 0, s, _, _ => some s
  | k + 1, s, pos, bs =>
    match hwPut s asid (base + 64 * (pos % 2 ^ lgn)) (bs.take 64) with
    | none => none
    | some s' => copyGranules asid base lgn k s' (pos + 1) (bs.drop 64)

/-- A claim becomes a VOID commit (R101). -/
def voidClaim (b : RBlock) (r : Ring) (pos : Nat) : RBlock × Ring :=
  if r.claims.any (fun c => c.pos = pos && c.st = .opened) then
    ringAdvance { b with voids := (b.voids + 1) % 2 ^ 32 }
      { r with claims := updBy (fun c => c.pos = pos && c.st = .opened) (fun c => { c with st := .void }) r.claims }
  else (b, r)

/-- A scope of a partition is cancelled, and not yet closed. -/
def scopeGone (s : State) (asid scope : Nat) : Bool := match partOf s asid with | some p => p.scopeCancelled scope | none => false

/-- Voids the claim at a position of a registered ring (R56, R101). -/
def voidAt (s0 : State) (asid block pos : Nat) : State :=
  let s := ringFresh s0 asid block
  match s.ring? asid block with
  | none => s
  | some r =>
    match readBytes s (some r.die) 3 r.xl 64 with
    | .ok s1 bs =>
      let b := ringBlock bs
      let (b', r') := voidClaim b r pos
      let claim := r.claims.find? (fun c => c.pos = pos && c.st = .opened)
      let s2 := match claim with | some c => s1.updPart asid (fun p => p.workDown c.scope) | none => s1
      match ringPut s2 r' r.xl b' with
      | some s3 =>
        let s4 := match claim with | some c => freeGranules asid b.base b.lgn c.n s3 c.pos | none => s3
        ringEvents s4 asid block b b'
      | none => s
    | _ => s

/-- The claim is granted at `pos`: copy and commit, or void it when the copy faults. A claim whose scope has been cancelled since
its grant gets no copy, becomes a VOID commit and ends CANCELLED (R56). So does one whose ring has been reinitialised, or whose
partition is gone, since: no row of R56 names that (DESIGN CHOICE, assumption 125). -/
def pushCopy (s0 : State) (io p : Nat) (job : Push) (asid block scope pos : Nat) : State :=
  let s := ringFresh s0 asid block
  match s.ring? asid block with
  | none => pushDone s io p job 2
  | some r =>
    if !r.claims.any (fun c => c.pos = pos && c.st = .opened) then pushDone s io p job 2
    else if scopeGone s asid scope then pushDone (voidAt s asid block pos) io p job 2
    else match readBytes s (some r.die) 3 r.xl 64 with
    | .ok s1 bs =>
      let b := ringBlock bs
      match copyGranules asid b.base b.lgn job.n s1 pos job.bytes with
      | none => pushDone (voidAt s asid block pos) io p job 4
      | some s2 =>
        match ringAtSlice s2 asid r.xl (.ring io p) (.commit block pos scope) with
        | some (s3, .granted _ _, _) => pushDone (stir s3 asid) io p job 0
        | some (s3, _, _) => pushDone s3 io p job 2
        | none => s
    | _ => s

/-- RING_AGENT_PUSH: one queued push of a port as RCLAIM, copy and RCOMMIT under the port's scope, by the binding it was asked under
(R56, R342). A control block
whose own translation or read faults at the claim gives REFUSED, with nothing claimed: the rows name only a fault that the
copy meets (DESIGN CHOICE, assumption 125.) -/
def execRingAgentPush (io p : Nat) (s : State) : Out :=
  let r := s.rport io p
  match r.waiting, r.granted with
  | some (job, b0, b1), some (pos, c) =>
    if c ≠ 0 then .next (pushDone s io p job (if c = 2 then 2 else 3))
    else .next (pushCopy s io p job (bitsOf b0.toNat 48 16) (bitsOf b0.toNat 6 42 * 64) (bitsOf b1.toNat 48 16) pos)
  | some _, none => .next s
  | none, _ =>
    match r.queue with
    | [] => .next s
    | job :: rest =>
      let s1 := s.setRport io p { r with queue := rest, granted := none }
      let under := { r with b0 := job.b0, b1 := job.b1, b2 := job.b2 }
      let asid := bitsOf job.b0.toNat 48 16
      let block := bitsOf job.b0.toNat 6 42 * 64
      let scope := bitsOf job.b1.toNat 48 16
      if under.src = 0 ∨ job.n = 0 ∨ job.n > under.limit then .next (pushDone s1 io p job 3)
      else match translate s1 none 0 asid block (Need.atomic false) with
        | .wait => .next s
        | .fault _ _ _ _ => .next (pushDone s1 io p job 3)
        | .ok s2 (x, _) =>
          match ringAtSlice (stir s2 asid) asid x (.ring io p) (.claim block job.n scope) with
          | none => if ringBlockFaults s2 asid block x then .next (pushDone s1 io p job 3) else .next s
          | some (s3, .status c, _) => .next (pushDone s3 io p job (if c = 2 then 2 else 3))
          | some (s3, .waits, _) => .next (s3.setRport io p { (s3.rport io p) with waiting := some (job, job.b0, job.b1) })
          | some (s3, .granted pos _, _) => .next (pushCopy s3 io p job asid block scope pos)

/-- RPBIND2_WRITE: the three binding registers of the selected port apply at once; SRC 3 is held at 0, LIMIT 0 or
above 1024 at 1024 (R342). -/
def execRpbind2Write (io : Nat) (v : Word) (s : State) : Out :=
  let p := bitsOf (s.pkg.rpsel.getD io 0).toNat 0 6
  let r := s.rport io p
  let src := bitsOf v.toNat 30 2
  let lim := bitsOf v.toNat 0 11
  let w := (if src = 3 then 0 else src) * 2 ^ 30 + (if lim = 0 ∨ lim > 1024 then 1024 else lim)
  .next (s.setRport io p { r with b0 := r.staged0, b1 := r.staged1, b2 := BitVec.ofNat 64 w })

end Sys2Proof.Machine
end

