-- ==== Sys2Proof/Machine/Scopes.lean ====
section
/-! DEFINITION. Cancel scopes but for CANCEL, barriers, and CWAIT (R104-R107, R111, R322). -/

namespace Sys2Proof.Machine

/-- A status instruction on the thread's partition; with no partition the status is `absent` (DEDUCED, assumption 24). -/
def onPart (s : State) (t : Thread) (absent : State) (f : Partition → State) : State :=
  match partOf s t.asid with
  | none => absent
  | some p => f p

/-! ### Scope instructions (R107) -/

/-- The next free ID after one, wrapping past 65,535 to 1 (R107). -/
def Partition.nextScope (p : Partition) : Nat → Nat → Nat
  | 0, i => i
  | k + 1, i =>
    let j := if i ≥ 65535 then 1 else i + 1
    if p.scopeExists j then p.nextScope k j else j

def execScopen (d : Reg) (s : State) : Out :=
  onCur s (fun t =>
    let done (s' : State) (c v : Nat) : State := s'.setThread (t.report d 0x2F 0 c (BitVec.ofNat 64 v))
    onPart s t (done s 3 0) (fun p =>
      if t.scopeFree || !p.scopeExists t.scope then done s 3 0
      else if p.scopeCancelled t.scope then done s 2 0
      else if p.scopes.length ≥ 4096 then done s 5 0
      else
        let id := p.nextScope (p.scopes.length + 1) p.lastScope
        let x : Scope := { id := id, parent := t.scope, cancelled := false, work := 0 }
        done (s.setPart { p with scopes := p.scopes ++ [x], lastScope := id }) 0 id))

/-- SCCLOSE frees a scope with no child, no WORK and no unacknowledged ticket (what a plain store to a ring's block has dropped is
no WORK, R97); threads whose current scope it is are
marked, and one that waits in RCLAIM or RWAIT executes it again, which returns BADSCOPE (R107). -/
def execScclose (d a : Reg) (s : State) : Out :=
  onCur s (fun t =>
    let s := ringsFresh s t.asid
    let v := (t.reg a).toNat
    let done (s' : State) (c : Nat) : State := s'.updThread t.id (fun u => u.report d 0x2F 1 c 0)
    onPart s t (done s 3) (fun p =>
      if v ≥ 2 ^ 16 then done s 3
      else if v = 0 then done s 6
      else match p.scope? v with
        | none => done s 3
        | some x =>
          if p.scopes.any (fun y => y.parent = v && y.id ≠ 0) || x.work ≠ 0 || p.tickets.any (fun k => k.scope = v && !k.acked)
          then done s 4
          else
            let s1 := s.setPart { p with scopes := p.scopes.filter (fun y => y.id ≠ v) }
            let mine := s1.threads.filter (fun u => u.asid = p.asid && u.scope = v)
            let s2 := (mine.filter (fun u => match u.wait with | .ring _ _ _ => true | _ => false)).foldl (fun st u =>
              (abandonRing st u.id).updThread u.id (fun y => { y with wait := .none })) s1
            done { s2 with threads := updBy (fun u => u.asid = p.asid && u.scope = v) (fun u => { u with scopeFree := true }) s2.threads } 0))

/-- SCSET gives the previous current scope (R322) and clears the mark (R107). -/
def execScset (d a : Reg) (s : State) : Out :=
  onCur s (fun t =>
    let v := (t.reg a).toNat
    let bad := s.setThread (t.report d 0x2F 2 3 0)
    onPart s t bad (fun p =>
      if v ≥ 2 ^ 16 ∨ !p.scopeExists v then bad
      else s.setThread ({ t with scope := v, scopeFree := false }.report d 0x2F 2 0 (BitVec.ofNat 64 t.scope))))

/-- CWAIT: waits until the ticket is acknowledged, then an acquire at PACKAGE scope (R111). -/
def execCwait (d a : Reg) (s : State) : Out :=
  onCur s (fun t =>
    let v := (t.reg a).toNat % 2 ^ 32
    let stale := s.setThread (t.report d 0x2F 4 8 0)
    onPart s t stale (fun p =>
      if t.wait = .killed then s.setThread (t.report d 0x2F 4 2 0)
      else match p.knownTicket v with
      | none => stale
      | some k =>
        if k.acked then (acquireAt s t 3).setThread (t.report d 0x2F 4 0 0)
        else waitIn s t (.ticket v)))

/-! ### Barriers (R104, R105) -/

/-- A barrier; one never initialised holds n = 0, scope 0, PHASE 0 and no DEAD bit (DESIGN CHOICE, assumption 138). -/
def Partition.bar (p : Partition) (b : Nat) : Barrier :=
  (p.bars.find? (fun x => x.id = b)).getD
    { id := b, n := 0, scope := 0, phase := 0, arrived := [], leaving := 0, dead := false }

def Partition.setBar (p : Partition) (b : Barrier) : Partition :=
  { p with bars := putBy (fun x => x.id = b.id) b p.bars }

/-- The threads that wait at a barrier are told: its phase has completed and PHASE is `ph`, or, with nothing, it is DEAD
(R105, R113). -/
def tellBarrier (s : State) (asid b : Nat) (ph : Option Nat) : State :=
  let told : Thread → Thread := fun t => { t with wait := match ph with | some k => .passed k | none => .killed }
  { s with threads := updBy (fun t => t.asid = asid && t.wait = .barrier b) told s.threads }

/-- A phase completes: PHASE rises, the arrived set empties, participants cancelled after arriving leave (R105,
R109). One whose n comes to 0 in this way is DEAD: R109 says so of the cancellation of participants that had not arrived
(DESIGN CHOICE, assumption 150). -/
def Barrier.complete (b : Barrier) : Barrier :=
  { b with phase := (b.phase + 1) % 2 ^ 16, arrived := [], n := b.n - b.leaving, leaving := 0,
           dead := b.dead || (b.leaving > 0 && b.n ≤ b.leaving) }

/-- The child of `root` on the path from it to `id` (R104). -/
def Partition.childOf (p : Partition) (root : Nat) : Nat → Nat → Option Nat
  | 0, _ => none
  | k + 1, id =>
    if id = root then none
    else match p.scope? id with
      | none => none
      | some x => if id = 0 then none else if x.parent = root then some id else p.childOf root k x.parent

def execBarinit (d a b : Reg) (s : State) : Out :=
  onCur s (fun t =>
    let bn := (t.reg a).toNat
    let v := (t.reg b).toNat
    let sc := v % 2 ^ 16
    let n := bitsOf v 16 7
    let done (s' : State) (c : Nat) : State := s'.setThread (t.report d 0x2C 1 c 0)
    onPart s t (done s 6) (fun p =>
      if v ≥ 2 ^ 23 ∨ bn > 63 ∨ n = 0 ∨ n > 64 then done s 6
      else if !p.scopeExists sc then done s 3
      else if s.threads.any (fun u => u.asid = p.asid && u.wait = .barrier bn) then done s 4
      else
        let old := p.bar bn
        let p1 := if old.n ≠ 0 ∨ old.dead then p.workDown old.scope else p
        let s1 := s.setPart ((p1.setBar { id := bn, n := n, scope := sc, phase := 0, arrived := [], leaving := 0, dead := false }).workUp sc)
        -- PHASE is 0 from now on: a change of it sets the event flags (R326)
        if old.phase = 0 then done s1 0 else (s1.setEvents p.asid (fun _ => true)).updThread t.id (fun u => u.report d 0x2C 1 0 0)))

/-- BARARR: a release at PACKAGE scope; the thread's participant arrives, and the last one completes the phase,
which sets every thread's event flag (R105, R325, R326). -/
def execBararr (d a : Reg) (s : State) : Out :=
  onCur s (fun t0 => syncPoint s t0 (fun s0 t =>
    let bn := (t.reg a).toNat
    let done (s' : State) (c v : Nat) : State := s'.updThread t.id (fun u => u.report d 0x2C 2 c (BitVec.ofNat 64 v))
    onPart s0 t (done s0 6 0) (fun p =>
      if bn > 63 then done s0 6 0
      else if t.scopeFree then done s0 3 0
      else
        let x := p.bar bn
        if x.dead then done s0 2 0
        else if p.scopeCancelled t.scope then done s0 2 0
        else match p.childOf x.scope p.scopes.length t.scope with
          | none => done s0 7 0
          | some c =>
            if x.arrived.contains c then done s0 4 0
            else
              let y := { x with arrived := x.arrived ++ [c] }
              if y.arrived.length = y.n then
                done (((tellBarrier s0 p.asid bn (some y.complete.phase)).setPart (p.setBar y.complete)).setEvents p.asid (fun _ => true)) 0 x.phase
              else done (s0.setPart (p.setBar y)) 0 x.phase)))

/-- BARWAIT: waits until PHASE differs from p, then an acquire at PACKAGE scope (R105). -/
def execBarwait (d a b : Reg) (s : State) : Out :=
  onCur s (fun t =>
    let bn := (t.reg a).toNat
    let ph := (t.reg b).toNat % 2 ^ 16
    onPart s t (s.setThread (t.report d 0x2C 3 6 0)) (fun p =>
      if bn > 63 then s.setThread (t.report d 0x2C 3 6 0)
      else
        let x := p.bar bn
        let passed (k : Nat) : State := (acquireAt s t 3).setThread (t.report d 0x2C 3 0 (BitVec.ofNat 64 k))
        match t.wait with
        | .passed k => passed k
        | _ =>
        if x.dead || t.wait = .killed then s.setThread (t.report d 0x2C 3 2 0)
        else if x.phase ≠ ph then passed x.phase
        else waitIn s t (.barrier bn)))

/-- A count of a cancellation record rises; the counts saturate (R112). -/
def Ticket.bump (k : Ticket) (i n : Nat) : Ticket :=
  let top := if i = 7 ∨ i = 8 then 2 ^ 16 - 1 else 2 ^ 32 - 1
  { k with counts := k.counts.set i (min top (k.counts.getD i 0 + n)) }

def bumpTicket (s : State) (key i n : Nat) : State :=
  s.updPart (key / 2 ^ 32) (fun p => { p with tickets := updBy (fun k => k.val = key % 2 ^ 32) (fun k => k.bump i n) p.tickets })

end Sys2Proof.Machine
end

