-- ==== Sys2Proof/Machine/Net.lean ====
section
/-! DEFINITION. The receiving side of the fragment spray networks: decode slots, windows, losses, what a delivered message
does, Brosum's retain copies and capabilities, and the SPR registers (R31-R48, R12, R13). -/

namespace Sys2Proof.Machine

/-! ### Losses at the requester (R37, R38) -/

/-- The work that consumes a message contributes a verdict: 1 corrected, 2 tainted (R34, R255). -/
def raiseVerdict (s : State) (who : Agent) (v : Nat) : State :=
  let up (st : State) (asid slot : Nat) : State := st.updTask asid slot (fun e => { e with verdict := max e.verdict v })
  match who with
  | .thread t => match s.thread? t with
    | some u => if u.id.isSys then s else up s u.asid u.lslot
    | none => s
  | .gen place _ _ => match s.place? place with
    | some p => up s p.asid p.lslot
    | none => s
  | .seam n _ _ | .guy n _ _ _ => match s.place? n.place with
    | some p => up s p.asid p.lslot
    | none => s
  | .line die core line =>
    let due (l : Landing) : Bool := l.die = die && l.core = core && l.line = line && l.inflight.isSome && l.lost.isNone
    { s with landing := updFirst due (fun l => { l with fixed := true }) s.landing }
  | .node n => match s.place? n.place with
    | some p => up s p.asid p.lslot
    | none => s
  | .slice no => { s with slices := s.slices.map (fun x => { x with
      pend := updBy (fun p => p.no = no) (fun p => { p with fixed := p.fixed ++ (List.range 16).map (fun i => p.line * 16 + i) }) x.pend }) }
  | _ => s

/-- A loss of cancelled work counts and does nothing else: the ticket of the scope the thread had shows it (R38, R48, R112). -/
def countLoss (s : State) (t : Thread) : State :=
  match (partOf s t.asid).bind (fun p => p.tickets.find? (fun k => !k.acked && (threadScopes s t).any (p.inSubtree k.scope))) with
  | some k => bumpTicket s (t.asid * 2 ^ 32 + k.val) 10 1
  | none => s

/-- NET_LOSS at a thread: a lost steal ends its DQSTEAL; otherwise a precise trap at its instruction, with the
record's network part; where its scope is cancelled the loss only counts (R38, R95). -/
def threadLoss (s : State) (t : Thread) (va : Nat) (write : Bool) (n : NetInfo) : State :=
  if t.wait = .steal then stealExpired s t.id
  else if threadCancelled s t then countLoss s t
  else if t.run ≠ .running then s
  else if t.inh then doubleTrap s t 12
  else
    let (s1, ev, nr) := scalarRecord s t (scalarInfo t 12 0 0 va write n)
    syncTrap s1 t 12 0 false nr t.pc ev

/-- A generator's request: its port and number. -/
def Req.isOf (r : Req) (place port elem : Nat) : Bool := r.place = place && r.port = port && r.elem = elem
def Resp.isOf (r : Resp) (place port elem : Nat) : Bool := r.place = place && r.port = port && r.elem = elem

/-- Nothing of a generator's request is on its way any more. -/
def offGen (s : State) (place port elem : Nat) : State :=
  ((s.offTransit (.req place port elem)).offTransit (.resp place port elem)).offTransit (.remote place port elem)

/-- A generator's request is lost: NET_LOSS comes as the answer to its element (R224). -/
def genLoss (s : State) (place port elem : Nat) (n : NetInfo) : State :=
  let dead := match s.reqs.find? (fun r => r.isOf place port elem), s.resps.find? (fun r => r.isOf place port elem) with
    | some r, _ => r.dead
    | none, some r => r.dead
    | none, none => none
  let s1 := offGen s place port elem
  { s1 with
    reqs := s1.reqs.filter (fun r => !r.isOf place port elem)
    resps := s1.resps.filter (fun r => !r.isOf place port elem) ++
      [{ place := place, port := port, elem := elem, kind := .lost n.key n.cls n.bitmap n.timer, dead := dead }] }

/-- A ring agent loses a message: its wait at the ring ends, a claim it has been granted becomes a VOID commit, and the push
ends with FAULT, or with CANCELLED where its scope is cancelled, the row that comes first (R56). A message lost before any grant
ends it in the same way, with nothing claimed: no row names that (DESIGN CHOICE, assumption 147). -/
def agentLoss (s : State) (io p : Nat) : State :=
  let code (b0 b1 : Word) : Nat := if scopeGone s (bitsOf b0.toNat 48 16) (bitsOf b1.toNat 48 16) then 2 else 4
  match (s.rport io p).waiting, (s.rport io p).granted with
  | some (job, b0, b1), some (pos, 0) =>
    pushDone (voidAt s (bitsOf b0.toNat 48 16) (bitsOf b0.toNat 6 42 * 64) pos) io p job (code b0 b1)
  | some (job, b0, b1), _ =>
    pushDone { s with rings := s.rings.map (fun r =>
      { r with waiters := r.waiters.filter (fun w => w.who ≠ .ring io p) }) } io p job (code b0 b1)
  | none, _ => s

/-- Every request of the LLC a slice has sent stands in a pending entry: a read or a fill is lost to the requests that wait
on it, and the entry frees; the message of a forward or a write-back, or of the LLC's answer to one, is sent again, since the
slice has answered for it (R38 names no slice; DESIGN CHOICE, assumption 128). -/
def sliceLoss (s : State) (no : Nat) (n : NetInfo) : State :=
  let s1 := (s.offTransit (.toLlc no)).offTransit (.fromLlc no)
  match s1.slices.findSome? (fun x => (x.pend.find? (fun p => p.no = no)).map (fun p => (x, p))) with
  | none => { s1 with lreqs := s1.lreqs.filter (fun q => q.no ≠ no) }
  | some (x, p) =>
    let up := sliceEp x.die x.idx
    let llc := llcEp (baseOf p.line)
    if p.kind = .forward || p.kind = .writeback then
      if p.answer.isSome then sendMessage s1 (packageMsg llc up .control 0 [0] (.slice no)) (.fromLlc no)
      else if s1.lreqs.any (fun q => q.no = no) then
        sendMessage s1 (packageMsg up llc .request 0 (natBytes 8 (p.line * 128) ++ p.data) (.slice no)) (.toLlc no)
      else s1
    else
      let gs := if p.kind = .mcast then x.groups.filter (fun g => g.line = p.line) else []
      let again := if p.kind = .mcast then x.waitMcast.filter (fun r => r.line = p.line) else []
      let s2 := { s1 with
        lreqs := s1.lreqs.filter (fun q => q.no ≠ no)
        slices := updBy (fun y => y.die = x.die && y.idx = x.idx) (fun y => { y with
          pend := y.pend.filter (fun q => q.no ≠ no)
          groups := y.groups.filter (fun g => !gs.contains g)
          waitMcast := y.waitMcast.filter (fun r => !again.contains r) }) s1.slices
        reqs := p.held ++ again ++ s1.reqs }
      (p.waiting ++ gs.flatMap (fun g => g.req :: g.joined)).foldl (fun st r =>
        genLoss (dropTimers st (.gen r.place r.port r.elem)) r.place r.port r.elem n) s2

/-- A loss of cancelled work of a place counts, as that of a thread does. -/
def countPlaceLoss (s : State) (p : Place) : State :=
  match (partOf s p.asid).bind (fun q => q.tickets.find? (fun k => !k.acked && q.inSubtree k.scope p.scope)) with
  | some k => bumpTicket s (p.asid * 2 ^ 32 + k.val) 10 1
  | none => s

/-- A message of a line is kept no longer (R38). -/
def dropKept (s : State) (a : Agent) : State := s.updNet (fun w => { w with kept := w.kept.filter (fun x => x.1 ≠ a) })

/-- A seam or guy line loses a token, or the acknowledgement of one: a stream fault of the port that sent it. The loss stands in
transit, and the far side has nothing, until the record is resumed and the message sent again (R38). -/
def lineLost (s : State) (a : Agent) (c : Cargo) (n : NetInfo) : State :=
  let s1 := ((s.offTransit (.token a)).offTransit (.again a)).offTransit (.taken a)
  match lineNode a with
  | none => dropKept s1 a
  | some x => match s.place? x.place with
    | none => dropKept s1 a
    | some p =>
      if placeDead s p then countPlaceLoss (dropKept s1 a) p
      else if rollsBack s p 12 0 then rollNow s1 p
      else freezeRecord ((overLimit s1 p 12 0).updNet (fun w => { w with transit := w.transit ++ [(none, c)] })) p.asid
        (n.put { nodeLate p x (.line a) 12 4 with lslot := p.lslot })

/-- A memory node loses a message of its firing's access: a stream fault of the node (R38, R224). -/
def nodeLoss (s : State) (p : Place) (n : Node) (i : NetInfo) : State :=
  if placeDead s p then countPlaceLoss s p
  else if !(s.sites.any (fun x => x.node = n && !x.frozen && (match x.st with | .mem _ => true | _ => false))) then s
  else if rollsBack s p 12 0 then rollNow s p
  else freezeRecord ((overLimit s p 12 0).updSite n (fun x => { x with frozen := true })) p.asid (i.put (accessLate p n (.node n) 12 0 0 0 false 0 0))

/-- NET_LOSS is raised at the requester (R37, R38). -/
def raiseLoss (s : State) (who : Agent) (n : NetInfo) : State :=
  match who with
  | .unit => s
  | .node n0 => match s.place? n0.place with
    | some p => nodeLoss s p n0 n
    | none => s
  | .thread t =>
    if n.timer && s.steals.any (fun x => x.thief = t && x.dead.isSome && !x.acked && !x.gone) then stealExpired s t
    else match s.thread? t with
    | some u =>
      if u.wait = .steal then threadLoss s u 0 false n
      else match (pcInstr s u).bind (pcAccess u) with
        | some (va, w) => threadLoss s u va w n
        | none => s
    | none => s
  | .gen place port elem => genLoss s place port elem n
  | .ring io p => agentLoss s io p
  | .line die core line =>
    { (s.offTransit (.line die core line)) with
      landing := updFirst (fun l => l.die = die && l.core = core && l.line = line && l.inflight.isSome && l.lost.isNone) (fun l => { l with lost := some n }) s.landing }
  | .slice no => sliceLoss s no n
  | .seam _ _ _ | .guy _ _ _ _ =>
    lineLost s who (if s.net.transit.any (fun x => x.2 = .token who) then .token who else .again who) n

/-- What is lost with the message of a key, by what it carried (R37, R44, R95). An acknowledgement or a notice that is lost never
reaches the side it was for: the victim's copy of a steal ends by its time, the requester's timer tells it of the loss, and the
next acknowledgement of a port group, which is cumulative, frees the copies (R36, R37, R43, R95). (DEDUCED, assumption 34.) -/
def cargoLoss (s : State) (c : Cargo) (n : NetInfo) : State :=
  match c with
  | .req p q e | .resp p q e | .remote p q e => genLoss (dropTimers s (.gen p q e)) p q e n
  | .line d k l => raiseLoss (dropTimers s (.line d k l)) (.line d k l) n
  | .token a | .again a | .taken a => raiseLoss (dropTimers s a) a n
  | .steal no | .stealBack no =>
    stealLost (match s.steals.find? (fun x => x.no = no) with
      | some x => dropTimers ((s.offTransit (.steal no)).offTransit (.stealBack no)) (.thread x.thief)
      | none => (s.offTransit (.steal no)).offTransit (.stealBack no)) no
  | .toLlc no | .fromLlc no => sliceLoss (dropTimers s (.slice no)) no n
  | .stealAck no => { s.offTransit c with steals := s.steals.filter (fun x => x.no ≠ no) }
  | .notice no => (s.offTransit c).updNet (fun w => { w with notices := w.notices.filter (fun x => x.no ≠ no) })
  | .ack no => (s.offTransit c).updNet (fun w => { w with acks := w.acks.filter (fun x => x.no ≠ no) })

/-- The message of this key is lost to its requester, whoever that is. -/
def lossOf (s : State) (n : NetInfo) : State :=
  let s1 := s.updNet (fun w => { w with retain := w.retain.filter (fun x => x.key ≠ n.key) })
  match s.net.transit.find? (fun x => x.1 = some n.key), s.net.timers.find? (fun t => t.key = n.key),
      s.net.retain.find? (fun r => r.key = n.key) with
  | some x, _, _ => cargoLoss s1 x.2 n
  | none, some t, _ => raiseLoss (dropTimers s1 t.who) t.who n
  | none, none, some r => raiseLoss s1 r.msg.who n
  | none, none, none => s1

/-! ### Encoding at an endpoint (R26-R30, R43) -/

/-- The ports of the I/O die that sends join the spray set at the next message ID (R13). -/
def joinPorts (s : State) (io : Nat) : State :=
  s.updPkg (fun p => { p with bports := p.bports.mapIdx (fun i b => if i / 16 = io then { b with joined := b.lanes ≠ 0 } else b) })

/-- Retain copies a port group holds (R43). -/
def Net.retained (w : Net) (src io : Nat) : Nat := (w.retain.filter (fun r => r.key.src = src && r.key.io = io)).length

/-- The retain buffer of a port group has room for the messages a transfer is cut into (R43). -/
def roomFor (s : State) (m : Msg) (cargo : Option Cargo) (c : Code) : Bool :=
  !retained s m cargo || s.net.retained m.src.toNat (msgIo s m) + (pieces c m.body).length ≤ 1024

/-- A transfer is coded and sent at its endpoint; nothing where the port group's retain buffer holds it back. A spray set that
is too small is NET_LOSS at once: the message has no ID, and the record shows 0 for it, of which the spec says nothing
(R30; DESIGN CHOICE, assumption 129). -/
def encodeAt (s : State) (m : Msg) (cargo : Option Cargo) : Option State :=
  let s0 := if m.dev then joinPorts s (msgIo s m) else s
  match codeFor s0 m with
  | none => some (raiseLoss s0 m.who
      { key := { net := 2, src := m.src.toNat, dst := m.dst.toNat, msgid := 0, io := msgIo s m }, cls := m.cls, bitmap := 0, timer := false })
  | some c => if c.span = 0 ∨ !roomFor s0 m cargo c then none else some (sendUnder s0 m cargo c)

/-- MESSAGE_ENCODE (R26-R30): a message between ends that exist (R25). (DESIGN CHOICE, assumption 11.) -/
def execMessageEncode (m : Msg) (s : State) : Out :=
  if m.body.length = 0 ∨ !m.endsOk then .next s else .next ((encodeAt s m none).getD s)

/-! ### Windows and counters (R33, R42) -/

def Net.window (w : Net) (key : MsgKey) : Window :=
  (w.windows.find? (fun x => x.net = key.net && x.src = key.src && x.dst = key.dst && x.io = key.io)).getD
    { net := key.net, src := key.src, dst := key.dst, io := key.io, h := 65535, map := 0 }

/-- The distance d of R33. -/
def Window.dist (x : Window) (id : Nat) : Nat := (x.h + 65536 - id) % 65536

def Window.has (x : Window) (d : Nat) : Bool := d ≤ 255 && x.map.getLsbD d

/-- A message is finished: its bit is set, and H advances to a newer ID (R33). -/
def Window.finish (x : Window) (id : Nat) : Window :=
  let d := x.dist id
  if d ≤ 255 then { x with map := x.map ||| (1#256 <<< d) }
  else if d ≤ 32767 then x
  else { x with h := id, map := (x.map <<< (65536 - d)) ||| 1#256 }

def Net.finish (w : Net) (key : MsgKey) : Net :=
  let x := (w.window key).finish key.msgid
  { w with
    windows := putBy (fun y => y.net = x.net && y.src = x.src && y.dst = x.dst && y.io = x.io) x w.windows
    failed := w.failed.filter (fun f => f.1 ≠ key) }

/-- A 32-bit counter that saturates (R42). -/
def satInc (c : BitVec 32) (n : Nat) : BitVec 32 := BitVec.ofNat 32 (min (2 ^ 32 - 1) (c.toNat + n))

def Net.counter (w : Net) (net ep : Nat) : NetCnt :=
  (w.counters.find? (fun c => c.net = net && c.ep = ep)).getD
    { net := net, ep := ep, late := 0, stale := 0, crc := 0, repaired := 0, lost := 0, wait := 0 }

def Net.setCounter (w : Net) (c : NetCnt) : Net :=
  { w with counters := putBy (fun x => x.net = c.net && x.ep = c.ep) c w.counters }

def Net.count (w : Net) (key : MsgKey) (f : NetCnt → NetCnt) : Net := w.setCounter (f (w.counter key.net key.ep))

/-! ### Decoders (R31-R36) -/

/-- The header checks of R31, the arrival plane given. -/
def Frag.headerOk (f : Frag) (plane : Nat) : Bool :=
  let h := f.hdr
  h.plane.toNat = plane && 1 ≤ h.k.toNat && h.k.toNat ≤ 14 && h.m.toNat ≤ 4 && h.idx.toNat < h.k.toNat + h.m.toNat && h.rsv = 0

/-- Decode slots per endpoint (R24). -/
def slotLimit (net : Nat) : Nat := if net = 0 then 32 else if net = 1 then 128 else 1024

def Net.slotsOf (w : Net) (key : MsgKey) : Nat := (w.slots.filter (fun d => d.key.net = key.net && d.key.ep = key.ep)).length

/-- A fragment is one of the message that a slot is open for: the code of its header is that of the slot. -/
def DSlot.fits (d : DSlot) (f : Frag) : Bool :=
  d.key = f.key && d.k = f.hdr.k.toNat && d.m = f.hdr.m.toNat && d.fsz = f.hdr.fsz.toNat

/-- A fragment joins its slot; one of another code does not, and is an erasure. -/
def Net.join (w : Net) (f : Frag) : Net :=
  { w with slots := updBy (fun d => d.fits f) (fun d =>
      if d.frags.any (fun x => x.1 = f.hdr.idx.toNat) then d
      else { d with frags := d.frags ++ [(f.hdr.idx.toNat, f.pay)], retx := d.retx || f.hdr.retx = 1 }) w.slots }

/-- A fragment opens a slot, its timeout taken as it stands now (R36, R41). -/
def openSlot (s : State) (f : Frag) : State :=
  let h := f.hdr
  s.updNet (fun w => { w with slots := w.slots ++
    [{ key := f.key, len := h.len.toNat + 1, k := h.k.toNat, m := h.m.toNat, fsz := h.fsz.toNat, cls := h.cls.toNat, seq := h.seq.toNat
       frags := [(h.idx.toNat, f.pay)], retx := h.retx = 1, due := s.cycle + decodeTimeout s f.key.net }] })

def Owed.same (x : Owed) (k : MsgKey) : Bool := x.io = k.io && x.dst = k.dst && x.src = k.src

/-- Counts a finished Brosum message toward the next acknowledgement (R43). -/
def Net.owe (w : Net) (key : MsgKey) (now : Nat) : Net :=
  if key.net ≠ 2 then w
  else
    let x : Owed := match w.owed.find? (fun x => x.same key) with
      | some x => { x with n := x.n + 1 }
      | none => { io := key.io, dst := key.dst, src := key.src, n := 1, since := now }
    { w with owed := putBy (fun y => y.same key) x w.owed }

/-- A fragment of a Brosum retransmission whose message was in fact decoded: it is acknowledged again (R44).
(DEDUCED, assumption 35.) -/
def Net.ackAgain (w : Net) (f : Frag) (now : Nat) : Net :=
  let k := f.key
  if k.net = 2 ∧ f.hdr.retx = 1 ∧ ¬ w.owed.any (fun x => x.same k) then
    { w with owed := w.owed ++ [{ io := k.io, dst := k.dst, src := k.src, n := 0, since := now }] }
  else w

/-- A fragment would open a slot: its message has none, and is neither finished nor stale (R33). -/
def Net.opens (w : Net) (f : Frag) : Bool :=
  let x := w.window f.key
  let d := x.dist f.key.msgid
  !w.slots.any (fun y => y.key = f.key) && !x.has d && !(256 ≤ d && d ≤ 32767)

/-- A valid fragment is handled by the first row of R33's table that matches; with every slot open one that would
open a slot waits (R35). -/
def takeFragment (s : State) (f : Frag) : State :=
  let w := s.net
  let x := w.window f.key
  let d := x.dist f.key.msgid
  if w.slots.any (fun y => y.key = f.key) then s.updNet (fun w => w.join f)
  else if x.has d then
    s.updNet (fun w => (w.ackAgain f s.cycle).count f.key (fun c => { c with late := satInc c.late 1 }))
  else if 256 ≤ d ∧ d ≤ 32767 then s.updNet (fun w => w.count f.key (fun c => { c with stale := satInc c.stale 1 }))
  else if w.slotsOf f.key ≥ slotLimit f.key.net then s.updNet (fun w => { w with ingress := w.ingress ++ [(f, s.cycle)] })
  else openSlot s f

/-- A fragment waits in the ingress buffer of this plane at this endpoint and holds the plane upstream (R35). -/
def Net.planeHeld (w : Net) (key : MsgKey) (plane : Nat) : Bool :=
  w.ingress.any (fun x => x.1.key.net = key.net && x.1.key.ep = key.ep && x.1.hdr.plane.toNat = plane)

/-- A fragment is discarded by R31. -/
def discard (s : State) (key : MsgKey) : State := s.updNet (fun w => w.count key (fun c => { c with crc := satInc c.crc 1 }))

/-- FRAGMENT_ARRIVE: a fragment of the flight arrives whole on a plane, with what the wire has done to its flits. One with a
flit that fails CRC, or that fails the header checks, is discarded as an erasure; what the message of a failed one still
needs is remembered until it is finished (R31, R33, R34). A held plane brings nothing (R35). -/
def execFragmentArrive (i plane : Nat) (errs : List WireErr) (s : State) : Out :=
  match s.net.flight[i]? with
  | none => .next s
  | some f =>
    if s.net.planeHeld f.key plane then .next s
    else
      let s1 := s.updNet (fun w => { w with flight := w.flight.eraseIdx i })
      let fs := hurt errs f.flits
      let g := if errs.isEmpty then f else fragOf f.io fs
      if !crcGood fs then
        let done := (s.net.window f.key).has ((s.net.window f.key).dist f.key.msgid)
        .next ((discard s1 f.key).updNet (fun w => if done then w else { w with failed := w.failed ++ [(f.key, f.hdr.idx.toNat)] }))
      else if !g.headerOk plane then .next (discard s1 f.key)
      else .next (takeFragment s1 g)

/-- The fragments a delivery uses: every data fragment held, then parity in order up to k. -/
def DSlot.chosen (d : DSlot) : List (Nat × List Byte) :=
  let data := d.frags.filter (fun f => f.1 < d.k)
  let parity := (List.range d.m).filterMap (fun j => d.frags.find? (fun f => f.1 = d.k + j))
  (data ++ parity).take d.k

/-- The message of a slot that holds k fragments (R27, R28). -/
def DSlot.message (d : DSlot) : List Byte :=
  ((rebuild d.k (d.chosen.map (fun f => (f.1, f.2.map BitVec.toNat)))).flatten.map (BitVec.ofNat 8)).take d.len

/-- Repaired: parity stands in for a data fragment that had failed CRC (R34). -/
def DSlot.repaired (d : DSlot) (failed : List (MsgKey × Nat)) : Bool :=
  (List.range d.k).any (fun n => !d.frags.any (fun f => f.1 = n) && failed.contains (d.key, n))

/-! ### What a delivered message does (R23, R24, R37, R361) -/

/-- The answer of a remote device: the code and subcode of a fault there, then the data (R361). Its bytes are the model's own
arrangement (DESIGN CHOICE, assumption 13). -/
def answerBody (code sub : Nat) (data : List Byte) : List Byte := natBytes 1 code ++ natBytes 1 sub ++ data

/-- What an answer of a remote device tells the generator. -/
def answerKind (control : Bool) (body : List Byte) : RespKind :=
  let code := (body.getD 0 0).toNat
  if code ≠ 0 then .fault code (body.getD 1 0).toNat 0
  else if control then .ack 0 else .data (body.drop 2)

/-- A Brosum answer that has been decoded at the port group goes on to its generator as a new message of the package network
(R24). -/
def answerHome (s : State) (io place port elem : Nat) (control : Bool) (body : List Byte) : State :=
  match s.reqs.find? (fun r => r.isOf place port elem) with
  | none => dropTimers s (.gen place port elem)
  | some r =>
    let s1 := { s with
      reqs := s.reqs.filter (fun r => !r.isOf place port elem)
      resps := s.resps ++ [{ place := place, port := port, elem := elem, kind := answerKind control body, dead := r.dead }] }
    sendMessage s1 (packageMsg (portGroupEp io) (coreEp r.die r.core) (if control then .control else .response) elem body
      (.gen place port elem)) (.resp place port elem)

/-- The device a request is for. -/
def ReqKind.device : ReqKind → Nat
  | .remote d => d
  | _ => 0

/-- A token of a seam or guy line, or the copy of one that had come, is acknowledged by the endpoint that receives it (R38). -/
def lineAck (s : State) (key : MsgKey) (a : Agent) : State :=
  sendMessage s { src := BitVec.ofNat 12 key.dst, dst := BitVec.ofNat 12 key.src, dev := false, traffic := .control, seq := 0
                  body := natBytes 4 key.msgid, who := a } (.taken a)

/-- The cargo of a delivered message has arrived, once no other piece of the transfer is under way. A request that is to
cross Brosum goes out at the port group; `none` where its retain buffer holds it back. -/
def landCargo (s : State) (key : MsgKey) (seq : Nat) (body : List Byte) (c : Cargo) : Option State :=
  if !s.arrived c then some s
  else match c with
  | .resp p q e => some (dropTimers s (.gen p q e))
  | .remote p q e =>
    match s.reqs.find? (fun r => r.isOf p q e) with
    | none => some s
    | some r => encodeAt s { src := s.pkg.ident.devid, dst := BitVec.ofNat 12 r.kind.device, dev := true, traffic := .request
                             seq := BitVec.ofNat 16 seq, body := body, who := .gen p q e } none
  | .line d k l => some (dropTimers s (.line d k l))
  | .token a | .again a => some (lineAck s key a)
  | .taken a => some (dropKept (dropTimers s a) a)
  | .stealBack no => match s.steals.find? (fun x => x.no = no) with
    | some x => some (dropTimers s (.thread x.thief))
    | none => some s
  | .fromLlc no => some (dropTimers s (.slice no))
  | .req _ _ _ | .steal _ | .stealAck _ | .toLlc _ | .notice _ | .ack _ => some s

/-- A Brosum message that answers a generator's request (R24, R361). -/
def remoteAnswer (s : State) (key : MsgKey) (body : List Byte) : State :=
  match s.net.timers.find? (fun t => t.key = key) with
  | none => s
  | some t =>
    if !t.answer || key.net ≠ 2 then s
    else match t.who with
      | .gen place port elem => answerHome s key.io place port elem (t.cls = 3) body
      | _ => dropTimers s t.who

/-- MESSAGE_DELIVER: a slot with k valid fragments delivers its message and closes (R34); its destination takes what it
carries. A request that the port group cannot send on yet stays in its slot (R43). -/
def execMessageDeliver (k : MsgKey) (s : State) : Out :=
  match s.net.slots.find? (fun d => d.key = k) with
  | none => .next s
  | some d =>
    if d.frags.length < d.k then .next s
    else
      let rep := d.repaired s.net.failed
      let body := d.message
      let cargo := (s.net.transit.find? (fun x => x.1 = some k)).map (fun x => x.2)
      let quiet := match cargo with | some (.ack _) => true | some (.notice _) => true | _ => false
      let s1 := s.updNet (fun w =>
        let w1 : Net := { w with slots := w.slots.filter (fun x => x.key ≠ k), transit := w.transit.filter (fun x => x.1 ≠ some k),
                                 delivered := w.delivered ++ [{ key := k, seq := d.seq, body := body, repaired := rep }] }
        let w2 := if quiet then w1.finish k else (w1.finish k).owe k s.cycle
        if rep then w2.count k (fun c => { c with repaired := satInc c.repaired 1 }) else w2)
      let s2 := match s.net.timers.find? (fun t => t.key = k) with
        | some t => if rep then raiseVerdict (stirAgent s1 t.who cargo) t.who 1 else stirAgent s1 t.who cargo
        | none => stirAgent s1 .unit cargo
      match cargo with
      | some c => .next ((landCargo s2 k d.seq body c).getD s)
      | none => .next (remoteAnswer s2 k body)

/-- INGRESS_SLOT_ADMIT: a waiting fragment is looked at again once a slot is free, or once it would open none, its message having a slot
or being finished; its waiting cycles count (R35). -/
def execIngressSlotAdmit (i : Nat) (s : State) : Out :=
  match s.net.ingress[i]? with
  | none => .next s
  | some (f, t0) =>
    if s.net.opens f && s.net.slotsOf f.key ≥ slotLimit f.key.net then .next s
    else
      let s1 := s.updNet (fun w => { (w.count f.key (fun c => { c with wait := satInc c.wait (s.cycle - t0) })) with
        ingress := w.ingress.eraseIdx i })
      .next (takeFragment s1 f)

/-- The received-fragment bitmap (R36). -/
def DSlot.bitmap (d : DSlot) : Nat :=
  ((List.range (d.k + d.m)).map (fun n => if d.frags.any (fun f => f.1 = n) then 2 ^ n else 0)).foldl (fun a b => a + b) 0

/-- A loss notice goes back to the source, a CTRL message like any other (R36); one that cannot leave tells the source nothing. -/
def sendNotice (s : State) (d : DSlot) : State :=
  let (no, s1) := takeSerial s
  let s2 := s1.updNet (fun w => { w with notices := w.notices ++ [{ no := no, key := d.key, cls := d.cls, bitmap := d.bitmap }] })
  (encodeAt s2 { src := BitVec.ofNat 12 d.key.dst, dst := BitVec.ofNat 12 d.key.src, dev := d.key.net = 2, traffic := .control, seq := 0
                 body := natBytes 2 d.key.msgid ++ natBytes 3 d.bitmap, who := .unit } (some (.notice no))).getD s

/-- DECODE_TIMEOUT: a slot short of k fragments at its timeout closes and a loss notice goes back. A Brosum message
that can still be sent again is not yet lost (R36, R43, R44). -/
def execDecodeTimeout (k : MsgKey) (s : State) : Out :=
  match s.net.slots.find? (fun d => d.key = k) with
  | none => .next s
  | some d =>
    if d.frags.length ≥ d.k ∨ s.cycle < d.due then .next s
    else
      let again : Bool := k.net = 2 && !d.retx && s.net.retain.any (fun r => r.key = k && !r.retx)
      let s1 := s.updNet (fun w =>
        let w1 := { w with slots := w.slots.filter (fun x => x.key ≠ k) }
        if again then w1
        else (w1.finish k |>.owe k s.cycle).count k (fun c => { c with lost := satInc c.lost 1 }))
      .next (sendNotice s1 d)

/-- What is known of a retained message when it is lost. -/
def Retain.loss (r : Retain) : NetInfo := { key := r.key, cls := r.cls, bitmap := 0, timer := false }

/-- A retain copy is sent again, whole, under the ID and the code it had, on those of its ports that still are in the spray
set; too few of them are NET_LOSS (R13, R30, R40, R44). (DEDUCED, assumption 130.) -/
def retransmit (s : State) (r : Retain) : State :=
  let ports := r.code.members.filter (fun i => (spraySet s r.key.io r.cls (msgFar s r.msg)).contains i)
  if ports.length < r.code.m + 1 then lossOf s r.loss
  else s.updNet (fun w => { w with
      flight := w.flight ++ fragments s r.msg r.cls r.key { r.code with members := ports } true
      retain := updBy (fun x => x = r) (fun x => { x with retx := true, sentAt := s.cycle }) w.retain })

/-- LOSS_NOTICE_RECEIVE: a notice that has reached the source: a Brosum message is sent again once; otherwise NET_LOSS is
raised (R37, R44). -/
def execLossNoticeReceive (i : Nat) (s : State) : Out :=
  match s.net.notices[i]? with
  | none => .next s
  | some n =>
    if !s.arrived (.notice n.no) then .next s
    else
      let s1 := s.updNet (fun w => { w with notices := w.notices.eraseIdx i })
      match s1.net.retain.find? (fun r => r.key = n.key && !r.retx) with
      | some r => .next (retransmit s1 r)
      | none => .next (lossOf s1 { key := n.key, cls := n.cls, bitmap := n.bitmap, timer := false })

/-- A request whose timer has expired may yet be decoded and performed; its answer comes too late for its element
(R37, R48). (DEDUCED, assumption 131.) -/
def orphan (s : State) (who : Agent) : State :=
  match who with
  | .gen place port elem =>
    { s with reqs := s.reqs.map (fun r => if r.isOf place port elem && r.dead.isNone then { r with dead := some 0 } else r)
             resps := s.resps.filter (fun r => !r.isOf place port elem) }
  | _ => s

/-- NET_LOSS at a requester whose response timer has expired. -/
def expiryLoss (s : State) (who : Agent) (n : NetInfo) : State :=
  match who with
  | .gen place port elem =>
    let s1 := orphan s who
    { s1 with resps := s1.resps ++ [{ place := place, port := port, elem := elem
                                      kind := .lost n.key n.cls n.bitmap n.timer
                                      dead := (s.reqs.find? (fun r => r.isOf place port elem)).bind (fun r => r.dead) }] }
  | _ => raiseLoss s who n

/-- RESPONSE_TIMER_EXPIRE: no response in time: NET_LOSS with a zero bitmap and TIMER; an answer still under way is
finished, so that it is dropped as late (R37, R48). -/
def execResponseTimerExpire (i : Nat) (s : State) : Out :=
  match s.net.timers[i]? with
  | none => .next s
  | some t =>
    if s.cycle < t.due then .next s
    else
      let late := (s.net.timers.filter (fun x => x.who = t.who && x.answer)).map (fun x => x.key)
      let s1 := s.updNet (fun w => late.foldl (fun v k => { (v.finish k) with
        slots := v.slots.filter (fun d => d.key ≠ k), transit := v.transit.filter (fun x => x.1 ≠ some k) }) w)
      .next (expiryLoss (dropTimers s1 t.who) t.who { key := t.key, cls := t.cls, bitmap := 0, timer := true })

/-! ### SPR registers (R39-R42) -/

/-- How many of the planes are disabled in a mask. -/
def planesOff (p pen : Nat) : Nat := ((List.range p).filter (fun i => bitsOf pen i 1 = 0)).length

/-- R40's conditions on a write to the code register `idx`. -/
def codeRefused (idx v : Nat) : Bool :=
  let k := bitsOf v 0 4
  let m := bitsOf v 8 3
  let p := planesOf (idx / 4)
  k = 0 || k > 14 || m > 4 || (idx / 4 < 2 && (k + m > p || planesOff p (bitsOf v 48 16) > m))

def setCode (s : State) (io idx : Nat) (f : Word → Word) : State :=
  s.updPkg (fun p => if io = 1 ∧ idx ≥ 8 then { p with sprcodeB := p.sprcodeB.modify (idx - 8) f }
    else { p with sprcode := p.sprcode.modify idx f })

/-- SPRCODE_ERR_CLEAR: a write with ERR = 1 clears ERR and nothing else (R40). -/
def execSprcodeErrClear (io idx : Nat) (s : State) : Out := .next (setCode s io idx (fun w => putField w 40 1 0))

/-- SPRCODE_WRITE: the code and plane mask, or a refusal that sets ERR (R39, R40). -/
def execSprcodeWrite (io idx : Nat) (v : Word) (s : State) : Out :=
  if bitsOf v.toNat 40 1 = 1 then .next (setCode s io idx (fun w => putField w 40 1 0))
  else if codeRefused idx v.toNat then .next (setCode s io idx (fun w => putField w 40 1 1))
  else
    let n := v.toNat
    let pen := bitsOf n 48 16 % 2 ^ planesOf (idx / 4)
    .next ((setCode s io idx (fun w =>
      BitVec.ofNat 64 (pen * 2 ^ 48 + bitsOf w.toNat 40 1 * 2 ^ 40 + bitsOf n 8 3 * 2 ^ 8 + bitsOf n 0 4))).updPkg (fun p =>
        { p with sprWritten := p.sprWritten.set idx true }))

/-- The endpoint SPRSEL selects: network and endpoint, for Brosum one of this device. -/
def sprSel (s : State) : Nat × Nat :=
  let net := bitsOf s.pkg.sprsel.toNat 12 2
  let ep := bitsOf s.pkg.sprsel.toNat 0 12
  (net, if net = 2 then groupOf s.pkg.ident.devid.toNat ep else ep)

/-- Waiting cycles of fragments that still wait (R35). -/
def waitingNow (s : State) (net ep : Nat) : Nat :=
  ((s.net.ingress.filter (fun x => x.1.key.net = net && x.1.key.ep = ep)).map (fun x => s.cycle - x.2)).foldl (fun a b => a + b) 0

/-- The value of SPRCNT0-SPRCNT2 (R42). -/
def sprcntWord (s : State) (idx : Nat) : Word :=
  let (net, ep) := sprSel s
  let c := s.net.counter net ep
  if idx = 0 then c.late ++ c.stale else if idx = 1 then c.crc ++ c.repaired
  else c.lost ++ satInc c.wait (waitingNow s net ep)

/-- SPRCNT_WRITE: the register's counters clear (R42). -/
def execSprcntWrite (idx : Nat) (s : State) : Out :=
  let (net, ep) := sprSel s
  .next (s.updNet (fun w =>
    let c := w.counter net ep
    if idx = 0 then w.setCounter { c with late := 0, stale := 0 }
    else if idx = 1 then w.setCounter { c with crc := 0, repaired := 0 }
    else { (w.setCounter { c with lost := 0, wait := 0 }) with
           ingress := updBy (fun x => x.1.key.net = net && x.1.key.ep = ep) (fun x => (x.1, s.cycle)) w.ingress }))

/-! ### Brosum (R12, R13, R43-R46) -/

/-- The finished IDs a window shows. -/
def Window.ids (x : Window) : List Nat :=
  ((List.range 256).filter (fun d => x.map.getLsbD d)).map (fun d => (x.h + 65536 - d) % 65536)

/-- BROSUM_ACK_SEND: after 64 messages or 1024 cycles the receiving port group acknowledges the IDs finished so far, in a
CTRL message (R43). -/
def execBrosumAckSend (dst : GroupEnd) (src : Nat) (s : State) : Out :=
  let key : MsgKey := { net := 2, src := src, dst := dst.dev, msgid := 0, io := dst.io }
  match s.net.owed.find? (fun x => x.same key) with
  | none => .next s
  | some x =>
    if x.n < 64 ∧ s.cycle < x.since + 1024 then .next s
    else
      let ids := (s.net.window key).ids
      let (no, s1) := takeSerial s
      let s2 := s1.updNet (fun w => { w with
        acks := w.acks ++ [{ no := no, io := dst.io, dst := dst.dev, src := src, ids := ids }]
        owed := w.owed.filter (fun y => !y.same key) })
      .next ((encodeAt s2 { src := BitVec.ofNat 12 dst.dev, dst := BitVec.ofNat 12 src, dev := true, traffic := .control, seq := 0
                            body := natBytes 2 (s.net.window key).h ++ natBytes 32 (s.net.window key).map.toNat, who := .unit }
              (some (.ack no))).getD s)

/-- BROSUM_ACK_RECEIVE: an acknowledgement that has arrived frees the copies it names (R43). -/
def execBrosumAckReceive (i : Nat) (s : State) : Out :=
  match s.net.acks[i]? with
  | none => .next s
  | some a =>
    if !s.arrived (.ack a.no) then .next s
    else .next (s.updNet (fun w => { w with
      acks := w.acks.eraseIdx i
      retain := w.retain.filter (fun r => !(r.key.io = a.io && r.key.src = a.src && r.key.dst = a.dst && a.ids.contains r.key.msgid)) }))

/-- BROSUM_RETAIN_TIMEOUT: neither acknowledged nor reported lost within twice the timeout (R44). -/
def execBrosumRetainTimeout (i : Nat) (s : State) : Out :=
  match s.net.retain[i]? with
  | none => .next s
  | some r =>
    if s.cycle < r.sentAt + 2 * decodeTimeout s 2 then .next s
    else if !r.retx then .next (retransmit s r)
    else .next (lossOf s r.loss)

/-- The Ulimin's own capability word (R45). -/
def ownCap (s : State) : Word :=
  BitVec.ofNat 64 (1 * 2 ^ 56 + 2 * 2 ^ 48 + 1 * 2 ^ 40 + s.pkg.ident.devid.toNat * 2 ^ 28 + 14 * 2 ^ 24 + 4 * 2 ^ 21 + 15 * 2 ^ 17 + 7)

/-- Whether two capability words agree on a version (R46). -/
def versionsMeet (a b : Nat) : Bool :=
  let maj := min (bitsOf a 56 8) (bitsOf b 56 8)
  bitsOf a 40 8 ≤ maj && bitsOf b 40 8 ≤ maj

/-- BROSUM_PORT_TRAIN: 8 good lanes, or at least four for half rate; the peer's word is exchanged; the port joins the
spray set at the next message ID, or stays down. VERMISMATCH stays latched until the port comes up (R12, R13, R45, R46). -/
def execBrosumPortTrain (p lanes : Nat) (cap : Word) (s : State) : Out :=
  let old := s.pkg.bports.getD p noPort
  let down (mis : Bool) : BPort := { lanes := 0, peer := 0, cap := cap, mismatch := mis, joined := false }
  let b : BPort :=
    if lanes < 4 then down old.mismatch
    else if !versionsMeet (ownCap s).toNat cap.toNat then down true
    else { lanes := if lanes ≥ 8 then 8 else 4, peer := bitsOf cap.toNat 28 12, cap := cap, mismatch := false, joined := false }
  .next (s.updPkg (fun q => { q with bports := q.bports.set p b }))

/-- BROSUM_PORT_DOWN: the port leaves the spray set and the fragments on it, either way, are erasures (R13). -/
def execBrosumPortDown (p : Nat) (s : State) : Out :=
  let gone (f : Frag) : Bool := f.key.net = 2 && f.io = p / 16 && f.hdr.plane.toNat = p % 16
  .next ((s.updPkg (fun q => { q with bports := q.bports.modify p (fun b => { b with lanes := 0, joined := false }) })).updNet
    (fun w => { w with flight := w.flight.filter (fun f => !gone f) }))

end Sys2Proof.Machine
end

