-- ==== Sys2Proof/Machine/Meet.lean ====
section
/-! DEFINITION. One step of a node: how the kinds at its inputs meet (R151), framing and headers (R157-R159), sticky
flags (R249), snapshots (R250), and the firing an operation supplies. -/

namespace Sys2Proof

/-- Element `j` of width `w`. -/
def Token.elem (t : Token) (w j : Nat) : Nat := bitsOf t.pay.toNat (w * j) w

/-- All bytes of an element are live; a 4-bit element is live with its byte. -/
def Token.live (t : Token) (w j : Nat) : Bool :=
  if w = 4 then t.mask.getLsbD (j / 2) else bitsOf t.mask.toNat (w / 8 * j) (w / 8) = 2 ^ (w / 8) - 1

end Sys2Proof

namespace Sys2Proof.Machine

/-- What an operation works with: its opcode and fields, its folio, its site, the place, and the state around it. -/
structure Ctx where
  op : Nat
  w : CellF
  folio : Folio
  place : Place
  x : Site
  s : State

/-- What a firing comes to: it waits; it raises a program-class fault; or it sends tokens, leaves a state, raises flags,
and keeps the inputs named in `keep`. -/
inductive Fired where
  | wait
  | fault (code : Nat)
  | go (out : List (Nat × Token)) (st : OpSt) (flags : Flags) (keep : List Nat)

/-- What an operation supplies: the inputs that take part in framing, those that accept IDX, the outputs framing leaves
by, its firing, what it sends for a header, what it flushes before a header or EOT, its state after SOT and after KILL,
and what it makes of an EOT. -/
structure CellOps where
  data : List Nat
  idx : List Nat
  frameOuts : List Nat
  fire : Ctx → Fired
  hdr : Ctx → Except Nat (List (Nat × Token))
  flush : Ctx → List (Nat × Token) × OpSt
  sot : Ctx → OpSt
  kill : Ctx → OpSt
  eot : Ctx → Fired

/-! ### Contexts -/

def Ctx.sel (c : Ctx) (i : Nat) : Nat :=
  if i = 0 then c.w.sela.toNat else if i = 1 then c.w.selb.toNat else c.w.selc.toNat

/-- The input takes tokens from a channel. -/
def Ctx.streams (c : Ctx) (i : Nat) : Bool := c.sel i ≥ 0x10

/-- The input has a source, a channel or a constant slot. (DEDUCED, assumption 38.) -/
def Ctx.uses (c : Ctx) (i : Nat) : Bool := c.sel i ≠ 0

def Ctx.head (c : Ctx) (i : Nat) : Option Token := (c.x.input i).head?

def Ctx.hdr (c : Ctx) (i : Nat) : Option Token := (c.x.hdrs.getD i none)

def Ctx.imm (c : Ctx) : Nat := c.w.imm.toNat

/-- The rounding code of the word (R289). -/
def Ctx.rs (c : Ctx) : Rs := rsOf c.w.rs

/-- Constant slot `k` of the site (R291, R296). -/
def Ctx.slot (c : Ctx) (k : Nat) : Nat := (c.folio.const c.x.node.x c.x.node.y k).toNat

/-- `n` copies of a value of `w` bits. -/
def repeatBits (w v : Nat) : Nat → Nat
  | 0 => 0
  | n + 1 => v + 2 ^ w * repeatBits w v n

/-- What a constant input supplies at element width `w` (R291). -/
def Ctx.constTok (c : Ctx) (i w : Nat) : Token :=
  plainTok .data (repeatBits w (c.slot (c.sel i - 1) % 2 ^ w) (512 / w))

/-- The token an input reads at element width `w`: its head, or its constant. -/
def Ctx.tok (c : Ctx) (i w : Nat) : Token :=
  if c.streams i then (c.head i).getD (voidTok .data false) else c.constTok i w

/-- The format in force, or, for CVT, PACK, UNPACK and SCALE, the target (R368). -/
def Ctx.fmt (c : Ctx) : Nat :=
  if c.w.fmt.toNat ≠ 15 then c.w.fmt.toNat
  else match c.hdr 0 with
    | some h => if c.op = 0x19 ∨ c.op = 0x1A ∨ c.op = 0x20 ∨ c.op = 0x21 then hdrFmtB h else hdrFmtA h
    | none => 0

/-- The format A of the header on an input. -/
def Ctx.src (c : Ctx) : Nat := match c.hdr 0 with | some h => hdrFmtA h | none => 0

/-! ### A site that can step -/

/-- The context of a site that may act now: not frozen, awake, its place moving, no copy of a group's lead. -/
def siteCtx (s : State) (n : Node) (op : Nat) (w : CellF) : Option Ctx :=
  match s.place? n.place, s.site? n with
  | some p, some x =>
    match p.folio with
    | some f =>
      if x.frozen || !placeMoves s p || f.isCopy n.x n.y || x.asleep s.cycle then none
      else some { op := op, w := w, folio := f, place := p, x := x, s := s }
    | none => none
  | _, _ => none

def Ctx.enabled (c : Ctx) (k : Nat) : Bool := c.w.outen.getLsbD k

/-- Every enabled output has a free result place (R149, R150). -/
def Ctx.room (c : Ctx) : Bool :=
  let lat := match opInfo c.op with | some i => i.lat | none => 1
  (List.range 3).all (fun k => !c.enabled k || (c.x.out.filter (fun o => o.1 = k)).length < lat)

/-- Tokens that leave by enabled outputs. -/
def Ctx.emit (c : Ctx) (out : List (Nat × Token)) : List (Nat × Token) := out.filter (fun o => c.enabled o.1)

def toAll (outs : List Nat) (t : Token) : List (Nat × Token) := outs.map (fun k => (k, t))

/-- The heads of the given inputs are consumed. -/
def Site.drop (x : Site) (is : List Nat) : Site := is.foldl (fun y i => y.setInput i ((y.input i).drop 1)) x

/-- The heads of some inputs are consumed; DATA on a and on b counts toward the tile's sidecar (R189). -/
def Site.eat (x : Site) (is : List Nat) : Site :=
  let data (i : Nat) : Nat := bit1 (is.contains i && (match (x.input i).head? with | some t => t.kind = .data | none => false))
  { x.drop is with beats := x.beats + data 0, beatsB := x.beatsB + data 1 }

/-! ### The parts of a step -/

/-- A fault at the site of a context. -/
def Ctx.fail (c : Ctx) (code : Nat) : State := nodeFault c.s c.x.node code

/-- The site with its heads consumed, tokens sent, and its state and flags as given. -/
def Ctx.done (c : Ctx) (eat : List Nat) (out : List (Nat × Token)) (st : OpSt) (fl : Flags) (f : Site → Site) : State :=
  c.s.updSite c.x.node (fun x =>
    f { x.eat eat with out := x.out ++ c.emit out, st := st, flags := x.flags ||| fl, lastActive := c.s.cycle })

/-- A unit passes the EOT of a segment: its sticky flags join the launch's word, in a rollback region once the segment is
final (R249, R252). -/
def gatherFlags (s : State) (p : Place) (seg : Nat) (fl : Flags) : State :=
  if placeDead s p then s
  else
    let add (q : Place) : Place :=
      let old := match q.segFlags.find? (fun x => x.1 = seg) with | some x => x.2 | none => 0
      { q with
        segFlags := (seg, old ||| fl) :: (q.segFlags.filter (fun x => x.1 ≠ seg)).take 3
        rb := q.rb.map (fun b => { b with flags := b.flags ++ [(seg, fl, p.inst.map (fun i => i.wave))] }) }
    let s1 := s.updPlace (regionOf s p).id add
    if (regionOf s p).rb.isSome then s1 else s1.updTask p.asid p.lslot (fun e => { e with flags := e.flags ||| fl })

/-- The segment number of the header in force (R299). -/
def Ctx.segno (c : Ctx) : Nat := match c.hdr 0 with | some h => hdrField h 160 32 | none => 0

/-- The state as a MARK passes, the last two kept (R250). (DESIGN CHOICE, assumption 40.) -/
def Site.snap (x : Site) (wave : Nat) : Site :=
  let now : Snap :=
    { wave := wave, st := x.st, flags := x.flags, ina := x.ina, inb := x.inb, inc := x.inc, hdrs := x.hdrs, segOpen := x.segOpen
      segOpenB := x.segOpenB, beats := x.beats, beatsB := x.beatsB, copied := [], planed := [] }
  let all := x.snaps ++ [now]
  { x with snaps := all.drop (all.length - 2) }

/-- The state of a slot as a MARK passes, the last two kept (R250, R389). -/
def RSlot.snap (x : RSlot) (wave : Nat) : RSlot :=
  let all := x.snaps ++ [{ wave := wave, st := x.st, hdrs := x.hdrs, segOpen := x.segOpen, beats := x.beats }]
  { x with snaps := all.drop (all.length - 2) }

/-- KILL heads some inputs: the others discard until it heads all; then it is sent on (R151). (DEDUCED, assumption 51.) -/
def killStep (c : Ctx) (h : CellOps) (ins : List Nat) : State :=
  let waiting := ins.filter (fun i => match c.head i with | some t => t.kind ≠ .kill | none => true)
  if waiting.isEmpty then
    c.s.updSite c.x.node (fun x => { x.eat ins with
      out := c.emit (toAll [0, 1, 2] (plainTok .kill 0)), st := h.kill c, flags := 0, hdrs := [none, none, none], segOpen := false, segOpenB := false, beats := 0, beatsB := 0,
      lastActive := c.s.cycle })
  else c.s.updSite c.x.node (fun x => x.eat waiting)

/-- The same framing kind on all inputs is consumed together and one is sent (R151, R157-R159).
(DESIGN CHOICE, assumption 49.) -/
def frameStep (c : Ctx) (h : CellOps) (ins : List Nat) (t : Token) : State :=
  match t.kind with
  | .sot =>
    if c.x.segOpen then c.fail 4
    else c.done ins (toAll h.frameOuts t) (h.sot c) 0 (fun x => { x with segOpen := true, hdrs := [none, none, none], beats := 0, beatsB := if ins.contains 1 then 0 else x.beatsB })
  | .hdr =>
    if !c.x.segOpen then c.fail 4
    else
      let hs := (List.range 3).map (fun i => if ins.contains i then c.head i else c.hdr i)
      if hs.any (fun o => match o with | some u => !hdrOk u | none => false) then c.fail 5
      else
        let (fl, st) := h.flush c
        let c1 := { c with x := { c.x with hdrs := hs, st := st } }
        match h.hdr c1 with
        | .error code => c.fail code
        | .ok out => c.done ins (fl ++ out) st 0 (fun x => { x with hdrs := hs, beats := 0, beatsB := if ins.contains 1 then 0 else x.beatsB })
  | .eot =>
    if !c.x.segOpen then c.fail 4
    else if ins.any (fun i => (c.hdr i).isNone) then c.fail 5
    else match h.eot c with
      | .wait => c.s
      | .fault code => c.fail code
      | .go out st fl _ =>
        gatherFlags (c.done ins (out ++ toAll h.frameOuts t) st 0 (fun x =>
          { x with segOpen := false, hdrs := [none, none, none], flags := 0 })) c.place c.segno (c.x.flags ||| fl)
  | _ =>
    if !c.x.segOpen then c.fail 4
    else c.done ins (toAll h.frameOuts t) c.x.st 0 (fun x => x.snap (t.pay.toNat % 2 ^ 32))

/-- Every head that is to be used is checked; the context goes on with what the checks leave (R148, R200). -/
def checkHeads (c : Ctx) (ins : List Nat) : Ctx :=
  ins.foldl (fun c i =>
    match c.head i with
    | none => c
    | some t =>
      if t.chk = .good && t.res = residues t.pay then c
      else
        let (s1, t1) := inspect c.s c.place c.x.node t true
        let put (x : Site) : Site := x.setInput i (t1 :: (x.input i).drop 1)
        { c with s := s1.updSite c.x.node put, x := put c.x }) c

/-- A kind no input here accepts: reserved, ORD, DONE or CTRL, or IDX where it is not taken (R147, R152). -/
def kindBad (h : CellOps) (i : Nat) (k : Kind) : Bool :=
  match k with
  | .ord | .done | .ctrl | .rsvd _ => true
  | .idx => !h.idx.contains i
  | _ => false

/-- The number of blocks of a tile (R189). -/
def blockCount (axis rows cols : Nat) : Nat := if axis = 0 then rows * ((cols + 31) / 32) else (rows + 31) / 32 * cols

/-- The tile on input a, from its header: rows, columns, scale kind, AXIS, tile scale. -/
def tileOf (h : Token) : Nat × Nat × Nat × Nat × Nat := (hdrRows h, hdrCols h, hdrScale h % 4, hdrScale h / 4, hdrField h 64 32)

/-- The DATA tokens that a header's tile has on its channel: its data, and the sidecar of a BLOCK32 tile (R189). -/
def tileBeats (h : Token) : Nat :=
  let (rows, cols, kind, axis, _) := tileOf h
  let n := 512 / fmtWidth (hdrFmtA h)
  (rows * cols + n - 1) / n + (if kind = 1 || kind = 3 then (blockCount axis rows cols + 63) / 64 else 0)

/-- SOT, HDR or EOT comes before the sidecar of the tile in force is complete, after `beats` DATA tokens of it (R189). -/
def sidecarShort (hdr : Option Token) (beats : Nat) (k : Kind) : Bool :=
  match hdr with
  | none => false
  | some h =>
    let (_, _, kind, _, _) := tileOf h
    (k = .sot || k = .hdr || k = .eot) && (kind = 1 || kind = 3) && beats < tileBeats h

/-- The head of a or b comes before its tile's sidecar is complete (R189). -/
def Ctx.short (c : Ctx) (i : Nat) : Bool :=
  match c.head i with
  | some t => sidecarShort (c.hdr i) (if i = 1 then c.x.beatsB else c.x.beats) t.kind
  | none => false

/-- A gated site at which a token waits starts to wake; `line` says that one waits at the end of a guy line (R173).
(DESIGN CHOICE, assumption 157.) -/
def nudge (s : State) (n : Node) (line : Bool) : State :=
  match s.site? n with
  | some x => if line || [0, 1, 2].any (fun i => !(x.input i).isEmpty) then wakeSite s n else s
  | none => s

/-- One step of a node by R151's rows. -/
def meet (c0 : Ctx) (h : CellOps) : State :=
  let ins := h.data.filter c0.streams
  let c := checkHeads c0 ins
  let heads := ins.filterMap (fun i => (c.head i).map (fun t => (i, t)))
  let kinds := heads.map (fun x => x.2.kind)
  if rollDue c.s c.place then c.s
  else if kinds.contains .kill then killStep c h ins
  else if heads.any (fun x => kindBad h x.1 x.2.kind) then c.fail 3
  else
    let frames := heads.filter (fun x => x.2.kind.framing)
    match frames with
    | (_, t) :: _ =>
      if frames.length ≠ heads.length ∨ frames.any (fun x => x.2.kind ≠ t.kind) then c.fail 4
      else if heads.length ≠ ins.length ∨ !c.room then c.s
      else if (c.short 0 && ins.contains 0) || (c.short 1 && ins.contains 1) then c.fail 5
      else frameStep c h ins t
    | [] =>
      if heads.length ≠ ins.length ∨ ins.isEmpty ∨ !c.room then c.s
      else if !c.x.segOpen then c.fail 4
      else if ins.any (fun i => (c.hdr i).isNone) then c.fail 5
      else match h.fire c with
        | .wait => c.s
        | .fault code => c.fail code
        | .go out st fl keep => c.done (ins.filter (fun i => !keep.contains i)) out st fl
          (fun x => x)

/-- A step of a cell whose operation is `h`; one that cannot act stays as it is, but a gated one wakes for a token that waits
at its inputs (R173). -/
def runCell (n : Node) (w : CellF) (op : Nat) (h : CellOps) (s : State) : Out :=
  match siteCtx s n op w with
  | some c => .next (meet c h)
  | none => .next (nudge s n false)

/-! ### Elements of a beat (R179, R196) -/

/-- Elements packed from the low end. -/
def packVals (w : Nat) : List (Nat × Bool) → Nat
  | [] => 0
  | (v, _) :: l => v % 2 ^ w + 2 ^ w * packVals w l

/-- The live bytes of packed elements; of two 4-bit elements either makes the byte live. -/
def packMask (w : Nat) : List (Nat × Bool) → Nat
  | [] => 0
  | [(_, a)] => if a then (if w = 4 then 1 else 2 ^ (w / 8) - 1) else 0
  | (_, a) :: (_, b) :: l =>
    if w = 4 then bit1 (a || b) + 2 * packMask w l
    else
      let k := w / 8
      (if a then 2 ^ k - 1 else 0) + 2 ^ k * ((if b then 2 ^ k - 1 else 0) + 2 ^ k * packMask w l)

/-- A beat of elements with their liveness; a dead element is zero. -/
def packBeat (w : Nat) (es : List (Nat × Bool)) (last void : Bool) : Token :=
  let zs := es.map (fun e => (if e.2 then e.1 else 0, e.2))
  mkTok .data (BitVec.ofNat 512 (packVals w zs)) (BitVec.ofNat 64 (packMask w zs)) last void

end Sys2Proof.Machine
end

