-- ==== Sys2Proof/Machine/Flags.lean ====
section
/-! DEFINITION. FFLAGS and the results of scalar floating-point forms (R301, R303, R308-R311). -/

namespace Sys2Proof.Machine

/-- Raises flags in FFLAGS; only a write clears one (R303). -/
def Thread.raise (t : Thread) (fl : Flags) : Thread := { t with fflags := t.fflags ||| fl }

/-- The format of a scalar precision: binary32 for .S, binary64 for .D (R308). -/
def precFmt (p : Bool) : Fmt := if p then fp64 else fp32

/-- A floating source: bits 31:0 for .S (R301). -/
def Thread.fsrc (t : Thread) (r : Reg) (p : Bool) : Val := (precFmt p).read ((t.reg r).toNat % 2 ^ (precFmt p).width)

/-- A floating result with its flags is written, .S zero-extended (R301, R308). -/
def Thread.fretire (t : Thread) (d : Reg) (r : Nat × Flags) : Thread := (t.raise r.2).retire d (BitVec.ofNat 64 r.1)

/-- A floating form of two sources. -/
def fpRR (d a b : Reg) (p : Bool) (f : Fmt → Val → Val → Nat × Flags) (s : State) : Out :=
  onCur s (fun t => s.setThread (t.fretire d (f (precFmt p) (t.fsrc a p) (t.fsrc b p))))

/-- NaN-in when an operand is a NaN (R186). -/
def nanIn (vs : List Val) : Flags := flagIf (vs.any Val.isNan) fNanIn

/-- Rounds an exact value of the first row of R309 that matches: any NaN operand gives the canonical NaN and
NaN-in alone; an invalid form gives the canonical NaN. -/
def fpResult (f : Fmt) (rs : Rs) (ops : List Val) (r : Val × Flags) : Nat × Flags :=
  if ops.any Val.isNan then (f.nan, fNanIn)
  else if r.2 ≠ 0 then (f.nan, r.2)
  else f.put rs r.1

/-- x + y (R309). -/
def fpAdd (rs : Rs) (f : Fmt) (x y : Val) : Nat × Flags := fpResult f rs [x, y] (sumVals rs.mode [x, y])

/-- x − y (R309). -/
def fpSub (rs : Rs) (f : Fmt) (x y : Val) : Nat × Flags := fpResult f rs [x, y] (sumVals rs.mode [x, y.negate])

/-- x × y (R309). -/
def fpMul (rs : Rs) (f : Fmt) (x y : Val) : Nat × Flags := fpResult f rs [x, y] (mulVals x y)

/-- x / y (R309); a finite number over an infinity is a zero (DEDUCED, assumption 14). -/
def fpDiv (rs : Rs) (f : Fmt) (x y : Val) : Nat × Flags :=
  let neg := x.neg? != y.neg?
  match x, y with
  | .nan, _ => (f.nan, fNanIn)
  | _, .nan => (f.nan, fNanIn)
  | .inf _, .inf _ => (f.nan, fInvalid)
  | .inf _, _ => (f.inf neg, 0)
  | _, .inf _ => (f.sign neg, 0)
  | .num _ m e, .num _ n g =>
    if n = 0 then (if m = 0 then (f.nan, fInvalid) else (f.inf neg, fDivZero))
    else if m = 0 then (f.sign neg, 0)
    else f.divNum rs neg m e n g

/-- √x (R309). -/
def fpSqrt (rs : Rs) (f : Fmt) (x : Val) : Nat × Flags :=
  match x with
  | .nan => (f.nan, fNanIn)
  | .inf n => if n then (f.nan, fInvalid) else (f.inf false, 0)
  | .num n m e => if m = 0 then (f.sign n, 0) else if n then (f.nan, fInvalid) else f.sqrtNum rs m e

/-- x × y + z with one rounding (R309). -/
def fpMac (rs : Rs) (f : Fmt) (x y z : Val) : Nat × Flags :=
  let (p, fl) := mulVals x y
  fpResult f rs [x, y, z] (if fl ≠ 0 then (.nan, fl) else sumVals rs.mode [p, z])

/-- The lesser or the greater, with −0 < +0; one NaN gives the other operand (R310). -/
def fpPick (greater : Bool) (f : Fmt) (bx byy : Nat) (x y : Val) : Nat × Flags :=
  match x, y with
  | .nan, .nan => (f.nan, fNanIn)
  | .nan, _ => (byy, fNanIn)
  | _, .nan => (bx, fNanIn)
  | _, _ => (if ltVal true x y != greater then bx else byy, 0)

/-- A comparison: a NaN operand gives 0 with the flags named (R310). -/
def fpCmp (onNan : Flags) (cmp : Val → Val → Bool) (_ : Fmt) (x y : Val) : Nat × Flags :=
  if x.isNan || y.isNan then (0, onNan) else (bit1 (cmp x y), 0)

/-- The class bit of a value (R310). -/
def fpClass (f : Fmt) (n : Nat) : Nat :=
  match f.read n with
  | .nan => 2 ^ 8
  | .inf s => if s then 1 else 2 ^ 7
  | .num s m _ =>
    let sub := m < 2 ^ f.mb
    if m = 0 then (if s then 2 ^ 3 else 2 ^ 4)
    else if sub then (if s then 2 ^ 2 else 2 ^ 5)
    else (if s then 2 else 2 ^ 6)

/-- The conversion codes of R311. -/
def fpCvt (code : Nat) (rs : Rs) (v : Word) : Nat × Flags :=
  let n := v.toNat
  let s32 := fp32.read (n % 2 ^ 32)
  match code with
  | 0 => fp64.convert rs s32
  | 1 => fp32.convert rs (fp64.read n)
  | 2 => toInt 64 true rs s32
  | 3 => toInt 64 false rs s32
  | 4 => toInt 64 true rs (fp64.read n)
  | 5 => toInt 64 false rs (fp64.read n)
  | 6 => fp32.put rs (ofInt (signed 64 n))
  | 7 => fp32.put rs (ofInt n)
  | 8 => fp64.put rs (ofInt (signed 64 n))
  | _ => fp64.put rs (ofInt n)

end Sys2Proof.Machine
end

