-- ==== Sys2Proof/Machine/Sfu.lean ====
section
/-! DEFINITION. The special functions of R377: exact cases and special operands by the rule's rows; elsewhere an
enclosure of the exact value in fixed point. Where both ends of the enclosure round alike that is the result; where they
do not, the result is a free value (DESIGN CHOICE, assumption 18). -/

namespace Sys2Proof.Machine

/-- Fraction bits of the fixed point. -/
def sfuBits : Nat := 160

/-- One in fixed point. -/
def fx1 : Nat := 2 ^ sfuBits

/-- A fixed-point product, cut. -/
def fxMul (a b : Nat) : Nat := a * b / fx1

/-- ln 2, the sum of 1/(k 2^k) for k from `k` on, `n` terms, cut (units of 2^-160). -/
def ln2Terms : Nat → Nat → Nat
  | 0, _ => 0
  | n + 1, k => fx1 / (k * 2 ^ k) + ln2Terms n (k + 1)

def ln2 : Nat := ln2Terms 170 1

/-- e^y for y below one, by `n` Taylor terms: `t` the present term, `k` its index. -/
def expTerms (y : Nat) : Nat → Nat → Nat → Nat
  | 0, _, _ => 0
  | n + 1, k, t => t + expTerms y n (k + 1) (fxMul t y / (k + 1))

/-- 2^f for a fraction f, within 2^10 units. -/
def exp2Frac (f : Nat) : Nat := expTerms (fxMul f ln2) 48 0 fx1

/-- The atanh series: `p` the present odd power of `z`, `k` its exponent. -/
def atanhTerms (z2 : Nat) : Nat → Nat → Nat → Nat
  | 0, _, _ => 0
  | n + 1, k, p => p / k + atanhTerms z2 n (k + 2) (fxMul p z2)

/-- log₂(1 + t) for a fraction t, within 2^10 units. -/
def log2Frac (t : Nat) : Nat :=
  let z := t * fx1 / (2 * fx1 + t)
  2 * atanhTerms (fxMul z z) 60 1 z * fx1 / ln2

/-- The half-width of an enclosure, in units of its fixed point. -/
def sfuSlack : Nat := 2 ^ 14

/-- Rounds a magnitude known only to lie strictly between `lo` and `hi` units of 2^e; the open case is a free value
of the operation, the format, the rounding code and the operand. -/
def settle (f : Fmt) (rs : Rs) (neg : Bool) (lo hi : Nat) (e : Int) (open_ : Nat) : Nat × Flags :=
  let a := f.round rs neg lo e true
  let b := f.round rs neg (hi - 1) e true
  if a = b then a else (open_ % 2 ^ f.width, fInexact)

/-- The same around a computed magnitude that is known to lie strictly between `bot` and `top`. -/
def settleNear (f : Fmt) (rs : Rs) (neg : Bool) (v bot top : Nat) (e : Int) (open_ : Nat) : Nat × Flags :=
  settle f rs neg (max bot (v - sfuSlack)) (min top (v + sfuSlack)) e open_

/-- |x| as fixed point, x = m·2^e; values of 2^16 and more are held at 2^16. -/
def fxOf (m : Nat) (e : Int) : Nat :=
  if e + sfuBits ≥ 0 then (if e + bitLen m > 16 then 2 ^ 16 * fx1 else m * 2 ^ (e + sfuBits).toNat)
  else m / 2 ^ (min (-(e + sfuBits)).toNat 4096)

/-- 2^-y for y ≥ 0 in fixed point: an integer n and a fraction v in (1/2, 1] with 2^-y = v·2^-n. -/
def exp2Neg (y : Nat) : Nat × Nat :=
  let n := y / fx1
  let f := y % fx1
  if f = 0 then (n, fx1) else (n, exp2Frac (fx1 - f) / 2)

/-- |x| / ln 2 in fixed point, times `k`. -/
def perLn2 (k m : Nat) (e : Int) : Nat := k * fxOf m e * fx1 / ln2

/-- RCP (R377). -/
def sfuRcp (f : Fmt) (rs : Rs) (x : Val) : Nat × Flags :=
  match x with
  | .nan => (f.nan, fNanIn)
  | .inf n => (f.sign n, 0)
  | .num n m e => if m = 0 then (f.inf n, fDivZero) else f.divNum rs n 1 0 m e

/-- RSQ: the root of the quotient, floored, with what is left below it (R377). -/
def sfuRsq (f : Fmt) (rs : Rs) (x : Val) : Nat × Flags :=
  match x with
  | .nan => (f.nan, fNanIn)
  | .inf n => if n then (f.nan, fInvalid) else (0, 0)
  | .num n m e =>
    if m = 0 then (f.inf n, fDivZero)
    else if n then (f.nan, fInvalid)
    else
      let odd := e % 2 ≠ 0
      let m' := if odd then 2 * m else m
      let e' := if odd then e - 1 else e
      let q := 2 ^ 240 / m'
      let r := isqrt q
      f.round rs false r (-(e' / 2) - 120) (r * r * m' ≠ 2 ^ 240)

/-- EXP2 (R377). -/
def sfuExp2 (f : Fmt) (rs : Rs) (x : Val) (open_ : Nat) : Nat × Flags :=
  match x with
  | .nan => (f.nan, fNanIn)
  | .inf n => if n then (0, 0) else (f.inf false, 0)
  | .num n m e =>
    if m = 0 then f.round rs false 1 0 false
    else
      let y := fxOf m e
      let whole : Bool := e ≥ 0 || m % 2 ^ (-e).toNat = 0
      if whole then
        let k := min (y / fx1) 4096
        f.round rs false 1 (if n then -(k : Int) else k) false
      else if y = 0 then (if n then settle f rs false (fx1 - 1) fx1 (-(sfuBits : Int)) open_
        else settle f rs false fx1 (fx1 + 2) (-(sfuBits : Int)) open_)
      else
        let k := y / fx1
        let fr := y % fx1
        if n then settleNear f rs false (exp2Frac (fx1 - fr)) fx1 (2 * fx1) (-(sfuBits : Int) - 1 - k) open_
        else settleNear f rs false (exp2Frac fr) fx1 (2 * fx1) (-(sfuBits : Int) + k) open_

/-- LOG2 (R377). -/
def sfuLog2 (f : Fmt) (rs : Rs) (x : Val) (open_ : Nat) : Nat × Flags :=
  match x with
  | .nan => (f.nan, fNanIn)
  | .inf n => if n then (f.nan, fInvalid) else (f.inf false, 0)
  | .num n m e =>
    if m = 0 then (f.inf true, fDivZero)
    else if n then (f.nan, fInvalid)
    else
      let k : Int := e + (bitLen m - 1 : Nat)
      let t := m * fx1 / 2 ^ (bitLen m - 1) - fx1
      if t = 0 then f.round rs (k < 0) k.natAbs 0 false
      else
        let v : Int := k * fx1 + log2Frac t
        settleNear f rs (v < 0) v.natAbs 0 (v.natAbs + fx1) (-(sfuBits : Int)) open_

/-- TANH: (1 − q)/(1 + q) with q = e^(−2|x|); a small operand between x − x³/3 and x (R377). -/
def sfuTanh (f : Fmt) (rs : Rs) (x : Val) (open_ : Nat) : Nat × Flags :=
  match x with
  | .nan => (f.nan, fNanIn)
  | .inf n => f.round rs n 1 0 false
  | .num n m e =>
    if m = 0 then (f.sign n, 0)
    else if e + bitLen m < -24 then
      let hi := m * 2 ^ 120
      let lo := hi - (hi / 2 ^ 47 + 1)
      settle f rs n lo hi (e - 120) open_
    else
      let (k, v) := exp2Neg (perLn2 2 m e)
      let q := v / 2 ^ (min k 4096)
      if q < sfuSlack then settle f rs n (fx1 - 2 * sfuSlack) fx1 (-(sfuBits : Int)) open_
      else settleNear f rs n ((fx1 - q) * fx1 / (fx1 + q)) 0 fx1 (-(sfuBits : Int)) open_

/-- SIG: 1/(1 + q) or q/(1 + q) with q = e^(−|x|) = v·2^-k (R377). -/
def sfuSig (f : Fmt) (rs : Rs) (x : Val) (open_ : Nat) : Nat × Flags :=
  match x with
  | .nan => (f.nan, fNanIn)
  | .inf n => if n then (0, 0) else f.round rs false 1 0 false
  | .num n m e =>
    if m = 0 then f.round rs false 1 (-1) false
    else
      let (k0, v) := exp2Neg (perLn2 1 m e)
      let k := min k0 4096
      let q := v / 2 ^ k
      if n then settleNear f rs false (v * fx1 / (fx1 + q)) 0 (if k = 0 then fx1 / 2 else fx1) (-(sfuBits : Int) - k) open_
      else if q < sfuSlack then settle f rs false (fx1 - 2 * sfuSlack) fx1 (-(sfuBits : Int)) open_
      else settleNear f rs false (fx1 * fx1 / (fx1 + q)) (fx1 / 2) fx1 (-(sfuBits : Int)) open_

/-- A special function by its opcode. -/
def sfu (op : Nat) (fmt : Nat) (f : Fmt) (rs : Rs) (n : Nat) : Nat × Flags :=
  let x := f.read n
  let open_ := Config.sfuOpen op fmt (rs.mode + 4 * bit1 rs.sat) n
  match op with
  | 0x12 => sfuRcp f rs x
  | 0x13 => sfuRsq f rs x
  | 0x14 => fpSqrt rs f x
  | 0x15 => sfuExp2 f rs x open_
  | 0x16 => sfuLog2 f rs x open_
  | 0x17 => sfuTanh f rs x open_
  | _ => sfuSig f rs x open_

end Sys2Proof.Machine
end

