-- ==== Sys2Proof/Machine/Cells.lean ====
section
/-! DEFINITION. Element-wise cells, special functions, conversions, scaling, reductions and moves (chapter 17,
R368-R385). -/

namespace Sys2Proof.Machine

/-! ### Shared by the element-wise cells (R368-R371) -/

/-- The predicate input is in use (R196). -/
def Ctx.predicated (c : Ctx) : Bool := c.w.pred ≠ 0

/-- A cell's header checks and the header it sends on (R368-R370): accepted format, agreeing formats on the inputs of
`same`, no scale unless `scaled`; format A becomes `res` where it is given. -/
def cellHdr (c : Ctx) (same : List Nat) (scaled : Bool) (res : Option Nat) : Except Nat (List (Nat × Token)) :=
  match c.hdr 0 with
  | none => .error 5
  | some h =>
    let all := (List.range 3).filterMap (fun i => if c.streams i then c.hdr i else none)
    let agree := same.all (fun i => !c.streams i || (match c.hdr i with | some g => hdrFmtA g = hdrFmtA h | none => true))
    if c.w.fmt.toNat = 15 && (!fmtOk c.op c.fmt || !agree) then .error 5
    else if !scaled && all.any (fun g => hdrScale g % 4 ≠ 0) then .error 5
    else
      let h1 := match res with
        | some f => hdrSet h 8 4 f
        | none => if c.w.fmt.toNat ≠ 15 then hdrSet h 8 4 c.w.fmt.toNat else h
      .ok [(0, h1)]

/-- The operations record of a cell without state: inputs, IDX inputs, firing, header. -/
def statelessOps (data idx : List Nat) (fire : Ctx → Fired) (hdr : Ctx → Except Nat (List (Nat × Token))) : CellOps :=
  { data := data, idx := idx, frameOuts := [0], fire := fire, hdr := hdr, flush := fun c => ([], c.x.st), sot := fun c => c.x.st,
    kill := fun c => c.x.st, eot := fun c => .go [] c.x.st 0 [] }

/-- A firing's tokens at one width, operands first, then the predicate. -/
def Ctx.operands (c : Ctx) (ins : List Nat) (w : Nat) : List Token := ins.map (fun i => c.tok i w)

/-- Whether any token a firing consumes is VOID (R150). -/
def Ctx.anyVoid (c : Ctx) (ins : List Nat) : Bool :=
  ins.any (fun i => c.streams i && (match c.head i with | some t => t.void | none => false))

/-- LAST of input a, which a result carries on. -/
def Ctx.lastA (c : Ctx) : Bool := match c.head 0 with | some t => t.last | none => false

/-- The firing of an element-wise cell (R196, R197, R371): dead elements are zero, off elements pass the pass-through
input, on elements take `f`. -/
def laneFire (ins : List Nat) (pass : Nat) (f : Ctx → List Nat → Nat × Flags) (c : Ctx) : Fired :=
  let w := fmtWidth c.fmt
  let used := if c.predicated then ins ++ [2] else ins
  let toks := c.operands ins w
  let pt := c.tok pass w
  if c.anyVoid used then .go [(0, mkTok .data pt.pay pt.mask c.lastA true)] c.x.st 0 []
  else
    let pr := c.tok 2 w
    let res := (List.range (512 / w)).map (fun j =>
      let live := toks.all (fun t => t.live w j) && (!c.predicated || pr.live w j)
      let on := !c.predicated || ((pr.elem w j ≠ 0) = (c.w.pred = 1))
      if !live then ((0, false), (0 : Flags))
      else if !on then ((pt.elem w j, true), 0)
      else let (v, fl) := f c (toks.map (fun t => t.elem w j)); ((v, true), fl))
    .go [(0, packBeat w (res.map (fun r => r.1)) c.lastA false)] c.x.st ((res.map (fun r => r.2)).foldl (fun a b => a ||| b) 0) []

/-- An element-wise cell over the inputs `ins`, its header kept or renamed by `res`. -/
def laneOps (w : CellF) (ins : List Nat) (pass : Nat) (same : List Nat) (res : Ctx → Option Nat)
    (f : Ctx → List Nat → Nat × Flags) : CellOps :=
  statelessOps (if w.pred ≠ 0 then ins ++ [2] else ins) [] (laneFire ins pass f)
    (fun c => cellHdr c same false (res c))

def noRes (_ : Ctx) : Option Nat := none

/-- The signed or unsigned integer of an element (R175). -/
def elemInt (fmt n : Nat) : Int := if fmt = 10 then (n : Int) else signed (fmtWidth fmt) n

/-- An exact integer in an integer format (R185). -/
def intOut (fmt : Nat) (rs : Rs) (v : Int) : Nat × Flags := fitInt (fmtWidth fmt) (fmt ≠ 10) rs.sat v

/-- Arithmetic on elements: floating by one operation, integers by another (R372). -/
def elemArith (g : Rs → Fmt → List Val → Nat × Flags) (h : List Int → Int) (c : Ctx) (xs : List Nat) : Nat × Flags :=
  match floatFmt c.fmt with
  | some f => g c.rs f (xs.map f.read)
  | none => intOut c.fmt c.rs (h (xs.map (elemInt c.fmt)))

def v2 (f : Val → Val → Nat × Flags) : List Val → Nat × Flags
  | [x, y] => f x y
  | _ => (0, 0)

def i2 (f : Int → Int → Int) : List Int → Int
  | [x, y] => f x y
  | _ => 0

/-- A cell of two operands a and b. -/
def arith2 (n : Node) (w : CellF) (op : Nat) (g : Rs → Fmt → Val → Val → Nat × Flags) (h : Int → Int → Int) (s : State) : Out :=
  runCell n w op (laneOps w [0, 1] 0 [1] noRes (elemArith (fun rs f => v2 (g rs f)) (i2 h))) s

/-! ### Arithmetic (R372-R374) -/

/-- ADD (R372). -/
def execCellAdd (n : Node) (w : CellF) (s : State) : Out := arith2 n w 0x01 fpAdd (fun x y => x + y) s

/-- SUB (R372). -/
def execCellSub (n : Node) (w : CellF) (s : State) : Out := arith2 n w 0x02 fpSub (fun x y => x - y) s

/-- MUL (R372). -/
def execCellMul (n : Node) (w : CellF) (s : State) : Out := arith2 n w 0x03 fpMul (fun x y => x * y) s

/-- MAC: one rounding (R372). -/
def execCellMac (n : Node) (w : CellF) (s : State) : Out :=
  runCell n w 0x04 (laneOps w [0, 1, 2] 2 [1, 2] noRes (elemArith
    (fun rs f l => match l with | [x, y, z] => fpMac rs f x y z | _ => (0, 0))
    (fun l => match l with | [x, y, z] => x * y + z | _ => 0))) s

/-- The lesser or the greater of two elements (R374). -/
def elemPick (greater : Bool) (c : Ctx) (xs : List Nat) : Nat × Flags :=
  match xs with
  | [x, y] => match floatFmt c.fmt with
    | some f => fpPick greater f x y (f.read x) (f.read y)
    | none => (if (elemInt c.fmt x < elemInt c.fmt y) != greater then x else y, 0)
  | _ => (0, 0)

/-- MIN (R374). -/
def execCellMin (n : Node) (w : CellF) (s : State) : Out := runCell n w 0x05 (laneOps w [0, 1] 0 [1] noRes (elemPick false)) s

/-- MAX (R374). -/
def execCellMax (n : Node) (w : CellF) (s : State) : Out := runCell n w 0x06 (laneOps w [0, 1] 0 [1] noRes (elemPick true)) s

/-- The sign bit cleared or flipped; integers by their value (R374). -/
def elemSign (flip : Bool) (c : Ctx) (xs : List Nat) : Nat × Flags :=
  match xs with
  | [x] => match floatFmt c.fmt with
    | some f =>
      if (f.read x).isNan then (f.nan, fNanIn)
      else
        let top := 2 ^ (f.eb + f.mb)
        (if flip then (x + top) % (2 * top) else x % top, 0)
    | none =>
      let v := elemInt c.fmt x
      if c.fmt = 10 && !flip then (x, 0) else intOut c.fmt c.rs (if flip then -v else (v.natAbs : Int))
  | _ => (0, 0)

/-- ABS (R374). -/
def execCellAbs (n : Node) (w : CellF) (s : State) : Out := runCell n w 0x07 (laneOps w [0] 0 [] noRes (elemSign false)) s

/-- NEG (R374). -/
def execCellNeg (n : Node) (w : CellF) (s : State) : Out := runCell n w 0x08 (laneOps w [0] 0 [] noRes (elemSign true)) s

/-! ### Comparison, selection, bits (R375, R376) -/

/-- The signed integer format of a width (R375). -/
def signedFmt (w : Nat) : Nat := if w = 32 then 6 else if w = 16 then 7 else if w = 8 then 8 else 9

/-- A condition code on "less" and "equal" (R375). -/
def condHolds (cond : Nat) (lt eq : Bool) : Bool :=
  match cond with
  | 0 => eq
  | 1 => !eq
  | 2 => lt
  | 3 => lt || eq
  | 4 => !lt && !eq
  | 5 => !lt
  | _ => false

def elemCmp (c : Ctx) (xs : List Nat) : Nat × Flags :=
  let cond := c.imm % 8
  let ones := 2 ^ fmtWidth c.fmt - 1
  match xs with
  | [x, y] => match floatFmt c.fmt with
    | some f =>
      let a := f.read x
      let b := f.read y
      if a.isNan || b.isNan then
        (if cond = 1 ∨ cond = 6 then ones else 0, fNanIn ||| flagIf (2 ≤ cond && cond ≤ 5) fInvalid)
      else (if condHolds cond (ltVal false a b) (eqVal a b) then ones else 0, 0)
    | none =>
      let a := elemInt c.fmt x
      let b := elemInt c.fmt y
      (if condHolds cond (a < b) (a = b) then ones else 0, 0)
  | _ => (0, 0)

/-- CMP: all ones or zero; format A becomes the signed integer format of the width (R375). -/
def execCellCmp (n : Node) (w : CellF) (s : State) : Out :=
  runCell n w 0x09 (laneOps w [0, 1] 0 [1] (fun c => some (signedFmt (fmtWidth c.fmt))) elemCmp) s

/-- SEL (R375). -/
def execCellSel (n : Node) (w : CellF) (s : State) : Out :=
  runCell n w 0x0A (laneOps w [0, 1, 2] 0 [1] noRes (fun _ xs => match xs with
    | [x, y, z] => (if z ≠ 0 then x else y, 0)
    | _ => (0, 0))) s

/-- A cell on the raw bits of a and b. -/
def bits2 (n : Node) (w : CellF) (op : Nat) (f : Nat → Nat → Nat) (s : State) : Out :=
  runCell n w op (laneOps w [0, 1] 0 [1] noRes (fun _ xs => match xs with | [x, y] => (f x y, 0) | _ => (0, 0))) s

/-- AND (R376). -/
def execCellAnd (n : Node) (w : CellF) (s : State) : Out := bits2 n w 0x0B (fun x y => x &&& y) s

/-- OR (R376). -/
def execCellOr (n : Node) (w : CellF) (s : State) : Out := bits2 n w 0x0C (fun x y => x ||| y) s

/-- XOR (R376). -/
def execCellXor (n : Node) (w : CellF) (s : State) : Out := bits2 n w 0x0D (fun x y => x ^^^ y) s

/-- NOT (R376). -/
def execCellNot (n : Node) (w : CellF) (s : State) : Out :=
  runCell n w 0x0E (laneOps w [0] 0 [] noRes (fun c xs => match xs with | [x] => (2 ^ fmtWidth c.fmt - 1 - x, 0) | _ => (0, 0))) s

/-- A shift of a by the unsigned count b (R376). -/
def shift2 (n : Node) (w : CellF) (op : Nat) (f : Nat → Nat → Nat → Nat → Nat) (s : State) : Out :=
  runCell n w op (laneOps w [0, 1] 0 [1] noRes (fun c xs => match xs with
    | [x, k] => (f c.fmt (fmtWidth c.fmt) x k, 0)
    | _ => (0, 0))) s

/-- SHL (R376). -/
def execCellShl (n : Node) (w : CellF) (s : State) : Out :=
  shift2 n w 0x0F (fun _ b x k => if k < b then x * 2 ^ k % 2 ^ b else 0) s

/-- SHR (R376). -/
def execCellShr (n : Node) (w : CellF) (s : State) : Out := shift2 n w 0x10 (fun _ b x k => if k < b then x / 2 ^ k else 0) s

/-- SRA; as SHR for UINT8 (R376). -/
def execCellSra (n : Node) (w : CellF) (s : State) : Out :=
  shift2 n w 0x11 (fun fmt b x k =>
    if fmt = 10 then (if k < b then x / 2 ^ k else 0) else wrapInt b (signed b x / 2 ^ min k b)) s

/-! ### Special functions (R377) -/

/-- A cell of one special function. -/
def sfuCell (n : Node) (w : CellF) (op : Nat) (s : State) : Out :=
  runCell n w op (laneOps w [0] 0 [] noRes (fun c xs => match xs, floatFmt c.fmt with
    | [x], some f => sfu op c.fmt f c.rs x
    | _, _ => (0, 0))) s

def execCellRcp (n : Node) (w : CellF) (s : State) : Out := sfuCell n w 0x12 s
def execCellRsq (n : Node) (w : CellF) (s : State) : Out := sfuCell n w 0x13 s
def execCellSqrt (n : Node) (w : CellF) (s : State) : Out := sfuCell n w 0x14 s
def execCellExp2 (n : Node) (w : CellF) (s : State) : Out := sfuCell n w 0x15 s
def execCellLog2 (n : Node) (w : CellF) (s : State) : Out := sfuCell n w 0x16 s
def execCellTanh (n : Node) (w : CellF) (s : State) : Out := sfuCell n w 0x17 s
def execCellSig (n : Node) (w : CellF) (s : State) : Out := sfuCell n w 0x18 s

/-! ### Conversions (R378, R379) -/

/-- A value in a target format (R182-R185). -/
def valueOut (tgt : Nat) (rs : Rs) (v : Val) : Nat × Flags :=
  match floatFmt tgt with
  | some f => f.convert rs v
  | none => toInt (fmtWidth tgt) (tgt ≠ 10) rs v

/-- One element from a source format to a target (R378). -/
def convElem (src tgt : Nat) (rs : Rs) (n : Nat) : Nat × Flags :=
  match floatFmt src, floatFmt tgt with
  | some f, _ =>
    let v := f.read n
    if src = tgt && !v.isNan then (n, 0) else valueOut tgt rs v
  | none, some g => g.put rs (ofInt (elemInt src n))
  | none, none => intOut tgt rs (elemInt src n)

/-- Elements of a beat as they go on, with liveness; a VOID beat's are dead (R385). -/
def Ctx.convAll (c : Ctx) (t : Token) (src tgt lo count : Nat) : List (Nat × Bool) × Flags :=
  let w := fmtWidth src
  let rs := (List.range count).map (fun j =>
    if t.void || !t.live w (lo + j) then ((0, false), (0 : Flags))
    else let (v, fl) := convElem src tgt c.rs (t.elem w (lo + j)); ((v, true), fl))
  (rs.map (fun r => r.1), (rs.map (fun r => r.2)).foldl (fun a b => a ||| b) 0)

/-- A partly gathered beat, its unused bytes dead. -/
def padBeat (w : Nat) (es : List (Nat × Bool)) (void : Bool) : Token :=
  packBeat w (es ++ List.replicate (512 / w - es.length) (0, false)) false void

/-- What a gathering cell sends before HDR and EOT (R378). -/
def gatherFlush (w : Nat) (c : Ctx) : List (Nat × Token) × OpSt :=
  match c.x.st with
  | .gather es void _ => (if es.isEmpty then [] else [(0, padBeat w es void)], .gather [] false 0)
  | st => ([], st)

/-- A gathering cell takes more elements: full beats leave. -/
def gatherMore (w : Nat) (es more : List (Nat × Bool)) (void : Bool) : List (Nat × Token) × OpSt :=
  let all := es ++ more
  let n := 512 / w
  if all.length < n then ([], .gather all void 0)
  else ([(0, packBeat w (all.take n) false void)], .gather (all.drop n) (void && all.length > n) 0)

/-- CVT's firing: one to one, gathering, or one of the firings of a widening (R378). -/
def cvtFire (c : Ctx) : Fired :=
  match c.head 0, c.x.st with
  | some t, .gather es void sub =>
    let src := c.src
    let tgt := c.fmt
    let wi := fmtWidth src
    let wo := fmtWidth tgt
    if wi = wo then
      let (vs, fl) := c.convAll t src tgt 0 (512 / wi)
      .go [(0, packBeat wo vs t.last t.void)] c.x.st fl []
    else if wi > wo then
      let (vs, fl) := c.convAll t src tgt 0 (512 / wi)
      let (out, st) := gatherMore wo es vs (void || t.void)
      .go out st fl []
    else
      let n := 512 / wo
      let (vs, fl) := c.convAll t src tgt (sub * n) n
      let more := sub + 1 < wo / wi
      .go [(0, packBeat wo vs (t.last && !more) t.void)] (.gather [] false (if more then sub + 1 else 0)) fl (if more then [0] else [])
  | _, _ => .wait

/-- The operations record of a gathering cell: flushed before HDR and EOT, emptied by KILL. -/
def gatherOps (width : Ctx → Nat) (fire : Ctx → Fired) (hdr : Ctx → Except Nat (List (Nat × Token))) : CellOps :=
  { data := [0], idx := [], frameOuts := [0], fire := fire, hdr := hdr, flush := fun c => gatherFlush (width c) c,
    sot := fun _ => .gather [] false 0, kill := fun _ => .gather [] false 0,
    eot := fun c => let (out, st) := gatherFlush (width c) c; .go out st 0 [] }

/-- CVT (R378). -/
def execCellCvt (n : Node) (w : CellF) (s : State) : Out :=
  runCell n w 0x19 (gatherOps (fun c => fmtWidth c.fmt) cvtFire (fun c => cellHdr c [] false (some c.fmt))) s

/-- A pairing of widths that PACK or UNPACK requires (R368, R379). -/
def pairHdr (c : Ctx) (same : List Nat) (ok : Nat → Nat → Bool) : Except Nat (List (Nat × Token)) :=
  if !ok (fmtWidth c.src) (fmtWidth c.fmt) ∨ c.fmt > 10 then .error 5 else cellHdr c same false (some c.fmt)

/-- PACK: a's elements, then b's, at half the width (R379). With a VOID input the whole result is void, as R371 says (DEDUCED,
assumption 159). -/
def execCellPack (n : Node) (w : CellF) (s : State) : Out :=
  runCell n w 0x20 (statelessOps [0, 1] [] (fun c =>
    let wi := fmtWidth c.src
    let a := c.tok 0 wi
    let b := c.tok 1 wi
    let (x, f) := c.convAll a c.src c.fmt 0 (512 / wi)
    let (y, g) := c.convAll b c.src c.fmt 0 (512 / wi)
    if c.anyVoid [0, 1] then .go [(0, voidTok .data c.lastA)] c.x.st 0 []
    else .go [(0, packBeat (fmtWidth c.fmt) (x ++ y) c.lastA false)] c.x.st (f ||| g) [])
    (fun c => pairHdr c [1] (fun wi wo => wi = 2 * wo))) s

/-- UNPACK: the half of a's elements that IMM names, at twice the width (R379). -/
def execCellUnpack (n : Node) (w : CellF) (s : State) : Out :=
  runCell n w 0x21 (statelessOps [0] [] (fun c =>
    let wi := fmtWidth c.src
    let half := 256 / wi
    let (x, f) := c.convAll (c.tok 0 wi) c.src c.fmt (c.imm % 2 * half) half
    if c.anyVoid [0] then .go [(0, voidTok .data c.lastA)] c.x.st 0 []
    else .go [(0, packBeat (fmtWidth c.fmt) x c.lastA false)] c.x.st f [])
    (fun c => pairHdr c [] (fun wi wo => wo = 2 * wi))) s

/-! ### SCALE (R187-R190, R380) -/

/-- An element times its block scale and its tile scale, exactly (R190): block byte, FP32 tile scale. -/
def scaledVal (x : Val) (block : Option Nat) (tile : Option Nat) : Val × Flags :=
  if x.isNan then (.nan, fNanIn)
  else if block = some 255 then (.nan, 0)
  else
    let y := match x, block with
      | .num n m e, some b => .num n m (e + b - 127)
      | v, _ => v
    match tile with
    | none => (y, 0)
    | some t => mulVals y (fp32.read t)

/-- The block of element `x` of a tile of `cols` columns (R189). -/
def blockOf (axis cols x : Nat) : Nat :=
  let i := x / cols
  let j := x % cols
  if axis = 0 then i * ((cols + 31) / 32) + j / 32 else i / 32 * cols + j

def bytesOf (t : Token) : List Byte := natBytes 64 t.pay.toNat

/-- SCALE on a DATA beat of a: a sidecar beat is dropped; a scale byte not held waits for the next beat of b; otherwise
the elements leave at the target's width (R380). An infinite element of a tile scale 0 raises invalid alone (R190). -/
def scaleData (c : Ctx) (a : Token) (bytes : List Byte) (taken pos side : Nat) : State :=
  match c.hdr 0 with
  | none => c.fail 5
  | some h =>
    let (rows, cols, kind, axis, ts) := tileOf h
    let src := hdrFmtA h
    let wi := fmtWidth src
    let wo := fmtWidth c.fmt
    let n := 512 / wi
    let total := rows * cols
    let blocked := kind = 1 || kind = 3
    if pos ≥ total then c.done [0] [] (.scale bytes taken pos (side + 1)) 0 (fun x => x)
    else
      let last := min (pos + n) total - 1
      let need := if axis = 0 then blockOf axis cols last else last / cols / 32 * cols + (if last / cols > pos / cols then cols - 1 else last % cols)
      if blocked && need ≥ 64 * taken then
        match c.head 1 with
        | none => c.s
        | some b => if b.kind = .data then c.done [1] [] (.scale (bytes ++ bytesOf b) (taken + 1) pos side) 0 (fun x => x) else c.fail 4
      else if !c.room then c.s
      else
        let rs := (List.range n).map (fun j =>
          if a.void || !a.live wi j || pos + j ≥ total then ((0, false), (0 : Flags))
          else match floatFmt src with
            | none => ((0, false), 0)
            | some f =>
              let blk := if blocked then some ((bytes.getD (blockOf axis cols (pos + j)) 0).toNat) else none
              let (v, fl) := scaledVal (f.read (a.elem wi j)) blk (if kind ≥ 2 then some ts else none)
              let (o, g) := valueOut c.fmt c.rs v
              ((o, true), if fl &&& fInvalid = 0 then fl ||| g else fl ||| (g &&& ~~~fNanIn)))
        let es := rs.map (fun r => r.1)
        let fl := (rs.map (fun r => r.2)).foldl (fun p q => p ||| q) 0
        let m := 512 / wo
        if wi ≤ wo then
          let out := (List.range (wo / wi)).map (fun k => (0, packBeat wo ((es.drop (k * m)).take m) false a.void))
          c.done [0] out (.scale bytes taken (pos + n) side) fl (fun x => x)
        else
          -- narrowing gathers in the last place of the site's results until a beat is full
          let held := c.x.out.find? (fun o => o.1 = 3)
          let prev := match held with | some (_, t) => (List.range m).map (fun j => (t.elem wo j, t.live wo j)) | none => []
          let got := (pos / n) % (wi / wo) * n
          let all := prev.take got ++ es
          let void := a.void || (match held with | some (_, t) => t.void | none => false)
          let full := all.length ≥ m
          let c1 := { c with s := c.s.updSite c.x.node (fun x => { x with out := x.out.filter (fun o => o.1 ≠ 3) }) }
          let s1 := c1.done [0] (if full then [(0, packBeat wo (all.take m) false void)] else []) (.scale bytes taken (pos + n) side) fl (fun x => x)
          if full then s1 else s1.updSite c.x.node (fun x => { x with out := x.out ++ [(3, padBeat wo all void)] })

/-- A held partial beat leaves before a header or EOT. -/
def scaleFlush (c : Ctx) : List (Nat × Token) :=
  (c.x.out.filter (fun o => o.1 = 3)).map (fun o => (0, o.2))

/-- The sidecar of the tile on a is complete, or the tile has none (R189). -/
def sidecarDone (c : Ctx) (side : Nat) : Bool :=
  match c.hdr 0 with
  | none => true
  | some h =>
    let (rows, cols, kind, axis, _) := tileOf h
    (kind ≠ 1 && kind ≠ 3) || side = (blockCount axis rows cols + 63) / 64

def scaleOps : CellOps :=
  { data := [0, 1], idx := [], frameOuts := [0], fire := fun _ => .wait,
    hdr := fun c =>
      match c.hdr 0, c.hdr 1 with
      | some h, some g =>
        if hdrFmtA h > 5 ∨ c.fmt > 10 ∨ hdrFmtA g ≠ 10 ∨ (hdrScale h ≥ 4 ∧ hdrCols h > 64) then .error 5
        else .ok [(0, hdrSet (hdrSet (hdrSet h 8 4 c.fmt) 16 3 0) 64 32 0)]
      | _, _ => .error 5,
    flush := fun c => (scaleFlush c, .scale [] 0 0 0),
    sot := fun _ => .scale [] 0 0 0, kill := fun _ => .scale [] 0 0 0,
    eot := fun c => .go (scaleFlush c) (.scale [] 0 0 0) 0 [] }

/-- One step of SCALE: b is consumed when an element of a needs it; a framing token on a needs the same on b (R380). -/
def scaleStep (c0 : Ctx) : State :=
  let c := checkHeads c0 [0, 1]
  match c.head 0, c.head 1, c.x.st with
  | a, b, .scale bytes taken pos side =>
    let killed := [a, b].any (fun o => match o with | some t => t.kind = .kill | none => false)
    let wrong := [a, b].any (fun o => match o with | some t => kindBad scaleOps 0 t.kind | none => false)
    if rollDue c.s c.place then c.s
    else if killed then killStep c scaleOps [0, 1]
    else if wrong then c.fail 3
    else match a, b with
      | some t, some u =>
        if t.kind.framing then
          if u.kind ≠ t.kind then c.fail 4
          else if !c.room then c.s
          else if t.kind ≠ .mark && !sidecarDone c side then c.fail 5
          else
            let drop (s : State) : State := s.updSite c.x.node (fun x => { x with out := x.out.filter (fun o => o.1 ≠ 3) })
            if t.kind = .mark then frameStep c scaleOps [0, 1] t
            else frameStep { c with s := drop c.s } scaleOps [0, 1] t
        else if !c.x.segOpen then c.fail 4
        else scaleData c t bytes taken pos side
      | some t, none => if t.kind.framing then c.s else if !c.x.segOpen then c.fail 4 else scaleData c t bytes taken pos side
      | none, _ => c.s
  | _, _, _ => c.s

/-- SCALE (R380). -/
def execCellScale (n : Node) (w : CellF) (s : State) : Out :=
  match siteCtx s n 0x1A w with
  | some c => .next (scaleStep c)
  | none => .next (nudge s n false)

/-! ### Reductions and accumulation (R381, R382) -/

/-- The sum of the live elements, rounded once (R381): FP32 or INT32. -/
def sumElems (fmt : Nat) (rs : Rs) (xs : List Nat) : Nat × Flags :=
  match floatFmt fmt with
  | some f =>
    let vs := xs.map f.read
    if xs.isEmpty then (0, 0) else fpResult fp32 rs vs (sumVals rs.mode vs)
  | none => fitInt 32 true rs.sat ((xs.map (elemInt fmt)).foldl (fun a b => a + b) 0)

/-- The greatest of the live elements (R381). -/
def maxElems (fmt : Nat) (c : Ctx) : List Nat → Nat × Flags
  | [] => (0, 0)
  | [x] => match floatFmt fmt with
    | some f => if (f.read x).isNan then (f.nan, fNanIn) else (x, 0)
    | none => (x, 0)
  | x :: l =>
    let (m, fl) := maxElems fmt c l
    match floatFmt fmt with
    | some f => if (f.read x).isNan || fl ≠ 0 then (f.nan, fNanIn) else ((elemPick true c [x, m]).1, 0)
    | none => ((elemPick true c [x, m]).1, 0)

/-- The live elements of a beat; none of a VOID beat (R385). -/
def liveElems (t : Token) (w : Nat) : List Nat :=
  if t.void then [] else ((List.range (512 / w)).filter (fun j => t.live w j)).map (fun j => t.elem w j)

/-- The header of a reduction: format A, COLS 1, ROWS the number of beats (R381). -/
def reduceHdr (c : Ctx) (res : Nat) : Except Nat (List (Nat × Token)) :=
  match cellHdr c [] false (some res), c.hdr 0 with
  | .ok _, some h =>
    let rows := (hdrRows h * hdrCols h * fmtWidth c.fmt + 511) / 512
    if rows > 65535 then .error 5 else .ok [(0, hdrSet (hdrSet (hdrSet h 8 4 res) 48 16 1) 32 16 rows)]
  | .error e, _ => .error e
  | _, _ => .error 5

/-- The format of RSUM's result. -/
def sumFmt (fmt : Nat) : Nat := if fmt ≤ 5 then 0 else 6

/-- RSUM (R381). -/
def execCellRsum (n : Node) (w : CellF) (s : State) : Out :=
  runCell n w 0x1B (gatherOps (fun _ => 32) (fun c =>
    match c.head 0, c.x.st with
    | some t, .gather es void _ =>
      let (v, fl) := sumElems c.fmt c.rs (liveElems t (fmtWidth c.fmt))
      let (out, st) := gatherMore 32 es [(v, true)] (void || t.void)
      .go out st fl []
    | _, _ => .wait) (fun c => reduceHdr c (sumFmt c.fmt))) s

/-- RMAX (R381). -/
def execCellRmax (n : Node) (w : CellF) (s : State) : Out :=
  runCell n w 0x1C (gatherOps (fun c => fmtWidth c.fmt) (fun c =>
    match c.head 0, c.x.st with
    | some t, .gather es void _ =>
      let xs := liveElems t (fmtWidth c.fmt)
      let (v, fl) := maxElems c.fmt c xs
      let (out, st) := gatherMore (fmtWidth c.fmt) es [(v, !xs.isEmpty)] (void || t.void)
      .go out st fl []
    | _, _ => .wait) (fun c => reduceHdr c c.fmt)) s

/-- An empty accumulator (R382). -/
def accEmpty : OpSt := .acc (List.replicate 16 0) 0 false

/-- What ACC sends: its lanes, those not filled dead. -/
def accSend (lanes : List (BitVec 32)) (filled : BitVec 16) (void : Bool) : List (Nat × Token) :=
  [(0, packBeat 32 ((List.range 16).map (fun l => ((lanes.getD l 0).toNat, filled.getLsbD l))) false void)]

/-- ACC's firing: one rounding a beat, and the emission on LAST or with IMM (R382). -/
def accFire (c : Ctx) : Fired :=
  match c.head 0, c.x.st with
  | some t, .acc lanes filled void =>
    let step (l : Nat) : (BitVec 32 × Bool) × Flags :=
      let old := lanes.getD l 0
      if t.void || !t.live 32 l then ((old, filled.getLsbD l), 0)
      else
        let (v, fl) := elemArith (fun rs f => v2 (fpAdd rs f)) (i2 (fun x y => x + y)) c [old.toNat, t.elem 32 l]
        ((BitVec.ofNat 32 v, true), fl)
    let rs := (List.range 16).map step
    let lanes' := rs.map (fun r => r.1.1)
    let filled' := BitVec.ofNat 16 (packMask 8 (rs.map (fun r => (0, r.1.2))))
    let fl := (rs.map (fun r => r.2)).foldl (fun a b => a ||| b) 0
    let last := if c.uses 1 then (c.streams 1 && (match c.head 1 with | some b => b.last | none => false)) else t.last
    if c.imm % 2 = 1 || last then .go (accSend lanes' filled' (void || t.void)) accEmpty fl []
    else .go [] (.acc lanes' filled' (void || t.void)) fl []
  | _, _ => .wait

/-- ACC's emission at EOT (R382). -/
def accEot (c : Ctx) : Fired :=
  match c.x.st with
  | .acc lanes filled void => if filled = 0 then .go [] accEmpty 0 [] else .go (accSend lanes filled void) accEmpty 0 []
  | st => .go [] st 0 []

/-- ACC (R382). -/
def execCellAcc (n : Node) (w : CellF) (s : State) : Out :=
  runCell n w 0x1D
    { data := [0, 1], idx := [1], frameOuts := [0], fire := accFire, hdr := fun c => cellHdr c [] false none,
      flush := fun c => ([], c.x.st), sot := fun _ => accEmpty, kill := fun _ => accEmpty, eot := accEot } s

/-! ### Moves (R383, R384) -/

/-- PERM: container ℓ is container i of a, i from lane ℓ of b (R383). -/
def permFire (c : Ctx) : Fired :=
  let a := c.tok 0 32
  let b := c.tok 1 32
  if c.anyVoid [0, 1] then .go [(0, voidTok .data c.lastA)] c.x.st 0 []
  else
    let lane (l : Nat) : Nat × Nat :=
      let i := b.lane l
      if i < 16 && b.laneLive l then (a.lane i, bitsOf a.mask.toNat (4 * i) 4) else (0, 0)
    let ls := (List.range 16).map lane
    let pay := packVals 32 (ls.map (fun x => (x.1, true)))
    let mask := packVals 4 (ls.map (fun x => (x.2, true)))
    .go [(0, mkTok .data (BitVec.ofNat 512 pay) (BitVec.ofNat 64 mask) c.lastA false)] c.x.st 0 []

def execCellPerm (n : Node) (w : CellF) (s : State) : Out :=
  runCell n w 0x1E (statelessOps [0, 1] [1] permFire (fun c => cellHdr c [] false none)) s

/-- BCAST: every element is element IMM mod n of a (R384). -/
def execCellBcast (n : Node) (w : CellF) (s : State) : Out :=
  runCell n w 0x1F (statelessOps [0] [] (fun c =>
    let b := fmtWidth c.fmt
    let t := c.tok 0 b
    let j := c.imm % (512 / b)
    if c.anyVoid [0] then .go [(0, voidTok .data c.lastA)] c.x.st 0 []
    else .go [(0, packBeat b (List.replicate (512 / b) (t.elem b j, t.live b j)) c.lastA false)] c.x.st 0 [])
    (fun c => cellHdr c [] false none)) s

/-- CONST: a beat of the slot IMM names per trigger (R384). -/
def execCellConst (n : Node) (w : CellF) (s : State) : Out :=
  runCell n w 0x22 (statelessOps [0] [] (fun c =>
    let b := fmtWidth c.fmt
    if c.anyVoid [0] then .go [(0, voidTok .data c.lastA)] c.x.st 0 []
    else .go [(0, packBeat b (List.replicate (512 / b) (c.slot (c.imm % 4) % 2 ^ b, true)) c.lastA false)] c.x.st 0 [])
    (fun c => cellHdr c [] false none)) s

/-- PASS: a goes on unchanged, tiles of any scale mode too, whose sidecars are to be whole (R189, R384); a predicate input is
consumed in step. -/
def execCellPass (n : Node) (w : CellF) (s : State) : Out :=
  match siteCtx s n 0x23 w with
  | none => .next (nudge s n false)
  | some c =>
  if !rollDue s c.place && (match c.head 0 with | some t => sidecarShort (c.hdr 0) c.x.beats t.kind | none => false) then .next (c.fail 5)
  else runCell n w 0x23 (statelessOps (if w.pred ≠ 0 then [0, 2] else [0]) [] (fun c =>
    match c.head 0 with
    | some t => .go [(0, { t with void := t.void || c.anyVoid (if w.pred ≠ 0 then [0, 2] else [0]) })] c.x.st 0 []
    | none => .wait) (fun c => cellHdr c [] true none)) s

end Sys2Proof.Machine
end

