-- ==== Sys2Proof/Machine/Flow.lean ====
section
/-! DEFINITION. Flow and framing cells: FILTER, COUNT, LOOP, FORK, JOIN, FENCE, MSEQ, HDRGEN, MARKIN, FLAGS and SEGIN
(R386-R393, R399, R400, R405, R407-R410). -/

namespace Sys2Proof

/-- The containers of a beat. -/
def Token.conts (t : Token) : List Machine.Cont :=
  (List.range 16).map (fun i =>
    { val := BitVec.ofNat 32 (t.lane i), live := BitVec.ofNat 4 (bitsOf t.mask.toNat (4 * i) 4), void := t.void })

end Sys2Proof

namespace Sys2Proof.Machine

/-- A step of a node that meets its tokens in its own way. -/
def runNode (n : Node) (w : CellF) (op : Nat) (f : Ctx → State) (s : State) : Out :=
  match siteCtx s n op w with
  | some c => .next (f c)
  | none => .next (nudge s n false)

/-- An input holds a token whose kind satisfies `p`. -/
def Ctx.headIs (c : Ctx) (i : Nat) (p : Kind → Bool) : Bool := match c.head i with | some t => p t.kind | none => false

/-- A beat of containers from the low end; what is beyond them is dead (R162). -/
def contBeat (kind : Kind) (cs : List Cont) (last : Bool) : Token :=
  let val (l : List Cont) : Nat := (l.map (fun c => c.val.toNat)).foldr (fun v n => v + 2 ^ 32 * n) 0
  let live (l : List Cont) : Nat := (l.map (fun c => c.live.toNat)).foldr (fun v n => v + 2 ^ 4 * n) 0
  mkTok kind (BitVec.ofNat 512 (val cs)) (BitVec.ofNat 64 (live cs)) last (cs.any (fun c => c.void))

/-- The framing tokens and KILL that head an input of orders or confirmations are dropped on arrival, but for an EOT that
stands for DONE (R386). -/
def Ctx.drops (c : Ctx) (i : Nat) (eot : Bool) : Bool :=
  match c.head i with
  | some t => t.kind.framing && !(eot && t.kind = .eot)
  | none => false

/-- Input `i` is fed by output 1 of a memory tile, the EOT of a writing command (R354, R400, R401). -/
def Ctx.fromWriter (c : Ctx) (i : Nat) : Bool :=
  match c.folio.source c.folio.span c.x.node.x c.x.node.y (c.sel i) with
  | some (u, v, code) => code = 0x09 && siteKind c.folio.cls u v = .tile
  | none => false

/-- The heads of some inputs are discarded. -/
def Ctx.discard (c : Ctx) (is : List Nat) : State := c.s.updSite c.x.node (fun x => { x.eat is with lastActive := c.s.cycle })

/-! ### FILTER (R162, R390) -/

/-- Full beats cut from an arm, and what stays. -/
def armBeats (out : Nat) : Nat → List Cont → List (Nat × Token) × List Cont
  | 0, l => ([], l)
  | k + 1, l =>
    if l.length < 16 then ([], l)
    else
      let (ts, r) := armBeats out k (l.drop 16)
      ((out, contBeat .data (l.take 16) false) :: ts, r)

def filterFire (c : Ctx) : Fired :=
  match c.x.st with
  | .filter a0 a1 =>
    let a := c.tok 0 32
    let b := c.tok 1 32
    let void := a.void || b.void
    let arm (i : Nat) : Bool := a.laneLive i && b.laneLive i && b.lane i ≠ 0
    let cs := a.conts.map (fun x => { x with void := void })
    let pick (k : Bool) : List Cont := ((List.range 16).zip cs).filterMap (fun p => if arm p.1 = k then some p.2 else none)
    let (t0, r0) := armBeats 0 2 (a0 ++ pick false)
    let (t1, r1) := armBeats 1 2 (a1 ++ pick true)
    let idx := mkTok .idx (BitVec.ofNat 512 (packVals 32 ((List.range 16).map (fun i => (bit1 (arm i), true)))))
      (BitVec.allOnes 64) a.last void
    .go (t0 ++ t1 ++ [(2, idx)]) (.filter r0 r1) 0 []
  | _ => .wait

/-- The partial beats of both arms, sent when EOT arrives. (DEDUCED, assumption 47.) -/
def filterEot (c : Ctx) : Fired :=
  match c.x.st with
  | .filter a0 a1 =>
    let part (k : Nat) (l : List Cont) : List (Nat × Token) := if l.isEmpty then [] else [(k, contBeat .data l false)]
    .go (part 0 a0 ++ part 1 a1) (.filter [] []) 0 []
  | _ => .wait

/-- FILTER. -/
def execCellFilter (n : Node) (w : CellF) (s : State) : Out :=
  runCell n w 0x30
    { data := [0, 1], idx := [], frameOuts := [0, 1, 2], fire := filterFire
      hdr := fun c => match c.hdr 0 with | some h => .ok [(0, h), (1, h), (2, hdrSet h 8 4 6)] | none => .error 5
      flush := fun c => ([], c.x.st), sot := fun _ => .filter [] [], kill := fun _ => .filter [] [], eot := filterEot } s

/-! ### COUNT (R163, R391) -/

/-- The token of index `i`. -/
def countTok (c : Ctx) (i : Nat) (last void : Bool) : Token :=
  let low (k : Nat) : Nat := c.slot k % 2 ^ 32
  let v := low 0 + i * low 1
  if void then voidTok .idx last
  else mkTok .idx (BitVec.ofNat 512 (packVals 32 ((List.range 16).map (fun l => (v + l * low 3, true))))) (BitVec.allOnes 64) last false

/-- The count n of slot 2. -/
def Ctx.countN (c : Ctx) : Nat := c.slot 2 % 2 ^ 32

/-- One token of a level-0 run with `left` tokens to go. (DEDUCED, assumption 48.) -/
def countRun (c : Ctx) (i left : Nat) (void : Bool) : List (Nat × Token) × OpSt :=
  ([(0, countTok c i (i + 1 = c.countN) void)], .count (if i + 1 ≥ c.countN then 0 else i + 1) (left - 1) void)

def countFire (c : Ctx) : Fired :=
  match c.x.st, c.head 0 with
  | .count i _ _, some t =>
    if c.imm % 2 = 0 then
      let (out, st) := countRun c i (c.countN * (c.slot 2 / 2 ^ 32 + 1)) t.void
      .go out st 0 []
    else
      let last := i + 1 = c.countN
      .go [(0, countTok c i (last && t.last) t.void)] (.count (if t.last then (if last then 0 else i + 1) else i) 0 false) 0 []
  | _, _ => .wait

/-- COUNT: a run under way goes on before the next trigger is looked at; a KILL ends it. -/
def execCellCount (n : Node) (w : CellF) (s : State) : Out :=
  let ops : CellOps :=
    { data := [0], idx := if w.imm.toNat % 2 = 1 then [0] else [], frameOuts := [0], fire := countFire
      hdr := fun c => match c.hdr 0 with | some h => .ok [(0, hdrSet h 8 4 6)] | none => .error 5
      flush := fun c => ([], c.x.st), sot := fun _ => .count 0 0 false, kill := fun _ => .count 0 0 false
      eot := fun c => .go [] c.x.st 0 [] }
  runNode n w 0x32 (fun c =>
    match c.x.st with
    | .count i left v =>
      if left > 0 && !c.headIs 0 (fun k => k = .kill) then
        if !c.room then c.s
        else
          let (out, st) := countRun c i left v
          c.done [] out st 0 (fun x => x)
      else meet c ops
    | _ => meet c ops) s

/-! ### LOOP (R164, R165, R392) -/

/-- LOOP's state. -/
structure LoopSt where
  kept : List (Nat × Token)
  next : Nat
  oldest : Nat
  sqB : Nat
  sqC : Nat
  exiting : Option Nat
  running : Bool
  killB : Bool
  killC : Bool
  /-- a KILL of b, and of c, came before a's; the one that a's sends round is still to come -/
  lateB : Bool
  lateC : Bool

def LoopSt.put (l : LoopSt) : OpSt := .loop l.kept l.next l.oldest l.sqB l.sqC l.exiting l.running l.killB l.killC l.lateB l.lateC

def loopOf : OpSt → LoopSt
  | .loop k n o b c e r kb kc lb lc => { kept := k, next := n, oldest := o, sqB := b, sqC := c, exiting := e, running := r, killB := kb, killC := kc, lateB := lb, lateC := lc }
  | _ => { kept := [], next := 0, oldest := 0, sqB := 0, sqC := 0, exiting := none, running := false, killB := false, killC := false, lateB := false, lateC := false }

def LoopSt.fresh : LoopSt := loopOf .none

/-- prod(n). -/
def LoopSt.prod (l : LoopSt) (n : Nat) : Option Token := (l.kept.find? (fun k => k.1 = n)).map (fun k => k.2)

def ordTok (void : Bool) : Token := mkTok .ord 0 (BitVec.allOnes 64) false void
def doneTok (last void : Bool) : Token := mkTok .done 0 (BitVec.allOnes 64) last void

/-- The status of the oldest iteration (R392): its confirmation, and on the last one the squash wave. -/
def loopStatus (l : LoopSt) (last : Bool) : List (Nat × Token) × LoopSt :=
  if !last then
    ([(2, ordTok false)], { l with oldest := l.oldest + 1, kept := l.kept.filter (fun k => k.1 > l.oldest || k.1 + 1 = l.next) })
  else
    let later := l.next - 1 - l.oldest
    let outstanding := if (l.prod (l.next - 1)).isNone then 1 else 0
    ((2, ordTok false) :: List.replicate later (2, ordTok true),
      { l with exiting := some l.oldest, oldest := l.oldest + 1, sqC := later, sqB := if later > 0 then outstanding else 0 })

/-- One happening at a LOOP, the first of these that can: a token that is dropped or discarded, a back edge, a status, the
exit, the next iteration, a new run, framing on input a. Framing on the back edge is dropped. KILL on a is sent on at once,
since those of b and c come round by it, and tokens of b and c are discarded until KILL heads each; a KILL that heads b or c
first stands there, and a's tokens are discarded until its own (R151; DEDUCED, assumption 28). -/
def loopStep (ops : CellOps) (c : Ctx) : State :=
  let l := loopOf c.x.st
  let b := c.head 1
  let d := c.head 2
  let stray (k : Kind) : Bool := k.framing
  let kill (i : Nat) : Bool := c.headIs i (fun k => k = Kind.kill)
  let win := c.imm % 16 + 1
  if rollDue c.s c.place then c.s
  else if c.headIs 0 (fun k => k = .kill) then meet c ops
  else if b.isSome && l.killB then c.done [1] [] { l with killB := !c.headIs 1 (fun k => k = Kind.kill) }.put 0 (fun x => x)
  else if d.isSome && l.killC then c.done [2] [] { l with killC := !c.headIs 2 (fun k => k = Kind.kill) }.put 0 (fun x => x)
  else if kill 1 && l.lateB then c.done [1] [] { l with lateB := false }.put 0 (fun x => x)
  else if kill 2 && l.lateC then c.done [2] [] { l with lateC := false }.put 0 (fun x => x)
  else if kill 1 || kill 2 then
    let waiting := [0, 1, 2].filter (fun i => (c.head i).isSome && !kill i)
    if waiting.isEmpty then c.s else c.discard waiting
  else if c.headIs 1 stray then c.discard [1]
  else if c.headIs 2 stray then c.discard [2]
  else if c.headIs 1 (fun k => k ≠ .data) || c.headIs 2 (fun k => k ≠ .done) then c.fail 3
  else if b.isSome && l.sqB > 0 then c.done [1] [] { l with sqB := l.sqB - 1 }.put 0 (fun x => x)
  else if d.isSome && l.sqC > 0 then c.done [2] [] { l with sqC := l.sqC - 1 }.put 0 (fun x => x)
  else match (if l.running && (l.prod (l.next - 1)).isNone then b else none) with
    | some t => c.done [1] [] { l with kept := l.kept ++ [(l.next - 1, t)] }.put 0 (fun x => x)
    | none =>
      if !c.room then c.s
      else match l.exiting with
        | some e => match l.prod e with
          | some t => c.done [] [(1, t)] { l with exiting := none, running := false, kept := [] }.put 0 (fun x => x)
          | none => c.s
        | none =>
          if l.running then
            if d.isSome && l.oldest < l.next then
              let (out, l1) := loopStatus l (match d with | some t => t.last | none => false)
              c.done [2] out l1.put 0 (fun x => x)
            else match (if l.next < l.oldest + win then l.prod (l.next - 1) else none) with
              | some t => c.done [] [(0, t)] { l with next := l.next + 1 }.put 0 (fun x => x)
              | none => if c.headIs 0 (fun k => k = .mark) then meet c ops else c.s
          else if l.sqB = 0 && l.sqC = 0 && !l.killB && !l.killC then meet c ops
          else c.s

/-- LOOP. -/
def execCellLoop (n : Node) (w : CellF) (s : State) : Out :=
  let ops : CellOps :=
    { data := [0], idx := [], frameOuts := [0, 1]
      fire := fun c => match c.head 0 with
        | some t => .go [(0, t)] { LoopSt.fresh with next := 1, running := true }.put 0 []
        | none => .wait
      hdr := fun c => match c.hdr 0 with | some h => .ok [(0, h), (1, h)] | none => .error 5
      flush := fun c => ([], c.x.st), sot := fun c => c.x.st, kill := fun c => { LoopSt.fresh with killB := c.streams 1, killC := c.streams 2, lateB := c.headIs 1 (fun k => k = Kind.kill), lateC := c.headIs 2 (fun k => k = Kind.kill) }.put, eot := fun c => .go [] c.x.st 0 [] }
  runNode n w 0x31 (fun c => loopStep ops (checkHeads c [0, 1, 2])) s

/-! ### FORK, JOIN, FENCE (R233, R235, R399, R400) -/

/-- Whether every used input of a list holds a token. -/
def Ctx.holdAll (c : Ctx) (ins : List Nat) : Bool := ins.all (fun i => (c.head i).isSome)

/-- A node of orders: framing dropped, KILL by R151, then `f` once every used input holds a token and there is room.
(DESIGN CHOICE, assumption 50.) -/
def orderStep (ins : List Nat) (eots : List Nat) (f : Ctx → State) (c0 : Ctx) : State :=
  let used := ins.filter c0.uses
  let c := checkHeads c0 used
  let drop := used.filter (fun i => c.drops i (eots.contains i && c.fromWriter i))
  let ops : CellOps :=
    { data := ins, idx := [], frameOuts := [], fire := fun _ => .wait, hdr := fun _ => .ok [], flush := fun c => ([], c.x.st)
      sot := fun c => c.x.st, kill := fun c => c.x.st, eot := fun _ => .wait }
  if rollDue c.s c.place then c.s
  else if used.any (fun i => c.headIs i (fun k => k = .kill)) then killStep c ops used
  else if !drop.isEmpty then c.discard drop
  else if used.isEmpty || !c.holdAll used || !c.room then c.s
  else f c

def Ctx.kindAt (c : Ctx) (i : Nat) : Kind := match c.head i with | some t => t.kind | none => .rsvd 15

/-- FORK: one ORD on; its branches part at switch boxes. -/
def execCellFork (n : Node) (w : CellF) (s : State) : Out :=
  runNode n w 0x45 (orderStep [0] [] (fun c =>
    if c.kindAt 0 ≠ .ord then c.fail 3
    else c.done [0] [(0, ordTok (c.anyVoid [0]))] c.x.st 0 (fun x => x))) s

/-- JOIN: one token once every used input holds one. -/
def execCellJoin (n : Node) (w : CellF) (s : State) : Out :=
  runNode n w 0x46 (orderStep [0, 1, 2] [] (fun c =>
    let used := [0, 1, 2].filter c.uses
    let pred := c.imm % 2 = 1 && c.uses 2
    let orders := used.filter (fun i => !(pred && i = 2))
    if orders.any (fun i => c.kindAt i ≠ .ord && c.kindAt i ≠ .done) || (pred && c.kindAt 2 ≠ .data) then c.fail 3
    else
      let kind := match orders with | i :: _ => c.kindAt i | [] => .done
      let last := pred && !(match c.head 2 with | some t => t.decides | none => false)
      c.done used [(0, mkTok kind 0 (BitVec.allOnes 64) last (c.anyVoid used))] c.x.st 0 (fun x => x))) s

/-- FENCE: one ORD once the trigger and every DONE are there. At PACKAGE and SYSTEM scope what the place has written is performed
at the LLC first, and the die's SHARE_PKG lines are invalidated, as for a scalar FENCE (R235, R244, R245). -/
def execCellFence (n : Node) (w : CellF) (s : State) : Out :=
  runNode n w 0x47 (orderStep [0, 1, 2] [1, 2] (fun c =>
    let used := [0, 1, 2].filter c.uses
    let trig := c.kindAt 0 = .data || c.kindAt 0 = .ord || c.kindAt 0 = .done
    let dones := (used.filter (fun i => i ≠ 0)).all (fun i => c.kindAt i = .done || c.kindAt i = .eot)
    if !trig || !dones then c.fail 3
    else if c.imm ≥ 3 && forwarding c.s (regionOf c.s c.place) then c.s
    else ({ c with s := if c.imm ≥ 3 then flashInvalidate c.s c.place.die else c.s } : Ctx).done used [(0, ordTok (c.anyVoid used))] c.x.st 0 (fun x => x))) s

/-! ### MSEQ (R405) -/

def mseqFire (c : Ctx) : Fired :=
  match c.x.st, c.head 0 with
  | .mseq first zero, some t =>
    let tmpl := c.slot 0 + c.slot 1 * 2 ^ 64
    let mma := tmpl - bitsOf tmpl 8 1 * 2 ^ 8 + (if first then 0 else 2 ^ 8)
    let drain := 0x53 + bitsOf tmpl 16 16 * 2 ^ 16
    let tok (v : Nat) : Nat × Token := (0, if t.void then voidTok .ctrl false else plainTok .ctrl v)
    let zs := if zero && c.imm / 2 % 2 = 1 then [tok 0x52] else []
    let ds := if t.last && c.imm % 2 = 0 then [tok drain] else []
    .go (zs ++ [tok mma] ++ ds) (.mseq t.last false) 0 []
  | _, _ => .wait

/-- MSEQ. -/
def execCellMseq (n : Node) (w : CellF) (s : State) : Out :=
  runCell n w 0x50
    { data := [0], idx := [0], frameOuts := [0], fire := mseqFire
      hdr := fun c => match c.hdr 0 with | some h => .ok [(0, h)] | none => .error 5
      flush := fun c => ([], c.x.st), sot := fun _ => .mseq true true, kill := fun _ => .mseq true true
      eot := fun c => .go [] c.x.st 0 [] } s

/-! ### Framing cells (R407-R410) -/

/-- What passes a and sends it on. -/
def passHead (c : Ctx) : Fired := match c.head 0 with | some t => .go [(0, t)] c.x.st 0 [] | none => .wait

/-- A header with the fields of a replacement put in (R407). -/
def hdrGen (c : Ctx) (h : Token) : Token :=
  let new := c.slot 0 + c.slot 1 * 2 ^ 64 + c.slot 2 * 2 ^ 128
  let put (bit lo len : Nat) (t : Token) : Token := if c.imm / 2 ^ bit % 2 = 1 then hdrSet t lo len (bitsOf new lo len) else t
  put 5 128 32 (put 4 96 32 (put 3 64 32 (put 2 32 32 (put 1 16 3 (put 0 8 8 h)))))

/-- HDRGEN. -/
def execCellHdrgen (n : Node) (w : CellF) (s : State) : Out :=
  runCell n w 0x58
    { data := [0], idx := [0], frameOuts := [0], fire := passHead
      hdr := fun c => match c.hdr 0 with
        | some h => let g := hdrGen c h; if hdrOk g then .ok [(0, g)] else .error 5
        | none => .error 5
      flush := fun c => ([], c.x.st), sot := fun c => c.x.st, kill := fun c => c.x.st, eot := fun c => .go [] c.x.st 0 [] } s

/-- MARKIN: a MARK of b before a's DATA or EOT goes out alone; all else in step by R151. -/
def execCellMarkin (n : Node) (w : CellF) (s : State) : Out :=
  let ops : CellOps :=
    { data := [0, 1], idx := [0, 1], frameOuts := [0]
      fire := fun c => match c.head 0 with | some t => .go [(0, { t with void := c.anyVoid [0, 1] })] c.x.st 0 [] | none => .wait
      hdr := fun c => match c.hdr 0 with | some h => .ok [(0, h)] | none => .error 5
      flush := fun c => ([], c.x.st), sot := fun c => c.x.st, kill := fun c => c.x.st, eot := fun c => .go [] c.x.st 0 [] }
  runNode n w 0x59 (fun c0 =>
    let c := checkHeads c0 [0, 1]
    match c.head 0, c.head 1 with
    | some a, some b =>
      if b.kind = .mark && (a.kind = .data || a.kind = .idx || a.kind = .eot) && c.x.segOpen && !rollDue c.s c.place then
        if c.room then c.done [1] [(0, b)] c.x.st 0 (fun x => x.snap (b.pay.toNat % 2 ^ 32)) else c.s
      else meet c ops
    | _, _ => meet c ops) s

/-- The header FLAGS sends on its flag segment: VER 1, format A INT32, ROWS 1, COLS 16, the segment's number (R409). -/
def flagHdr (seg : Nat) : Token := plainTok .hdr (1 + 6 * 2 ^ 8 + 2 ^ 32 + 16 * 2 ^ 48 + seg * 2 ^ 160)

/-- FLAGS. -/
def execCellFlags (n : Node) (w : CellF) (s : State) : Out :=
  runCell n w 0x5A
    { data := [0], idx := [0], frameOuts := [0], fire := passHead
      hdr := fun c => match c.hdr 0 with | some h => .ok [(0, h)] | none => .error 5
      flush := fun c => ([], c.x.st), sot := fun c => c.x.st, kill := fun c => c.x.st
      eot := fun c =>
        let seg := c.segno
        let fl := match (regionOf c.s c.place).segFlags.find? (fun x => x.1 = seg) with | some x => x.2 | none => 0
        .go [(1, plainTok .sot seg), (1, flagHdr seg), (1, plainTok .data (fl.toNat % 2 ^ 7 &&& c.imm % 2 ^ 7)), (1, plainTok .eot 0)]
          c.x.st 0 [] } s

/-- SEGIN: EOT, SOT and header after a DATA token with LAST set (R410). -/
def execCellSegin (n : Node) (w : CellF) (s : State) : Out :=
  runCell n w 0x5B
    { data := [0], idx := [0], frameOuts := [0]
      fire := fun c => match c.head 0, c.x.st, c.hdr 0 with
        | some t, .segin no, some h =>
          if t.last && t.kind = .data then
            .go [(0, t), (0, plainTok .eot 0), (0, plainTok .sot (no + 1).toNat), (0, hdrSet h 160 32 (no + 1).toNat)] (.segin (no + 1)) 0 []
          else .go [(0, t)] c.x.st 0 []
        | _, _, _ => .wait
      hdr := fun c => match c.hdr 0 with | some h => .ok [(0, h)] | none => .error 5
      flush := fun c => ([], c.x.st)
      sot := fun c => match c.head 0 with | some t => .segin (BitVec.ofNat 32 t.pay.toNat) | none => c.x.st
      kill := fun _ => .segin 0, eot := fun c => .go [] c.x.st 0 [] } s

end Sys2Proof.Machine
end

