-- ==== Sys2Proof/Machine/Log.lean ====
section
/-! DEFINITION. The logs of record and replay launches (R258, R259, R365). -/

namespace Sys2Proof.Machine

/-- The OP of a command. -/
def QCmd.op (c : QCmd) : Nat := (c.word.extractLsb' 120 8).toNat

def QCmd.f (c : QCmd) : CmdF := cmdFields c.word

/-- The launch a place works for. -/
def placeTask (s : State) (p : Place) : Option TgEntry := (partOf s p.asid).bind (fun q => q.task? p.lslot)

/-- The launch records, or replays (R67). -/
def recording (s : State) (p : Place) : Bool := match placeTask s p with | some e => e.record | none => false
def replaying (s : State) (p : Place) : Bool := match placeTask s p with | some e => e.replay | none => false

def Place.port? (p : Place) (k : Nat) : Option Port := p.ports.find? (fun q => q.num = k)

def State.updPort (s : State) (place k : Nat) (f : Port → Port) : State :=
  s.updPlace place (fun p => { p with ports := updBy (fun q => q.num = k) f p.ports })

/-- Writes bytes wherever lines part them, in one step. (DESIGN CHOICE, assumption 158.) -/
def fabWriteSpan : Nat → State → Place → Nat → Nat → Nat → List Byte → Acc Unit
  | 0, s, _, _, _, _, _ => .ok s ()
  | k + 1, s, p, core, hint, va, bs =>
    if bs.isEmpty then .ok s ()
    else
      let n := 128 - va % 128
      (fabWrite s p core hint va (bs.take n)).bind (fun s1 _ => fabWriteSpan k s1 p core hint (va + n) (bs.drop n))

/-- Reads bytes wherever lines part them, in one step. (DESIGN CHOICE, assumption 158.) -/
def fabReadSpan : Nat → State → Place → Nat → Nat → Nat → Nat → Acc (List Byte)
  | 0, s, _, _, _, _, _ => .ok s []
  | k + 1, s, p, core, hint, va, len =>
    if len = 0 then .ok s []
    else
      let n := min len (128 - va % 128)
      (fabRead s p core hint va n).bind (fun s1 a =>
        (fabReadSpan k s1 p core hint (va + n) (len - n)).bind (fun s2 b => .ok s2 (a ++ b)))

/-- An entry of a log (R258). -/
def logBytes (pay : Beat) (side : Nat) (src : List Nat) (seq : Nat) : List Byte :=
  natBytes 64 pay.toNat ++ natBytes 16 side ++ src.map (fun n => BitVec.ofNat 8 n) ++ natBytes 4 seq ++ natBytes 8 0

/-- Bits 123:0 of a token's sideband (R146). -/
def sideBand (s : State) (t : Token) : Nat := t.kind.code % 16 * 2 ^ 120 + t.mask.toNat * 2 ^ 56 + (sideLow s t).toNat % 2 ^ 56

/-- Whether a log command is a RECORD or a REPLAY (`op`) for tokens of its port, or for nodes. -/
def Running.logs (r : Running) (op : Nat) (nodes : Bool) : Bool := r.cmd.op = op && (r.cmd.f.flags.toNat % 2 = 1) = nodes

/-- Logs an entry of a wave, that of the next MARK, through the RECORD of a port; it waits where none has room. -/
def recordEntry (s : State) (p : Place) (k : Nat) (nodes : Bool) (wave : Nat) (bytes : List Byte) : Acc Unit :=
  let r := regionOf s p
  match (r.port? k).bind (fun q => q.logs.find? (fun c => c.logs 0x0B nodes && c.doneN < c.cmd.f.count.toNat)) with
  | none => .wait
  | some c =>
    let va := c.cmd.f.base.toNat + 96 * c.doneN
    let ent : Elem := { n := c.doneN, addr := va, data := [], refusals := 0, hold := some wave, st := .done [] }
    (fabWriteSpan 3 s r r.core c.cmd.f.hint.toNat va bytes).bind (fun s1 _ =>
      .ok (s1.updPort r.id k (fun q => { q with logs := updBy (fun x => x.cmd = c.cmd) (fun x =>
        { x with doneN := x.doneN + 1, elems := if r.rb.isSome then x.elems ++ [ent] else [] }) q.logs })) ())

/-- Where the next entry of a node's log goes, the address a fault of its write has (R225). -/
def recordVa (s : State) (p : Place) (k : Nat) : Nat :=
  match ((regionOf s p).port? k).bind (fun q => q.logs.find? (fun c => c.logs 0x0B true && c.doneN < c.cmd.f.count.toNat)) with
  | some c => c.cmd.f.base.toNat + 96 * c.doneN
  | none => 0

/-- The number of the entry of a source with a sequence number, among `n` entries from an address. -/
def findEntry : Nat → State → Place → Nat → Nat → Nat → List Byte → Acc (Option Nat)
  | 0, s, _, _, _, _, _ => .ok s none
  | n + 1, s, p, hint, va, i, key =>
    (fabReadSpan 2 s p p.core hint (va + 80) 8).bind (fun s1 bs =>
      if bs = key then .ok s1 (some i) else findEntry n s1 p hint (va + 96) (i + 1) key)

/-- Source and sequence number as an entry holds them. -/
def logKey (src : List Nat) (seq : Nat) : List Byte := src.map (fun n => BitVec.ofNat 8 n) ++ natBytes 4 seq

/-- The address at which the search of a REPLAY for a source's entry meets a fault (R225). -/
def replayVa (s : State) (p : Place) (k : Nat) (nodes : Bool) (src : List Nat) (seq : Nat) : Nat :=
  let r := regionOf s p
  match (r.port? k).bind (fun q => q.logs.find? (fun c => c.logs 0x0C nodes)) with
  | none => 0
  | some c =>
    let at_ (i : Nat) : Nat := c.cmd.f.base.toNat + 96 * i
    let get (va len : Nat) : Acc (List Byte) := fabReadSpan 3 s r r.core c.cmd.f.hint.toNat va len
    let fails (va len : Nat) : Bool := match get va len with | .fault _ _ _ _ => true | _ => false
    let mine (i : Nat) : Bool := match get (at_ i + 80) 8 with | .ok _ bs => bs = logKey src seq || bs = logKey src (seq + 1) | _ => false
    match (List.range c.cmd.f.count.toNat).find? (fun i => fails (at_ i + 80) 8 || (mine i && fails (at_ i) 96)) with
    | some i => if fails (at_ i + 80) 8 then at_ i + 80 else at_ i
    | none => 0

/-- What a REPLAY holds for a source: payload, sideband, whether a rollback follows; `none` is REPLAY_DIVERGE, and a
port without a REPLAY makes the source wait. -/
def replayEntry (s : State) (p : Place) (k : Nat) (nodes : Bool) (src : List Nat) (seq : Nat) : Acc (Option (Beat × Nat × Bool)) :=
  let r := regionOf s p
  match (r.port? k).bind (fun q => q.logs.find? (fun c => c.logs 0x0C nodes)) with
  | none => .wait
  | some c =>
    let key := logKey src seq
    let next := logKey src (seq + 1)
    let hint := c.cmd.f.hint.toNat
    let count := c.cmd.f.count.toNat
    let base := c.cmd.f.base.toNat
    (findEntry count s r hint base 0 key).bind (fun s1 e =>
      match e with
      | none => .ok s1 none
      | some i =>
        (fabReadSpan 3 s1 r r.core hint (base + 96 * i) 96).bind (fun s2 bs =>
          (findEntry (count - i - 1) s2 r hint (base + 96 * (i + 1)) (i + 1) next).bind (fun s3 e2 =>
            let rolled (l : List Byte) : Bool := (l.getD 88 0).toNat % 2 = 1
            let pay := BitVec.ofNat 512 (bytesNat (bs.take 64))
            let side := bytesNat ((bs.drop 64).take 16)
            let taken (st : State) : State := st.updPort r.id k (fun q =>
              { q with logs := updBy (fun x => x.cmd = c.cmd) (fun x => { x with doneN := x.doneN + 1 }) q.logs })
            match e2 with
            | none => .ok (taken s3) (some (pay, side, rolled bs))
            | some j => (fabReadSpan 3 s3 r r.core hint (base + 96 * j) 96).bind (fun s4 cs =>
                .ok (taken s4) (some (pay, side, rolled bs && !rolled cs))))))

end Sys2Proof.Machine
end

