-- ==== Sys2Proof/Machine/MemNodes.lean ====
section
/-! DEFINITION. Memory nodes LD, ST, AT, LDA and STL (R232, R236, R239, R393-R398). -/

namespace Sys2Proof.Machine

/-- What a memory node's IMM holds (R395). -/
structure MemImm where
  log : Bool
  dscope : Nat
  conf : Bool
  uns : Bool
  aop : Nat
  scope : Nat

def memImm (imm : Nat) : MemImm :=
  { log := bitsOf imm 11 1 = 1, dscope := bitsOf imm 8 3, conf := bitsOf imm 7 1 = 1, uns := bitsOf imm 6 1 = 1, aop := bitsOf imm 3 3
    scope := bitsOf imm 0 3 }

def aopOf (n : Nat) : AmoOp :=
  match n with
  | 0 => .add
  | 1 => .swap
  | 2 => .cas
  | 3 => .min
  | 4 => .max
  | 5 => .and
  | 6 => .or
  | _ => .xor

def memOf : OpSt → MemSt
  | .mem m => m
  | _ => { fired := 0, lane := 0, vals := [], conf := 0, wave := 0, logged := 0 }

/-- The address lane `l` of an index beat names (R394). -/
def laneAddr (c : Ctx) (a : Token) (l : Nat) : Nat :=
  (BitVec.ofInt 64 ((bitsOf (c.slot 0) 0 48 : Int) + 4 * signed 32 (a.lane l))).toNat

/-- What one lane comes to: its container (old value or value read; 0 for a store). In a rollback region an atomic sees its
region's own writes that wait for their commit, and what it writes stands over them (R230, R239, R241). -/
def laneAccess (c : Ctx) (s : State) (a b : Token) (l : Nat) : Acc Nat :=
  let m := memImm c.imm
  let p := c.place
  let core := p.coreAt c.x.node
  let va := laneAddr c a l
  match c.op with
  | 0x40 | 0x43 => (fabRead s p core 0 va 4).bind (fun s1 bs => .ok s1 (bytesNat bs))
  | 0x42 =>
    (fabXl s p core va (Need.atomic true)).bind (fun s1 (x, lv) =>
      if linePending s1 (some p.die) x then .wait
      else
        let (s2, die) := amoPlace s1 (some p.die) m.scope x
        (fabBytes s2 p die lv x 4).bind (fun s3 bs0 =>
          let bs := match regionRb s3 p with | some r => overHeld x.pa bs0 r.held | none => bs0
          match amoNew (aopOf m.aop) m.uns 32 (bytesNat bs) (b.lane l) (c.slot 1 % 2 ^ 32) with
          | none => .ok s3 (bytesNat bs)
          | some v => (writeBytes s3 die x (natBytes 4 v)).bind (fun s4 _ => .ok (patchHeld s4 p x.pa (natBytes 4 v)) (bytesNat bs))))
  | _ =>
    let bytes := natBytes 4 (b.lane l)
    let parts : List (Nat × List Byte) :=
      if b.laneLive l then [(0, bytes)]
      else ((List.range 4).filter (fun i => b.mask.getLsbD (4 * l + i))).map (fun i => (i, [bytes.getD i 0]))
    let put (st : State) (x : Nat × List Byte) : Acc Unit :=
      match regionRb st p with
      | none => fabWrite st p core 0 (va + x.1) x.2
      | some r => holdWrite st p core r
          { node := some c.x.node, cmd := none, port := 0, wave := (memOf c.x.st).wave, va := va + x.1, pa := 0, bytes := x.2, hint := 0, elem := l
            stl := if c.op = 0x44 then some m.scope else none, done := false }
    parts.foldl (fun acc x => acc.bind (fun st (_ : Nat) => (put st x).bind (fun st1 _ => .ok st1 0))) (.ok s 0)

/-- An atomic whose result is logged is not performed again; the writes it stands over have been held anew (R241, R252). -/
def relayLane (c : Ctx) (a b : Token) (s : State) (l : Nat) (old : BitVec 32) : State :=
  let m := memImm c.imm
  match fabXl s c.place (c.place.coreAt c.x.node) (laneAddr c a l) (Need.atomic true) with
  | .ok s1 (x, _) => match amoNew (aopOf m.aop) m.uns 32 old.toNat (b.lane l) (c.slot 1 % 2 ^ 32) with
    | some v => patchHeld s1 c.place x.pa (natBytes 4 v)
    | none => s1
  | _ => s

/-- The lanes of a firing from lane `l` on, in ascending order; what stands in the way leaves the lane it is met at. -/
inductive LaneRes where
  | all (s : State) (vals : List (BitVec 32))
  | stop (s : State) (lane : Nat) (vals : List (BitVec 32)) (fault : Option (Nat × Nat × Word))

def lanesFrom (c : Ctx) (a b : Token) : Nat → Nat → State → List (BitVec 32) → LaneRes
  | 0, _, s, vals => .all s vals
  | k + 1, l, s, vals =>
    if !a.laneLive l then lanesFrom c a b k (l + 1) s (vals ++ [0])
    else match laneAccess c s a b l with
      | .ok s1 v => lanesFrom c a b k (l + 1) s1 (vals ++ [BitVec.ofNat 32 v])
      | .wait => .stop s l vals none
      | .fault s1 code sub pte => .stop s1 l vals (some (code, sub, pte))

/-- The result beat of a firing: a container for each live index lane. -/
def memBeat (a : Token) (vals : List (BitVec 32)) : Token :=
  let es := (List.range 16).map (fun l => ((vals.getD l 0).toNat, a.laneLive l))
  packBeat 32 es a.last false

/-- The log port of a node (R395). -/
def Ctx.logPort (c : Ctx) : Nat := bitsOf (c.slot 3) 0 6

def Ctx.src4 (c : Ctx) : List Nat := whereOf c.place c.x.node.x c.x.node.y

/-- Results bound are logged one entry a lane, in lane order (R258). (DESIGN CHOICE, assumption 56.) -/
def logLanes (c : Ctx) (a : Token) (vals : List (BitVec 32)) (seq : Nat) : List Nat → State → Acc Nat
  | [], s => .ok s seq
  | l :: ls, s =>
    if !a.laneLive l then logLanes c a vals seq ls s
    else (recordEntry s c.place c.logPort true (memOf c.x.st).wave (logBytes (BitVec.ofNat 512 (vals.getD l 0).toNat) 0 c.src4 seq)).bind
      (fun s1 _ => logLanes c a vals (seq + 1) ls s1)

/-- Results taken from a log (R259). -/
def replayLanes (c : Ctx) (a : Token) (seq : Nat) : List Nat → State → List (BitVec 32) → Acc (Option (List (BitVec 32) × Nat))
  | [], s, vals => .ok s (some (vals, seq))
  | l :: ls, s, vals =>
    if !a.laneLive l then replayLanes c a seq ls s (vals ++ [0])
    else (replayEntry s c.place c.logPort true c.src4 seq).bind (fun s1 e =>
      match e with
      | none => .ok s1 none
      | some (pay, _, roll) =>
        replayLanes c a (seq + 1) ls (if roll then rollNow s1 c.place else s1) (vals ++ [BitVec.ofNat 32 pay.toNat]))
termination_by structural l => l

/-! ### The node's step -/

/-- Inputs of a memory node: those that take part in framing, and those that take orders or confirmations. -/
def memData (op : Nat) : List Nat := if op = 0x40 ∨ op = 0x43 then [0] else [0, 1]
def memOrders (op : Nat) : List Nat := if op = 0x40 ∨ op = 0x43 then [1, 2] else [2]

/-- The header of a memory node's results: a's, with format A its FMT, INT32 for 0xF (R386, R396). -/
def memHdr (c : Ctx) : Except Nat (List (Nat × Token)) :=
  match c.hdr 0 with
  | some h => .ok [(0, hdrSet h 8 4 (if c.w.fmt.toNat = 0 then 0 else 6))]
  | none => .error 5

/-- A firing is over: inputs consumed, results sent. In a rollback region a DONE beyond REGION waits for the commit of
all that the node has written before it: it stands in the commit buffer behind it. -/
def memDone (c : Ctx) (s : State) (eat : List Nat) (beat : Token) (void : Bool) (m : MemSt) : State :=
  let late := (c.op = 0x41 || c.op = 0x44) && (memImm c.imm).dscope ≥ 1 && (regionRb s c.place).isSome && !void
  let out := [(0, { beat with void := beat.void || void }), (1, ordTok void)] ++ (if late then [] else [(2, doneTok false void)])
  let mark : Held := { node := some c.x.node, cmd := none, port := 0, wave := m.wave, va := 0, pa := 0, bytes := [], hint := 0, stl := none, done := true, elem := 0 }
  let s1 := if late && c.enabled 2 then s.updRb c.place (fun r => { r with held := r.held ++ [mark] }) else s
  { c with s := s1 }.done eat out (.mem { m with fired := m.fired + 1, lane := 0, vals := [] }) 0 (fun x => x)

/-- The confirmation that stands for the firing under way: there is none to wait for, it is missing, or VOID or not
(R165, R393). -/
inductive Conf where
  | none | missing | is (void : Bool)
  deriving DecidableEq

def confOf (c : Ctx) (m : MemSt) : Conf :=
  if !((memImm c.imm).conf && c.uses 1) then .none
  else if m.conf > 0 then .missing
  else match c.head 1 with | some t => .is t.void | none => .missing

/-- A memory node whose inputs hold a firing. (DESIGN CHOICE, assumption 58.) -/
def memFire (c : Ctx) (a b : Token) (used : List Nat) (void : Bool) : State :=
  let m := memOf c.x.st
  let i := memImm c.imm
  let conf := confOf c m
  let read := c.op = 0x40 || c.op = 0x43
  -- what stays owed when the firing goes ahead of its confirmation
  let owe (k : MemSt) : MemSt := if conf = .missing then { k with conf := k.conf + 1 } else k
  let eat := used ++ (match conf with | .is _ => [1] | _ => [])
  -- a release waits until what the place has written is performed at its scope (R232, R236)
  if !void && (c.op = 0x42 || c.op = 0x44) && i.scope ≥ 3 && forwarding c.s (regionOf c.s c.place) then c.s
  else if void || conf = .is true then memDone c c.s eat (voidTok .data a.last) true (owe m)
  else
    let s0 := if (c.op = 0x42 || c.op = 0x43) && i.scope ≥ 3 then flashInvalidate c.s c.place.die else c.s
    let finish (s : State) (vals : List (BitVec 32)) (seq : Nat) : State :=
      memDone c s eat (memBeat a vals) false (owe { m with logged := seq })
    let diverge (s : State) : State := nodeFault s c.x.node 16
    if i.log && replaying c.s c.place && (read || c.op = 0x42) then
      match replayLanes c a m.logged (List.range 16) s0 [] with
      | .ok s1 (some (vals, seq)) => finish s1 vals seq
      | .ok s1 none => diverge s1
      | .wait => c.s
      | .fault s1 code sub pte => nodeAccessFault s1 c.place c.x.node code sub (replayVa c.s c.place c.logPort true c.src4 m.logged) pte false 0 m.fired
    else
      let logged := match (regionRb c.s c.place).bind (fun r => r.atoms.find? (fun k => k.node = c.x.node && k.fired = m.fired)) with
        | some k => if c.op = 0x42 then some k.vals else none
        | none => none
      -- the lanes of an atomic that were performed before a rollback are not performed again (R252)
      let had := match logged with | some vals => if vals.length > m.vals.length then vals else m.vals | none => m.vals
      let s0 := if c.op = 0x42 && m.lane < had.length then
          ((List.range had.length).filter (fun l => m.lane ≤ l && a.laneLive l)).foldl (fun st l => relayLane c a b st l (had.getD l 0)) s0
        else s0
      let log (s : State) (vals : List (BitVec 32)) : State :=
        if c.op ≠ 0x42 then s
        else s.updRb c.place (fun r => { r with
          atoms := putBy (fun k => k.node = c.x.node && k.fired = m.fired) { node := c.x.node, fired := m.fired, wave := m.wave, vals := vals } r.atoms })
      let res : LaneRes := lanesFrom c a b (16 - had.length) had.length s0 had
      match res with
      | .stop s1 l vals why =>
        let keep (s : State) : State := (log s vals).updSite c.x.node (fun x => { x with st := .mem { m with lane := l, vals := vals } })
        match why with
        | none => keep s1
        | some (code, sub, pte) =>
          if conf = .missing && read then keep s1
          else if code = 15 then nodeFault (keep s1) c.x.node 15
          else nodeAccessFault (keep s1) c.place c.x.node code sub (laneAddr c a l) pte (!read) l m.fired
      | .all s1 vals =>
        let s2 := log s1 vals
        if i.log && recording c.s c.place && (read || c.op = 0x42) then
          match logLanes c a vals m.logged (List.range 16) s2 with
          | .ok s3 seq => finish s3 vals seq
          | .wait => s2.updSite c.x.node (fun x => { x with st := .mem { m with lane := 16, vals := vals } })
          | .fault s3 code sub pte =>
            nodeAccessFault (s3.updSite c.x.node (fun x => { x with st := .mem { m with lane := 16, vals := vals } })) c.place c.x.node
              code sub (recordVa c.s c.place c.logPort) pte true 0 m.fired
        else finish s2 vals m.logged

/-- A step of a memory node: orders' framing dropped, confirmations owed taken, then framing on its data inputs by R151,
then a firing once its ORD is there. -/
def memStep (c0 : Ctx) : State :=
  let data := (memData c0.op).filter c0.streams
  let orders := (memOrders c0.op).filter c0.uses
  let c := checkHeads c0 (data ++ orders)
  let m := memOf c.x.st
  let drop := orders.filter (fun i => c.drops i (i = 2 && c.fromWriter i))
  let reset : MemSt := { m with fired := 0, lane := 0, vals := [], conf := 0, wave := 0 }
  let wave0 := match c.place.inst with | some i => i.wave | none => 0
  let ops : CellOps :=
    { data := data, idx := [0], frameOuts := [0], fire := fun _ => .wait, hdr := memHdr, flush := fun c => ([], c.x.st)
      sot := fun _ => .mem { m with fired := 0, wave := wave0 }, kill := fun _ => .mem reset, eot := fun c => .go [] c.x.st 0 [] }
  let all := data ++ orders
  if rollDue c.s c.place then c.s
  else if all.any (fun i => c.headIs i (fun k => k = .kill)) then killStep c ops all
  else if !drop.isEmpty then c.discard drop
  else if orders.any (fun i => c.headIs i (fun k => k ≠ .ord && !(k = .eot && i = 2))) then c.fail 3
  else if m.conf > 0 && (c.head 1).isSome && (memImm c.imm).conf then c.done [1] [] (.mem { m with conf := m.conf - 1 }) 0 (fun x => x)
  else match data.filterMap (fun i => c.head i) with
    | [] => c.s
    | hs =>
      if hs.any (fun t => t.kind.framing) || hs.length ≠ data.length || c.headIs 0 (fun k => k ≠ .data && k ≠ .idx) || c.headIs 1 (fun k => data.contains 1 && k ≠ .data) then
        let s1 := meet c ops
        let gone : Bool := match s1.site? c.x.node with | some x => (x.input 0).isEmpty | none => false
        match c.head 0 with
        | some t =>
          if !gone then s1
          else
            let s2 := if c.op = 0x41 || c.op = 0x44 then passMark s1 c.place c.x.node t else s1
            if t.kind = .mark then s2.updSite c.x.node (fun x =>
              match x.st with | .mem k => { x with st := .mem { k with wave := t.pay.toNat % 2 ^ 32 + 1 } } | _ => x) else s2
        | none => s1
      else if !c.room then c.s
      else if !c.x.segOpen then c.fail 4
      else if data.any (fun i => (c.hdr i).isNone) then c.fail 5
      else if c.uses 2 && (c.head 2).isNone then c.s
      else
        let a := c.tok 0 32
        let b := if data.contains 1 then c.tok 1 32 else voidTok .data false
        let used := data ++ (if c.uses 2 then [2] else [])
        memFire c a b used (c.anyVoid used)

/-- LD (R396). -/
def execCellLd (n : Node) (w : CellF) (s : State) : Out := runNode n w 0x40 memStep s

/-- ST (R397). -/
def execCellSt (n : Node) (w : CellF) (s : State) : Out := runNode n w 0x41 memStep s

/-- AT (R398). -/
def execCellAt (n : Node) (w : CellF) (s : State) : Out := runNode n w 0x42 memStep s

/-- LDA: an acquire at its scope (R236, R396). -/
def execCellLda (n : Node) (w : CellF) (s : State) : Out := runNode n w 0x43 memStep s

/-- STL: everything before it in its chain has been performed, since each access is one step; in a rollback region it
takes its place in the commit buffer (R232, R239, R397). -/
def execCellStl (n : Node) (w : CellF) (s : State) : Out := runNode n w 0x44 memStep s

end Sys2Proof.Machine
end

