-- ==== Sys2Proof/Machine/Slices.lean ====
section
/-! DEFINITION. Requests of generators at slices and at the LLC: hits, merges, groups, refusals, fills, write-backs and the
expander (R210-R220, R359, R364), each request and each answer a message (R23). -/

namespace Sys2Proof.Machine

/-! ### Requests and answers -/

def Req.slice (s : State) (r : Req) : Slice := sliceAt s r.die (sliceIndex r.iset r.pa)

/-- What an answer is as traffic (R26), and its bytes, which are the model's own arrangement (DESIGN CHOICE, assumption 13). -/
def RespKind.traffic : RespKind → Traffic
  | .ack _ | .refused _ _ => .control
  | _ => .response

def RespKind.bytes : RespKind → List Byte
  | .data bs => bs
  | .ack fl => [fl.setWidth 8]
  | .refused h _ => natBytes 2 h
  | .fault code sub pte => natBytes 1 code ++ natBytes 1 sub ++ natBytes 8 pte.toNat
  | .lost _ _ _ _ => [0]

/-- The endpoint of the core a request comes from: the block of a ring may be at home on another die (R97). -/
def Req.home (s : State) (r : Req) : BitVec 12 := coreEp (match s.place? r.place with | some p => p.die | none => r.die) r.core

/-- An answer sets out to a generator. -/
def respond (s : State) (r : Req) (k : RespKind) : State :=
  sendMessage { s with resps := s.resps ++ [{ place := r.place, port := r.port, elem := r.elem, kind := k, dead := r.dead }] }
    (packageMsg (sliceEp r.die (sliceIndex r.iset r.pa)) (r.home s) k.traffic 0 k.bytes (.gen r.place r.port r.elem))
    (.resp r.place r.port r.elem)

/-- What a read of a region in rollback mode is bound to: the bytes, under the region's uncommitted writes (R230, R239). -/
def bound (s : State) (r : Req) (bs : List Byte) : List Byte :=
  match (s.place? r.place).bind (regionRb s) with
  | some b => if r.comp.isNone then overHeld r.pa bs b.held else bs
  | none => bs

/-- A read is answered from what a level delivers: an uncorrectable word is a fault, a corrected one taints (R202). -/
def serveRead (s : State) (r : Req) (g : Got) : State :=
  if !g.bad.isEmpty then respond s r (.fault 10 1 0)
  else
    let s1 := match s.place? r.place with | some p => if g.fixed.isEmpty then s else taint s p 1 | none => s
    respond s1 r (.data (bound s1 r g.data))

/-- The part of its line that a request asks for. -/
def Req.cut (r : Req) (g : Got) : Got := g.cut (r.pa / 128 * 128) r.pa r.len

/-- A read is answered from a line of its slice. -/
def serveLine (s : State) (x : Slice) (r : Req) (l : SLine) : State :=
  serveRead (s.setSlice (x.touch (l.got r.pa r.len).1)) r (l.got r.pa r.len).2

/-- The bytes a write leaves at its place. -/
def maskBytes (old : List Byte) (bs : List (Byte × Bool)) : List Byte :=
  ((List.range old.length).zip old).map (fun p => match bs[p.1]? with | some (b, true) => b | _ => p.2)

/-- op(m, x) of R359 on elements of a format. -/
def combine (op fmt : Nat) (sat : Bool) (m x : Nat) : Nat × Flags :=
  let rs : Rs := { mode := 0, sat := sat }
  let w := fmtWidth fmt
  let num (n : Nat) : Int := if fmt = 10 then (n : Int) else signed w n
  match op with
  | 0 => match floatFmt fmt with
    | some f => fpAdd rs f (f.read m) (f.read x)
    | none => fitInt w (fmt ≠ 10) sat (num m + num x)
  | 1 | 2 => match floatFmt fmt with
    | some f => fpPick (op = 2) f m x (f.read m) (f.read x)
    | none => (if (decide (num m < num x)) != (op = 2) then m else x, 0)
  | 3 => (m &&& x, 0)
  | 4 => (m ||| x, 0)
  | _ => (m ^^^ x, 0)

/-- What a write or a REDUCE makes of the bytes at its place, and the flags it raises. -/
def Req.newBytes (r : Req) (old : List Byte) : List Byte × Flags :=
  match r.kind with
  | .write bs => (maskBytes old bs, 0)
  | .reduce op fmt sat bs =>
    let (v, fl) := combine op fmt sat (bytesNat old) (bytesNat bs)
    (natBytes r.len v, fl)
  | _ => (old, 0)

/-- A write that covers a word with an uncorrectable error in part meets it, and so does any combination, which reads its word
(R202). -/
def Req.meets (r : Req) (ws : List Nat) : Bool :=
  match r.kind with
  | .reduce _ _ _ _ => ws.any (inWord r.pa r.len)
  | _ => torn ws r.pa r.len

/-! ### Pending entries (R213, R214) -/

/-- An entry is free for a request: the one reserved for a PRIO request is its alone. (DESIGN CHOICE, assumption 72.) -/
def Slice.room (x : Slice) (r : Req) : Bool :=
  match x.resv with
  | some (p, q, e, _) => if p = r.place ∧ q = r.port ∧ e = r.elem then x.pend.length < 48 else x.hasRoom
  | none => x.hasRoom

/-- The retry hint (R214). -/
def retryHint (x : Slice) (now : Nat) : Nat :=
  let oldest := (x.pend.map (fun p => p.taken)).foldl min now
  (max 16 (512 - (now - oldest)) + 15) / 16 * 16

/-- A full slice refuses; the first PRIO request it refuses reserves the next entry for 1024 cycles. -/
def refuse (s : State) (x : Slice) (r : Req) : State :=
  let x1 := if r.prio && x.resv.isNone then { x with resv := some (r.place, r.port, r.elem, s.cycle + 1024) } else x
  respond (s.setSlice x1) r (.refused (retryHint x s.cycle) r)

/-- A request takes an entry, and with it the reservation it held. -/
def Slice.take (x : Slice) (r : Req) (p : Pend) : Slice :=
  let held := match x.resv with | some (a, b, e, _) => a = r.place && b = r.port && e = r.elem | none => false
  { x with pend := x.pend ++ [p], resv := if held then none else x.resv }

def newPend (s : State) (r : Req) (kind : PendKind) (waiting held : List Req) : Pend :=
  { emptyPend 0 r.line s.cycle kind with waiting := waiting, held := held, share := r.share, comp := r.comp
                                         install := r.policy = 0 || r.policy = 2 }

/-- The bytes a request of the LLC carries. -/
def Req.carried (r : Req) : List Byte :=
  match r.kind with
  | .write bs => bs.map (fun b => b.1)
  | .reduce _ _ _ bs => bs
  | _ => []

/-- A request takes an entry, and the slice asks the LLC: for the line, or for what `q` says. -/
def askLlc (s : State) (x : Slice) (r : Req) (p : Pend) (q : Option Req) : State :=
  let (no, s1) := takeSerial s
  sendLlc (s1.setSlice (x.take r { p with no := no }))
    { no := no, die := x.die, slice := x.idx, line := r.line, req := q, back := false } ((q.map Req.carried).getD [])

/-- The fill or group entry of a line. -/
def Slice.filling (x : Slice) (line : Nat) : Option Pend :=
  x.pend.find? (fun p => p.line = line && (p.kind = .fill || (p.kind = .mcast && p.data.isEmpty)))

def Slice.updPend (x : Slice) (p : Pend → Bool) (f : Pend → Pend) : Slice := { x with pend := updBy p f x.pend }

/-- A request waits behind an entry of its line. -/
def holdBehind (s : State) (x : Slice) (r : Req) (p : Pend → Bool) : State :=
  s.setSlice (x.updPend p (fun q => { q with held := q.held ++ [r] }))

/-- The entry under which a line of the request is written back. -/
def Req.back (r : Req) (p : Pend) : Bool := p.line = r.line && p.kind = .writeback

/-! ### Writes and reads on a line that the slice holds (R210) -/

/-- A dirty line leaves for the LLC, and the request that drives it out follows once the write-back is acknowledged. -/
def driveOut (s : State) (x : Slice) (r : Req) (l : SLine) : State :=
  let s1 := writeBack (s.setSlice (x.drop l.line)) x.die x.idx l []
  holdBehind s1 (sliceAt s1 x.die x.idx) r r.back

/-- A write or a REDUCE of the line a slice holds: the line changes, and a write-through sends the bytes on. It is
acknowledged here, or by the LLC where its scope asks that. An uncached write drives a dirty line out first (R210). -/
def onHeldLine (s : State) (x : Slice) (r : Req) (l : SLine) : State :=
  let pol := if r.share && r.policy < 2 then 2 else r.policy
  if r.meets l.bad then respond s r (.fault 10 1 0)
  else if pol ≥ 2 && !x.room r then refuse s x r
  else
    let (new, fl) := r.newBytes ((l.data.drop (r.pa % 128)).take r.len)
    let l1 := l.put r.pa new
    let s1 := markRing s r.pa r.len
    let w : Req := { r with kind := .write (new.map (fun b => (b, true))) }
    if pol ≤ 1 then respond (s1.setSlice ((x.touch { l1 with dirty := true }).written r.line)) r (.ack fl)
    else if pol = 2 then
      if r.fromLlc then askLlc s1 (x.touch l1) r (newPend s r .forward [w] []) (some w)
      else respond (askLlc s1 ((x.touch l1).written r.line) r (newPend s r .forward [] []) (some w)) r (.ack fl)
    else if l.dirty then driveOut s x r l
    else askLlc s (x.drop r.line) r (newPend s r .llc [r] []) (some r)

/-! ### SLICE_REQUEST -/

/-- A request that misses and needs an entry: a fill where its policy allocates, else an access at the LLC. -/
def missRequest (s : State) (x : Slice) (r : Req) (write : Bool) : State :=
  if !x.room r then refuse s x r
  else
    let alloc := if write then r.policy = 0 && !r.share else r.policy = 0 || r.policy = 2
    if alloc then
      let p := newPend s r .fill (if write then [] else [r]) (if write then [r] else [])
      if r.comp.isSome then s.setSlice (x.take r p) else askLlc s x r p none
    else if r.comp.isSome then s.setSlice (x.take r (newPend s r .fill [r] []))
    else askLlc s x r (newPend s r .llc [r] []) (some r)

/-- A read at its slice. One that is to be bound from the LLC never takes the slice's copy, and joins no fill that the LLC has
answered; where the slice has no copy it fills the line as usual (R238). -/
def readRequest (s : State) (x : Slice) (r : Req) : State :=
  match x.groups.find? (fun g => g.line = r.line && !g.closed) with
  | some _ => s.setSlice { x with groups := updBy (fun h => h.line = r.line && !h.closed) (fun h => { h with joined := h.joined ++ [r] }) x.groups }
  | none =>
    if x.writingBack r.line then holdBehind s x r r.back
    else if r.fromLlc && r.share && ((x.find r.line).isSome || (match x.filling r.line with | some p => p.answer.isSome | none => false)) then
      if !x.room r then refuse s x r else askLlc s x r (newPend s r .llc [r] []) (some r)
    else match x.find r.line with
      | some l => serveLine s x r l
      | none => match x.filling r.line with
        | some p =>
          if p.acked then holdBehind s x r (fun q => q = p)
          else s.setSlice (x.updPend (fun q => q = p) (fun q => { q with waiting := q.waiting ++ [r] }))
        | none => missRequest s x r false

/-- A write or REDUCE at its slice. A combination at PACKAGE or SYSTEM has the LLC for its coherence point: a line that is
dirty is written back, and leaves (R231, R236). -/
def writeRequest (s : State) (x : Slice) (r : Req) : State :=
  let atLlc := (match r.kind with | .reduce _ _ _ _ => r.fromLlc | _ => false)
  match x.filling r.line with
  | some p => holdBehind s x r (fun q => q = p)
  | none =>
    if x.writingBack r.line then holdBehind s x r r.back
    else match x.find r.line with
      | some l =>
        if !atLlc then onHeldLine s x r l
        else if !x.room r then refuse s x r
        else if l.dirty then driveOut s x r l
        else askLlc s (x.drop r.line) r (newPend s r .llc [r] []) (some r)
      | none =>
        if !atLlc then missRequest s x r true
        else if !x.room r then refuse s x r
        else askLlc s x r (newPend s r .llc [r] []) (some r)

/-- An MCAST read: it waits while the line's group is open or the line is written back or filled, takes an entry and one of 8
group slots, and is performed from the line or a fill (R215, R216, R217). -/
def mcastRequest (s : State) (x : Slice) (r : Req) (mask : Nat) : State :=
  if x.groups.any (fun g => g.line = r.line) then s.setSlice { x with waitMcast := x.waitMcast ++ [r] }
  else if x.writingBack r.line then holdBehind s x r r.back
  else match x.filling r.line with
    | some p => holdBehind s x r (fun q => q = p)
    | none =>
      if x.groups.length ≥ 8 || !x.room r then refuse s x r
      else
        let x1 := { x with groups := x.groups ++ [{ line := r.line, mask := mask, req := r, joined := [], closed := false }] }
        match if r.fromLlc && r.share then none else x.find r.line with
        | some l =>
          s.setSlice ((x1.touch { l with soft := [] }).take r { newPend s r .mcast [] [] with data := l.data, bad := l.bad, fixed := l.soft })
        | none =>
          if r.comp.isSome then s.setSlice (x1.take r (newPend s r .mcast [] [])) else askLlc s x1 r (newPend s r .mcast [] []) none

/-- PREFETCH and FLUSH of a line (R364). -/
def lineRequest (s : State) (x : Slice) (r : Req) : State :=
  match r.kind with
  | .prefetch =>
    if r.policy = 1 ∨ r.policy = 3 ∨ (x.find r.line).isSome then respond s r (.ack 0)
    else match x.filling r.line with
      | some p => s.setSlice (x.updPend (fun q => q = p) (fun q => { q with waiting := q.waiting ++ [r] }))
      | none => if x.writingBack r.line then holdBehind s x r r.back else missRequest s x r false
  | .flush inv =>
    match x.find r.line with
    | some l =>
      if l.dirty then
        if !x.room r then refuse s x r
        else writeBack (s.setSlice (if inv then x.drop r.line else x.touch { l with dirty := false })) x.die x.idx l [r]
      else if x.writingBack r.line then holdBehind s x r r.back
      else respond (s.setSlice (if inv then x.drop r.line else x)) r (.ack 0)
    | none =>
      if x.writingBack r.line then s.setSlice (x.updPend r.back (fun q => { q with waiting := q.waiting ++ [r] }))
      else respond s r (.ack 0)
  | _ => s

/-- A request is performed or refused at its slice. -/
def sliceTakes (s : State) (r : Req) : State :=
  if !stackReady s r.pa && ((r.slice s).find r.line).isNone then respond s r (.fault 10 2 0)
  else
    let x := r.slice s
    match r.kind with
    | .read => readRequest s x r
    | .write _ | .reduce _ _ _ _ => writeRequest s x r
    | .mcast mask _ => mcastRequest s x r mask
    | .prefetch | .flush _ => lineRequest s x r
    | .remote _ => s

def ReqKind.isRemote : ReqKind → Bool
  | .remote _ => true
  | _ => false

/-- An element read comes to its slice once the reads of every earlier element of its command are bound (R238). -/
def inOrder (s : State) (r : Req) : Bool :=
  let reads : Bool := match r.kind with | .read | .mcast _ _ | .reduce _ _ _ _ => true | _ => false
  match if reads then (s.place? r.place).bind (fun p => p.port? r.port) else none with
  | some q =>
    let older (x : Running) : List Elem := x.elems.takeWhile (fun e => e.st ≠ .sent r.elem)
    q.runs.all (fun x => !x.elems.any (fun e => e.st = .sent r.elem) ||
      (older x).all (fun e => match e.st with | .sent _ | .retry _ _ => false | _ => true))
  | none => true

/-- The i-th request in transit and the others, once its message has reached the slice, unless an older one of its port to the
same line is on the way; a request of a remote device goes to no slice. -/
def pickReq (s : State) (i : Nat) : Option (Req × List Req) :=
  match s.reqs[i]? with
  | none => none
  | some r =>
    if r.kind.isRemote || !s.arrived (.req r.place r.port r.elem) || !inOrder s r ||
       (s.reqs.take i).any (fun q => q.place = r.place && q.port = r.port && q.line = r.line) then none
    else some (r, s.reqs.eraseIdx i)

/-- SLICE_REQUEST: a request reaches its slice; one that touches the line of a ring control block goes to the block's home slice
(R97). -/
def execSliceRequest (i : Nat) (s : State) : Out :=
  match pickReq s i with
  | none => .next s
  | some (r, rest) =>
    let r1 := match if r.comp.isSome then none else s.ringLine r.pa r.len with
      | some g => { r with die := g.die, iset := g.iset }
      | none => r
    .next (sliceTakes { s with reqs := rest } r1)

/-! ### Fills (R215, R220) -/

/-- Requests held behind a fill, in arrival order, on the line as it stands; any other goes round again, the oldest first (R215, R228). -/
def serveHeld : List Req → State → State
  | [], s => s
  | r :: rs, s =>
    let x := r.slice s
    let later : State := let s1 := serveHeld rs s; { s1 with reqs := r :: s1.reqs }
    match x.find r.line, r.kind with
    | some l, .read => serveHeld rs (serveLine s x r l)
    | some l, .write _ => serveHeld rs (onHeldLine s x r l)
    | some l, .reduce _ _ _ _ => if r.fromLlc then later else serveHeld rs (onHeldLine s x r l)
    | _, _ => later

/-- Requests that waited on a fill, from its bytes. -/
def serveWaiting (g : Got) : List Req → State → State
  | [], s => s
  | r :: rs, s => serveWaiting g rs (match r.kind with
      | .read => serveRead s r (r.cut g)
      | _ => respond s r (.ack 0))

/-- A fill with its bytes arrives: waiting reads are served, the line installed and held requests applied; the group of
an MCAST read keeps the entry (R210, R215, R217). Nothing moves while a dirty victim finds no entry (R213). -/
def fillArrives (s : State) (x : Slice) (p : Pend) (g : Got) : State :=
  let x1 := if p.kind = .mcast then
      x.updPend (fun q => q = p) (fun q => { q with data := g.data, bad := g.bad, fixed := g.fixed, waiting := [], held := [], answer := none })
    else { x with pend := dropFirst (fun q => q = p) x.pend }
  let dirty := match x.victim p.line with | some v => v.dirty | none => false
  if p.install && dirty && x1.pend.length ≥ 48 then s
  else
    let s1 := if p.install then installAt s x1 (filled p.line p.share g) else s.setSlice x1
    serveHeld p.held (serveWaiting g p.waiting s1)

/-- What a fill brings. -/
def Pend.got (p : Pend) (data : List Byte) : Got := { data := data, bad := p.bad, fixed := p.fixed }

/-- The LLC's answer to a read, a write or a forward ends its entry; the requests it was for are answered. -/
def llcAnswers (s : State) (x : Slice) (p : Pend) (k : RespKind) : State :=
  let y := { x with pend := dropFirst (fun q => q = p) x.pend }
  let isWrite := p.waiting.any (fun r => match r.kind with | .write _ | .reduce _ _ _ _ => true | _ => false)
  let s1 := s.setSlice (if isWrite then y.written p.line else y)
  p.waiting.foldl (fun st r =>
    let st1 := match st.place? r.place with | some q => if p.fixed.isEmpty then st else taint st q 1 | none => st
    respond st1 r k) s1

/-- SLICE_FILL_INSTALL: the LLC's answer for a line reaches the slice. -/
def execSliceFillInstall (die slice line : Nat) (s : State) : Out :=
  let x := sliceAt s die slice
  match x.pend.find? (fun p => p.line = line && p.answer.isSome && p.kind ≠ .writeback && s.arrived (.fromLlc p.no)) with
  | none => .next s
  | some p => match p.answer, p.kind with
    | some (.data d), .fill => .next (fillArrives s x p (p.got d))
    | some (.data d), .mcast => .next (fillArrives s x p (p.got d))
    | some k, _ => .next (llcAnswers s x p k)
    | none, _ => .next s

/-- WRITEBACK_ACK: the LLC's acknowledgement of a write-back arrives: FLUSH is answered, and accesses that waited are served
anew, as misses (R211). -/
def execWritebackAck (die slice line : Nat) (s : State) : Out :=
  let x := sliceAt s die slice
  match x.pend.find? (fun p => p.line = line && p.kind = .writeback && p.answer.isSome && s.arrived (.fromLlc p.no)) with
  | none => .next s
  | some p =>
    let x1 := { x with pend := dropFirst (fun q => q = p) x.pend }
    let s1 := s.setSlice (if p.held.isEmpty then x1 else x1.drop line)
    let s2 := p.waiting.foldl (fun st r => respond st r (.ack 0)) s1
    .next { s2 with reqs := p.held ++ s2.reqs }

/-- EXPANDER_DECODE_DONE: the tile of a compressed line is decoded and the line installed, or every requester that waits
meets the fault, those of an MCAST group with it (R220, R222). -/
def execExpanderDecodeDone (die slice line : Nat) (s : State) : Out :=
  let x := sliceAt s die slice
  match x.pend.find? (fun p => p.line = line && p.comp.isSome && p.data.isEmpty) with
  | none => .next s
  | some p => match p.comp with
    | none => .next s
    | some w =>
      let pa := (line - 2 ^ 41) * 128
      match tileFor s die slice w ((pa - w.dir) / 4096) with
      | (s1, .tile bs f) =>
        .next (fillArrives s1 (sliceAt s1 die slice) p
          { data := tileLine bs pa, bad := [], fixed := if f then (List.range 16).map (fun i => pa / 8 + i) else [] })
      | (s1, .fault code sub) =>
        let gs := if p.kind = .mcast then x.groups.filter (fun g => g.line = line) else []
        let x1 := sliceAt s1 die slice
        let again := if p.kind = .mcast then x.waitMcast.filter (fun r => r.line = line) else []
        let s2 := s1.setSlice { x1 with
          pend := dropFirst (fun q => q = p) x1.pend
          groups := x1.groups.filter (fun g => !gs.contains g)
          waitMcast := if p.kind = .mcast then x1.waitMcast.filter (fun r => r.line ≠ line) else x1.waitMcast }
        let s3 := (gs.flatMap (fun g => g.req :: g.joined) ++ p.waiting ++ p.held).foldl (fun st r => respond st r (.fault code sub 0)) s2
        .next { s3 with reqs := again ++ s3.reqs }

/-- PRIO_RESERVATION_EXPIRE: after 1024 cycles a reservation lapses (R214). -/
def execPrioReservationExpire (die slice : Nat) (s : State) : Out :=
  let x := sliceAt s die slice
  match x.resv with
  | some (_, _, _, t) => if t ≤ s.cycle then .next (s.setSlice { x with resv := none }) else .next s
  | none => .next s

/-! ### The LLC (R218) -/

/-- The LLC's answer sets out to the slice, whose entry it is for. -/
def llcReply (s : State) (q : LReq) (k : RespKind) (bad fixed : List Nat) : State :=
  let x := sliceAt s q.die q.slice
  sendMessage (s.setSlice (x.updPend (fun p => p.no = q.no) (fun p =>
      { p with answer := some k, bad := if p.kind = .writeback then p.bad else bad, fixed := p.fixed ++ fixed })))
    (packageMsg (llcEp (baseOf q.line)) (sliceEp q.die q.slice) k.traffic 0 k.bytes (.slice q.no)) (.fromLlc q.no)

/-- The LLC performs a slice's request and answers it. (DEDUCED, assumption 60.) -/
def llcPerform (s : State) (q : LReq) : State :=
  match q.req with
  | none =>
    if q.back then
      match (sliceAt s q.die q.slice).pend.find? (fun p => p.no = q.no) with
      | some p => llcReply (llcBack s q.line p.data p.bad) q (.ack 0) [] []
      | none => s
    else
      let (s1, g) := llcGet s (q.line * 128) 128
      llcReply s1 q (.data g.data) g.bad g.fixed
  | some r => match r.kind with
    | .read =>
      let (s1, g) := llcGet s r.pa r.len
      if g.bad.isEmpty then llcReply s1 q (.data (bound s1 r g.data)) [] g.fixed else llcReply s1 q (.fault 10 1 0) [] []
    | .write _ | .reduce _ _ _ _ =>
      let (s1, _) := llcHold s q.line
      if r.meets (llcAt s1 (baseOf q.line)).bad then llcReply s1 q (.fault 10 1 0) [] []
      else
        let (new, fl) := r.newBytes (memRead s1.mem r.pa r.len)
        llcReply (llcPut (markRing s1 r.pa r.len) r.pa new) q (.ack fl) [] []
    | _ => s

/-- Requests of a queue to a line that is resident are performed in order. -/
def llcServe (line : Nat) : List LReq → State → State
  | [], s => s
  | q :: qs, s => llcServe line qs (if q.line = line then llcPerform s q else s)

/-- A request enters the queue: performed at once where its line is resident and nothing to the line stands before it,
else it waits for the line's fill from HBM4E. -/
def llcEnter (s : State) (base : Nat) (q : LReq) : State :=
  let x := llcAt s base
  if x.lines.contains q.line && !x.queue.any (fun y => y.line = q.line) then llcPerform s q
  else s.setLlc { x with queue := x.queue ++ [q], fills := if x.fills.contains q.line then x.fills else x.fills ++ [q.line] }

/-- LLC_REQUEST: a request that has reached the LLC enters the queue, or the annex while the queue is full or the annex holds
anything; a full annex holds it where it is. -/
def execLlcRequest (i : Nat) (s : State) : Out :=
  match s.lreqs[i]? with
  | none => .next s
  | some q =>
    if !s.arrived (.toLlc q.no) || (s.lreqs.take i).any (fun y => y.line = q.line && y.die = q.die && y.slice = q.slice) then .next s
    else
      let base := baseOf q.line
      let x := llcAt s base
      let s1 := { s with lreqs := s.lreqs.eraseIdx i }
      if x.queue.length < 1024 && x.annex.isEmpty then .next (llcEnter s1 base q)
      else if x.annex.length < Config.annexEntries then .next (s1.setLlc { x with annex := x.annex ++ [q] })
      else .next s

/-- Annex entries move into the queue as entries free. -/
def annexMoves (base : Nat) : Nat → State → State
  | 0, s => s
  | k + 1, s =>
    let x := llcAt s base
    match x.annex with
    | [] => s
    | q :: qs => if x.queue.length < 1024 then annexMoves base k (llcEnter (s.setLlc { x with annex := qs }) base q) else s

/-- LLC_FILL: the line is resident, and the requests that wait on it are performed in their order; what HBM4E corrected goes to
the first of them that consumes it (R202). -/
def execLlcFill (base line : Nat) (s : State) : Out :=
  let x := llcAt s base
  if !x.fills.contains line then .next s
  else
    let (s1, fixed) := llcHold (s.setLlc { x with fills := x.fills.filter (fun y => y ≠ line), queue := x.queue.filter (fun q => q.line ≠ line) }) line
    let y := llcAt s1 base
    let s2 := llcServe line x.queue (s1.setLlc { y with soft := y.soft ++ fixed })
    let z := llcAt s2 base
    .next (annexMoves base 1024 (s2.setLlc { z with soft := z.soft.filter (fun w => !fixed.contains w) }))

end Sys2Proof.Machine
end

