-- ==== Sys2Proof/Machine/Routers.lean ====
section
/-! DEFINITION. The six router operators of a switch box's slots (R156, R161, R162, R388, R389). -/

namespace Sys2Proof.Machine

/-- What a router operator works with. -/
structure RCtx where
  s : State
  place : Place
  x : RSlot
  used : List Nat

def RCtx.head (c : RCtx) (i : Nat) : Option Token := (c.x.input i).head?

def RCtx.kind (c : RCtx) (i : Nat) : Option Kind := (c.head i).map (fun t => t.kind)

/-- The heads of some inputs are consumed; DATA counts toward the tile's sidecar (R189). -/
def RSlot.eat (x : RSlot) (is : List Nat) : RSlot :=
  let data (i : Nat) : Nat := bit1 (is.contains i && (match (x.input i).head? with | some t => t.kind = .data | none => false))
  { is.foldl (fun y i => y.setInput i ((y.input i).drop 1)) x with beats := x.beats.mapIdx (fun i n => n + data i) }

/-- The slot with its heads consumed, tokens sent and its state as given. (DEDUCED, assumption 46.) -/
def RCtx.done (c : RCtx) (eat : List Nat) (out : List (Nat × Token)) (st : OpSt) : State :=
  c.s.updSlot c.x.node c.x.slot (fun x => { x.eat eat with out := x.out ++ out, st := st })

def RCtx.fail (c : RCtx) (code : Nat) : State := slotFault c.s c.x.node c.x.slot code

/-- The context of a slot that may act now: configured, not frozen, its place moving; its result place is free. -/
def slotCtx (s : State) (n : Node) (w : RopF) : Option RCtx :=
  match s.place? n.place, s.rslot? n w.slot with
  | some p, some x =>
    if x.frozen || !placeMoves s p || !x.out.isEmpty then none
    else some { s := s, place := p, x := x, used := (List.range 3).filter (fun i => [w.in0, w.in1, w.in2].getD i 0 ≠ 0) }
  | _, _ => none

/-- Every head is checked as at any consumer (R148, R200). -/
def RCtx.check (c : RCtx) : RCtx :=
  c.used.foldl (fun c i =>
    match c.head i with
    | none => c
    | some t =>
      if t.chk = .good && t.res = residues t.pay then c
      else
        let (s1, t1) := inspect c.s c.place c.x.node t true
        let put (x : RSlot) : RSlot := x.setInput i (t1 :: (x.input i).drop 1)
        { c with s := s1.updSlot c.x.node c.x.slot put, x := put c.x }) c

/-- What an operator supplies: the input that decides, the inputs that take part in framing, the outputs, its state
after SOT and after KILL, whether the control may be ORD or DONE, and its firing. -/
structure RopOps where
  decider : RCtx → Nat
  data : List Nat
  outs : List Nat
  sot : RCtx → OpSt
  kill : OpSt
  orders : Bool
  fire : RCtx → State

/-- KILL by R151's first row. -/
def slotKill (c : RCtx) (h : RopOps) : State :=
  let waiting := c.used.filter (fun i => c.kind i ≠ some .kill)
  if waiting.isEmpty then
    c.s.updSlot c.x.node c.x.slot (fun x => { x.eat c.used with
      out := toAll h.outs (plainTok .kill 0), st := h.kill, hdrs := [none, none, none], segOpen := false })
  else c.s.updSlot c.x.node c.x.slot (fun x => x.eat waiting)

/-- A kind that no router input takes (R388), but ORD and DONE at GATE's control. -/
def ropKindBad (h : RopOps) (i : Nat) : Kind → Bool
  | .ctrl | .rsvd _ => true
  | .ord | .done => !(h.orders && i = 1)
  | _ => false

/-- The framing violation of a framing token at the inputs that take part, 0 if there is none (R158, R189). -/
def RCtx.framing (c : RCtx) (ins : List Nat) (t : Token) : Nat :=
  if ins.any (fun i => sidecarShort (c.x.hdrs.getD i none) (c.x.beats.getD i 0) t.kind) then 5
  else match t.kind with
  | .sot => if c.x.segOpen then 4 else 0
  | .hdr =>
    if !c.x.segOpen then 4
    else if ins.any (fun i => match c.head i with | some u => !hdrOk u | none => false) then 5 else 0
  | .eot => if !c.x.segOpen then 4 else if ins.any (fun i => (c.x.hdrs.getD i none).isNone) then 5 else 0
  | _ => if !c.x.segOpen then 4 else 0

/-- The framing violation of a token that is used at an input: DATA outside a segment or before its HDR (R158). -/
def RCtx.unframed (c : RCtx) (i : Nat) : Nat :=
  match c.head i with
  | some t => if t.kind ≠ .data then 0 else if !c.x.segOpen then 4 else if (c.x.hdrs.getD i none).isNone then 5 else 0
  | none => 0

/-- What a framing token leaves of a slot's segment and headers, and of its snapshots (R158, R250). -/
def RSlot.framed (ins : List Nat) (c : RCtx) (t : Token) (x : RSlot) : RSlot :=
  match t.kind with
  | .sot => { x with segOpen := true, hdrs := [none, none, none] }
  | .hdr => { x with beats := x.beats.mapIdx (fun i n => if ins.contains i then 0 else n), hdrs := (List.range 3).map (fun i => if ins.contains i then c.head i else x.hdrs.getD i none) }
  | .eot => { x with segOpen := false, hdrs := [none, none, none] }
  | .mark => x.snap (t.pay.toNat % 2 ^ 32)
  | _ => x

/-- One firing of a router operator: KILL, then kinds, then framing with the token that decides, then the choice. -/
def ropStep (c0 : RCtx) (h : RopOps) : State :=
  let c := c0.check
  if rollDue c.s c.place then c.s
  else if c.used.any (fun i => c.kind i = some .kill) then slotKill c h
  else if c.used.any (fun i => match c.kind i with | some k => ropKindBad h i k | none => false) then c.fail 3
  else match c.head (h.decider c) with
    | none => c.s
    | some t =>
      if t.kind.framing then
        if h.data.any (fun i => match c.kind i with | some k => k ≠ t.kind | none => false) then c.fail 4
        else if h.data.any (fun i => (c.kind i).isNone) then c.s
        else
          let code := c.framing h.data t
          if code ≠ 0 then c.fail code
          else
            let st := if t.kind = .sot then h.sot c else c.x.st
            let one := match c.head 0 with | some u => u | none => t
            (c.done h.data (toAll h.outs one) st).updSlot c.x.node c.x.slot (RSlot.framed h.data c t)
      else
        let code := c.unframed (h.decider c)
        if code ≠ 0 then c.fail code else h.fire c

/-- A data input that heads a framing kind where the operator is to take a token from it is an ALIGN fault; a token
there is given to `f`, marked VOID where the token that decided was. -/
def RCtx.take (c : RCtx) (i : Nat) (void : Bool) (f : Token → State) : State :=
  match c.head i with
  | none => c.s
  | some t =>
    if t.kind.framing then c.fail 4
    else
      let code := c.unframed i
      if code ≠ 0 then c.fail code else f { t with void := t.void || void }

def runRop (n : Node) (w : RopF) (h : RopOps) (s : State) : Out :=
  match slotCtx s n w with
  | some c => .next (ropStep c h)
  | none => .next s

/-- Whether the deciding token at input `i` is nonzero, and whether it is VOID. -/
def RCtx.decision (c : RCtx) (i : Nat) : Bool × Bool :=
  match c.head i with
  | some t => (t.decides, t.void)
  | none => (false, false)

/-- STEER: data to output 0 where the predicate is nonzero, else to output 1. -/
def execRopSteer (n : Node) (w : RopF) (s : State) : Out :=
  runRop n w
    { decider := fun _ => 1, data := [0, 1], outs := [0, 1], sot := fun c => c.x.st, kill := .none, orders := false
      fire := fun c =>
        let (yes, void) := c.decision 1
        c.take 0 void (fun t => c.done [0, 1] [(if yes then 0 else 1, t)] c.x.st) } s

/-- MERGE: the next token of the data input that the control names. -/
def execRopMerge (n : Node) (w : RopF) (s : State) : Out :=
  runRop n w
    { decider := fun _ => 2, data := [0, 1, 2], outs := [0], sot := fun c => c.x.st, kill := .none, orders := false
      fire := fun c =>
        let (yes, void) := c.decision 2
        let i := if yes then 1 else 0
        c.take i void (fun t => c.done [i, 2] [(0, t)] c.x.st) } s

/-- The state of CARRY. -/
def looping : OpSt → Bool
  | .carry b => b
  | _ => false

/-- CARRY: the initial token, then back edges while the predicate is nonzero. -/
def execRopCarry (n : Node) (w : RopF) (s : State) : Out :=
  runRop n w
    { decider := fun c => if looping c.x.st then 2 else 0, data := [0, 1, 2], outs := [0], sot := fun _ => .carry false
      kill := .carry false, orders := false
      fire := fun c =>
        if looping c.x.st then
          let (yes, void) := c.decision 2
          if yes then c.take 1 void (fun t => c.done [1, 2] [(0, t)] c.x.st)
          else c.done [2] [] (.carry false)
        else c.take 0 false (fun t => c.done [0] [(0, t)] (.carry true)) } s

/-- INVAR: a held value for each control token; LAST empties it. An empty one takes its value as it comes, with the control token
that is there, or ahead of it. -/
def execRopInvar (n : Node) (w : RopF) (s : State) : Out :=
  let ops : RopOps :=
    { decider := fun _ => 1, data := [0, 1], outs := [0], sot := fun c => c.x.st, kill := .invar none, orders := false
      fire := fun c =>
        let last := match c.head 1 with | some t => t.last | none => false
        let (_, void) := c.decision 1
        let send (v : Token) (eat : List Nat) : State :=
          c.done eat [(0, { v with void := v.void || void })] (.invar (if last then none else some v))
        match c.x.st with
        | .invar (some v) => send v [1]
        | _ => c.take 0 false (fun t => send t [0, 1]) }
  match slotCtx s n w with
  | none => .next s
  | some c0 =>
    let c := c0.check
    let empty := match c.x.st with | .invar (some _) => false | _ => true
    let early := (match c.kind 1 with | none => true | some k => k.framing) && (c.kind 0 = some .data || c.kind 0 = some .idx)
    if empty && early && !rollDue c.s c.place then .next (c.take 0 false (fun t => c.done [0] [] (.invar (some t))))
    else .next (ropStep c0 ops)

/-- Deals an output's lanes from the two arms by the arms an IDX beat names. -/
def dealLanes : List Nat → List Cont → List Cont → Option (List Cont × List Cont × List Cont)
  | [], a, b => some ([], a, b)
  | k :: ks, a, b =>
    match (if k = 0 then a else b) with
    | [] => none
    | x :: r => match (if k = 0 then dealLanes ks r b else dealLanes ks a r) with
      | some (out, a1, b1) => some (x :: out, a1, b1)
      | none => none

/-- ORDMERGE: an arm that runs short first takes its next beat in hand. -/
def execRopOrdmerge (n : Node) (w : RopF) (s : State) : Out :=
  runRop n w
    { decider := fun _ => 2, data := [0, 1, 2], outs := [0], sot := fun _ => .ord [] [], kill := .ord [] [], orders := false
      fire := fun c =>
        match c.head 2, c.x.st with
        | some t, .ord a b =>
          let ks := (List.range 16).map t.lane
          let need (k : Nat) : Nat := (ks.filter (fun j => j = k)).length
          if ks.any (fun k => k > 1) then c.fail 4
          else if a.length < need 0 then c.take 0 false (fun u => c.done [0] [] (.ord (a ++ u.conts) b))
          else if b.length < need 1 then c.take 1 false (fun u => c.done [1] [] (.ord a (b ++ u.conts)))
          else match dealLanes ks a b with
            | some (out, a1, b1) =>
              let beat := contBeat .data out t.last
              c.done [2] [(0, { beat with void := beat.void || t.void })] (.ord a1 b1)
            | none => c.s
        | _, _ => c.s } s

/-- GATE: data passes where the control is nonzero, or, for ORD and DONE, where VOID is clear. Framing on the data input beside an
ORD or DONE is a mix, an ALIGN fault (R388; DEDUCED, assumption 160). -/
def execRopGate (n : Node) (w : RopF) (s : State) : Out :=
  runRop n w
    { decider := fun _ => 1, data := [0, 1], outs := [0], sot := fun c => c.x.st, kill := .none, orders := true
      fire := fun c =>
        match c.head 1 with
        | some k =>
          let order := k.kind = .ord || k.kind = .done
          let pass := if order then !k.void else k.decides
          c.take 0 (!order && k.void) (fun t => c.done [0, 1] (if pass then [(0, t)] else []) c.x.st)
        | none => c.s } s

end Sys2Proof.Machine
end

