-- ==== Sys2Proof/Machine/Tiles.lean ====
section
/-! DEFINITION. Memory tiles: storage modes, scratchpad and two-way port, with the copies a rollback region takes of
their rows (R171, R172, R251, R401-R404). -/

namespace Sys2Proof.Machine

/-! ### Rows, and their copies for rollback (R142, R251) -/

/-- Another partition's planes stand in the storeroom of a core (R62, R251). -/
def planeHeld (s : State) (die core : Nat) : Bool :=
  s.parts.any (fun q => q.st = .stored && q.rects.any (fun r =>
    r.die = die && r.col ≤ core % 8 && core % 8 < r.col + r.cols && r.row ≤ core / 8 && core / 8 < r.row + r.rows))

/-- The memory tiles of a core, row-major (R144). -/
def coreTiles : List (Nat × Nat) :=
  (List.range 16).flatMap (fun y => (List.range 16).filterMap (fun x =>
    if x ≠ 7 && x ≠ 15 && (x + y) % 2 = 1 then some (x, y) else none))

/-- Where in the rollback area a tile's copy of a row stands: cores in ascending order, 256 KiB for each tile, the older
snapshot first. -/
def copyAt (q : Partition) (die u v : Nat) (newer : Bool) (row : Nat) : Nat :=
  let base := bitsOf q.rbarea.toNat 25 23 * 2 ^ 25
  let core := ((q.rects.flatMap (fun r => (List.range r.rows).flatMap (fun j => (List.range r.cols).map (fun i =>
    (r.die, 8 * (r.row + j) + r.col + i))))).filter (fun c => c.1 < die || (c.1 = die && c.2 < coreOf u v))).length
  let tile := (coreTiles.takeWhile (fun t => t ≠ (u % 16, v % 16))).length
  base + core * 2 ^ 25 + tile * 2 ^ 18 + bit1 newer * 2 ^ 17 + 64 * row

/-- The row's contents; a row nothing has written is zero (R142). -/
def rowOf (rows : List (Nat × Token)) (i : Nat) : Token :=
  match rows.find? (fun r => r.1 = i) with
  | some r => r.2
  | none => mkTok .data 0 (BitVec.allOnes 64) false false

def rowsOf : OpSt → List (Nat × Token)
  | .tile rows _ _ _ _ _ => rows
  | _ => []

/-- A copy into the rollback area that meets a fault freezes the region until its record is resumed (R251). -/
def copyFreeze (s : State) (p : Place) (n : Node) (code sub va : Nat) (pte : Word) : State :=
  if placeDead s p then s
  else freezeRecord (s.updRb p (fun b => { b with copyFault := true })) p.asid (accessLate p n (.copy (regionOf s p).id) code sub va pte true 0 0)

/-- The first write to a row after a MARK copies it, to the site's storeroom plane where that is free and to the rollback area
where a partition holds it; a disabled area is COMMIT_OVERFLOW (R251). Code 0 is a fault that has its record. -/
def copyRow (s : State) (p : Place) (x : Site) (row : Nat) : Acc Unit :=
  match x.snaps.getLast? with
  | none => .ok s ()
  | some k =>
    let (u, v) := p.at_ x.node.x x.node.y
    let mark (f : Snap → Snap) (st : State) : State := st.updSite x.node (fun y =>
      { y with snaps := updBy (fun z => z.wave = k.wave) f y.snaps })
    if k.copied.contains row || k.planed.contains row then .ok s ()
    else if !planeHeld s p.die (coreOf u v) then .ok (mark (fun z => { z with planed := row :: z.planed }) s) ()
    else match partOf s p.asid with
      | none => .ok s ()
      | some q =>
        if bitsOf q.rbarea.toNat 25 23 = 0 then .fault s 15 0 0
        else
          let va := copyAt q p.die u v (x.snaps.length > 1) row
          match fabWrite s p (coreOf u v) 0 va (natBytes 64 (rowOf (rowsOf x.st) row).pay.toNat) with
          | .ok s1 () => .ok (mark (fun z => { z with copied := row :: z.copied }) s1) ()
          | .wait => .wait
          | .fault s1 code sub pte => .fault (copyFreeze s1 p x.node code sub va pte) 0 0 0

/-- A row is written. -/
def setRow (row : Nat) (t : Token) : OpSt → OpSt
  | .tile rows b f g w r => .tile (putBy (fun x => x.1 = row) (row, t) rows) b f g w r
  | st => st

/-! ### Putting a token into storage (R171, R401) -/

def dataCount (l : List Token) : Nat := (l.filter (fun t => !t.kind.framing)).length

/-- Where a token goes: the state with it stored and the row it takes, a wait, or an ALIGN fault. -/
inductive Stored where
  | wait
  | align
  | into (row : Option Nat) (st : OpSt)

/-- Stores a token; `second` is SPORT's FIFO from w to the writing generator. -/
def storeTok (op imm : Nat) (second : Bool) (t : Token) (st : OpSt) : Stored :=
  match st with
  | .tile rows bufs f g wr rd =>
    let data := !t.kind.framing
    let row (k : Nat) : Option Nat := if data then some k else none
    let next (n : Nat) : Nat := if data then (wr + 1) % n else wr
    match op with
    | 0x49 =>
      let n := imm % 4 + 1
      match bufs[wr % n]? with
      | none => .wait
      | some (l, full) =>
        if full then .wait
        else if data && dataCount l ≥ 2048 / n then .align
        else
          let done := t.kind = .eot
          .into (row (wr % n * (2048 / n) + dataCount l))
            (.tile rows (setAt bufs (wr % n) (l ++ [t], done)) f g (if done then (wr + 1) % n else wr) rd)
    | 0x4B => if data && dataCount f ≥ imm % 2048 + 1 then .wait else .into (row (wr % 2048)) (.tile rows bufs (f ++ [t]) g (next 2048) rd)
    | 0x4C =>
      if second then (if data && dataCount g ≥ 1024 then .wait else .into (row (1024 + rd % 1024)) (.tile rows bufs f (g ++ [t]) wr (if data then rd + 1 else rd)))
      else (if data && dataCount f ≥ 1024 then .wait else .into (row (wr % 1024)) (.tile rows bufs (f ++ [t]) g (next 1024) rd))
    | _ => if data && dataCount f ≥ 2048 then .wait else .into (row (wr % 2048)) (.tile rows bufs (f ++ [t]) g (next 2048) rd)
  | _ => .wait

/-- A token enters a tile's storage with its row's copy taken first. -/
def tilePut (s : State) (p : Place) (x : Site) (op imm : Nat) (second : Bool) (t : Token) : Acc Unit :=
  match storeTok op imm second t x.st with
  | .wait => .wait
  | .align => .fault s 4 0 0
  | .into row st =>
    (match row with | some r => copyRow s p x r | none => .ok s ()).bind (fun s1 _ =>
      .ok (s1.updSite x.node (fun y =>
        { y with st := (match row with | some r => setRow r t st | none => st), lastActive := s.cycle })) ())

/-! ### Taking a token out (R171, R172) -/

/-- The token that leaves next and what stays; `second` is SPORT's second FIFO or LINEBUF's rows read for a port. -/
def takeTok (op imm : Nat) (second : Bool) (st : OpSt) : Option (Token × OpSt) :=
  match st with
  | .tile rows bufs f g wr rd =>
    if op = 0x49 then
      let n := imm % 4 + 1
      match bufs[rd % n]? with
      | some (t :: l, true) =>
        if l.isEmpty then some (t, .tile rows (setAt bufs (rd % n) ([], false)) f g wr ((rd + 1) % n))
        else some (t, .tile rows (setAt bufs (rd % n) (l, true)) f g wr rd)
      | _ => none
    else if second && (op = 0x4B || op = 0x4C) then
      (match g with | t :: l => some (t, .tile rows bufs f l wr rd) | [] => none)
    else match f with
      | t :: l => some (t, .tile rows bufs l g wr rd)
      | [] => none
  | _ => none

/-- DATA that stands in a channel's storage. -/
def OpSt.dataIn (second : Bool) : OpSt → Nat
  | .tile _ bufs f g _ _ => if second then dataCount g else dataCount f + (bufs.map (fun b => dataCount b.1)).sum
  | _ => 0

/-- The state a MARK snapshots as it leaves storage: what is queued stands after it and is read again, to the rows it had (R250). -/
def OpSt.drained : OpSt → OpSt
  | .tile rows bufs f g w r =>
    if bufs.isEmpty then .tile rows bufs [] [] ((w + 2048 - dataCount f % 2048) % 2048) (r - dataCount g)
    else .tile rows (bufs.map (fun _ => ([], false))) [] [] r r
  | st => st

/-- A site whose tile has given up a token. A MARK leaves within its segment, whatever the writer has stored behind it; where both
channels of SPORT pass a wave's MARK, the second adds its own framing to the one snapshot. (DESIGN CHOICE, assumption 53.) -/
def Site.gave (x : Site) (second : Bool) (t : Token) (st : OpSt) : Site :=
  let wave := t.pay.toNat % 2 ^ 32
  if t.kind = .mark then
    if x.snaps.any (fun k => k.wave = wave) then
      { x with
        st := st
        snaps := updBy (fun k => k.wave = wave) (fun k =>
          if second then { k with segOpenB := true, beatsB := x.beatsB - st.dataIn true, hdrs := setAt k.hdrs 1 (x.hdrs.getD 1 none) }
          else { k with segOpen := true, beats := x.beats - st.dataIn false, hdrs := setAt k.hdrs 0 (x.hdrs.getD 0 none) }) x.snaps }
    else
      let now := if second then { x with st := st.drained, segOpenB := true, beatsB := x.beatsB - st.dataIn true }
        else { x with st := st.drained, segOpen := true, beats := x.beats - st.dataIn false }
      { x with st := st, snaps := (now.snap wave).snaps }
  else { x with st := st }

/-- A MARK stays in storage until the wave before it is complete, so that a site keeps the last complete wave's snapshot and one newer
(R250). (DESIGN CHOICE, assumption 78.) -/
def markWaits (s : State) (p : Place) (t : Token) : Bool :=
  t.kind = .mark && (match regionRb s p with | some b => t.pay.toNat % 2 ^ 32 > b.complete | none => false)

/-! ### A step of a tile -/

/-- A generator of the tile is declared as a port of a folio that the place runs. -/
def Ctx.portOn (c : Ctx) (gen : Nat) : Bool :=
  c.folio.ports.any (fun d => d.x = c.x.node.x && d.y = c.x.node.y && d.gen = gen)

def tileEmpty (c : Ctx) : OpSt :=
  match c.x.st with
  | .tile rows bufs _ _ _ _ => .tile rows (bufs.map (fun _ => ([], false))) [] [] 0 0
  | st => st

/-- KILL at a tile empties its storage and goes on by output 0. -/
def tileKill (c : Ctx) (ins : List Nat) : State :=
  let ops : CellOps :=
    { data := ins, idx := [], frameOuts := [], fire := fun _ => .wait, hdr := fun _ => .ok [], flush := fun c => ([], c.x.st)
      sot := fun c => c.x.st, kill := tileEmpty, eot := fun _ => .wait }
  killStep c ops ins

/-- What R158 and R189 find wrong with a token that enters a tile; `raw` admits the kinds that INJECT can send (R362), and
`second` is SPORT's channel from w to the writing generator. -/
def tileBad (x : Site) (second raw : Bool) (t : Token) : Option Nat :=
  let isOpen := if second then x.segOpenB else x.segOpen
  let hdr := x.hdrs.getD (if second then 1 else 0) none
  if sidecarShort hdr (if second then x.beatsB else x.beats) t.kind then some 5 else
  match t.kind with
  | .data | .idx => if !isOpen then some 4 else if hdr.isNone then some 5 else none
  | .sot => if isOpen then some 4 else none
  | .hdr => if !isOpen then some 4 else if !hdrOk t then some 5 else none
  | .eot => if !isOpen then some 4 else if hdr.isNone then some 5 else none
  | .mark => if !isOpen then some 4 else none
  | .ord | .done | .ctrl => if raw then none else some 3
  | _ => some 3

/-- The tile has taken a token on a channel. -/
def Site.framed (x : Site) (second : Bool) (t : Token) : Site :=
  let i := if second then 1 else 0
  let put (isOpen : Bool) (beats : Nat) (h : Option Token) : Site :=
    let y := { x with hdrs := setAt x.hdrs i h }
    if second then { y with segOpenB := isOpen, beatsB := beats } else { y with segOpen := isOpen, beats := beats }
  match t.kind with
  | .sot => put true 0 none
  | .hdr => put true 0 (some t)
  | .eot => if second then { x with segOpenB := false } else { x with segOpen := false }
  | .data => if second then { x with beatsB := x.beatsB + 1 } else { x with beats := x.beats + 1 }
  | _ => x

/-- The head of the writing input is checked as framing (R158) and stored. -/
def tileWrite (c : Ctx) (second : Bool) : State :=
  match c.head 0 with
  | none => c.s
  | some t =>
    let bad := tileBad c.x second false t
    match bad with
    | some code => c.fail code
    | none => match tilePut c.s c.place c.x c.op c.imm second t with
      | .wait => c.s
      | .fault s1 code _ _ => if code = 4 then c.fail 4 else if code = 15 then nodeFault s1 c.x.node 15 else s1
      | .ok s1 () => s1.updSite c.x.node (fun y => (y.drop [0]).framed second t)

/-- What storage gives leaves by output 0 where no port takes it. -/
def tileRead (c : Ctx) : Option State :=
  if c.portOn 1 && c.op ≠ 0x4C || !c.enabled 0 || (c.x.out.filter (fun o => o.1 = 0)).length ≥ 2 then none
  else match takeTok c.op c.imm false c.x.st with
    | some (t, st) =>
      if markWaits c.s c.place t then none
      else some (c.s.updSite c.x.node (fun y => { y.gave false t st with out := y.out ++ [(0, t)], lastActive := c.s.cycle }))
    | none => none

/-- The context with its site and state read again. -/
def Ctx.again (c : Ctx) (s : State) : Ctx := { c with s := s, x := match s.site? c.x.node with | some y => y | none => c.x }

/-- A FIFO-like tile: what it gives first, then what it takes, so that one row read and written gives the old one. -/
def storageStep (c0 : Ctx) : State :=
  let c := checkHeads c0 [0]
  if rollDue c.s c.place then c.s
  else if c.headIs 0 (fun k => k = .kill) then tileKill c [0]
  else
    let c1 := match tileRead c with | some s1 => c.again s1 | none => c
    tileWrite c1 (c.op = 0x4C)

/-- BUF. -/
def execCellBuf (n : Node) (w : CellF) (s : State) : Out := runNode n w 0x49 storageStep s

/-- FIFO. -/
def execCellFifo (n : Node) (w : CellF) (s : State) : Out := runNode n w 0x4A storageStep s

/-- SPORT: rows 0-1023 from the reading generator to output 0, rows 1024-2047 from w to the writing generator (R404). -/
def execCellSport (n : Node) (w : CellF) (s : State) : Out := runNode n w 0x4C storageStep s

/-! ### LINEBUF (R402) -/

/-- The k-th DATA token of the window. -/
def windowRow (l : List Token) (k : Nat) : Option Token := (l.filter (fun t => !t.kind.framing))[k]?

/-- The framing violation of an index stream that a tile reads rows by, on input `k` (R158, R299). -/
def Site.indexBad (x : Site) (k : Nat) (t : Token) : Option Nat :=
  match t.kind with
  | .sot => if x.segOpenB then some 4 else none
  | .hdr => if !x.segOpenB then some 4 else if !hdrOk t then some 5 else none
  | .eot => if !x.segOpenB then some 4 else if (x.hdrs.getD k none).isNone then some 5 else none
  | _ => if x.segOpenB then none else some 4

/-- A framing token of that stream has been taken. -/
def Site.indexed (x : Site) (k : Nat) (t : Token) : Site :=
  match t.kind with
  | .sot => { x with segOpenB := true, hdrs := setAt x.hdrs k none }
  | .hdr => { x with hdrs := setAt x.hdrs k (some t) }
  | .eot => { x with segOpenB := false, hdrs := setAt x.hdrs k none }
  | _ => x

/-- LINEBUF drops framing of its index stream, sound as R158 asks. -/
def indexFrame (c : Ctx) (t : Token) : State :=
  match c.x.indexBad 1 t with
  | some code => c.fail code
  | none => c.s.updSite c.x.node (fun y => { (y.drop [1]).indexed 1 t with lastActive := c.s.cycle })

/-- A read of the window by an index: framing at its front leaves first; framing of the index stream is dropped. -/
def lineRead (c : Ctx) : State :=
  match c.x.st with
  | .tile rows bufs f g wr rd =>
    let port := c.portOn 1
    let free := if port then g.length < 2 else (c.x.out.filter (fun o => o.1 = 0)).length < 2
    let send (t : Token) (f1 : List Token) (eat : List Nat) : State :=
      c.s.updSite c.x.node (fun y =>
        let z := (y.eat eat).gave false t (.tile rows bufs f1 (if port then g ++ [t] else g) wr rd)
        { z with out := z.out ++ (if port then [] else c.emit [(0, t)]), lastActive := c.s.cycle })
    if !free then c.s
    else match f with
      | t :: l => if markWaits c.s c.place t then c.s
        else if t.kind.framing then send t l []
        else match c.head 1 with
          | none => c.s
          | some i =>
            if i.kind.framing then indexFrame c i
            else if i.kind ≠ .idx then c.fail 3
            else if i.lane 0 > c.imm % 2048 then c.fail 4
            else match windowRow f (i.lane 0) with
              | none => c.s
              | some r => send { r with void := r.void || i.void } (if i.last then l else f) [1]
      | [] => match c.head 1 with
        | some i => if i.kind.framing then indexFrame c i else if i.kind ≠ .idx then c.fail 3 else if i.lane 0 > c.imm % 2048 then c.fail 4 else c.s
        | none => c.s
  | _ => c.s

/-- LINEBUF: a step reads, then writes. -/
def execCellLinebuf (n : Node) (w : CellF) (s : State) : Out :=
  runNode n w 0x4B (fun c0 =>
    let ins := [0, 1].filter c0.streams
    let c := checkHeads c0 ins
    if rollDue c.s c.place then c.s
    else if ins.any (fun i => c.headIs i (fun k => k = .kill)) then tileKill c ins
    else
      let c1 := c.again (lineRead c)
      if c1.x.frozen then c1.s else tileWrite c1 false) s

/-! ### AGEN (R403) -/

/-- The reading side: each row index on c sends that row. -/
def agenRead (c : Ctx) : State :=
  match c.head 2 with
  | none => c.s
  | some i =>
    if (c.x.out.filter (fun o => o.1 = 0)).length ≥ 2 then c.s
    else
      let send (t : Token) : State := c.s.updSite c.x.node (fun y => { y.eat [2] with out := y.out ++ c.emit [(0, t)], lastActive := c.s.cycle })
      if i.kind.framing then
        match c.x.indexBad 2 i with
        | some code => c.fail code
        | none => (send i).updSite c.x.node (fun y => y.indexed 2 i)
      else if i.kind ≠ .idx then c.fail 3
      else if i.lane 0 ≥ 2048 then c.fail 4
      else
        let t := rowOf (rowsOf c.x.st) (i.lane 0)
        send { t with kind := .data, last := i.last, void := t.void || i.void }

/-- The writing side: a beat on a goes to the row that b names; their framing is met by R151 and goes no further. -/
def agenWrite (c : Ctx) : State :=
  match c.head 0, c.head 1 with
  | some a, some b =>
    let eat (s : State) (f : Site → Site) : State := s.updSite c.x.node (fun y => { f (y.eat [0, 1]) with lastActive := c.s.cycle })
    if a.kind.framing || b.kind.framing then
      if a.kind ≠ b.kind then c.fail 4
      else if c.short 0 || c.short 1 then c.fail 5
      else match a.kind with
        | .sot => if c.x.segOpen then c.fail 4 else eat c.s (fun y => { y with segOpen := true, hdrs := [none, none, y.hdrs.getD 2 none] })
        | .hdr => if !c.x.segOpen then c.fail 4 else if !hdrOk a || !hdrOk b then c.fail 5
          else eat c.s (fun y => { y with hdrs := [some a, some b, y.hdrs.getD 2 none], beats := 0, beatsB := 0 })
        | .eot => if !c.x.segOpen then c.fail 4 else if (c.hdr 0).isNone then c.fail 5
          else eat c.s (fun y => { y with segOpen := false, hdrs := [none, none, y.hdrs.getD 2 none] })
        | _ => if !c.x.segOpen then c.fail 4 else eat c.s (fun y => y.snap (a.pay.toNat % 2 ^ 32))
    else if (a.kind ≠ .data && a.kind ≠ .idx) || b.kind ≠ .idx then c.fail 3
    else if !c.x.segOpen then c.fail 4
    else if (c.hdr 0).isNone then c.fail 5
    else if b.lane 0 ≥ 2048 then c.fail 4
    else match copyRow c.s c.place c.x (b.lane 0) with
      | .wait => c.s
      | .fault s1 code _ _ => if code = 15 then nodeFault s1 c.x.node 15 else s1
      | .ok s1 () => eat s1 (fun y => { y with st := setRow (b.lane 0) { a with void := a.void || b.void } y.st })
  | _, _ => c.s

/-- AGEN: the read of a step comes first, so that a row read and written in it gives the old row. KILL empties the
scratchpad. -/
def execCellAgen (n : Node) (w : CellF) (s : State) : Out :=
  runNode n w 0x48 (fun c0 =>
    let ins := [0, 1, 2].filter c0.streams
    let c := checkHeads c0 ins
    if rollDue c.s c.place then c.s
    else if ins.any (fun i => c.headIs i (fun k => k = .kill)) then
      tileKill { c with x := { c.x with st := .tile [] [] [] [] 0 0 } } ins
    else
      let c1 := c.again (agenRead c)
      if c1.x.frozen then c1.s else agenWrite c1) s

end Sys2Proof.Machine
end

