-- ==== Sys2Proof/Machine/Ports.lean ====
section
/-! DEFINITION. Ports and what every stream command shares: declarations and the checks of R288 and R355, patterns
(R350-R352), the end of a command (R329, R349), faults of ports (R224, R432), translation (R203), requests, and the tokens a
port admits or takes (R85, R250, R258, R347). -/

namespace Sys2Proof

/-- The remote device of XPUT, XGET and CREDUCE. -/
def CmdF.dev (f : CmdF) : Nat := bitsOf f.count.toNat 12 12

def CmdF.fmt (f : CmdF) : Nat := f.flags.toNat % 16
def CmdF.redOp (f : CmdF) : Nat := bitsOf f.flags.toNat 4 3
def CmdF.sat (f : CmdF) : Bool := f.flags.getLsbD 7
def CmdF.mrx (f : CmdF) : Bool := f.flags.getLsbD 4

end Sys2Proof

namespace Sys2Proof.Machine

/-! ### Declarations (R119, R347) -/

/-- The declaration of a port number in a folio. -/
def Folio.decl (f : Folio) (k : Nat) : Option PortDecl := f.ports.find? (fun d => d.num = k)

/-- The declaration of a port in the running context, or in another one the place holds (R348). -/
def Place.decl (p : Place) (k : Nat) : Option PortDecl :=
  match p.folio.bind (fun f => f.decl k) with
  | some d => some d
  | none => p.slots.findSome? (fun o => o.bind (fun f => f.decl k))

/-- The generators a command can use: ag0, ag1, or for RECORD an ag0 whose tile declares no ag1 (R347). -/
def genOk (f : Folio) (op : Nat) (d : PortDecl) : Bool :=
  match op with
  | 0x08 | 0x0A => true
  | 0x01 | 0x04 | 0x05 | 0x07 | 0x0D | 0x0F => d.gen = 1
  | 0x0B => d.gen = 0 && !f.ports.any (fun e => e.x = d.x && e.y = d.y && e.gen = 1)
  | _ => d.gen = 0

/-- A folio declares the port with the generator the command needs. -/
def Folio.declares (f : Folio) (k op : Nat) : Bool := match f.decl k with | some d => genOk f op d | none => false

/-! ### The fields of commands (R355) -/

/-- The units of XPUT, XGET and CREDUCE, the elements of the others. -/
def cmdCount (op : Nat) (f : CmdF) : Nat :=
  if op = 0x0D ∨ op = 0x0E ∨ op = 0x0F then f.count.toNat % 2 ^ 12 else if op = 0x06 then f.count.toNat % 2 ^ 8 + 1 else f.count.toNat

/-- The FLAGS bits a command defines. -/
def flagMask (op : Nat) : Nat :=
  match op with
  | 0x00 => 0x1F
  | 0x03 | 0x09 | 0x0E => 0x0F
  | 0x05 | 0x08 | 0x0F => 0xFF
  | 0x06 | 0x0A | 0x0B | 0x0C | 0x11 => 0x01
  | _ => 0

/-- The limits of an entry that a command's own fields settle (R355-R365). -/
def ownLimits (op : Nat) (f : CmdF) (logs : Bool) : Bool :=
  let one := cmdCount op f ≥ 1
  match op with
  | 0x00 | 0x03 | 0x0E => one && f.fmt ≤ 10
  | 0x01 | 0x04 | 0x0D | 0x10 | 0x11 => one
  | 0x02 | 0x07 => one && f.slot.toNat ≤ 30
  | 0x05 | 0x0F => one && f.redOp ≤ 5 && [0, 1, 2, 6, 7, 8, 10].contains f.fmt && (f.redOp < 3 || f.fmt ≥ 6)
  | 0x06 => f.slot = 0 && f.base.toNat % 128 = 0 && bitsOf f.count.toNat 8 16 ≠ 0
  | 0x08 => f.scope = 0
  | 0x09 => f.slot = 0 && f.scope = 0 && [0, 1, 2, 3, 5, 6, 8, 9].contains f.fmt
  | 0x0A => f.slot = 0 && f.count = 0
  | 0x0B => f.slot = 0 && f.scope = 0 && logs
  | 0x0C => f.slot = 0 && logs
  | _ => false

/-- The first stage of R288, for a command of a region. (DEDUCED, assumption 77.) -/
def cmdValid (s : State) (p : Place) (port op : Nat) (f : CmdF) : Bool :=
  op ≤ 0x11 && f.scope.toNat ≤ 4 && (f.flags.toNat &&& flagMask op) = f.flags.toNat &&
  p.slots.any (fun o => match o with | some g => g.declares port op | none => false) &&
  (op ≠ 0x0B || (p.slots.filterMap (fun o => o.bind (fun g => g.decl port))).any (fun d => d.gen = 0 &&
    p.slots.all (fun o => match o with | some g => !g.ports.any (fun e => e.x = d.x && e.y = d.y && e.gen = 1) | none => true))) &&
  ownLimits op f (recording s p || replaying s p)

/-! ### Patterns (R350, R352) -/

abbrev Pat := BitVec 178

def patUnit (p : Pat) : Nat := match bitsOf p.toNat 176 2 with | 0 => 1 | 1 => 2 | 2 => 4 | _ => 64
def patC (p : Pat) (k : Nat) : Nat := bitsOf p.toNat (128 + 16 * k) 16 + 1
def patS (p : Pat) (k : Nat) : Int := signed 32 (bitsOf p.toNat (32 * k) 32)

/-- The count of dimension 3. -/
def patC3 (p : Pat) (count : Nat) : Nat := let n := patC p 0 * patC p 1 * patC p 2; (count + n - 1) / n

/-- CNT0-CNT3 of an element. -/
def patCnt (p : Pat) (n : Nat) : List Nat :=
  [n % patC p 0, n / patC p 0 % patC p 1, n / (patC p 0 * patC p 1) % patC p 2, n / (patC p 0 * patC p 1 * patC p 2)]

/-- The address of an element, in 64-bit signed arithmetic. -/
def patAddr (p : Pat) (base n : Nat) : Nat :=
  let c := patCnt p n
  let off := ((List.range 4).map (fun k => (c.getD k 0 : Int) * patS p k)).foldl (fun a b => a + b) 0
  (BitVec.ofInt 64 ((base : Int) + patUnit p * off)).toNat

/-- A command walks a pattern. -/
def walks (op : Nat) : Bool := [0x00, 0x01, 0x02, 0x05, 0x07, 0x0D, 0x0E, 0x0F, 0x10, 0x11].contains op

/-- ROWS and COLS of the segment a command sends (R353, R358). -/
def rowsCols (op : Nat) (p : Pat) (f : CmdF) : Nat × Nat :=
  let w := fmtWidth f.fmt
  if op = 0x03 then (f.count.toNat, patUnit p * 8 / w) else (cmdCount op f / patC p 0, patC p 0 * patUnit p * 8 / w)

/-- The second stage of R288, against the slot a command latches. (DEDUCED, assumption 76.) -/
def startValid (op : Nat) (f : CmdF) (p : Pat) : Bool :=
  let u := patUnit p
  let n := cmdCount op f
  let w := fmtWidth f.fmt
  let (rows, cols) := rowsCols op p f
  (!walks op || patC3 p n ≤ 65536) &&
  (!(walks op || op = 0x03 || op = 0x04) || f.base.toNat % u = 0) &&
  (!(op = 0x00 || op = 0x0E) || (n % patC p 0 = 0 && patC p 0 * u * 8 % w = 0)) &&
  (op ≠ 0x03 || u * 8 % w = 0) &&
  (!(op = 0x00 || op = 0x0E || op = 0x03) || (rows ≤ 65535 && cols ≤ 65535)) &&
  (!(op = 0x05 || op = 0x0F) || u * 8 = w)

/-! ### Ports -/

/-- Changes a command under way. -/
def Port.updRun (q : Port) (c : QCmd) (f : Running → Running) : Port :=
  { q with
    running := q.running.map (fun r => if r.cmd = c then f r else r)
    older := updBy (fun r => r.cmd = c) f q.older
    logs := updBy (fun r => r.cmd = c) f q.logs }

def Port.dropRun (q : Port) (c : QCmd) : Port :=
  { q with
    running := match q.running with | some r => if r.cmd = c then none else some r | none => none
    older := q.older.filter (fun r => r.cmd ≠ c)
    logs := q.logs.filter (fun r => r.cmd ≠ c) }

def State.updRun (s : State) (place port : Nat) (c : QCmd) (f : Running → Running) : State :=
  s.updPort place port (fun q => q.updRun c f)

def Port.slot (q : Port) (k : Nat) : Pat := match q.slots.find? (fun x => x.1 = k) with | some (_, p) => p | none => 0

/-- The tile a port's generators belong to: its site with its cell word. -/
def portTile (s : State) (p : Place) (k : Nat) : Option (Site × BitVec 64) :=
  match p.decl k with
  | none => none
  | some d =>
    let n : Node := { place := p.id, x := d.x, y := d.y }
    match s.site? n, cellAt s n with
    | some x, some w => some (x, w)
    | _, _ => none

def portNode (p : Place) (k : Nat) : Node := match p.decl k with | some d => { place := p.id, x := d.x, y := d.y } | none => { place := p.id, x := 0, y := 0 }

/-- The core a port's tile lies on. -/
def Place.portCore (p : Place) (k : Nat) : Nat := p.coreAt (portNode p k)

/-! ### The end of a command (R329, R349) -/

/-- PSTAT records an end: 1 DONE, 2 FAULTED, 3 CANCELLED, 4 INVALID; a PSET has no TAG. -/
def Port.ended (q : Port) (c : QCmd) (how : Nat) : Port :=
  let tag := if c.op = 0x08 then 0 else c.f.tag
  { q with
    donecnt := q.donecnt + 1
    end_ := how
    tag := if how = 4 then q.tag else tag
    tagi := if how = 4 then tag else q.tagi }

/-- A queued or started command ends and leaves its scope's WORK (R106). -/
def endCommand (s : State) (place port : Nat) (c : QCmd) (how : Nat) : State :=
  match s.place? place with
  | none => s
  | some p =>
    ((stir s p.asid).updPort place port (fun q => (q.dropRun c).ended c how)).updPart p.asid (fun x => x.workDown c.f.cscope.toNat)

/-! ### Faults of ports (R224, R225, R432) -/

/-- A port withholds from an element onward: a record is written and PORT_FAULT raised, or the region rolls back; work that
is killed faults no more. -/
def portFreeze (s : State) (p : Place) (port : Nat) (r : Running) (code sub va : Nat) (pte : Word) (write : Bool) (e : Nat)
    (net : NetInfo) : State :=
  if placeDead s p then s
  else if rollsBack s p code sub then rollNow s p
  else
    let s := overLimit s p code sub
    let f := r.cmd.f
    let access := code = 8 || code = 9 || code = 10 || code = 11 || code = 12
    let n := portNode p port
    let late : LateFault := net.put
      { accessLate p n (.port p.id port) code sub va pte write e 0 with
        flags := if access then bit1 write + 4 else 0, port := port, slot := f.slot.toNat, tag := f.tag.toNat, cscope := f.cscope.toNat
        cnt := if walks r.cmd.op then patCnt r.pat e else [] }
    freezeRecord (s.updRun p.id port r.cmd (fun x => { x with frozen := some e })) p.asid late

def portFail (s : State) (p : Place) (port : Nat) (r : Running) (code : Nat) : State :=
  portFreeze s p port r code 0 0 0 false r.doneN .none

/-! ### Translation of a generator (R203, R208) -/

/-- What the translation a generator holds gives for an address. -/
inductive GenXl where
  | ok (x : Xl) (lv : Nat)
  | fault (code sub : Nat) (pte : Word)
  | walk

/-- The translation entry of a port's generator. -/
def GenXlat.isOf (e : GenXlat) (p : Place) (d : PortDecl) : Bool :=
  let (u, v) := p.at_ d.x d.y
  e.die = p.die && e.x = u && e.y = v && e.gen = d.gen

def genEnt (s : State) (p : Place) (k : Nat) : Option Xlat :=
  (p.decl k).bind (fun d => (s.xlats.find? (fun e => e.isOf p d)).map (fun e => e.ent))

/-- A walk has given the generator an entry. -/
def keepXlat (s : State) (p : Place) (k : Nat) (x : Xlat) : State :=
  match p.decl k with
  | none => s
  | some d => { s with xlats := putBy (fun e => e.isOf p d) { die := p.die, x := (p.at_ d.x d.y).1, y := (p.at_ d.x d.y).2, gen := d.gen, ent := x } s.xlats }

/-- The entries of a place's generators are dropped, so that they walk anew. -/
def dropXlats (s : State) (p : Place) (k : Nat) : State :=
  match p.decl k with
  | none => s
  | some d => { s with xlats := s.xlats.filter (fun e => !e.isOf p d) }

/-- A page of another partition is served where it is global (R207). -/
def genXl (s : State) (p : Place) (q : Port) (va : Nat) (nd : Need) : GenXl :=
  if va ≥ 2 ^ 48 then .fault 8 3 0
  else match genEnt s p q.num with
    | none => .walk
    | some t =>
      if va / 2 ^ t.size ≠ t.vpage || (t.asid ≠ p.asid && bitsOf t.pte.toNat 6 1 = 0) then .walk
      else match permSub t.pte.toNat nd with
        | some k => .fault 9 k t.pte
        | none => .ok (leafXl t.pte.toNat t.lv va p.asid) t.lv

/-! ### Requests (R204, R214) -/

/-- The requests a port has outstanding. -/
def Port.outstanding (q : Port) : Nat :=
  ((q.runs.flatMap (fun r => r.elems)).filter (fun e => match e.st with | .sent _ => true | .retry _ _ => true | _ => false)).length

/-- The retry slots in use. -/
def Port.retries (q : Port) : Nat :=
  ((q.runs.flatMap (fun r => r.elems)).filter (fun e => match e.st with | .retry _ _ => true | _ => false)).length

def Port.canIssue (q : Port) : Bool := q.outstanding < 64 && q.retries < 16

/-- The request of an element. -/
def mkReq (p : Place) (port no : Nat) (f : CmdF) (x : Xl) (lv len : Nat) (k : ReqKind) : Req :=
  { place := p.id, port := port, elem := no, die := p.die, core := p.portCore port, pa := x.pa, len := len, kind := k
    policy := max x.cpol f.hint.toNat, share := x.share, iset := x.iset, comp := if x.comp then some (x.window lv) else none
    prio := false, refusals := 0, fromLlc := f.scope.toNat ≥ 3, dead := none }

def Running.updElem (r : Running) (n : Nat) (f : Elem → Elem) : Running := { r with elems := updBy (fun e => e.n = n) f r.elems }

/-- A request leaves its core for its slice (R23), and its response timer starts (R37). -/
def sendReq (s : State) (p : Place) (q : Req) : State :=
  sendMessage { s with reqs := s.reqs ++ [q] }
    (packageMsg (coreEp p.die q.core) (sliceEp q.die (sliceIndex q.iset q.pa)) .request 0 (natBytes 8 q.pa ++ q.carried)
      (.gen q.place q.port q.elem)) (.req q.place q.port q.elem)

/-- The element of a request: `e` joins the command's elements, or stands there already. -/
def sentElem (s : State) (p : Place) (port : Nat) (c : QCmd) (e : Elem) (no : Nat) : State :=
  let put (r : Running) : Running := { r with elems := putBy (fun x => x.n = e.n) { e with st := .sent no } r.elems, next := max r.next (e.n + 1) }
  s.updPort p.id port (fun x => { x.updRun c put with reqNo := x.reqNo + 1 })

/-- An element's request sets out. -/
def sendElem (s : State) (p : Place) (port : Nat) (c : QCmd) (e : Elem) (q : Req) : State := sendReq (sentElem s p port c e q.elem) p q

/-- The port waits for a walk of this address, behind the walks its core has been asked for before (R203). -/
def awaitWalk (s : State) (p : Place) (port : Nat) (c : QCmd) (va : Nat) : State :=
  let s1 := s.updRun p.id port c (fun r => { r with walking := some va })
  { s1 with walkq := s1.walkq.filter (fun w => !(w.2.2.1 = p.id && w.2.2.2 = port)) ++ [(p.die, p.portCore port, p.id, port)] }

/-- The core's walker performs a port's walk now: four at once, in arrival order (R203). -/
def walkTurnOf (s : State) (p : Place) (port : Nat) : Bool :=
  let live (w : Nat × Nat × Nat × Nat) : Bool :=
    w.1 = p.die && w.2.1 = p.portCore port &&
    (match (s.place? w.2.2.1).bind (fun x => x.port? w.2.2.2) with | some q => q.runs.any (fun r => r.walking.isSome) | none => false)
  ((s.walkq.filter live).take 4).any (fun w => w.2.2.1 = p.id && w.2.2.2 = port)

/-- An element is answered by a fault. (DEDUCED, assumption 81.) -/
def badElem (s : State) (p : Place) (port : Nat) (c : QCmd) (e : Elem) (code sub : Nat) (pte : Word) (n : NetInfo) : State :=
  let put (r : Running) : Running :=
    { r with elems := putBy (fun x => x.n = e.n) { e with st := .bad code sub pte n.key n.cls n.bitmap n.timer } r.elems, next := max r.next (e.n + 1) }
  s.updRun p.id port c put

/-- Issues an element's request, or awaits its walk, or finds a fault. -/
def issueElem (s : State) (p : Place) (q : Port) (r : Running) (e : Elem) (len : Nat) (k : ReqKind) (nd : Need) : State :=
  if !q.canIssue || r.walking.isSome then s
  else match genXl s p q e.addr nd with
    | .walk => awaitWalk s p q.num r.cmd e.addr
    | .fault code sub pte => badElem s p q.num r.cmd e code sub pte .none
    | .ok x lv => sendElem s p q.num r.cmd e (mkReq p q.num q.reqNo r.cmd.f x lv len k)

/-- The first element that is to be issued again, else a new one. -/
def Running.nextElem (r : Running) (total : Nat) (addr : Nat → Nat) : Option Elem :=
  match r.elems.find? (fun e => e.st = .queued && e.hold.isNone) with
  | some e => some e
  | none => if r.next < total then some { n := r.next, addr := addr r.next, data := [], refusals := 0, hold := none, st := .queued } else none

/-! ### Tokens that a port admits (R85, R250, R258, R347) -/

/-- The partition lets ports begin segments and commands (R83). -/
def partGoes (s : State) (p : Place) : Bool := match partOf s p.asid with | some x => x.st = .running | none => false

/-- The tile takes a token from its read generator. -/
def tileAdmit (s : State) (p : Place) (x : Site) (w : BitVec 64) (t : Token) : State × Bool :=
  if x.frozen then (s, false)
  else if x.asleep s.cycle then (wakeSite s x.node, false)
  else match tileBad x false true t with
    | some code => (nodeFault s x.node code, false)
    | none =>
      match tilePut s p x (opOf w) (bitsOf w.toNat 0 16) false t with
      | .wait => (s, false)
      | .fault s1 code _ _ => (if code = 4 ∨ code = 15 then nodeFault s1 x.node code else s1, false)
      | .ok s1 () => (s1.updSite x.node (fun y => y.framed false t), true)

/-- The port that stands for itself in a log (R258). -/
def portSrc (p : Place) (port : Nat) : List Nat := let n := portNode p port; whereOf p n.x n.y

/-- A token goes into the port's tile: within the rate of R85, after it has been logged where the launch records. -/
def letIn (s : State) (p : Place) (port : Nat) (t : Token) : State × Bool :=
  match p.port? port, portTile s p port with
  | some q, some (x, w) =>
    if !q.mayIn s then (s, false)
    else
      let ok (s1 : State) (logged : Bool) : State × Bool :=
        match tileAdmit s1 p x w t with
        | (s2, true) => ((stir s2 p.asid).updPort p.id port (fun y => { y.tookIn s with logSeq := if logged then y.logSeq + 1 else y.logSeq }), true)
        | r => r
      if recording s p then
        match recordEntry s p port false (if t.kind = .sot then 0 else q.mkWave) (logBytes t.pay (sideBand s t) (portSrc p port) q.logSeq) with
        | .ok s1 () => match ok s1 true with
          | (s2, true) => (s2, true)
          | (_, false) => (s, false)
        | .wait => (s, false)
        | .fault s1 code sub pte =>
          (match q.logs.find? (fun c => c.logs 0x0B false) with
           | some r => portFreeze s1 p port r code sub (r.cmd.f.base.toNat + 96 * r.doneN) pte true r.doneN .none
           | none => s1, false)
      else ok s false
  | _, _ => (s, false)

/-- What the port saves as it inserts a marker, or before a segment's SOT (R250). -/
def Port.mark (q : Port) (wave : Nat) : Port :=
  let m : PortMark := { wave := wave, runs := q.runs, queue := q.queue, slots := q.slots, donecnt := q.donecnt, mkBeats := q.mkBeats
                        mkWave := q.mkWave, segs := q.segs, midSeg := q.midSeg, logSeq := q.logSeq, flags := q.flags }
  let all := q.saved.filter (fun x => x.wave ≠ wave) ++ [m]
  { q with saved := all.drop (all.length - 3) }

/-- The wave number under which a segment's beginning is saved. -/
def waveStart : Nat := 2 ^ 32

/-- A marker is due at the port before its next beat (R250, R255). -/
def Port.markDue (q : Port) (mkint : Nat) : Bool := q.midSeg && (q.mkAsked || q.mkBeats ≥ mkint)

/-- Inserts the marker that is due: MARK n + 2 not while wave n is incomplete (R250). (DESIGN CHOICE, assumption 78.) -/
def insertMark (s : State) (p : Place) (q : Port) (rb : Rollback) (mkint : Nat) : State :=
  if q.mkWave > rb.complete + 1 then s
  else match letIn s p q.num (plainTok .mark q.mkWave) with
    | (s1, false) => s1
    | (s1, true) => s1.updPort p.id q.num (fun y =>
        ({ y with mkAsked := false, mkBeats := if y.mkBeats ≥ mkint then 0 else y.mkBeats, mkWave := y.mkWave + 1 }).mark q.mkWave)

/-- The port's own account of a token it has sent: segments, and beats toward the next marker. -/
def Port.sent (q : Port) (k : Kind) (mkint : Nat) : Port :=
  match k with
  | .sot => { q with segs := q.segs + 1, midSeg := true, mkWave := 0, mkBeats := 0 }
  | .hdr => if q.mkWave = 0 then { q with mkBeats := mkint } else q
  | .data => { q with mkBeats := q.mkBeats + 1 }
  | .eot => { q with midSeg := false }
  | _ => q

/-- Whether a node belongs to a place of the launch that `p` works for (R114, R139). -/
def ofLaunch (s : State) (p : Place) (n : Node) : Bool :=
  s.places.any (fun x => x.id = n.place && x.asid = p.asid && x.lslot = p.lslot)

/-- The state in which a segment of a rollback region begins, kept until its first wave is complete (R250). -/
def snapAll (s : State) (p : Place) : State :=
  { s with
    sites := updBy (fun x => ofLaunch s p x.node) (fun x => { x with snaps := [] }.snap waveStart) s.sites
    rslots := updBy (fun x => ofLaunch s p x.node) (fun x => { x with snaps := [] }.snap waveStart) s.rslots }

/-- The input ports of the running context, its output ports where it has none (R74). -/
def Place.counting (p : Place) : List Port :=
  let of (gen : Nat) : List Port := match p.folio with | some f => p.ports.filter (fun q => f.ports.any (fun d => d.num = q.num && d.gen = gen)) | none => []
  if (of 0).isEmpty then of 1 else of 0

/-- Segments begun in the running context, by the port that is furthest (R74). -/
def Place.begun (p : Place) : Nat := p.counting.foldl (fun a q => max a q.segs.toNat) 0

/-- A region of several blocks begins its next segment once the block scheduler has chosen and the region has switched;
a port that is behind the others follows them (R81, R82). -/
def Place.mayBegin (p : Place) (q : Port) : Bool :=
  q.segs.toNat < p.begun || p.chosen.isNone && ((p.slots.filter (fun f => f.isSome)).length ≤ 1 || p.sched = some p.begun)

/-- A port may admit the SOT of its next segment (R82, R83, R250). -/
def sotGoes (s : State) (p : Place) (q : Port) : Bool := partGoes s p && p.mayBegin q && (p.rb.isNone || q.saved.isEmpty)

/-- Sends a command's next token, with the markers of rollback mode around it: the state, and whether it was sent. In a
rollback region a segment begins once the one before it is complete. -/
def portSend (s : State) (p : Place) (q : Port) (t : Token) : State × Bool :=
  let mkint := match p.folio with | some f => f.mkint | none => 0
  let plain : State × Bool :=
    match letIn s p q.num t with
    | (s1, true) => (s1.updPort p.id q.num (fun y => y.sent t.kind mkint), true)
    | r => r
  if t.kind = .sot && !sotGoes s p q then (s, false)
  else match p.rb with
  | none => plain
  | some rb =>
    if t.kind = .sot then
      match letIn (if p.ports.all (fun y => y.saved.isEmpty) then snapAll s p else s) p q.num t with
        | (s1, true) => (s1.updPort p.id q.num (fun y => (y.mark waveStart).sent .sot mkint), true)
        | r => r
    else if t.kind ≠ .hdr && t.kind ≠ .mark && q.markDue mkint && !(q.mkWave = 0 && q.mkBeats < mkint) then (insertMark s p q rb mkint, false)
    else plain

/-! ### Tokens that a port takes (R171, R347) -/

/-- The token the tile holds for its write generator, and the state without it. -/
def tileTake (s : State) (p : Place) (port : Nat) : Option (Token × State) :=
  match portTile s p port with
  | none => none
  | some (x, w) =>
    let op := opOf w
    if x.frozen then none
    else match takeTok op (bitsOf w.toNat 0 16) (op = 0x4B || op = 0x4C) x.st with
      | none => none
      | some (t, st) =>
        let (s1, t1) := inspect s p x.node t true
        some (t1, stir (s1.updSite x.node (fun y => { y.gave (op = 0x4C) t1 st with lastActive := s.cycle })) p.asid)

/-- The head of the tile's input b, checked. (DEDUCED, assumption 75.) -/
def idxHead (s : State) (p : Place) (port : Nat) : Option (Token × State) :=
  match portTile s p port with
  | none => none
  | some (x, _) => match x.inb with
    | [] => none
    | t :: _ =>
      let (s1, t1) := inspect s p x.node t true
      some (t1, s1.updSite x.node (fun y => { y with inb := y.inb.drop 1 }))

/-! ### EOT on output 1 (R238, R354) -/

/-- The tile's cell word enables output 1. -/
def endsOut (s : State) (p : Place) (port : Nat) : Option Site :=
  match portTile s p port with
  | some (x, w) => if bitsOf w.toNat 17 1 = 1 then some x else none
  | none => none

/-- A command ends DONE with its EOT on output 1, where that is enabled; a full output makes it wait. -/
def endWithEot (s : State) (p : Place) (port : Nat) (c : QCmd) : State :=
  match endsOut s p port with
  | none => endCommand s p.id port c 1
  | some x =>
    if (x.out.filter (fun o => o.1 = 1)).length ≥ 2 then s
    else endCommand (s.updSite x.node (fun y => { y with out := y.out ++ [(1, plainTok .eot 0)], lastActive := s.cycle })) p.id port c 1

end Sys2Proof.Machine
end

