-- ==== Sys2Proof/Machine/Streams.lean ====
section
/-! DEFINITION. The stream commands (R353-R366): one turn of a command under way sends or takes a token and issues a request. -/

namespace Sys2Proof.Machine

/-! ### A turn -/

/-- The elements of a command are writes. -/
def writes (op : Nat) : Bool := op = 0x01 || op = 0x04 || op = 0x05 || op = 0x07 || op = 0x0D || op = 0x0F

/-- A turn of a command: where its place moves, the work of the first command under way that has these fields. A fault of
its oldest element is raised first (R224). -/
def portTurn (pr : PortRef) (op : Nat) (f : CmdF) (act : Place → Port → Running → State → State) (s : State) : Out :=
  match s.place? pr.place with
  | none => .next s
  | some p => match p.port? pr.port with
    | none => .next s
    | some q =>
      if !placeMoves s p || q.held then .next s
      else match (q.runs ++ q.logs).find? (fun r => r.cmd.op = op && r.cmd.f = f) with
        | none => .next s
        | some r => match r.elems.head? with
          | some e => match e.st, r.frozen with
            | .bad code sub pte msg cls bitmap timer, none =>
              let va := if code = 11 then e.addr / 4096 * 4096 else e.addr
              .next (portFreeze (s.updRun p.id q.num r.cmd (fun x => x.updElem e.n (fun y => { y with st := .queued }))) p q.num r code sub va pte
                (writes op) e.n { key := msg, cls := cls, bitmap := bitmap, timer := timer })
            | _, _ => .next (act p q r s)
          | none => .next (act p q r s)

/-- The command is the oldest of its port of those that send tokens, LOAD, GATHER, XGET and INJECT: its own are the next to move
(R348). -/
def Port.heads (q : Port) (r : Running) : Bool :=
  match q.runs.find? (fun x => x.cmd.op = 0x00 || x.cmd.op = 0x03 || x.cmd.op = 0x0E || x.cmd.op = 0x09) with
  | some x => x.cmd = r.cmd
  | none => false

/-- The commands of a port with the same words as this one, the last of which may have more to issue. -/
def Port.twin (q : Port) (r : Running) : Running := ((q.runs.filter (fun x => x.cmd.word = r.cmd.word && x.frozen.isNone)).getLast?).getD r

/-! ### Segments that a command sends (R353) -/

def hdrOf (op : Nat) (r : Running) (segno : Nat) : Token :=
  let f := r.cmd.f
  let (rows, cols) := rowsCols op r.pat f
  plainTok .hdr (1 + f.fmt * 2 ^ 8 + f.fmt * 2 ^ 12 + rows * 2 ^ 32 + cols * 2 ^ 48 + f.tag.toNat * 2 ^ 128 + segno * 2 ^ 160)

/-- A beat of at most 64 bytes, its tail dead (R179). -/
def beatOf (bs : List Byte) : Token :=
  mkTok .data (BitVec.ofNat 512 (bytesNat bs)) (BitVec.ofNat 64 (2 ^ bs.length - 1)) false false

/-- Elements that have come in order join the bytes of the next beat. -/
def Running.collect : Nat → Running → Running
  | 0, r => r
  | k + 1, r =>
    match r.elems with
    | e :: l => match e.st with
      | .done bs => if r.bytes.length ≥ 64 then r else Running.collect k { r with elems := l, bytes := r.bytes ++ bs, doneN := r.doneN + 1 }
      | _ => r
    | [] => r

/-- What a command sends next; nothing while elements are missing. -/
def nextToken (q : Port) (op total : Nat) (r : Running) : Option (Token × Running) :=
  match r.stage with
  | 0 => some (plainTok .sot q.segs.toNat, { r with stage := 1 })
  | 1 => some (hdrOf op r (q.segs - 1).toNat, { r with stage := 2 })
  | 2 =>
    let c := Running.collect 64 r
    if c.bytes.length ≥ 64 then some (beatOf (c.bytes.take 64), { c with bytes := c.bytes.drop 64, beats := c.beats + 1 })
    else if c.doneN < total then none
    else if c.bytes.isEmpty then some (plainTok .eot 0, { c with stage := 3 })
    else some (beatOf c.bytes, { c with bytes := [], beats := c.beats + 1 })
  | _ => none

/-- A token taken from a log (R258, R259). -/
def loggedTok (pay : Beat) (side : Nat) : Token :=
  let k : Kind := match bitsOf side 120 4 with
    | 0 => .data
    | 1 => .hdr
    | 2 => .sot
    | 3 => .eot
    | 4 => .mark
    | 5 => .ord
    | 6 => .done
    | 7 => .kill
    | 8 => .ctrl
    | 9 => .idx
    | n => .rsvd n
  mkTok k pay (BitVec.ofNat 64 (bitsOf side 56 64)) (bitsOf side 8 1 = 1) (bitsOf side 9 1 = 1)

/-- A replayed command's next token: the port's next log entry (R259, R365). A `raw` command ends with its last token,
another with its EOT; the rate, the switch and a halt hold it as they hold any token (R82, R83, R85). -/
def replayToken (s : State) (p : Place) (q : Port) (r : Running) (raw : Bool) : State :=
  if r.frozen.isSome then s
  else match replayEntry s p q.num false (portSrc p q.num) q.logSeq with
    | .wait => s
    | .fault s1 code sub pte =>
    portFreeze s1 p q.num r code sub (replayVa s p q.num false (portSrc p q.num) q.logSeq) pte false r.doneN .none
    | .ok s1 none => portFreeze s1 p q.num r 16 0 0 0 false r.doneN .none
    | .ok s0 (some (pay, side, roll)) =>
      let t := loggedTok pay side
      let s1 := if t.kind = .sot && p.rb.isSome && p.ports.all (fun y => y.saved.isEmpty) then snapAll s0 p else s0
      if !q.mayIn s || (t.kind = .sot && !sotGoes s p q) then s
      else match portTile s1 p q.num with
      | none => s
      | some (x, w) =>
        match tileAdmit s1 p x w t with
        | (_, false) => s
        | (s2, true) =>
          let mkint := match p.folio with | some f => f.mkint | none => 0
          let note (y : Port) : Port :=
            let z := { (y.sent t.kind mkint).tookIn s with logSeq := y.logSeq + 1 }
            if t.kind = .mark then ({ z with mkWave := t.pay.toNat % 2 ^ 32 + 1 }).mark (t.pay.toNat % 2 ^ 32)
            else if t.kind = .sot && p.rb.isSome then y.mark waveStart |>.sent .sot mkint |> fun u => { u.tookIn s with logSeq := y.logSeq + 1 } else z
          let s3 := s2.updPort p.id q.num note
          let last := if raw then r.doneN + 1 ≥ r.cmd.f.count.toNat else t.kind = .eot
          let s4 := if last then endCommand s3 p.id q.num r.cmd 1 else s3.updRun p.id q.num r.cmd (fun y => { y with doneN := y.doneN + 1 })
          if roll then rollNow s4 p else s4

/-- Sends a command's next token; the command ends DONE with its EOT. -/
def deliver (s : State) (p : Place) (q : Port) (r : Running) (total : Nat) : State :=
  if !q.heads r then s
  else if replaying s p then replayToken s p q r false
  else match nextToken q r.cmd.op total r with
    | none => s
    | some (t, r1) =>
      match portSend s p q t with
      | (s1, false) => s1
      | (s1, true) =>
        if r1.stage = 3 then endCommand s1 p.id q.num r.cmd 1
        else s1.updRun p.id q.num r.cmd (fun y => { y with elems := r1.elems, bytes := r1.bytes, doneN := r1.doneN, beats := r1.beats, stage := r1.stage })

/-- A place and port read again after a token has moved. -/
def again (s : State) (p : Place) (q : Port) (k : Place → Port → State) : State :=
  match s.place? p.id with
  | none => s
  | some p1 => match p1.port? q.num with
    | none => s
    | some q1 => if rollDue s p1 then s else k p1 q1

/-- A command after its first part of a turn, read again, unless it has ended or frozen. -/
def goOn (s : State) (p : Place) (q : Port) (r : Running) (k : Place → Port → Running → State) : State :=
  again s p q (fun p1 q1 => match q1.runs.find? (fun x => x.cmd = r.cmd) with
    | some r1 => if (q1.twin r1).frozen.isSome then s else k p1 q1 (q1.twin r1)
    | none => s)

/-- There is room in the reorder buffer (R204). -/
def Port.roomy (q : Port) : Bool := ((q.runs.flatMap (fun r => r.elems)).filter (fun e => e.hold.isNone)).length < 64

/-- Bytes that a port of a rollback region keeps for waves that are not complete (R250). -/
def Port.kept (q : Port) : Nat := (((q.runs.flatMap (fun r => r.elems)).filter (fun e => e.hold.isSome)).map (fun e => e.data.length)).sum

/-! ### LOAD, GATHER, XGET (R356, R358, R360, R361) -/

/-- An MRX LOAD's next line from its core's landing buffer (R360). -/
def mrxTake (s : State) (p : Place) (q : Port) (r : Running) : State :=
  let total := r.cmd.f.count.toNat
  let n := r.next
  let va := r.cmd.f.base.toNat + 64 * n
  let mine (l : Landing) : Bool := l.die = p.die && l.core = p.portCore q.num && l.va = va && l.base = r.cmd.f.base.toNat && !l.dropped
  if n ≥ total then s
  else if n = 0 && (patUnit r.pat ≠ 64 || patC r.pat 0 ≠ 2 || patS r.pat 0 ≠ 1 || patS r.pat 1 ≠ 2 || r.cmd.f.base.toNat % 128 ≠ 0) then
    portFail s p q.num r 4
  else match s.landing.find? mine with
    | none => s
    | some l =>
      let free := { s with landing := dropFirst (fun y => y = l) s.landing }
      let add (st : List Byte → ElemSt) (d : List Byte) (x : Running) : Running :=
        { x with
          elems := x.elems ++ ((List.range (min 2 (total - n))).map (fun i =>
            { n := n + i, addr := va + 64 * i, data := [], refusals := 0, hold := none, st := st ((d.drop (64 * i)).take 64) }))
          next := n + min 2 (total - n) }
      match l.lost, l.data with
      | some i, _ => portFreeze (free.updRun p.id q.num r.cmd (add (fun _ => .queued) [])) p q.num r 12 0 va 0 false n i
      | none, none => s
      | none, some d =>
        -- a region sees its own writes that wait for their commit (R230, R239)
        let d1 := match regionRb s p with | some b => overHeld (128 * l.line) d b.held | none => d
        let s1 := if l.fixed then taint free p 1 else free
        s1.updRun p.id q.num r.cmd (add .done d1)

/-- LOAD: delivers the tokens that are ready, then takes a landed line or issues the next element's read. -/
def execCmdLoad (pr : PortRef) (f : CmdF) (s : State) : Out :=
  portTurn pr 0x00 f (fun p q r s =>
    let total := r.cmd.f.count.toNat
    let s1 := deliver s p q r total
    goOn s1 p q r (fun p1 q1 r1 =>
      if replaying s1 p1 || !q1.roomy then s1
      else if r1.cmd.f.mrx && !r1.fallback && !(r1.elems.any (fun e => e.st = .queued)) then mrxTake s1 p1 q1 r1
      else match r1.nextElem total (patAddr r1.pat r1.cmd.f.base.toNat) with
        | none => s1
        | some e => issueElem s1 p1 q1 r1 e (patUnit r1.pat) .read (Need.load true))) s

/-- Takes a beat of indices at input b: framing is dropped there and any other kind is a KIND fault (R358). -/
def takeIdx (s : State) (p : Place) (q : Port) (r : Running) : State :=
  match idxHead s p q.num with
  | none => s
  | some (t, s1) =>
    if rollDue s1 p then s1
    else if t.kind.framing || t.kind = .kill then s1
    else if t.kind ≠ .idx then portFail s1 p q.num r 3
    else
      let left := r.cmd.f.count.toNat - (r.next + r.idx.length)
      let is := (List.range (min 16 left)).map (fun l => if t.laneLive l then some (BitVec.ofNat 32 (t.lane l)) else none)
      s1.updRun p.id q.num r.cmd (fun x => { x with idx := x.idx ++ is })

/-- The address an index names. -/
def idxAddr (r : Running) (i : BitVec 32) : Nat :=
  (BitVec.ofInt 64 ((r.cmd.f.base.toNat : Int) + patUnit r.pat * i.toInt)).toNat

/-- GATHER: as LOAD, its addresses taken from indices; an element of a dead index is zero without an access (R205). -/
def execCmdGather (pr : PortRef) (f : CmdF) (s : State) : Out :=
  portTurn pr 0x03 f (fun p q r s =>
    let total := r.cmd.f.count.toNat
    let s1 := deliver s p q r total
    goOn s1 p q r (fun p1 q1 r1 =>
      if replaying s1 p1 || !q1.roomy then s1
      else match r1.elems.find? (fun e => e.st = .queued) with
        | some e => issueElem s1 p1 q1 r1 e (patUnit r1.pat) .read (Need.load true)
        | none =>
          if r1.next ≥ total then s1
          else match r1.idx with
            | [] => takeIdx s1 p1 q1 r1
            | i :: l =>
              let e : Elem := { n := r1.next, addr := match i with | some v => idxAddr r1 v | none => 0, data := [], refusals := 0, hold := none, st := .queued }
              let add (st : ElemSt) : State := s1.updRun p1.id q1.num r1.cmd (fun x => { x with elems := x.elems ++ [{ e with st := st }], next := x.next + 1, idx := l })
              match i with
              | some _ => add .queued
              | none => add (.done (List.replicate (patUnit r1.pat) 0)))) s

/-- A message to a remote device: an element's address, and its bytes. Its bytes are the model's own arrangement
(DESIGN CHOICE, assumption 13). -/
def remoteBody (op : Nat) (p : Place) (r : Running) (e : Elem) : List Byte :=
  natBytes 1 op ++ natBytes 1 r.cmd.f.flags.toNat ++ natBytes 2 p.asid ++ natBytes 8 e.addr ++ natBytes 4 (patUnit r.pat) ++ e.data

/-- Sends an element's message to the port group toward the remote device, which sends it on; without a trained path, or the feature its peer must have, NET_LOSS at
once (R30, R46, R361). -/
def issueRemote (s : State) (p : Place) (q : Port) (r : Running) (e : Elem) (feat : Nat) : State :=
  let dev := r.cmd.f.dev
  let io := brosumIo s dev
  let loss : NetInfo := { key := { net := 2, src := s.pkg.ident.devid.toNat, dst := dev, msgid := 0, io := io }, cls := 0, bitmap := 0, timer := false }
  if !q.canIssue then s
  else if e.addr ≥ 2 ^ 48 then badElem s p q.num r.cmd e 8 3 0 .none
  else if bitsOf (peerCap s dev) feat 1 = 0 then badElem s p q.num r.cmd e 12 0 0 loss
  else
    let x : Xl := { pa := e.addr, cpol := 3, iset := 0, share := false, comp := false, pte := 0, sram := false, asid := p.asid, va := e.addr }
    let rq := mkReq p q.num q.reqNo r.cmd.f x 3 (patUnit r.pat) (.remote dev)
    let s1 := sentElem s p q.num r.cmd e q.reqNo
    sendMessage { s1 with reqs := s1.reqs ++ [rq] }
      (packageMsg (coreEp p.die rq.core) (portGroupEp io) .request q.reqNo (remoteBody r.cmd.op p r e) (.gen p.id q.num q.reqNo))
      (.remote p.id q.num q.reqNo)

/-- XGET: as LOAD, its elements read at the remote device. -/
def execCmdXget (pr : PortRef) (f : CmdF) (s : State) : Out :=
  portTurn pr 0x0E f (fun p q r s =>
    let total := cmdCount 0x0E r.cmd.f
    let s1 := deliver s p q r total
    goOn s1 p q r (fun p1 q1 r1 =>
      if replaying s1 p1 || !q1.roomy then s1
      else match r1.nextElem total (patAddr r1.pat r1.cmd.f.base.toNat) with
        | none => s1
        | some e => issueRemote s1 p1 q1 r1 e 0)) s

/-! ### Commands that take a segment (R356, R358, R359, R361) -/

/-- Elements of a whole beat that is VOID and dead: their places are kept, and nothing is written. -/
def Running.skipVoid (r : Running) (total : Nat) : Running :=
  let k := min (64 / patUnit r.pat) (total - r.next)
  { r with next := r.next + k, doneN := r.doneN + k, idx := r.idx.drop k }

/-- The live bytes of a beat, in order. -/
def liveBytes (t : Token) : List Byte :=
  (List.range 64).filterMap (fun i => if t.mask.getLsbD i then some (BitVec.ofNat 8 (bitsOf t.pay.toNat (8 * i) 8)) else none)

/-- The bytes of an element that lie within the rows and columns of the header (R205). (DEDUCED, assumption 133.) -/
def Running.within (r : Running) (n : Nat) : Nat :=
  let u := patUnit r.pat
  match r.bounds with
  | none => u
  | some (rows, cols, w) =>
    let c0 := if r.cmd.op = 0x04 then 1 else patC r.pat 0
    if n / c0 ≥ rows then 0 else min u ((cols * w + 7) / 8 - n % c0 * u)

/-- The next element out of the bytes taken; SCATTER waits for its index. What lies outside the header's bounds is not accessed. -/
def Running.form (r : Running) (total : Nat) (hold : Option Nat) : Option Running :=
  let u := patUnit r.pat
  if r.next < total && r.bytes.length ≥ u then
    let e (a : Nat) : Elem := { n := r.next, addr := a, data := r.bytes.take (r.within r.next), refusals := 0, hold := hold, st := .queued }
    let rest : Running := { r with next := r.next + 1, bytes := r.bytes.drop u }
    if r.cmd.op = 0x04 then
      match r.idx with
      | some i :: l => if r.within r.next = 0 then some { rest with idx := l, doneN := r.doneN + 1 } else some { rest with elems := rest.elems ++ [e (idxAddr r i)], idx := l }
      | none :: l => some { rest with idx := l, doneN := r.doneN + 1 }
      | [] => none
    else if r.within r.next = 0 then some { rest with doneN := r.doneN + 1 }
    else some { rest with elems := rest.elems ++ [e (patAddr r.pat r.cmd.f.base.toNat r.next)] }
  else none

/-- Takes one token of the segment (R356, R250). -/
def takeBeat (s : State) (p : Place) (q : Port) (r : Running) (total : Nat) : State :=
  match tileTake s p q.num with
  | none => s
  | some (t, s1) =>
    if rollDue s1 p then s1
    else
      let upd (f : Running → Running) : State := s1.updRun p.id q.num r.cmd f
      let pass (st : State) : State := if p.rb.isSome then passMark st p (portNode p q.num) t else st
      match t.kind with
      | .sot =>
        if r.stage ≠ 0 then portFail s1 p q.num r 4
        else (upd (fun x => { x with stage := 1 })).updPort p.id q.num (fun y =>
          { (if p.rb.isSome then y.mark waveStart else y) with mkWave := 0, midSeg := true })
      | .hdr => if r.stage = 0 then portFail s1 p q.num r 4 else upd (fun x => { x with stage := 2, beats := hdrField t 160 32, bounds := some (hdrRows t, hdrCols t, fmtWidth (hdrFmtA t)) })
      | .data =>
        if r.stage ≠ 2 then portFail s1 p q.num r 4
        else if t.void && t.mask = 0 && r.bytes.isEmpty then
          if r.next ≥ total then portFail s1 p q.num r 4 else upd (fun x => x.skipVoid total)
        else
          let bs := liveBytes t
          if r.next * patUnit r.pat + r.bytes.length + bs.length > total * patUnit r.pat then portFail s1 p q.num r 4
          else upd (fun x => { x with bytes := x.bytes ++ bs })
      | .eot =>
        if r.stage = 0 || r.next < total || !r.bytes.isEmpty then portFail s1 p q.num r 4
        else (pass (upd (fun x => { x with eotSeen := true }))).updPort p.id q.num (fun y => { y with segs := y.segs + 1, midSeg := false })
      | .mark =>
        (pass s1).updPort p.id q.num (fun y => ({ y with mkWave := t.pay.toNat % 2 ^ 32 + 1 }).mark (t.pay.toNat % 2 ^ 32))
      | _ => portFail s1 p q.num r 3

/-- Every write of a command that is held for its wave has been performed (R239). -/
def noneHeld (p : Place) (port : Nat) : Bool :=
  match p.rb with | some b => !b.held.any (fun h => h.node.isNone && h.port = port) | none => true

/-- A command that takes a segment ends once EOT has come and every write is performed at its scope; flags are gathered as
the port passes the EOT (R249, R354). -/
def finishTaker (s : State) (p : Place) (q : Port) (r : Running) : State :=
  if r.eotSeen && r.elems.isEmpty && (r.cmd.f.scope = 0 || noneHeld p q.num) then
    let s1 := if q.flags = 0 then s else (gatherFlags s p r.beats q.flags).updPort p.id q.num (fun y => { y with flags := 0 })
    endWithEot s1 p q.num r.cmd
  else s

/-- A turn of a command that takes a segment: an element is formed, or a token or a beat of indices taken; `issue` sends a
formed element on. -/
def takerTurn (total : Nat) (idx : Bool) (hold : Bool) (issue : State → Place → Port → Running → Elem → State)
    (p : Place) (q : Port) (r : Running) (s : State) : State :=
  if r.frozen.isSome then s
  else
    let wave := if hold && p.rb.isSome then some q.mkWave else none
    let full := wave.isSome && q.kept + patUnit r.pat > 65536
    let only := (q.runs.flatMap (fun x => x.elems)).all (fun e => e.hold.isNone || e.hold = wave)
    if full && only then portFreeze s p q.num r 15 0 0 0 true r.next .none
    else if full then s
    else
    let s0 := if wave.isSome && q.kept ≥ 49152 then askMarks s p else s
    let s := s0
    let s1 := match r.form total wave with
      | some r1 => if q.roomy then s.updRun p.id q.num r.cmd (fun x => { x with elems := r1.elems, bytes := r1.bytes, next := r1.next, idx := r1.idx, doneN := r1.doneN }) else s
      | none =>
        if idx && r.idx.isEmpty && r.next < total then takeIdx s p q r
        else if r.eotSeen || !q.roomy then s
        else takeBeat s p q r total
    again s1 p q (fun p1 q1 => match q1.runs.find? (fun x => x.cmd = r.cmd) with
      | none => s1
      | some r1 =>
        if r1.frozen.isSome then s1
        else match r1.elems.find? (fun e => e.st = .queued && e.hold.isNone) with
          | some e => issue s1 p1 q1 r1 e
          | none => finishTaker s1 p1 q1 r1)

/-- An element is written: by a request, or in a rollback region into the commit buffer (R239). (DEDUCED, assumption 57.) -/
def storeElem (s : State) (p : Place) (q : Port) (r : Running) (e : Elem) : State :=
  match p.rb with
  | none => issueElem s p q r e e.data.length (.write (e.data.map (fun b => (b, true)))) (Need.store true)
  | some rb =>
    match holdWrite s p (p.portCore q.num) rb { node := none, cmd := some r.cmd, port := q.num, wave := q.mkWave, va := e.addr, pa := 0, bytes := e.data
                                                hint := r.cmd.f.hint.toNat, stl := none, done := false, elem := e.n } with
    | .ok s1 () => s1.updRun p.id q.num r.cmd (fun x => { x with elems := x.elems.filter (fun y => y.n ≠ e.n), doneN := x.doneN + 1 })
    | .wait => s
    | .fault s1 code sub pte => portFreeze s1 p q.num r code sub e.addr pte true e.n .none

/-- STORE. -/
def execCmdStore (pr : PortRef) (f : CmdF) (s : State) : Out :=
  portTurn pr 0x01 f (fun p q r s => takerTurn r.cmd.f.count.toNat false false storeElem p q r s) s

/-- SCATTER: element n is written where index n says, in index order. -/
def execCmdScatter (pr : PortRef) (f : CmdF) (s : State) : Out :=
  portTurn pr 0x04 f (fun p q r s => takerTurn r.cmd.f.count.toNat true false storeElem p q r s) s

/-- REDUCE: each element is combined at its line's coherence point (R231, R359). -/
def execCmdReduce (pr : PortRef) (f : CmdF) (s : State) : Out :=
  portTurn pr 0x05 f (fun p q r s => takerTurn r.cmd.f.count.toNat false true (fun s p q r e =>
    issueElem s p q r e e.data.length (.reduce r.cmd.f.redOp r.cmd.f.fmt r.cmd.f.sat e.data) (Need.store true)) p q r s) s

/-- XPUT: each element is written at the remote device. -/
def execCmdXput (pr : PortRef) (f : CmdF) (s : State) : Out :=
  portTurn pr 0x0D f (fun p q r s => takerTurn (cmdCount 0x0D r.cmd.f) false true (fun s p q r e => issueRemote s p q r e 0) p q r s) s

/-- CREDUCE: each element is combined at the remote device's LLC, once. -/
def execCmdCreduce (pr : PortRef) (f : CmdF) (s : State) : Out :=
  portTurn pr 0x0F f (fun p q r s => takerTurn (cmdCount 0x0F r.cmd.f) false true (fun s p q r e => issueRemote s p q r e 1) p q r s) s

/-! ### COPY, FILL, PREFETCH, FLUSH (R357, R364) -/

/-- COPY: the oldest element whose bytes have come is written at D + u·n; else the next element is read. -/
def execCmdCopy (pr : PortRef) (f : CmdF) (s : State) : Out :=
  portTurn pr 0x02 f (fun p q r s =>
    let total := r.cmd.f.count.toNat
    let u := patUnit r.pat
    if r.frozen.isSome then s
    else if r.next ≥ total && r.elems.isEmpty then endWithEot s p q.num r.cmd
    else match r.elems.find? (fun e => e.st = .queued) with
      | some e => issueElem s p q r e u .read (Need.load true)
      | none =>
        match r.elems.head? with
        | some e => match e.st with
          | .done bs =>
            let va := bitsOf r.pat2.toNat 0 48 + u * e.n
            (match fabWriteSpan 2 s p (p.portCore q.num) r.cmd.f.hint.toNat va bs with
             | .ok s1 () => s1.updRun p.id q.num r.cmd (fun x => { x with elems := x.elems.filter (fun y => y.n ≠ e.n), doneN := x.doneN + 1 })
             | .wait => s
             | .fault s1 code sub pte => portFreeze s1 p q.num r code sub va pte true e.n .none)
          | _ => match r.nextElem total (patAddr r.pat r.cmd.f.base.toNat) with
            | some e2 => if q.roomy then issueElem s p q r e2 u .read (Need.load true) else s
            | none => s
        | none => match r.nextElem total (patAddr r.pat r.cmd.f.base.toNat) with
          | some e2 => issueElem s p q r e2 u .read (Need.load true)
          | none => s) s

/-- A turn of a command that moves no token: the next element's request, or the end. -/
def walkTurn (eot : Bool) (k : Running → ReqKind) (nd : Need) (p : Place) (q : Port) (r : Running) (s : State) : State :=
  let total := r.cmd.f.count.toNat
  if r.frozen.isSome then s
  else if r.next ≥ total && r.elems.isEmpty then (if eot then endWithEot s p q.num r.cmd else endCommand s p.id q.num r.cmd 1)
  else match r.nextElem total (patAddr r.pat r.cmd.f.base.toNat) with
    | none => s
    | some e => issueElem s p q r e (patUnit r.pat) (k r) nd

/-- FILL: the low u bytes of the companion's P[63:0], repeated for a 64-byte unit. -/
def execCmdFill (pr : PortRef) (f : CmdF) (s : State) : Out :=
  portTurn pr 0x07 f (walkTurn true (fun r =>
    let v := natBytes 8 (bitsOf r.pat2.toNat 0 64)
    let u := patUnit r.pat
    .write (((if u = 64 then (List.replicate 8 v).flatten else v.take u)).map (fun b => (b, true)))) (Need.store true)) s

/-- PREFETCH: an element whose translation faults is passed over. -/
def execCmdPrefetch (pr : PortRef) (f : CmdF) (s : State) : Out :=
  portTurn pr 0x10 f (fun p q r s =>
    match r.nextElem r.cmd.f.count.toNat (patAddr r.pat r.cmd.f.base.toNat) with
    | some e => match genXl s p q e.addr (Need.load true) with
      | .fault _ _ _ => s.updRun p.id q.num r.cmd (fun x => { x with next := max x.next (e.n + 1), elems := x.elems.filter (fun y => y.n ≠ e.n) })
      | _ => walkTurn false (fun _ => .prefetch) (Need.load true) p q r s
    | none => walkTurn false (fun _ => .prefetch) (Need.load true) p q r s) s

/-- FLUSH: INV is FLAGS bit 80. -/
def execCmdFlush (pr : PortRef) (f : CmdF) (s : State) : Out :=
  portTurn pr 0x11 f (walkTurn false (fun r => .flush (r.cmd.f.flags.getLsbD 0)) (Need.load true)) s

/-! ### MCAST (R216, R217, R360) -/

/-- The cores an MCAST names: 16p + i. -/
def mcastCores (f : CmdF) : List Nat :=
  let m := bitsOf f.count.toNat 8 16
  (List.range 16).filterMap (fun i => if bitsOf m i 1 = 1 then some (16 * (f.flags.toNat % 2) + i) else none)

/-- MCAST: the next line is read once every named core has a landing line free; the command ends when the departure notice
of its last line has come. -/
def execCmdMcast (pr : PortRef) (f : CmdF) (s : State) : Out :=
  portTurn pr 0x06 f (fun p q r s =>
    let total := cmdCount 0x06 r.cmd.f
    let cores := mcastCores r.cmd.f
    if r.frozen.isSome then s
    else if r.next ≥ total && r.elems.isEmpty then endCommand s p.id q.num r.cmd 1
    else match r.nextElem total (fun n => r.cmd.f.base.toNat + 128 * n) with
      | none => s
      | some e =>
        let again_ := s.landing.any (fun l => l.place = p.id && l.port = q.num && l.va = e.addr && l.base = r.cmd.f.base.toNat &&
          l.inflight.isNone && l.data.isNone && l.lost.isNone && !l.dropped)
        let room (c : Nat) : Bool := (s.landing.filter (fun l => l.die = p.die && l.core = c && !l.dropped)).length < 64
        if !again_ && !cores.all room then s
        else
          let s1 := issueElem s p q r e 128 (.mcast (bitsOf r.cmd.f.count.toNat 8 16) (r.cmd.f.flags.toNat % 2)) (Need.load true)
          match s1.reqs.getLast? with
          | some rq =>
            if s1.reqs.length > s.reqs.length && !again_ then
              { s1 with landing := s1.landing ++ cores.map (fun c =>
                  { die := p.die, core := c, line := rq.line, va := e.addr, base := r.cmd.f.base.toNat, place := p.id, port := q.num, asid := p.asid
                    scope := r.cmd.f.cscope.toNat, inflight := none, data := none, lost := none, fixed := false, dropped := false }) }
            else s1
          | none => s1) s

/-! ### INJECT, PSET, SYNC, RECORD, REPLAY (R351, R362, R363, R365) -/

def injectKind (n : Nat) : Kind :=
  match n with
  | 0 => .data
  | 1 => .hdr
  | 2 => .sot
  | 3 => .eot
  | 5 => .ord
  | 6 => .done
  | 8 => .ctrl
  | 9 => .idx
  | k => .rsvd k

/-- INJECT: the next payload is read and sent as a token of the kind asked for. (DESIGN CHOICE, assumption 80.) -/
def execCmdInject (pr : PortRef) (f : CmdF) (s : State) : Out :=
  portTurn pr 0x09 f (fun p q r s =>
    if r.frozen.isSome || !q.heads r then s
    else if r.doneN ≥ r.cmd.f.count.toNat then endCommand s p.id q.num r.cmd 1
    else if replaying s p then replayToken s p q r true
    else
      let va := r.cmd.f.base.toNat + 64 * r.doneN
      match fabReadSpan 2 s p (p.portCore q.num) r.cmd.f.hint.toNat va 64 with
      | .wait => s
      | .fault s1 code sub pte => portFreeze s1 p q.num r code sub va pte false r.doneN .none
      | .ok s1 bs =>
        let t := mkTok (injectKind r.cmd.f.fmt) (BitVec.ofNat 512 (bytesNat bs)) (BitVec.allOnes 64) false false
        match portSend s1 p q t with
        | (s2, false) => s2
        | (s2, true) =>
          if r.doneN + 1 ≥ r.cmd.f.count.toNat then endCommand s2 p.id q.num r.cmd 1
          else s2.updRun p.id q.num r.cmd (fun x => { x with doneN := x.doneN + 1 })) s

/-- PSET: half of the slot's pattern is replaced (R351). -/
def psetPat (f : CmdF) (old : Pat) : Pat :=
  let v := f.hint.toNat * 2 ^ 87 + f.flags.toNat % 128 * 2 ^ 80 + f.count.toNat * 2 ^ 56 + f.tag.toNat * 2 ^ 48 + f.base.toNat
  if f.flags.getLsbD 7 then BitVec.ofNat 178 (bitsOf old.toNat 0 89 + v * 2 ^ 89) else BitVec.ofNat 178 (bitsOf old.toNat 89 89 * 2 ^ 89 + v)

/-- A PSET's effect on its slot, in the cycle it starts (R351). -/
def Port.pset (q : Port) (f : CmdF) : Port :=
  { q with slots := putBy (fun x => x.1 = f.slot.toNat) (f.slot.toNat, psetPat f (q.slot f.slot.toNat)) q.slots }

/-- SYNC: every command its thread handed over before has ended, with its writes performed at the SYNC's scope. -/
def execCmdSync (pr : PortRef) (f : CmdF) (s : State) : Out :=
  portTurn pr 0x0A f (fun p q r s =>
    let before (c : QCmd) : Bool := c.thread = r.cmd.thread && c.seq < r.cmd.seq
    let open_ := p.ports.any (fun y => y.queue.any before || (y.runs ++ y.logs).any (fun x => before x.cmd))
    let writes := (r.cmd.f.scope.toNat ≥ 3 && forwarding s p) ||
      (r.cmd.f.scope ≠ 0 && (match p.rb with | some b => b.held.any (fun h => h.node.isNone) | none => false))
    if open_ || writes then s
    else if r.cmd.f.flags.getLsbD 0 then endWithEot s p q.num r.cmd
    else endCommand s p.id q.num r.cmd 1) s

/-- RECORD: it ends when COUNT entries are written; the sources it logs write them (R258, R365). -/
def execCmdRecord (pr : PortRef) (f : CmdF) (s : State) : Out :=
  portTurn pr 0x0B f (fun p q r s => if r.doneN ≥ r.cmd.f.count.toNat then endCommand s p.id q.num r.cmd 1 else s) s

/-- REPLAY: it ends when its COUNT entries are taken; the sources it feeds take them (R259, R365). -/
def execCmdReplay (pr : PortRef) (f : CmdF) (s : State) : Out :=
  portTurn pr 0x0C f (fun p q r s => if r.doneN ≥ r.cmd.f.count.toNat then endCommand s p.id q.num r.cmd 1 else s) s

end Sys2Proof.Machine
end

