-- ==== Sys2Proof/Machine/Answers.lean ====
section
/-! DEFINITION. The events of ports and of scalar accesses: a command starts (R348), responses, retries and walks (R203, R204,
R214, R426), the events of MCAST (R360), the rate window (R85), and what is reported to a thread (R314, R317). -/

namespace Sys2Proof.Machine

/-! ### COMMAND_START (R288, R347, R348) -/

/-- A started command has issued its last request. -/
def Running.issued (r : Running) : Bool :=
  let idle := r.elems.all (fun e => e.st ≠ .queued)
  let total := cmdCount r.cmd.op r.cmd.f
  match r.cmd.op with
  | 0x01 | 0x04 | 0x05 | 0x0D | 0x0F => r.eotSeen && idle
  | 0x02 => r.next ≥ total && r.elems.isEmpty
  | 0x08 | 0x0A => true
  | 0x09 => r.doneN ≥ total
  | _ => r.next ≥ total && idle && r.frozen.isNone

def freshRun (c : QCmd) (pat pat2 : Pat) : Running :=
  { cmd := c, pat := pat, pat2 := pat2, next := 0, elems := [], doneN := 0, bytes := [], beats := 0, idx := [], stage := 0, eotSeen := false, bounds := none
    walking := none, frozen := none, fallback := false }

/-- The command at the head of a queue starts: it latches its pattern and fields, or ends INVALID; a PSET ends with that (R351). Reads at PACKAGE or
SYSTEM drop the die's SHARE_PKG lines first (R238). -/
def startHead (s : State) (p : Place) (q : Port) (c : QCmd) : State :=
  let pat := q.slot c.f.slot.toNat
  let pat2 := q.slot (c.f.slot.toNat + 1)
  let s1 := (stir s p.asid).updPort p.id q.num (fun y => { y with queue := y.queue.drop 1 })
  if !startValid c.op c.f pat then endCommand s1 p.id q.num c 4
  else if c.op = 0x08 then endCommand (s1.updPort p.id q.num (fun y => y.pset c.f)) p.id q.num c 1
  else
    let r := freshRun c pat pat2
    let s2 := if c.f.scope.toNat ≥ 3 && [0x00, 0x03, 0x05, 0x06, 0x0E].contains c.op then flashInvalidate s1 p.die else s1
    if c.op = 0x0B ∨ c.op = 0x0C then s2.updPort p.id q.num (fun y => { y with logs := y.logs ++ [r] })
    else s2.updPort p.id q.num (fun y => { y with older := y.runs, running := some r })

/-- The head of a queue may start: the command before it has issued its last request, and the running context declares the port
with the generator it needs (R348). -/
def mayStart (s : State) (p : Place) (q : Port) (c : QCmd) : Bool :=
  let free := match q.running with | some r => (if replaying s p && !writes r.cmd.op then false else r.issued) | none => true
  placeMoves s p && !q.held && partGoes s p && free && (match p.folio with | some f => f.declares q.num c.op | none => false)

/-- The head of a port's queue starts, where it satisfies `may` and can. -/
def startIf (may : QCmd → Bool) (place port : Nat) (s : State) : Out :=
  match s.place? place with
  | none => .next s
  | some p => match p.port? port with
    | none => .next s
    | some q => match q.queue with
      | [] => .next s
      | c :: _ => if may c && mayStart s p q c then .next (startHead s p q c) else .next s

/-- COMMAND_START. -/
def execCommandStart (place port : Nat) (s : State) : Out := startIf (fun _ => true) place port s

/-- PSET: at the head of its queue it starts and ends in one cycle (R351). -/
def execCmdPset (pr : PortRef) (f : CmdF) (s : State) : Out := startIf (fun c => c.op = 0x08 && c.f = f) pr.place pr.port s

/-! ### Responses (R204, R214, R224, R360) -/

/-- A killed request's ticket, by partition (R108, R110). -/
def deadKey (asid ticket : Nat) : Nat := asid * 2 ^ 32 + ticket

/-- The command and element that await an answer to a request. -/
def Port.awaits (q : Port) (no : Nat) : Option (Running × Elem) :=
  q.runs.findSome? (fun r => (r.elems.find? (fun e => e.st = .sent no)).map (fun e => (r, e)))

/-- An answer reaches the element that waits for it. -/
def answerElem (s : State) (p : Place) (q : Port) (r : Running) (e : Elem) (k : RespKind) : State :=
  let upd (f : Elem → Elem) : State := s.updRun p.id q.num r.cmd (fun x => x.updElem e.n f)
  let gone (st : State) : State :=
    st.updRun p.id q.num r.cmd (fun x => { x with elems := x.elems.filter (fun y => y.n ≠ e.n), doneN := x.doneN + 1 })
  match k with
  | .data bs =>
    upd (fun y => { y with st := .done (bs.take (patUnit r.pat)) })
  | .ack fl => (gone s).updPort p.id q.num (fun y => { y with flags := y.flags ||| fl })
  | .refused h rq => upd (fun y => { y with refusals := y.refusals + 1, st := .retry (s.cycle + h) rq })
  | .fault code sub pte =>
    if r.cmd.op = 0x10 then gone s
    else
      let src := if r.cmd.op = 0x0D ∨ r.cmd.op = 0x0E ∨ r.cmd.op = 0x0F then r.cmd.f.dev else 0
      upd (fun y => { y with st := .bad code sub pte { net := 0, src := src, dst := 0, msgid := 0, io := 0 } 0 0 false })
  | .lost msg cls bitmap timer =>
    if r.cmd.op = 0x10 then gone s
    else if r.cmd.op = 0x06 ∧ cls = 1 then
      let mine (l : Landing) : Bool := l.place = p.id && l.port = q.num && l.va = e.addr && l.core = msg.dst % 256
      { s with landing := updBy mine (fun l => { l with lost := some { key := msg, cls := cls, bitmap := bitmap, timer := timer } }) s.landing }
    else upd (fun y => { y with st := .bad 12 0 0 msg cls bitmap timer })

/-- The loss of a message of a command whose accesses take one step, the writes of COPY and RECORD and the reads of INJECT and REPLAY,
freezes the command at the element it stands at (R38, R224). (DESIGN CHOICE, assumption 36.) -/
def stepLoss (s : State) (p : Place) (q : Port) (k : RespKind) : State :=
  match k, (q.runs ++ q.logs).find? (fun r => r.frozen.isNone && (r.cmd.op = 0x02 || r.cmd.op = 0x09 || r.cmd.op = 0x0B || r.cmd.op = 0x0C)) with
  | .lost msg cls bitmap timer, some r =>
    let va := match r.cmd.op with
      | 0x02 => bitsOf r.pat2.toNat 0 48 + patUnit r.pat * r.doneN
      | 0x09 => r.cmd.f.base.toNat + 64 * r.doneN
      | _ => r.cmd.f.base.toNat + 96 * r.doneN
    portFreeze s p q.num r 12 0 va 0 (r.cmd.op = 0x02 || r.cmd.op = 0x0B) r.doneN { key := msg, cls := cls, bitmap := bitmap, timer := timer }
  | _, _ => s

/-- GENERATOR_RESPONSE: an answer reaches its generator; one for killed work is counted and discarded. -/
def execGeneratorResponse (i : Nat) (s : State) : Out :=
  match s.resps[i]? with
  | none => .next s
  | some a =>
    let s1 := { s with resps := s.resps.eraseIdx i }
    if !s.arrived (.resp a.place a.port a.elem) then .next s
    else match a.dead with
    | some key => match a.kind with
      | .data _ => .next (bumpTicket s1 key 4 1)
      | .lost _ _ _ _ => .next (bumpTicket s1 key 10 1)
      | _ => .next s1
    | none => match s1.place? a.place with
      | none => .next s1
      | some p => match p.port? a.port with
        | none => .next s1
        | some q => match q.awaits a.elem with
          | none => .next (stepLoss s1 p q a.kind)
          | some (r, e) => .next (answerElem s1 p q r e a.kind)

/-- RETRY_TIMER_EXPIRE: the refused request is sent again, with PRIO after its eighth refusal; of two timers that have run out the
earlier goes first, and of two in one cycle the earlier request (R214, R426). -/
def execRetryTimerExpire (place port elem : Nat) (s : State) : Out :=
  match s.place? place with
  | none => .next s
  | some p => match p.port? port with
    | none => .next s
    | some q =>
      let due (e : Elem) : Option Req := match e.st with | .retry t r => if r.elem = elem ∧ t ≤ s.cycle then some r else none | _ => none
      match q.runs.findSome? (fun r => r.elems.findSome? (fun e => (due e).map (fun rq => (r, e, rq)))) with
      | none => .next s
      | some (r, e, rq) =>
        -- a timer that ran out earlier, or the earlier request of two in one cycle, goes first
        let before (x : Elem) : Bool := match x.st, e.st with
          | .retry u y, .retry t _ => u < t || (u = t && y.elem < elem)
          | _, _ => false
        if q.runs.any (fun x => x.elems.any before) then .next s else
        let again : Req := { rq with refusals := rq.refusals + 1, prio := rq.refusals + 1 ≥ 8 }
        .next (sendReq (s.updRun p.id q.num r.cmd (fun x => x.updElem e.n (fun y => { y with st := .sent rq.elem }))) p again)

/-- PAGE_WALK_DONE: the generator holds the translation, or the element that waits meets the fault; PREFETCH passes it over
(R203, R206, R364). -/
def execPageWalkDone (place port : Nat) (s : State) : Out :=
  match s.place? place with
  | none => .next s
  | some p => match p.port? port with
    | none => .next s
    | some q => match q.runs.find? (fun r => r.walking.isSome) with
      | none => .next s
      | some r =>
        let va := r.walking.getD 0
        if !walkTurnOf s p port then .next s else
        let done (st : State) : State :=
          { st.updRun p.id q.num r.cmd (fun x => { x with walking := none }) with walkq := st.walkq.filter (fun w => !(w.2.2.1 = place && w.2.2.2 = port)) }
        match walk s (some p.die) (p.portCore port) p.asid va with
        | .wait => .next s
        | .ok s1 (e, lv) =>
          .next (keepXlat (done s1) p port { asid := p.asid, vpage := va / 2 ^ pageBits lv, size := pageBits lv, pte := BitVec.ofNat 64 e, lv := lv })
        | .fault s1 code sub pte =>
          let e : Elem := (r.elems.find? (fun e => e.st = .queued && e.addr = va)).getD
            { n := r.next, addr := va, data := [], refusals := 0, hold := none, st := .queued }
          if r.cmd.op = 0x10 then
            .next ((done s1).updRun p.id port r.cmd (fun x => { x with next := max x.next (e.n + 1), elems := x.elems.filter (fun y => y.n ≠ e.n) }))
          else .next (badElem (done s1) p port r.cmd e code sub pte .none)

/-! ### MCAST (R217, R360) -/

/-- The group of a line leaves its slice: its entry and group slot free, joined reads are answered, and MCAST reads that
waited for it are performed as new ones. -/
def groupLeaves (s : State) (x : Slice) (g : Group) (got : Got) : State :=
  let x1 : Slice := { x with
    pend := x.pend.filter (fun p => !(p.line = g.line && p.kind = .mcast))
    groups := x.groups.filter (fun y => y.line ≠ g.line)
    waitMcast := x.waitMcast.filter (fun r => r.line ≠ g.line) }
  let s1 := g.joined.foldl (fun st r => serveRead st r (r.cut got)) (s.setSlice x1)
  { s1 with reqs := x.waitMcast.filter (fun r => r.line = g.line) ++ s1.reqs }

/-- One copy of a line sets out for a core's landing buffer (R216). (DESIGN CHOICE, assumption 158.) -/
def sendCopy (data : List Byte) (slice : Nat) (s : State) (l : Landing) : State :=
  sendMessage s (packageMsg (sliceEp l.die slice) (coreEp l.die l.core) .response 0 data (.line l.die l.core l.line)) (.line l.die l.core l.line)

/-- MCAST_DEPARTURE_NOTICE: the response of a line's group leaves its slice, its copies set out for the cores it names, and the
issuing port learns of it; the last line's notice ends the command. A word of the line with an uncorrectable error is a fault
to the port (R202). (DESIGN CHOICE, assumption 59.) -/
def execMcastDepartureNotice (place port line : Nat) (s : State) : Out :=
  match s.slices.findSome? (fun x => (x.groups.find? (fun g => g.line = line && g.req.place = place && g.req.port = port)).bind (fun g =>
      (x.pend.find? (fun p => p.line = line && p.kind = .mcast && !p.data.isEmpty)).map (fun p => (x, g, p)))) with
  | none => .next s
  | some (x, g, p) =>
    let s1 := groupLeaves s x g (p.got p.data)
    if !p.bad.isEmpty then .next (respond s1 g.req (.fault 10 1 0))
    else
      let mine (l : Landing) : Bool := l.die = x.die && l.line = line && l.place = place && l.port = port && l.inflight.isNone && l.data.isNone
      let va := (s1.landing.find? mine).map (fun k => k.va)
      -- the landing lines reserved for the oldest read of the line, one at each core
      let first (l : Landing) : Bool := mine l && some l.va = va
      let copies := s1.landing.filter first
      let s2 := copies.foldl (sendCopy p.data x.idx) { s1 with landing := updBy first (fun l => { l with inflight := some p.data, fixed := !p.fixed.isEmpty }) s1.landing }
      let s2' := match s2.place? place with | some y => if p.fixed.isEmpty then s2 else taint s2 y 1 | none => s2
      match (s2'.place? place).bind (fun p => p.port? port) with
      | none => .next s2'
      | some q =>
        match q.runs.find? (fun r => r.cmd.op = 0x06 && r.elems.any (fun e => some e.addr = va)) with
        | none => .next s2'
        | some r =>
          let s3 := (dropTimers s2' (.gen place port g.req.elem)).updRun place port r.cmd (fun y =>
            { y with elems := y.elems.filter (fun e => some e.addr ≠ va), doneN := y.doneN + 1 })
          if r.doneN + 1 ≥ cmdCount 0x06 r.cmd.f then .next (endCommand s3 place port r.cmd 1) else .next s3

/-- MCAST_LANDING: a copy that has come lands in a named core's buffer. -/
def execMcastLanding (die core line : Nat) (s : State) : Out :=
  let hit (l : Landing) : Bool := l.die = die && l.core = core && l.line = line && l.inflight.isSome && l.lost.isNone
  match s.landing.find? hit with
  | none => .next s
  | some l =>
    if !s.arrived (.line die core line) then .next s
    else .next { s with landing := putBy (fun y => y = l) { l with inflight := none, data := l.inflight } s.landing }

/-- MCAST_DROP_NOTICE: the lines of a dropped group are discarded at a core, and the MRX LOADs there that wait for them go
over to ordinary reads. -/
def execMcastDropNotice (die core line : Nat) (s : State) : Out :=
  let hit (l : Landing) : Bool := l.die = die && l.core = core && l.line = line && l.dropped
  let gone := s.landing.filter hit
  let waits (p : Place) (q : Port) (r : Running) : Bool :=
    r.cmd.op = 0x00 && r.cmd.f.mrx && p.die = die && p.portCore q.num = core &&
    gone.any (fun l => l.base = r.cmd.f.base.toNat && l.va < r.cmd.f.base.toNat + 64 * r.cmd.f.count.toNat)
  let fix (p : Place) : Place :=
    { p with ports := p.ports.map (fun q =>
      { q with running := q.running.map (fun r => if waits p q r then { r with fallback := true } else r)
               older := updBy (waits p q) (fun r => { r with fallback := true }) q.older }) }
  if gone.isEmpty then .next s
  else .next { s with landing := s.landing.filter (fun l => !hit l), places := s.places.map fix }

/-! ### Rates (R85) -/

/-- RATE_WINDOW: a window of the port begins, aligned to its length; a token admitted in its first cycle counts in it (R85). -/
def execRateWindow (place port : Nat) (s : State) : Out :=
  match (s.place? place).bind (fun p => p.port? port) with
  | none => .next s
  | some q =>
    if s.cycle % 2 ^ q.winlg = 0 && q.lastIn < s.cycle then .next (s.updPort place port (fun y => { y with used := 0 }))
    else .next s

/-- RGRATE as a place's ports hold it: the port named last; of a port the region does not declare, CNT 0 and WINLG 8 with
that number (R85; DESIGN CHOICE, assumption 137). -/
def rgrateOf (p : Place) : Word :=
  match p.port? p.rgport with
  | some q => BitVec.ofNat 64 (q.cnt * 2 ^ 48 + q.winlg * 2 ^ 44 + p.rgport)
  | none => BitVec.ofNat 64 (8 * 2 ^ 44 + p.rgport)

/-- RGRATE_WRITE: the rate of one port; a window below 2^6 is held at 2^6. What the present window has admitted still counts. -/
def writeRgrate (s : State) (place : Nat) (v : Word) : State :=
  let k := bitsOf v.toNat 0 6
  (s.updPlace place (fun p => { p with rgport := k })).updPort place k (fun q =>
    { q with cnt := bitsOf v.toNat 48 16, winlg := max 6 (bitsOf v.toNat 44 4) })

def execRgrateWrite (place : Nat) (v : Word) (s : State) : Out := .next (writeRgrate s place v)

/-! ### MEMORY_RESPONSE_ARRIVE (R314, R317) -/

/-- The store at position `i` of a thread's buffer may leave it: earlier stores to its bytes, through whatever page, are performed
before it (R237). -/
def bufferReady (t : Thread) (i : Nat) (e : StoreEnt) : Bool :=
  (t.stbuf.take i).all (fun x => x.xl.sram ≠ e.xl.sram || x.xl.pa + x.bytes.length ≤ e.xl.pa || e.xl.pa + e.bytes.length ≤ x.xl.pa)

/-- An imprecise error with its record (R314); of cancelled work a loss only counts and nothing is raised (R38, R48, R318). -/
def pushImp (s : State) (t : Thread) (code sub va : Nat) (n : NetInfo) : State :=
  if threadCancelled s t then (if code = 12 then countLoss s t else s) else
  let (s1, ev, nr) := scalarRecord s t (scalarInfo t code sub 0 va true n)
  s1.updThread t.id (fun u => { u with imp := u.imp ++ [{ code := code, sub := sub, recAddr := ev, norec := nr }] })

/-- What a lost message tells of the write it belongs to: a lost request leaves it undone, and with a lost answer it has been done;
a timer that has run out tells nothing, and it has been done or not as the report has it (R317). -/
def lostDone (cls : Nat) (timer performed : Bool) : Bool := if timer then performed else cls ≠ 0

/-- A report of a timer that has run out comes only when one of the thread has (R37). -/
def timerRan (s : State) (t : Thread) (timer : Bool) : Bool :=
  !timer || s.net.timers.any (fun x => x.who = .thread t.id && x.due ≤ s.cycle)

/-- The atomic, or the STL, at a thread's pc performed, its registers as before (R315, R317). Nothing where it still has to
wait. -/
def amoAlone (s : State) (t : Thread) (i : Instr) : Option State :=
  let s0 := { s with cur := t.id }
  let run : Out := match i with
    | .amoadd d a b sc w => execAmoadd d a b sc w s0
    | .amoswap d a b sc w => execAmoswap d a b sc w s0
    | .amocas d a b sc w => execAmocas d a b sc w s0
    | .amomin d a b sc u w => execAmomin d a b sc u w s0
    | .amomax d a b sc u w => execAmomax d a b sc u w s0
    | .amoand d a b sc w => execAmoand d a b sc w s0
    | .amoor d a b sc w => execAmoor d a b sc w s0
    | .amoxor d a b sc w => execAmoxor d a b sc w s0
    | .stl d a sc w => execStl d a sc w s0
    | _ => .next s0
  match run with
  | .next s1 =>
    if s1.thread? t.id |>.any (fun u => u.pc = t.pc + 4 && u.mode = t.mode) then
      some { s1.updThread t.id (fun u => { t with stbuf := u.stbuf, imp := u.imp }) with cur := s.cur }
    else none
  | _ => none

/-- MEMORY_RESPONSE_ARRIVE: an answer ends the wait of the access; a store is performed and leaves the buffer; an error of a
store becomes an imprecise trap, one of a load or an atomic a precise one, the atomic performed or not as told.
(DESIGN CHOICE, assumption 36.) -/
def execMemoryResponseArrive (tid : ThreadId) (r : MemReport) (s : State) : Out :=
  match s.thread? tid with
  | none => .next s
  | some t =>
    let out (st : State) (i : Nat) : State := st.updThread tid (fun u => { u with stbuf := u.stbuf.eraseIdx i })
    match r with
    | .value => .next (dropTimers s (.thread tid))
    | .stored i => match t.stbuf[i]? with
      | none => .next s
      | some e =>
        if !bufferReady t i e then .next s
        else match performStore s t e with
          | none => .next s
          | some (s1, errs) => .next ((out s1 i).updThread tid (fun u => { u with imp := u.imp ++ errs }))
    | .storeUncorrectable i => match t.stbuf[i]? with
      | none => .next s
      | some e => if bufferReady t i e then .next (pushImp (out s i) t 10 1 e.va .none) else .next s
    | .storeLost i performed msg cls bitmap timer => match t.stbuf[i]? with
      | none => .next s
      | some e =>
        if !bufferReady t i e || !timerRan s t timer then .next s
        else match if lostDone cls timer performed then (performStore s t e).map Prod.fst else some s with
          | none => .next s
          | some s1 => .next (pushImp (out s1 i) t 12 0 e.va { key := msg, cls := cls, bitmap := bitmap, timer := timer })
    | .uncorrectable => match (pcInstr s t).bind (pcAccess t) with
      | some (va, w) => if t.canIssue then .next (accessFault s t 10 1 0 va w) else .next s
      | none => .next s
    | .lost performed msg cls bitmap timer =>
      let n : NetInfo := { key := msg, cls := cls, bitmap := bitmap, timer := timer }
      if t.wait = .steal then .next (threadLoss s t 0 false n)
      else match pcInstr s t with
        | none => .next s
        | some i => match pcAccess t i with
          | none => .next s
          | some (va, w) =>
            if !t.canIssue || !timerRan s t timer then .next s
            else match if lostDone cls timer performed && w then amoAlone s t i else some s with
              | none => .next s
              | some s1 => match s1.thread? tid with
                | some u => .next (threadLoss (dropTimers s1 (.thread tid)) u va w n)
                | none => .next s1

end Sys2Proof.Machine
end

