-- ==== Sys2Proof/Machine/Calls.lean ====
section
/-! DEFINITION. Calls on the fabric (R130, R137-R139, R411-R413, R419, R420): guy lines, PITCH and PITCHG, ARGP, STRIKE,
and the return of an instance's footprint. -/

namespace Sys2Proof.Machine

/-! ### Guy lines (R137, R138) -/

def State.guyAt (s : State) (asid k : Nat) : GuyLine :=
  (s.guy.find? (fun g => g.asid = asid && g.route = k)).getD { asid := asid, route := k, next := 1, toks := [] }

/-- The tokens on a guy line, oldest first. -/
def guyLine (s : State) (asid k : Nat) : List Token := (s.guyAt asid k).toks

/-- What a guy line holds from now on. -/
def setGuy (s : State) (g : GuyLine) : State := { s with guy := putBy (fun x => x.asid = g.asid && x.route = g.route) g s.guy }

/-- A token enters a guy line from a port; it carries its route ID, and one for another core is a message (R138). -/
def guyPut (n : Node) (asid k : Nat) (s : State) (t : Token) : State :=
  let g := s.guyAt asid k
  let tok := { t with route := BitVec.ofNat 12 k }
  let a : Agent := .guy n asid k g.next
  sendToken (setGuy s { g with next := g.next + 1, toks := g.toks ++ [tok] }) a g.next (.token a) (tokBytes tok)

def guySend (s : State) (n : Node) (asid k : Nat) (l : List Token) : State := l.foldl (guyPut n asid k) s

/-- The token at the end of a guy line, once it and those sent before it have come (R47, R138). -/
def guyHead (s : State) (asid k : Nat) : Option Token :=
  let g := s.guyAt asid k
  let away := s.net.transit.any (fun x => match x.2 with
    | .token (.guy _ a r q) => a = asid && r = k && q + g.toks.length = g.next
    | _ => false)
  if away then none else g.toks.head?

/-- The token at the end of a guy line is taken. -/
def guyTake (s : State) (asid k : Nat) : State := let g := s.guyAt asid k; setGuy s { g with toks := g.toks.drop 1 }

/-- A token has entered or left an instance's footprint (R131). -/
def touchInst (s : State) (place : Nat) : State :=
  s.updPlace place (fun p => { p with inst := p.inst.map (fun i => { i with activeAt := s.cycle }) })

/-! ### Giving a footprint back (R128, R136, R137, R141, R420) -/

/-- A footprint of the die has been freed: waits at that die's queues start anew (R136). -/
def Partition.freed (p : Partition) (die now : Nat) : Partition :=
  { p with curq := p.curq.map (fun r => if r.core / 32 = die then { r with waitFrom := now } else r) }

/-- Guy-line route IDs return to the partition's pool: waits at every die's queues start anew (R136, R137). -/
def Partition.idsBack (p : Partition) (lines : List Nat) (now : Nat) : Partition :=
  if lines.isEmpty then p
  else { p with poolUsed := p.poolUsed.filter (fun k => !lines.contains k), curq := p.curq.map (fun r => { r with waitFrom := now }) }

/-- What is left of an instance struck while its stow copy runs: its footprint is held until the copy has completed, and belongs
to no launch and no call (R143). -/
def Place.ghost (p : Place) : Place :=
  { p with lslot := 65536, killed := true, ports := [], rb := none
           inst := p.inst.map (fun i => { i with args := [], results := [], buffered := [] }) }

/-- An instance is struck: its footprint is free once no stow copy of it runs, and warm for its routine; its route IDs are back in
the pool, its guy lines empty, its requests gone from the Curator. -/
def strikeInstance (s : State) (id : Nat) : State :=
  match s.place? id with
  | none => s
  | some p => match p.inst with
    | none => s
    | some i =>
      let lines := i.args ++ i.results
      let copying := i.st = .copying || i.st = .vacated
      let s0 := removePlace s id
      let s1 := if copying then { s0 with places := s0.places ++ [p.ghost] } else s0
      let s2 := { s1 with guy := s1.guy.filter (fun g => !(g.asid = p.asid && lines.contains g.route)) }
      let s3 := s2.updPart p.asid (fun q =>
        (((q.withdraw s.cycle (fun r => r.node.place = id || r.unstow = some id)).idsBack lines s.cycle).workDown p.scope) |> fun q => if copying then q else q.freed p.die s.cycle)
      match p.shape with
      | some f =>
        if copying || i.st = .stowed then s3
        else { s3 with warm := { asid := p.asid, die := p.die, gx := p.gx, gy := p.gy, folio := f } ::
                         s3.warm.filter (fun w => !w.meets p.die p) }
      | none => s3

/-- The last logical instance has been struck and its result lines have drained: the footprint is released. -/
def releaseDrained (s : State) (id : Nat) : State :=
  match s.place? id with
  | none => s
  | some p => match p.inst with
    | none => s
    | some i =>
      if i.struck && i.cur + 1 ≥ i.logical.length && i.results.all (fun k => (guyLine s p.asid k).isEmpty)
      then strikeInstance s id else s

/-! ### PITCH: its calls -/

def OpSt.pitch? : OpSt → PitchSt
  | .pitch p => p
  | _ => { toks := [], routine := 0, items := [], calls := [], next := 0 }

/-- The number of physical instances granted. -/
def Call.m (c : Call) : Nat := c.phys.length

def Call.granted (c : Call) : Bool := !c.phys.isEmpty

/-- The gang is folded (R130). -/
def Call.folded (c : Call) : Bool := c.m < c.k

def Call.callee (c : Call) (i : Nat) : Option Callee := c.phys[i % c.m]?

/-- The results of logical instance `i` have all returned. -/
def Call.answered (c : Call) (i : Nat) : Bool :=
  (c.res.filter (fun r => c.nres * i ≤ r.1 && r.1 < c.nres * (i + 1))).length ≥ c.nres

/-- Logical instances whose lines are to be opened now: dealt to a footprint whose earlier ones are closed (R419). -/
def Call.opens (c : Call) : List Nat :=
  (List.range c.k).filter (fun i => c.granted && !c.struck && !c.opened.contains i && (i < c.m || c.closed.contains (i - c.m)))

/-- Logical instances whose lines are to be closed now: of a folded gang once its own results are back, else once all
of the call's are (R411, R419). -/
def Call.closes (c : Call) : List Nat :=
  c.opened.filter (fun i => !c.closed.contains i &&
    (if c.folded then c.answered i else (List.range c.k).all c.answered))

/-- Nothing more of the call can come. -/
def Call.over (c : Call) : Bool :=
  c.struck && c.sent ≥ c.nres * c.k ||
  c.granted && c.closed.length ≥ c.k && c.sent ≥ c.nres * c.k &&
    ((List.range c.m).zip c.phys).all (fun x => x.2.results.all (fun l =>
      (x.2.ended.filter (fun e => e = l)).length ≥ (c.k - x.1 + c.m - 1) / c.m))

def PitchSt.call? (p : PitchSt) (num : Nat) : Option Call := p.calls.find? (fun c => c.num = num)

def PitchSt.upd (p : PitchSt) (num : Nat) (f : Call → Call) : PitchSt :=
  { p with calls := updBy (fun c => c.num = num) f p.calls }

/-- Calls that are over leave once nothing of theirs is owed to the output. -/
def PitchSt.tidy (p : PitchSt) : PitchSt :=
  { p with calls := p.calls.filter (fun c => !c.over || p.items.contains (.call c.num)) }

def State.updPitch (s : State) (n : Node) (f : PitchSt → PitchSt) : State :=
  s.updSite n (fun x => { x with st := .pitch ((f x.st.pitch?).tidy) })

/-- The waves of the segment that have passed a node: the number after the last MARK it has saved at (R139, R250). -/
def marksPast (p : Place) (x : Site) : Nat :=
  let base := match p.inst with | some i => i.wave | none => 0
  (x.snaps.filter (fun k => k.wave < waveStart)).foldl (fun a k => max a (k.wave + 1)) base

/-- The argument lines of a logical instance carry SOT, the HDR in force on a, and its arguments (R411). -/
def openLines (s : State) (n : Node) (asid wave : Nat) (c : Call) (i : Nat) : State :=
  match c.callee i with
  | none => s
  | some e =>
    let hdr := c.hdr.toList
    let sot := plainTok .sot (match c.hdr with | some h => hdrField h 160 32 | none => 0)
    let s1 := s.updPlace e.place (fun p => { p with inst := p.inst.map (fun y => { y with wave := wave }) })
    let s2 := match s1.place? e.place with
      | some p => s1.updRb p (fun b => { b with passed := b.passed.filter (fun x => x.1.place ≠ e.place) })
      | none => s1
    ((List.range c.narg).zip e.args).foldl (fun st a =>
      guySend st n asid a.2 (sot :: hdr ++ (c.toks.drop (c.narg * i + a.1)).take 1)) s2

/-- Opens what is to be opened. (DESIGN CHOICE, assumption 86.) -/
def pitchOpen (c : Ctx) (p : PitchSt) : Option State :=
  match p.calls.findSome? (fun k => k.opens.head?.map (fun i => (k, i))) with
  | none => none
  | some (k, i) =>
    let s1 := openLines c.s c.x.node c.place.asid (marksPast c.place c.x) k i
    some ((touchInst s1 c.place.id).updPitch c.x.node (fun q => q.upd k.num (fun y => { y with opened := y.opened ++ [i] })))

/-- Sends EOT on the lines that are to be closed. -/
def pitchClose (c : Ctx) (p : PitchSt) : Option State :=
  match p.calls.findSome? (fun k => if k.struck then none else k.closes.head?.map (fun i => (k, i))) with
  | none => none
  | some (k, i) =>
    let lines := match k.callee i with | some e => e.args | none => []
    let s1 := lines.foldl (fun st l => guySend st c.x.node c.place.asid l [plainTok .eot 0]) c.s
    some ((touchInst s1 c.place.id).updPitch c.x.node (fun q => q.upd k.num (fun y => { y with closed := y.closed ++ [i] })))

/-! ### PITCH: results -/

/-- A result line of a call: the physical instance's position, the result's number and the line. -/
structure ResLine where
  call : Nat
  phys : Nat
  j : Nat
  line : Nat
  place : Nat

def PitchSt.lines (p : PitchSt) : List ResLine :=
  p.calls.flatMap (fun c => ((List.range c.m).zip c.phys).flatMap (fun x =>
    ((List.range x.2.results.length).zip x.2.results).map (fun r =>
      { call := c.num, phys := x.1, j := r.1, line := r.2, place := x.2.place })))

/-- Takes away a line a MARK is awaited on, from the first that waits for it. -/
def awaitLess (line : Nat) : List PItem → List PItem
  | [] => []
  | .frame t l :: r => if l.contains line then .frame t (l.filter (fun k => k ≠ line)) :: r else .frame t l :: awaitLess line r
  | .call n :: r => .call n :: awaitLess line r

/-- What a result token does to the calls of a PITCH. -/
def PitchSt.take (p : PitchSt) (r : ResLine) (t : Token) : PitchSt :=
  match t.kind with
  | .mark => { p with items := awaitLess r.line p.items }
  | .eot => p.upd r.call (fun c => { c with phys := c.phys.modify r.phys (fun e => { e with ended := e.ended ++ [r.line] }) })
  | .data => p.upd r.call (fun c =>
      let seg := match c.phys[r.phys]? with | some e => (e.ended.filter (fun k => k = r.line)).length | none => 0
      let key := c.nres * (r.phys + seg * c.m) + r.j
      let t1 := if c.toks.any (fun y => y.void) then { voidTok .data t.last with route := 0 } else { t with route := 0 }
      { c with res := c.res ++ [(key, t1)] })
  | _ => p

/-- A guy-line token as the node that takes it finds it: another route ID is a ROUTE fault, and its CHECK and residues
are checked (R138, R148, R200). -/
def takeGuy (s : State) (p : Place) (n : Node) (line : Nat) (t : Token) : State × Token :=
  if t.route ≠ BitVec.ofNat 12 line then (errorFault s p n 1 (sideLow s t), voidTok t.kind t.last)
  else inspect s p n t true

/-- Takes one token from a result line, tokens of the stow record first (R133). -/
def pitchReceive (c : Ctx) (p : PitchSt) : Option State :=
  let asid := c.place.asid
  let held := match c.place.inst with | some i => i.buffered | none => []
  let ls := p.lines
  let fromStow := held.findSome? (fun h => (ls.find? (fun r => r.line = h.1)).map (fun r => (r, h.2)))
  let fromLine := ls.findSome? (fun r => (guyHead c.s asid r.line).map (fun t => (r, t)))
  match (match fromStow with | some x => some (x, true) | none => fromLine.map (fun x => (x, false))) with
  | none => none
  | some ((r, t), stow) =>
    let s1 := if stow then
        c.s.updPlace c.place.id (fun q => { q with inst := q.inst.map (fun i => { i with buffered := dropFirst (fun h => h.1 = r.line) i.buffered }) })
      else guyTake c.s asid r.line
    let (s2, t1) := takeGuy s1 c.place c.x.node r.line t
    let s3 := (touchInst s2 c.place.id).updPitch c.x.node (fun q => q.take r t1)
    some (releaseDrained s3 r.place)

/-- Sends the next token the output is owed: a framing token, or a result of the call at the front (R411, R413). -/
def pitchEmit (c : Ctx) (p : PitchSt) : Option State :=
  let send (t : Option Token) (f : PitchSt → PitchSt) : State :=
    (c.s.updSite c.x.node (fun x => { x with out := x.out ++ c.emit (t.toList.map (fun u => (0, u))), lastActive := c.s.cycle })).updPitch c.x.node f
  let pop (q : PitchSt) : PitchSt := { q with items := q.items.drop 1 }
  match p.items with
  | [] => none
  | .frame t l :: _ => if l.isEmpty && c.room then some (send (some t) pop) else none
  | .call n :: _ =>
    match p.call? n with
    | none => some (send none pop)
    | some k =>
      if k.sent ≥ k.nres * k.k then some (send none pop)
      else if !c.room then none
      else
        let next := if k.struck then some (voidTok .data false) else (k.res.find? (fun r => r.1 = k.sent)).map (fun r => r.2)
        next.map (fun t => send (some t) (fun q => q.upd n (fun y => { y with sent := y.sent + 1 })))

/-! ### PITCH: its input -/

/-- NARG and NRES of a routine (R119). (DEDUCED, assumption 90.) -/
def routineHead (s : State) (asid routine : Nat) : Option (Nat × Nat) :=
  match partOf s asid with
  | none => none
  | some p => if routine < p.catcount then some (p.heads.getD routine (0, 0)) else none

/-- With no thread in a census wait and no pitch queued the count of census silence does not run; it starts with the first
(R102). -/
def firstWaiter (s : State) (asid : Nat) : State :=
  let waits (t : Thread) : Bool := t.asid = asid && t.run = .running &&
    (match t.wait with | .ring _ _ _ | .barrier _ | .launch _ | .ticket _ => true | _ => false)
  let queued := match partOf s asid with | some p => p.curq.any (fun r => r.unstow.isNone) | none => false
  if s.threads.any waits || queued then s else stir s asid

/-- A complete record becomes a call, and its request joins the queue of its core (R127, R128, R411). -/
def newCall (s : State) (c : Ctx) (routine narg nres k : Nat) (toks : List Token) : State :=
  let n := c.x.node
  let num := (c.x.st.pitch?).next
  let req : PitchReq :=
    { core := 32 * c.place.die + c.place.coreAt n, node := n, call := num, routine := routine, k := k, scope := c.place.scope
      unstow := none, stowing := none, freed := [], kept := [], frozen := 0, waitFrom := s.cycle }
  let call : Call :=
    { num := num, routine := routine, k := k, narg := narg, nres := nres, toks := toks, hdr := c.hdr 0, phys := [], opened := []
      closed := [], res := [], sent := 0, struck := false }
  (((firstWaiter s c.place.asid).updPitch n (fun q =>
      { q with toks := [], items := q.items ++ [.call num], calls := q.calls ++ [call], next := num + 1 })).updPart c.place.asid
    (fun p => { p with curq := p.curq ++ [req] }))

/-- The token at a, with the routine number at b where the call's first token needs one. -/
def pitchData (c : Ctx) (p : PitchSt) (k : Nat) (dyn : Bool) (t : Token) : Option State :=
  if !c.x.segOpen then some (c.fail 4)
  else if (c.hdr 0).isNone then some (c.fail 5)
  else
    let first := p.toks.isEmpty
    let routine := if !dyn then c.imm % 256 else if first then (match c.head 1 with | some b => b.lane 0 | none => 0) else p.routine
    match routineHead c.s c.place.asid routine with
    | none => some (freezeRecord (c.s.updSite c.x.node (fun x => { x with frozen := true })) c.place.asid
                { nodeLate c.place c.x.node (.node c.x.node) 13 4 with elem := routine, cnt := [k] })
    | some (narg, nres) =>
      let toks := p.toks ++ [t]
      let eat := if dyn && first then [0, 1] else [0]
      let s1 := (c.s.updSite c.x.node (fun x => { x.eat eat with lastActive := c.s.cycle })).updPitch c.x.node
        (fun q => { q with toks := toks, routine := routine })
      if toks.length < max 1 (narg * k) then some s1
      else if p.calls.any (fun y => !y.granted && !y.struck) then none
      else some (newCall s1 c routine narg nres k toks)

/-- The lines a MARK goes out on, and the ones it is awaited on: those of the open argument lines' instances. -/
def PitchSt.markLines (p : PitchSt) : List (List Nat × List Nat) :=
  p.calls.flatMap (fun c => (c.opened.filter (fun i => !c.closed.contains i && c.narg > 0)).filterMap (fun i =>
    (c.callee i).map (fun e => (e.args, e.results))))

/-- A call as it stands once a MARK has come back through its instances: every result of it has been sent on before (R139,
R250). -/
def Call.atMark (c : Call) : Call := { c with res := [], sent := c.nres * c.k }

/-- A framing token at a (R157-R159, R411, R413, R414). -/
def pitchFrame (c : Ctx) (p : PitchSt) (dyn : Bool) (t : Token) : Option State :=
  let eat := if dyn then [0, 1] else [0]
  let take (s : State) (lines : List Nat) (f : Site → Site) : State :=
    (s.updSite c.x.node (fun x => f { x.eat eat with lastActive := s.cycle })).updPitch c.x.node
      (fun q => { q with items := q.items ++ [.frame t lines] })
  match t.kind with
  | .sot =>
    some (if c.x.segOpen then c.fail 4 else take c.s [] (fun x => { x with segOpen := true, hdrs := [none, none, none], beats := 0 }))
  | .hdr =>
    some (if !c.x.segOpen then c.fail 4
      else if !hdrOk t || (dyn && (match c.head 1 with | some b => !hdrOk b | none => false)) then c.fail 5
      else take c.s [] (fun x => { x with hdrs := [some t, none, none], beats := 0 }))
  | .eot =>
    some (if !c.x.segOpen then c.fail 4
      else if (c.hdr 0).isNone then c.fail 5
      else if !p.toks.isEmpty then c.fail 4
      else gatherFlags (take c.s [] (fun x => { x with segOpen := false, hdrs := [none, none, none], flags := 0 })) c.place c.segno c.x.flags)
  | _ =>
    if !c.x.segOpen then some (c.fail 4)
    else if p.calls.any (fun y => !y.struck && y.opened.length < y.k) then none
    else
      let ls := p.markLines
      let s1 := (ls.flatMap (fun l => l.1)).foldl (fun st l => guySend st c.x.node c.place.asid l [t]) c.s
      some (take s1 (ls.flatMap (fun l => l.2)) (fun x =>
        { ({ x with st := .pitch { p with items := [], calls := p.calls.map Call.atMark } }.snap (t.pay.toNat % 2 ^ 32)) with st := x.st }))

/-- KILL empties a PITCH; its calls are struck (R386). -/
def pitchKill (c : Ctx) (ins : List Nat) : State :=
  let waiting := ins.filter (fun i => match c.head i with | some t => t.kind ≠ .kill | none => true)
  if !waiting.isEmpty then c.s.updSite c.x.node (fun x => x.eat waiting)
  else
    let p := c.x.st.pitch?
    let s1 := (p.calls.flatMap (fun k => k.phys.map (fun e => e.place))).foldl strikeInstance c.s
    let s2 := s1.updPart c.place.asid (fun q => q.withdraw c.s.cycle (fun r => r.node = c.x.node))
    s2.updSite c.x.node (fun x => { x.eat ins with
      out := c.emit [(0, plainTok .kill 0)], flags := 0, hdrs := [none, none, none], segOpen := false, lastActive := c.s.cycle
      st := .pitch { toks := [], routine := 0, items := [], calls := [], next := p.next } })

/-- One step of PITCH or PITCHG: `k` instances a call. (DESIGN CHOICE, assumption 85.) -/
def pitchStep (c0 : Ctx) (k : Nat) : State :=
  let dyn := bitsOf c0.imm 15 1 = 1
  let ins := if dyn then [0, 1] else [0]
  let c := checkHeads c0 ins
  let p := c.x.st.pitch?
  let input : Option State :=
    match c.head 0 with
    | none => none
    | some t =>
      let needB := dyn && (t.kind.framing || p.toks.isEmpty)
      if !t.kind.framing && t.kind ≠ .data then some (c.fail 3)
      else match (if needB then c.head 1 else some t) with
        | none => none
        | some b =>
          if !b.kind.framing && b.kind ≠ .data then some (c.fail 3)
          else if b.kind ≠ t.kind then some (c.fail 4)
          else if t.kind.framing then (if c.short 0 then some (c.fail 5) else pitchFrame c p dyn t)
          else pitchData c p k dyn t
  if rollDue c.s c.place then c.s
  else if ins.any (fun i => match c.head i with | some t => t.kind = .kill | none => false) then pitchKill c ins
  else match [pitchOpen c p, pitchClose c p, pitchReceive c p, pitchEmit c p, input].findSome? (fun x => x) with
    | some s => s
    | none => c.s

/-- A token has come to the end of a result line of the node's. -/
def lineWaits (s : State) (n : Node) : Bool :=
  match s.place? n.place, s.site? n with
  | some p, some x => match x.st with
    | .pitch q => q.lines.any (fun r => (guyHead s p.asid r.line).isSome)
    | _ => false
  | _, _ => false

/-- PITCH: one instance a call (R411). -/
def execCellPitch (n : Node) (w : CellF) (s : State) : Out :=
  match siteCtx s n 0x60 w with
  | some c => .next (pitchStep c 1)
  | none => .next (nudge s n (lineWaits s n))

/-- PITCHG: a gang of IMM[10:8] instances a call (R411). -/
def execCellPitchg (n : Node) (w : CellF) (s : State) : Out :=
  match siteCtx s n 0x61 w with
  | some c => .next (pitchStep c (bitsOf c.imm 8 3))
  | none => .next (nudge s n (lineWaits s n))

/-! ### ARGP and STRIKE (R412) -/

/-- ARGP sends the tokens of its argument line on; after its EOT it takes none until the footprint is configured
anew. -/
def argpStep (c : Ctx) (line : Nat) : State :=
  match guyHead c.s c.place.asid line with
  | none => c.s
  | some t0 =>
    let s1 := guyTake c.s c.place.asid line
    let (s2, t) := takeGuy s1 c.place c.x.node line t0
    if rollDue s2 c.place then s2
    else if t.kind ≠ .data && !t.kind.framing then c.fail 3
    else
      let s3 := (touchInst s2 c.place.id).updSite c.x.node (fun x =>
        let y := { x with out := x.out ++ c.emit [(0, { t with route := 0 })], lastActive := s2.cycle, st := .line (t.kind = .eot) }
        match t.kind with
        | .sot => { y with segOpen := true, hdrs := [none, none, none] }
        | .hdr => { y with hdrs := [some t, none, none] }
        | .eot => { y with segOpen := false, hdrs := [none, none, none] }
        | .mark => y.snap (t.pay.toNat % 2 ^ 32)
        | _ => y)
      s3

/-- A token has come to the end of the node's argument line. -/
def argWaits (s : State) (n : Node) (w : CellF) : Bool :=
  match s.place? n.place with
  | some p => match p.inst.bind (fun i => i.args[w.imm.toNat % 8]?) with
    | some line => (guyHead s p.asid line).isSome
    | none => false
  | none => false

/-- ARGP. -/
def execCellArgp (n : Node) (w : CellF) (s : State) : Out :=
  match siteCtx s n 0x62 w with
  | none => .next (nudge s n (argWaits s n w))
  | some c =>
    match c.place.inst with
    | none => .next s
    | some i =>
      match c.x.st, i.args[c.imm % 8]? with
      | .line false, some line => if c.room && !i.struck then .next (argpStep c line) else .next s
      | _, _ => .next s

/-- A result line leads to an instance whose stow record is full: the sending STRIKE is held (R133). -/
def recordFull (s : State) (asid k : Nat) : Bool :=
  match guySink s asid k with
  | some (p, _) => match p.inst with
    | some i => (i.st = .copying || i.st = .vacated || i.st = .stowed) && i.buffered.length + (guyLine s asid k).length ≥ 4096
    | none => false
  | none => false

/-- One step of STRIKE: result j goes out on result line j behind SOT and the HDR in force, MARK and EOT on every result
line; the EOT ends the logical instance. (DEDUCED, assumption 87.) -/
def strikeStep (c0 : Ctx) (i : Inst) : State :=
  let c := checkHeads c0 [0]
  let k := match c.x.st with | .strike k => k | _ => 0
  let asid := c.place.asid
  let all (s : State) (t : Token) : State := i.results.foldl (fun st l => guySend st c.x.node asid l [t]) s
  let eat (s : State) (st : Nat) (f : Site → Site) : State :=
    (touchInst s c.place.id).updSite c.x.node (fun x => f { x.eat [0] with st := .strike st, lastActive := s.cycle })
  match c.head 0 with
  | none => c.s
  | some t =>
    if rollDue c.s c.place then c.s
    else if c.short 0 then c.fail 5
    else match t.kind with
      | .kill => eat c.s 0 (fun x => { x with flags := 0, hdrs := [none, none, none], segOpen := false })
      | .sot => if c.x.segOpen then c.fail 4 else eat c.s 0 (fun x => { x with segOpen := true, hdrs := [none, none, none], beats := 0 })
      | .hdr =>
        if !c.x.segOpen then c.fail 4
        else if !hdrOk t then c.fail 5
        else eat c.s k (fun x => { x with hdrs := [some t, none, none], beats := 0 })
      | .mark =>
        if !c.x.segOpen then c.fail 4
        else passMark (eat (all c.s t) k (fun x => x.snap (t.pay.toNat % 2 ^ 32))) c.place c.x.node t
      | .data =>
        if !c.x.segOpen then c.fail 4
        else match c.hdr 0 with
          | none => c.fail 5
          | some h => match i.results[k]? with
            | none => c.fail 4
            | some l => eat (guySend c.s c.x.node asid l [plainTok .sot (hdrField h 160 32), h, t]) (k + 1) (fun x => x)
      | .eot =>
        if !c.x.segOpen then c.fail 4
        else if (c.hdr 0).isNone then c.fail 5
        else if k < i.results.length then c.fail 4
        else
          let s1 := eat (all c.s t) 0 (fun x => { x with segOpen := false, hdrs := [none, none, none], flags := 0 })
          let s2 := gatherFlags (passMark s1 c.place c.x.node t) c.place c.segno c.x.flags
          let s3 := s2.updPlace c.place.id (fun p => { p with inst := p.inst.map (fun y => { y with struck := true }) })
          releaseDrained s3 c.place.id
      | _ => c.fail 3

/-- STRIKE. -/
def execCellStrike (n : Node) (w : CellF) (s : State) : Out :=
  match siteCtx s n 0x63 w with
  | none => .next (nudge s n false)
  | some c => match c.place.inst with
    | none => .next s
    | some i => .next (if i.struck || i.results.any (recordFull s c.place.asid) then s else strikeStep c i)

end Sys2Proof.Machine
end

