-- ==== Sys2Proof/Machine/Curator.lean ====
section
/-! DEFINITION. The Curator (R120-R143): catalogue loads and caches, the spiral search, granting, folding, stowing and
queueing of pitches, unstowing, standby, and the census record of a stall (R103, R136). -/

namespace Sys2Proof.Machine

/-! ### Census records (R103, R136, R342) -/

/-- A waiter's 16 bytes: die, core, thread, kind, object. -/
def censusEntry (die core thread kind object : Nat) : List Byte :=
  natBytes 1 die ++ natBytes 1 core ++ natBytes 1 thread ++ natBytes 1 kind ++ natBytes 4 0 ++ natBytes 8 object

/-- A thread in a census wait. (DESIGN CHOICE, assumption 15.) -/
def threadCensus (t : Thread) : Option (List Byte) :=
  let e (kind object : Nat) := some (censusEntry t.id.dieCode t.id.coreNo t.id.thrNo kind object)
  match t.wait with
  | .ring block claims _ => e (if claims then 0 else 1) block
  | .barrier b => e 2 b
  | .launch lid => e 3 lid
  | .ticket k => e 4 k
  | _ => none

/-- A queued pitch. -/
def pitchCensus (r : PitchReq) : List Byte := censusEntry (r.core / 32) (r.core % 32) 255 5 r.routine

/-- The pitches queued in a partition. -/
def Partition.pitches (p : Partition) : List PitchReq := p.curq.filter (fun r => r.unstow.isNone && r.frozen = 0)

/-- Writes 64 bytes at a time up to the first fault; what follows it is lost. (DESIGN CHOICE, assumption 89.) -/
def censusPut : Nat → State → Nat → Nat → List Byte → State × Bool
  | 0, s, _, _, _ => (s, true)
  | k + 1, s, asid, va, bs =>
    if bs.isEmpty then (s, true)
    else match recPut s asid va (bs.take 64) with
      | some s1 => censusPut k s1 asid (va + 64) (bs.drop 64)
      | none => (s, false)

/-- Posts a trap with its census record to the partition's supervisor. -/
def censusTrap (s : State) (asid code : Nat) (es : List (List Byte)) : State :=
  match partOf s asid with
  | none => s
  | some p =>
    let base := bitsOf p.census.toNat 12 36 * 4096
    let room := (2 ^ (bitsOf p.census.toNat 0 4 + 12) - 64) / 16
    let head := natBytes 4 0x57414954 ++ natBytes 2 asid ++ natBytes 2 es.length ++ natBytes 8 s.cycle ++ natBytes 48 0
    let bytes := head ++ (es.take room).flatten
    let (s1, ok) := if base = 0 then (s, false) else censusPut (bytes.length / 64 + 1) s asid base bytes
    postSupervisor s1 asid code (BitVec.ofNat 64 base) (!ok)

/-! ### Loading a catalogue (R54, R121, R122) -/

/-- The bytes a catalogue's digest is taken over: its table, then every image it names. -/
def catalogueBytes (s : State) (p : Partition) : List Byte :=
  ((List.range p.catcount).flatMap (fun i => (hwGet s p.asid (p.catbase + 16 * i) 16).getD [])) ++
  ((List.range p.catcount).flatMap (fun i => (readImage s p i).getD []))

/-- NARG and NRES of a routine by its image's header. -/
def headOf (s : State) (p : Partition) (i : Nat) : Nat × Nat :=
  match (hwGet s p.asid (p.catbase + 16 * i) 16).bind (fun e => hwGet s p.asid (bytesNat (e.take 8)) 64) with
  | some b => let h := folioHead b; (h.narg, h.nres)
  | none => (0, 0)

/-- A partition with its catalogue loaded: digest replaced, caches empty (R121). One of no routine at all is loaded too, and its
digest is that of no bytes (DESIGN CHOICE, assumption 134). -/
def Partition.withCatalogue (s : State) (p : Partition) (base count : Nat) : Partition :=
  let p1 := { p with catbase := base, catcount := count }
  { p1 with heads := (List.range count).map (headOf s p1), digest := some (sha256 (catalogueBytes s p1)), cache := [] }

/-- CATCTL with RESULT, INDEX and BUSY. -/
def catctlWord (w : Word) (result index busy : Nat) : Word :=
  let n := w.toNat
  BitVec.ofNat 64 (bitsOf n 48 16 * 2 ^ 48 + bitsOf n 32 9 * 2 ^ 32 + index % 256 * 2 ^ 24 + result % 16 * 16 + bitsOf n 1 1 * 2 + busy)

/-- A write to CATCTL: ERR clears, a write while BUSY sets ERR, another starts a load. An ASID that names no partition is NOASID, whatever
COUNT says: the spec gives no order of the two (DESIGN CHOICE, assumption 154). -/
def writeCatctl (s : State) (v : Word) : State :=
  let c := s.pkg.catctl
  if bitsOf v.toNat 1 1 = 1 then s.updPkg (fun k => { k with catctl := BitVec.ofNat 64 (c.toNat - bitsOf c.toNat 1 1 * 2) })
  else if bitsOf c.toNat 0 1 = 1 then s.updPkg (fun k => { k with catctl := c ||| 2#64 })
  else
    let asid := bitsOf v.toNat 48 16
    let count := bitsOf v.toNat 32 9
    let w := BitVec.ofNat 64 (asid * 2 ^ 48 + count * 2 ^ 32 + bitsOf c.toNat 1 1 * 2)
    if (partOf s asid).isNone then s.updPkg (fun k => { k with catctl := catctlWord w 4 0 0 })
    else if count > 256 then s.updPkg (fun k => { k with catctl := catctlWord w 5 0 0 })
    else
      let base := bitsOf s.pkg.catbase2.toNat 6 42 * 64
      (s.updPkg (fun k => { k with catctl := catctlWord w 0 0 1, catJob := some (asid, base, count) })).updPart asid
        (fun p => { p with loading := true })

/-- CATCTL_LOAD. -/
def execCatctlLoad (v : Word) (s : State) : Out := .next (writeCatctl s (v &&& ~~~(2#64)))

/-- CATCTL_ERR_CLEAR. -/
def execCatctlErrClear (s : State) : Out := .next (writeCatctl s 2)

/-- CATALOGUE_LOAD_DONE: on success the catalogue is the new one and warm footprints are cold; otherwise nothing changes
but RESULT and INDEX. -/
def execCatalogueLoadDone (s : State) : Out :=
  match s.pkg.catJob with
  | none => .next s
  | some (asid, base, count) =>
    let s1 := (s.updPkg (fun k => { k with catJob := none })).updPart asid (fun p => { p with loading := false })
    match catCheck s1 asid base count 0 with
    | some (result, index) => .next (s1.updPkg (fun k => { k with catctl := catctlWord k.catctl result index 0 }))
    | none =>
      let s2 := s1.updPkg (fun k => { k with catctl := catctlWord k.catctl 0 0 0 })
      .next ({ s2 with warm := s2.warm.filter (fun w => w.asid ≠ asid) }.updPart asid (fun p => p.withCatalogue s1 base count))

/-! ### Queues (R128, R135, R136) -/

/-- The queue served next: the lowest nonempty one behind the one served last, else the lowest. -/
def Partition.nextQueue (p : Partition) : Option Nat :=
  let busy := (List.range 256).filter (fun c => !(p.queueOf c).isEmpty)
  match busy.find? (fun c => c > p.rrCore) with
  | some c => some c
  | none => busy.head?

/-- Two entries stand for one request: the same call or unstow of the same PITCH. -/
def PitchReq.same (a b : PitchReq) : Bool := a.node = b.node && a.call = b.call && a.unstow = b.unstow

/-- A request leaves its queue; the wait of the new head starts. -/
def Partition.leave (p : Partition) (r : PitchReq) (now : Nat) : Partition :=
  Partition.newHeads p { p with curq := dropFirst r.same p.curq } now

/-- An instance's copy has completed: it is out of the fabric, and its tiles stay for later work (R131, R142); of one that has been
struck nothing stays (R143). -/
def stowAway (s : State) (id : Nat) : State :=
  match s.place? id with
  | none => s
  | some p =>
    if p.killed then (removePlace s id).updPart p.asid (fun q => q.freed p.die s.cycle)
    else ((keepLeft s p).updPlace id (fun x => { x with inst := x.inst.map (fun i => { i with st := .stowed }) })).updPart p.asid
      (fun q => q.freed p.die s.cycle)

/-- An unstow request for a stowed instance joins its core's queue ahead of pitches (R133), behind the unstow requests that stand there
already (DESIGN CHOICE, assumption 152). -/
def askUnstow (s : State) (id : Nat) : State :=
  match s.place? id with
  | none => s
  | some p => match p.inst with
    | none => s
    | some i =>
      let core := 32 * p.die + p.core
      let r : PitchReq :=
        { core := core, node := i.caller, call := i.call, routine := 0, k := 1, scope := p.scope, unstow := some id, stowing := none, freed := [], kept := []
          frozen := 0, waitFrom := s.cycle }
      s.updPart p.asid (fun q =>
        if q.curq.any (fun x => x.unstow = some id) then q
        else
          let mine := q.curq.filter (fun x => x.core = core && x.unstow.isSome)
          { q with curq := mine ++ r :: q.curq.filter (fun x => !(x.core = core && x.unstow.isSome)) })

/-- The instances of some victims leave the fabric; those that results wait for ask for their unstow. -/
def vacate (s : State) (vs : List Place) : State :=
  let s1 := (vs.map (fun x => x.id)).foldl stowAway s
  (vs.filter (fun x => match x.inst with | some i => !i.buffered.isEmpty | none => false)).foldl (fun st x => askUnstow st x.id) s1

/-- A fault of a request at its PITCH: it stands in no queue until its record is resumed (R123, R124, R135, R432). The record
names the routine, k, the call-site granule and the footprint-relative site of the first bad word, in ELEM and CNT0-CNT3
(DESIGN CHOICE, assumption 140). Victims whose copies have completed for it are stowed; the image of a FOLIO_INVALID leaves the
cache, and is fetched again on resume. -/
def pitchFault (s : State) (asid : Nat) (r : PitchReq) (code : Nat) (bad : Nat × Nat) : State :=
  let done := (s.places.filter (fun x => (r.stowing.getD []).contains x.id && (match x.inst with | some i => i.st = .vacated | none => false)))
  let s0 := vacate s done
  let s1 := s0.updPart asid (fun p =>
    let q := p.leave r s.cycle
    { q with curq := q.curq ++ [{ r with frozen := 1, stowing := none, freed := [], kept := [] }]
             cache := if code = 13 then q.cache.filter (fun e => !(32 * e.die + e.core = r.core && e.routine = r.routine)) else q.cache })
  match s1.place? r.node.place with
  | some p =>
    if placeDead s1 p then s1
    else
      let here := p.at_ r.node.x r.node.y
      freezeRecord s1 asid { nodeLate p r.node (.pitch r.node) code 4 with
        elem := r.routine, cnt := [r.k, here.1 / 4 + 256 * (here.2 / 4), bad.1, bad.2] }
  | none => s1

/-- A launch whose folio is found invalid as it is loaded ends FAULTED and tainted before its thread runs; its record shows the
home core and the first bad site (R74, R123). -/
def launchInvalid (s : State) (asid slot : Nat) (bad : Nat × Nat) : State :=
  let home := match partOf s asid with | some p => [p.homedie, p.homecore] | none => []
  completeEntry 4097 (s.updTask asid slot (fun e =>
    { e with status := 1, verdict := 2, nfault := 1, fcode := 13, fwhere := home ++ [bad.1, bad.2] })) asid slot

/-! ### The spiral search (R125-R127) -/

/-- Ring `d` of the spiral: east side, south side, west side, north side. -/
def ring (d : Nat) : List (Int × Int) :=
  let l := List.range (2 * d)
  let e : Int := d
  l.map (fun (i : Nat) => (e, 1 - e + i)) ++ l.map (fun (i : Nat) => (e - 1 - i, e)) ++ l.map (fun (i : Nat) => (-e, e - 1 - i)) ++
    l.map (fun (i : Nat) => (1 - e + i, -e))

/-- The 64 candidates' offsets. -/
def spiral : List (Int × Int) := ((0, 0) :: (ring 1 ++ ring 2 ++ ring 3 ++ ring 4)).take 64

/-- Candidate origins around a granule, those off the die left out. -/
def candidates (gx gy : Nat) : List (Nat × Nat) :=
  spiral.filterMap (fun d =>
    let x := (gx : Int) + d.1
    let y := (gy : Int) + d.2
    if 0 ≤ x ∧ 0 ≤ y then some (x.toNat, y.toNat) else none)

/-- Occupied-or-fused bits of a granule, some places left out. -/
def takenBits (s : State) (die gx gy : Nat) (ignore : List Nat) : BitVec 16 :=
  occupied { s with places := s.places.filter (fun p => !ignore.contains p.id) } die gx gy ||| fusedBits s die gx gy

/-- Two footprints of one folio share a site. -/
def overlaps (f : Folio) (a b : Nat × Nat) : Bool :=
  (f.granules a.1 a.2).any (fun g => (f.granules b.1 b.2).any (fun h => g.1 = h.1 && g.2.1 = h.2.1 && (g.2.2 &&& h.2.2) ≠ 0))

/-- An origin passes for a routine, as if some places had left, on a die that is usable (R17, R125). -/
def passes (s : State) (p : Partition) (die : Nat) (f : Folio) (ignore : List Nat) (o : Nat × Nat) : Bool :=
  s.dieUsable die && fits p die o.1 o.2 f && (f.granules o.1 o.2).all (fun g => (g.2.2 &&& takenBits s die g.1 g.2.1 ignore) = 0)

/-- Takes passing origins in order, none overlapping another, `n` at most. -/
def pick (ok : Nat × Nat → Bool) (f : Folio) : Nat → List (Nat × Nat) → List (Nat × Nat) → List (Nat × Nat)
  | _, got, [] => got
  | n, got, o :: l =>
    if got.length < n && ok o && !got.any (overlaps f o) then pick ok f n (got ++ [o]) l else pick ok f n got l

/-- Origins with the warm footprints of the routine first, if it is WARM (R127). -/
def warmFirst (s : State) (p : Partition) (die : Nat) (f : Folio) (cs : List (Nat × Nat)) : List (Nat × Nat) :=
  let isWarm (o : Nat × Nat) : Bool :=
    s.warm.any (fun w => w.asid = p.asid && w.die = die && w.folio.routine = f.routine && w.gx = o.1 && w.gy = o.2)
  if f.warm then cs.filter isWarm ++ cs.filter (fun o => !isWarm o) else cs

/-- How many instances the guy-line pool has route IDs for (R125, R143). -/
def Partition.idsFor (p : Partition) (f : Folio) (k : Nat) : Nat :=
  let per := f.narg + f.nres
  if per = 0 then k else min k ((1024 - p.poolUsed.length) / per)

/-- The footprints for a request, up to `k`: those freed for it that still pass, and the free ones of its candidates, all in
spiral order (R127, R129, R131). -/
def findFootprints (s : State) (p : Partition) (die : Nat) (f : Folio) (cs freed : List (Nat × Nat)) (k : Nat) : List (Nat × Nat) :=
  let order := warmFirst s p die f cs
  let found := pick (passes s p die f []) f (p.idsFor f k) freed order
  (order ++ freed.filter (fun o => !order.contains o)).filter found.contains

/-! ### Granting (R128, R130, R137) -/

/-- The `n` lowest free route IDs (R137; which of the free ones is DESIGN CHOICE, assumption 139). -/
def Partition.freeIds (p : Partition) (n : Nat) : List Nat :=
  (((List.range 1024).map (fun i => 3072 + i)).filter (fun k => !p.poolUsed.contains k)).take n

/-- Places physical instance `q` of `m` for a request at an origin. Its grant counts as its last activity, and so does its unstow, until
a token touches it (R131 gives none; DESIGN CHOICE, assumption 155). -/
def grantOne (s : State) (asid : Nat) (r : PitchReq) (caller : Place) (f : Folio) (m q : Nat) (o : Nat × Nat) : State × Option Callee :=
  match partOf s asid with
  | none => (s, none)
  | some p =>
    let ids := p.freeIds (f.narg + f.nres)
    let mine := (List.range r.k).filter (fun i => i % m = q)
    let args := ids.take f.narg
    let results := ids.drop f.narg
    let inst : Inst :=
      { caller := r.node, call := r.call, logical := mine, cur := 0, args := args, results := results, st := .awake, stowSlots := []
        buffered := [], activeAt := s.cycle, struck := false, wave := 0 }
    let (s1, id) := placeFolio s asid caller.die o.1 o.2 caller.lslot caller.scope f (some inst)
    let s2 := s1.updPlace id (fun x =>
      { x with ready := p.standby, slots := (List.range 4).map (fun j => if j < mine.length then some f else none) })
    (s2.updPart asid (fun x => { x with poolUsed := x.poolUsed ++ ids }.workUp caller.scope),
      some { place := id, args := args, results := results, ended := [] })

/-- Places the physical instances one after another. -/
def grantAll (asid : Nat) (r : PitchReq) (caller : Place) (f : Folio) (m : Nat) : Nat → List (Nat × Nat) → State → State × List Callee
  | _, [], s => (s, [])
  | q, o :: l, s =>
    let (s1, e) := grantOne s asid r caller f m q o
    let (s2, es) := grantAll asid r caller f m (q + 1) l s1
    (s2, e.toList ++ es)

/-- A request is granted whole: its instances are placed, and the argument lines of the first logical instance of each
carry their segments' beginnings (R411). -/
def grant (s : State) (asid : Nat) (r : PitchReq) (caller : Place) (f : Folio) (os : List (Nat × Nat)) : State :=
  let catcount := match partOf s asid with | some p => p.catcount | none => 0
  match os.findSome? (fun o => f.bad catcount (some o)) with
  | some bad => pitchFault s asid r 13 bad
  | none =>
    let (s1, es) := grantAll asid r caller f os.length 0 os s
    let s2 := stir (s1.updPart asid (fun p => (p.leave r s.cycle).touchCache (r.core / 32) (r.core % 32) r.routine)) asid
    match s2.site? r.node with
    | none => s2
    | some x =>
      let s3 := s2.updPitch r.node (fun q => q.upd r.call (fun c => { c with phys := es, opened := List.range es.length }))
      match (x.st.pitch?).call? r.call with
      | none => s3
      | some c => (List.range es.length).foldl (fun st i => openLines st r.node asid (marksPast caller x) { c with phys := es } i) s3

/-! ### Stowing (R131, R132, R134) -/

def Partition.stowBase (p : Partition) : Nat := bitsOf p.stowcfg.toNat 21 27 * 2 ^ 21
def Partition.stowSlots (p : Partition) : Nat := min 4096 (bitsOf p.stowcfg.toNat 0 13)

/-- Stow slots in use. -/
def usedSlots (s : State) (asid : Nat) : List Nat :=
  (s.places.filter (fun p => p.asid = asid)).flatMap (fun p => match p.inst with | some i => i.stowSlots | none => [])

def freeSlots (s : State) (p : Partition) : List Nat :=
  let used := usedSlots s p.asid
  (List.range p.stowSlots).filter (fun k => !used.contains k)

/-- The caller has no pitch outstanding but one. -/
def onlyCall (s : State) (r : PitchReq) : Bool :=
  (s.sites.filter (fun x => x.node.place = r.node.place)).all (fun x =>
    (x.st.pitch?).calls.all (fun c => x.node = r.node && c.num = r.call))

/-- The tail-stow victim, if the caller can be one. -/
def tailVictim (s : State) (p : Partition) (r : PitchReq) (caller : Place) (f : Folio) : List Place :=
  match caller.inst, caller.shape with
  | some i, some g =>
    if i.st = .awake && (g.stow = 1 || g.stow = 2) && onlyCall s r && passes s p caller.die f [caller.id] (caller.gx, caller.gy)
    then [caller] else []
  | _, _ => []

/-- Puts an instance among others, least recently active first, then by origin in row-major order. -/
def insertIdle (x : Place) : List Place → List Place
  | [] => [x]
  | y :: l =>
    let key (p : Place) : Nat := (match p.inst with | some i => i.activeAt | none => 0) * 2 ^ 16 + p.gy * 2 ^ 8 + p.gx
    if key x ≤ key y then x :: y :: l else y :: insertIdle x l

/-- The other instances that may be stowed, in order. -/
def otherVictims (s : State) (p : Partition) (caller : Place) (f : Folio) : List Place :=
  ((s.places.filter (fun x => x.asid = p.asid && x.die = caller.die &&
    (match x.inst, x.shape with | some i, some g => i.st = .awake && g.stow = 1 | _, _ => false) &&
    passes s p x.die f [x.id] (x.gx, x.gy))).foldr insertIdle [])

/-- Takes victims whose origins do not overlap, `n` of them. -/
def pickVictims (f : Folio) (found : List (Nat × Nat)) : Nat → List Place → List Place → List Place
  | _, got, [] => got
  | n, got, x :: l =>
    let o := (x.gx, x.gy)
    if got.length < n && !got.any (fun y => y.id = x.id || overlaps f o (y.gx, y.gy)) && !found.any (overlaps f o)
    then pickVictims f found n (got ++ [x]) l else pickVictims f found n got l

def Place.granuleCount (p : Place) : Nat := p.gw * p.gh

/-- The victims that supply `n` footprints, with slots for all of them; none where stowing cannot. -/
def chooseVictims (s : State) (p : Partition) (r : PitchReq) (caller : Place) (f : Folio) (found : List (Nat × Nat)) (n : Nat) : Option (List Place) :=
  let vs := pickVictims f found n [] (tailVictim s p r caller f ++ otherVictims s p caller f)
  let need := (vs.map Place.granuleCount).foldl (fun a b => a + b) 0
  if vs.length = n && n > 0 && need ≤ (freeSlots s p).length then some vs else none

/-- Stow copies of the victims begin; each granule has its slot. -/
def beginStow (p : Partition) : List Place → State → State
  | [], s => s
  | v :: l, s =>
    let slots := (freeSlots s p).take v.granuleCount
    beginStow p l (s.updPlace v.id (fun x => { x with inst := x.inst.map (fun i => { i with st := .copying, stowSlots := slots }) }))

/-! ### Serving a queue (R129, R133) -/

/-- Examines a request. What a stow has freed for it is taken first, and a FOLDABLE gang that had found nothing folds onto that
alone (R129, R131). (DESIGN CHOICE, assumption 93.) -/
def examine (s : State) (asid : Nat) (p : Partition) (r : PitchReq) (caller : Place) (f : Folio) : State :=
  let here := caller.at_ r.node.x r.node.y
  let freed := pick (passes s p caller.die f []) f (p.idsFor f r.k) [] r.freed
  let found := findFootprints s p caller.die f (candidates (here.1 / 4) (here.2 / 4)) freed r.k
  let n := found.length
  if f.foldable && !freed.isEmpty then grant s asid r caller f freed
  else if n ≥ r.k then grant s asid r caller f found
  else if f.foldable && n ≥ 1 then grant s asid r caller f found
  else
    let short := if f.foldable then 1 else r.k - n
    match (if p.idsFor f r.k ≥ n + short then chooseVictims s p r caller f found short else none) with
    | some vs =>
      stir ((beginStow p vs s).updPart asid (fun q =>
        { q with curq := updBy r.same (fun x => { x with
            stowing := some (vs.map (fun v => v.id)), freed := freed ++ vs.map (fun v => (v.gx, v.gy))
            kept := found.flatMap (fun o => f.granules o.1 o.2) }) q.curq })) asid
    | none =>
      let larger := f.w > caller.gw || f.h > caller.gh
      if larger then pitchFault s asid r 14 (0, 0) else s

/-- Serves a pitch: a routine that is not cached is fetched first (R123). -/
def servePitch (s : State) (asid : Nat) (p : Partition) (r : PitchReq) : State :=
  match s.place? r.node.place with
  | none => s.updPart asid (fun q => q.leave r s.cycle)
  | some caller =>
    if r.stowing.isSome then s
    else if r.routine ≥ p.catcount then pitchFault s asid r 13 (0, 0)
    else match p.cached (r.core / 32) (r.core % 32) r.routine with
      | some f => examine s asid p r caller f
      | none =>
        let e := (r.core / 32, r.core % 32, r.routine)
        s.updPart asid (fun q => if q.fetching.contains e then q else { q with fetching := q.fetching ++ [e] })

/-- Serves an unstow: the first passing candidate around the former origin takes the instance, and its copy begins. -/
def serveUnstow (s : State) (asid : Nat) (p : Partition) (r : PitchReq) (id : Nat) : State :=
  match s.place? id with
  | none => s.updPart asid (fun q => q.leave r s.cycle)
  | some x => match x.inst, x.shape with
    | some i, some f =>
      if i.st ≠ .stowed then s.updPart asid (fun q => q.leave r s.cycle)
      else match (candidates x.gx x.gy).find? (passes s p x.die f []) with
        | none => s
        | some o =>
          let s1 := s.updPlace id (fun y => { y with gx := o.1, gy := o.2, inst := y.inst.map (fun k => { k with st := .unstowing }) })
          let s2 := match s1.place? id with
            | some y => { s1 with warm := s1.warm.filter (fun w => !w.meets y.die y) }
            | none => s1
          stir (s2.updPart asid (fun q => q.leave r s.cycle)) asid
    | _, _ => s.updPart asid (fun q => q.leave r s.cycle)

/-- The partition's Curators grant: it is RUNNING, its catalogue not loading (R83, R121). -/
def Partition.grants (p : Partition) : Bool := p.st = .running && !p.loading

/-- CURATOR_SERVE_HEAD: the queue whose turn it is. -/
def execCuratorServeHead (asid core : Nat) (s : State) : Out :=
  match partOf s asid with
  | none => .next s
  | some p =>
    if !p.grants || p.nextQueue ≠ some core then .next s
    else match p.queueOf core with
      | [] => .next s
      | r :: _ =>
        let s1 := s.updPart asid (fun q => { q with rrCore := core })
        .next (match r.unstow with
          | some id => serveUnstow s1 asid p r id
          | none => servePitch s1 asid p r)

/-- CATALOGUE_FETCH_DONE: an image that is in order enters the cache; the requests that head their queue for another end
in FOLIO_INVALID, and so do the READY launches that name the routine, where it was fetched for them (R123, R143). -/
def execCatalogueFetchDone (asid die core routine : Nat) (s : State) : Out :=
  match partOf s asid with
  | none => .next s
  | some p =>
    let e := (die, core, routine)
    if p.loading || !p.fetching.contains e then .next s
    else
      let s1 := s.updPart asid (fun q => { q with fetching := q.fetching.filter (fun y => y ≠ e) })
      match fetchFolio s1 p routine none with
      | .folio f =>
        let lines := ((readImage s1 p routine).getD []).length
        let s2 := imageSeen s1 p routine
        let s3 := match correctedIn s1 s2, p.queueOf (32 * die + core) with
          | true, r :: _ => match s2.place? r.node.place with | some x => taint s2 x 1 | none => s2
          | _, _ => s2
        .next (s3.updPart asid (fun q => q.fillCache (pinned s1 asid) die core routine ((lines + 4095) / 4096) f))
      | got =>
        let bad := match got with | .invalid x y => (x, y) | _ => (0, 0)
        let s2 := if die = p.homedie && core = p.homecore then
            ((p.tasks.filter (fun y => y.st = .ready && y.folio = routine)).map (fun y => y.slot)).foldl (fun st k => launchInvalid st asid k bad) s1
          else s1
        match p.queueOf (32 * die + core) with
        | r :: _ =>
          let copying := s2.places.any (fun x => (r.stowing.getD []).contains x.id && (match x.inst with | some i => i.st = .copying | none => false))
          .next (if r.routine = routine && r.unstow.isNone && !copying then pitchFault s2 asid r 13 bad else s2)
        | [] => .next s2

/-! ### Copies (R131, R133, R134) -/

/-- The pages of some slots: 128 KiB, the smallest that a translation covers (R206). -/
def slotPages (p : Partition) (slots : List Nat) : List Nat :=
  slots.flatMap (fun k => (List.range 16).map (fun i => p.stowBase + k * 2 ^ 21 + i * 2 ^ 17))

/-- The fault a copy of some pages meets, if any: they must be readable and writable and their memory there, and what an unstow
reads must hold no word with an uncorrectable error. (DESIGN CHOICE, assumption 92.) -/
def pageFault? (s : State) (p : Partition) (reads : Bool) : List Nat → Option (Nat × Nat × Word × Nat)
  | [] => none
  | va :: l =>
    match translate s none 0 p.asid va { Need.store false with r := true } with
    | .fault _ code sub pte => some (code, sub, pte, va)
    | .ok _ (x, _) =>
      if !spanReady s x.pa (2 ^ 17) then some (10, 2, x.pte, va)
      else if reads && spanBad s x.pa (2 ^ 17) then some (10, 1, x.pte, va)
      else pageFault? s p reads l
    | .wait => pageFault? s p reads l

def slotFault? (s : State) (p : Partition) (reads : Bool) (slots : List Nat) : Option (Nat × Nat × Word × Nat) :=
  pageFault? s p reads (slotPages p slots)

/-- A copy's bytes are in some pages of the stow area (R131, R134; DESIGN CHOICE, assumption 42). -/
def pageWrite (p : Partition) (pages : List Nat) (s : State) : State :=
  pages.foldl (fun st va => match translate s none 0 p.asid va (Need.store false) with
    | .ok _ (x, _) => freeSpan st x.pa (2 ^ 17)
    | _ => st) s

/-- A copy that meets a fault takes a record, and its request stands in no queue until it is resumed. -/
def copyFault (s : State) (asid : Nat) (place : Place) (f : Nat × Nat × Word × Nat) : State :=
  freezeRecord s asid { nodeLate place { place := place.id, x := 0, y := 0 } (.copy place.id) f.1 5 with sub := f.2.1, pte := f.2.2.1, va := f.2.2.2 }

/-- The instance stays in the fabric after all, unless it has been struck (R143). -/
def Place.stay (x : Place) : Place :=
  { x with inst := x.inst.map (fun (i : Inst) => if i.st = StowSt.copying then { i with st := .awake, stowSlots := [] } else i) }

/-- A queue's request whose victims are being stowed. -/
def Partition.stower (p : Partition) (core : Nat) : Option PitchReq :=
  p.curq.find? (fun r => r.core = core && r.stowing.isSome && (r.frozen = 0 || r.frozen = 3))

/-- The guy-line pool has the route IDs that a request needs with a folio (R125, R129). -/
def Partition.hasIds (p : Partition) (r : PitchReq) (f : Folio) : Bool := p.idsFor f r.k ≥ (if f.foldable then 1 else r.k)

/-- The copies of a request's victims have completed: the callee is placed, where the Curator grants, holds its image and has the
route IDs; until then the footprints are kept for it. A request that has been withdrawn leaves (R131, R132, R143). -/
def stowServe (s : State) (asid : Nat) (p : Partition) (r : PitchReq) (vs : List Place) : State :=
  let s1 := { s with places := updBy (fun x => vs.any (fun v => v.id = x.id)) (fun x =>
      { x with inst := x.inst.map (fun (i : Inst) => if i.st = StowSt.copying then { i with st := .vacated } else i) }) s.places }
  let gone := r.frozen = 3
  if gone then (vacate s1 vs).updPart asid (fun q => { q with curq := dropFirst (fun x => x = r) q.curq })
  else if !p.grants then s1
  else if r.routine < p.catcount && (match p.cached (r.core / 32) (r.core % 32) r.routine with | some f => !p.hasIds r f | none => false) then s1
  else if r.routine < p.catcount && (p.cached (r.core / 32) (r.core % 32) r.routine).isNone then servePitch s1 asid p { r with stowing := none }
  else
    let s2 := stir ((vacate s1 vs).updPart asid (fun q => { q with curq := updBy r.same (fun x => { x with stowing := none }) q.curq })) asid
    match partOf s2 asid with
    | some q => servePitch s2 asid q { r with stowing := none }
    | none => s2

/-- STOW_COPY_DONE: every copy of a request's victims has completed, and the callee is placed. -/
def execStowCopyDone (asid core : Nat) (s : State) : Out :=
  match partOf s asid with
  | none => .next s
  | some p => match p.stower core with
    | none => .next s
    | some r =>
      let vs := (r.stowing.getD []).filterMap (fun v => s.place? v)
      let slots (x : Place) : List Nat := match x.inst with | some i => if i.st = .copying && !x.killed then i.stowSlots else [] | none => []
      match vs.findSome? (fun x => (slotFault? s p false (slots x)).map (fun f => (x, f))) with
      | some (x, f) =>
        if r.frozen = 3 then
          let s1 := vacate s (vs.filter (fun y => y.killed))
          let s2 := { s1 with places := updBy (fun y => vs.any (fun v => v.id = y.id)) Place.stay s1.places }
          .next (s2.updPart asid (fun q => { q with curq := dropFirst (fun y => y = r) q.curq }))
        else .next (copyFault (s.updPart asid (fun q => { q with curq := updBy r.same (fun y => { y with frozen := 2 }) q.curq })) asid x f)
      | none => .next (stowServe (pageWrite p (slotPages p (vs.flatMap slots)) s) asid p r vs)

/-- STOWED_RESULT_ARRIVE: the token at the head of guy line `k` enters the record of the instance it is for, in the upper half of
its origin granule's slot, up to 4096 of them; the first asks for the unstow, once the copy has completed (R133, R143). A
page of the slot that does not translate, or that cannot be written, stops no token: R133 speaks of copies (DESIGN CHOICE, assumption
152). -/
def execStowedResultArrive (place k : Nat) (tok : Token) (s : State) : Out :=
  match s.place? place with
  | none => .next s
  | some p => match p.inst with
    | none => .next s
    | some i =>
      let mine := (s.sites.filter (fun x => x.node.place = place)).any (fun x => (x.st.pitch?).lines.any (fun r => r.line = k))
      if !mine || (i.st ≠ .copying && i.st ≠ .vacated && i.st ≠ .stowed) || i.buffered.length ≥ 4096 || guyHead s p.asid k ≠ some tok then .next s
      else
        let s1 := (guyTake s p.asid k).updPlace place (fun x =>
          { x with inst := x.inst.map (fun y => { y with buffered := y.buffered ++ [(k, tok)] }) })
        let from_ := (s1.places.find? (fun x => x.asid = p.asid && (match x.inst with | some y => y.results.contains k | none => false))).map (fun x => x.id)
        let s2 := match from_ with | some id => releaseDrained s1 id | none => s1
        let s3 := match partOf s2 p.asid, i.stowSlots.head? with
          | some q, some slot => pageWrite q ((slotPages q [slot]).drop 8) s2
          | _, _ => s2
        .next (if i.st = .stowed then askUnstow s3 place else s3)

/-- UNSTOW_COPY_DONE: the instance is back, its slots are free, and it goes on with its buffered results. -/
def execUnstowCopyDone (place : Nat) (s : State) : Out :=
  match s.place? place with
  | none => .next s
  | some p => match p.inst, partOf s p.asid with
    | some i, some q =>
      if i.st ≠ .unstowing || q.curq.any (fun r => r.unstow = some place) then .next s
      else match slotFault? s q true i.stowSlots with
        | some f =>
          let r : PitchReq :=
            { core := 32 * p.die + p.core, node := i.caller, call := i.call, routine := 0, k := 1, scope := p.scope, unstow := some place
              stowing := none, freed := [], kept := [], frozen := 2, waitFrom := s.cycle }
          .next (copyFault (s.updPart p.asid (fun y => { y with curq := y.curq ++ [r] })) p.asid p f)
        | none =>
          .next (stir (s.updPlace place (fun x =>
            { x with ready := q.standby, inst := x.inst.map (fun y => { y with st := .awake, stowSlots := [], activeAt := s.cycle }) })) p.asid)
    | _, _ => .next s

/-- A write to STOWCFG is ignored while any instance of the partition is stowed (R134). (DESIGN CHOICE, assumption 88.) It is ignored
too while one is being copied out or in (DESIGN CHOICE, assumption 153). -/
def writeStowcfg (s : State) (asid : Nat) (v : Word) : State :=
  if !(usedSlots s asid).isEmpty then s
  else s.updPart asid (fun p => { p with stowcfg := BitVec.ofNat 64 (bitsOf v.toNat 21 27 * 2 ^ 21 + min 4096 (bitsOf v.toNat 0 13)) })

/-- STOWCFG_WRITE. -/
def execStowcfgWrite (asid : Nat) (v : Word) (s : State) : Out := .next (writeStowcfg s asid v)

/-! ### Stalls and standby (R136, R141) -/

/-- CURATOR_STALL: the head of a queue has waited 32,768 cycles with nothing freed on its die. -/
def execCuratorStall (asid core : Nat) (s : State) : Out :=
  match partOf s asid with
  | none => .next s
  | some p => match p.queueOf core with
    | [] => .next s
    | r :: _ =>
      if p.st ≠ .running || s.cycle < r.waitFrom + 32768 then .next s
      else
        let s1 := s.updPart asid (fun q => { q with curq := updBy r.same (fun x => { x with waitFrom := s.cycle }) q.curq })
        .next (censusTrap s1 asid 39 ((p.pitches.filter (fun x => x.core / 32 = core / 32)).map pitchCensus))

/-- GRANULES_STANDBY: the free granules of a RUNNING partition are in standby; instances placed before wake. -/
def execGranulesStandby (asid : Nat) (s : State) : Out :=
  match partOf s asid with
  | none => .next s
  | some p =>
    if p.st ≠ .running || p.standby then .next s
    else
      let s1 := s.updPart asid (fun q => { q with standby := true })
      .next { s1 with places := updBy (fun x => x.asid = asid && x.inst.isSome) (fun x => { x with ready := true }) s1.places }

end Sys2Proof.Machine
end

