-- ==== Sys2Proof/Machine/Dispatcher.lean ====
section
/-! DEFINITION. The dispatcher (R73-R79, R102, R103): starting launches, aging, the block limit, power-up, completion, and
the wait census. -/

namespace Sys2Proof.Machine

/-! ### Ready queues (R75-R77) -/

/-- A launch's level and the cycle it joined that queue in, as they stood at the start of a cycle (R76, R86). -/
def TgEntry.seen (e : TgEntry) (now : Nat) : Nat × Nat :=
  match e.was with
  | some (c, level, joined) => if c = now then (level, joined) else (e.level, e.joined)
  | none => (e.level, e.joined)

/-- One launch stands before another in a queue: it joined earlier, or in the same cycle and entered READY earlier (R75). -/
def TgEntry.before (a b : TgEntry) (now : Nat) : Bool :=
  (a.seen now).2 < (b.seen now).2 || (a.seen now).2 = (b.seen now).2 && a.qseq < b.qseq

/-- The head of a ready queue as it stood at the start of a cycle. -/
def Partition.headOf (p : Partition) (level now : Nat) : Option TgEntry :=
  (p.tasks.filter (fun e => e.st = .ready && (e.seen now).1 = level)).foldl (fun a e =>
    match a with
    | none => some e
    | some b => if e.before b now then some e else a) none

/-- The cycle in which a launch's wait takes it to the next queue; none from queue 7. -/
def TgEntry.dueAt (e : TgEntry) : Nat := e.readyAt + 4096 * (e.level - e.prio + 1)

def TgEntry.due (e : TgEntry) (now : Nat) : Bool := e.st = .ready && e.level < 7 && e.dueAt ≤ now

/-- Wait counts run: the partition is not HALTED (R75). -/
def PState.counts : PState → Bool
  | .running | .halting => true
  | .halted | .stored | .drained => false

/-- LAUNCH_AGING: the launch moves to the tail of the next queue; launches whose levels rise in one cycle stand there in the
order they entered READY. The dispatcher sees it from the next cycle (R75, R76). -/
def execLaunchAging (asid slot : Nat) (s : State) : Out :=
  match partOf s asid with
  | none => .next s
  | some p => match p.task? slot with
    | none => .next s
    | some e =>
      if !p.st.counts || !e.due s.cycle then .next s
      else
        .next (s.setPart (p.updTask slot (fun x =>
          { x with level := x.level + 1, joined := x.dueAt, was := some (s.cycle, x.seen s.cycle), blockedAt := none, capped := false })))

/-- The head of a queue has been blocked for 16,384 cycles. -/
def Partition.capped (p : Partition) (level now : Nat) : Bool :=
  match p.headOf level now with
  | some e => e.capped || (match e.blockedAt with | some c => c + 16384 ≤ now | none => false)
  | none => false

/-- HEAD_BLOCK_LIMIT: no queue below this one is served until its head is placed. -/
def execHeadBlockLimit (asid level : Nat) (s : State) : Out :=
  match partOf s asid with
  | none => .next s
  | some p => match p.headOf level s.cycle with
    | none => .next s
    | some e =>
      if p.st = .running && p.capped level s.cycle then .next (s.updTask asid e.slot (fun x => { x with capped := true }))
      else .next s

/-- Levels the dispatcher considers, the highest first: none below one whose head has reached the limit and is still
there. -/
def Partition.levels (p : Partition) (now : Nat) : List Nat :=
  ((List.range 8).map (fun i => 7 - i)).filter (fun l => (List.range 8).all (fun h => h ≤ l || !p.capped h now))

/-! ### Starting a launch (R76, R78) -/

/-- The entry thread of a launch: user mode, g1 = ARG, g2 = the launch ID, every other register zero. -/
def entryThread (die core n place : Nat) (p : Partition) (e : TgEntry) : Thread :=
  let t := Thread.fresh (.ctl die core n)
  ({ t with run := .running, mode := .user, pc := BitVec.ofNat 64 e.entry, scope := e.scope, asid := p.asid, place := place, lslot := e.slot
    }.writeReg 1 e.arg).writeReg 2 (BitVec.ofNat 64 (lidOf e.gen e.slot))

/-- The launch's folio goes into a region at an origin; the launch is RUNNING. -/
def startLaunch (s : State) (p : Partition) (e : TgEntry) (f : Folio) (die gx gy : Nat) : State :=
  match f.bad p.catcount (some (gx, gy)) with
  | some bad => launchInvalid s p.asid e.slot bad
  | none =>
    let core := coreOfGranule gx gy
    match idleThread s die core with
    | none => s
    | some n =>
      let (s1, id) := placeFolio s p.asid die gx gy e.slot e.scope f none
      let s2 := { s1 with threads := s1.threads.filter (fun (t : Thread) => t.id ≠ ThreadId.ctl die core n) ++ [entryThread die core n id p e] }
      stir (s2.updPart p.asid (fun q =>
        { (q.updTask e.slot (fun x => { x with st := .running, place := some id, startCycle := s.cycle, blockedAt := none, capped := false })).touchCache
            p.homedie p.homecore e.folio with lastStart := some s.cycle })) p.asid

/-- Looks at the heads in turn: one with a free region starts, one without stays and marks since when.
(DEDUCED, assumption 95.) -/
def tryLevels (p : Partition) : List Nat → State → State
  | [], s => s
  | l :: ls, s =>
    match p.headOf l s.cycle with
    | none => tryLevels p ls s
    | some e =>
      if e.folio ≥ p.catcount then launchInvalid s p.asid e.slot (0, 0)
      else match p.cached p.homedie p.homecore e.folio with
        | none =>
          let m := (p.homedie, p.homecore, e.folio)
          s.updPart p.asid (fun q => if q.fetching.contains m then q else { q with fetching := q.fetching ++ [m] })
        | some f => match findRegion s p f with
          | some (d, gx, gy) => startLaunch s p e f d gx gy
          | none => tryLevels p ls (s.updTask p.asid e.slot (fun x =>
              { x with blockedAt := match x.blockedAt with | none => some s.cycle | b => b }))

/-- DISPATCH: at most one start every eight cycles. -/
def execDispatch (asid : Nat) (s : State) : Out :=
  match partOf s asid with
  | none => .next s
  | some p =>
    let early := match p.lastStart with | some c => s.cycle < c + 8 | none => false
    if p.st ≠ .running || early then .next s else .next (tryLevels p (p.levels s.cycle) s)

/-- FOLIO_POWER_READY: the region's sites are ready, and tokens may enter (R79). -/
def execFolioPowerReady (place : Nat) (s : State) : Out :=
  match s.place? place with
  | none => .next s
  | some p =>
    if p.inst.isSome || !activeAsid s p.asid then .next s
    else .next (s.updPlace place (fun x => { x with ready := true }))

/-! ### Completion (R73, R74) -/

/-- The places of a launch: its region and the instances that work for it. -/
def placesOf (s : State) (asid slot : Nat) : List Place := s.places.filter (fun p => p.asid = asid && p.lslot = slot)

def tokensOf (x : Site) : List Token :=
  x.ina ++ x.inb ++ x.inc ++ x.out.map (fun o => o.2) ++
  (match x.st with | .tile _ bufs f g _ _ => bufs.flatMap (fun b => b.1) ++ f ++ g | _ => [])

def tokensOfSlot (x : RSlot) : List Token := x.in0 ++ x.in1 ++ x.in2 ++ x.out.map (fun o => o.2)

/-- Tokens anywhere in a place. -/
def placeTokens (s : State) (id : Nat) : List Token :=
  (s.sites.filter (fun x => x.node.place = id)).flatMap tokensOf ++ (s.rslots.filter (fun x => x.node.place = id)).flatMap tokensOfSlot ++
  (s.segs.filter (fun x => x.node.place = id)).map (fun g => g.tok)

/-- Every unit of a place has passed the EOT of what it took, and no EOT is on its way (R74, R82). -/
def placeQuiet (s : State) (p : Place) : Bool :=
  (s.sites.filter (fun x => x.node.place = p.id)).all (fun x => !x.segOpen) && (placeTokens s p.id).all (fun t => t.kind ≠ .eot) &&
  p.ports.all (fun q => !q.midSeg)

/-- No command of a place is queued or under way; a RECORD or REPLAY ends with its launch (R365). -/
def portsIdle (p : Place) : Bool := p.ports.all (fun q => q.queue.isEmpty && q.runs.isEmpty)

/-- Nothing a rollback region has written waits to be committed. -/
def rbClear (p : Place) : Bool :=
  (match p.rb with | some b => b.held.isEmpty && b.passed.isEmpty | none => true) && p.ports.all (fun q => q.saved.isEmpty)

/-- No request of a place is on its way, waits or is joined at a slice, or stands at an LLC with its write not yet performed there,
and no MCAST line or notice of it is under way (R73, R83, R433). -/
def noTraffic (s : State) (id : Nat) : Bool :=
  let other (l : LReq) : Bool := match l.req with | some r => r.place ≠ id | none => true
  s.reqs.all (fun r => r.place ≠ id) && s.resps.all (fun r => r.place ≠ id) && s.lreqs.all other &&
  s.llc.all (fun x => x.queue.all other && x.annex.all other) &&
  s.slices.all (fun x => x.pend.all (fun y => (y.waiting ++ y.held).all (fun r => r.place ≠ id)) &&
    x.groups.all (fun g => (g.req :: g.joined).all (fun r => r.place ≠ id)) && x.waitMcast.all (fun r => r.place ≠ id)) &&
  s.landing.all (fun l => l.place ≠ id || (l.inflight.isNone && !l.dropped))

/-- A faulted launch's region can do no more: something stands frozen, or neither a token nor a reading command is
left. -/
def stranded (s : State) (asid slot : Nat) : Bool :=
  anyFrozen s asid slot || (placesOf s asid slot).all (fun x =>
    (placeTokens s x.id).isEmpty && x.ports.all (fun q => q.queue.all (fun c => writes c.op) && q.runs.all (fun r => writes r.cmd.op && r.elems.isEmpty)))

/-- R73's conditions; the stores its thread issued are performed before. (DEDUCED, assumption 94.) (DEDUCED, assumption 104.) -/
def launchOver (s : State) (asid : Nat) (e : TgEntry) : Bool :=
  let mine := placesOf s asid e.slot
  e.st = .running && e.threadDone && mine.all (fun x => noTraffic s x.id) &&
  s.threads.all (fun t => t.id.isSys || t.asid ≠ asid || t.lslot ≠ e.slot || t.stbuf.isEmpty) &&
  ((mine.all (fun x => x.inst.isNone && placeQuiet s x && portsIdle x && rbClear x)) ||
   (e.status = 1 && stranded s asid e.slot) ||
   (e.killed && mine.isEmpty))

/-- The numbers of the segments that units of a place have not passed: of the headers at open units, and of the SOTs and HDRs on
their way. -/
def openSegs (s : State) (id : Nat) : List Nat :=
  ((s.sites.filter (fun x => x.node.place = id && x.segOpen)).flatMap (fun x => x.hdrs.filterMap (fun h => h.map (fun t => hdrField t 160 32)))) ++
  (placeTokens s id).filterMap (fun t => match t.kind with
    | .sot => some (t.pay.toNat % 2 ^ 32)
    | .hdr => some (hdrField t 160 32)
    | _ => none)

/-- Region segments completed: those of contexts that ran before, and those of the running one whose EOT its furthest port has let
in and every unit of the region has passed (R74). -/
def segsDone (s : State) (p : Place) : Nat :=
  let sent := p.counting.foldl (fun a q => max a (q.segs.toNat - bit1 q.midSeg)) 0
  p.past + ((openSegs s p.id).foldl min sent - p.before)

/-- The region of a launch goes back to the Curator, with every instance placed in it, and its thread is idle again. -/
def releaseRegion (s : State) (asid slot : Nat) : State :=
  let mine := placesOf s asid slot
  let s1 := ((mine.filter (fun x => x.inst.isSome)).map (fun x => x.id)).foldl strikeInstance s
  let s2 := ((mine.filter (fun x => x.inst.isNone)).map (fun x => x.id)).foldl removePlace s1
  let ids := mine.map (fun x => x.id)
  let dies := (mine.map (fun x => x.die)).eraseDups
  { s2 with threads := s2.threads.filter (fun t => t.id.isSys || !(t.asid = asid && t.lslot = slot)) }.updPart asid (fun p =>
    dies.foldl (fun q d => q.freed d s.cycle) (p.withdraw s.cycle (fun r => ids.contains r.node.place)))

/-- A launch completes: its counts are in its record, its region returns, and its successors' edges are evaluated. -/
def finishLaunch (s : State) (asid : Nat) (e : TgEntry) : State :=
  let segs := (((placesOf s asid e.slot).filter (fun x => x.inst.isNone)).map (segsDone s)).foldl max e.segs
  let late := (placesOf s asid e.slot).flatMap (fun x => match x.rb with | some b => b.flags | none => [])
  let s1 := s.updTask asid e.slot (fun x => { x with segs := segs, flags := late.foldl (fun a f => a ||| f.2.1) x.flags })
  stir (completeEntry 4097 (releaseRegion s1 asid e.slot) asid e.slot) asid

/-- LAUNCH_COMPLETE. -/
def execLaunchComplete (asid slot : Nat) (s : State) : Out :=
  match (partOf s asid).bind (fun p => p.task? slot) with
  | none => .next s
  | some e => if launchOver s asid e && !e.killed then .next (finishLaunch s asid e) else .next s

/-! ### The wait census (R102, R103) -/

/-- The live threads of a partition. -/
def liveThreads (s : State) (asid : Nat) : List Thread :=
  s.threads.filter (fun t => t.asid = asid && t.run = .running)

/-- A ring agent waits at a ring of the partition (R56). -/
def agentWaits (s : State) (asid : Nat) : Bool :=
  s.rings.any (fun r => r.asid = asid && r.waiters.any (fun w => match w.who with | .ring _ _ => true | _ => false))

/-- WAIT_DEADLOCK: 65,536 cycles of silence, every live thread in a census wait, and at least one waiter. An agent that waits on
a ring counts as activity, and no wait outlasts a plain store to its ring's block (R56, R97). -/
def execWaitDeadlock (asid : Nat) (s0 : State) : Out :=
  let s := (s0.rings.filter (fun r => r.asid = asid)).foldl (fun st r => ringFresh st asid r.block) s0
  match partOf s asid with
  | none => .next s
  | some p =>
    let live := liveThreads s asid
    let es := live.filterMap threadCensus ++ p.pitches.map pitchCensus
    if p.st ≠ .running || s.cycle < p.silent + 65536 || es.isEmpty || live.any (fun t => (threadCensus t).isNone) then .next s
    else if agentWaits s asid then .next (stir s asid)
    else .next (censusTrap (s.updPart asid (fun q => { q with silent := s.cycle })) asid 38 es)

end Sys2Proof.Machine
end

