-- ==== Sys2Proof/Machine/Blocks.lean ====
section
/-! DEFINITION. Command registers, handing over stream commands, PSTAT (R327-R329), blocks of a region: FLOAD, FSEL, FSEAM
(R330-R332), the block scheduler and the switch of contexts (R80-R82, R130). -/

namespace Sys2Proof.Machine

/-- An instruction of a control core; a system core takes ILLEGAL (R283). -/
def onCtl (i : Instr) (s : State) (f : Thread → State) : Out :=
  onCur s (fun t => if t.id.isSys then illegal s t (wordOf i) else f t)

/-! ### Command registers (R327) -/

/-- KSET: one half. -/
def execKset (a : Reg) (kx : BitVec 3) (p : Bool) (s : State) : Out :=
  onCtl (.kset a kx p) s (fun t =>
    let k := t.kget kx
    let v := if p then t.reg a ++ k.extractLsb' 0 64 else k.extractLsb' 64 64 ++ t.reg a
    s.setThread (t.kset kx v).advance)

/-- KMOV. -/
def execKmov (kx ky : BitVec 3) (s : State) : Out :=
  onCtl (.kmov kx ky) s (fun t => s.setThread (t.kset kx (t.kget ky)).advance)

/-- KLD: 16 bytes, a plain load. -/
def execKld (a : Reg) (kx : BitVec 3) (s : State) : Out :=
  onCtl (.kld a kx) s (fun t =>
    let ea := t.reg a
    checked s t ea 16 Need.load false (fun s1 x lv =>
      match threadRead s1 t x lv 16 with
      | .wait => s
      | .fault s2 c k p => accessFault s2 t c k p ea.toNat false
      | .ok s2 bs => s2.setThread (t.kset kx (BitVec.ofNat 128 (bytesNat bs))).advance))

/-! ### SCMD and PSTAT (R328, R329) -/

/-- A port that holds a status word, declared or not. (DEDUCED, assumption 98.) -/
def State.ensurePort (s : State) (place port : Nat) : State :=
  s.updPlace place (fun p => if (p.port? port).isSome then p else { p with ports := p.ports ++ [freshPort s port] })

/-- Commands queued or running (R329). -/
def Port.queued (q : Port) : Nat := q.queue.length + q.runs.length + q.logs.length

/-- A record has come for a block of a region that idles (R81). -/
def Place.arrived (p : Place) (port : Nat) : Place :=
  if p.idle && p.first.isNone then
    { p with first := (List.range 4).find? (fun b => match p.slots.getD b none with
        | some f => f.ports.any (fun d => d.num = port && d.gen = 0)
        | none => false) }
  else p

/-- The commands that send a segment into the fabric. -/
def feeds (op : Nat) : Bool := [0x00, 0x03, 0x09, 0x0C, 0x0E].contains op

/-- SCMD: the check, the cancel test, then the port's queue, in whose eight places the commands that run count (R328, R329;
DEDUCED, assumption 142). -/
def execScmd (d : Reg) (kx : BitVec 3) (s : State) : Out :=
  onCtl (.scmd d kx) s (fun t =>
    let w := t.kget kx
    let c : QCmd := { word := w, thread := t.id, seq := t.cmds }
    let port := (w.extractLsb' 114 6).toNat
    let cs := c.f.cscope.toNat
    match s.place? t.place, partOf s t.asid with
    | some p, some q =>
      if !cmdValid s p port c.op c.f || !q.scopeExists cs then
        let s1 := (s.ensurePort p.id port).updPort p.id port (fun y => y.ended c 4)
        s1.setThread (t.report d 0x2D 3 9 0)
      else if q.scopeCancelled cs then s.setThread (t.report d 0x2D 3 2 0)
      else match (p.port? port).map Port.queued with
        | some n =>
          if n ≥ 8 then s.setThread { t with wait := .scmd }
          else
            let s0 := s.updPort p.id port (fun y => { y with queue := y.queue ++ [c] })
            let s1 := if feeds c.op then s0.updPlace p.id (fun x => x.arrived port) else s0
            let s2 := s1.updPart t.asid (fun x => x.workUp cs)
            s2.setThread { t.report d 0x2D 3 0 0 with cmds := t.cmds + 1 }
        | none => s.setThread (t.report d 0x2D 3 9 0)
    | _, _ => s.setThread (t.report d 0x2D 3 9 0))

/-- The status word of a port: END 2 while a faulted command's record is in use (R329, R349). (DEDUCED, assumption 83.) -/
def Port.status (q : Port) : Nat :=
  let stuck := (q.runs ++ q.logs).any (fun r => r.frozen.isSome)
  q.queued * 2 ^ 52 + (if stuck then 2 else q.end_) * 2 ^ 48 + q.tagi.toNat * 2 ^ 40 + q.tag.toNat * 2 ^ 32 + q.donecnt.toNat

/-- PSTAT. -/
def execPstat (d a : Reg) (s : State) : Out :=
  onCtl (.pstat d a) s (fun t =>
    let v := (t.reg a).toNat
    if v ≥ 64 then s.setThread (t.retire d (ofSigned (-6)))
    else
      let w := match (s.place? t.place).bind (fun p => p.port? v) with | some q => q.status | none => 0
      s.setThread (t.retire d (BitVec.ofNat 64 w)))

/-! ### FLOAD (R330) -/

/-- The folio fits the region: its extent, and its class at the region's origin (R118, R330). -/
def Place.takes (p : Place) (f : Folio) : Bool := f.w ≤ p.gw && f.h ≤ p.gh && (f.cls = 2 || f.cls = p.gx % 2)

/-- FLOAD ends INVALID: TSTAT.VAL names the site by granule and position (R330, R342). -/
def Thread.reportInvalid (t : Thread) (d : Reg) (x y : Nat) : Thread :=
  let u := t.report d 0x2D 5 9 0
  { u with tstat := u.tstat ||| BitVec.ofNat 64 ((x / 4 * 2 ^ 24 + y / 4 * 2 ^ 16 + x % 4 * 2 ^ 8 + y % 4) * 2 ^ 32) }

/-- What a load comes to now: a refusal's code, an invalid word's site, or the folio. -/
inductive LoadRes where
  | code (n : Nat)
  | invalid (x y : Nat)
  | folio (f : Folio)
  deriving DecidableEq, Repr

/-- The checks of FLOAD on the image. A folio that names a fused site of the region does not fit it (R10; DESIGN CHOICE,
assumption 141). (DEDUCED, assumption 97.) -/
def loadCheck (s : State) (q : Partition) (p : Place) (routine : Nat) : LoadRes :=
  let got := match q.cached p.die p.core routine with
    | some f => Fetch.folio f
    | none => fetchFolio s q routine none
  match got with
  | .unreadable => .invalid 0 0
  | .invalid x y => .invalid x y
  | .folio f =>
    if !p.takes f || fusedUnder s f p.die p.gx p.gy then .code 6
    else match f.bad q.catcount (some (p.gx, p.gy)) with
      | some (x, y) => .invalid x y
      | none => .folio f

/-- FLOAD: a load that passes its checks goes on until its contexts are valid. -/
def execFload (d a : Reg) (slot : BitVec 2) (s : State) : Out :=
  onCtl (.fload d a slot) s (fun t =>
    let v := (t.reg a).toNat
    match s.place? t.place, partOf s t.asid with
    | some p, some q =>
      if v ≥ 256 || v ≥ q.catcount then s.setThread (t.report d 0x2D 5 6 0)
      else
        let k := slot.toNat
        let loading := s.threads.any (fun u => match u.wait with | .fload pl _ _ _ _ => pl = p.id | _ => false)
        let busy := k = p.run || p.sel = some k || p.chosen = some k || loading
        match loadCheck s q p v with
        | .code n => s.setThread (t.report d 0x2D 5 n 0)
        | .invalid x y => if busy then s.setThread (t.report d 0x2D 5 4 0) else s.setThread (t.reportInvalid d x y)
        | .folio _ =>
          if busy then s.setThread (t.report d 0x2D 5 4 0)
          else s.setThread { t with wait := .fload p.id k v s.cycle d }
    | _, _ => s.setThread (t.report d 0x2D 5 6 0))

/-- FLOAD_DONE: the slot holds the new folio; its ports are bound (R78, R330, R350). -/
def execFloadDone (tid : ThreadId) (s : State) : Out :=
  match s.thread? tid with
  | none => .next s
  | some t => match t.wait with
    | .fload pl k routine _ d =>
      match s.place? pl, partOf s t.asid with
      | some p, some q =>
        let stop (u : Thread) : Thread := { u with wait := .none }
        if q.loading then .next s
        else match loadCheck s q p routine with
          | .code n => .next (s.setThread (stop (t.report d 0x2D 5 n 0)))
          | .invalid x y => .next (s.setThread (stop (t.reportInvalid d x y)))
          | .folio f =>
            let s0 := if (q.cached p.die p.core routine).isSome then s else imageSeen s q routine
            let s0 := if correctedIn s s0 && !t.id.isSys then s0.updTask t.asid t.lslot (fun e => { e with verdict := max e.verdict 1 }) else s0
            let s1 := s0.updPlace pl (fun x => { x.addPorts s f with slots := x.slots.set k (some f), passc := x.passc.set k 0 })
            let lines := (((readImage s q routine).getD []).length + 4095) / 4096
            let s2 := s1.updPart t.asid (fun y =>
              if (y.cached p.die p.core routine).isSome then y.touchCache p.die p.core routine else y.fillCache (pinned s t.asid) p.die p.core routine lines f)
            .next (s2.setThread (stop (t.report d 0x2D 5 0 0)))
      | _, _ => .next (s.setThread { t with wait := .none })
    | _ => .next s

/-! ### FSEL and FSEAM (R331, R332) -/

/-- The neighbour of a core on a side: north, east, south, west. -/
def neighbour (core side : Nat) : Option Nat :=
  let c := core % 8
  let r := core / 8
  match side with
  | 0 => if r > 0 then some (core - 8) else none
  | 1 => if c < 7 then some (core + 1) else none
  | 2 => if r < 3 then some (core + 8) else none
  | _ => if c > 0 then some (core - 1) else none

/-- A core the region spans. -/
def Place.spans (p : Place) (core : Nat) : Bool :=
  p.gx / 4 ≤ core % 8 && core % 8 ≤ (p.gx + p.gw - 1) / 4 && p.gy / 4 ≤ core / 8 && core / 8 ≤ (p.gy + p.gh - 1) / 4

/-- A token that has entered a segment across the seam and has not left it. -/
def onSeam (s : State) (p : Place) (a b : Nat) : Bool :=
  s.segs.any (fun g => g.node.place = p.id && (match nearBox g.code g.node.x g.node.y with
    | some (x, y) =>
      let k := p.coreAt { g.node with x := x, y := y }
      let m := p.coreAt g.node
      (k = a && m = b) || (k = b && m = a)
    | none => false))

/-- FSEAM. -/
def execFseam (d a : Reg) (p : Bool) (s : State) : Out :=
  onCtl (.fseam d a p) s (fun t =>
    let v := (t.reg a).toNat
    let core := v % 32
    match s.place? t.place, neighbour core (bitsOf v 8 2) with
    | some x, some other =>
      if v ≥ 1024 || bitsOf v 5 3 ≠ 0 || !x.spans core || !x.spans other then s.setThread (t.report d 0x2D 7 6 0)
      else if p && onSeam s x core other then s.setThread (t.report d 0x2D 7 4 0)
      else
        let rest := x.unstitched.filter (fun y => y ≠ (core, other) && y ≠ (other, core))
        (s.updPlace x.id (fun y => { y with unstitched := if p then rest ++ [(core, other)] else rest })).setThread (t.report d 0x2D 7 0 0)
    | _, _ => s.setThread (t.report d 0x2D 7 6 0))

/-! ### The block scheduler (R80, R81) -/

/-- Commands of a port that have a segment for the fabric and have not begun it. -/
def Port.waiting (q : Port) : Nat :=
  (q.queue.filter (fun c => feeds c.op)).length + (q.runs.filter (fun r => feeds r.cmd.op && r.cmd.op ≠ 0x0C && r.stage = 0)).length

/-- WAIT of a block: the commands that wait with a segment for it, on ports its folio declares as inputs (R80).
(DEDUCED, assumption 96.) -/
def Place.waitOf (p : Place) (b : Nat) : Nat :=
  match p.slots.getD b none with
  | none => 0
  | some f =>
    min 65535 ((p.ports.filter (fun q => f.ports.any (fun d => d.num = q.num && d.gen = 0))).map (fun q =>
      q.waiting)).sum

/-- The resident blocks, in order. -/
def Place.blocks (p : Place) : List Nat := (List.range 4).filter (fun b => (p.slots.getD b none).isSome)

/-- R81's choice: a block passed over sixteen times, else the longest WAIT, the lowest number first. -/
def Place.choice (p : Place) : Option Nat :=
  match p.blocks.find? (fun b => p.passc.getD b 0 = 16) with
  | some b => some b
  | none =>
    p.blocks.foldl (fun a b =>
      if p.waitOf b = 0 then a
      else match a with
        | none => some b
        | some c => if p.waitOf b > p.waitOf c then some b else a) none

/-- The PASS counts after a choice. -/
def Place.passed (p : Place) (b : Nat) : List Nat :=
  (List.range 4).map (fun k =>
    if k = b then 0
    else if p.blocks.contains k && p.waitOf k > 0 then min 16 (p.passc.getD k 0 + 1)
    else p.passc.getD k 0)

/-- The present segment of a region is drained: every port that has it to begin has begun it, and every unit has passed its EOT
(R82). A port behind it with no command waiting takes no part (DEDUCED, assumption 143). -/
def placeDrained (s : State) (p : Place) : Bool :=
  placeQuiet s p && p.counting.all (fun q => q.segs.toNat ≥ p.begun || q.waiting = 0)

/-- A choice of the block scheduler, with its PASS counts (R81). -/
def Place.choose (p : Place) (b : Nat) : Place :=
  { p with sel := none, idle := false, first := none, sched := some p.begun, passc := p.passed b
           spare := if p.waitOf b > 0 then min 16 (p.passc.getD b 0 + 1) else p.passc.getD b 0
           chosen := if b = p.run then none else some b }

/-- A block that FSEL selects while a choice waits for its switch, in the chosen one's stead (R331). -/
def Place.rechoose (p : Place) (b : Nat) : Place :=
  match p.chosen with
  | some c =>
    if c = b then p
    else { p with sel := none, passc := (p.passc.set c p.spare).set b 0, spare := p.passc.getD b 0, chosen := if b = p.run then none else some b }
  | none => p

/-- FSEL: the next choice, in place of one that waits for its switch (R331). -/
def execFsel (slot : BitVec 2) (s : State) : Out :=
  onCtl (.fsel slot) s (fun t =>
    match s.place? t.place with
    | none => s.setThread (t.reportOnly 0x2D 6 6)
    | some p =>
      if ((p.slots.getD slot.toNat none).isNone) then s.setThread (t.reportOnly 0x2D 6 6)
      else (s.updPlace p.id (fun x => if x.chosen.isSome then x.rechoose slot.toNat else { x with sel := some slot.toNat })).setThread (t.reportOnly 0x2D 6 0))

/-- BLOCK_SCHEDULE: at a segment's end the next block is the one FSEL has selected, else R81's choice: where every WAIT was 0, the
first block to receive a record (R81, R331). -/
def execBlockSchedule (place : Nat) (s : State) : Out :=
  match s.place? place with
  | none => .next s
  | some p =>
    if p.inst.isSome || !placeMoves s p || p.chosen.isSome || p.sched = some p.begun || !placeDrained s p then .next s
    else match (match p.sel, p.idle with | some b, _ => some b | none, true => p.first | none, false => p.choice) with
      | none => .next (s.updPlace place (fun x => { x with idle := true }))
      | some b => .next (s.updPlace place (fun x => x.choose b))

/-! ### Switching (R82, R130, R420) -/

/-- A region runs another block: the segments of the one before are counted, and the next choice is for the end of its first
segment (R74, R81). -/
def Place.runs (p : Place) (b : Nat) : Place :=
  let q := { p with run := b, chosen := none }
  { q with past := p.past + (p.begun - p.before), before := q.begun, sched := some q.begun }

/-- CONTEXT_SWITCH: with its present segment drained, a region runs the block chosen; a folded footprint, whose logical
instance has been struck, takes the next one with tokens on its argument lines. (DESIGN CHOICE, assumption 91.) -/
def execContextSwitch (place : Nat) (s : State) : Out :=
  match s.place? place with
  | none => .next s
  | some p =>
    if !placeMoves s p then .next s
    else match p.inst with
      | none => match p.chosen with
        | none => .next s
        | some b =>
          if !placeDrained s p then .next s
          else .next (configure (s.updPlace place (fun x => x.runs b)) p b)
      | some i =>
        let ready := i.args.isEmpty || i.args.any (fun k => !(guyLine s p.asid k).isEmpty)
        if !i.struck || i.cur + 1 ≥ i.logical.length || !ready then .next s
        else
          let next := i.cur + 1
          .next (configure (s.updPlace place (fun x =>
            { x with run := next, slots := x.slots.set i.cur none, inst := x.inst.map (fun y => { y with cur := next, struck := false }) })) p next)

end Sys2Proof.Machine
end

