-- ==== Sys2Proof/Machine/Waves.lean ====
section
/-! DEFINITION. Waves and rollback (R250-R255, R83): a wave completes and commits, a region rolls back, its ports re-read. -/

namespace Sys2Proof.Machine

/-! ### Outputs (R250) -/

/-- The outputs of a region and its instances: store nodes, the STRIKEs of instances (R139), and the tiles of ports with
a write generator. (DEDUCED, assumption 82.) -/
def waveOutputs (s : State) (p : Place) : List Node :=
  (s.places.filter (fun x => x.asid = p.asid && x.lslot = p.lslot)).flatMap (fun x =>
    match x.folio with
    | none => []
    | some f =>
      ((f.cells.filter (fun c => (opOf c.word = 0x41 || opOf c.word = 0x44 || opOf c.word = 0x63 && x.inst.isSome) && !f.isCopy c.x c.y)).map (fun c =>
        ({ place := x.id, x := c.x, y := c.y } : Node))) ++
      ((f.ports.filter (fun d => d.gen = 1)).map (fun d => ({ place := x.id, x := d.x, y := d.y } : Node))))

/-- The MARKs every output has passed, 2^32 with the EOT; a region without outputs passes what its ports have sent. -/
def wavesPassed (s : State) (p : Place) (b : Rollback) : Nat :=
  match waveOutputs s p with
  | [] =>
    let open_ := p.ports.filter (fun q => !q.saved.isEmpty)
    if !open_.isEmpty && open_.all (fun q => !q.midSeg) then 2 ^ 32
    else match open_ with | q :: l => l.foldl (fun a x => min a x.mkWave) q.mkWave | [] => 0
  | n :: l =>
    let began (m : Node) : Nat := match (s.place? m.place).bind (fun x => x.inst) with | some i => i.wave | none => 0
    let of (m : Node) : Nat := match b.passed.find? (fun x => x.1 = m) with | some (_, k) => max k (began m) | none => began m
    l.foldl (fun a m => min a (of m)) (of n)

/-! ### Commit (R239, R250) -/

/-- Held writes up to a wave are performed in entry order, and DONEs sent that waited for them; `false` when one has to wait
or meets a fault. -/
def commitHeld (p : Place) (wave : Nat) : Nat → State → State × Bool
  | 0, s => (s, true)
  | k + 1, s =>
    match (regionRb s p).bind (fun b => b.held.find? (fun h => h.wave ≤ wave)) with
    | none => (s, true)
    | some h =>
      let gone (st : State) : State := st.updRb p (fun b => { b with held := dropFirst (fun y => y = h) b.held })
      if h.done then
        match h.node with
        | some n => commitHeld p wave k (((gone s).updRb p (fun b => { b with dones := b.dones ++ [(n, wave)] })).updSite n (fun x =>
            { x with out := x.out ++ [(2, doneTok false false)], lastActive := s.cycle }))
        | none => commitHeld p wave k (gone s)
      else
        let core := match h.node with
          | some n => (match s.place? n.place with | some y => y.coreAt n | none => p.core)
          | none => p.portCore h.port
        match fabWrite s p core h.hint h.va h.bytes with
        | .ok s1 () => commitHeld p wave k (gone s1)
        | .wait => (s, false)
        | .fault s0 code sub pte =>
          let s1 := s0.updRb p (fun b => { b with stuck := true })
          (match h.node with
           | some n => nodeAccessFault s1 p n code sub h.va pte true 0 0
           | none => match (p.port? h.port).bind (fun q => (q.runs.filter (fun r => h.cmd = some r.cmd) ++ q.runs).head?) with
             | some r => portFreeze s1 p h.port r code sub h.va pte true h.elem .none
             | none => freezeRecord s1 p.asid (accessLate p (portNode p h.port) (.copy p.id) code sub h.va pte true 0 0), false)

/-- Elements and log entries of waves up to this one are held no more. -/
def Port.release (q : Port) (wave : Nat) : Port :=
  let free (e : Elem) : Elem := match e.hold with | some w => if w ≤ wave then { e with hold := none } else e | none => e
  let rel (r : Running) : Running := { r with elems := r.elems.map free }
  let relLog (r : Running) : Running := { r with elems := r.elems.filter (fun e => match e.hold with | some w => decide (w > wave) | none => false) }
  { q with running := q.running.map rel, older := q.older.map rel, logs := q.logs.map relLog }

/-- A wave is complete: a rollback to the one before it has succeeded (R250, R253). -/
def waveDone (s : State) (p : Place) (b : Rollback) : State :=
  let n := b.complete
  let s0 := if b.retries > 0 then taint s p 1 else s
  let s1 := s0.updPlace p.id (fun x => { x with
    rb := x.rb.map (fun y => { y with
      complete := n + 1, retries := 0, atoms := y.atoms.filter (fun k => k.wave > n), dones := y.dones.filter (fun d => d.2 ≥ n) })
    ports := x.ports.map (fun q => { q.release n with saved := q.saved.filter (fun m => n ≤ m.wave && m.wave < waveStart) }) })
  { s1 with
    sites := updBy (fun x => ofLaunch s p x.node) (fun x => { x with snaps := x.snaps.filter (fun k => n ≤ k.wave && k.wave < waveStart) }) s1.sites
    rslots := updBy (fun x => ofLaunch s p x.node) (fun x => { x with snaps := x.snaps.filter (fun k => n ≤ k.wave && k.wave < waveStart) }) s1.rslots }

/-- A segment is complete with its last wave: the next one starts its waves anew. -/
def segmentDone (s : State) (p : Place) (b : Rollback) : State :=
  let s0 := (if b.retries > 0 then taint s p 1 else s).updTask p.asid p.lslot (fun e =>
    { e with flags := b.flags.foldl (fun a f => a ||| f.2.1) e.flags })
  let s1 := s0.updPlace p.id (fun x => { x with
    rb := x.rb.map (fun y => { y with complete := 0, retries := 0, limit := false, passed := [], atoms := [], flags := [], dones := [] })
    ports := x.ports.map (fun q => { q.release waveStart with saved := [], mkAsked := false })
    segFault := [] })
  { s1 with
    sites := updBy (fun x => ofLaunch s p x.node) (fun x => { x with snaps := [] }) s1.sites
    rslots := updBy (fun x => ofLaunch s p x.node) (fun x => { x with snaps := [] }) s1.rslots }

/-- WAVE_COMPLETE: every output has passed the next wave's MARK, or the EOT; its writes are performed. -/
def execWaveComplete (place : Nat) (s : State) : Out :=
  match s.place? place with
  | none => .next s
  | some p => match p.rb with
    | none => .next s
    | some b =>
      let m := wavesPassed s p b
      if b.due || b.stuck || placeDead s p || !p.inst.isNone then .next s
      else if m ≥ 2 ^ 32 then
        match commitHeld p waveStart (b.held.length + 1) s with
        | (s1, true) => .next (segmentDone s1 p b)
        | (s1, false) => .next s1
      else if m > b.complete then
        match commitHeld p b.complete (b.held.length + 1) s with
        | (s1, true) => .next (waveDone s1 p b)
        | (s1, false) => .next s1
      else .next s

/-! ### Rolling back (R252, R83) -/

/-- The wave a region goes back to. -/
def Rollback.target (b : Rollback) : Nat := if b.complete = 0 then waveStart else b.complete - 1

/-- A node's log goes on behind the entries of the wave that goes back: they are kept, and their numbers with them (R258, R259). -/
def OpSt.backFrom (old now : OpSt) : OpSt :=
  match old, now with
  | .mem m, .mem k => .mem { m with logged := k.logged }
  | st, _ => st

/-- A site as its snapshot of a wave holds it; what waits for its results is discarded. -/
def Site.goBack (x : Site) (wave : Nat) : Site :=
  match x.snaps.find? (fun k => k.wave = wave) with
  | none => { x with out := [], ina := [], inb := [], inc := [] }
  | some k =>
    { x with
      out := [], ina := k.ina, inb := k.inb, inc := k.inc, st := k.st.backFrom x.st, flags := k.flags, hdrs := k.hdrs, segOpen := k.segOpen, segOpenB := k.segOpenB
      beats := k.beats, beatsB := k.beatsB
      snaps := [{ k with copied := [], planed := [] }] }

def RSlot.goBack (x : RSlot) (wave : Nat) : RSlot :=
  match x.snaps.find? (fun k => k.wave = wave) with
  | none => { x with out := [], in0 := [], in1 := [], in2 := [] }
  | some k => { x with out := [], in0 := [], in1 := [], in2 := [], st := k.st, hdrs := k.hdrs, segOpen := k.segOpen, beats := k.beats, snaps := [k] }

/-- Log entries of rolled-back waves are marked (R258). -/
def markEntries (s : State) (p : Place) (from_ : Nat) : State :=
  let es := p.ports.flatMap (fun q => q.logs.flatMap (fun r => r.elems.filter (fun e => match e.hold with | some w => decide (w ≥ from_) | none => false)))
  es.foldl (fun st e => (recPut st p.asid (e.addr + 88) [1]).getD st) s

/-- A place's state of a wave has been kept. -/
def Place.hasWave (s : State) (id wave : Nat) : Bool := s.sites.any (fun x => x.node.place = id && x.snaps.any (fun k => k.wave = wave))

/-- The calls a PITCH had as a wave's MARK passed it. -/
def Site.callsAt (x : Site) (wave : Nat) : List Call :=
  match x.snaps.find? (fun k => k.wave = wave) with | some k => (k.st.pitch?).calls | none => []

/-- A place goes on past a rollback to a wave: a region, an instance whose call its PITCH had as the wave's MARK passed, and one
that such an instance, which needs no MARK any more, had called; `k` bounds the depth (R139). -/
def Place.outlives (s : State) (wave : Nat) : Nat → Place → Bool
  | 0, _ => false
  | k + 1, p => match p.inst with
    | none => true
    | some i => match s.site? i.caller, s.place? i.caller.place with
      | some x, some q =>
        q.outlives s wave k && ((x.callsAt wave).any (fun c => c.num = i.call) || q.inst.isSome && !Place.hasWave s q.id wave)
      | _, _ => false

/-- A call as a rollback to a wave leaves it: footprints whose state of the wave is kept go back to it, the others have only their
EOT to pass and go on. -/
def Call.goBack (s : State) (wave : Nat) (old now : Call) : Call :=
  let back (i : Nat) : Bool := match old.callee i with | some e => Place.hasWave s e.place wave | none => false
  { old with
    closed := (List.range old.k).filter (fun i => (if back i then old else now).closed.contains i)
    phys := (old.phys.zip now.phys).map (fun e => if Place.hasWave s e.1.place wave then e.1 else e.2) }

/-- The instances and calls of a region as they go back to a wave: those begun since are struck and their requests leave; the
others are restored with the region, their guy lines and buffered results empty (R139). (DEDUCED, assumption 84.) -/
def callsBack (s : State) (p : Place) (wave : Nat) : State :=
  let mine := s.places.filter (fun x => x.asid = p.asid && x.lslot = p.lslot && x.inst.isSome)
  let stays := (mine.filter (fun x => x.outlives s wave (s.places.length + 1))).map (fun x => x.id)
  let s1 := ((mine.filter (fun x => !stays.contains x.id)).map (fun x => x.id)).foldl strikeInstance s
  let back := (mine.filter (fun x => stays.contains x.id && Place.hasWave s x.id wave)).map (fun x => x.id)
  let lines := (mine.filter (fun x => back.contains x.id)).flatMap (fun x => match x.inst with | some i => i.args ++ i.results | none => [])
  let s2 := s1.updPart p.asid (fun q => q.withdraw s.cycle (fun r => ofLaunch s p r.node && r.unstow.isNone))
  { s2 with
    guy := updBy (fun g => g.asid = p.asid && lines.contains g.route) (fun g => { g with toks := [] }) s2.guy
    places := updBy (fun x => back.contains x.id) (fun x => { x with inst := x.inst.map (fun i => { i with struck := false, buffered := [] }) }) s2.places }

/-- A region's or an instance's sites and slots go back to a wave; an instance that needs no MARK any more goes on. -/
def goesBack (s : State) (p : Place) (wave : Nat) (n : Node) : Bool :=
  ofLaunch s p n && (match s.place? n.place with | some q => q.inst.isNone || Place.hasWave s q.id wave | none => false)

/-- A PITCH's calls after its site has gone back, by what they were before. -/
def Site.callsBack (s : State) (wave : Nat) (before x : Site) : Site :=
  match before.st, x.st with
  | .pitch now, .pitch old =>
    { x with st := .pitch { old with calls := old.calls.filterMap (fun c => (now.call? c.num).map (Call.goBack s wave c)) } }
  | _, _ => x

/-- A region stops, drops what is beyond its last complete wave and restores it; its ports are held until they re-read. The DONEs
of that wave's writes went out behind its MARK, and go out again (R252, R254). -/
def regionBack (s : State) (p : Place) (b : Rollback) : State :=
  let w := b.target
  let s0 := callsBack (markEntries s p b.complete) p w
  -- a call that belongs to a complete wave is not run again, and its flags stand
  let kept := b.flags.filter (fun f => match f.2.2 with | some v => decide (v < b.complete) | none => false)
  let again := b.dones.filter (fun d => d.2 < b.complete)
  let word (f : Nat × BitVec 7) : Nat × BitVec 7 :=
    if b.flags.any (fun g => g.1 = f.1) then (f.1, (kept.filter (fun g => g.1 = f.1)).foldl (fun a g => a ||| g.2.1) 0) else f
  let s1 := s0.updPlace p.id (fun x => { x with
    rb := x.rb.map (fun y => { y with
      due := false, stuck := false, held := [], passed := y.passed.map (fun k => (k.1, min k.2 b.complete)), flags := kept, dones := again })
    segFlags := x.segFlags.map word
    ports := x.ports.map (fun q => { q with held := true }) })
  let owed (x : Site) : List (Nat × Token) := (again.filter (fun d => d.1 = x.node)).map (fun _ => (2, doneTok false false))
  let back (x : Site) : Site := let y := Site.callsBack s1 w x (x.goBack w); { y with out := y.out ++ owed x }
  { s1 with
    sites := updBy (fun x => goesBack s1 p w x.node) back s1.sites
    rslots := updBy (fun x => goesBack s1 p w x.node) (fun x => x.goBack w) s1.rslots
    segs := s1.segs.filter (fun g => !goesBack s1 p w g.node) }

/-- ROLLBACK: the error that fell due is answered; the completion record counts it. -/
def execRollback (place : Nat) (s : State) : Out :=
  match s.place? place with
  | none => .next s
  | some p => match p.rb with
    | none => .next s
    | some b =>
      if !b.due || placeDead s p then .next s
      else
        let s1 := regionBack s p b
        .next ((s1.updPlace p.id (fun x => { x with rb := x.rb.map (fun y => { y with retries := y.retries + 1 }) })).updTask p.asid p.lslot
          (fun e => { e with rollbacks := min 65535 (e.rollbacks + 1) }))

/-! ### Re-reading -/

/-- A command takes part in the waves: its tokens come from or go to the fabric. -/
def inWaves (op : Nat) : Bool := [0x00, 0x01, 0x03, 0x04, 0x05, 0x09, 0x0D, 0x0E, 0x0F].contains op

/-- A command as it goes on from a saved state. One that sends tokens reads its elements again; one that takes them keeps
the elements whose waves have been committed; any other goes on from where it is, if it has not ended. -/
def Running.reread (saved : Running) (now : Option Running) : Option Running :=
  if !inWaves saved.cmd.op then now
  else if writes saved.cmd.op then
    some { saved with elems := (match now with | some r => r.elems.filter (fun e => e.hold.isNone) | none => []), walking := none, frozen := none }
  else some { saved with elems := saved.elems.map (fun e => { e with st := .queued }), walking := none, frozen := none, fallback := true }

/-- The port goes back to its mark of a wave: the commands under way then, and after them those that have come since. -/
def Port.goBack (q : Port) (m : PortMark) : Port :=
  let now := q.runs
  let runs := m.runs.filterMap (fun r => r.reread (now.find? (fun x => x.cmd = r.cmd)))
  let old := m.runs.map (fun r => r.cmd) ++ m.queue
  let newer := (now.map (fun r => r.cmd) ++ q.queue).filter (fun c => !old.contains c)
  { q with
    running := runs.getLast?, older := runs.dropLast, queue := m.queue ++ newer, slots := m.slots, donecnt := m.donecnt, mkBeats := m.mkBeats
    mkWave := m.mkWave, mkAsked := false, segs := m.segs, midSeg := m.midSeg, flags := m.flags, held := false
    saved := if m.wave = waveStart then [] else [m] }

/-- Commands that had ended since the mark and are under way again: they count in their scopes' WORK once more. -/
def Port.revived (q : Port) (m : PortMark) : List QCmd :=
  let now := q.runs.map (fun r => r.cmd) ++ q.queue
  (((m.runs.filter (fun r => inWaves r.cmd.op)).map (fun r => r.cmd)) ++ m.queue).filter (fun c => !now.contains c)

/-- A port of a region re-reads from its counters saved with a wave. -/
def rereadPort (s : State) (p : Place) (wave : Nat) (q : Port) : State :=
  match q.saved.find? (fun m => m.wave = wave) with
  | none => s.updPort p.id q.num (fun y => { y with held := false })
  | some m =>
    let s1 := s.updPort p.id q.num (fun y => y.goBack m)
    (q.revived m).foldl (fun st c => st.updPart p.asid (fun x => x.workUp c.f.cscope.toNat)) s1

/-- Every port of a region that is held goes on from its saved counters. -/
def rereadPorts (s : State) (p : Place) (b : Rollback) : State :=
  (p.ports.filter (fun q => q.held)).foldl (fun st q => rereadPort st p b.target q) s

/-- ROLLBACK_REREAD. -/
def execRollbackReread (place : Nat) (s : State) : Out :=
  match s.place? place with
  | none => .next s
  | some p => match p.rb with
    | none => .next s
    | some b => if b.due || placeDead s p || !partGoes s p then .next s else .next (rereadPorts s p b)

/-! ### RBAREA (R251) -/

/-- Some region of the partition holds copies in its rollback area. -/
def areaInUse (s : State) (asid : Nat) : Bool :=
  s.sites.any (fun x => x.snaps.any (fun k => !k.copied.isEmpty) &&
    (match s.place? x.node.place with | some p => p.asid = asid | none => false))

def writeRbarea (s : State) (asid : Nat) (v : Word) : State :=
  if areaInUse s asid then s
  else s.updPart asid (fun p => { p with rbarea := BitVec.ofNat 64 (bitsOf v.toNat 25 23 * 2 ^ 25) })

/-- RBAREA_WRITE. -/
def execRbareaWrite (asid : Nat) (v : Word) (s : State) : Out := .next (writeRbarea s asid v)

end Sys2Proof.Machine
end

