-- ==== Sys2Proof/Machine/Resume.lean ====
section
/-! DEFINITION. FRESUME (R227, R432): resuming and abandoning what a fault record has frozen. -/

namespace Sys2Proof.Machine

/-! ### Records that become free (R226) -/

/-- A record is free; the oldest freezing fault that waits for one takes it. -/
def freeRec (s : State) (asid addr : Nat) : State :=
  let s1 := s.updPart asid (fun p => { p with recs := p.recs.filter (fun r => r.addr ≠ addr) })
  match (partOf s1 asid).bind (fun p => p.lateFaults.head?) with
  | none => s1
  | some f => freezeRecord (s1.updPart asid (fun p => { p with lateFaults := p.lateFaults.drop 1 })) asid f

/-- A frozen request that the fault of an instance's copy has frozen (R134). -/
def PitchReq.copies (id : Nat) (x : PitchReq) : Bool := x.frozen = 2 && (x.unstow = some id || (x.stowing.getD []).contains id)

/-- The place a record's owner is in. -/
def RecOwner.place? : RecOwner → Option Nat
  | .port place _ => some place
  | .node n => some n.place
  | .pitch n => some n.place
  | .line a => (lineNode a).map (fun n => n.place)
  | .copy place => some place
  | .scalar => none

/-- The place whose work a record has frozen: for a stow copy, that of the requester. -/
def frozenPlace (s : State) (asid : Nat) (r : RecUse) : Option Place :=
  match r.owner with
  | .copy id => match (partOf s asid).bind (fun p => p.curq.find? (PitchReq.copies id)) with
    | some x => s.place? (match x.unstow with | some k => k | none => x.node.place)
    | none => s.place? id
  | _ => r.owner.place?.bind s.place?

/-! ### Resuming -/

/-- A command goes on from its faulting element: what it holds of later elements is read again, and the writes of a
STORE, SCATTER or XPUT, of a FILL and of a FLUSH that are not acknowledged are issued again (R227, R366). -/
def Running.resume (r : Running) : Running :=
  match r.frozen with
  | none => r
  | some n =>
    let again (e : Elem) : Elem :=
      if e.n < n then e
      else match e.st with
        | .bad _ _ _ _ _ _ _ => { e with st := .queued }
        | .done _ => if [0x00, 0x02, 0x03, 0x0E].contains r.cmd.op then { e with st := .queued } else e
        | .sent _ => if [0x01, 0x04, 0x07, 0x0D, 0x11].contains r.cmd.op then { e with st := .queued } else e
        | _ => e
    { r with frozen := none, walking := none, elems := r.elems.map again }

/-- Every frozen command of a port goes on. -/
def Port.resume (q : Port) : Port :=
  { q with running := q.running.map Running.resume, older := q.older.map Running.resume, logs := q.logs.map Running.resume }

/-- The commits and copies of a rollback region that met a fault are tried again. -/
def unstick (s : State) (id : Nat) : State :=
  s.updPlace id (fun p => { p with rb := p.rb.map (fun b => { b with stuck := false, copyFault := false }) })

/-- A fault that can be resumed: an access fault, or a pitch's (R224, R432). -/
def resumable (r : RecUse) : Bool :=
  (8 ≤ r.code && r.code ≤ 12) || (match r.owner with | .pitch _ | .scalar => true | .node _ => r.code = 13 | _ => false)

/-- A lost token of a seam or guy line, or its acknowledgement, is sent again, as it was, by the port that has kept it (R38, R47). -/
def resendToken (s : State) (a : Agent) : State :=
  match s.net.transit.find? (fun x => x.1 = none && (x.2 = .token a || x.2 = .again a)) with
  | none => s
  | some x =>
    let s1 := s.updNet (fun w => { w with transit := dropFirst (fun y => y = x) w.transit })
    match s.net.kept.find? (fun k => k.1 = a) with
    | some (_, seq, body) => sendToken s1 a seq x.2 body
    | none => s1

/-- What was frozen goes on; a port translates anew. -/
def resumeOwner (s : State) (asid : Nat) (r : RecUse) : State :=
  let s1 := match r.owner.place?.bind s.place? with | some p => unstick s (regionOf s p).id | none => s
  match r.owner with
  | .port place port =>
    let s2 := match s1.place? place with
      | some p => dropXlats (s1.updPort place port Port.resume) p port
      | none => s1
    if r.code = 12 then (match s2.place? place with | some p => taint s2 p 1 | none => s2) else s2
  | .node n =>
    let s2 := s1.updSite n (fun x => { x with frozen := false })
    if r.code = 12 then (match s2.place? n.place with | some p => taint s2 p 1 | none => s2) else s2
  | .line a =>
    let s2 := resendToken s1 a
    match (lineNode a).bind (fun n => s2.place? n.place) with | some p => taint s2 p 1 | none => s2
  | .pitch n =>
    s1.updPart asid (fun p =>
      let mine (x : PitchReq) : Bool := x.node = n && x.frozen = 1
      { p with curq := p.curq.filter (fun x => !mine x) ++ (p.curq.filter mine).map (fun x => { x with frozen := 0, waitFrom := s.cycle }) })
  | .copy id => s1.updPart asid (fun p =>
      let kept := p.curq.filter (fun x => !(PitchReq.copies id x && x.unstow.isSome))
      { p with curq := kept.map (fun x => if PitchReq.copies id x then { x with frozen := 0, waitFrom := s.cycle } else x) })
  | .scalar => s1

/-! ### Abandoning -/

/-- A command has sent or taken part of the segment, or stands frozen. -/
def Running.touched (r : Running) : Bool := r.frozen.isSome || r.stage > 0 || r.next > 0 || r.doneN > 0

/-- The commands of a port that a dropped segment ends. -/
def Port.dropped (q : Port) : List QCmd := ((q.runs ++ q.logs).filter Running.touched).map (fun r => r.cmd)

/-- Pitches of a launch leave the Curator (R143). -/
def dropPitches (s : State) (asid slot : Nat) : State :=
  let ids := (placesOf s asid slot).map (fun p => p.id)
  s.updPart asid (fun q => q.withdraw s.cycle (fun r => ids.contains r.node.place))

/-- The records in use for a launch's ports, nodes and pitches stand for nothing any more. -/
def Partition.detach (p : Partition) (ids : List Nat) (slot : Nat) : Partition :=
  { p with
    recs := p.recs.map (fun r => match r.owner, r.owner.place? with
      | .copy _, _ => r
      | _, some k => if ids.contains k then { r with owner := .scalar } else r
      | _, none => r)
    lateFaults := p.lateFaults.filter (fun f => f.lslot ≠ slot) }

/-- The region as a KILL leaves it: its sites, boxes and segments empty, its rollback state as before a segment. -/
def clearRegion (s : State) (p : Place) : State :=
  let s1 := configure s p p.run
  s1.updPlace p.id (fun x => { x with
    ports := x.ports.map (fun q => { q with midSeg := false, saved := [], mkBeats := 0, mkWave := 0, mkAsked := false, held := false })
    rb := x.rb.map (fun b => { b with complete := 0, retries := 0, limit := false, due := false, stuck := false, passed := [], held := [], atoms := [], flags := [], dones := [], copyFault := false })
    segFault := [] })

/-- The segment of a launch is dropped: instances are struck, commands that had part of it end FAULTED. -/
def dropSegment (s : State) (asid slot : Nat) : State :=
  let mine := placesOf s asid slot
  let s1 := dropPitches s asid slot
  let s2 := ((mine.filter (fun x => x.inst.isSome)).map (fun x => x.id)).foldl strikeInstance s1
  let regions := mine.filter (fun x => x.inst.isNone)
  let s3 := regions.foldl (fun st p => p.ports.foldl (fun st q => q.dropped.foldl (fun st c => endCommand st p.id q.num c 2) st) st) s2
  let s4 := regions.foldl (fun st p => match st.place? p.id with | some x => clearRegion st x | none => st) s3
  s4.updPart asid (fun p => p.detach (mine.map (fun x => x.id)) slot)

/-- The launch ends FAULTED and tainted (R74, R227). (DEDUCED, assumption 99.) -/
def abandonOwner (s : State) (asid : Nat) (r : RecUse) : State :=
  match frozenPlace s asid r with
  | none => s
  | some p =>
    if placeDead s p then s
    else (dropSegment s asid p.lslot).updTask asid p.lslot (fun e => { e with status := 1, verdict := 2 })

/-- A write to FRESUME: it names a record in use, or is ignored. -/
def writeFresume (s : State) (asid : Nat) (addr : Nat) (abandon : Bool) : State :=
  match (partOf s asid).bind (fun p => p.recs.find? (fun r => r.addr = addr)) with
  | none => s
  | some r =>
    let dead := match frozenPlace s asid r with | some p => placeDead s p | none => false
    let s1 := if dead then s else if abandon || !resumable r then abandonOwner s asid r else resumeOwner s asid r
    freeRec s1 asid addr

def fresumeAddr (v : Word) : Nat := bitsOf v.toNat 6 42 * 64

/-- FRESUME_RESUME. -/
def execFresumeResume (asid : Nat) (addr : Word) (s : State) : Out := .next (writeFresume s asid (fresumeAddr addr) false)

/-- FRESUME_ABANDON. -/
def execFresumeAbandon (asid : Nat) (addr : Word) (s : State) : Out := .next (writeFresume s asid (fresumeAddr addr) true)

end Sys2Proof.Machine
end

