-- ==== Sys2Proof/Machine/Cancel.lean ====
section
/-! DEFINITION. CANCEL and its acknowledgement: the fates of the work of a subtree (R101, R107-R113, R257, R323). -/

namespace Sys2Proof.Machine

/-! ### Requests of killed work (R108, R110) -/

def Req.kill (f : Req → Bool) (key : Nat) (r : Req) : Req := if f r && r.dead.isNone then { r with dead := some key } else r

def LReq.kill (f : Req → Bool) (key : Nat) (l : LReq) : LReq := { l with req := l.req.map (Req.kill f key) }

/-- Requests and answers on their way carry the ticket of the cancellation that counts them. -/
def killTraffic (s : State) (f : Req → Bool) (g : Resp → Bool) (key : Nat) : State :=
  let k := Req.kill f key
  let l := LReq.kill f key
  { s with
    reqs := s.reqs.map k
    lreqs := s.lreqs.map l
    resps := s.resps.map (fun r => if g r && r.dead.isNone then { r with dead := some key } else r)
    llc := s.llc.map (fun x => { x with queue := x.queue.map l, annex := x.annex.map l })
    slices := s.slices.map (fun x => { x with
      pend := x.pend.map (fun p => { p with waiting := p.waiting.map k, held := p.held.map k })
      groups := x.groups.map (fun p => { p with joined := p.joined.map k })
      waitMcast := x.waitMcast.map k }) }

/-- A cargo is a line that an MCAST under the ticket's scope was to give and that its drop has taken back. -/
def droppedLine (s : State) (key : Nat) (c : Cargo) : Bool :=
  match c, partOf s (key / 2 ^ 32) with
  | .line die core line, some p => match p.tickets.find? (fun k => k.val = key % 2 ^ 32) with
    | some k => s.landing.any (fun l => l.die = die && l.core = core && l.line = line && l.dropped && l.asid = p.asid && p.inSubtree k.scope l.scope)
    | none => false
  | _, _ => false

/-- Requests or answers of a cancellation are still on their way: those that carry its ticket, the steals of its killed thieves, and
the lines of its dropped MCASTs. -/
def trafficOf (s : State) (key : Nat) : Bool :=
  let r (x : Req) : Bool := x.dead = some key
  let l (x : LReq) : Bool := match x.req with | some y => r y | none => false
  s.reqs.any r || s.lreqs.any l || s.resps.any (fun x => x.dead = some key) || s.llc.any (fun x => (x.queue ++ x.annex).any l) ||
  s.slices.any (fun x => x.pend.any (fun p => (p.waiting ++ p.held).any r) || x.groups.any (fun p => p.joined.any r) || x.waitMcast.any r) ||
  s.steals.any (fun x => x.dead = some key && !x.acked && !x.gone) || s.net.transit.any (fun x => droppedLine s key x.2)

/-! ### Commands (R108, R349) -/

/-- Writes of a command that a surviving rollback region has not committed are discarded (R108): how many, and the state. -/
def dropHeld (s : State) (place port : Nat) (c : QCmd) : State × Nat :=
  match s.place? place with
  | none => (s, 0)
  | some p => match p.rb with
    | none => (s, 0)
    | some b =>
      let mine (h : Held) : Bool := h.port = port && h.cmd = some c
      (s.updRb p (fun y => { y with held := y.held.filter (fun h => !mine h) }), (b.held.filter mine).length)

/-- An atomic command's elements on their way. -/
def Running.atoms (r : Running) : Nat :=
  if r.cmd.op = 0x05 || r.cmd.op = 0x0F then (r.elems.filter (fun e => match e.st with | .sent _ => true | _ => false)).length else 0

/-- Read responses that had arrived and were not delivered. -/
def Running.arrived (r : Running) : Nat :=
  if writes r.cmd.op then 0 else (r.elems.filter (fun e => match e.st with | .done _ => true | _ => false)).length

/-- An MCAST that is stopped or dropped: a notice sets out to every named core for each line it will not be sent, and for
those it was, taken or not (R360). (DEDUCED, assumption 103.) -/
def dropMcast (s : State) (place port : Nat) (c : QCmd) (next : Nat) : State :=
  match s.place? place with
  | none => s
  | some p =>
    let at_ (n : Nat) : Nat := c.f.base.toNat + 128 * n
    let total := cmdCount 0x06 c.f
    let rest := ((List.range total).filter (fun n => next ≤ n)).flatMap (fun n => (mcastCores c.f).map (fun k =>
      ({ die := p.die, core := k, line := at_ n / 128, va := at_ n, base := c.f.base.toNat, place := place, port := port, asid := p.asid, scope := c.f.cscope.toNat
         inflight := none, data := none, lost := none, fixed := false, dropped := true } : Landing)))
    let mine (l : Landing) : Bool := l.place = place && l.port = port && l.base = c.f.base.toNat && (List.range total).any (fun n => l.va = at_ n)
    { s with landing := updBy mine (fun l => { l with dropped := true, inflight := none, data := none }) s.landing ++ rest }

/-- A command is dropped or stopped: its requests go on for the cancellation only, and it ends CANCELLED.
(DESIGN CHOICE, assumption 100.) -/
def killCommand (s : State) (place port key : Nat) (c : QCmd) (run : Option Running) : State :=
  let nos := match run with | some r => r.elems.filterMap (fun (e : Elem) => match e.st with | .sent n => some n | _ => none) | none => []
  -- its writes that a slice has acknowledged and the LLC has not performed count as well (R110, R433)
  let live := match (s.place? place).bind (fun p => p.port? port) with
    | some q => (q.runs.filter (fun (r : Running) => r.cmd ≠ c)).flatMap (fun (r : Running) => r.elems.filterMap (fun (e : Elem) => match e.st with | .sent n => some n | _ => none))
    | none => []
  let acked (r : Req) : Bool := run.isSome && (match r.kind with | .write _ => true | _ => false) && !live.contains r.elem
  let s1 := killTraffic s (fun r => r.place = place && r.port = port && (nos.contains r.elem || acked r))
    (fun r => r.place = place && r.port = port && nos.contains r.elem) key
  let s2 := match run with
    | some r => bumpTicket (bumpTicket s1 key 5 r.atoms) key 4 r.arrived
    | none => s1
  let (s2b, held) := dropHeld s2 place port c
  let parked := match run with | some r => (r.elems.filter (fun e => e.hold.isSome)).length | none => 0
  let s2c := bumpTicket s2b key 6 (held + if writes c.op then parked else 0)
  let s3 := if c.op = 0x06 then dropMcast s2c place port c (match run with | some r => r.next | none => 0) else s2c
  let s4 := s3.updPort place port (fun q => { q with queue := q.queue.filter (fun x => x ≠ c) })
  bumpTicket (endCommand s4 place port c 3) key 3 1

/-- Every command of a place that satisfies a condition is killed. -/
def killCommands (s : State) (p : Place) (key : Nat) (f : QCmd → Bool) : State :=
  p.ports.foldl (fun st q =>
    let s1 := ((q.runs ++ q.logs).filter (fun r => f r.cmd)).foldl (fun st r => killCommand st p.id q.num key r.cmd (some r)) st
    (q.queue.filter f).foldl (fun st c => killCommand st p.id q.num key c none) s1) s

/-! ### Launches and instances (R108, R112) -/

/-- A place had taken a SOT and not yet passed its EOT. -/
def midSegment (s : State) (p : Place) : Bool := !placeQuiet s p

/-- A call of a PITCH that survives is void from now on (R108, R413). -/
def strikeCall (s : State) (n : Node) (num : Nat) : State :=
  s.updPitch n (fun q => q.upd num (fun c => { c with struck := true }))

/-- A thread of a killed launch stops; an FLOAD it waits in completes (R108, R323). -/
def Thread.kill (t : Thread) : Thread :=
  { t with run := .stopped, async := [], wait := match t.wait with | .fload _ _ _ _ _ => t.wait | _ => .none }

/-- The running launch in a slot is killed: its thread stops, its instances are struck, its region holds nothing. -/
def killLaunch (s : State) (asid key : Nat) (e : TgEntry) : State :=
  let mine := placesOf s asid e.slot
  let regions := mine.filter (fun x => x.inst.isNone)
  let ids := mine.map (fun x => x.id)
  let segs := (mine.filter (midSegment s)).length
  let pitches := match partOf s asid with | some p => (p.curq.filter (fun r => ids.contains r.node.place && r.unstow.isNone)).length | none => 0
  let insts := (mine.filter (fun x => x.inst.isSome)).length
  let held := (mine.map (fun x => match x.rb with | some b => (b.held.filter (fun h => !h.done && h.cmd.isNone)).length | none => 0)).sum
  let s0 := bumpTicket (bumpTicket (bumpTicket (bumpTicket s key 0 1) key 1 segs) key 2 (insts + pitches)) key 6 held
  let s1 := regions.foldl (fun st p => killCommands st p key (fun _ => true)) s0
  let s2 := dropPitches s1 asid e.slot
  let s3 := ((mine.filter (fun x => x.inst.isSome)).map (fun x => x.id)).foldl strikeInstance s2
  let s4 := regions.foldl (fun st p => match st.place? p.id with | some x => clearRegion st x | none => st) s3
  let s5 := killTraffic s4 (fun r => ids.contains r.place) (fun r => ids.contains r.place) key
  let threads := (s5.threads.filter (fun t => !t.id.isSys && t.asid = asid && t.lslot = e.slot)).map (fun t => t.id)
  let busy := s5.threads.any (fun t => threads.contains t.id && t.run = .running &&
    (match t.wait with | .ring _ _ _ | .barrier _ | .launch _ | .ticket _ => false | _ => true))
  let s5b := if busy then stir s5 asid else s5
  let s6 := threads.foldl abandonRing { s5b with
    threads := updBy (fun t => threads.contains t.id) Thread.kill s5.threads
    steals := updBy (fun x => threads.contains x.thief && x.dead.isNone) (fun x => { x with dead := some key }) s5.steals
    places := updBy (fun x => ids.contains x.id) (fun x => { x with killed := true }) s5.places }
  let s6 := s6.updPart asid (fun p => { p with parked := updBy (fun t => !t.id.isSys && t.lslot = e.slot) Thread.kill p.parked })
  let s7 := s6.updTask asid e.slot (fun x => { x with killed := true, threadDone := true, status := 2 })
  -- records in use for the killed work are free (R227)
  let recs := match partOf s7 asid with
    | some p => p.recs.filter (fun (r : RecUse) => match r.owner.place? with | some k => ids.contains k | none => false)
    | none => []
  let s8 := s7.updPart asid (fun p => { p with lateFaults := p.lateFaults.filter (fun f => f.lslot ≠ e.slot) })
  recs.foldl (fun st r => freeRec st asid r.addr) s8

/-- Buffered stores of the killed threads were issued and stay: they are performed, at once or, where one has to wait, before the
acknowledgement (R108, R110, R314). (DEDUCED, assumption 101.) -/
def drainKilled (s : State) (asid : Nat) (slot : Nat) : State :=
  (s.threads.filter (fun t => !t.id.isSys && t.asid = asid && t.lslot = slot)).foldl (fun st t =>
    match drainList t t.stbuf st with | some (s1, _) => s1.updThread t.id (fun u => { u with stbuf := [] }) | none => st) s

/-- Stores of the killed threads of a launch still wait. -/
def killedStores (s : State) (asid slot : Nat) : Bool :=
  s.threads.any (fun t => !t.id.isSys && t.asid = asid && t.lslot = slot && !t.stbuf.isEmpty)

/-- Instances and pitches of the subtree whose caller survives. (DESIGN CHOICE, assumption 102.) -/
def killCalls (s : State) (asid key : Nat) (hit : Nat → Bool) : State :=
  let insts := s.places.filter (fun x => x.asid = asid && x.inst.isSome && hit x.scope && !x.killed)
  let s1 := insts.foldl (fun st x =>
    let s2 := bumpTicket (bumpTicket (strikeInstance st x.id) key 2 1) key 1 (if midSegment s x then 1 else 0)
    match x.inst with | some i => strikeCall s2 i.caller i.call | none => s2) s
  match partOf s1 asid with
  | none => s1
  | some p =>
    let gone := p.curq.filter (fun r => hit r.scope && r.unstow.isNone && r.frozen ≠ 3)
    let s2 := s1.updPart asid (fun q => q.withdraw s.cycle gone.contains)
    gone.foldl (fun st r => bumpTicket (strikeCall st r.node r.call) key 2 1) s2

/-! ### Barriers (R109) -/

/-- What a barrier becomes when the root `t` is cancelled: the barrier, participants removed, whether a phase
completed. -/
def Barrier.cancel (p : Partition) (b : Barrier) (t : Nat) : Barrier × Nat × Bool :=
  if b.n = 0 then (b, 0, false)
  else if p.inSubtree t b.scope then ({ b with dead := true }, 0, false)
  else if p.childOf b.scope p.scopes.length t ≠ some t then (b, 0, false)
  else if b.arrived.contains t then ({ b with leaving := b.leaving + 1 }, 1, false)
  else
    let c := { b with n := b.n - 1 }
    if c.n = 0 then ({ c with dead := true }, 1, false)
    else if c.arrived.length ≥ c.n then (c.complete, 1, true)
    else (c, 1, false)

def killBarriers (s : State) (asid key root : Nat) : State :=
  match partOf s asid with
  | none => s
  | some p =>
    let rs := p.bars.map (fun b => b.cancel p root)
    let s0 := rs.foldl (fun st r => if r.1.dead then tellBarrier st asid r.1.id none
      else if r.2.2 then tellBarrier st asid r.1.id (some r.1.phase) else st) s
    let s1 := s0.updPart asid (fun q => { q with bars := rs.map (fun r => r.1) })
    let s2 := bumpTicket s1 key 7 (rs.map (fun r => r.2.1)).sum
    if rs.any (fun r => r.2.2) then s2.setEvents asid (fun _ => true) else s2

/-! ### Rings (R101) -/

/-- Open claims of the subtree become VOID commits with undefined granules, its reservations are retired and its waits return CANCELLED. A block
whose line has to wait is tried again before the acknowledgement. -/
def killRing (s : State) (asid key : Nat) (hit : Nat → Bool) (r0 : Ring) : State :=
  let gone := r0.waiters.filter (fun w => hit w.scope)
  let s0 := gone.foldl (fun st w => tellWaiter st w (.status 2))
    (s.setRing { r0 with waiters := r0.waiters.filter (fun w => !hit w.scope) })
  match s0.ring? asid r0.block with
  | none => s0
  | some r =>
    let open_ := r.claims.filter (fun c => c.st = .opened && hit c.scope)
    let held := r.resvs.filter (fun c => !c.retired && hit c.scope)
    if open_.isEmpty && held.isEmpty then s0
    else match readBytes s0 (some r.die) 3 r.xl 64 with
      | .ok s1 bs =>
        let b := ringBlock bs
        let r1 := { r with
          claims := updBy (fun c => c.st = .opened && hit c.scope) (fun c => { c with st := .void }) r.claims
          resvs := updBy (fun c => !c.retired && hit c.scope) (fun c => { c with retired := true }) r.resvs }
        let (b2, r2) := ringAdvance { b with voids := (b.voids + open_.length) % 2 ^ 32 } r1
        let scopes := open_.map (fun c => c.scope) ++ held.map (fun c => c.scope)
        let s2 := s1.updPart asid (fun p => scopes.foldl Partition.workDown p)
        (match ringPut s2 r2 r.xl b2 with
         | some s3 =>
           let s4 := open_.foldl (fun st c => freeGranules asid b.base b.lgn c.n st c.pos) s3
           bumpTicket (ringEvents s4 asid r.block b b2) key 8 open_.length
         | none => s0)
      | _ => s0

def killRings (s : State) (asid key : Nat) (hit : Nat → Bool) : State :=
  (s.rings.filter (fun r => r.asid = asid)).foldl (fun st r =>
    let st1 := ringFresh st asid r.block
    match st1.ring? asid r.block with | some x => killRing st1 asid key hit x | none => st1) s

/-- Some ring still has a claim or reservation of the subtree. -/
def ringsOpen (s : State) (asid : Nat) (hit : Nat → Bool) : Bool :=
  s.rings.any (fun r => r.asid = asid &&
    (r.claims.any (fun c => c.st = .opened && hit c.scope) || r.resvs.any (fun c => !c.retired && hit c.scope)))

/-! ### The kill point (R108) -/

/-- Waits of threads that run on, whose scope tag is killed, return CANCELLED (R323). -/
def killWaits (s : State) (asid : Nat) (hit : Nat → Bool) : State :=
  { s with threads := updBy (fun t => t.asid = asid && t.run ≠ .stopped && !t.scopeFree && hit t.scope &&
      (match t.wait with | .barrier _ | .launch _ | .ticket _ => true | _ => false)) (fun t => { t with wait := .killed }) s.threads }

/-- The fates of the work of a subtree, in one cycle. (DEDUCED, assumption 119.) -/
def killSubtree (s : State) (asid key root : Nat) : State :=
  match partOf s asid with
  | none => s
  | some p =>
    let ids := (p.scopes.filter (fun x => p.inSubtree root x.id)).map (fun x => x.id)
    let hit (k : Nat) : Bool := ids.contains k
    let s1 := killBarriers s asid key root
    let running := p.tasks.filter (fun e => e.st = .running && hit e.scope && !e.killed)
    let s2 := running.foldl (fun st e => killLaunch (drainKilled st asid e.slot) asid key e) s1
    let s3 := s2.updPart asid (fun q => { q with scopes := updBy (fun x => hit x.id) (fun x => { x with cancelled := true }) q.scopes })
    let s4 := killCalls s3 asid key hit
    let s5 := (s4.places.filter (fun x => x.asid = asid && !x.killed)).foldl (fun st x => killCommands st x key (fun c => hit c.f.cscope.toNat)) s4
    let waiting := p.tasks.filter (fun e => (e.st = .pending || e.st = .held || e.st = .ready) && hit e.scope)
    let s6 := waiting.foldl (fun st e =>
      match (partOf st asid).bind (fun q => q.task? e.slot) with
      | some x => if x.st = .complete then st else bumpTicket (cancelEntry st asid e.slot) key 0 1
      | none => st) s5
    let s7 := killWaits (killRings s6 asid key hit) asid hit
    -- landing lines of MCASTs that had ended (R360)
    { s7 with landing := updBy (fun l => l.asid = asid && hit l.scope) (fun l => { l with dropped := true, inflight := none, data := none }) s7.landing }

/-- CANCEL: marks the subtree, applies the fates and returns a ticket (R107, R108, R111). -/
def execCancel (d a b : Reg) (s : State) : Out :=
  onCur s (fun t =>
    let v := (t.reg a).toNat
    let at_ := (t.reg b).toNat
    let done (s' : State) (c n : Nat) : State := s'.updThread t.id (fun u => u.report d 0x2F 3 c (BitVec.ofNat 64 n))
    if at_ % 64 ≠ 0 then misaligned s t (t.reg b)
    else onPart s t (done s 3 0) (fun p =>
      if v ≥ 2 ^ 16 then done s 3 0
      else if v = 0 then done s 6 0
      else if !p.scopeExists v then done s 3 0
      else if (p.tickets.filter (fun k => !k.acked)).length ≥ 16 then done s 4 0
      else
        let val := v * 2 ^ 16 + p.tickSeq
        let k : Ticket :=
          { val := val, scope := v, addr := at_, owner := some t.id, acked := false, killCycle := s.cycle, counts := List.replicate 11 0 }
        let s1 := s.setPart { p with tickets := p.tickets ++ [k], tickSeq := (p.tickSeq + 1) % 2 ^ 16 }
        let s2 := if p.scopeCancelled v then s1 else killSubtree s1 p.asid (deadKey p.asid val) v
        done s2 0 val))

/-! ### Acknowledgement (R110-R112) -/

/-- The 64 bytes of a cancellation record. -/
def cancelBytes (k : Ticket) (cycles dqleft : Nat) : List Byte :=
  let c (i : Nat) : Nat := k.counts.getD i 0
  natBytes 4 k.val ++ natBytes 2 k.scope ++ natBytes 2 0 ++ natBytes 8 cycles ++ natBytes 4 (c 0) ++ natBytes 4 (c 1) ++ natBytes 4 (c 2) ++
  natBytes 4 (c 3) ++ natBytes 4 (c 4) ++ natBytes 4 (c 5) ++ natBytes 4 (c 6) ++ natBytes 2 (c 7) ++ natBytes 2 (c 8) ++
  natBytes 4 (min (2 ^ 32 - 1) dqleft) ++ natBytes 4 (c 10) ++ natBytes 8 0

/-- The launches a cancellation has killed complete: their regions return and their records are written. -/
def finishKilled (s : State) (asid : Nat) (hit : Nat → Bool) : State :=
  match partOf s asid with
  | none => s
  | some p => (p.tasks.filter (fun e => e.st = .running && e.killed && hit e.scope)).foldl (fun st e =>
      match (partOf st asid).bind (fun q => q.task? e.slot) with
      | some x => finishLaunch st asid x
      | none => st) s

/-- CANCEL_ACKNOWLEDGE: once no request of the killed work is on its way and every change is applied, the records are
written and the ticket is acknowledged; never before an older ticket on the scope or an ancestor. -/
def execCancelAcknowledge (asid ticket : Nat) (s : State) : Out :=
  match partOf s asid with
  | none => .next s
  | some p0 => match p0.tickets.find? (fun k => k.val = ticket && !k.acked) with
    | none => .next s
    | some k0 =>
      let under (a b : Nat) : Bool := p0.inSubtree a b
      let older := p0.tickets.takeWhile (fun k => k.val ≠ ticket)
      let hit (x : Nat) : Bool := under k0.scope x
      let below := p0.tickets.filter (fun k => !k.acked && hit k.scope)
      let loads := s.threads.any (fun t => t.asid = asid && t.run = .stopped && (match t.wait with | .fload _ _ _ _ _ => true | _ => false) &&
        (match p0.task? t.lslot with | some e => e.killed && hit e.scope | none => false))
      if older.any (fun k => !k.acked && under k.scope k0.scope) || below.any (fun k => trafficOf s (deadKey asid k.val)) || loads then .next s
      else
        let killed := p0.tasks.filter (fun e => e.st = .running && e.killed && hit e.scope)
        let s0 := killed.foldl (fun st e => drainKilled st asid e.slot) s
        let s1 := killRings s0 asid (deadKey asid ticket) hit
        if ringsOpen s1 asid hit || killed.any (fun e => killedStores s1 asid e.slot) then .next s1
        else
          let s2 := finishKilled s1 asid hit
          match (partOf s2 asid), (partOf s2 asid).bind (fun p => p.tickets.find? (fun k => k.val = ticket && !k.acked)) with
          | some p, some k =>
            let dqleft := (p.deques.map (fun q => (q.entries.filter (fun e => hit (entryScope e))).length)).sum
            let k1 := { k with acked := true, counts := k.counts.set 9 dqleft }
            let kept := p.tickets.filter (fun x => x.val ≠ ticket)
            let acked := kept.filter (fun x => x.acked)
            let s3 := s2.setPart { p with tickets := kept.filter (fun x => !x.acked) ++ acked.drop (acked.length - 15) ++ [k1] }
            let s4 := match recPut s3 asid k.addr (cancelBytes k (s.cycle - k.killCycle) dqleft) with
              | some x => x
              | none => postSupervisor s3 asid 42 (BitVec.ofNat 64 ticket) false
            .next (stir (match k.owner with | some t => s4.setEvent t | none => s4) asid)
          | _, _ => .next s2

end Sys2Proof.Machine
end

