-- ==== Sys2Proof/Machine/Matrix.lean ====
section
/-! DEFINITION. Matrix nodes: MMA, MZERO, MDRAIN and the tokens they meet (R167-R170, R192-R195, R298, R406). -/

namespace Sys2Proof.Machine

/-! ### CTRL tokens (R192, R298) -/

/-- A format is one of some. -/
def isOf (l : List Nat) (f : Nat) : Bool := l.contains f

/-- The pairs of formats a matrix node takes, in either order. -/
def pairOk (a b : Nat) : Bool :=
  let both (l m : List Nat) : Bool := (isOf l a && isOf m b) || (isOf l b && isOf m a)
  both [3, 4] [3, 4] || both [3, 4] [5] || both [5] [5] || both [1, 2] [1, 2] || both [8, 10] [8, 10] || both [8, 10] [9] || both [9] [9]

def dimOk (n : Nat) : Bool := n = 1 || n = 2 || n = 4

/-- The tile scale of a CTRL field: absent, or finite. -/
def tileScaleOk (tile : Bool) (v : BitVec 32) : Bool := if tile then !fp32Special v.toNat else v = 0

/-- Whether a CTRL token's fields are such as its op takes. -/
def ctrlOk (op : Nat) (c : CtrlF) : Bool :=
  let idle := c.tsb = 0 && c.tsa = 0 && c.rs = 0 && c.scale = 0 && c.fmtb = 0 && c.fmta = 0 && c.kg = 0 && !c.acc
  let kind := c.scale.toNat % 4
  c.rsv2 = 0 && c.rsv7 = 0 &&
  match op with
  | 0x51 => dimOk c.mg.toNat && dimOk c.ng.toNat && 1 ≤ c.kg.toNat && c.kg.toNat ≤ 256 && pairOk c.fmta.toNat c.fmtb.toNat &&
      c.scale.toNat < 4 && (kind = 0 || c.fmta.toNat ≤ 5) && tileScaleOk (kind ≥ 2) c.tsa && tileScaleOk (kind ≥ 2) c.tsb
  | 0x52 => idle && c.mg = 0 && c.ng = 0
  | _ => idle && dimOk c.mg.toNat && dimOk c.ng.toNat

/-! ### Operands (R179, R189, R190, R406) -/

/-- An operand as it stands in two tiles: its beats in order, its format, its width, the beats of data before the sidecar. -/
structure Operand where
  beats : List Token
  fmt : Nat
  data : Nat
  sidecar : Bool
  ts : Option Nat

/-- Beats alternate between two tiles, the first tile's first. -/
def alternate : List Token → List Token → List Token
  | [], l => l
  | x :: l, m => match m with
    | y :: r => x :: y :: alternate l r
    | [] => x :: l

def Operand.elem (o : Operand) (e : Nat) : Nat × Bool :=
  let per := 512 / fmtWidth o.fmt
  match o.beats[e / per]? with
  | some t => (t.elem (fmtWidth o.fmt) (e % per), t.live (fmtWidth o.fmt) (e % per))
  | none => (0, false)

/-- Scale byte `b` of the sidecar. -/
def Operand.scaleByte (o : Operand) (b : Nat) : Nat :=
  match o.beats[o.data + b / 64]? with
  | some t => bitsOf t.pay.toNat (8 * (b % 64)) 8
  | none => 0

/-- The scaled value of an element, with the flags of reading it (R190); a masked element is +0. -/
def Operand.val (o : Operand) (f : Fmt) (e blk : Nat) : Val × Flags :=
  let (n, live) := o.elem e
  if !live then (.num false 0 0, 0)
  else
    let x := f.read n
    let nan := flagIf x.isNan fNanIn
    let sb := if o.sidecar then o.scaleByte blk else 127
    if x.isNan || sb = 255 then (.nan, nan ||| fNanIn)
    else
      let (y, f1) := mulVals x (.num false 1 ((sb : Int) - 127))
      match o.ts with
      | some t => let (z, f2) := mulVals y (fp32.read t); (z, f1 ||| f2)
      | none => (y, f1)

/-- The integer of an element; a masked one is 0 (R195). -/
def Operand.int (o : Operand) (e : Nat) : Int :=
  let (n, live) := o.elem e
  if live then (if o.fmt = 10 then (n : Int) else signed (fmtWidth o.fmt) n) else 0

/-! ### One MMA (R193-R195) -/

/-- The exact sum of one group's terms, rounded once. -/
def roundGroup (rs : Rs) (terms : List (Val × Flags)) : Nat × Flags :=
  let fl := (terms.map (fun t => t.2)).foldl (fun a b => a ||| b) 0
  let vs := terms.map (fun t => t.1)
  let opposed := flagIf (vs.any (fun v => v = .inf false) && vs.any (fun v => v = .inf true)) fInvalid
  if vs.any Val.isNan || opposed ≠ 0 then (fp32.nan, fl ||| opposed)
  else
    let (r, g) := fp32.put rs (sumVals rs.mode vs).1
    (r, fl ||| g)

/-- A product of two elements with their flags. -/
def mulTerm (x y : Val × Flags) : Val × Flags :=
  let (v, f) := if x.1.isNan || y.1.isNan then (Val.nan, 0) else mulVals x.1 y.1
  (v, x.2 ||| y.2 ||| f)

/-- The accumulator element at row i, column j after the groups from `g` on. -/
def mmaElem (c : CtrlF) (a b : Operand) (i j : Nat) : Nat → Nat → Nat → Flags → Nat × Flags
  | 0, _, acc, fl => (acc, fl)
  | k + 1, g, acc, fl =>
    let m := 16 * c.mg.toNat
    let nn := 16 * c.ng.toNat
    let keep := g > 0 || c.acc
    let rs := rsOf c.rs
    let ea (t : Nat) : Nat := g * m * 16 + i * 16 + t
    let eb (t : Nat) : Nat := g * 16 * nn + t * nn + j
    let (v, f) := match floatFmt a.fmt, floatFmt b.fmt with
      | some fa, some fb =>
        let terms := (List.range 16).map (fun t =>
          let kk := 16 * g + t
          mulTerm (a.val fa (ea t) (i * ((16 * c.kg.toNat + 31) / 32) + kk / 32)) (b.val fb (eb t) (kk * ((nn + 31) / 32) + j / 32)))
        let old := fp32.read acc
        roundGroup rs (if keep then (old, flagIf old.isNan fNanIn) :: terms else terms)
      | _, _ =>
        let sum := (List.range 16).foldl (fun z t => z + a.int (ea t) * b.int (eb t)) (if keep then signed 32 acc else 0)
        fitInt 32 true rs.sat sum
    mmaElem c a b i j k (g + 1) v (fl ||| f)

/-- The active accumulator after an MMA, row-major in 64 columns, with the flags raised. -/
def mmaAll (c : CtrlF) (a b : Operand) (active : List (BitVec 32)) : List (BitVec 32) × Flags :=
  let res := (List.range 4096).map (fun e =>
    let old := (active.getD e 0).toNat
    if e / 64 < 16 * c.mg.toNat ∧ e % 64 < 16 * c.ng.toNat then mmaElem c a b (e / 64) (e % 64) c.kg.toNat 0 old 0
    else (old, 0))
  (res.map (fun r => BitVec.ofNat 32 r.1), (res.map (fun r => r.2)).foldl (fun x y => x ||| y) 0)

/-! ### The tiles around a node (R167, R406) -/

/-- The four tiles: west, north, east, south. -/
def aroundOf (n : Node) : List Node :=
  [{ n with x := n.x - 1 }, { n with y := n.y - 1 }, { n with x := n.x + 1 }, { n with y := n.y + 1 }]

/-- The DATA beats of the full buffer a BUF tile reads next. -/
def bufBeats (s : State) (n : Node) : Option (List Token) :=
  match s.site? n with
  | some x => match x.st with
    | .tile _ bufs _ _ _ rd => match bufs[rd % bufs.length]? with
      | some (l, true) => some (l.filter (fun t => !t.kind.framing))
      | _ => none
    | _ => none
  | none => none

/-- The buffer a tile reads next is set empty. -/
def freeBuf (s : State) (n : Node) : State :=
  s.updSite n (fun x => match x.st with
    | .tile rows bufs f g wr rd =>
      { x with st := .tile rows (setAt bufs (rd % bufs.length) ([], false)) f g wr ((rd + 1) % bufs.length), lastActive := s.cycle }
    | _ => x)

/-- Data beats and sidecar beats of an operand of some rows and columns. -/
def operandBeats (fmt rows cols scale : Nat) : Nat × Nat :=
  (rows * cols * fmtWidth fmt / 512, if scale % 2 = 1 then (rows * ((cols + 31) / 32) + 63) / 64 else 0)

/-! ### The node's step -/

/-- Context of a matrix node with the fields of its cell word. -/
def matrixCtx (s : State) (n : Node) : Option Ctx :=
  match cellAt s n with
  | some w => siteCtx s n 0x51 (cellFields w)
  | none => none

/-- Tokens that are no CTRL: framing as R151 states, of which nothing is sent on; KILL; anything else is a KIND fault. -/
def matrixOther : CellOps :=
  { data := [0], idx := [], frameOuts := [], fire := fun _ => .fault 3, hdr := fun _ => .ok [], flush := fun c => ([], c.x.st)
    sot := fun c => c.x.st, kill := fun _ => .matrix [] [] false, eot := fun c => .go [] c.x.st 0 [] }

/-- A CTRL token at the node, met by the drain's state only as R169 says: a VOID one does nothing but mark the result, one that breaks R298 is a CTRL fault. -/
def matrixStep (n : Node) (op : Nat) (f : CtrlF) (go : Ctx → State) (s : State) : Out :=
  match matrixCtx s n with
  | none => .next s
  | some c0 =>
    let c := checkHeads c0 [0]
    if rollDue c.s c.place then .next c.s
    else match c.head 0 with
      | none => .next c.s
      | some t =>
        if t.kind = .kill then .next (meet c matrixOther)
        else if t.kind ≠ .ctrl then .next (meet { c with w := { c.w with outen := 0 } } matrixOther)
        else if t.void then
          .next (c.done [0] [] (match c.x.st with | .matrix a o _ => .matrix a o true | st => st) 0 (fun x => x))
        else if t.pay.toNat % 256 ≠ op || t.pay.toNat / 2 ^ 128 ≠ 0 || !ctrlOk op f then .next (c.fail 6)
        else .next (go c)

/-- The beats a matrix node reads are checked as any consumer checks a token (R199, R200). -/
def inspectBeats (n : Node) (p : Place) : List Token → State → State × List Token
  | [], s => (s, [])
  | t :: l, s =>
    let (s1, u) := inspect s p n t true
    let (s2, us) := inspectBeats n p l s1
    (s2, u :: us)

/-- MMA: waits for the four buffers; one whose beats are not what the CTRL needs is a CTRL fault and stays. -/
def execMma (n : Node) (f : CtrlF) (s : State) : Out :=
  matrixStep n 0x51 f (fun c =>
    let bufs := (aroundOf n).map (bufBeats c.s)
    match bufs, c.x.st with
    | [some w, some no, some e, some so], .matrix act oth v =>
      let (da, sa) := operandBeats f.fmta.toNat (16 * f.mg.toNat) (16 * f.kg.toNat) f.scale.toNat
      let (db, sb) := operandBeats f.fmtb.toNat (16 * f.kg.toNat) (16 * f.ng.toNat) f.scale.toNat
      let fits (tot : Nat) (x y : List Token) : Bool := x.length = (tot + 1) / 2 && y.length = tot / 2
      if !fits (da + sa) w no || !fits (db + sb) e so then c.fail 6
      else
        let (s1, w) := inspectBeats n c.place w c.s
        let (s2, no) := inspectBeats n c.place no s1
        let (s3, e) := inspectBeats n c.place e s2
        let (s4, so) := inspectBeats n c.place so s3
        let tile := f.scale.toNat / 2 % 2 = 1
        let opnd (beats : List Token) (fmt data : Nat) (ts : BitVec 32) : Operand :=
          { beats := beats, fmt := fmt, data := data, sidecar := f.scale.toNat % 2 = 1, ts := if tile then some ts.toNat else none }
        let (act1, fl) := mmaAll f (opnd (alternate w no) f.fmta.toNat da f.tsa) (opnd (alternate e so) f.fmtb.toNat db f.tsb) act
        let void := (f.acc && v) || (w ++ no ++ e ++ so).any (fun t => t.void)
        (aroundOf n).foldl freeBuf ({ c with s := s4 }.done [0] [] (.matrix act1 oth void) fl (fun x => x))
    | _, _ => c.s) s

/-- MZERO: the whole active buffer is zero. -/
def execMzero (n : Node) (f : CtrlF) (s : State) : Out :=
  matrixStep n 0x52 f (fun c =>
    match c.x.st with
    | .matrix _ oth _ => c.done [0] [] (.matrix [] oth false) 0 (fun x => x)
    | _ => c.s) s

/-- The segment of a drain (R169). (DESIGN CHOICE, assumption 52.) -/
def drainSegment (seg m n : Nat) (act : List (BitVec 32)) (void : Bool) : List Token :=
  plainTok .sot seg :: plainTok .hdr (1 + m * 2 ^ 32 + n * 2 ^ 48 + seg * 2 ^ 160) ::
    ((List.range (m * n / 16)).map (fun b =>
      let at_ (l : Nat) : Nat := (16 * b + l) / n * 64 + (16 * b + l) % n
      let pay := packVals 32 ((List.range 16).map (fun l => ((act.getD (at_ l) 0).toNat, true)))
      mkTok .data (BitVec.ofNat 512 pay) (BitVec.allOnes 64) false void) ++ [plainTok .eot 0])

/-- MDRAIN: the buffers change places; it waits while the other is still draining. -/
def execMdrain (n : Node) (f : CtrlF) (s : State) : Out :=
  matrixStep n 0x53 f (fun c =>
    match c.x.st with
    | .matrix act oth v =>
      if !c.x.out.isEmpty then c.s
      else c.done [0] ((drainSegment c.segno (16 * f.mg.toNat) (16 * f.ng.toNat) act v).map (fun t => (0, t)))
        (.matrix oth act false) 0 (fun x => x)
    | _ => c.s) s

end Sys2Proof.Machine
end

