-- ==== Sys2Proof/Machine/Parts.lean ====
section
/-! DEFINITION. Partitions: PARTCMD and PARTSTAT (R63-R65), HALT and RESUME (R83), the DRAIN and FILL copies (R65), and
SWAPP (R66, R345). -/

namespace Sys2Proof.Machine

/-! ### The partition record (R63) -/

structure PartRec where
  asid : Nat
  plane : Nat
  ptroot : Nat
  catbase : Nat
  catcount : Nat
  homedie : Nat
  homecore : Nat
  rects : List Rect
  ok : Bool
  deriving DecidableEq, Repr

/-- A rectangle lies within its die. -/
def Rect.inDie (r : Rect) : Bool :=
  r.col < 8 && r.row < 4 && 1 ≤ r.cols && r.cols ≤ 8 && 1 ≤ r.rows && r.rows ≤ 4 && r.col + r.cols ≤ 8 && r.row + r.rows ≤ 4

/-- A rectangle holds a core of its die. -/
def Rect.hasCore (r : Rect) (c : Nat) : Bool := r.col ≤ c % 8 && c % 8 < r.col + r.cols && r.row ≤ c / 8 && c / 8 < r.row + r.rows

/-- The fields of a partition record and whether R63 holds. -/
def partRec (bs : List Byte) : PartRec :=
  let f (o n : Nat) : Nat := bytesNat ((bs.drop o).take n)
  let mask := f 2 1
  let inMask (d : Nat) : Bool := bitsOf mask d 1 = 1
  let dies := (List.range 8).filter inMask
  let rects := dies.map (fun d =>
    { die := d, col := f (32 + 4 * d) 1, row := f (33 + 4 * d) 1, cols := f (34 + 4 * d) 1, rows := f (35 + 4 * d) 1 : Rect })
  let home := f 26 1
  { asid := f 0 2, plane := f 3 1 % 2, ptroot := f 8 8, catbase := f 16 8, catcount := f 24 2, homedie := home, homecore := f 27 1
    rects := rects
    ok := f 0 2 ≠ 0 && mask ≠ 0 && f 3 1 < 2 && f 4 4 = 0 && f 28 4 = 0 && f 8 8 % 4096 = 0 && f 8 8 < 2 ^ 48 && f 16 8 % 64 = 0 &&
      f 16 8 < 2 ^ 48 && f 24 2 ≤ 256 && f 27 1 < 32 && rects.all Rect.inDie && rects.any (fun r => r.die = home && r.hasCore (f 27 1)) &&
      (List.range 8).all (fun d => inMask d || f (32 + 4 * d) 4 = 0) }

/-- A record as PARTCMD reads it, at its physical address. -/
def recBytes (s : State) (addr : Nat) : Option (List Byte) :=
  match readBytes s none 3 (physXl false addr) 64 with
  | .ok _ bs => some bs
  | _ => none

/-- A partition as its creation leaves it: scope 0 alone, every register at its reset value (R68, R94, R107, R226). -/
def freshPart (r : PartRec) (now : Nat) : Partition :=
  { asid := r.asid, rects := r.rects, ptroot := r.ptroot, catbase := r.catbase, catcount := r.catcount, heads := [], homedie := r.homedie
    homecore := r.homecore, st := if r.plane = 0 then .running else .stored, rbhalt := false, tasks := [], gens := [], qseq := 0
    lastStart := none, scopes := [{ id := 0, parent := 0, cancelled := false, work := 0 }], lastScope := 0, tickets := []
    tickSeq := 0, bars := [], deques := [], silent := now, ctvec := 0, census := 0, stowcfg := 0, frarea := 6, psuper := 0, rbarea := 0
    recs := [], nextRec := 0, lateFaults := [], digest := none, loading := false, poolUsed := [], curq := [], rrCore := 255, cache := []
    fetching := [], standby := false, parked := [], haltedAt := now }

/-! ### Planes (R62, R66) -/

/-- The partition's state lies in the active planes of its cores, or in their storeroom planes. -/
def PState.inPlanes (st : PState) (storeroom : Bool) : Bool :=
  match st with
  | .running | .halting | .halted => !storeroom
  | .stored => storeroom
  | .drained => false

def Partition.meets (p q : Partition) : Bool := p.cores.any (fun c => q.cores.contains c)

/-- The storeroom planes that a FILL under way is to load, as a partition holds them. -/
def fillTarget (s : State) : Option Partition :=
  match s.pkg.copying with
  | none => none
  | some j => if j.record.isEmpty then none else (partOf s j.asid).map (fun q => { q with rects := (partRec j.record).rects })

/-- Some core's plane belongs to a partition already. -/
def planeTaken (s : State) (p : Partition) (storeroom : Bool) : Bool :=
  s.parts.any (fun q => q.asid ≠ p.asid && q.st.inPlanes storeroom && q.meets p) ||
  storeroom && (match fillTarget s with | some q => q.asid ≠ p.asid && q.meets p | none => false)

/-! ### PARTCMD and PARTSTAT (R64) -/

def PState.code : PState → Nat
  | .running => 1
  | .halting => 2
  | .halted => 3
  | .stored => 4
  | .drained => 5

def stateOf (s : State) (asid : Nat) : Nat := match partOf s asid with | some p => p.st.code | none => 0

/-- A command ends: PARTSTAT names its partition, RESULT and the state it is in. -/
def partResult (s : State) (asid result : Nat) : State :=
  s.updPkg (fun k => { k with partstat := BitVec.ofNat 64 (asid * 2 ^ 48 + result * 16 + stateOf s asid) })

def setPartBusy (s : State) (b : Bool) : State := s.updPkg (fun k => { k with partcmd := putField k.partcmd 0 1 (bit1 b) })

/-! ### Snapshot copies in a plane that is claimed (R251) -/

/-- The tile rows with copies in the storeroom planes of a partition's cores: the place, the site, the snapshot, whether it is
the newer one, and the row. -/
def planedRows (s : State) (p : Partition) : List (Place × Site × Snap × Bool × Nat) :=
  s.sites.flatMap (fun x => match s.place? x.node.place with
    | none => []
    | some q =>
      let (u, v) := q.at_ x.node.x x.node.y
      if !p.cores.contains (q.die, coreOf u v) then []
      else (x.snaps.zipIdx).flatMap (fun (k, i) => k.planed.map (fun row => (q, x, k, decide (i > 0), row))))

/-- One of the copies is moved to the rollback area of its partition; a fault leaves it where it is and freezes its region until the
record is resumed, and the move is tried again then. -/
def moveCopy (s : State) (c : Place × Site × Snap × Bool × Nat) : State :=
  let (q, x, k, newer, row) := c
  match partOf s q.asid with
  | none => s
  | some r =>
    let (u, v) := q.at_ x.node.x x.node.y
    let va := copyAt r q.die u v newer row
    if copyStuck s q then s
    else
    let s1 := s.updSite x.node (fun y => { y with snaps := updBy (fun z => z.wave = k.wave) (fun z =>
      { z with copied := row :: z.copied, planed := z.planed.filter (fun i => i ≠ row) }) y.snaps })
    match recPut s1 q.asid va (natBytes 64 (rowOf (rowsOf k.st) row).pay.toNat), fabXl s1 q (coreOf u v) va (Need.store true) with
    | some s2, _ => s2
    | none, .fault _ code sub pte => copyFreeze s q x.node code sub va pte
    | none, _ => copyFreeze s q x.node 10 2 va 0

/-- A partition claims its storeroom planes: the copies in them are moved first; with the area of one of their partitions
disabled there is a conflict. -/
def claimPlanes (s : State) (p : Partition) : Option State :=
  let rows := planedRows s p
  if rows.any (fun c => match partOf s c.1.asid with | some q => bitsOf q.rbarea.toNat 25 23 = 0 | none => false) then none
  else some (rows.foldl moveCopy s)

/-- CREATE, judged in R65's order; it stays BUSY until the copies in its storeroom planes have been moved (R251); a die that is not usable has no cores to give (R17, R59). (DEDUCED, assumption 105.) -/
def partCreate (s : State) (addr asid : Nat) : State :=
  match (recBytes s addr).map partRec with
  | none => partResult s asid 1
  | some r =>
    if !r.ok || !r.rects.all (fun x => s.dieUsable x.die) then partResult s r.asid 1
    else
      let p := freshPart r s.cycle
      let trial := { s with parts := p :: s.parts.filter (fun q => q.asid ≠ r.asid) }
      match catCheck trial r.asid r.catbase r.catcount 0 with
      | some (result, index) =>
        partResult (s.updPkg (fun k => { k with catctl := catctlWord k.catctl result index (bitsOf k.catctl.toNat 0 1) })) r.asid 1
      | none =>
        if (partOf s r.asid).isSome then partResult s r.asid 3
        else if s.parts.length ≥ 512 then partResult s r.asid 5
        else if planeTaken s p (r.plane = 1) then partResult s r.asid 2
        else match (if r.plane = 1 then claimPlanes s p else some s) with
          | none => partResult s r.asid 2
          | some s1 =>
            if r.plane = 1 && !(planedRows s1 p).isEmpty then
              setPartBusy (s1.updPkg (fun k => { k with copying := some { asid := r.asid, addr := addr, record := (recBytes s addr).getD [] } })) true
            else partResult { s1 with parts := s1.parts ++ [p.withCatalogue trial r.catbase r.catcount] } r.asid 0

/-- Every trace of a partition is gone (R65). (DEDUCED, assumption 111.) -/
def dropPartition (s : State) (asid : Nat) : State :=
  let ids := (s.places.filter (fun x => x.asid = asid)).map (fun x => x.id)
  let own (n : Node) : Bool := ids.contains n.place
  { s with
    parts := s.parts.filter (fun p => p.asid ≠ asid)
    places := s.places.filter (fun x => x.asid ≠ asid)
    sites := s.sites.filter (fun x => !own x.node)
    rslots := s.rslots.filter (fun x => !own x.node)
    segs := s.segs.filter (fun x => !own x.node)
    left := s.left.filter (fun x => x.asid ≠ asid)
    guy := s.guy.filter (fun g => g.asid ≠ asid)
    warm := s.warm.filter (fun w => w.asid ≠ asid)
    rings := s.rings.filter (fun r => r.asid ≠ asid)
    steals := s.steals.filter (fun x => x.asid ≠ asid)
    walkers := s.walkers.filter (fun w => w.asid ≠ asid)
    xlats := s.xlats.filter (fun e => e.ent.asid ≠ asid)
    slices := s.slices.map (fun x => { x with tiles := x.tiles.filter (fun (k : Tile) => k.win.asid ≠ asid) })
    landing := s.landing.filter (fun l => !ids.contains l.place)
    threads := (s.threads.filter (fun t => t.id.isSys || t.asid ≠ asid)).map (fun t => if t.asid = asid then { t with frozen := false } else t) }

def partDestroy (s : State) (asid : Nat) : State :=
  match partOf s asid with
  | some p => match p.st with
    | .halted | .stored | .drained => partResult (dropPartition s asid) asid 0
    | _ => partResult s asid 4
  | none => partResult s asid 4

/-! ### HALT and RESUME (R83) -/

/-- A thread stops at its instruction boundary; a wait that R323 lets be abandoned is, unless it has ended: what has been granted
or cancelled is what the instruction returns once the partition runs again (R323, R346). (DEDUCED, assumption 109.) -/
def Thread.halt (s : State) (t : Thread) : Thread :=
  { t with frozen := true, wait := if t.wait.abandoned && !waitMet s t then .none else t.wait }

/-- A wait of a thread at a ring is abandoned. -/
def ringWaiters (s : State) (asid : Nat) : State :=
  (s.threads.filter (fun t => t.asid = asid && (match t.wait with | .ring _ _ _ => true | _ => false))).foldl (fun st t => abandonRing st t.id) s

/-- A rollback region with a segment under way goes back to its last complete wave. -/
def rbHaltRegions (s : State) (asid : Nat) : State :=
  (s.places.filter (fun x => x.asid = asid && x.inst.isNone && !x.killed)).foldl (fun st x =>
    match st.place? x.id with
    | some p => (match p.rb with
      | some b => if placeQuiet st p && rbClear p then st else regionBack st p b
      | none => st)
    | none => st) s

def partHalt (s : State) (asid : Nat) (rbhalt : Bool) : State :=
  match partOf s asid with
  | some p =>
    if p.st ≠ .running then partResult s asid 4
    else
      let s0 := ringsFresh s asid
      let s1 := (ringWaiters s0 asid).updPart asid (fun q => { q with st := .halting, rbhalt := rbhalt })
      let s2 := { s1 with threads := updBy (fun t => t.asid = asid) (Thread.halt s0) s1.threads }
      partResult (if rbhalt then rbHaltRegions s2 asid else s2) asid 0
  | none => partResult s asid 4

/-- The launch of a place has a queued pitch, which stays queued, or a stowed instance: its segments can run no further until the
partition is RESUMEd (R83, R143). (DEDUCED, assumption 144.) -/
def heldUp (s : State) (p : Partition) (x : Place) : Bool :=
  p.curq.any (fun r => r.frozen ≠ 3 && (match s.place? r.node.place with | some y => y.asid = p.asid && y.lslot = x.lslot | none => false)) ||
  s.places.any (fun y => y.asid = p.asid && y.lslot = x.lslot && (match y.inst with | some i => i.st = .stowed | none => false))

/-- A region or instance of a halting partition has come to rest; a load under way completes first (R83, R86). -/
def placeHalted (s : State) (p : Partition) (x : Place) : Bool :=
  noTraffic s x.id &&
  (match x.inst with | some i => i.st ≠ StowSt.copying && i.st ≠ StowSt.unstowing | none => true) &&
  (x.ready || (match x.inst with | some i => i.st ≠ .awake | none => false)) &&
  (heldUp s p x || (p.rbhalt && (regionOf s x).rb.isSome) || (placeQuiet s x && rbClear x))

/-- Nothing of the partition is on its way, its store buffers have drained, and no cancellation is under way (R83, R86, R318). (DEDUCED, assumption 106.) -/
def haltMet (s : State) (p : Partition) : Bool :=
  (s.places.filter (fun x => x.asid = p.asid)).all (placeHalted s p) && p.tickets.all (fun k => k.acked) &&
  s.threads.all (fun t => t.asid ≠ p.asid || ((t.wait = .none || waitMet s t) && t.stbuf.isEmpty)) && s.steals.all (fun x => x.asid ≠ p.asid) && p.fetching.isEmpty

/-- PARTITION_HALTED: the configured sites keep their state and are clock-gated (R141). -/
def execPartitionHalted (asid : Nat) (s : State) : Out :=
  match partOf s asid with
  | none => .next s
  | some p =>
    if p.st ≠ .halting || !haltMet s p then .next s
    else
      let s0 := s.updPart asid (fun q => { q with st := .halted, haltedAt := s.cycle, silent := s.cycle, standby := false })
      let own (n : Node) : Bool := s.places.any (fun x => x.id = n.place && x.asid = asid)
      let s1 := { s0 with sites := updBy (fun x => own x.node) (fun x => { x with gated := true, waking := none, lastActive := s.cycle - 32 }) s0.sites }
      .next (if bitsOf s.pkg.partstat.toNat 48 16 = asid then partResult s1 asid (bitsOf s.pkg.partstat.toNat 4 4) else s1)

/-- The counts of waiting go on from where they stood when the partition was HALTED; what has come since starts now (R75). -/
def Partition.shiftWaits (p : Partition) (now : Nat) : Partition :=
  let on (c : Nat) : Nat := now - (p.haltedAt - c)
  { p with
    tasks := p.tasks.map (fun e => { e with readyAt := on e.readyAt, blockedAt := e.blockedAt.map on })
    curq := p.curq.map (fun r => { r with waitFrom := on r.waitFrom }) }

def partResume (s : State) (asid : Nat) : State :=
  match partOf s asid with
  | some p =>
    if p.st ≠ .halted then partResult s asid 4
    else
      let s1 := s.updPart asid (fun q =>
        { q.shiftWaits s.cycle with st := .running, rbhalt := false, silent := s.cycle, standby := false })
      let s2 := { s1 with threads := updBy (fun t => t.asid = asid) (fun t => { t with frozen := false }) s1.threads }
      let s3 := (s2.places.filter (fun x => x.asid = asid)).foldl (fun st x =>
        match x.rb with | some b => if b.due then st else rereadPorts st x b | none => st) s2
      partResult s3 asid 0
  | none => partResult s asid 4

/-! ### DRAIN and FILL (R65) -/

/-- Moves a core and an origin of a die from a partition's old rectangles to its new ones. -/
structure Move where
  die : Nat
  dcol : Int
  drow : Int
  deriving DecidableEq, Repr

def moves (old new : List Rect) : List Move :=
  new.filterMap (fun r => (old.find? (fun o => o.die = r.die)).map (fun o =>
    { die := r.die, dcol := (r.col : Int) - o.col, drow := (r.row : Int) - o.row }))

def moveOf (ms : List Move) (die : Nat) : Move := (ms.find? (fun m => m.die = die)).getD { die := die, dcol := 0, drow := 0 }

def movedCore (ms : List Move) (die c : Nat) : Nat := let m := moveOf ms die; ((c : Int) + 8 * m.drow + m.dcol).toNat
def movedX (ms : List Move) (unit : Int) (die x : Nat) : Nat := ((x : Int) + unit * (moveOf ms die).dcol).toNat
def movedY (ms : List Move) (unit : Int) (die y : Nat) : Nat := ((y : Int) + unit * (moveOf ms die).drow).toNat

def movedThread (ms : List Move) : ThreadId → ThreadId
  | .ctl d c n => .ctl d (movedCore ms d c) n
  | t => t

def QCmd.moved (ms : List Move) (c : QCmd) : QCmd := { c with thread := movedThread ms c.thread }
def Running.moved (ms : List Move) (r : Running) : Running := { r with cmd := r.cmd.moved ms }

def PortMark.moved (ms : List Move) (m : PortMark) : PortMark :=
  { m with runs := m.runs.map (Running.moved ms), queue := m.queue.map (QCmd.moved ms) }

def Port.moved (ms : List Move) (q : Port) : Port :=
  { q with
    queue := q.queue.map (QCmd.moved ms), running := q.running.map (Running.moved ms), older := q.older.map (Running.moved ms)
    logs := q.logs.map (Running.moved ms), saved := q.saved.map (PortMark.moved ms) }

def Place.moved (ms : List Move) (p : Place) : Place :=
  { p with gx := movedX ms 4 p.die p.gx, gy := movedY ms 4 p.die p.gy, ports := p.ports.map (Port.moved ms) }

/-- The partition as it lies in its new rectangles. (DESIGN CHOICE, assumption 108.) -/
def Partition.moved (ms : List Move) (p : Partition) (r : PartRec) : Partition :=
  { p with
    rects := r.rects, ptroot := r.ptroot, catbase := r.catbase, catcount := r.catcount, homedie := r.homedie, homecore := r.homecore
    tasks := p.tasks.map (fun e => { e with creator := e.creator.map (movedThread ms) })
    tickets := p.tickets.map (fun k => { k with owner := k.owner.map (movedThread ms) })
    deques := p.deques.map (fun q => { q with
      core := movedCore ms q.die q.core, copies := q.copies.map (fun c => { c with thief := movedThread ms c.thief }) })
    curq := p.curq.map (fun q => { q with
      core := q.core / 32 * 32 + movedCore ms (q.core / 32) (q.core % 32)
      freed := q.freed.map (fun o => (movedX ms 4 (q.core / 32) o.1, movedY ms 4 (q.core / 32) o.2)) })
    cache := p.cache.map (fun e => { e with core := movedCore ms e.die e.core })
    parked := p.parked.map (fun t => { t with id := movedThread ms t.id }) }

def movePartition (s : State) (p : Partition) (r : PartRec) : State :=
  let ms := moves p.rects r.rects
  { s.setPart (p.moved ms r) with
    places := updBy (fun x => x.asid = p.asid) (Place.moved ms) s.places
    left := updBy (fun x => x.asid = p.asid) (fun x => { x with x := movedX ms 16 x.die x.x, y := movedY ms 16 x.die x.y }) s.left
    warm := updBy (fun x => x.asid = p.asid) (fun x => { x with gx := movedX ms 4 x.die x.gx, gy := movedY ms 4 x.die x.gy }) s.warm
    rings := updBy (fun x => x.asid = p.asid) (fun x => { x with die := r.homedie }) s.rings }

def partDrain (s : State) (asid addr : Nat) : State :=
  if stateOf s asid = 4 then setPartBusy (s.updPkg (fun k => { k with copying := some { asid := asid, addr := addr, record := [] } })) true
  else partResult s asid 4

/-- Each die of the record has the partition's shape. -/
def sameShape (p : Partition) (r : PartRec) : Bool :=
  p.rects.map (fun x => (x.die, x.cols, x.rows)) = r.rects.map (fun x => (x.die, x.cols, x.rows))

/-- A folio that a place holds, in whichever slot, names a fused site where it stands. -/
def onFused (s : State) (x : Place) : Bool :=
  !x.away && x.slots.any (fun f => match f with
    | some f => fusedUnder s f x.die x.gx x.gy
    | none => false)

/-- No folio of a partition would stand on a fused site or an unusable die where a record puts it (R10, R59). -/
def canMove (s : State) (p : Partition) (r : PartRec) : Bool :=
  let ms := moves p.rects r.rects
  r.rects.all (fun x => s.dieUsable x.die) && (s.places.filter (fun x => x.asid = p.asid)).all (fun x => !onFused s (x.moved ms))

/-- A FILL: the first write gives the record's address, the second starts the copy. (DESIGN CHOICE, assumption 42.)
(DEDUCED, assumption 107.) -/
def partFill (s : State) (asid addr : Nat) : State :=
  if asid = 0 then s.updPkg (fun k => { k with fillRec := some addr })
  else match partOf s asid with
    | none => partResult s asid 4
    | some p =>
      if p.st ≠ .drained then partResult s asid 4
      else match s.pkg.fillRec.bind (recBytes s) with
        | none => partResult s asid 1
        | some bs =>
          let r := partRec bs
          if !r.ok || r.asid ≠ asid || !sameShape p r || !canMove s p r then partResult s asid 1
          else if planeTaken s { p with rects := r.rects } true then partResult s asid 2
          else setPartBusy (s.updPkg (fun k => { k with copying := some { asid := asid, addr := addr, record := bs }, fillRec := none })) true

/-- The bytes of a partition's save area: 16 MiB for each of its cores (R65). -/
def Partition.saveSize (p : Partition) : Nat := p.cores.length * 2 ^ 24

/-- PARTITION_COPY_DONE: a CREATE whose move of snapshot copies met a fault goes on once that is resumed (R251); a DRAIN has written the save area and frees the planes; a FILL loads the catalogue, and the partition
lies where its record puts it. -/
def execPartitionCopyDone (s : State) : Out :=
  match s.pkg.copying with
  | none => .next s
  | some j =>
    let s1 := setPartBusy (s.updPkg (fun k => { k with copying := none })) false
    match partOf s1 j.asid with
    | none =>
      if j.record.isEmpty then .next s1
      else if (planedRows s (freshPart (partRec j.record) s.cycle)).any (fun c => copyStuck s c.1) then .next s
      else .next (partCreate s1 j.addr j.asid)
    | some p =>
      if j.record.isEmpty then
        .next (partResult ((freeSpan s1 j.addr (min p.saveSize (memTop - j.addr))).setPart { p with st := .drained }) j.asid 0)
      else
        let s2 := movePartition s1 p (partRec j.record)
        match partOf s2 j.asid with
        | none => .next s1
        | some m =>
          match catCheck s2 j.asid m.catbase m.catcount 0 with
          | some (result, index) =>
            .next (partResult (s1.updPkg (fun k => { k with catctl := catctlWord k.catctl result index (bitsOf k.catctl.toNat 0 1) })) j.asid 1)
          | none => match claimPlanes s2 m with
            | none => .next (partResult s1 j.asid 2)
            | some s3 =>
            if !(planedRows s3 m).isEmpty then
              match claimPlanes s m with | some t => .next t | none => .next s
            else
            let s2 := s3
            let q := m.withCatalogue s2 m.catbase m.catcount
            .next (partResult { s2.setPart { q with st := .stored } with warm := s2.warm.filter (fun w => w.asid ≠ j.asid) } j.asid 0)

/-! ### Writing PARTCMD -/

/-- The command of PARTCMD, by OP. -/
def partDo (s : State) (v : Word) : State :=
  let asid := bitsOf v.toNat 48 16
  let addr := bitsOf v.toNat 6 42 * 64
  match bitsOf v.toNat 3 3 with
  | 0 => partCreate s addr asid
  | 1 => partDestroy s asid
  | 2 => partHalt s asid (bitsOf v.toNat 2 1 = 1)
  | 3 => partResume s asid
  | 4 => partDrain s asid addr
  | 5 => partFill s asid addr
  | _ => partResult s asid 1

/-- A write to PARTCMD: ERR clears, a write while BUSY sets ERR and is ignored, any other starts its command (R64). A write with ERR = 1
while BUSY clears ERR and is ignored: the table has it set and the text has it cleared (DESIGN CHOICE, assumption 149). -/
def writePartcmd (s : State) (v : Word) : State :=
  let c := s.pkg.partcmd
  if bitsOf v.toNat 1 1 = 1 then s.updPkg (fun k => { k with partcmd := putField c 1 1 0 })
  else if bitsOf c.toNat 0 1 = 1 then s.updPkg (fun k => { k with partcmd := putField c 1 1 1 })
  else partDo (s.updPkg (fun k => { k with partcmd := putField (putField v 0 1 0) 1 1 (bitsOf c.toNat 1 1) })) v

/-- A write of PARTCMD that carries a row's OP (R64). -/
def partRow (op : Nat) (v : Word) (s : State) : Out := .next (if bitsOf v.toNat 3 3 = op then writePartcmd s v else s)

def execPartcmdCreate (v : Word) (s : State) : Out := partRow 0 v s
def execPartcmdDestroy (v : Word) (s : State) : Out := partRow 1 v s
def execPartcmdHalt (v : Word) (s : State) : Out := partRow 2 v s
def execPartcmdResume (v : Word) (s : State) : Out := partRow 3 v s
def execPartcmdDrain (v : Word) (s : State) : Out := partRow 4 v s
def execPartcmdFill (v : Word) (s : State) : Out := partRow 5 v s
def execPartcmdErrClear (s : State) : Out := .next (writePartcmd s 2)

/-! ### SWAPP (R66, R345) -/

/-- The partitions of a swap set: those in the planes of its cores, again and again until nothing is added. -/
def swapSet : Nat → List Partition → List Partition → List Partition
  | 0, set_, _ => set_
  | k + 1, set_, rest =>
    let more := rest.filter (fun q => set_.any (fun p => p.meets q))
    if more.isEmpty then set_ else swapSet k (set_ ++ more) (rest.filter (fun q => !more.contains q))

/-- The swap set of a partition that lies in a plane. -/
def swapSetOf (s : State) (p : Partition) : List Partition :=
  let placed := s.parts.filter (fun q => q.st ≠ .drained && q.asid ≠ p.asid)
  swapSet placed.length [p] placed

/-- A copy is under way in planes of the set. -/
def copyMeets (s : State) (set_ : List Partition) : Bool :=
  match s.pkg.copying with
  | none => false
  | some j => match (if j.record.isEmpty then partOf s j.asid else fillTarget s) with
    | some q => set_.any (fun p => p.asid = j.asid || p.meets q)
    | none => false

/-- SWAPP's RESULT at acceptance, 0 when the swap starts; a cancellation that has not quiesced refuses it (R86). (DEDUCED, assumption 110.) -/
def swapCode (s : State) (asid : Nat) : Nat :=
  match partOf s asid with
  | none => 3
  | some p =>
    let set_ := swapSetOf s p
    if (p.st = .halted || p.st = .stored) && p.tickets.all (fun k => k.acked) && set_.all (fun q => q.st = .halted || q.st = .stored) && !copyMeets s set_ then 0 else 4

def execSwapp (d a : Reg) (s : State) : Out :=
  onCur s (fun t =>
    if t.mode ≠ .monitor then privTrap s t (wordOf (.swapp d a))
    else
      let v := (t.reg a).toNat
      let asid := v % 2 ^ 16
      let code := if v ≥ 2 ^ 16 then 1 else swapCode s asid
      if code = 0 then s.setThread { t with wait := .swapp asid (s.cycle + 875) d }
      else partResult (s.setThread (t.report d 0x30 4 code 0)) asid code)

/-- A partition changes planes; its launch threads go with its home cores' planes. -/
def swapOne (s : State) (p : Partition) : State :=
  let own (t : Thread) : Bool := !t.id.isSys && t.asid = p.asid
  match p.st with
  | .halted => { s with threads := s.threads.filter (fun t => !own t) }.updPart p.asid (fun q =>
      { q with st := .stored, parked := q.parked ++ s.threads.filter own })
  | .stored => { s with threads := s.threads ++ p.parked }.updPart p.asid (fun q => { q with st := .halted, parked := [] })
  | _ => s

/-- SWAP_PLANES_DONE: 875 cycles after acceptance the planes are exchanged; a set that is no longer at rest is refused. -/
def execSwapPlanesDone (tid : ThreadId) (s : State) : Out :=
  match s.thread? tid with
  | none => .next s
  | some t => match t.wait with
    | .swapp asid due d =>
      if s.cycle < due then .next s
      else
        let code := swapCode s asid
        let set_ := match partOf s asid with | some p => swapSetOf s p | none => []
        let s1 := if code = 0 then set_.foldl (fun st p => if p.st = .halted then swapOne st p else st) s else s
        let s2 := if code = 0 then set_.foldl (fun st p => if p.st = .stored then swapOne st p else st) s1 else s1
        .next (partResult (s2.updThread tid (fun u => u.report d 0x30 4 code 0)) asid code)
    | _ => .next s

end Sys2Proof.Machine
end

