-- ==== Sys2Proof/Machine/ScalarCtl.lean ====
section
/-! DEFINITION. Branches, jumps, FENCE, WFE, ERET, TRAP and HALT (R319, R320, R324, R326, R337-R339). -/

namespace Sys2Proof.Machine

/-- A branch writes no register and never traps (R319). -/
def branch (a b : Reg) (disp : BitVec 16) (cond : Word → Word → Bool) (s : State) : Out :=
  onCur s (fun t => s.setThread
    (if cond (t.reg a) (t.reg b) then { t with pc := t.target (disp.signExtend 64) } else t.advance))

def execBeq (a b : Reg) (imm : BitVec 16) (s : State) : Out := branch a b imm (fun x y => x = y) s
def execBne (a b : Reg) (imm : BitVec 16) (s : State) : Out := branch a b imm (fun x y => x ≠ y) s
def execBlt (a b : Reg) (imm : BitVec 16) (s : State) : Out := branch a b imm (fun x y => x.toInt < y.toInt) s
def execBge (a b : Reg) (imm : BitVec 16) (s : State) : Out := branch a b imm (fun x y => y.toInt ≤ x.toInt) s
def execBltu (a b : Reg) (imm : BitVec 16) (s : State) : Out := branch a b imm (fun x y => x.toNat < y.toNat) s
def execBgeu (a b : Reg) (imm : BitVec 16) (s : State) : Out := branch a b imm (fun x y => y.toNat ≤ x.toNat) s

def execJmp (imm : BitVec 26) (s : State) : Out :=
  onCur s (fun t => s.setThread { t with pc := t.target (imm.signExtend 64) })

def execJal (imm : BitVec 26) (s : State) : Out :=
  onCur s (fun t => s.setThread { t.writeReg 31 (t.pc + 4) with pc := t.target (imm.signExtend 64) })

/-- JALR reads ga before it writes gd; a target that is no multiple of 4 is MISALIGNED (R320). -/
def execJalr (d a : Reg) (imm : BitVec 16) (s : State) : Out :=
  onCur s (fun t =>
    let x := t.reg a + simm imm
    if x.toNat % 4 ≠ 0 then misaligned s t x
    else s.setThread { t.writeReg d (t.pc + 4) with pc := x })

/-- FENCE: earlier accesses are performed; at PACKAGE or SYSTEM later reads meet no older SHARE_PKG line (R237,
R244, R324). -/
def execFence (sc : BitVec 3) (s : State) : Out :=
  onCur s (fun t0 => syncPoint s t0 (fun s0 t => (acquireAt s0 t sc.toNat).setThread t.advance))

/-- WFE: a set flag is cleared and the thread goes on; otherwise it waits until the flag is set or 65,536 cycles
have passed (R326). -/
def execWfe (s : State) : Out :=
  onCur s (fun t =>
    if t.event then s.setThread { t.advance with event := false, wait := .none }
    else match t.wait with
      | .wfe due => if due ≤ s.cycle then s.setThread { t.advance with wait := .none } else .setThread s t
      | _ => s.setThread { t with wait := .wfe (s.cycle + 65536) })

/-- WFE_TIMEOUT: 65,536 cycles have passed; the flag is cleared and the thread goes on (R326). -/
def execWfeTimeout (tid : ThreadId) (s : State) : Out :=
  match s.thread? tid with
  | none => .next s
  | some t =>
    match t.wait with
    | .wfe due =>
      .next (if due ≤ s.cycle then s.setThread { t.advance with wait := .none, event := false } else s)
    | _ => .next s

/-- ERET needs a mode above user (R333); it returns to EPC of the current mode's bank (R337). -/
def execEret (s : State) : Out :=
  onCur s (fun t => if t.mode = .user then privTrap s t (wordOf .eret) else s.setThread t.eret)

/-- TRAP takes TRAPI with num16 in EVAL and EPC after it (R338). -/
def execTrap (num : BitVec 16) (s : State) : Out :=
  onCur s (fun t => syncTrap s t 35 0 false false (t.pc + 4) (num.setWidth 64))

/-- HALT: pending imprecise traps first, buffered stores performed; a control-core thread ends, a system core
parks (R339). -/
def execHalt (s : State) : Out :=
  onCur s (fun t0 => syncPoint s t0 (fun s0 t =>
    match t.id with
    | .sys _ => s0.setThread { t with run := .parked, wait := .none }
    | .ctl _ _ _ => threadEnds (s0.setThread { t with run := .ended, wait := .none }) t false))

/-- TAKE_ASYNC_TRAP: a pending asynchronous trap is taken at the boundary once INH is clear (R334). -/
def execTakeAsyncTrap (tid : ThreadId) (s : State) : Out :=
  match s.thread? tid with
  | none => .next s
  | some t => .next ((takeAsync s t).getD s)

end Sys2Proof.Machine
end

