-- ==== Sys2Proof/Machine/ScalarFp.lean ====
section
/-! DEFINITION. The floating-point instructions of scalar threads (R308-R311). -/

namespace Sys2Proof.Machine

def execFadd (d a b : Reg) (rs : BitVec 3) (p : Bool) (s : State) : Out := fpRR d a b p (fpAdd (rsOf rs)) s
def execFsub (d a b : Reg) (rs : BitVec 3) (p : Bool) (s : State) : Out := fpRR d a b p (fpSub (rsOf rs)) s
def execFmul (d a b : Reg) (rs : BitVec 3) (p : Bool) (s : State) : Out := fpRR d a b p (fpMul (rsOf rs)) s
def execFdiv (d a b : Reg) (rs : BitVec 3) (p : Bool) (s : State) : Out := fpRR d a b p (fpDiv (rsOf rs)) s

def execFsqrt (d a : Reg) (rs : BitVec 3) (p : Bool) (s : State) : Out :=
  onCur s (fun t => s.setThread (t.fretire d (fpSqrt (rsOf rs) (precFmt p) (t.fsrc a p))))

/-- FMAC adds to the old gd (R309). -/
def execFmac (d a b : Reg) (rs : BitVec 3) (p : Bool) (s : State) : Out :=
  onCur s (fun t => s.setThread
    (t.fretire d (fpMac (rsOf rs) (precFmt p) (t.fsrc a p) (t.fsrc b p) (t.fsrc d p))))

/-- FMIN and FMAX give an operand as it stands, or the canonical NaN (R310). -/
def fpPickRR (greater : Bool) (d a b : Reg) (p : Bool) (s : State) : Out :=
  onCur s (fun t =>
    let w := 2 ^ (precFmt p).width
    s.setThread (t.fretire d (fpPick greater (precFmt p) ((t.reg a).toNat % w) ((t.reg b).toNat % w)
      (t.fsrc a p) (t.fsrc b p))))

def execFmin (d a b : Reg) (p : Bool) (s : State) : Out := fpPickRR false d a b p s
def execFmax (d a b : Reg) (p : Bool) (s : State) : Out := fpPickRR true d a b p s
def execFeq (d a b : Reg) (p : Bool) (s : State) : Out := fpRR d a b p (fpCmp fNanIn eqVal) s
def execFlt (d a b : Reg) (p : Bool) (s : State) : Out := fpRR d a b p (fpCmp (fInvalid ||| fNanIn) (ltVal false)) s
def execFle (d a b : Reg) (p : Bool) (s : State) : Out :=
  fpRR d a b p (fpCmp (fInvalid ||| fNanIn) (fun x y => !ltVal false y x)) s

def execFcvt (d a : Reg) (code : BitVec 5) (rs : BitVec 3) (s : State) : Out :=
  onCur s (fun t => s.setThread (t.fretire d (fpCvt code.toNat (rsOf rs) (t.reg a))))

def execFclass (d a : Reg) (p : Bool) (s : State) : Out :=
  onCur s (fun t => s.setThread
    (t.retire d (BitVec.ofNat 64 (fpClass (precFmt p) ((t.reg a).toNat % 2 ^ (precFmt p).width)))))

end Sys2Proof.Machine
end

