-- ==== Sys2Proof/Machine/ScalarInt.lean ====
section
/-! DEFINITION. The integer instructions of scalar threads (R304-R307). -/

namespace Sys2Proof.Machine

/-! ### What each operation computes on n-bit operands (R304, R305) -/

def aluAdd (n x y : Nat) : Nat := (x + y) % 2 ^ n
def aluSub (n x y : Nat) : Nat := (x + (2 ^ n - y)) % 2 ^ n
def aluAnd (_ x y : Nat) : Nat := x &&& y
def aluOr (_ x y : Nat) : Nat := x ||| y
def aluXor (_ x y : Nat) : Nat := x ^^^ y
def aluShl (n x y : Nat) : Nat := x * 2 ^ (y % n) % 2 ^ n
def aluShr (n x y : Nat) : Nat := x / 2 ^ (y % n)
def aluSra (n x y : Nat) : Nat := wrapBits n (signed n x / 2 ^ (y % n))
where wrapBits (n : Nat) (v : Int) : Nat := (v % (2 ^ n : Int)).toNat
def aluMul (n x y : Nat) : Nat := x * y % 2 ^ n
def aluMulh (n x y : Nat) : Nat := (signed n x * signed n y / 2 ^ n % (2 ^ n : Int)).toNat
def aluMulhu (n x y : Nat) : Nat := x * y / 2 ^ n
/-- The quotient truncated toward zero (R305). -/
def aluDiv (n x y : Nat) : Nat :=
  if y = 0 then 2 ^ n - 1 else (Int.tdiv (signed n x) (signed n y) % (2 ^ n : Int)).toNat
def aluDivu (n x y : Nat) : Nat := if y = 0 then 2 ^ n - 1 else x / y
/-- The remainder with the sign of x (R305). -/
def aluRem (n x y : Nat) : Nat :=
  if y = 0 then x else (Int.tmod (signed n x) (signed n y) % (2 ^ n : Int)).toNat
def aluRemu (_ x y : Nat) : Nat := if y = 0 then x else x % y
def aluMin (n x y : Nat) : Nat := if signed n x ≤ signed n y then x else y
def aluMax (n x y : Nat) : Nat := if signed n x ≤ signed n y then y else x
def aluMinu (_ x y : Nat) : Nat := if x ≤ y then x else y
def aluMaxu (_ x y : Nat) : Nat := if x ≤ y then y else x
def aluSlt (n x y : Nat) : Nat := if signed n x < signed n y then 1 else 0
def aluSltu (_ x y : Nat) : Nat := if x < y then 1 else 0

/-- Leading zeros, trailing zeros and one bits of an n-bit value (R304). -/
def aluClz (n x : Nat) : Nat := if x = 0 then n else n - 1 - Nat.log2 x

def aluCtz : Nat → Nat → Nat
  | 0, _ => 0
  | n + 1, x => if x % 2 = 1 then 0 else 1 + aluCtz n (x / 2)

def aluPopc : Nat → Nat → Nat
  | 0, _ => 0
  | n + 1, x => x % 2 + aluPopc n (x / 2)

/-- The n/8 bytes in reverse order (R304). -/
def aluBswap (n x : Nat) : Nat := bytesNat (natBytes (n / 8) x).reverse

/-- One CRC-32C step for each of `m` bits of `v`, least significant first (R306). -/
def crcStep : Nat → Nat → Nat → Nat
  | 0, _, c => c
  | m + 1, v, c =>
    let c' := c / 2
    crcStep m (v / 2) (if c % 2 = v % 2 then c' else c' ^^^ 0x82F63B78)

/-! ### Register forms -/

def execAdd (d a b : Reg) (w : Bool) (s : State) : Out := intRR d a b w aluAdd s
def execSub (d a b : Reg) (w : Bool) (s : State) : Out := intRR d a b w aluSub s
def execAnd (d a b : Reg) (w : Bool) (s : State) : Out := intRR d a b w aluAnd s
def execOr (d a b : Reg) (w : Bool) (s : State) : Out := intRR d a b w aluOr s
def execXor (d a b : Reg) (w : Bool) (s : State) : Out := intRR d a b w aluXor s
def execShl (d a b : Reg) (w : Bool) (s : State) : Out := intRR d a b w aluShl s
def execShr (d a b : Reg) (w : Bool) (s : State) : Out := intRR d a b w aluShr s
def execSra (d a b : Reg) (w : Bool) (s : State) : Out := intRR d a b w aluSra s
def execMul (d a b : Reg) (w : Bool) (s : State) : Out := intRR d a b w aluMul s
def execMulh (d a b : Reg) (w : Bool) (s : State) : Out := intRR d a b w aluMulh s
def execMulhu (d a b : Reg) (w : Bool) (s : State) : Out := intRR d a b w aluMulhu s
def execDiv (d a b : Reg) (w : Bool) (s : State) : Out := intRR d a b w aluDiv s
def execDivu (d a b : Reg) (w : Bool) (s : State) : Out := intRR d a b w aluDivu s
def execRem (d a b : Reg) (w : Bool) (s : State) : Out := intRR d a b w aluRem s
def execRemu (d a b : Reg) (w : Bool) (s : State) : Out := intRR d a b w aluRemu s
def execMin (d a b : Reg) (w : Bool) (s : State) : Out := intRR d a b w aluMin s
def execMax (d a b : Reg) (w : Bool) (s : State) : Out := intRR d a b w aluMax s
def execMinu (d a b : Reg) (w : Bool) (s : State) : Out := intRR d a b w aluMinu s
def execMaxu (d a b : Reg) (w : Bool) (s : State) : Out := intRR d a b w aluMaxu s
def execSlt (d a b : Reg) (w : Bool) (s : State) : Out := intRR d a b w aluSlt s
def execSltu (d a b : Reg) (w : Bool) (s : State) : Out := intRR d a b w aluSltu s
def execClz (d a : Reg) (w : Bool) (s : State) : Out := intR d a w aluClz s
def execCtz (d a : Reg) (w : Bool) (s : State) : Out := intR d a w aluCtz s
def execPopc (d a : Reg) (w : Bool) (s : State) : Out := intR d a w aluPopc s
def execBswap (d a : Reg) (w : Bool) (s : State) : Out := intR d a w aluBswap s

/-- CRCW over 8, 16, 32 or 64 bits by sub, zero-extended (R306). -/
def execCrcw (d a b : Reg) (sc : BitVec 2) (s : State) : Out :=
  onCur s (fun t => s.setThread
    (t.retire d (BitVec.ofNat 64 (crcStep (8 * 2 ^ sc.toNat) (t.reg b).toNat ((t.reg a).toNat % 2 ^ 32)))))

/-! ### Immediate forms (R307) -/

def execAddi (d a : Reg) (imm : BitVec 16) (s : State) : Out := intRI d a (fun x => x + simm imm) s
def execAndi (d a : Reg) (imm : BitVec 16) (s : State) : Out := intRI d a (fun x => x &&& zimm imm) s
def execOri (d a : Reg) (imm : BitVec 16) (s : State) : Out := intRI d a (fun x => x ||| zimm imm) s
def execXori (d a : Reg) (imm : BitVec 16) (s : State) : Out := intRI d a (fun x => x ^^^ zimm imm) s
def execShli (d a : Reg) (imm : BitVec 6) (s : State) : Out := intRI d a (fun x => x <<< imm.toNat) s
def execShri (d a : Reg) (imm : BitVec 6) (s : State) : Out := intRI d a (fun x => x >>> imm.toNat) s
def execSrai (d a : Reg) (imm : BitVec 6) (s : State) : Out := intRI d a (fun x => x.sshiftRight imm.toNat) s
def execSlti (d a : Reg) (imm : BitVec 16) (s : State) : Out :=
  intRI d a (fun x => if x.toInt < (simm imm).toInt then 1 else 0) s
def execSltui (d a : Reg) (imm : BitVec 16) (s : State) : Out :=
  intRI d a (fun x => if x.toNat < (simm imm).toNat then 1 else 0) s
/-- LIH: imm16 in bits 31:16, sign-extended from bit 31. -/
def execLih (d : Reg) (imm : BitVec 16) (s : State) : Out :=
  onCur s (fun t => s.setThread (t.retire d ((imm ++ (0 : BitVec 16)).signExtend 64)))

end Sys2Proof.Machine
end

