-- ==== Sys2Proof/Machine/System.lean ====
section
/-! DEFINITION. System registers (R340-R342), cache maintenance (R343) and translation maintenance (R344). -/

namespace Sys2Proof.Machine

/-! ### Which register a number names (R341) -/

/-- A register's lowest modes for reading and writing, `none` for no access. -/
structure SysAccess where
  read : Nat
  write : Nat
  deriving DecidableEq, Repr

/-- The access R341 gives a number on a kind of core; `none` where it assigns none. A register with one kind of access
alone is met by the other in the same mode: a write is ignored and a read gives zero (R6, R340). (DEDUCED, assumption 112.) -/
def sysAccess (sys : Bool) (n : Nat) : Option SysAccess :=
  if n ≤ 4 then some ⟨0, 0⟩
  else if 0x010 ≤ n ∧ n ≤ 0x013 then some ⟨1, 1⟩
  else if n = 0x014 then (if sys then some ⟨1, 1⟩ else none)
  else if n = 0x015 then some ⟨1, 1⟩
  else if n = 0x020 then (if sys then some ⟨0, 2⟩ else none)
  else if n = 0x100 ∨ n = 0x101 then some ⟨0, 0⟩
  else if n = 0x102 then (if sys then none else some ⟨0, 0⟩)
  else if 0x200 ≤ n ∧ n ≤ 0x204 then some ⟨1, 1⟩
  else if n = 0x205 then some ⟨1, 2⟩
  else if n = 0x206 then some ⟨1, 1⟩
  else if !sys then none
  else if (0x300 ≤ n ∧ n ≤ 0x308) ∨ (0x310 ≤ n ∧ n ≤ 0x31E) ∨ (0x320 ≤ n ∧ n ≤ 0x323) ∨ n = 0x330 ∨ n = 0x331 ∨ (0x340 ≤ n ∧ n ≤ 0x343) then
    some ⟨2, 2⟩
  else none

/-- A field kept in its place. -/
def keepField (w : Word) (lo len : Nat) : Nat := bitsOf w.toNat lo len * 2 ^ lo

/-- The I/O die of a system core. -/
def ioOf (t : ThreadId) : Nat := match t with | .sys n => n / 16 | .ctl _ _ _ => 0

/-! ### Reading (R340, R342) -/

/-- ESTAT of the current mode's bank. -/
def estatWord (t : Thread) : Word :=
  let b := t.bank t.mode
  BitVec.ofNat 64 (t.mode.code * 8 + bit1 b.inh * 4 + b.pmode.toNat)

/-- THREAD. -/
def threadWord (t : ThreadId) : Word :=
  BitVec.ofNat 64 (t.dieCode * 2 ^ 12 + t.coreNo * 2 ^ 4 + t.thrNo * 4 + bit1 t.isSys)

/-- Registers held per thread. -/
def threadReg (s : State) (t : Thread) (n : Nat) : Word :=
  let b := t.bank t.mode
  match n with
  | 0x000 => t.fflags.setWidth 64
  | 0x001 => t.tstat
  | 0x002 => threadWord t.id
  | 0x003 => BitVec.ofNat 64 s.cycle
  | 0x004 => BitVec.ofNat 64 t.scope
  | 0x010 => estatWord t
  | 0x011 => b.epc
  | 0x012 => b.ecause
  | 0x013 => b.eval
  | 0x014 => b.tvec
  | 0x015 => b.escratch
  | 0x020 => BitVec.ofNat 64 t.asid
  | _ => 0

/-- Registers held per core, region port or partition. -/
def partReg (s : State) (t : Thread) (p : Partition) (n : Nat) : Word :=
  match n with
  | 0x100 => (p.deque (ownCore t p)).dqext
  | 0x101 => dqstatWord (p.deque (ownCore t p))
  | 0x102 => match s.place? t.place with | some x => rgrateOf x | none => 0
  | 0x200 => p.ctvec
  | 0x201 => p.census
  | 0x202 => p.stowcfg
  | 0x203 => p.frarea
  | 0x205 => p.psuper
  | 0x206 => p.rbarea
  | _ => 0

/-- Registers held per package or I/O die. (DEDUCED, assumption 114.) -/
def pkgReg (s : State) (io n : Nat) : Word :=
  let k := s.pkg
  let port := s.rport io (bitsOf (k.rpsel.getD io 0).toNat 0 6)
  match n with
  | 0x300 => k.pwrcap
  | 0x301 => k.pwrstat
  | 0x302 => k.thermtrip
  | 0x303 => k.bootstat
  | 0x304 => k.attreq
  | 0x305 => k.partcmd
  | 0x306 => k.partstat
  | 0x307 => k.catbase2
  | 0x308 => k.catctl
  | 0x320 => k.sprsel
  | 0x330 => BitVec.ofNat 64 (k.ident.revoke.toNat * 2 ^ 16)
  | 0x331 => k.ident.svnfuse
  | 0x340 => k.rpsel.getD io 0
  | 0x341 => port.staged0
  | 0x342 => port.staged1
  | 0x343 => port.b2
  | _ =>
    if 0x310 ≤ n ∧ n ≤ 0x31B then
      (if io = 1 ∧ n ≥ 0x318 then k.sprcodeB.getD (n - 0x318) 0 else k.sprcode.getD (n - 0x310) 0)
    else if 0x31C ≤ n ∧ n ≤ 0x31E then k.sprtmo.getD (n - 0x31C) 0
    else if 0x321 ≤ n ∧ n ≤ 0x323 then sprcntWord s (n - 0x321)
    else 0

/-- What a system register reads as for a thread. -/
def sysRead (s : State) (t : Thread) (n : Nat) : Word :=
  if n < 0x100 then threadReg s t n
  else if n < 0x300 then (match partOf s t.asid with | some p => partReg s t p n | none => 0)
  else pkgReg s (ioOf t.id) n

/-! ### Writing (R340, R342) -/

/-- A bank of the current mode changes. -/
def Thread.updBank (t : Thread) (f : Bank → Bank) : Thread := t.setBank t.mode (f (t.bank t.mode))

/-- RW fields of a register held per thread. A thread that writes ASID keeps the number of its current scope, which is now one of the
new partition: the spec is silent (DESIGN CHOICE, assumption 151). -/
def Thread.sysWrite (t : Thread) (n : Nat) (v : Word) : Thread :=
  match n with
  | 0x000 => { t with fflags := v.setWidth 7 }
  | 0x001 => { t with tstat := BitVec.ofNat 64 (keepField v 32 32 + keepField v 0 24) }
  | 0x010 => t.updBank (fun b => { b with inh := v.getLsbD 2, pmode := v.setWidth 2 })
  | 0x011 => t.updBank (fun b => { b with epc := v })
  | 0x014 => t.updBank (fun b => { b with tvec := BitVec.ofNat 64 (keepField v 2 46) })
  | 0x015 => t.updBank (fun b => { b with escratch := v })
  | 0x020 => { t with asid := v.toNat % 2 ^ 16 }
  | _ => t

/-- A write of a register held per core, region port or partition. -/
def writePartReg (s : State) (t : Thread) (p : Partition) (n : Nat) (v : Word) : State :=
  match n with
  | 0x100 => (let c := ownCore t p; match execDqextWrite p.asid c.1 c.2 v s with | .next s1 => s1 | _ => s)
  | 0x102 => writeRgrate s t.place v
  | 0x200 => s.updPart p.asid (fun q => { q with ctvec := BitVec.ofNat 64 (keepField v 2 46) })
  | 0x201 => s.updPart p.asid (fun q => { q with census := BitVec.ofNat 64 (keepField v 12 36 + keepField v 0 4) })
  | 0x202 => writeStowcfg s p.asid v
  | 0x203 => s.updPart p.asid (fun q => { q with frarea := BitVec.ofNat 64 (keepField v 12 36 + max 6 (bitsOf v.toNat 0 4)) })
  | 0x204 => writeFresume s p.asid (fresumeAddr v) (v.getLsbD 0)
  | 0x205 => s.updPart p.asid (fun q => { q with psuper := BitVec.ofNat 64 (keepField v 0 5) })
  | 0x206 => writeRbarea s p.asid v
  | _ => s

/-- OTPCTL: a keyed write blows a fuse (R52). -/
def writeOtpctl (s : State) (v : Word) : State :=
  let fuse := bitsOf v.toNat 0 7
  let out (o : Out) : State := match o with | .next s1 => s1 | _ => s
  if bitsOf v.toNat 8 8 ≠ 0xB5 then s
  else if fuse < 4 then out (execOtpRevokeBlow (BitVec.ofNat 2 fuse) s)
  else if fuse ≥ 64 then out (execOtpSvnBlow (BitVec.ofNat 6 (fuse - 64)) s)
  else s

/-- A write of a register held per package or I/O die. -/
def writePkgReg (s : State) (io n : Nat) (v : Word) : State :=
  let out (o : Out) : State := match o with | .next s1 => s1 | _ => s
  let sel := bitsOf (s.pkg.rpsel.getD io 0).toNat 0 6
  match n with
  | 0x300 => out (execPwrcapWrite v s)
  | 0x302 => if v.getLsbD 0 then s.updPkg (fun k => { k with thermtrip := putField k.thermtrip 0 1 0 }) else s
  | 0x304 => out (execAttreqReport v s)
  | 0x305 => writePartcmd s v
  | 0x307 => s.updPkg (fun k => { k with catbase2 := BitVec.ofNat 64 (keepField v 6 42) })
  | 0x308 => writeCatctl s v
  | 0x320 => s.updPkg (fun k => { k with sprsel := BitVec.ofNat 64 (keepField v 0 14) })
  | 0x330 => writeOtpctl s v
  | 0x340 => s.updPkg (fun k => { k with rpsel := k.rpsel.set io (BitVec.ofNat 64 (keepField v 0 6)) })
  | 0x341 => let r := s.rport io sel; s.setRport io sel { r with staged0 := BitVec.ofNat 64 (keepField v 6 58) }
  | 0x342 => let r := s.rport io sel; s.setRport io sel { r with staged1 := v }
  | 0x343 => out (execRpbind2Write io v s)
  | _ =>
    if 0x310 ≤ n ∧ n ≤ 0x31B then out (execSprcodeWrite io (n - 0x310) v s)
    else if 0x31C ≤ n ∧ n ≤ 0x31E then
      s.updPkg (fun k => { k with sprtmo := k.sprtmo.set (n - 0x31C) (BitVec.ofNat 64 (max 1024 (bitsOf v.toNat 0 24))) })
    else if 0x321 ≤ n ∧ n ≤ 0x323 then out (execSprcntWrite (n - 0x321) s)
    else s

/-- A system register takes a write, with everything the write starts. -/
def sysWrite (s : State) (t : Thread) (n : Nat) (v : Word) : State :=
  -- a thread that leaves a partition, or comes to one, ends a silence there: it has run (R102)
  let s := if n = 0x020 then stir (stir s t.asid) (v.toNat % 2 ^ 16) else s
  if n < 0x100 then s.updThread t.id (fun u => u.sysWrite n v)
  else if n < 0x300 then (match partOf s t.asid with | some p => writePartReg s t p n v | none => s)
  else writePkgReg s (ioOf t.id) n v

/-! ### SYSRD and SYSWR -/

/-- R340's checks: an unassigned number is ILLEGAL, a mode below the register's takes PRIV. -/
def sysChecked (s : State) (t : Thread) (i : Instr) (n : Nat) (mode : SysAccess → Nat) (k : State) : State :=
  match sysAccess t.id.isSys n with
  | none => illegal s t (wordOf i)
  | some a => if t.mode.code < mode a then privTrap s t (wordOf i) else k

def execSysrd (g : Reg) (n : BitVec 16) (s : State) : Out :=
  onCur s (fun t =>
    sysChecked s t (.sysrd g n) n.toNat (fun a => a.read) (s.setThread (t.retire g (sysRead s t n.toNat))))

def execSyswr (g : Reg) (n : BitVec 16) (s : State) : Out :=
  onCur s (fun t =>
    sysChecked s t (.syswr g n) n.toNat (fun a => a.write)
      ((sysWrite s t n.toNat (t.reg g)).updThread t.id Thread.advance))

/-- The registers whose writes have rows of their own. -/
def ownRow (n : Nat) : Bool :=
  n = 0x100 || n = 0x102 || n = 0x202 || n = 0x204 || n = 0x206 || n = 0x300 || n = 0x304 || n = 0x305 || n = 0x308 ||
  (0x310 ≤ n && n ≤ 0x31B) || (0x321 ≤ n && n ≤ 0x323) || n = 0x330 || n = 0x343

/-- A system core before firmware's first write to its EPC and ESTAT: EPC is stored, and the write of ESTAT starts it
there in monitor mode (R333). -/
def firstWrite (s : State) (t : Thread) (n : Nat) (v : Word) : State :=
  if n = 0x011 then s.setThread (t.sysWrite n v)
  else if n = 0x010 then (let u := t.sysWrite n v; s.setThread { u with run := .running, pc := u.mon.epc })
  else s

/-- REGISTER_WRITE: the RW fields of a register with no row of its own, in a mode that may write it.
(DEDUCED, assumption 113.) -/
def execRegisterWrite (n : BitVec 16) (v : Word) (s : State) : Out :=
  onCur s (fun t =>
    if t.run = .unstarted then firstWrite s t n.toNat v
    else match sysAccess t.id.isSys n.toNat with
      | none => s
      | some a => if ownRow n.toNat || t.mode.code < a.write then s else sysWrite s t n.toNat v)

/-! ### CACHE (R343) -/

/-- The dies whose slices a thread's CACHE acts in. -/
def cacheDies (s : State) (t : Thread) : List Nat :=
  match t.id with
  | .ctl d _ _ => [d]
  | .sys _ => match partOf s t.asid with
    | some p => p.rects.map (fun r => r.die)
    | none => if t.asid = 0 then List.range 8 else []

/-- What is done to a line of a slice: it stays or leaves, and dirty data may be discarded. -/
structure LineOp where
  keep : Bool
  discard : Bool
  deriving DecidableEq, Repr

/-- A dirty line sets out for the LLC if its slice has an entry for it; a clean one stays or leaves at once (R211, R343). -/
def treatLine (op : LineOp) (d i : Nat) (s : State) (l : SLine) : State :=
  let x := sliceAt s d i
  if l.dirty && !op.discard then
    if !x.hasRoom then s
    else writeBack (s.setSlice (if op.keep then x.touch { l with dirty := false } else x.drop l.line)) d i l []
  else if op.keep then s else s.setSlice (x.drop l.line)

/-- The lines of some dies' slices that satisfy a condition are treated. It is over once none of them is dirty or on its way:
every write-back has been acknowledged. -/
def treatLines (s : State) (dies : List Nat) (hit : Nat → Bool) (op : LineOp) : State × Bool :=
  let mine := s.slices.filter (fun x => dies.contains x.die)
  if mine.any (fun x => x.pend.any (fun p => hit p.line)) then (s, false)
  else
    (mine.foldl (fun st x => (x.lines.filter (fun l => hit l.line)).foldl (treatLine op x.die x.idx) st) s,
      op.discard || !mine.any (fun x => x.lines.any (fun l => hit l.line && l.dirty)))

/-- Stores of the thread's buffer are performed first; errors among them are imprecise (R314, R343). -/
def drained (s : State) (t : Thread) (k : State → Thread → State) : State :=
  match drainList t t.stbuf s with
  | none => s
  | some (s1, es) => let u := { t with stbuf := [], imp := t.imp ++ es }; k (s1.setThread u) u

/-- A CACHE operation after its mode check: translation and permission, then its lines. (DEDUCED, assumption 116.) -/
def cacheOp (s0 : State) (t0 : Thread) (a : Reg) (nd : Bool → Need) (f : State → Thread → Xl → State × Bool) : State :=
  drained s0 t0 (fun s t =>
    let ea := (t.reg a).toNat
    match threadXl s t ea (nd (t.mode = .user)) with
    | .wait => s
    | .fault s1 c j p => accessFault s1 t c j p ea (nd false).w
    | .ok s1 (x, _) => match f s1 t x with
      | (s2, false) => s2
      | (s2, true) => s2.updThread t.id Thread.advance)

/-- The line of an address. -/
def lineOp (op : LineOp) (s : State) (t : Thread) (x : Xl) : State × Bool :=
  if x.sram then (s, true) else treatLines s (cacheDies s t) (fun l => l = lineKey x) op

def execCacheClean (a : Reg) (s : State) : Out :=
  onCur s (fun t => cacheOp s t a Need.load (lineOp { keep := true, discard := false }))

def execCacheCleaninv (a : Reg) (s : State) : Out :=
  onCur s (fun t => cacheOp s t a Need.load (lineOp { keep := false, discard := false }))

/-- CACHE.INV needs supervisor mode or above. -/
def execCacheInv (a : Reg) (s : State) : Out :=
  onCur s (fun t => if t.mode = .user then privTrap s t (wordOf (.cacheInv a))
    else cacheOp s t a Need.store (lineOp { keep := false, discard := true }))

/-- Every line of the block leaves, and its decoded tiles are dropped. -/
def blockOp (s : State) (t : Thread) (x : Xl) : State × Bool :=
  if x.sram then (s, true)
  else
    let dies := cacheDies s t
    let inBlock (l : Nat) : Bool := l / 1024 = lineKey x / 1024
    let (s1, excess) := treatLines s dies inBlock { keep := false, discard := false }
    let drop (y : Slice) : Slice :=
      { y with tiles := y.tiles.filter (fun k => (k.win.dir + 4096 * k.idx) / 2 ^ 17 ≠ x.pa / 2 ^ 17) }
    ({ s1 with slices := updBy (fun y => dies.contains y.die) drop s1.slices }, excess)

def execCacheBlockinv (a : Reg) (s : State) : Out := onCur s (fun t => cacheOp s t a Need.load blockOp)

/-! ### TLBINV (R344) -/

/-- A walk in flight is discarded, so that the generator walks again at its next access (R228). -/
def Running.rewalk (r : Running) : Running := { r with walking := none }

def Port.rewalk (q : Port) : Port :=
  { q with running := q.running.map Running.rewalk, older := q.older.map Running.rewalk, logs := q.logs.map Running.rewalk }

/-- Cached translations, walker entries and decoded tiles that satisfy the conditions are dropped.
(DEDUCED, assumption 115.) -/
def tlbDrop (s : State) (asid : Nat → Bool) (xl : Xlat → Bool) (tile : CompPage → Bool) (we : Bool) : State :=
  { s with
    places := updBy (fun p => asid p.asid) (fun p => { p with ports := p.ports.map Port.rewalk }) s.places
    xlats := s.xlats.filter (fun e => !xl e.ent)
    walkers := s.walkers.filter (fun w => !(we && asid w.asid))
    slices := s.slices.map (fun x => { x with tiles := x.tiles.filter (fun k => !tile k.win) }) }

def Xlat.isGlobal (x : Xlat) : Bool := bitsOf x.pte.toNat 6 1 = 1

/-- TLBINV's mode check: above user; in supervisor mode the thread's own ASID alone; ALL in monitor mode alone. -/
def tlbinv (i : Instr) (b : Reg) (all : Bool) (s : State) (k : State → Thread → Nat → State) : Out :=
  onCur s (fun t =>
    let asid := (t.reg b).toNat % 2 ^ 16
    if t.mode = .user || (t.mode = .supervisor && (all || asid ≠ t.asid)) then privTrap s t (wordOf i)
    else (k s t asid).updThread t.id Thread.advance)

/-- TLBINV.PAGE: the translation of the page for the ASID, global or not, and the page's decoded tiles. -/
def execTlbinvPage (a b : Reg) (s : State) : Out :=
  tlbinv (.tlbinvPage a b) b false s (fun s t asid =>
    let va := (t.reg a).toNat
    tlbDrop s (fun k => k = asid) (fun x => (x.asid = asid || x.isGlobal) && va / 2 ^ x.size = x.vpage)
      (fun w => (w.asid = asid || w.glob) && va / 2 ^ w.size = w.page) false)

def execTlbinvAsid (a b : Reg) (s : State) : Out :=
  tlbinv (.tlbinvAsid a b) b false s (fun s _ asid =>
    tlbDrop s (fun k => k = asid) (fun x => x.asid = asid && !x.isGlobal) (fun w => w.asid = asid) true)

def execTlbinvAll (a b : Reg) (s : State) : Out :=
  tlbinv (.tlbinvAll a b) b true s (fun s _ _ => tlbDrop s (fun _ => true) (fun _ => true) (fun _ => true) true)

/-! ### Acts from outside the instruction stream -/

/-- Operations whose results are predicted or computed twice, so that a check at the place that forms them can fail
(R199). AND to SRA, which the table of R199 does not name, count as integer arithmetic (DESIGN CHOICE, assumption 121). -/
def twoPaths (i : Instr) : Bool :=
  match i with
  | .cellAdd _ _ | .cellSub _ _ | .cellMul _ _ | .cellMac _ _ | .cellMin _ _ | .cellMax _ _ | .cellSel _ _ | .cellAbs _ _ | .cellNeg _ _
  | .cellCmp _ _ | .cellAnd _ _ | .cellOr _ _ | .cellXor _ _ | .cellNot _ _ | .cellShl _ _ | .cellShr _ _ | .cellSra _ _
  | .cellRcp _ _ | .cellRsq _ _ | .cellSqrt _ _ | .cellExp2 _ _ | .cellLog2 _ _ | .cellTanh _ _ | .cellSig _ _
  | .cellCvt _ _ | .cellScale _ _ | .cellRsum _ _ | .cellRmax _ _ | .cellAcc _ _ | .cellPack _ _ | .cellUnpack _ _
  | .mma _ _ => true
  | _ => false

/-- The two computations of the result that a place formed last disagree: a RESIDUE fault there, the token quarantined
(R199, R200). A matrix node's predicted results stand in its active accumulator, whose drained beats are then void. -/
def pathsDiffer (n : Node) (s : State) : State :=
  match s.site? n, s.place? n.place with
  | some x, some p => match x.st with
    | .matrix act oth _ =>
      if act.isEmpty then s
      else (errorFault s p n 7 (sideLow s (plainTok .data 0))).updSite n (fun y => { y with st := .matrix act oth true })
    | _ => match (siteInstr s n).any twoPaths, x.out.getLast? with
      | true, some (i, t) =>
        if t.kind = .data && !t.void then
          (errorFault s p n 7 (sideLow s t)).updSite n (fun y =>
            { y with out := y.out.dropLast ++ [(i, { voidTok t.kind t.last with route := t.route })] })
        else s
      | _, _ => s
  | _, _ => s

/-- An act from outside the instruction stream (DESIGN CHOICE, assumption 121). -/
def outsideDo (a : Outside) (s : State) : State :=
  match a with
  | .pathsDiffer n => pathsDiffer n s
  | a => outsideAct a s

end Sys2Proof.Machine
end

