-- ==== Sys2Proof/Machine/Dispatch.lean ====
section
/-! DEFINITION. One arm per instruction: a direct call of its meaning. -/

namespace Sys2Proof.Machine

def exec (i : Instr) (s : State) : Host.Outcome State Fault Refusal :=
  match i with
  | .powerOnReset => Sys2Proof.Machine.execPowerOnReset s
  | .bootLinkTimeout => Sys2Proof.Machine.execBootLinkTimeout s
  | .bootDhcpOffer http => Sys2Proof.Machine.execBootDhcpOffer http s
  | .bootDhcpTimeout => Sys2Proof.Machine.execBootDhcpTimeout s
  | .bootImageFetched ok img => Sys2Proof.Machine.execBootImageFetched ok img s
  | .bootRetryTimer => Sys2Proof.Machine.execBootRetryTimer s
  | .coreRailUndervolt die => Sys2Proof.Machine.execCoreRailUndervolt die s
  | .powerSample r => Sys2Proof.Machine.execPowerSample r s
  | .pwrcapWrite v => Sys2Proof.Machine.execPwrcapWrite v s
  | .thermalTrip hot temp => Sys2Proof.Machine.execThermalTrip hot temp s
  | .railSetFrame die code => Sys2Proof.Machine.execRailSetFrame die code s
  | .railFrameRepeat => Sys2Proof.Machine.execRailFrameRepeat s
  | .brosumPortTrain p lanes cap => Sys2Proof.Machine.execBrosumPortTrain p lanes cap s
  | .brosumPortDown p => Sys2Proof.Machine.execBrosumPortDown p s
  | .pcieLinkTrain io gen width => Sys2Proof.Machine.execPcieLinkTrain io gen width s
  | .messageEncode m => Sys2Proof.Machine.execMessageEncode m s
  | .fragmentArrive pos plane errs => Sys2Proof.Machine.execFragmentArrive pos plane errs s
  | .messageDeliver k => Sys2Proof.Machine.execMessageDeliver k s
  | .ingressSlotAdmit pos => Sys2Proof.Machine.execIngressSlotAdmit pos s
  | .decodeTimeout k => Sys2Proof.Machine.execDecodeTimeout k s
  | .lossNoticeReceive pos => Sys2Proof.Machine.execLossNoticeReceive pos s
  | .responseTimerExpire pos => Sys2Proof.Machine.execResponseTimerExpire pos s
  | .sprcodeWrite io idx v => Sys2Proof.Machine.execSprcodeWrite io idx v s
  | .sprcodeErrClear io idx => Sys2Proof.Machine.execSprcodeErrClear io idx s
  | .sprcntWrite idx => Sys2Proof.Machine.execSprcntWrite idx s
  | .brosumAckSend dst src => Sys2Proof.Machine.execBrosumAckSend dst src s
  | .brosumAckReceive pos => Sys2Proof.Machine.execBrosumAckReceive pos s
  | .brosumRetainTimeout pos => Sys2Proof.Machine.execBrosumRetainTimeout pos s
  | .otpRevokeBlow slot => Sys2Proof.Machine.execOtpRevokeBlow slot s
  | .otpSvnBlow bit => Sys2Proof.Machine.execOtpSvnBlow bit s
  | .attreqReport v => Sys2Proof.Machine.execAttreqReport v s
  | .attestReportDone => Sys2Proof.Machine.execAttestReportDone s
  | .attreqErrClear => Sys2Proof.Machine.execAttreqErrClear s
  | .rppushWrite io p v hv staged => Sys2Proof.Machine.execRppushWrite io p v hv staged s
  | .udpHello io mac to_ bytes => Sys2Proof.Machine.execUdpHello io mac to_ bytes s
  | .udpPush io mac addr port bytes => Sys2Proof.Machine.execUdpPush io mac addr port bytes s
  | .ringAgentPush io p => Sys2Proof.Machine.execRingAgentPush io p s
  | .rpbind2Write io v => Sys2Proof.Machine.execRpbind2Write io v s
  | .partcmdCreate v => Sys2Proof.Machine.execPartcmdCreate v s
  | .partcmdDestroy v => Sys2Proof.Machine.execPartcmdDestroy v s
  | .partcmdHalt v => Sys2Proof.Machine.execPartcmdHalt v s
  | .partcmdResume v => Sys2Proof.Machine.execPartcmdResume v s
  | .partcmdDrain v => Sys2Proof.Machine.execPartcmdDrain v s
  | .partcmdFill v => Sys2Proof.Machine.execPartcmdFill v s
  | .partcmdErrClear => Sys2Proof.Machine.execPartcmdErrClear s
  | .partitionCopyDone => Sys2Proof.Machine.execPartitionCopyDone s
  | .partitionHalted asid => Sys2Proof.Machine.execPartitionHalted asid s
  | .swapPlanesDone t => Sys2Proof.Machine.execSwapPlanesDone t s
  | .launchComplete asid slot => Sys2Proof.Machine.execLaunchComplete asid slot s
  | .launchAging asid slot => Sys2Proof.Machine.execLaunchAging asid slot s
  | .dispatch asid => Sys2Proof.Machine.execDispatch asid s
  | .headBlockLimit asid level => Sys2Proof.Machine.execHeadBlockLimit asid level s
  | .folioPowerReady place => Sys2Proof.Machine.execFolioPowerReady place s
  | .blockSchedule place => Sys2Proof.Machine.execBlockSchedule place s
  | .contextSwitch place => Sys2Proof.Machine.execContextSwitch place s
  | .rgrateWrite place v => Sys2Proof.Machine.execRgrateWrite place v s
  | .rateWindow place port => Sys2Proof.Machine.execRateWindow place port s
  | .dqextWrite asid die core v => Sys2Proof.Machine.execDqextWrite asid die core v s
  | .stealRequest t => Sys2Proof.Machine.execStealRequest t s
  | .stealResponse t => Sys2Proof.Machine.execStealResponse t s
  | .stealAck no => Sys2Proof.Machine.execStealAck no s
  | .stealCopyTimeout no => Sys2Proof.Machine.execStealCopyTimeout no s
  | .ringOpAtSlice asid op who => Sys2Proof.Machine.execRingOpAtSlice asid op who s
  | .ringWaitGrant asid block claims => Sys2Proof.Machine.execRingWaitGrant asid block claims s
  | .ringReinit asid block => Sys2Proof.Machine.execRingReinit asid block s
  | .waitDeadlock asid => Sys2Proof.Machine.execWaitDeadlock asid s
  | .cancelAcknowledge asid ticket => Sys2Proof.Machine.execCancelAcknowledge asid ticket s
  | .catctlLoad v => Sys2Proof.Machine.execCatctlLoad v s
  | .catalogueLoadDone => Sys2Proof.Machine.execCatalogueLoadDone s
  | .catctlErrClear => Sys2Proof.Machine.execCatctlErrClear s
  | .catalogueFetchDone asid die core routine => Sys2Proof.Machine.execCatalogueFetchDone asid die core routine s
  | .curatorServeHead asid core => Sys2Proof.Machine.execCuratorServeHead asid core s
  | .stowCopyDone asid core => Sys2Proof.Machine.execStowCopyDone asid core s
  | .stowedResultArrive place k tok => Sys2Proof.Machine.execStowedResultArrive place k tok s
  | .unstowCopyDone place => Sys2Proof.Machine.execUnstowCopyDone place s
  | .stowcfgWrite asid v => Sys2Proof.Machine.execStowcfgWrite asid v s
  | .curatorStall asid core => Sys2Proof.Machine.execCuratorStall asid core s
  | .granulesStandby asid => Sys2Proof.Machine.execGranulesStandby asid s
  | .switchForward n src => Sys2Proof.Machine.execSwitchForward n src s
  | .siteClockGate n => Sys2Proof.Machine.execSiteClockGate n s
  | .siteWake n => Sys2Proof.Machine.execSiteWake n s
  | .pageWalkDone place port => Sys2Proof.Machine.execPageWalkDone place port s
  | .sliceRequest pos => Sys2Proof.Machine.execSliceRequest pos s
  | .retryTimerExpire place port elem => Sys2Proof.Machine.execRetryTimerExpire place port elem s
  | .prioReservationExpire die slice => Sys2Proof.Machine.execPrioReservationExpire die slice s
  | .sliceFillInstall die slice line => Sys2Proof.Machine.execSliceFillInstall die slice line s
  | .writebackAck die slice line => Sys2Proof.Machine.execWritebackAck die slice line s
  | .llcRequest pos => Sys2Proof.Machine.execLlcRequest pos s
  | .llcFill base line => Sys2Proof.Machine.execLlcFill base line s
  | .expanderDecodeDone die slice line => Sys2Proof.Machine.execExpanderDecodeDone die slice line s
  | .generatorResponse pos => Sys2Proof.Machine.execGeneratorResponse pos s
  | .fresumeResume asid addr => Sys2Proof.Machine.execFresumeResume asid addr s
  | .fresumeAbandon asid addr => Sys2Proof.Machine.execFresumeAbandon asid addr s
  | .waveComplete place => Sys2Proof.Machine.execWaveComplete place s
  | .rollback place => Sys2Proof.Machine.execRollback place s
  | .rollbackReread place => Sys2Proof.Machine.execRollbackReread place s
  | .rbareaWrite asid v => Sys2Proof.Machine.execRbareaWrite asid v s
  | .takeAsyncTrap t => Sys2Proof.Machine.execTakeAsyncTrap t s
  | .memoryResponseArrive t r => Sys2Proof.Machine.execMemoryResponseArrive t r s
  | .wfeTimeout t => Sys2Proof.Machine.execWfeTimeout t s
  | .commandStart place port => Sys2Proof.Machine.execCommandStart place port s
  | .mcastLanding die core line => Sys2Proof.Machine.execMcastLanding die core line s
  | .mcastDepartureNotice place port line => Sys2Proof.Machine.execMcastDepartureNotice place port line s
  | .mcastDropNotice die core line => Sys2Proof.Machine.execMcastDropNotice die core line s
  | .floadDone t => Sys2Proof.Machine.execFloadDone t s
  | .registerWrite num v => Sys2Proof.Machine.execRegisterWrite num v s
  | .add d a b w => Sys2Proof.Machine.execAdd d a b w s
  | .sub d a b w => Sys2Proof.Machine.execSub d a b w s
  | .and d a b w => Sys2Proof.Machine.execAnd d a b w s
  | .or d a b w => Sys2Proof.Machine.execOr d a b w s
  | .xor d a b w => Sys2Proof.Machine.execXor d a b w s
  | .shl d a b w => Sys2Proof.Machine.execShl d a b w s
  | .shr d a b w => Sys2Proof.Machine.execShr d a b w s
  | .sra d a b w => Sys2Proof.Machine.execSra d a b w s
  | .mul d a b w => Sys2Proof.Machine.execMul d a b w s
  | .mulh d a b w => Sys2Proof.Machine.execMulh d a b w s
  | .mulhu d a b w => Sys2Proof.Machine.execMulhu d a b w s
  | .div d a b w => Sys2Proof.Machine.execDiv d a b w s
  | .divu d a b w => Sys2Proof.Machine.execDivu d a b w s
  | .rem d a b w => Sys2Proof.Machine.execRem d a b w s
  | .remu d a b w => Sys2Proof.Machine.execRemu d a b w s
  | .min d a b w => Sys2Proof.Machine.execMin d a b w s
  | .max d a b w => Sys2Proof.Machine.execMax d a b w s
  | .minu d a b w => Sys2Proof.Machine.execMinu d a b w s
  | .maxu d a b w => Sys2Proof.Machine.execMaxu d a b w s
  | .slt d a b w => Sys2Proof.Machine.execSlt d a b w s
  | .sltu d a b w => Sys2Proof.Machine.execSltu d a b w s
  | .clz d a w => Sys2Proof.Machine.execClz d a w s
  | .ctz d a w => Sys2Proof.Machine.execCtz d a w s
  | .popc d a w => Sys2Proof.Machine.execPopc d a w s
  | .bswap d a w => Sys2Proof.Machine.execBswap d a w s
  | .crcw d a b sc => Sys2Proof.Machine.execCrcw d a b sc s
  | .addi d a imm => Sys2Proof.Machine.execAddi d a imm s
  | .andi d a imm => Sys2Proof.Machine.execAndi d a imm s
  | .ori d a imm => Sys2Proof.Machine.execOri d a imm s
  | .xori d a imm => Sys2Proof.Machine.execXori d a imm s
  | .shli d a imm => Sys2Proof.Machine.execShli d a imm s
  | .shri d a imm => Sys2Proof.Machine.execShri d a imm s
  | .srai d a imm => Sys2Proof.Machine.execSrai d a imm s
  | .slti d a imm => Sys2Proof.Machine.execSlti d a imm s
  | .sltui d a imm => Sys2Proof.Machine.execSltui d a imm s
  | .lih d imm => Sys2Proof.Machine.execLih d imm s
  | .fadd d a b rs p => Sys2Proof.Machine.execFadd d a b rs p s
  | .fsub d a b rs p => Sys2Proof.Machine.execFsub d a b rs p s
  | .fmul d a b rs p => Sys2Proof.Machine.execFmul d a b rs p s
  | .fdiv d a b rs p => Sys2Proof.Machine.execFdiv d a b rs p s
  | .fsqrt d a rs p => Sys2Proof.Machine.execFsqrt d a rs p s
  | .fmac d a b rs p => Sys2Proof.Machine.execFmac d a b rs p s
  | .fmin d a b p => Sys2Proof.Machine.execFmin d a b p s
  | .fmax d a b p => Sys2Proof.Machine.execFmax d a b p s
  | .feq d a b p => Sys2Proof.Machine.execFeq d a b p s
  | .flt d a b p => Sys2Proof.Machine.execFlt d a b p s
  | .fle d a b p => Sys2Proof.Machine.execFle d a b p s
  | .fcvt d a code rs => Sys2Proof.Machine.execFcvt d a code rs s
  | .fclass d a p => Sys2Proof.Machine.execFclass d a p s
  | .ldb d a imm => Sys2Proof.Machine.execLdb d a imm s
  | .ldbu d a imm => Sys2Proof.Machine.execLdbu d a imm s
  | .ldh d a imm => Sys2Proof.Machine.execLdh d a imm s
  | .ldhu d a imm => Sys2Proof.Machine.execLdhu d a imm s
  | .ldw d a imm => Sys2Proof.Machine.execLdw d a imm s
  | .ldwu d a imm => Sys2Proof.Machine.execLdwu d a imm s
  | .ldd d a imm => Sys2Proof.Machine.execLdd d a imm s
  | .stb d a imm => Sys2Proof.Machine.execStb d a imm s
  | .sth d a imm => Sys2Proof.Machine.execSth d a imm s
  | .stw d a imm => Sys2Proof.Machine.execStw d a imm s
  | .std d a imm => Sys2Proof.Machine.execStd d a imm s
  | .lda d a sc u w => Sys2Proof.Machine.execLda d a sc u w s
  | .stl a b sc w => Sys2Proof.Machine.execStl a b sc w s
  | .amoadd d a b sc w => Sys2Proof.Machine.execAmoadd d a b sc w s
  | .amoswap d a b sc w => Sys2Proof.Machine.execAmoswap d a b sc w s
  | .amocas d a b sc w => Sys2Proof.Machine.execAmocas d a b sc w s
  | .amomin d a b sc u w => Sys2Proof.Machine.execAmomin d a b sc u w s
  | .amomax d a b sc u w => Sys2Proof.Machine.execAmomax d a b sc u w s
  | .amoand d a b sc w => Sys2Proof.Machine.execAmoand d a b sc w s
  | .amoor d a b sc w => Sys2Proof.Machine.execAmoor d a b sc w s
  | .amoxor d a b sc w => Sys2Proof.Machine.execAmoxor d a b sc w s
  | .beq a b imm => Sys2Proof.Machine.execBeq a b imm s
  | .bne a b imm => Sys2Proof.Machine.execBne a b imm s
  | .blt a b imm => Sys2Proof.Machine.execBlt a b imm s
  | .bge a b imm => Sys2Proof.Machine.execBge a b imm s
  | .bltu a b imm => Sys2Proof.Machine.execBltu a b imm s
  | .bgeu a b imm => Sys2Proof.Machine.execBgeu a b imm s
  | .jmp imm => Sys2Proof.Machine.execJmp imm s
  | .jal imm => Sys2Proof.Machine.execJal imm s
  | .jalr d a imm => Sys2Proof.Machine.execJalr d a imm s
  | .fence sc => Sys2Proof.Machine.execFence sc s
  | .barinit d a b => Sys2Proof.Machine.execBarinit d a b s
  | .bararr d a => Sys2Proof.Machine.execBararr d a s
  | .barwait d a b => Sys2Proof.Machine.execBarwait d a b s
  | .wfe => Sys2Proof.Machine.execWfe s
  | .kset a kx p => Sys2Proof.Machine.execKset a kx p s
  | .kmov kx ky => Sys2Proof.Machine.execKmov kx ky s
  | .kld a kx => Sys2Proof.Machine.execKld a kx s
  | .scmd d kx => Sys2Proof.Machine.execScmd d kx s
  | .pstat d a => Sys2Proof.Machine.execPstat d a s
  | .fload d a p => Sys2Proof.Machine.execFload d a p s
  | .fsel p => Sys2Proof.Machine.execFsel p s
  | .fseam d a p => Sys2Proof.Machine.execFseam d a p s
  | .launch d a => Sys2Proof.Machine.execLaunch d a s
  | .lwait d a => Sys2Proof.Machine.execLwait d a s
  | .dqpush d a b => Sys2Proof.Machine.execDqpush d a b s
  | .dqpop d => Sys2Proof.Machine.execDqpop d s
  | .dqsteal d a => Sys2Proof.Machine.execDqsteal d a s
  | .rclaim d a b => Sys2Proof.Machine.execRclaim d a b s
  | .rcommit d a b => Sys2Proof.Machine.execRcommit d a b s
  | .rwait d a b => Sys2Proof.Machine.execRwait d a b s
  | .rretire d a b => Sys2Proof.Machine.execRretire d a b s
  | .scopen d => Sys2Proof.Machine.execScopen d s
  | .scclose d a => Sys2Proof.Machine.execScclose d a s
  | .scset d a => Sys2Proof.Machine.execScset d a s
  | .cancel d a b => Sys2Proof.Machine.execCancel d a b s
  | .cwait d a => Sys2Proof.Machine.execCwait d a s
  | .eret => Sys2Proof.Machine.execEret s
  | .halt => Sys2Proof.Machine.execHalt s
  | .cacheClean a => Sys2Proof.Machine.execCacheClean a s
  | .cacheCleaninv a => Sys2Proof.Machine.execCacheCleaninv a s
  | .cacheInv a => Sys2Proof.Machine.execCacheInv a s
  | .cacheBlockinv a => Sys2Proof.Machine.execCacheBlockinv a s
  | .tlbinvPage a b => Sys2Proof.Machine.execTlbinvPage a b s
  | .tlbinvAsid a b => Sys2Proof.Machine.execTlbinvAsid a b s
  | .tlbinvAll a b => Sys2Proof.Machine.execTlbinvAll a b s
  | .swapp d a => Sys2Proof.Machine.execSwapp d a s
  | .sysrd g num => Sys2Proof.Machine.execSysrd g num s
  | .syswr g num => Sys2Proof.Machine.execSyswr g num s
  | .trap num => Sys2Proof.Machine.execTrap num s
  | .cmdLoad p f => Sys2Proof.Machine.execCmdLoad p f s
  | .cmdStore p f => Sys2Proof.Machine.execCmdStore p f s
  | .cmdCopy p f => Sys2Proof.Machine.execCmdCopy p f s
  | .cmdGather p f => Sys2Proof.Machine.execCmdGather p f s
  | .cmdScatter p f => Sys2Proof.Machine.execCmdScatter p f s
  | .cmdReduce p f => Sys2Proof.Machine.execCmdReduce p f s
  | .cmdMcast p f => Sys2Proof.Machine.execCmdMcast p f s
  | .cmdFill p f => Sys2Proof.Machine.execCmdFill p f s
  | .cmdPset p f => Sys2Proof.Machine.execCmdPset p f s
  | .cmdInject p f => Sys2Proof.Machine.execCmdInject p f s
  | .cmdSync p f => Sys2Proof.Machine.execCmdSync p f s
  | .cmdRecord p f => Sys2Proof.Machine.execCmdRecord p f s
  | .cmdReplay p f => Sys2Proof.Machine.execCmdReplay p f s
  | .cmdXput p f => Sys2Proof.Machine.execCmdXput p f s
  | .cmdXget p f => Sys2Proof.Machine.execCmdXget p f s
  | .cmdCreduce p f => Sys2Proof.Machine.execCmdCreduce p f s
  | .cmdPrefetch p f => Sys2Proof.Machine.execCmdPrefetch p f s
  | .cmdFlush p f => Sys2Proof.Machine.execCmdFlush p f s
  | .cellAdd n w => Sys2Proof.Machine.execCellAdd n w s
  | .cellSub n w => Sys2Proof.Machine.execCellSub n w s
  | .cellMul n w => Sys2Proof.Machine.execCellMul n w s
  | .cellMac n w => Sys2Proof.Machine.execCellMac n w s
  | .cellMin n w => Sys2Proof.Machine.execCellMin n w s
  | .cellMax n w => Sys2Proof.Machine.execCellMax n w s
  | .cellAbs n w => Sys2Proof.Machine.execCellAbs n w s
  | .cellNeg n w => Sys2Proof.Machine.execCellNeg n w s
  | .cellCmp n w => Sys2Proof.Machine.execCellCmp n w s
  | .cellSel n w => Sys2Proof.Machine.execCellSel n w s
  | .cellAnd n w => Sys2Proof.Machine.execCellAnd n w s
  | .cellOr n w => Sys2Proof.Machine.execCellOr n w s
  | .cellXor n w => Sys2Proof.Machine.execCellXor n w s
  | .cellNot n w => Sys2Proof.Machine.execCellNot n w s
  | .cellShl n w => Sys2Proof.Machine.execCellShl n w s
  | .cellShr n w => Sys2Proof.Machine.execCellShr n w s
  | .cellSra n w => Sys2Proof.Machine.execCellSra n w s
  | .cellRcp n w => Sys2Proof.Machine.execCellRcp n w s
  | .cellRsq n w => Sys2Proof.Machine.execCellRsq n w s
  | .cellSqrt n w => Sys2Proof.Machine.execCellSqrt n w s
  | .cellExp2 n w => Sys2Proof.Machine.execCellExp2 n w s
  | .cellLog2 n w => Sys2Proof.Machine.execCellLog2 n w s
  | .cellTanh n w => Sys2Proof.Machine.execCellTanh n w s
  | .cellSig n w => Sys2Proof.Machine.execCellSig n w s
  | .cellCvt n w => Sys2Proof.Machine.execCellCvt n w s
  | .cellScale n w => Sys2Proof.Machine.execCellScale n w s
  | .cellRsum n w => Sys2Proof.Machine.execCellRsum n w s
  | .cellRmax n w => Sys2Proof.Machine.execCellRmax n w s
  | .cellAcc n w => Sys2Proof.Machine.execCellAcc n w s
  | .cellPerm n w => Sys2Proof.Machine.execCellPerm n w s
  | .cellBcast n w => Sys2Proof.Machine.execCellBcast n w s
  | .cellPack n w => Sys2Proof.Machine.execCellPack n w s
  | .cellUnpack n w => Sys2Proof.Machine.execCellUnpack n w s
  | .cellConst n w => Sys2Proof.Machine.execCellConst n w s
  | .cellPass n w => Sys2Proof.Machine.execCellPass n w s
  | .cellFilter n w => Sys2Proof.Machine.execCellFilter n w s
  | .cellLoop n w => Sys2Proof.Machine.execCellLoop n w s
  | .cellCount n w => Sys2Proof.Machine.execCellCount n w s
  | .cellLd n w => Sys2Proof.Machine.execCellLd n w s
  | .cellSt n w => Sys2Proof.Machine.execCellSt n w s
  | .cellAt n w => Sys2Proof.Machine.execCellAt n w s
  | .cellLda n w => Sys2Proof.Machine.execCellLda n w s
  | .cellStl n w => Sys2Proof.Machine.execCellStl n w s
  | .cellFork n w => Sys2Proof.Machine.execCellFork n w s
  | .cellJoin n w => Sys2Proof.Machine.execCellJoin n w s
  | .cellFence n w => Sys2Proof.Machine.execCellFence n w s
  | .cellAgen n w => Sys2Proof.Machine.execCellAgen n w s
  | .cellBuf n w => Sys2Proof.Machine.execCellBuf n w s
  | .cellFifo n w => Sys2Proof.Machine.execCellFifo n w s
  | .cellLinebuf n w => Sys2Proof.Machine.execCellLinebuf n w s
  | .cellSport n w => Sys2Proof.Machine.execCellSport n w s
  | .cellMseq n w => Sys2Proof.Machine.execCellMseq n w s
  | .mma n c => Sys2Proof.Machine.execMma n c s
  | .mzero n c => Sys2Proof.Machine.execMzero n c s
  | .mdrain n c => Sys2Proof.Machine.execMdrain n c s
  | .cellHdrgen n w => Sys2Proof.Machine.execCellHdrgen n w s
  | .cellMarkin n w => Sys2Proof.Machine.execCellMarkin n w s
  | .cellFlags n w => Sys2Proof.Machine.execCellFlags n w s
  | .cellSegin n w => Sys2Proof.Machine.execCellSegin n w s
  | .cellPitch n w => Sys2Proof.Machine.execCellPitch n w s
  | .cellPitchg n w => Sys2Proof.Machine.execCellPitchg n w s
  | .cellArgp n w => Sys2Proof.Machine.execCellArgp n w s
  | .cellStrike n w => Sys2Proof.Machine.execCellStrike n w s
  | .ropSteer n w => Sys2Proof.Machine.execRopSteer n w s
  | .ropMerge n w => Sys2Proof.Machine.execRopMerge n w s
  | .ropCarry n w => Sys2Proof.Machine.execRopCarry n w s
  | .ropInvar n w => Sys2Proof.Machine.execRopInvar n w s
  | .ropOrdmerge n w => Sys2Proof.Machine.execRopOrdmerge n w s
  | .ropGate n w => Sys2Proof.Machine.execRopGate n w s
  | .ethernetLinkUp io => Sys2Proof.Machine.execEthernetLinkUp io s
  | .hbm4eStackTrained n => Sys2Proof.Machine.execHbm4eStackTrained n s
  | .fabricDieTrained die => Sys2Proof.Machine.execFabricDieTrained die s
  | .coreRailUp die => Sys2Proof.Machine.execCoreRailUp die s

end Sys2Proof.Machine
end

