-- ==== Sys2Proof/Machine/Step.lean ====
section
/-! DEFINITION. One step of the machine: the agenda says who moves; with nothing on it the current thread issues
(DESIGN CHOICE, assumption 1). -/

namespace Sys2Proof.Machine

/-- A thread at its turn: a pending asynchronous trap first (R334), then fetch, decode and the instruction; a word
that decodes to nothing takes ILLEGAL (R285). A thread that cannot issue, or whose die or region is not up, lets a cycle pass. -/
def issue (s : State) (tid : ThreadId) : Host.Outcome State Fault Refusal :=
  let s0 := { s with cur := tid }
  match s0.thread? tid with
  | none => .next (idle s0)
  | some t =>
    if !threadUp s0 t then .next (idle s0)
    else match takeAsync s0 t with
    | some s' => .next s'
    | none =>
      if t.canIssue then
        match fetch s0 t with
        | .wait => .next (idle s0)
        | .trapped s' => .next s'
        | .word s' w =>
          match decodeScalar w with
          | some i => exec i s'
          | none => .next (illegal s' t (w.setWidth 64))
      else .next (idle s0)

/-- An instruction that is found where it stands, or nothing. -/
def perform (s : State) (i : Option Instr) : Host.Outcome State Fault Refusal :=
  match i with
  | some i => exec i s
  | none => .next s

def step (s : State) : Host.Outcome State Fault Refusal :=
  match s.agenda with
  | [] => issue s s.cur
  | a :: rest =>
    let s0 := { s with agenda := rest }
    match a with
    | .thread t => issue s0 t
    | .site n => perform s0 (siteInstr s0 n)
    | .router n k => perform s0 (routerInstr s0 n k)
    | .port p k => perform s0 (portInstr s0 p k)
    | .event i => if (encode i).isNone then exec i s0 else .next s0
    | .outside a => .next (outsideDo a s0)
    | .tick n => .next { s0 with cycle := s0.cycle + n }

/-- The word stored where the next step fetches, by the thread that issues then (DESIGN CHOICE, assumption 6). -/
def State.withFetchWord (s : State) (nbits w : Nat) : State :=
  match s.thread? s.cur with
  | none => s
  | some t =>
    let u := readyThread t
    storeFetchWord { (s.setThread u) with agenda := [] } u (BitVec.ofNat 32 (if nbits ≤ 32 then w else 0))

end Sys2Proof.Machine
end

