-- ==== Sys2Proof/Laws/State.lean ====
section
/-! SUPPORT. What each update of the state and of a thread does to each field, so that no proof unfolds a record update. -/

namespace Sys2Proof.Machine

/-! ### setThread -/

@[simp] theorem State.setThread_agenda (s : State) (t : Thread) : (s.setThread t).agenda = s.agenda := rfl
@[simp] theorem State.setThread_cur (s : State) (t : Thread) : (s.setThread t).cur = s.cur := rfl
@[simp] theorem State.setThread_cycle (s : State) (t : Thread) : (s.setThread t).cycle = s.cycle := rfl
@[simp] theorem State.setThread_freeCtr (s : State) (t : Thread) : (s.setThread t).freeCtr = s.freeCtr := rfl
@[simp] theorem State.setThread_pkg (s : State) (t : Thread) : (s.setThread t).pkg = s.pkg := rfl
@[simp] theorem State.setThread_threads (s : State) (t : Thread) : (s.setThread t).threads = updBy (fun u => u.id = t.id) (fun _ => t) s.threads := rfl
@[simp] theorem State.setThread_parts (s : State) (t : Thread) : (s.setThread t).parts = s.parts := rfl
@[simp] theorem State.setThread_places (s : State) (t : Thread) : (s.setThread t).places = s.places := rfl
@[simp] theorem State.setThread_nextPlace (s : State) (t : Thread) : (s.setThread t).nextPlace = s.nextPlace := rfl
@[simp] theorem State.setThread_sites (s : State) (t : Thread) : (s.setThread t).sites = s.sites := rfl
@[simp] theorem State.setThread_rslots (s : State) (t : Thread) : (s.setThread t).rslots = s.rslots := rfl
@[simp] theorem State.setThread_segs (s : State) (t : Thread) : (s.setThread t).segs = s.segs := rfl
@[simp] theorem State.setThread_left (s : State) (t : Thread) : (s.setThread t).left = s.left := rfl
@[simp] theorem State.setThread_guy (s : State) (t : Thread) : (s.setThread t).guy = s.guy := rfl
@[simp] theorem State.setThread_warm (s : State) (t : Thread) : (s.setThread t).warm = s.warm := rfl
@[simp] theorem State.setThread_rings (s : State) (t : Thread) : (s.setThread t).rings = s.rings := rfl
@[simp] theorem State.setThread_steals (s : State) (t : Thread) : (s.setThread t).steals = s.steals := rfl
@[simp] theorem State.setThread_mem (s : State) (t : Thread) : (s.setThread t).mem = s.mem := rfl
@[simp] theorem State.setThread_sram (s : State) (t : Thread) : (s.setThread t).sram = s.sram := rfl
@[simp] theorem State.setThread_badWords (s : State) (t : Thread) : (s.setThread t).badWords = s.badWords := rfl
@[simp] theorem State.setThread_softWords (s : State) (t : Thread) : (s.setThread t).softWords = s.softWords := rfl
@[simp] theorem State.setThread_corrected (s : State) (t : Thread) : (s.setThread t).corrected = s.corrected := rfl
@[simp] theorem State.setThread_slices (s : State) (t : Thread) : (s.setThread t).slices = s.slices := rfl
@[simp] theorem State.setThread_walkers (s : State) (t : Thread) : (s.setThread t).walkers = s.walkers := rfl
@[simp] theorem State.setThread_walkq (s : State) (t : Thread) : (s.setThread t).walkq = s.walkq := rfl
@[simp] theorem State.setThread_xlats (s : State) (t : Thread) : (s.setThread t).xlats = s.xlats := rfl
@[simp] theorem State.setThread_llc (s : State) (t : Thread) : (s.setThread t).llc = s.llc := rfl
@[simp] theorem State.setThread_reqs (s : State) (t : Thread) : (s.setThread t).reqs = s.reqs := rfl
@[simp] theorem State.setThread_lreqs (s : State) (t : Thread) : (s.setThread t).lreqs = s.lreqs := rfl
@[simp] theorem State.setThread_resps (s : State) (t : Thread) : (s.setThread t).resps = s.resps := rfl
@[simp] theorem State.setThread_landing (s : State) (t : Thread) : (s.setThread t).landing = s.landing := rfl
@[simp] theorem State.setThread_net (s : State) (t : Thread) : (s.setThread t).net = s.net := rfl

/-! ### updThread -/

@[simp] theorem State.updThread_agenda (s : State) (t : ThreadId) (f : Thread → Thread) : (s.updThread t f).agenda = s.agenda := rfl
@[simp] theorem State.updThread_cur (s : State) (t : ThreadId) (f : Thread → Thread) : (s.updThread t f).cur = s.cur := rfl
@[simp] theorem State.updThread_cycle (s : State) (t : ThreadId) (f : Thread → Thread) : (s.updThread t f).cycle = s.cycle := rfl
@[simp] theorem State.updThread_freeCtr (s : State) (t : ThreadId) (f : Thread → Thread) : (s.updThread t f).freeCtr = s.freeCtr := rfl
@[simp] theorem State.updThread_pkg (s : State) (t : ThreadId) (f : Thread → Thread) : (s.updThread t f).pkg = s.pkg := rfl
@[simp] theorem State.updThread_threads (s : State) (t : ThreadId) (f : Thread → Thread) : (s.updThread t f).threads = updBy (fun u => u.id = t) f s.threads := rfl
@[simp] theorem State.updThread_parts (s : State) (t : ThreadId) (f : Thread → Thread) : (s.updThread t f).parts = s.parts := rfl
@[simp] theorem State.updThread_places (s : State) (t : ThreadId) (f : Thread → Thread) : (s.updThread t f).places = s.places := rfl
@[simp] theorem State.updThread_nextPlace (s : State) (t : ThreadId) (f : Thread → Thread) : (s.updThread t f).nextPlace = s.nextPlace := rfl
@[simp] theorem State.updThread_sites (s : State) (t : ThreadId) (f : Thread → Thread) : (s.updThread t f).sites = s.sites := rfl
@[simp] theorem State.updThread_rslots (s : State) (t : ThreadId) (f : Thread → Thread) : (s.updThread t f).rslots = s.rslots := rfl
@[simp] theorem State.updThread_segs (s : State) (t : ThreadId) (f : Thread → Thread) : (s.updThread t f).segs = s.segs := rfl
@[simp] theorem State.updThread_left (s : State) (t : ThreadId) (f : Thread → Thread) : (s.updThread t f).left = s.left := rfl
@[simp] theorem State.updThread_guy (s : State) (t : ThreadId) (f : Thread → Thread) : (s.updThread t f).guy = s.guy := rfl
@[simp] theorem State.updThread_warm (s : State) (t : ThreadId) (f : Thread → Thread) : (s.updThread t f).warm = s.warm := rfl
@[simp] theorem State.updThread_rings (s : State) (t : ThreadId) (f : Thread → Thread) : (s.updThread t f).rings = s.rings := rfl
@[simp] theorem State.updThread_steals (s : State) (t : ThreadId) (f : Thread → Thread) : (s.updThread t f).steals = s.steals := rfl
@[simp] theorem State.updThread_mem (s : State) (t : ThreadId) (f : Thread → Thread) : (s.updThread t f).mem = s.mem := rfl
@[simp] theorem State.updThread_sram (s : State) (t : ThreadId) (f : Thread → Thread) : (s.updThread t f).sram = s.sram := rfl
@[simp] theorem State.updThread_badWords (s : State) (t : ThreadId) (f : Thread → Thread) : (s.updThread t f).badWords = s.badWords := rfl
@[simp] theorem State.updThread_softWords (s : State) (t : ThreadId) (f : Thread → Thread) : (s.updThread t f).softWords = s.softWords := rfl
@[simp] theorem State.updThread_corrected (s : State) (t : ThreadId) (f : Thread → Thread) : (s.updThread t f).corrected = s.corrected := rfl
@[simp] theorem State.updThread_slices (s : State) (t : ThreadId) (f : Thread → Thread) : (s.updThread t f).slices = s.slices := rfl
@[simp] theorem State.updThread_walkers (s : State) (t : ThreadId) (f : Thread → Thread) : (s.updThread t f).walkers = s.walkers := rfl
@[simp] theorem State.updThread_walkq (s : State) (t : ThreadId) (f : Thread → Thread) : (s.updThread t f).walkq = s.walkq := rfl
@[simp] theorem State.updThread_xlats (s : State) (t : ThreadId) (f : Thread → Thread) : (s.updThread t f).xlats = s.xlats := rfl
@[simp] theorem State.updThread_llc (s : State) (t : ThreadId) (f : Thread → Thread) : (s.updThread t f).llc = s.llc := rfl
@[simp] theorem State.updThread_reqs (s : State) (t : ThreadId) (f : Thread → Thread) : (s.updThread t f).reqs = s.reqs := rfl
@[simp] theorem State.updThread_lreqs (s : State) (t : ThreadId) (f : Thread → Thread) : (s.updThread t f).lreqs = s.lreqs := rfl
@[simp] theorem State.updThread_resps (s : State) (t : ThreadId) (f : Thread → Thread) : (s.updThread t f).resps = s.resps := rfl
@[simp] theorem State.updThread_landing (s : State) (t : ThreadId) (f : Thread → Thread) : (s.updThread t f).landing = s.landing := rfl
@[simp] theorem State.updThread_net (s : State) (t : ThreadId) (f : Thread → Thread) : (s.updThread t f).net = s.net := rfl

/-! ### setPart -/

@[simp] theorem State.setPart_agenda (s : State) (p : Partition) : (s.setPart p).agenda = s.agenda := rfl
@[simp] theorem State.setPart_cur (s : State) (p : Partition) : (s.setPart p).cur = s.cur := rfl
@[simp] theorem State.setPart_cycle (s : State) (p : Partition) : (s.setPart p).cycle = s.cycle := rfl
@[simp] theorem State.setPart_freeCtr (s : State) (p : Partition) : (s.setPart p).freeCtr = s.freeCtr := rfl
@[simp] theorem State.setPart_pkg (s : State) (p : Partition) : (s.setPart p).pkg = s.pkg := rfl
@[simp] theorem State.setPart_threads (s : State) (p : Partition) : (s.setPart p).threads = s.threads := rfl
@[simp] theorem State.setPart_parts (s : State) (p : Partition) : (s.setPart p).parts = updBy (fun q => q.asid = p.asid) (fun _ => p) s.parts := rfl
@[simp] theorem State.setPart_places (s : State) (p : Partition) : (s.setPart p).places = s.places := rfl
@[simp] theorem State.setPart_nextPlace (s : State) (p : Partition) : (s.setPart p).nextPlace = s.nextPlace := rfl
@[simp] theorem State.setPart_sites (s : State) (p : Partition) : (s.setPart p).sites = s.sites := rfl
@[simp] theorem State.setPart_rslots (s : State) (p : Partition) : (s.setPart p).rslots = s.rslots := rfl
@[simp] theorem State.setPart_segs (s : State) (p : Partition) : (s.setPart p).segs = s.segs := rfl
@[simp] theorem State.setPart_left (s : State) (p : Partition) : (s.setPart p).left = s.left := rfl
@[simp] theorem State.setPart_guy (s : State) (p : Partition) : (s.setPart p).guy = s.guy := rfl
@[simp] theorem State.setPart_warm (s : State) (p : Partition) : (s.setPart p).warm = s.warm := rfl
@[simp] theorem State.setPart_rings (s : State) (p : Partition) : (s.setPart p).rings = s.rings := rfl
@[simp] theorem State.setPart_steals (s : State) (p : Partition) : (s.setPart p).steals = s.steals := rfl
@[simp] theorem State.setPart_mem (s : State) (p : Partition) : (s.setPart p).mem = s.mem := rfl
@[simp] theorem State.setPart_sram (s : State) (p : Partition) : (s.setPart p).sram = s.sram := rfl
@[simp] theorem State.setPart_badWords (s : State) (p : Partition) : (s.setPart p).badWords = s.badWords := rfl
@[simp] theorem State.setPart_softWords (s : State) (p : Partition) : (s.setPart p).softWords = s.softWords := rfl
@[simp] theorem State.setPart_corrected (s : State) (p : Partition) : (s.setPart p).corrected = s.corrected := rfl
@[simp] theorem State.setPart_slices (s : State) (p : Partition) : (s.setPart p).slices = s.slices := rfl
@[simp] theorem State.setPart_walkers (s : State) (p : Partition) : (s.setPart p).walkers = s.walkers := rfl
@[simp] theorem State.setPart_walkq (s : State) (p : Partition) : (s.setPart p).walkq = s.walkq := rfl
@[simp] theorem State.setPart_xlats (s : State) (p : Partition) : (s.setPart p).xlats = s.xlats := rfl
@[simp] theorem State.setPart_llc (s : State) (p : Partition) : (s.setPart p).llc = s.llc := rfl
@[simp] theorem State.setPart_reqs (s : State) (p : Partition) : (s.setPart p).reqs = s.reqs := rfl
@[simp] theorem State.setPart_lreqs (s : State) (p : Partition) : (s.setPart p).lreqs = s.lreqs := rfl
@[simp] theorem State.setPart_resps (s : State) (p : Partition) : (s.setPart p).resps = s.resps := rfl
@[simp] theorem State.setPart_landing (s : State) (p : Partition) : (s.setPart p).landing = s.landing := rfl
@[simp] theorem State.setPart_net (s : State) (p : Partition) : (s.setPart p).net = s.net := rfl

/-! ### updPart -/

@[simp] theorem State.updPart_agenda (s : State) (a : Nat) (f : Partition → Partition) : (s.updPart a f).agenda = s.agenda := rfl
@[simp] theorem State.updPart_cur (s : State) (a : Nat) (f : Partition → Partition) : (s.updPart a f).cur = s.cur := rfl
@[simp] theorem State.updPart_cycle (s : State) (a : Nat) (f : Partition → Partition) : (s.updPart a f).cycle = s.cycle := rfl
@[simp] theorem State.updPart_freeCtr (s : State) (a : Nat) (f : Partition → Partition) : (s.updPart a f).freeCtr = s.freeCtr := rfl
@[simp] theorem State.updPart_pkg (s : State) (a : Nat) (f : Partition → Partition) : (s.updPart a f).pkg = s.pkg := rfl
@[simp] theorem State.updPart_threads (s : State) (a : Nat) (f : Partition → Partition) : (s.updPart a f).threads = s.threads := rfl
@[simp] theorem State.updPart_parts (s : State) (a : Nat) (f : Partition → Partition) : (s.updPart a f).parts = updBy (fun p => p.asid = a) f s.parts := rfl
@[simp] theorem State.updPart_places (s : State) (a : Nat) (f : Partition → Partition) : (s.updPart a f).places = s.places := rfl
@[simp] theorem State.updPart_nextPlace (s : State) (a : Nat) (f : Partition → Partition) : (s.updPart a f).nextPlace = s.nextPlace := rfl
@[simp] theorem State.updPart_sites (s : State) (a : Nat) (f : Partition → Partition) : (s.updPart a f).sites = s.sites := rfl
@[simp] theorem State.updPart_rslots (s : State) (a : Nat) (f : Partition → Partition) : (s.updPart a f).rslots = s.rslots := rfl
@[simp] theorem State.updPart_segs (s : State) (a : Nat) (f : Partition → Partition) : (s.updPart a f).segs = s.segs := rfl
@[simp] theorem State.updPart_left (s : State) (a : Nat) (f : Partition → Partition) : (s.updPart a f).left = s.left := rfl
@[simp] theorem State.updPart_guy (s : State) (a : Nat) (f : Partition → Partition) : (s.updPart a f).guy = s.guy := rfl
@[simp] theorem State.updPart_warm (s : State) (a : Nat) (f : Partition → Partition) : (s.updPart a f).warm = s.warm := rfl
@[simp] theorem State.updPart_rings (s : State) (a : Nat) (f : Partition → Partition) : (s.updPart a f).rings = s.rings := rfl
@[simp] theorem State.updPart_steals (s : State) (a : Nat) (f : Partition → Partition) : (s.updPart a f).steals = s.steals := rfl
@[simp] theorem State.updPart_mem (s : State) (a : Nat) (f : Partition → Partition) : (s.updPart a f).mem = s.mem := rfl
@[simp] theorem State.updPart_sram (s : State) (a : Nat) (f : Partition → Partition) : (s.updPart a f).sram = s.sram := rfl
@[simp] theorem State.updPart_badWords (s : State) (a : Nat) (f : Partition → Partition) : (s.updPart a f).badWords = s.badWords := rfl
@[simp] theorem State.updPart_softWords (s : State) (a : Nat) (f : Partition → Partition) : (s.updPart a f).softWords = s.softWords := rfl
@[simp] theorem State.updPart_corrected (s : State) (a : Nat) (f : Partition → Partition) : (s.updPart a f).corrected = s.corrected := rfl
@[simp] theorem State.updPart_slices (s : State) (a : Nat) (f : Partition → Partition) : (s.updPart a f).slices = s.slices := rfl
@[simp] theorem State.updPart_walkers (s : State) (a : Nat) (f : Partition → Partition) : (s.updPart a f).walkers = s.walkers := rfl
@[simp] theorem State.updPart_walkq (s : State) (a : Nat) (f : Partition → Partition) : (s.updPart a f).walkq = s.walkq := rfl
@[simp] theorem State.updPart_xlats (s : State) (a : Nat) (f : Partition → Partition) : (s.updPart a f).xlats = s.xlats := rfl
@[simp] theorem State.updPart_llc (s : State) (a : Nat) (f : Partition → Partition) : (s.updPart a f).llc = s.llc := rfl
@[simp] theorem State.updPart_reqs (s : State) (a : Nat) (f : Partition → Partition) : (s.updPart a f).reqs = s.reqs := rfl
@[simp] theorem State.updPart_lreqs (s : State) (a : Nat) (f : Partition → Partition) : (s.updPart a f).lreqs = s.lreqs := rfl
@[simp] theorem State.updPart_resps (s : State) (a : Nat) (f : Partition → Partition) : (s.updPart a f).resps = s.resps := rfl
@[simp] theorem State.updPart_landing (s : State) (a : Nat) (f : Partition → Partition) : (s.updPart a f).landing = s.landing := rfl
@[simp] theorem State.updPart_net (s : State) (a : Nat) (f : Partition → Partition) : (s.updPart a f).net = s.net := rfl

/-! ### updPlace -/

@[simp] theorem State.updPlace_agenda (s : State) (p : Nat) (f : Place → Place) : (s.updPlace p f).agenda = s.agenda := rfl
@[simp] theorem State.updPlace_cur (s : State) (p : Nat) (f : Place → Place) : (s.updPlace p f).cur = s.cur := rfl
@[simp] theorem State.updPlace_cycle (s : State) (p : Nat) (f : Place → Place) : (s.updPlace p f).cycle = s.cycle := rfl
@[simp] theorem State.updPlace_freeCtr (s : State) (p : Nat) (f : Place → Place) : (s.updPlace p f).freeCtr = s.freeCtr := rfl
@[simp] theorem State.updPlace_pkg (s : State) (p : Nat) (f : Place → Place) : (s.updPlace p f).pkg = s.pkg := rfl
@[simp] theorem State.updPlace_threads (s : State) (p : Nat) (f : Place → Place) : (s.updPlace p f).threads = s.threads := rfl
@[simp] theorem State.updPlace_parts (s : State) (p : Nat) (f : Place → Place) : (s.updPlace p f).parts = s.parts := rfl
@[simp] theorem State.updPlace_places (s : State) (p : Nat) (f : Place → Place) : (s.updPlace p f).places = updBy (fun x => x.id = p) f s.places := rfl
@[simp] theorem State.updPlace_nextPlace (s : State) (p : Nat) (f : Place → Place) : (s.updPlace p f).nextPlace = s.nextPlace := rfl
@[simp] theorem State.updPlace_sites (s : State) (p : Nat) (f : Place → Place) : (s.updPlace p f).sites = s.sites := rfl
@[simp] theorem State.updPlace_rslots (s : State) (p : Nat) (f : Place → Place) : (s.updPlace p f).rslots = s.rslots := rfl
@[simp] theorem State.updPlace_segs (s : State) (p : Nat) (f : Place → Place) : (s.updPlace p f).segs = s.segs := rfl
@[simp] theorem State.updPlace_left (s : State) (p : Nat) (f : Place → Place) : (s.updPlace p f).left = s.left := rfl
@[simp] theorem State.updPlace_guy (s : State) (p : Nat) (f : Place → Place) : (s.updPlace p f).guy = s.guy := rfl
@[simp] theorem State.updPlace_warm (s : State) (p : Nat) (f : Place → Place) : (s.updPlace p f).warm = s.warm := rfl
@[simp] theorem State.updPlace_rings (s : State) (p : Nat) (f : Place → Place) : (s.updPlace p f).rings = s.rings := rfl
@[simp] theorem State.updPlace_steals (s : State) (p : Nat) (f : Place → Place) : (s.updPlace p f).steals = s.steals := rfl
@[simp] theorem State.updPlace_mem (s : State) (p : Nat) (f : Place → Place) : (s.updPlace p f).mem = s.mem := rfl
@[simp] theorem State.updPlace_sram (s : State) (p : Nat) (f : Place → Place) : (s.updPlace p f).sram = s.sram := rfl
@[simp] theorem State.updPlace_badWords (s : State) (p : Nat) (f : Place → Place) : (s.updPlace p f).badWords = s.badWords := rfl
@[simp] theorem State.updPlace_softWords (s : State) (p : Nat) (f : Place → Place) : (s.updPlace p f).softWords = s.softWords := rfl
@[simp] theorem State.updPlace_corrected (s : State) (p : Nat) (f : Place → Place) : (s.updPlace p f).corrected = s.corrected := rfl
@[simp] theorem State.updPlace_slices (s : State) (p : Nat) (f : Place → Place) : (s.updPlace p f).slices = s.slices := rfl
@[simp] theorem State.updPlace_walkers (s : State) (p : Nat) (f : Place → Place) : (s.updPlace p f).walkers = s.walkers := rfl
@[simp] theorem State.updPlace_walkq (s : State) (p : Nat) (f : Place → Place) : (s.updPlace p f).walkq = s.walkq := rfl
@[simp] theorem State.updPlace_xlats (s : State) (p : Nat) (f : Place → Place) : (s.updPlace p f).xlats = s.xlats := rfl
@[simp] theorem State.updPlace_llc (s : State) (p : Nat) (f : Place → Place) : (s.updPlace p f).llc = s.llc := rfl
@[simp] theorem State.updPlace_reqs (s : State) (p : Nat) (f : Place → Place) : (s.updPlace p f).reqs = s.reqs := rfl
@[simp] theorem State.updPlace_lreqs (s : State) (p : Nat) (f : Place → Place) : (s.updPlace p f).lreqs = s.lreqs := rfl
@[simp] theorem State.updPlace_resps (s : State) (p : Nat) (f : Place → Place) : (s.updPlace p f).resps = s.resps := rfl
@[simp] theorem State.updPlace_landing (s : State) (p : Nat) (f : Place → Place) : (s.updPlace p f).landing = s.landing := rfl
@[simp] theorem State.updPlace_net (s : State) (p : Nat) (f : Place → Place) : (s.updPlace p f).net = s.net := rfl

/-! ### updTask -/

@[simp] theorem State.updTask_agenda (s : State) (a k : Nat) (f : TgEntry → TgEntry) : (s.updTask a k f).agenda = s.agenda := rfl
@[simp] theorem State.updTask_cur (s : State) (a k : Nat) (f : TgEntry → TgEntry) : (s.updTask a k f).cur = s.cur := rfl
@[simp] theorem State.updTask_cycle (s : State) (a k : Nat) (f : TgEntry → TgEntry) : (s.updTask a k f).cycle = s.cycle := rfl
@[simp] theorem State.updTask_freeCtr (s : State) (a k : Nat) (f : TgEntry → TgEntry) : (s.updTask a k f).freeCtr = s.freeCtr := rfl
@[simp] theorem State.updTask_pkg (s : State) (a k : Nat) (f : TgEntry → TgEntry) : (s.updTask a k f).pkg = s.pkg := rfl
@[simp] theorem State.updTask_threads (s : State) (a k : Nat) (f : TgEntry → TgEntry) : (s.updTask a k f).threads = s.threads := rfl
@[simp] theorem State.updTask_parts (s : State) (a k : Nat) (f : TgEntry → TgEntry) : (s.updTask a k f).parts = updBy (fun p => p.asid = a) (fun p => p.updTask k f) s.parts := rfl
@[simp] theorem State.updTask_places (s : State) (a k : Nat) (f : TgEntry → TgEntry) : (s.updTask a k f).places = s.places := rfl
@[simp] theorem State.updTask_nextPlace (s : State) (a k : Nat) (f : TgEntry → TgEntry) : (s.updTask a k f).nextPlace = s.nextPlace := rfl
@[simp] theorem State.updTask_sites (s : State) (a k : Nat) (f : TgEntry → TgEntry) : (s.updTask a k f).sites = s.sites := rfl
@[simp] theorem State.updTask_rslots (s : State) (a k : Nat) (f : TgEntry → TgEntry) : (s.updTask a k f).rslots = s.rslots := rfl
@[simp] theorem State.updTask_segs (s : State) (a k : Nat) (f : TgEntry → TgEntry) : (s.updTask a k f).segs = s.segs := rfl
@[simp] theorem State.updTask_left (s : State) (a k : Nat) (f : TgEntry → TgEntry) : (s.updTask a k f).left = s.left := rfl
@[simp] theorem State.updTask_guy (s : State) (a k : Nat) (f : TgEntry → TgEntry) : (s.updTask a k f).guy = s.guy := rfl
@[simp] theorem State.updTask_warm (s : State) (a k : Nat) (f : TgEntry → TgEntry) : (s.updTask a k f).warm = s.warm := rfl
@[simp] theorem State.updTask_rings (s : State) (a k : Nat) (f : TgEntry → TgEntry) : (s.updTask a k f).rings = s.rings := rfl
@[simp] theorem State.updTask_steals (s : State) (a k : Nat) (f : TgEntry → TgEntry) : (s.updTask a k f).steals = s.steals := rfl
@[simp] theorem State.updTask_mem (s : State) (a k : Nat) (f : TgEntry → TgEntry) : (s.updTask a k f).mem = s.mem := rfl
@[simp] theorem State.updTask_sram (s : State) (a k : Nat) (f : TgEntry → TgEntry) : (s.updTask a k f).sram = s.sram := rfl
@[simp] theorem State.updTask_badWords (s : State) (a k : Nat) (f : TgEntry → TgEntry) : (s.updTask a k f).badWords = s.badWords := rfl
@[simp] theorem State.updTask_softWords (s : State) (a k : Nat) (f : TgEntry → TgEntry) : (s.updTask a k f).softWords = s.softWords := rfl
@[simp] theorem State.updTask_corrected (s : State) (a k : Nat) (f : TgEntry → TgEntry) : (s.updTask a k f).corrected = s.corrected := rfl
@[simp] theorem State.updTask_slices (s : State) (a k : Nat) (f : TgEntry → TgEntry) : (s.updTask a k f).slices = s.slices := rfl
@[simp] theorem State.updTask_walkers (s : State) (a k : Nat) (f : TgEntry → TgEntry) : (s.updTask a k f).walkers = s.walkers := rfl
@[simp] theorem State.updTask_walkq (s : State) (a k : Nat) (f : TgEntry → TgEntry) : (s.updTask a k f).walkq = s.walkq := rfl
@[simp] theorem State.updTask_xlats (s : State) (a k : Nat) (f : TgEntry → TgEntry) : (s.updTask a k f).xlats = s.xlats := rfl
@[simp] theorem State.updTask_llc (s : State) (a k : Nat) (f : TgEntry → TgEntry) : (s.updTask a k f).llc = s.llc := rfl
@[simp] theorem State.updTask_reqs (s : State) (a k : Nat) (f : TgEntry → TgEntry) : (s.updTask a k f).reqs = s.reqs := rfl
@[simp] theorem State.updTask_lreqs (s : State) (a k : Nat) (f : TgEntry → TgEntry) : (s.updTask a k f).lreqs = s.lreqs := rfl
@[simp] theorem State.updTask_resps (s : State) (a k : Nat) (f : TgEntry → TgEntry) : (s.updTask a k f).resps = s.resps := rfl
@[simp] theorem State.updTask_landing (s : State) (a k : Nat) (f : TgEntry → TgEntry) : (s.updTask a k f).landing = s.landing := rfl
@[simp] theorem State.updTask_net (s : State) (a k : Nat) (f : TgEntry → TgEntry) : (s.updTask a k f).net = s.net := rfl

/-! ### updSite -/

@[simp] theorem State.updSite_agenda (s : State) (n : Node) (f : Site → Site) : (s.updSite n f).agenda = s.agenda := rfl
@[simp] theorem State.updSite_cur (s : State) (n : Node) (f : Site → Site) : (s.updSite n f).cur = s.cur := rfl
@[simp] theorem State.updSite_cycle (s : State) (n : Node) (f : Site → Site) : (s.updSite n f).cycle = s.cycle := rfl
@[simp] theorem State.updSite_freeCtr (s : State) (n : Node) (f : Site → Site) : (s.updSite n f).freeCtr = s.freeCtr := rfl
@[simp] theorem State.updSite_pkg (s : State) (n : Node) (f : Site → Site) : (s.updSite n f).pkg = s.pkg := rfl
@[simp] theorem State.updSite_threads (s : State) (n : Node) (f : Site → Site) : (s.updSite n f).threads = s.threads := rfl
@[simp] theorem State.updSite_parts (s : State) (n : Node) (f : Site → Site) : (s.updSite n f).parts = s.parts := rfl
@[simp] theorem State.updSite_places (s : State) (n : Node) (f : Site → Site) : (s.updSite n f).places = s.places := rfl
@[simp] theorem State.updSite_nextPlace (s : State) (n : Node) (f : Site → Site) : (s.updSite n f).nextPlace = s.nextPlace := rfl
@[simp] theorem State.updSite_sites (s : State) (n : Node) (f : Site → Site) : (s.updSite n f).sites = updBy (fun x => x.node = n) f s.sites := rfl
@[simp] theorem State.updSite_rslots (s : State) (n : Node) (f : Site → Site) : (s.updSite n f).rslots = s.rslots := rfl
@[simp] theorem State.updSite_segs (s : State) (n : Node) (f : Site → Site) : (s.updSite n f).segs = s.segs := rfl
@[simp] theorem State.updSite_left (s : State) (n : Node) (f : Site → Site) : (s.updSite n f).left = s.left := rfl
@[simp] theorem State.updSite_guy (s : State) (n : Node) (f : Site → Site) : (s.updSite n f).guy = s.guy := rfl
@[simp] theorem State.updSite_warm (s : State) (n : Node) (f : Site → Site) : (s.updSite n f).warm = s.warm := rfl
@[simp] theorem State.updSite_rings (s : State) (n : Node) (f : Site → Site) : (s.updSite n f).rings = s.rings := rfl
@[simp] theorem State.updSite_steals (s : State) (n : Node) (f : Site → Site) : (s.updSite n f).steals = s.steals := rfl
@[simp] theorem State.updSite_mem (s : State) (n : Node) (f : Site → Site) : (s.updSite n f).mem = s.mem := rfl
@[simp] theorem State.updSite_sram (s : State) (n : Node) (f : Site → Site) : (s.updSite n f).sram = s.sram := rfl
@[simp] theorem State.updSite_badWords (s : State) (n : Node) (f : Site → Site) : (s.updSite n f).badWords = s.badWords := rfl
@[simp] theorem State.updSite_softWords (s : State) (n : Node) (f : Site → Site) : (s.updSite n f).softWords = s.softWords := rfl
@[simp] theorem State.updSite_corrected (s : State) (n : Node) (f : Site → Site) : (s.updSite n f).corrected = s.corrected := rfl
@[simp] theorem State.updSite_slices (s : State) (n : Node) (f : Site → Site) : (s.updSite n f).slices = s.slices := rfl
@[simp] theorem State.updSite_walkers (s : State) (n : Node) (f : Site → Site) : (s.updSite n f).walkers = s.walkers := rfl
@[simp] theorem State.updSite_walkq (s : State) (n : Node) (f : Site → Site) : (s.updSite n f).walkq = s.walkq := rfl
@[simp] theorem State.updSite_xlats (s : State) (n : Node) (f : Site → Site) : (s.updSite n f).xlats = s.xlats := rfl
@[simp] theorem State.updSite_llc (s : State) (n : Node) (f : Site → Site) : (s.updSite n f).llc = s.llc := rfl
@[simp] theorem State.updSite_reqs (s : State) (n : Node) (f : Site → Site) : (s.updSite n f).reqs = s.reqs := rfl
@[simp] theorem State.updSite_lreqs (s : State) (n : Node) (f : Site → Site) : (s.updSite n f).lreqs = s.lreqs := rfl
@[simp] theorem State.updSite_resps (s : State) (n : Node) (f : Site → Site) : (s.updSite n f).resps = s.resps := rfl
@[simp] theorem State.updSite_landing (s : State) (n : Node) (f : Site → Site) : (s.updSite n f).landing = s.landing := rfl
@[simp] theorem State.updSite_net (s : State) (n : Node) (f : Site → Site) : (s.updSite n f).net = s.net := rfl

/-! ### updSlot -/

@[simp] theorem State.updSlot_agenda (s : State) (n : Node) (k : Bool) (f : RSlot → RSlot) : (s.updSlot n k f).agenda = s.agenda := rfl
@[simp] theorem State.updSlot_cur (s : State) (n : Node) (k : Bool) (f : RSlot → RSlot) : (s.updSlot n k f).cur = s.cur := rfl
@[simp] theorem State.updSlot_cycle (s : State) (n : Node) (k : Bool) (f : RSlot → RSlot) : (s.updSlot n k f).cycle = s.cycle := rfl
@[simp] theorem State.updSlot_freeCtr (s : State) (n : Node) (k : Bool) (f : RSlot → RSlot) : (s.updSlot n k f).freeCtr = s.freeCtr := rfl
@[simp] theorem State.updSlot_pkg (s : State) (n : Node) (k : Bool) (f : RSlot → RSlot) : (s.updSlot n k f).pkg = s.pkg := rfl
@[simp] theorem State.updSlot_threads (s : State) (n : Node) (k : Bool) (f : RSlot → RSlot) : (s.updSlot n k f).threads = s.threads := rfl
@[simp] theorem State.updSlot_parts (s : State) (n : Node) (k : Bool) (f : RSlot → RSlot) : (s.updSlot n k f).parts = s.parts := rfl
@[simp] theorem State.updSlot_places (s : State) (n : Node) (k : Bool) (f : RSlot → RSlot) : (s.updSlot n k f).places = s.places := rfl
@[simp] theorem State.updSlot_nextPlace (s : State) (n : Node) (k : Bool) (f : RSlot → RSlot) : (s.updSlot n k f).nextPlace = s.nextPlace := rfl
@[simp] theorem State.updSlot_sites (s : State) (n : Node) (k : Bool) (f : RSlot → RSlot) : (s.updSlot n k f).sites = s.sites := rfl
@[simp] theorem State.updSlot_rslots (s : State) (n : Node) (k : Bool) (f : RSlot → RSlot) : (s.updSlot n k f).rslots = updBy (fun x => x.node = n && x.slot = k) f s.rslots := rfl
@[simp] theorem State.updSlot_segs (s : State) (n : Node) (k : Bool) (f : RSlot → RSlot) : (s.updSlot n k f).segs = s.segs := rfl
@[simp] theorem State.updSlot_left (s : State) (n : Node) (k : Bool) (f : RSlot → RSlot) : (s.updSlot n k f).left = s.left := rfl
@[simp] theorem State.updSlot_guy (s : State) (n : Node) (k : Bool) (f : RSlot → RSlot) : (s.updSlot n k f).guy = s.guy := rfl
@[simp] theorem State.updSlot_warm (s : State) (n : Node) (k : Bool) (f : RSlot → RSlot) : (s.updSlot n k f).warm = s.warm := rfl
@[simp] theorem State.updSlot_rings (s : State) (n : Node) (k : Bool) (f : RSlot → RSlot) : (s.updSlot n k f).rings = s.rings := rfl
@[simp] theorem State.updSlot_steals (s : State) (n : Node) (k : Bool) (f : RSlot → RSlot) : (s.updSlot n k f).steals = s.steals := rfl
@[simp] theorem State.updSlot_mem (s : State) (n : Node) (k : Bool) (f : RSlot → RSlot) : (s.updSlot n k f).mem = s.mem := rfl
@[simp] theorem State.updSlot_sram (s : State) (n : Node) (k : Bool) (f : RSlot → RSlot) : (s.updSlot n k f).sram = s.sram := rfl
@[simp] theorem State.updSlot_badWords (s : State) (n : Node) (k : Bool) (f : RSlot → RSlot) : (s.updSlot n k f).badWords = s.badWords := rfl
@[simp] theorem State.updSlot_softWords (s : State) (n : Node) (k : Bool) (f : RSlot → RSlot) : (s.updSlot n k f).softWords = s.softWords := rfl
@[simp] theorem State.updSlot_corrected (s : State) (n : Node) (k : Bool) (f : RSlot → RSlot) : (s.updSlot n k f).corrected = s.corrected := rfl
@[simp] theorem State.updSlot_slices (s : State) (n : Node) (k : Bool) (f : RSlot → RSlot) : (s.updSlot n k f).slices = s.slices := rfl
@[simp] theorem State.updSlot_walkers (s : State) (n : Node) (k : Bool) (f : RSlot → RSlot) : (s.updSlot n k f).walkers = s.walkers := rfl
@[simp] theorem State.updSlot_walkq (s : State) (n : Node) (k : Bool) (f : RSlot → RSlot) : (s.updSlot n k f).walkq = s.walkq := rfl
@[simp] theorem State.updSlot_xlats (s : State) (n : Node) (k : Bool) (f : RSlot → RSlot) : (s.updSlot n k f).xlats = s.xlats := rfl
@[simp] theorem State.updSlot_llc (s : State) (n : Node) (k : Bool) (f : RSlot → RSlot) : (s.updSlot n k f).llc = s.llc := rfl
@[simp] theorem State.updSlot_reqs (s : State) (n : Node) (k : Bool) (f : RSlot → RSlot) : (s.updSlot n k f).reqs = s.reqs := rfl
@[simp] theorem State.updSlot_lreqs (s : State) (n : Node) (k : Bool) (f : RSlot → RSlot) : (s.updSlot n k f).lreqs = s.lreqs := rfl
@[simp] theorem State.updSlot_resps (s : State) (n : Node) (k : Bool) (f : RSlot → RSlot) : (s.updSlot n k f).resps = s.resps := rfl
@[simp] theorem State.updSlot_landing (s : State) (n : Node) (k : Bool) (f : RSlot → RSlot) : (s.updSlot n k f).landing = s.landing := rfl
@[simp] theorem State.updSlot_net (s : State) (n : Node) (k : Bool) (f : RSlot → RSlot) : (s.updSlot n k f).net = s.net := rfl

/-! ### setSlice -/

@[simp] theorem State.setSlice_agenda (s : State) (x : Slice) : (s.setSlice x).agenda = s.agenda := rfl
@[simp] theorem State.setSlice_cur (s : State) (x : Slice) : (s.setSlice x).cur = s.cur := rfl
@[simp] theorem State.setSlice_cycle (s : State) (x : Slice) : (s.setSlice x).cycle = s.cycle := rfl
@[simp] theorem State.setSlice_freeCtr (s : State) (x : Slice) : (s.setSlice x).freeCtr = s.freeCtr := rfl
@[simp] theorem State.setSlice_pkg (s : State) (x : Slice) : (s.setSlice x).pkg = s.pkg := rfl
@[simp] theorem State.setSlice_threads (s : State) (x : Slice) : (s.setSlice x).threads = s.threads := rfl
@[simp] theorem State.setSlice_parts (s : State) (x : Slice) : (s.setSlice x).parts = s.parts := rfl
@[simp] theorem State.setSlice_places (s : State) (x : Slice) : (s.setSlice x).places = s.places := rfl
@[simp] theorem State.setSlice_nextPlace (s : State) (x : Slice) : (s.setSlice x).nextPlace = s.nextPlace := rfl
@[simp] theorem State.setSlice_sites (s : State) (x : Slice) : (s.setSlice x).sites = s.sites := rfl
@[simp] theorem State.setSlice_rslots (s : State) (x : Slice) : (s.setSlice x).rslots = s.rslots := rfl
@[simp] theorem State.setSlice_segs (s : State) (x : Slice) : (s.setSlice x).segs = s.segs := rfl
@[simp] theorem State.setSlice_left (s : State) (x : Slice) : (s.setSlice x).left = s.left := rfl
@[simp] theorem State.setSlice_guy (s : State) (x : Slice) : (s.setSlice x).guy = s.guy := rfl
@[simp] theorem State.setSlice_warm (s : State) (x : Slice) : (s.setSlice x).warm = s.warm := rfl
@[simp] theorem State.setSlice_rings (s : State) (x : Slice) : (s.setSlice x).rings = s.rings := rfl
@[simp] theorem State.setSlice_steals (s : State) (x : Slice) : (s.setSlice x).steals = s.steals := rfl
@[simp] theorem State.setSlice_mem (s : State) (x : Slice) : (s.setSlice x).mem = s.mem := rfl
@[simp] theorem State.setSlice_sram (s : State) (x : Slice) : (s.setSlice x).sram = s.sram := rfl
@[simp] theorem State.setSlice_badWords (s : State) (x : Slice) : (s.setSlice x).badWords = s.badWords := rfl
@[simp] theorem State.setSlice_softWords (s : State) (x : Slice) : (s.setSlice x).softWords = s.softWords := rfl
@[simp] theorem State.setSlice_corrected (s : State) (x : Slice) : (s.setSlice x).corrected = s.corrected := rfl
@[simp] theorem State.setSlice_walkers (s : State) (x : Slice) : (s.setSlice x).walkers = s.walkers := rfl
@[simp] theorem State.setSlice_walkq (s : State) (x : Slice) : (s.setSlice x).walkq = s.walkq := rfl
@[simp] theorem State.setSlice_xlats (s : State) (x : Slice) : (s.setSlice x).xlats = s.xlats := rfl
@[simp] theorem State.setSlice_llc (s : State) (x : Slice) : (s.setSlice x).llc = s.llc := rfl
@[simp] theorem State.setSlice_reqs (s : State) (x : Slice) : (s.setSlice x).reqs = s.reqs := rfl
@[simp] theorem State.setSlice_lreqs (s : State) (x : Slice) : (s.setSlice x).lreqs = s.lreqs := rfl
@[simp] theorem State.setSlice_resps (s : State) (x : Slice) : (s.setSlice x).resps = s.resps := rfl
@[simp] theorem State.setSlice_landing (s : State) (x : Slice) : (s.setSlice x).landing = s.landing := rfl
@[simp] theorem State.setSlice_net (s : State) (x : Slice) : (s.setSlice x).net = s.net := rfl

/-! ### updPkg -/

@[simp] theorem State.updPkg_agenda (s : State) (f : Pkg → Pkg) : (s.updPkg f).agenda = s.agenda := rfl
@[simp] theorem State.updPkg_cur (s : State) (f : Pkg → Pkg) : (s.updPkg f).cur = s.cur := rfl
@[simp] theorem State.updPkg_cycle (s : State) (f : Pkg → Pkg) : (s.updPkg f).cycle = s.cycle := rfl
@[simp] theorem State.updPkg_freeCtr (s : State) (f : Pkg → Pkg) : (s.updPkg f).freeCtr = s.freeCtr := rfl
@[simp] theorem State.updPkg_pkg (s : State) (f : Pkg → Pkg) : (s.updPkg f).pkg = f s.pkg := rfl
@[simp] theorem State.updPkg_threads (s : State) (f : Pkg → Pkg) : (s.updPkg f).threads = s.threads := rfl
@[simp] theorem State.updPkg_parts (s : State) (f : Pkg → Pkg) : (s.updPkg f).parts = s.parts := rfl
@[simp] theorem State.updPkg_places (s : State) (f : Pkg → Pkg) : (s.updPkg f).places = s.places := rfl
@[simp] theorem State.updPkg_nextPlace (s : State) (f : Pkg → Pkg) : (s.updPkg f).nextPlace = s.nextPlace := rfl
@[simp] theorem State.updPkg_sites (s : State) (f : Pkg → Pkg) : (s.updPkg f).sites = s.sites := rfl
@[simp] theorem State.updPkg_rslots (s : State) (f : Pkg → Pkg) : (s.updPkg f).rslots = s.rslots := rfl
@[simp] theorem State.updPkg_segs (s : State) (f : Pkg → Pkg) : (s.updPkg f).segs = s.segs := rfl
@[simp] theorem State.updPkg_left (s : State) (f : Pkg → Pkg) : (s.updPkg f).left = s.left := rfl
@[simp] theorem State.updPkg_guy (s : State) (f : Pkg → Pkg) : (s.updPkg f).guy = s.guy := rfl
@[simp] theorem State.updPkg_warm (s : State) (f : Pkg → Pkg) : (s.updPkg f).warm = s.warm := rfl
@[simp] theorem State.updPkg_rings (s : State) (f : Pkg → Pkg) : (s.updPkg f).rings = s.rings := rfl
@[simp] theorem State.updPkg_steals (s : State) (f : Pkg → Pkg) : (s.updPkg f).steals = s.steals := rfl
@[simp] theorem State.updPkg_mem (s : State) (f : Pkg → Pkg) : (s.updPkg f).mem = s.mem := rfl
@[simp] theorem State.updPkg_sram (s : State) (f : Pkg → Pkg) : (s.updPkg f).sram = s.sram := rfl
@[simp] theorem State.updPkg_badWords (s : State) (f : Pkg → Pkg) : (s.updPkg f).badWords = s.badWords := rfl
@[simp] theorem State.updPkg_softWords (s : State) (f : Pkg → Pkg) : (s.updPkg f).softWords = s.softWords := rfl
@[simp] theorem State.updPkg_corrected (s : State) (f : Pkg → Pkg) : (s.updPkg f).corrected = s.corrected := rfl
@[simp] theorem State.updPkg_slices (s : State) (f : Pkg → Pkg) : (s.updPkg f).slices = s.slices := rfl
@[simp] theorem State.updPkg_walkers (s : State) (f : Pkg → Pkg) : (s.updPkg f).walkers = s.walkers := rfl
@[simp] theorem State.updPkg_walkq (s : State) (f : Pkg → Pkg) : (s.updPkg f).walkq = s.walkq := rfl
@[simp] theorem State.updPkg_xlats (s : State) (f : Pkg → Pkg) : (s.updPkg f).xlats = s.xlats := rfl
@[simp] theorem State.updPkg_llc (s : State) (f : Pkg → Pkg) : (s.updPkg f).llc = s.llc := rfl
@[simp] theorem State.updPkg_reqs (s : State) (f : Pkg → Pkg) : (s.updPkg f).reqs = s.reqs := rfl
@[simp] theorem State.updPkg_lreqs (s : State) (f : Pkg → Pkg) : (s.updPkg f).lreqs = s.lreqs := rfl
@[simp] theorem State.updPkg_resps (s : State) (f : Pkg → Pkg) : (s.updPkg f).resps = s.resps := rfl
@[simp] theorem State.updPkg_landing (s : State) (f : Pkg → Pkg) : (s.updPkg f).landing = s.landing := rfl
@[simp] theorem State.updPkg_net (s : State) (f : Pkg → Pkg) : (s.updPkg f).net = s.net := rfl

/-! ### setLlc -/

@[simp] theorem State.setLlc_agenda (s : State) (x : Llc) : (s.setLlc x).agenda = s.agenda := rfl
@[simp] theorem State.setLlc_cur (s : State) (x : Llc) : (s.setLlc x).cur = s.cur := rfl
@[simp] theorem State.setLlc_cycle (s : State) (x : Llc) : (s.setLlc x).cycle = s.cycle := rfl
@[simp] theorem State.setLlc_freeCtr (s : State) (x : Llc) : (s.setLlc x).freeCtr = s.freeCtr := rfl
@[simp] theorem State.setLlc_pkg (s : State) (x : Llc) : (s.setLlc x).pkg = s.pkg := rfl
@[simp] theorem State.setLlc_threads (s : State) (x : Llc) : (s.setLlc x).threads = s.threads := rfl
@[simp] theorem State.setLlc_parts (s : State) (x : Llc) : (s.setLlc x).parts = s.parts := rfl
@[simp] theorem State.setLlc_places (s : State) (x : Llc) : (s.setLlc x).places = s.places := rfl
@[simp] theorem State.setLlc_nextPlace (s : State) (x : Llc) : (s.setLlc x).nextPlace = s.nextPlace := rfl
@[simp] theorem State.setLlc_sites (s : State) (x : Llc) : (s.setLlc x).sites = s.sites := rfl
@[simp] theorem State.setLlc_rslots (s : State) (x : Llc) : (s.setLlc x).rslots = s.rslots := rfl
@[simp] theorem State.setLlc_segs (s : State) (x : Llc) : (s.setLlc x).segs = s.segs := rfl
@[simp] theorem State.setLlc_left (s : State) (x : Llc) : (s.setLlc x).left = s.left := rfl
@[simp] theorem State.setLlc_guy (s : State) (x : Llc) : (s.setLlc x).guy = s.guy := rfl
@[simp] theorem State.setLlc_warm (s : State) (x : Llc) : (s.setLlc x).warm = s.warm := rfl
@[simp] theorem State.setLlc_rings (s : State) (x : Llc) : (s.setLlc x).rings = s.rings := rfl
@[simp] theorem State.setLlc_steals (s : State) (x : Llc) : (s.setLlc x).steals = s.steals := rfl
@[simp] theorem State.setLlc_mem (s : State) (x : Llc) : (s.setLlc x).mem = s.mem := rfl
@[simp] theorem State.setLlc_sram (s : State) (x : Llc) : (s.setLlc x).sram = s.sram := rfl
@[simp] theorem State.setLlc_badWords (s : State) (x : Llc) : (s.setLlc x).badWords = s.badWords := rfl
@[simp] theorem State.setLlc_softWords (s : State) (x : Llc) : (s.setLlc x).softWords = s.softWords := rfl
@[simp] theorem State.setLlc_corrected (s : State) (x : Llc) : (s.setLlc x).corrected = s.corrected := rfl
@[simp] theorem State.setLlc_slices (s : State) (x : Llc) : (s.setLlc x).slices = s.slices := rfl
@[simp] theorem State.setLlc_walkers (s : State) (x : Llc) : (s.setLlc x).walkers = s.walkers := rfl
@[simp] theorem State.setLlc_walkq (s : State) (x : Llc) : (s.setLlc x).walkq = s.walkq := rfl
@[simp] theorem State.setLlc_xlats (s : State) (x : Llc) : (s.setLlc x).xlats = s.xlats := rfl
@[simp] theorem State.setLlc_reqs (s : State) (x : Llc) : (s.setLlc x).reqs = s.reqs := rfl
@[simp] theorem State.setLlc_lreqs (s : State) (x : Llc) : (s.setLlc x).lreqs = s.lreqs := rfl
@[simp] theorem State.setLlc_resps (s : State) (x : Llc) : (s.setLlc x).resps = s.resps := rfl
@[simp] theorem State.setLlc_landing (s : State) (x : Llc) : (s.setLlc x).landing = s.landing := rfl
@[simp] theorem State.setLlc_net (s : State) (x : Llc) : (s.setLlc x).net = s.net := rfl

/-! ### Memory at the LLC -/

@[simp] theorem llcHold_agenda (s : State) (n : Nat) : (llcHold s n).1.agenda = s.agenda := by unfold llcHold; dsimp only; split <;> rfl
@[simp] theorem llcHold_cur (s : State) (n : Nat) : (llcHold s n).1.cur = s.cur := by unfold llcHold; dsimp only; split <;> rfl
@[simp] theorem llcHold_cycle (s : State) (n : Nat) : (llcHold s n).1.cycle = s.cycle := by unfold llcHold; dsimp only; split <;> rfl
@[simp] theorem llcHold_freeCtr (s : State) (n : Nat) : (llcHold s n).1.freeCtr = s.freeCtr := by unfold llcHold; dsimp only; split <;> rfl
@[simp] theorem llcHold_pkg (s : State) (n : Nat) : (llcHold s n).1.pkg = s.pkg := by unfold llcHold; dsimp only; split <;> rfl
@[simp] theorem llcHold_threads (s : State) (n : Nat) : (llcHold s n).1.threads = s.threads := by unfold llcHold; dsimp only; split <;> rfl
@[simp] theorem llcHold_parts (s : State) (n : Nat) : (llcHold s n).1.parts = s.parts := by unfold llcHold; dsimp only; split <;> rfl
@[simp] theorem llcHold_places (s : State) (n : Nat) : (llcHold s n).1.places = s.places := by unfold llcHold; dsimp only; split <;> rfl
@[simp] theorem llcHold_nextPlace (s : State) (n : Nat) : (llcHold s n).1.nextPlace = s.nextPlace := by unfold llcHold; dsimp only; split <;> rfl
@[simp] theorem llcHold_sites (s : State) (n : Nat) : (llcHold s n).1.sites = s.sites := by unfold llcHold; dsimp only; split <;> rfl
@[simp] theorem llcHold_rslots (s : State) (n : Nat) : (llcHold s n).1.rslots = s.rslots := by unfold llcHold; dsimp only; split <;> rfl
@[simp] theorem llcHold_segs (s : State) (n : Nat) : (llcHold s n).1.segs = s.segs := by unfold llcHold; dsimp only; split <;> rfl
@[simp] theorem llcHold_left (s : State) (n : Nat) : (llcHold s n).1.left = s.left := by unfold llcHold; dsimp only; split <;> rfl
@[simp] theorem llcHold_guy (s : State) (n : Nat) : (llcHold s n).1.guy = s.guy := by unfold llcHold; dsimp only; split <;> rfl
@[simp] theorem llcHold_warm (s : State) (n : Nat) : (llcHold s n).1.warm = s.warm := by unfold llcHold; dsimp only; split <;> rfl
@[simp] theorem llcHold_rings (s : State) (n : Nat) : (llcHold s n).1.rings = s.rings := by unfold llcHold; dsimp only; split <;> rfl
@[simp] theorem llcHold_steals (s : State) (n : Nat) : (llcHold s n).1.steals = s.steals := by unfold llcHold; dsimp only; split <;> rfl
@[simp] theorem llcHold_mem (s : State) (n : Nat) : (llcHold s n).1.mem = s.mem := by unfold llcHold; dsimp only; split <;> rfl
@[simp] theorem llcHold_sram (s : State) (n : Nat) : (llcHold s n).1.sram = s.sram := by unfold llcHold; dsimp only; split <;> rfl
@[simp] theorem llcHold_corrected (s : State) (n : Nat) : (llcHold s n).1.corrected = s.corrected := by unfold llcHold; dsimp only; split <;> rfl
@[simp] theorem llcHold_slices (s : State) (n : Nat) : (llcHold s n).1.slices = s.slices := by unfold llcHold; dsimp only; split <;> rfl
@[simp] theorem llcHold_walkers (s : State) (n : Nat) : (llcHold s n).1.walkers = s.walkers := by unfold llcHold; dsimp only; split <;> rfl
@[simp] theorem llcHold_walkq (s : State) (n : Nat) : (llcHold s n).1.walkq = s.walkq := by unfold llcHold; dsimp only; split <;> rfl
@[simp] theorem llcHold_xlats (s : State) (n : Nat) : (llcHold s n).1.xlats = s.xlats := by unfold llcHold; dsimp only; split <;> rfl
@[simp] theorem llcHold_reqs (s : State) (n : Nat) : (llcHold s n).1.reqs = s.reqs := by unfold llcHold; dsimp only; split <;> rfl
@[simp] theorem llcHold_lreqs (s : State) (n : Nat) : (llcHold s n).1.lreqs = s.lreqs := by unfold llcHold; dsimp only; split <;> rfl
@[simp] theorem llcHold_resps (s : State) (n : Nat) : (llcHold s n).1.resps = s.resps := by unfold llcHold; dsimp only; split <;> rfl
@[simp] theorem llcHold_landing (s : State) (n : Nat) : (llcHold s n).1.landing = s.landing := by unfold llcHold; dsimp only; split <;> rfl
@[simp] theorem llcHold_net (s : State) (n : Nat) : (llcHold s n).1.net = s.net := by unfold llcHold; dsimp only; split <;> rfl

@[simp] theorem llcPut_agenda (s : State) (a : Nat) (l : List Byte) : (llcPut s a l).agenda = s.agenda := llcHold_agenda s (a / 128)
@[simp] theorem llcPut_cur (s : State) (a : Nat) (l : List Byte) : (llcPut s a l).cur = s.cur := llcHold_cur s (a / 128)
@[simp] theorem llcPut_cycle (s : State) (a : Nat) (l : List Byte) : (llcPut s a l).cycle = s.cycle := llcHold_cycle s (a / 128)
@[simp] theorem llcPut_freeCtr (s : State) (a : Nat) (l : List Byte) : (llcPut s a l).freeCtr = s.freeCtr := llcHold_freeCtr s (a / 128)
@[simp] theorem llcPut_pkg (s : State) (a : Nat) (l : List Byte) : (llcPut s a l).pkg = s.pkg := llcHold_pkg s (a / 128)
@[simp] theorem llcPut_threads (s : State) (a : Nat) (l : List Byte) : (llcPut s a l).threads = s.threads := llcHold_threads s (a / 128)
@[simp] theorem llcPut_parts (s : State) (a : Nat) (l : List Byte) : (llcPut s a l).parts = s.parts := llcHold_parts s (a / 128)
@[simp] theorem llcPut_places (s : State) (a : Nat) (l : List Byte) : (llcPut s a l).places = s.places := llcHold_places s (a / 128)
@[simp] theorem llcPut_nextPlace (s : State) (a : Nat) (l : List Byte) : (llcPut s a l).nextPlace = s.nextPlace := llcHold_nextPlace s (a / 128)
@[simp] theorem llcPut_sites (s : State) (a : Nat) (l : List Byte) : (llcPut s a l).sites = s.sites := llcHold_sites s (a / 128)
@[simp] theorem llcPut_rslots (s : State) (a : Nat) (l : List Byte) : (llcPut s a l).rslots = s.rslots := llcHold_rslots s (a / 128)
@[simp] theorem llcPut_segs (s : State) (a : Nat) (l : List Byte) : (llcPut s a l).segs = s.segs := llcHold_segs s (a / 128)
@[simp] theorem llcPut_left (s : State) (a : Nat) (l : List Byte) : (llcPut s a l).left = s.left := llcHold_left s (a / 128)
@[simp] theorem llcPut_guy (s : State) (a : Nat) (l : List Byte) : (llcPut s a l).guy = s.guy := llcHold_guy s (a / 128)
@[simp] theorem llcPut_warm (s : State) (a : Nat) (l : List Byte) : (llcPut s a l).warm = s.warm := llcHold_warm s (a / 128)
@[simp] theorem llcPut_rings (s : State) (a : Nat) (l : List Byte) : (llcPut s a l).rings = s.rings := llcHold_rings s (a / 128)
@[simp] theorem llcPut_steals (s : State) (a : Nat) (l : List Byte) : (llcPut s a l).steals = s.steals := llcHold_steals s (a / 128)
@[simp] theorem llcPut_mem (s : State) (a : Nat) (l : List Byte) : (llcPut s a l).mem = memWrite s.mem a l :=
  congrArg (fun m => memWrite m a l) (llcHold_mem s (a / 128))
@[simp] theorem llcPut_sram (s : State) (a : Nat) (l : List Byte) : (llcPut s a l).sram = s.sram := llcHold_sram s (a / 128)
@[simp] theorem llcPut_corrected (s : State) (a : Nat) (l : List Byte) : (llcPut s a l).corrected = s.corrected := llcHold_corrected s (a / 128)
@[simp] theorem llcPut_slices (s : State) (a : Nat) (l : List Byte) : (llcPut s a l).slices = s.slices := llcHold_slices s (a / 128)
@[simp] theorem llcPut_walkers (s : State) (a : Nat) (l : List Byte) : (llcPut s a l).walkers = s.walkers := llcHold_walkers s (a / 128)
@[simp] theorem llcPut_walkq (s : State) (a : Nat) (l : List Byte) : (llcPut s a l).walkq = s.walkq := llcHold_walkq s (a / 128)
@[simp] theorem llcPut_xlats (s : State) (a : Nat) (l : List Byte) : (llcPut s a l).xlats = s.xlats := llcHold_xlats s (a / 128)
@[simp] theorem llcPut_reqs (s : State) (a : Nat) (l : List Byte) : (llcPut s a l).reqs = s.reqs := llcHold_reqs s (a / 128)
@[simp] theorem llcPut_lreqs (s : State) (a : Nat) (l : List Byte) : (llcPut s a l).lreqs = s.lreqs := llcHold_lreqs s (a / 128)
@[simp] theorem llcPut_resps (s : State) (a : Nat) (l : List Byte) : (llcPut s a l).resps = s.resps := llcHold_resps s (a / 128)
@[simp] theorem llcPut_landing (s : State) (a : Nat) (l : List Byte) : (llcPut s a l).landing = s.landing := llcHold_landing s (a / 128)
@[simp] theorem llcPut_net (s : State) (a : Nat) (l : List Byte) : (llcPut s a l).net = s.net := llcHold_net s (a / 128)

/-! ### Threads -/

@[simp] theorem Thread.advance_id (t : Thread) : (t.advance).id = t.id := rfl
@[simp] theorem Thread.advance_run (t : Thread) : (t.advance).run = t.run := rfl
@[simp] theorem Thread.advance_mode (t : Thread) : (t.advance).mode = t.mode := rfl
@[simp] theorem Thread.advance_pc (t : Thread) : (t.advance).pc = t.pc + 4 := rfl
@[simp] theorem Thread.advance_gpr (t : Thread) : (t.advance).gpr = t.gpr := rfl
@[simp] theorem Thread.advance_kreg (t : Thread) : (t.advance).kreg = t.kreg := rfl
@[simp] theorem Thread.advance_fflags (t : Thread) : (t.advance).fflags = t.fflags := rfl
@[simp] theorem Thread.advance_tstat (t : Thread) : (t.advance).tstat = t.tstat := rfl
@[simp] theorem Thread.advance_scope (t : Thread) : (t.advance).scope = t.scope := rfl
@[simp] theorem Thread.advance_scopeFree (t : Thread) : (t.advance).scopeFree = t.scopeFree := rfl
@[simp] theorem Thread.advance_sup (t : Thread) : (t.advance).sup = t.sup := rfl
@[simp] theorem Thread.advance_mon (t : Thread) : (t.advance).mon = t.mon := rfl
@[simp] theorem Thread.advance_asid (t : Thread) : (t.advance).asid = t.asid := rfl
@[simp] theorem Thread.advance_event (t : Thread) : (t.advance).event = t.event := rfl
@[simp] theorem Thread.advance_lastRing (t : Thread) : (t.advance).lastRing = t.lastRing := rfl
@[simp] theorem Thread.advance_stbuf (t : Thread) : (t.advance).stbuf = t.stbuf := rfl
@[simp] theorem Thread.advance_imp (t : Thread) : (t.advance).imp = t.imp := rfl
@[simp] theorem Thread.advance_async (t : Thread) : (t.advance).async = t.async := rfl
@[simp] theorem Thread.advance_wait (t : Thread) : (t.advance).wait = t.wait := rfl
@[simp] theorem Thread.advance_place (t : Thread) : (t.advance).place = t.place := rfl
@[simp] theorem Thread.advance_lslot (t : Thread) : (t.advance).lslot = t.lslot := rfl
@[simp] theorem Thread.advance_cmds (t : Thread) : (t.advance).cmds = t.cmds := rfl
@[simp] theorem Thread.advance_frozen (t : Thread) : (t.advance).frozen = t.frozen := rfl

@[simp] theorem Thread.raise_id (t : Thread) (fl : Flags) : (t.raise fl).id = t.id := rfl
@[simp] theorem Thread.raise_run (t : Thread) (fl : Flags) : (t.raise fl).run = t.run := rfl
@[simp] theorem Thread.raise_mode (t : Thread) (fl : Flags) : (t.raise fl).mode = t.mode := rfl
@[simp] theorem Thread.raise_pc (t : Thread) (fl : Flags) : (t.raise fl).pc = t.pc := rfl
@[simp] theorem Thread.raise_gpr (t : Thread) (fl : Flags) : (t.raise fl).gpr = t.gpr := rfl
@[simp] theorem Thread.raise_kreg (t : Thread) (fl : Flags) : (t.raise fl).kreg = t.kreg := rfl
@[simp] theorem Thread.raise_fflags (t : Thread) (fl : Flags) : (t.raise fl).fflags = t.fflags ||| fl := rfl
@[simp] theorem Thread.raise_tstat (t : Thread) (fl : Flags) : (t.raise fl).tstat = t.tstat := rfl
@[simp] theorem Thread.raise_scope (t : Thread) (fl : Flags) : (t.raise fl).scope = t.scope := rfl
@[simp] theorem Thread.raise_scopeFree (t : Thread) (fl : Flags) : (t.raise fl).scopeFree = t.scopeFree := rfl
@[simp] theorem Thread.raise_sup (t : Thread) (fl : Flags) : (t.raise fl).sup = t.sup := rfl
@[simp] theorem Thread.raise_mon (t : Thread) (fl : Flags) : (t.raise fl).mon = t.mon := rfl
@[simp] theorem Thread.raise_asid (t : Thread) (fl : Flags) : (t.raise fl).asid = t.asid := rfl
@[simp] theorem Thread.raise_event (t : Thread) (fl : Flags) : (t.raise fl).event = t.event := rfl
@[simp] theorem Thread.raise_lastRing (t : Thread) (fl : Flags) : (t.raise fl).lastRing = t.lastRing := rfl
@[simp] theorem Thread.raise_stbuf (t : Thread) (fl : Flags) : (t.raise fl).stbuf = t.stbuf := rfl
@[simp] theorem Thread.raise_imp (t : Thread) (fl : Flags) : (t.raise fl).imp = t.imp := rfl
@[simp] theorem Thread.raise_async (t : Thread) (fl : Flags) : (t.raise fl).async = t.async := rfl
@[simp] theorem Thread.raise_wait (t : Thread) (fl : Flags) : (t.raise fl).wait = t.wait := rfl
@[simp] theorem Thread.raise_place (t : Thread) (fl : Flags) : (t.raise fl).place = t.place := rfl
@[simp] theorem Thread.raise_lslot (t : Thread) (fl : Flags) : (t.raise fl).lslot = t.lslot := rfl
@[simp] theorem Thread.raise_cmds (t : Thread) (fl : Flags) : (t.raise fl).cmds = t.cmds := rfl
@[simp] theorem Thread.raise_frozen (t : Thread) (fl : Flags) : (t.raise fl).frozen = t.frozen := rfl

@[simp] theorem Thread.kset_id (t : Thread) (k : BitVec 3) (v : Word128) : (t.kset k v).id = t.id := rfl
@[simp] theorem Thread.kset_run (t : Thread) (k : BitVec 3) (v : Word128) : (t.kset k v).run = t.run := rfl
@[simp] theorem Thread.kset_mode (t : Thread) (k : BitVec 3) (v : Word128) : (t.kset k v).mode = t.mode := rfl
@[simp] theorem Thread.kset_pc (t : Thread) (k : BitVec 3) (v : Word128) : (t.kset k v).pc = t.pc := rfl
@[simp] theorem Thread.kset_gpr (t : Thread) (k : BitVec 3) (v : Word128) : (t.kset k v).gpr = t.gpr := rfl
@[simp] theorem Thread.kset_kreg (t : Thread) (k : BitVec 3) (v : Word128) : (t.kset k v).kreg = t.kreg.set k.toNat v (k.isLt) := rfl
@[simp] theorem Thread.kset_fflags (t : Thread) (k : BitVec 3) (v : Word128) : (t.kset k v).fflags = t.fflags := rfl
@[simp] theorem Thread.kset_tstat (t : Thread) (k : BitVec 3) (v : Word128) : (t.kset k v).tstat = t.tstat := rfl
@[simp] theorem Thread.kset_scope (t : Thread) (k : BitVec 3) (v : Word128) : (t.kset k v).scope = t.scope := rfl
@[simp] theorem Thread.kset_scopeFree (t : Thread) (k : BitVec 3) (v : Word128) : (t.kset k v).scopeFree = t.scopeFree := rfl
@[simp] theorem Thread.kset_sup (t : Thread) (k : BitVec 3) (v : Word128) : (t.kset k v).sup = t.sup := rfl
@[simp] theorem Thread.kset_mon (t : Thread) (k : BitVec 3) (v : Word128) : (t.kset k v).mon = t.mon := rfl
@[simp] theorem Thread.kset_asid (t : Thread) (k : BitVec 3) (v : Word128) : (t.kset k v).asid = t.asid := rfl
@[simp] theorem Thread.kset_event (t : Thread) (k : BitVec 3) (v : Word128) : (t.kset k v).event = t.event := rfl
@[simp] theorem Thread.kset_lastRing (t : Thread) (k : BitVec 3) (v : Word128) : (t.kset k v).lastRing = t.lastRing := rfl
@[simp] theorem Thread.kset_stbuf (t : Thread) (k : BitVec 3) (v : Word128) : (t.kset k v).stbuf = t.stbuf := rfl
@[simp] theorem Thread.kset_imp (t : Thread) (k : BitVec 3) (v : Word128) : (t.kset k v).imp = t.imp := rfl
@[simp] theorem Thread.kset_async (t : Thread) (k : BitVec 3) (v : Word128) : (t.kset k v).async = t.async := rfl
@[simp] theorem Thread.kset_wait (t : Thread) (k : BitVec 3) (v : Word128) : (t.kset k v).wait = t.wait := rfl
@[simp] theorem Thread.kset_place (t : Thread) (k : BitVec 3) (v : Word128) : (t.kset k v).place = t.place := rfl
@[simp] theorem Thread.kset_lslot (t : Thread) (k : BitVec 3) (v : Word128) : (t.kset k v).lslot = t.lslot := rfl
@[simp] theorem Thread.kset_cmds (t : Thread) (k : BitVec 3) (v : Word128) : (t.kset k v).cmds = t.cmds := rfl
@[simp] theorem Thread.kset_frozen (t : Thread) (k : BitVec 3) (v : Word128) : (t.kset k v).frozen = t.frozen := rfl

@[simp] theorem Thread.writeReg_id (t : Thread) (d : Reg) (v : Word) : (t.writeReg d v).id = t.id := by unfold Thread.writeReg; split <;> rfl
@[simp] theorem Thread.writeReg_run (t : Thread) (d : Reg) (v : Word) : (t.writeReg d v).run = t.run := by unfold Thread.writeReg; split <;> rfl
@[simp] theorem Thread.writeReg_mode (t : Thread) (d : Reg) (v : Word) : (t.writeReg d v).mode = t.mode := by unfold Thread.writeReg; split <;> rfl
@[simp] theorem Thread.writeReg_pc (t : Thread) (d : Reg) (v : Word) : (t.writeReg d v).pc = t.pc := by unfold Thread.writeReg; split <;> rfl
@[simp] theorem Thread.writeReg_kreg (t : Thread) (d : Reg) (v : Word) : (t.writeReg d v).kreg = t.kreg := by unfold Thread.writeReg; split <;> rfl
@[simp] theorem Thread.writeReg_fflags (t : Thread) (d : Reg) (v : Word) : (t.writeReg d v).fflags = t.fflags := by unfold Thread.writeReg; split <;> rfl
@[simp] theorem Thread.writeReg_tstat (t : Thread) (d : Reg) (v : Word) : (t.writeReg d v).tstat = t.tstat := by unfold Thread.writeReg; split <;> rfl
@[simp] theorem Thread.writeReg_scope (t : Thread) (d : Reg) (v : Word) : (t.writeReg d v).scope = t.scope := by unfold Thread.writeReg; split <;> rfl
@[simp] theorem Thread.writeReg_scopeFree (t : Thread) (d : Reg) (v : Word) : (t.writeReg d v).scopeFree = t.scopeFree := by unfold Thread.writeReg; split <;> rfl
@[simp] theorem Thread.writeReg_sup (t : Thread) (d : Reg) (v : Word) : (t.writeReg d v).sup = t.sup := by unfold Thread.writeReg; split <;> rfl
@[simp] theorem Thread.writeReg_mon (t : Thread) (d : Reg) (v : Word) : (t.writeReg d v).mon = t.mon := by unfold Thread.writeReg; split <;> rfl
@[simp] theorem Thread.writeReg_asid (t : Thread) (d : Reg) (v : Word) : (t.writeReg d v).asid = t.asid := by unfold Thread.writeReg; split <;> rfl
@[simp] theorem Thread.writeReg_event (t : Thread) (d : Reg) (v : Word) : (t.writeReg d v).event = t.event := by unfold Thread.writeReg; split <;> rfl
@[simp] theorem Thread.writeReg_lastRing (t : Thread) (d : Reg) (v : Word) : (t.writeReg d v).lastRing = t.lastRing := by unfold Thread.writeReg; split <;> rfl
@[simp] theorem Thread.writeReg_stbuf (t : Thread) (d : Reg) (v : Word) : (t.writeReg d v).stbuf = t.stbuf := by unfold Thread.writeReg; split <;> rfl
@[simp] theorem Thread.writeReg_imp (t : Thread) (d : Reg) (v : Word) : (t.writeReg d v).imp = t.imp := by unfold Thread.writeReg; split <;> rfl
@[simp] theorem Thread.writeReg_async (t : Thread) (d : Reg) (v : Word) : (t.writeReg d v).async = t.async := by unfold Thread.writeReg; split <;> rfl
@[simp] theorem Thread.writeReg_wait (t : Thread) (d : Reg) (v : Word) : (t.writeReg d v).wait = t.wait := by unfold Thread.writeReg; split <;> rfl
@[simp] theorem Thread.writeReg_place (t : Thread) (d : Reg) (v : Word) : (t.writeReg d v).place = t.place := by unfold Thread.writeReg; split <;> rfl
@[simp] theorem Thread.writeReg_lslot (t : Thread) (d : Reg) (v : Word) : (t.writeReg d v).lslot = t.lslot := by unfold Thread.writeReg; split <;> rfl
@[simp] theorem Thread.writeReg_cmds (t : Thread) (d : Reg) (v : Word) : (t.writeReg d v).cmds = t.cmds := by unfold Thread.writeReg; split <;> rfl
@[simp] theorem Thread.writeReg_frozen (t : Thread) (d : Reg) (v : Word) : (t.writeReg d v).frozen = t.frozen := by unfold Thread.writeReg; split <;> rfl

@[simp] theorem Thread.retire_id (t : Thread) (d : Reg) (v : Word) : (t.retire d v).id = t.id := by simp [Thread.retire]
@[simp] theorem Thread.retire_run (t : Thread) (d : Reg) (v : Word) : (t.retire d v).run = t.run := by simp [Thread.retire]
@[simp] theorem Thread.retire_mode (t : Thread) (d : Reg) (v : Word) : (t.retire d v).mode = t.mode := by simp [Thread.retire]
@[simp] theorem Thread.retire_pc (t : Thread) (d : Reg) (v : Word) : (t.retire d v).pc = t.pc + 4 := by simp [Thread.retire]
@[simp] theorem Thread.retire_kreg (t : Thread) (d : Reg) (v : Word) : (t.retire d v).kreg = t.kreg := by simp [Thread.retire]
@[simp] theorem Thread.retire_fflags (t : Thread) (d : Reg) (v : Word) : (t.retire d v).fflags = t.fflags := by simp [Thread.retire]
@[simp] theorem Thread.retire_tstat (t : Thread) (d : Reg) (v : Word) : (t.retire d v).tstat = t.tstat := by simp [Thread.retire]
@[simp] theorem Thread.retire_scope (t : Thread) (d : Reg) (v : Word) : (t.retire d v).scope = t.scope := by simp [Thread.retire]
@[simp] theorem Thread.retire_scopeFree (t : Thread) (d : Reg) (v : Word) : (t.retire d v).scopeFree = t.scopeFree := by simp [Thread.retire]
@[simp] theorem Thread.retire_sup (t : Thread) (d : Reg) (v : Word) : (t.retire d v).sup = t.sup := by simp [Thread.retire]
@[simp] theorem Thread.retire_mon (t : Thread) (d : Reg) (v : Word) : (t.retire d v).mon = t.mon := by simp [Thread.retire]
@[simp] theorem Thread.retire_asid (t : Thread) (d : Reg) (v : Word) : (t.retire d v).asid = t.asid := by simp [Thread.retire]
@[simp] theorem Thread.retire_event (t : Thread) (d : Reg) (v : Word) : (t.retire d v).event = t.event := by simp [Thread.retire]
@[simp] theorem Thread.retire_lastRing (t : Thread) (d : Reg) (v : Word) : (t.retire d v).lastRing = t.lastRing := by simp [Thread.retire]
@[simp] theorem Thread.retire_stbuf (t : Thread) (d : Reg) (v : Word) : (t.retire d v).stbuf = t.stbuf := by simp [Thread.retire]
@[simp] theorem Thread.retire_imp (t : Thread) (d : Reg) (v : Word) : (t.retire d v).imp = t.imp := by simp [Thread.retire]
@[simp] theorem Thread.retire_async (t : Thread) (d : Reg) (v : Word) : (t.retire d v).async = t.async := by simp [Thread.retire]
@[simp] theorem Thread.retire_wait (t : Thread) (d : Reg) (v : Word) : (t.retire d v).wait = t.wait := by simp [Thread.retire]
@[simp] theorem Thread.retire_place (t : Thread) (d : Reg) (v : Word) : (t.retire d v).place = t.place := by simp [Thread.retire]
@[simp] theorem Thread.retire_lslot (t : Thread) (d : Reg) (v : Word) : (t.retire d v).lslot = t.lslot := by simp [Thread.retire]
@[simp] theorem Thread.retire_cmds (t : Thread) (d : Reg) (v : Word) : (t.retire d v).cmds = t.cmds := by simp [Thread.retire]
@[simp] theorem Thread.retire_frozen (t : Thread) (d : Reg) (v : Word) : (t.retire d v).frozen = t.frozen := by simp [Thread.retire]

@[simp] theorem Thread.fretire_id (t : Thread) (d : Reg) (r : Nat × Flags) : (t.fretire d r).id = t.id := by simp [Thread.fretire]
@[simp] theorem Thread.fretire_run (t : Thread) (d : Reg) (r : Nat × Flags) : (t.fretire d r).run = t.run := by simp [Thread.fretire]
@[simp] theorem Thread.fretire_mode (t : Thread) (d : Reg) (r : Nat × Flags) : (t.fretire d r).mode = t.mode := by simp [Thread.fretire]
@[simp] theorem Thread.fretire_pc (t : Thread) (d : Reg) (r : Nat × Flags) : (t.fretire d r).pc = t.pc + 4 := by simp [Thread.fretire]
@[simp] theorem Thread.fretire_kreg (t : Thread) (d : Reg) (r : Nat × Flags) : (t.fretire d r).kreg = t.kreg := by simp [Thread.fretire]
@[simp] theorem Thread.fretire_fflags (t : Thread) (d : Reg) (r : Nat × Flags) : (t.fretire d r).fflags = t.fflags ||| r.2 := by simp [Thread.fretire]
@[simp] theorem Thread.fretire_tstat (t : Thread) (d : Reg) (r : Nat × Flags) : (t.fretire d r).tstat = t.tstat := by simp [Thread.fretire]
@[simp] theorem Thread.fretire_scope (t : Thread) (d : Reg) (r : Nat × Flags) : (t.fretire d r).scope = t.scope := by simp [Thread.fretire]
@[simp] theorem Thread.fretire_scopeFree (t : Thread) (d : Reg) (r : Nat × Flags) : (t.fretire d r).scopeFree = t.scopeFree := by simp [Thread.fretire]
@[simp] theorem Thread.fretire_sup (t : Thread) (d : Reg) (r : Nat × Flags) : (t.fretire d r).sup = t.sup := by simp [Thread.fretire]
@[simp] theorem Thread.fretire_mon (t : Thread) (d : Reg) (r : Nat × Flags) : (t.fretire d r).mon = t.mon := by simp [Thread.fretire]
@[simp] theorem Thread.fretire_asid (t : Thread) (d : Reg) (r : Nat × Flags) : (t.fretire d r).asid = t.asid := by simp [Thread.fretire]
@[simp] theorem Thread.fretire_event (t : Thread) (d : Reg) (r : Nat × Flags) : (t.fretire d r).event = t.event := by simp [Thread.fretire]
@[simp] theorem Thread.fretire_lastRing (t : Thread) (d : Reg) (r : Nat × Flags) : (t.fretire d r).lastRing = t.lastRing := by simp [Thread.fretire]
@[simp] theorem Thread.fretire_stbuf (t : Thread) (d : Reg) (r : Nat × Flags) : (t.fretire d r).stbuf = t.stbuf := by simp [Thread.fretire]
@[simp] theorem Thread.fretire_imp (t : Thread) (d : Reg) (r : Nat × Flags) : (t.fretire d r).imp = t.imp := by simp [Thread.fretire]
@[simp] theorem Thread.fretire_async (t : Thread) (d : Reg) (r : Nat × Flags) : (t.fretire d r).async = t.async := by simp [Thread.fretire]
@[simp] theorem Thread.fretire_wait (t : Thread) (d : Reg) (r : Nat × Flags) : (t.fretire d r).wait = t.wait := by simp [Thread.fretire]
@[simp] theorem Thread.fretire_place (t : Thread) (d : Reg) (r : Nat × Flags) : (t.fretire d r).place = t.place := by simp [Thread.fretire]
@[simp] theorem Thread.fretire_lslot (t : Thread) (d : Reg) (r : Nat × Flags) : (t.fretire d r).lslot = t.lslot := by simp [Thread.fretire]
@[simp] theorem Thread.fretire_cmds (t : Thread) (d : Reg) (r : Nat × Flags) : (t.fretire d r).cmds = t.cmds := by simp [Thread.fretire]
@[simp] theorem Thread.fretire_frozen (t : Thread) (d : Reg) (r : Nat × Flags) : (t.fretire d r).frozen = t.frozen := by simp [Thread.fretire]

end Sys2Proof.Machine
end

