-- ==== Sys2Proof/WellFormed.lean ====
section
/-! DEFINITION. Which instruction terms stand for words of the hardware: the operand rules that R276 and R279-R284 put
on scalar forms, the unused inputs of router operators (R294), and the port numbers of stream commands (R286). A step of
the package has no word, and nothing is asked of it. -/

namespace Sys2Proof

/-- A scope field 0 to 4 (R229, R282). -/
def scopeOk (sc : BitVec 3) : Bool := sc.toNat ≤ 4

/-- An instruction term that stands for a word: its conversion code is assigned (R281), its scope is 0 to 4 (R229), no
unsigned form of a full word (R282), a pair in an even register that is not g0 (R276), the unused input of a router operator
zero (R294), the port of a command below 64 (R286). -/
def wellFormed : Instr → Bool
  | .fcvt _ _ code _ => code.toNat ≤ 9
  | .lda _ _ sc u w => scopeOk sc && !(u && w = 3)
  | .stl _ _ sc _ => scopeOk sc
  | .amoadd _ _ _ sc _ => scopeOk sc
  | .amoswap _ _ _ sc _ => scopeOk sc
  | .amocas _ _ _ sc _ => scopeOk sc
  | .amomin _ _ _ sc _ _ => scopeOk sc
  | .amomax _ _ _ sc _ _ => scopeOk sc
  | .amoand _ _ _ sc _ => scopeOk sc
  | .amoor _ _ _ sc _ => scopeOk sc
  | .amoxor _ _ _ sc _ => scopeOk sc
  | .fence sc => scopeOk sc
  | .launch d _ => pairOk d
  | .dqpop d => pairOk d
  | .dqsteal d _ => pairOk d
  | .rwait d _ _ => pairOk d
  | .ropSteer _ f => f.in2 = 0
  | .ropInvar _ f => f.in2 = 0
  | .ropGate _ f => f.in2 = 0
  | .cmdLoad p _ => p.port < 64
  | .cmdStore p _ => p.port < 64
  | .cmdCopy p _ => p.port < 64
  | .cmdGather p _ => p.port < 64
  | .cmdScatter p _ => p.port < 64
  | .cmdReduce p _ => p.port < 64
  | .cmdMcast p _ => p.port < 64
  | .cmdFill p _ => p.port < 64
  | .cmdPset p _ => p.port < 64
  | .cmdInject p _ => p.port < 64
  | .cmdSync p _ => p.port < 64
  | .cmdRecord p _ => p.port < 64
  | .cmdReplay p _ => p.port < 64
  | .cmdXput p _ => p.port < 64
  | .cmdXget p _ => p.port < 64
  | .cmdCreduce p _ => p.port < 64
  | .cmdPrefetch p _ => p.port < 64
  | .cmdFlush p _ => p.port < 64
  | _ => true

end Sys2Proof
end

