-- ==== Sys2Proof/Safety.lean ====
section
/-! DEFINITION. The words the statements are made of: what a state must satisfy in every run, what an instruction leaves
alone, and when a site or a port can act. -/

namespace Sys2Proof.Machine

/-- Both memories of the package are in their one canonical form. -/
abbrev MemoryOk (s : State) : Prop := Memory.wf s.mem = true ∧ Memory.wf s.sram = true

/-- The thread whose turn it is. -/
abbrev Issues (s : State) (t : Thread) : Prop := s.thread? s.cur = some t

/-- A thread that is at no wait and has no imprecise error to take. -/
abbrev Thread.clear (t : Thread) : Prop := t.imp = [] ∧ t.stbuf = []

/-- Everything but the threads is as it was: memory, slices, partitions, places, the package and the networks. -/
def OnlyThreads (s s' : State) : Prop := s' = { s with threads := s'.threads }

/-- Of the threads, only one has changed, and of that one only the fields that `f` may write. -/
def OnlyThread (s s' : State) (t u : Thread) : Prop := s' = s.setThread u ∧ u.id = t.id

/-- The registers of a thread that only a trap, a return or a write to a system register changes: mode, both banks,
partition, scope, command registers, FFLAGS and TSTAT. -/
def SameControl (t u : Thread) : Prop :=
  u.mode = t.mode ∧ u.sup = t.sup ∧ u.mon = t.mon ∧ u.asid = t.asid ∧ u.scope = t.scope ∧ u.kreg = t.kreg ∧ u.run = t.run ∧
  u.async = t.async ∧ u.event = t.event

/-- Every state that an access can leave, with its value or with a fault, satisfies `P`. -/
def Acc.Leaves {α : Type} (P : State → Prop) : Acc α → Prop
  | .ok s _ => P s
  | .fault s _ _ _ => P s
  | .wait => True

/-- Every byte of both memories reads as before. -/
def SameBytes (s s' : State) : Prop := ∀ a, memByte s'.mem a = memByte s.mem a ∧ memByte s'.sram a = memByte s.sram a

end Sys2Proof.Machine
end

