-- ==== Sys2Proof/Laws/Memory.lean ====
section
/-! SUPPORT. Memory keeps its canonical form, reads give what was written, and a write leaves every other byte alone. -/

namespace Sys2Proof.Machine

theorem Memory.above_mono : ∀ {m : Mem} {lo hi : Nat}, Memory.above hi m = true → lo ≤ hi → Memory.above lo m = true
  | [], _, _, _, _ => rfl
  | (a, v) :: m, lo, hi, h, hl => by
    simp only [Memory.above, Bool.and_eq_true, decide_eq_true_eq] at h ⊢
    exact ⟨⟨by omega, h.1.2⟩, h.2⟩

/-- An address below every listed one reads as zero. -/
theorem memByte_below : ∀ {m : Mem} {lo a : Nat}, Memory.above lo m = true → a < lo → memByte m a = 0
  | [], _, _, _, _ => rfl
  | (b, v) :: m, lo, a, h, ha => by
    simp only [Memory.above, Bool.and_eq_true, decide_eq_true_eq] at h
    simp only [memByte]
    rw [if_neg (by omega)]
    exact memByte_below h.2 (by omega)

theorem memPut_above : ∀ {m : Mem} {lo a : Nat} {v : Byte}, Memory.above lo m = true → lo ≤ a → Memory.above lo (memPut m a v) = true
  | [], lo, a, v, _, ha => by
    unfold memPut
    split
    · rfl
    · next hv => simp [Memory.above, ha]; exact hv
  | (b, u) :: m, lo, a, v, h, ha => by
    simp only [Memory.above, Bool.and_eq_true, decide_eq_true_eq] at h
    unfold memPut
    split
    · simp only [Memory.above, Bool.and_eq_true, decide_eq_true_eq]
      exact ⟨h.1, memPut_above h.2 (by omega)⟩
    · split
      · split
        · exact Memory.above_mono h.2 (by omega)
        · next hb hv =>
          subst hb
          simp only [Memory.above, Bool.and_eq_true, decide_eq_true_eq]
          exact ⟨⟨ha, hv⟩, h.2⟩
      · split
        · simp only [Memory.above, Bool.and_eq_true, decide_eq_true_eq]
          exact h
        · next hv =>
          simp only [Memory.above, Bool.and_eq_true, decide_eq_true_eq]
          exact ⟨⟨ha, hv⟩, ⟨by omega, h.1.2⟩, h.2⟩

/-- Writing one byte keeps the form. -/
theorem memPut_wf {m : Mem} {a : Nat} {v : Byte} (h : Memory.wf m = true) : Memory.wf (memPut m a v) = true :=
  memPut_above h (Nat.zero_le _)

/-- Writing bytes keeps the form. -/
theorem memWrite_wf : ∀ {l : List Byte} {m : Mem} {a : Nat}, Memory.wf m = true → Memory.wf (memWrite m a l) = true
  | [], _, _, h => h
  | _ :: l, _, _, h => memWrite_wf (l := l) (memPut_wf h)

theorem memByte_memPut_above : ∀ {m : Mem} {lo a b : Nat} {v : Byte}, Memory.above lo m = true →
    memByte (memPut m a v) b = if b = a then v else memByte m b
  | [], _, a, b, v, _ => by
    unfold memPut
    split
    · next hv => simp [memByte, hv]
    · simp only [memByte]
      by_cases hb : b = a
      · rw [if_pos hb.symm, if_pos hb]
      · rw [if_neg (fun e => hb e.symm), if_neg hb]
  | (c, u) :: m, lo, a, b, v, h => by
    simp only [Memory.above, Bool.and_eq_true, decide_eq_true_eq] at h
    unfold memPut
    split
    · simp only [memByte]
      rw [memByte_memPut_above h.2]
      by_cases hc : c = b
      · rw [if_pos hc, if_neg (by omega), if_pos hc]
      · rw [if_neg hc, if_neg hc]
    · split
      · next hc =>
        subst hc
        split
        · next hv =>
          simp only [memByte]
          by_cases hb : b = c
          · subst hb; rw [if_pos rfl, hv]; exact memByte_below h.2 (by omega)
          · rw [if_neg hb, if_neg (fun e => hb e.symm)]
        · simp only [memByte]
          by_cases hb : b = c
          · subst hb; simp
          · rw [if_neg (fun e => hb e.symm), if_neg hb, if_neg (fun e => hb e.symm)]
      · split
        · next hv =>
          by_cases hb : b = a
          · subst hb
            rw [if_pos rfl, hv, memByte, if_neg (by omega)]
            exact memByte_below h.2 (by omega)
          · rw [if_neg hb]
        · simp only [memByte]
          by_cases hb : b = a
          · subst hb; simp
          · rw [if_neg (fun e => hb e.symm), if_neg hb]

/-- What a byte reads as after one byte is written. -/
theorem memByte_memPut {m : Mem} {a b : Nat} {v : Byte} (h : Memory.wf m = true) :
    memByte (memPut m a v) b = if b = a then v else memByte m b := memByte_memPut_above h

/-- A write leaves every byte outside it alone. -/
theorem memByte_memWrite_outside : ∀ {l : List Byte} {m : Mem} {a b : Nat}, Memory.wf m = true → (b < a ∨ a + l.length ≤ b) →
    memByte (memWrite m a l) b = memByte m b
  | [], _, _, _, _, _ => rfl
  | v :: l, m, a, b, h, hb => by
    simp only [List.length_cons] at hb
    rw [memWrite, memByte_memWrite_outside (memPut_wf h) (by omega), memByte_memPut h, if_neg (by omega)]

/-- A read of bytes just written gives them. -/
theorem memRead_memWrite : ∀ {l : List Byte} {m : Mem} {a : Nat}, Memory.wf m = true → memRead (memWrite m a l) a l.length = l
  | [], _, _, _ => rfl
  | v :: l, m, a, h => by
    simp only [List.length_cons, memRead, memWrite]
    rw [memByte_memWrite_outside (memPut_wf h) (by omega), memByte_memPut h, if_pos rfl]
    congr 1
    exact memRead_memWrite (memPut_wf h)

/-- A write at the LLC keeps the form. -/
theorem llcPut_ok {s : State} {a : Nat} {l : List Byte} (h : MemoryOk s) : MemoryOk (llcPut s a l) := by
  simp only [MemoryOk, llcPut_mem, llcPut_sram]
  exact ⟨memWrite_wf h.1, h.2⟩

theorem llcHold_ok {s : State} (n : Nat) (h : MemoryOk s) : MemoryOk (llcHold s n).1 := by simpa [MemoryOk] using h

/-- A read at the LLC moves no byte. -/
theorem llcGet_ok {s : State} (a n : Nat) (h : MemoryOk s) : MemoryOk (llcGet s a n).1 := llcHold_ok (a / 128) h

theorem setSlice_ok {s : State} {x : Slice} (h : MemoryOk s) : MemoryOk (s.setSlice x) := h

theorem llcBack_ok {s : State} {l : Nat} {d : List Byte} {b : List Nat} (h : MemoryOk s) : MemoryOk (llcBack s l d b) :=
  llcPut_ok (s := s) (a := l * 128) (l := d) h

theorem llcLines_ok : ∀ (k : Nat) {s : State} (a : Nat), MemoryOk s → MemoryOk (llcLines k s a).1
  | 0, _, _, h => h
  | k + 1, _, a, h => llcLines_ok k (a + 128) (llcGet_ok a 128 h)

/-- A message that is sent moves no byte of memory. -/
theorem sendUnder_ok {s : State} {m : Msg} {cargo : Option Cargo} {c : Code} (h : MemoryOk s) : MemoryOk (sendUnder s m cargo c) := by
  have fold : ∀ (l : List (List Byte)) (s : State), MemoryOk s →
      MemoryOk (l.foldl (fun st b =>
        let x := { m with body := b }
        encodeOne x.cls (if x.cls = m.cls then c else (codeFor st x).getD c) cargo st x) s) := by
    intro l
    induction l with
    | nil => exact fun _ h => h
    | cons b l ih => exact fun s h => ih _ h
  refine fold _ _ ?_
  unfold stirAgent
  split <;> exact h

theorem sendMessage_ok {s : State} {m : Msg} {cargo : Cargo} (h : MemoryOk s) : MemoryOk (sendMessage s m cargo) := by
  unfold sendMessage
  split
  · exact sendUnder_ok h
  · exact h

theorem writeBack_ok {s : State} {d i : Nat} {l : SLine} {w : List Req} (h : MemoryOk s) : MemoryOk (writeBack s d i l w) :=
  sendMessage_ok h

theorem installAt_ok {s : State} {x : Slice} {l : SLine} (h : MemoryOk s) : MemoryOk (installAt s x l) := by
  unfold installAt
  split
  · exact h
  · simp only
    split
    · exact writeBack_ok h
    · exact h

/-- The expander moves no byte of memory. -/
theorem expandAt_ok {s : State} (d t : Nat) (h : MemoryOk s) : MemoryOk (expandAt s d t).1 := by
  have h1 := llcGet_ok (d + 8 * t) 8 h
  unfold expandAt
  simp only
  split
  · exact h
  split
  · exact h1
  split
  · exact h1
  split
  · exact h1
  split
  · exact llcLines_ok _ _ h1
  split <;> exact llcLines_ok _ _ h1

theorem tileFor_ok {s : State} (d i : Nat) (w : CompPage) (t : Nat) (h : MemoryOk s) : MemoryOk (tileFor s d i w t).1 := by
  have h1 := expandAt_ok w.dir t h
  unfold tileFor
  split
  · exact h
  · split
    · next e => rw [e] at h1; exact h1
    · next e => rw [e] at h1; exact h1

end Sys2Proof.Machine
end

