-- ==== Sys2Proof/Certificates/Slice0/Obligations.lean ====
section
/-! DEFINITION. What is claimed of the model: the vocabulary, and one statement for each group of the spec's rules. A
statement under Sys2Proof.Claims is a part of an obligation, which the end of the file joins from them. -/

/-! ### Vocabulary -/

namespace Sys2Proof.Claims

open Sys2Proof.Machine

/-- A register form of the integer group computes `f`, on whole registers or, for .W, on their low words with the result
sign-extended. -/
def IntForm (i : Reg → Reg → Reg → Bool → Instr) (f : (n : Nat) → BitVec n → BitVec n → BitVec n) : Prop :=
  ∀ (s : State) (t : Thread) (d a b : Reg), Issues s t →
    exec (i d a b false) s = .next (s.setThread ((t.writeReg d (f 64 (t.reg a) (t.reg b))).advance)) ∧
    exec (i d a b true) s = .next (s.setThread
      ((t.writeReg d ((f 32 ((t.reg a).setWidth 32) ((t.reg b).setWidth 32)).signExtend 64)).advance))

/-- A unary form of the integer group gives a count `r` of an `n`-bit operand with the property `P`. -/
def CountForm (i : Reg → Reg → Bool → Instr) (P : (n : Nat) → BitVec n → Nat → Prop) : Prop :=
  ∀ (s : State) (t : Thread) (d a : Reg), Issues s t →
    (∃ r, P 64 (t.reg a) r ∧ exec (i d a false) s = .next (s.setThread ((t.writeReg d (BitVec.ofNat 64 r)).advance))) ∧
    (∃ r, P 32 ((t.reg a).setWidth 32) r ∧ exec (i d a true) s = .next (s.setThread ((t.writeReg d (BitVec.ofNat 64 r)).advance)))

/-- An immediate form writes `f` of its source. -/
def ImmForm (i : Reg → Reg → Instr) (f : Word → Word) : Prop :=
  ∀ (s : State) (t : Thread) (d a : Reg), Issues s t →
    exec (i d a) s = .next (s.setThread ((t.writeReg d (f (t.reg a))).advance))

/-- One step of the reflected CRC-32C. -/
def crcBit (c : BitVec 32) (bit : Bool) : BitVec 32 :=
  if (c.getLsbD 0) != bit then (c >>> 1) ^^^ 0x82F63B78#32 else c >>> 1

/-- A branch goes to its displacement where `c` holds of its sources, and to the next instruction where it does not. -/
def BranchForm (i : Reg → Reg → BitVec 16 → Instr) (c : Word → Word → Prop) : Prop :=
  ∀ (s : State) (t : Thread) (a b : Reg) (disp : BitVec 16), Issues s t →
    (c (t.reg a) (t.reg b) → exec (i a b disp) s = .next (s.setThread { t with pc := t.pc + 4 * disp.signExtend 64 })) ∧
    (¬ c (t.reg a) (t.reg b) → exec (i a b disp) s = .next (s.setThread { t with pc := t.pc + 4 }))

/-- A floating form of two sources writes `f` of them, rounded by its RS code, and raises the flags of that result. -/
def FloatForm (i : Reg → Reg → Reg → Bool → Instr) (f : Fmt → Val → Val → Nat × Flags) : Prop :=
  ∀ (s : State) (t : Thread) (d a b : Reg) (p : Bool), Issues s t →
    let r := f (precFmt p) (t.fsrc a p) (t.fsrc b p)
    exec (i d a b p) s = .next (s.setThread ({ t.writeReg d (BitVec.ofNat 64 r.1) with fflags := t.fflags ||| r.2 }.advance))

end Sys2Proof.Claims

/-! ### Registers (R276) -/

open Sys2Proof Sys2Proof.Machine Sys2Proof.Claims

/-- R276: g0 always reads zero and a write to it is discarded; a write to any other register is what it then reads, and
no other register changes. -/
def Sys2Proof.Claims.RegisterZeroAndWrites : Prop :=
  ∀ (t : Thread) (d r : Reg) (v : Word),
    t.reg 0 = 0 ∧ (t.writeReg 0 v = t) ∧ (d ≠ 0 → (t.writeReg d v).reg d = v) ∧ (r ≠ d → (t.writeReg d v).reg r = t.reg r)

/-! ### Integer instructions (R301, R304-R307) -/

/-- R304: the sums, differences, bitwise operations and shifts of the integer group. -/
def Sys2Proof.Claims.IntegerArithmetic : Prop :=
  IntForm .add (fun _ x y => x + y) ∧ IntForm .sub (fun _ x y => x - y) ∧ IntForm .and (fun _ x y => x &&& y) ∧
  IntForm .or (fun _ x y => x ||| y) ∧ IntForm .xor (fun _ x y => x ^^^ y) ∧
  IntForm .shl (fun n x y => x <<< (y.toNat % n)) ∧ IntForm .shr (fun n x y => x >>> (y.toNat % n)) ∧
  IntForm .sra (fun n x y => x.sshiftRight (y.toNat % n))

/-- R304, R305: products by their low and high halves; quotients truncated toward zero and remainders with the sign of
the dividend, with the results R305 gives for a divisor of zero. -/
def Sys2Proof.Claims.IntegerMultiplyDivide : Prop :=
  IntForm .mul (fun _ x y => x * y) ∧
  IntForm .mulh (fun n x y => (x.signExtend (2 * n) * y.signExtend (2 * n)).extractLsb' n n) ∧
  IntForm .mulhu (fun n x y => (x.setWidth (2 * n) * y.setWidth (2 * n)).extractLsb' n n) ∧
  IntForm .div (fun n x y => if y = 0 then BitVec.allOnes n else x.sdiv y) ∧
  IntForm .divu (fun n x y => if y = 0 then BitVec.allOnes n else x.udiv y) ∧
  IntForm .rem (fun _ x y => if y = 0 then x else x.srem y) ∧
  IntForm .remu (fun _ x y => if y = 0 then x else x.umod y)

/-- R304: the lesser and the greater, signed and unsigned, and the two comparisons. -/
def Sys2Proof.Claims.IntegerCompare : Prop :=
  IntForm .min (fun _ x y => if x.sle y then x else y) ∧ IntForm .max (fun _ x y => if x.sle y then y else x) ∧
  IntForm .minu (fun _ x y => if x.ule y then x else y) ∧ IntForm .maxu (fun _ x y => if x.ule y then y else x) ∧
  IntForm .slt (fun n x y => if x.slt y then 1#n else 0#n) ∧ IntForm .sltu (fun n x y => if x.ult y then 1#n else 0#n)

/-- R304, R306: counts of leading zeros, trailing zeros and one bits; the bytes in reverse order; the CRC-32C of the low
8, 16, 32 or 64 bits of gb, least significant first, zero-extended. -/
def Sys2Proof.Claims.IntegerBits : Prop :=
  CountForm .clz (fun n x r => r ≤ n ∧ (∀ j, n - r ≤ j → x.getLsbD j = false) ∧ (r < n → x.getLsbD (n - 1 - r) = true)) ∧
  CountForm .ctz (fun n x r => r ≤ n ∧ (∀ j, j < r → x.getLsbD j = false) ∧ (r < n → x.getLsbD r = true)) ∧
  CountForm .popc (fun n x r => r = ((List.range n).filter (fun j => x.getLsbD j)).length) ∧
  (∀ (s : State) (t : Thread) (d a : Reg), Issues s t →
    (∃ v : Word, (∀ k, k < 8 → v.extractLsb' (8 * k) 8 = (t.reg a).extractLsb' (8 * (7 - k)) 8) ∧
      exec (.bswap d a false) s = .next (s.setThread ((t.writeReg d v).advance))) ∧
    (∃ v : BitVec 32, (∀ k, k < 4 → v.extractLsb' (8 * k) 8 = (t.reg a).extractLsb' (8 * (3 - k)) 8) ∧
      exec (.bswap d a true) s = .next (s.setThread ((t.writeReg d (v.signExtend 64)).advance)))) ∧
  (∀ (s : State) (t : Thread) (d a b : Reg) (sub : BitVec 2), Issues s t →
    exec (.crcw d a b sub) s = .next (s.setThread ((t.writeReg d
      (((List.range (8 * 2 ^ sub.toNat)).foldl (fun c i => crcBit c ((t.reg b).getLsbD i)) ((t.reg a).setWidth 32)).setWidth 64)).advance)))

/-- R307: the immediate forms, all on 64 bits, and LIH. -/
def Sys2Proof.Claims.ImmediateForms : Prop :=
  (∀ imm, ImmForm (fun d a => .addi d a imm) (fun x => x + imm.signExtend 64)) ∧
  (∀ imm, ImmForm (fun d a => .andi d a imm) (fun x => x &&& imm.setWidth 64)) ∧
  (∀ imm, ImmForm (fun d a => .ori d a imm) (fun x => x ||| imm.setWidth 64)) ∧
  (∀ imm, ImmForm (fun d a => .xori d a imm) (fun x => x ^^^ imm.setWidth 64)) ∧
  (∀ imm, ImmForm (fun d a => .shli d a imm) (fun x => x <<< imm.toNat)) ∧
  (∀ imm, ImmForm (fun d a => .shri d a imm) (fun x => x >>> imm.toNat)) ∧
  (∀ imm, ImmForm (fun d a => .srai d a imm) (fun x => x.sshiftRight imm.toNat)) ∧
  (∀ imm, ImmForm (fun d a => .slti d a imm) (fun x => if x.slt (imm.signExtend 64) then 1 else 0)) ∧
  (∀ imm, ImmForm (fun d a => .sltui d a imm) (fun x => if x.ult (imm.signExtend 64) then 1 else 0)) ∧
  (∀ (s : State) (t : Thread) (d : Reg) (imm : BitVec 16), Issues s t →
    exec (.lih d imm) s = .next (s.setThread ((t.writeReg d ((imm.setWidth 32 <<< 16).signExtend 64)).advance)))

/-! ### Floating point (R301, R303, R308-R311) -/

/-- R308-R311: what each floating form writes and which flags it adds, from its operands as its precision reads them:
FADD to FMAC round the exact result once by RS (FMAC with the old gd), FMIN and FMAX give an operand, FEQ, FLT and FLE a
truth value, FCLASS a class bit and no flag. The arithmetic on values is that of the model's own functions, which
`FloatSpecials` and `FloatCompare` speak about. -/
def Obligations.FloatForms : Prop :=
  (∀ rs, FloatForm (fun d a b p => .fadd d a b rs p) (fpAdd (rsOf rs))) ∧
  (∀ rs, FloatForm (fun d a b p => .fsub d a b rs p) (fpSub (rsOf rs))) ∧
  (∀ rs, FloatForm (fun d a b p => .fmul d a b rs p) (fpMul (rsOf rs))) ∧
  (∀ rs, FloatForm (fun d a b p => .fdiv d a b rs p) (fpDiv (rsOf rs))) ∧
  (∀ (s : State) (t : Thread) (d a : Reg) (rs : BitVec 3) (p : Bool), Issues s t →
    exec (.fsqrt d a rs p) s = .next (s.setThread (t.fretire d (fpSqrt (rsOf rs) (precFmt p) (t.fsrc a p))))) ∧
  (∀ (s : State) (t : Thread) (d a b : Reg) (rs : BitVec 3) (p : Bool), Issues s t →
    exec (.fmac d a b rs p) s =
      .next (s.setThread (t.fretire d (fpMac (rsOf rs) (precFmt p) (t.fsrc a p) (t.fsrc b p) (t.fsrc d p))))) ∧
  (∀ (s : State) (t : Thread) (d a b : Reg) (p : Bool), Issues s t →
    let x := (t.reg a).toNat % 2 ^ (precFmt p).width
    let y := (t.reg b).toNat % 2 ^ (precFmt p).width
    exec (.fmin d a b p) s = .next (s.setThread (t.fretire d (fpPick false (precFmt p) x y (t.fsrc a p) (t.fsrc b p)))) ∧
    exec (.fmax d a b p) s = .next (s.setThread (t.fretire d (fpPick true (precFmt p) x y (t.fsrc a p) (t.fsrc b p))))) ∧
  FloatForm .feq (fun _ x y => if x.isNan || y.isNan then (0, fNanIn) else (bit1 (eqVal x y), 0)) ∧
  FloatForm .flt (fun _ x y => if x.isNan || y.isNan then (0, fInvalid ||| fNanIn) else (bit1 (ltVal false x y), 0)) ∧
  FloatForm .fle (fun _ x y => if x.isNan || y.isNan then (0, fInvalid ||| fNanIn) else (bit1 (!ltVal false y x), 0)) ∧
  (∀ (s : State) (t : Thread) (d a : Reg) (code : BitVec 5) (rs : BitVec 3), Issues s t →
    exec (.fcvt d a code rs) s = .next (s.setThread (t.fretire d (fpCvt code.toNat (rsOf rs) (t.reg a))))) ∧
  (∀ (s : State) (t : Thread) (d a : Reg) (p : Bool), Issues s t →
    ∃ k, k ≤ 8 ∧ exec (.fclass d a p) s = .next (s.setThread ((t.writeReg d (BitVec.ofNat 64 (2 ^ k))).advance)))

/-- R309, the table of special operands, for every rounding code and both precisions: any NaN operand gives the canonical
NaN and NaN-in alone; infinities of unlike sign added, an infinity times zero, zero over zero and infinity over infinity
give the canonical NaN and invalid; a finite nonzero number over zero gives an infinity with the xor of the signs and
divide-by-zero; the square root of a negative number gives the canonical NaN and invalid, of −0 gives −0 and no flag. -/
def Sys2Proof.Claims.FloatSpecials : Prop :=
  ∀ (rs : Rs) (p : Bool) (x y z : Val) (n k : Bool) (m : Nat) (e : Int) (m' : Nat) (e' : Int),
    let f := precFmt p
    (x = .nan ∨ y = .nan → fpAdd rs f x y = (f.nan, fNanIn) ∧ fpSub rs f x y = (f.nan, fNanIn) ∧
      fpMul rs f x y = (f.nan, fNanIn) ∧ fpDiv rs f x y = (f.nan, fNanIn) ∧ fpMac rs f x y z = (f.nan, fNanIn)) ∧
    (z = .nan → fpMac rs f x y z = (f.nan, fNanIn)) ∧ fpSqrt rs f .nan = (f.nan, fNanIn) ∧
    fpAdd rs f (.inf n) (.inf !n) = (f.nan, fInvalid) ∧ fpSub rs f (.inf n) (.inf n) = (f.nan, fInvalid) ∧
    fpMul rs f (.num n 0 e) (.inf k) = (f.nan, fInvalid) ∧ fpMul rs f (.inf k) (.num n 0 e) = (f.nan, fInvalid) ∧
    fpDiv rs f (.num n 0 e) (.num k 0 e') = (f.nan, fInvalid) ∧ fpDiv rs f (.inf n) (.inf k) = (f.nan, fInvalid) ∧
    (m ≠ 0 → fpDiv rs f (.num n m e) (.num k 0 e') = (f.inf (n != k), fDivZero)) ∧
    (m ≠ 0 → fpSqrt rs f (.num true m e) = (f.nan, fInvalid)) ∧ fpSqrt rs f (.inf true) = (f.nan, fInvalid) ∧
    fpSqrt rs f (.num true 0 e) = (f.sign true, 0) ∧
    (m' ≠ 0 → fpMul rs f (.inf n) (.num k m' e') = (f.inf (n != k), 0))

/-- R310: on finite numbers the comparisons order the numbers themselves, so that +0 and −0 are equal. -/
def Sys2Proof.Claims.FloatCompare : Prop :=
  ∀ (n k : Bool) (m m' : Nat) (e e' : Int),
    let q (n : Bool) (m : Nat) (e : Int) : ℚ := (if n then -1 else 1) * m * (2 : ℚ) ^ e
    (ltVal false (.num n m e) (.num k m' e') = true ↔ q n m e < q k m' e') ∧
    (eqVal (.num n m e) (.num k m' e') = true ↔ q n m e = q k m' e')

/-- R182: a finite number that its format can encode is its own rounding, by every rounding code, saturating or not, and
raises no flag. -/
def Obligations.RoundExact : Prop :=
  ∀ (f : Fmt), f ∈ [fp32, fp64, bf16, fp16, e4m3, e5m2, e2m1] → ∀ (rs : Rs) (n : Nat), n < 2 ^ f.width → rs.mode < 4 →
    ∀ (neg : Bool) (m : Nat) (e : Int), f.read n = .num neg m e → f.put rs (.num neg m e) = (n, 0)


namespace Sys2Proof.Claims

open Sys2Proof.Machine

/-- An access of `n` bytes at `ea` passes R313: it is aligned, its translation succeeds and its page permits it. `s1` is
the state after its walk, `x` the translated address and `lv` the level of its leaf. -/
def Passes (s : State) (t : Thread) (ea : Word) (n : Nat) (nd : Bool → Need) (s1 : State) (x : Xl) (lv : Nat) : Prop :=
  ea.toNat % n = 0 ∧ threadXl s t ea.toNat (nd (t.mode = .user)) = .ok s1 (x, lv)

/-- The effective address of the M format (R312). -/
def effective (t : Thread) (a : Reg) (imm : BitVec 16) : Word := t.reg a + imm.signExtend 64

/-- The low `n` bytes of a register, least significant first. -/
def lowBytes (n : Nat) (v : Word) : List Byte := (List.range n).map (fun k => v.extractLsb' (8 * k) 8)

/-- Bytes read least significant first, sign- or zero-extended. -/
def valueOf (n : Nat) (sgn : Bool) (bs : List Byte) : Word :=
  if sgn then (BitVec.ofNat (8 * n) (bytesNat bs)).signExtend 64 else (BitVec.ofNat (8 * n) (bytesNat bs)).setWidth 64

/-- A load of `n` bytes: with its bytes read it writes gd and moves on; a misaligned address is MISALIGNED and no other
step of the access is taken. -/
def LoadForm (i : Reg → Reg → BitVec 16 → Instr) (n : Nat) (sgn : Bool) : Prop :=
  ∀ (s : State) (t : Thread) (d a : Reg) (imm : BitVec 16), Issues s t →
    (∀ s1 x lv s2 bs, Passes s t (effective t a imm) n Need.load s1 x lv → threadRead s1 t x lv n = .ok s2 bs →
      exec (i d a imm) s = .next (s2.setThread ((t.writeReg d (valueOf n sgn bs)).advance))) ∧
    ((effective t a imm).toNat % n ≠ 0 → exec (i d a imm) s = .next (syncTrap s t 33 0 false false t.pc (effective t a imm)))

/-- A store of `n` bytes: it enters the store buffer, behind what stands there; a full buffer first performs its oldest
entry; a misaligned address is MISALIGNED. -/
def StoreForm (i : Reg → Reg → BitVec 16 → Instr) (n : Nat) : Prop :=
  ∀ (s : State) (t : Thread) (d a : Reg) (imm : BitVec 16), Issues s t →
    (∀ s1 x lv, Passes s t (effective t a imm) n Need.store s1 x lv → (x.sram = true ∨ stackReady s1 x.pa = true) →
      let ent : StoreEnt := { va := (effective t a imm).toNat, xl := x, bytes := lowBytes n (t.reg d) }
      (t.stbuf.length < 16 → exec (i d a imm) s = .next (s1.setThread { t.advance with stbuf := t.stbuf ++ [ent] })) ∧
      (∀ e rest s2 errs, t.stbuf = e :: rest → ¬ t.stbuf.length < 16 → performStore s1 t e = some (s2, errs) →
        exec (i d a imm) s = .next (s2.setThread { t.advance with stbuf := rest ++ [ent], imp := t.imp ++ errs }))) ∧
    ((effective t a imm).toNat % n ≠ 0 → exec (i d a imm) s = .next (syncTrap s t 33 0 false false t.pc (effective t a imm)))

/-- The signed or unsigned order of an atomic. -/
def amoLess {n : Nat} (u : Bool) (x y : BitVec n) : Bool := if u then x.ult y else x.slt y

/-- An atomic: earlier accesses performed, an acquire at its scope, then one indivisible read, `new` and write; `none`
of `new` writes nothing. gd receives the old value. -/
def AmoForm (i : Reg → Reg → Reg → BitVec 3 → Bool → Instr) (u : Bool)
    (new : (n : Nat) → (old v e : BitVec n) → Option (BitVec n)) : Prop :=
  ∀ (s : State) (t : Thread) (d a b : Reg) (sc : BitVec 3) (w : Bool) (s1 s2 s4 : State) (x : Xl) (lv : Nat) (bs : List Byte),
    let n := if w then 8 else 4
    let r := { t with stbuf := [] }
    let s0 := acquireAt (s1.setThread r) r sc.toNat
    let s3 := (amoPlace s2 t.id.die? sc.toNat x).1
    let die := (amoPlace s2 t.id.die? sc.toNat x).2
    let out := new (8 * n) (BitVec.ofNat (8 * n) (bytesNat bs)) ((t.reg b).setWidth (8 * n)) ((t.reg d).setWidth (8 * n))
    Issues s t → t.imp = [] → drainList t t.stbuf s = some (s1, []) → Passes s0 r (t.reg a) n Need.atomic s2 x lv →
    linePending s2 t.id.die? x = false → threadBytes s3 r die lv x n = .ok s4 bs → bs.length = n →
      (out = none → exec (i d a b sc w) s = .next (s4.setThread ((r.writeReg d (valueOf n (!u) bs)).advance))) ∧
      (∀ v s5, out = some v → writeBytes s4 die x (lowBytes n (v.setWidth 64)) = .ok s5 () →
        exec (i d a b sc w) s = .next (s5.setThread ((r.writeReg d (valueOf n (!u) bs)).advance)))

/-- A thread whose accesses are physical and go to the memory itself: a system core that acts in no partition, at a
trained address above the boot memory, with no error in any word and no request before it at the LLC. -/
def Physical (s : State) (t : Thread) (ea : Word) (n : Nat) : Prop :=
  t.id.isSys = true ∧ t.asid = 0 ∧ ea.toNat % n = 0 ∧ 2 ^ 26 ≤ ea.toNat ∧ ea.toNat + n ≤ 2 ^ 48 ∧ stackReady s ea.toNat = true ∧
  s.badWords = [] ∧ s.softWords = [] ∧ s.rings = [] ∧ (∀ x ∈ s.llc, x.bad = [] ∧ x.soft = []) ∧
  llcBusy s (ea.toNat / 128) = false

end Sys2Proof.Claims


/-! ### Memory instructions (R312-R316) -/

/-- R312-R314: the loads, by width and extension, and where they are MISALIGNED. -/
def Sys2Proof.Claims.LoadForms : Prop :=
  LoadForm .ldb 1 true ∧ LoadForm .ldbu 1 false ∧ LoadForm .ldh 2 true ∧ LoadForm .ldhu 2 false ∧ LoadForm .ldw 4 true ∧
  LoadForm .ldwu 4 false ∧ LoadForm .ldd 8 false

/-- R312-R314: the stores, by width, into the 16-entry store buffer, and where they are MISALIGNED. -/
def Sys2Proof.Claims.StoreForms : Prop :=
  StoreForm .stb 1 ∧ StoreForm .sth 2 ∧ StoreForm .stw 4 ∧ StoreForm .std 8

/-- R312: a physical load gives its register the bytes of memory, least significant first, extended as its name says, and
changes nothing but the register, the pc and which lines the LLC holds; memory itself stays as it is. -/
def Sys2Proof.Claims.PhysicalLoad : Prop :=
  ∀ (s : State) (t : Thread) (d a : Reg) (imm : BitVec 16), Issues s t → t.stbuf = [] →
    let ea := effective t a imm
    let value (n : Nat) (sgn : Bool) := valueOf n sgn ((List.range n).map (fun k => memByte s.mem (ea.toNat + k)))
    let loads (i : Instr) (v : Word) : Prop := ∃ l, exec i s = .next ({ s with llc := l }.setThread ((t.writeReg d v).advance))
    (Physical s t ea 1 → loads (.ldb d a imm) (value 1 true) ∧ loads (.ldbu d a imm) (value 1 false)) ∧
    (Physical s t ea 2 → loads (.ldh d a imm) (value 2 true) ∧ loads (.ldhu d a imm) (value 2 false)) ∧
    (Physical s t ea 4 → loads (.ldw d a imm) (value 4 true) ∧ loads (.ldwu d a imm) (value 4 false)) ∧
    (Physical s t ea 8 → loads (.ldd d a imm) (value 8 false))

/-- R314: a load that touches bytes held in the store buffer is given them from the buffer, the newest write winning byte
by byte: a doubleword stored, then one of its bytes stored again, reads back with that byte replaced. -/
def Sys2Proof.Claims.StoreForwarding : Prop :=
  ∀ (s s1 s2 : State) (t : Thread) (d a c e : Reg) (k : Nat), Issues s t → Physical s t (t.reg a) 8 → k < 8 →
    t.stbuf.length < 15 → e ≠ 0 →
    exec (.std d a 0) s = .next s1 → exec (.stb c a (BitVec.ofNat 16 k)) s1 = .next s2 →
    ∃ s3 u, exec (.ldd e a 0) s2 = .next s3 ∧ Issues s3 u ∧
      u.reg e = (t.reg d &&& ~~~(0xFF#64 <<< (8 * k))) ||| (((t.reg c).setWidth 8).setWidth 64 <<< (8 * k)) ∧ SameBytes s s3

/-- R315: LDA is a load at ga alone, after an acquire at its scope and any imprecise error; STL performs every earlier
access, then its own write of the low bytes of gb. A misaligned address is MISALIGNED for each. -/
def Sys2Proof.Claims.AcquireAndRelease : Prop :=
  ∀ (s : State) (t : Thread) (d a b : Reg) (sc : BitVec 3) (u : Bool) (w : BitVec 2), Issues s t → t.imp = [] →
    (∀ s1 x lv s2 bs, Passes (acquireAt s t sc.toNat) t (t.reg a) (2 ^ w.toNat) Need.load s1 x lv →
      threadRead s1 t x lv (2 ^ w.toNat) = .ok s2 bs →
      exec (.lda d a sc u w) s = .next (s2.setThread ((t.writeReg d (valueOf (2 ^ w.toNat) (!u) bs)).advance))) ∧
    ((t.reg a).toNat % 2 ^ w.toNat ≠ 0 →
      exec (.lda d a sc u w) s = .next (syncTrap (acquireAt s t sc.toNat) t 33 0 false false t.pc (t.reg a))) ∧
    (∀ s1, drainList t t.stbuf s = some (s1, []) →
      let r := { t with stbuf := [] }
      (∀ s2 x lv s3, Passes (s1.setThread r) r (t.reg a) (2 ^ w.toNat) Need.store s2 x lv →
        writeBytes s2 t.id.die? x (lowBytes (2 ^ w.toNat) (t.reg b)) = .ok s3 () →
        exec (.stl a b sc w) s = .next (s3.setThread r.advance)) ∧
      ((t.reg a).toNat % 2 ^ w.toNat ≠ 0 →
        exec (.stl a b sc w) s = .next (syncTrap (s1.setThread r) r 33 0 false false t.pc (t.reg a))))

/-- R316: what each atomic writes and returns. -/
def Sys2Proof.Claims.AtomicsComplete : Prop :=
  AmoForm .amoadd false (fun _ old v _ => some (old + v)) ∧ AmoForm .amoswap false (fun _ _ v _ => some v) ∧
  AmoForm .amocas false (fun _ old v e => if old = e then some v else none) ∧
  AmoForm .amoand false (fun _ old v _ => some (old &&& v)) ∧ AmoForm .amoor false (fun _ old v _ => some (old ||| v)) ∧
  AmoForm .amoxor false (fun _ old v _ => some (old ^^^ v)) ∧
  (∀ u, AmoForm (fun d a b sc w => .amomin d a b sc u w) u (fun _ old v _ => some (if amoLess u old v then old else v)) ∧
    AmoForm (fun d a b sc w => .amomax d a b sc u w) u (fun _ old v _ => some (if amoLess u old v then v else old)))

/-- R313: an address whose bits 63:48 are not zero is TRANSLATION, subcode NONCANON, and nothing is accessed. -/
def Sys2Proof.Claims.NonCanonicalFaults : Prop :=
  ∀ (s : State) (t : Thread) (va : Nat) (nd : Need), 2 ^ 48 ≤ va → threadXl s t va nd = .fault s 8 3 0

/-- R202, R206-R211: where a write of bytes within one line succeeds, memory outside them stays as it is, but for a line
that was dirty in the slice and leaves it with the write; what the slice then holds of the line is the line with those
bytes replaced; and the boot memory changes only where the address is its own. -/
def Obligations.WriteFrame : Prop :=
  ∀ (s s' : State) (die : Option Nat) (x : Xl) (bs : List Byte), x.pa % 128 + bs.length ≤ 128 → s.rings = [] →
    writeBytes s die x bs = .ok s' () →
    (∀ a, ¬ (x.pa ≤ a ∧ a < x.pa + bs.length) → memByte s'.sram a = memByte s.sram a) ∧
    (x.sram = true → SameBytes { s with sram := s'.sram } s') ∧
    (x.sram = false → s'.sram = s.sram) ∧
    (∀ a, a / 128 ≠ x.pa / 128 → memByte s'.mem a = memByte s.mem a) ∧
    (∀ a, ¬ (x.pa ≤ a ∧ a < x.pa + bs.length) → (writePolicy x ≤ 2 ∨ die = none) → memByte s'.mem a = memByte s.mem a) ∧
    (∀ d l l', die = some d → x.sram = false → (sliceAt s d (sliceIndex x.iset x.pa)).find (x.pa / 128) = some l →
      l.data.length = 128 → (sliceAt s' d (sliceIndex x.iset x.pa)).find (x.pa / 128) = some l' →
      ∀ k, k < 128 → l'.data.getD k 0 =
        if x.pa ≤ x.pa / 128 * 128 + k ∧ x.pa / 128 * 128 + k < x.pa + bs.length
        then bs.getD (x.pa / 128 * 128 + k - x.pa) 0 else l.data.getD k 0)


/-! ### Control flow, traps and waiting (R319, R320, R326, R333-R339) -/

/-- R319: the branches; none of them writes a register. -/
def Sys2Proof.Claims.BranchesComplete : Prop :=
  BranchForm .beq (fun x y => x = y) ∧ BranchForm .bne (fun x y => x ≠ y) ∧ BranchForm .blt (fun x y => x.slt y = true) ∧
  BranchForm .bge (fun x y => y.sle x = true) ∧ BranchForm .bltu (fun x y => x.ult y = true) ∧
  BranchForm .bgeu (fun x y => y.ule x = true)

/-- R320: JMP, JAL and JALR, with JALR reading ga before it writes gd, and its MISALIGNED trap with no register written. -/
def Sys2Proof.Claims.JumpsComplete : Prop :=
  ∀ (s : State) (t : Thread) (d a : Reg) (disp : BitVec 26) (imm : BitVec 16), Issues s t →
    exec (.jmp disp) s = .next (s.setThread { t with pc := t.pc + 4 * disp.signExtend 64 }) ∧
    exec (.jal disp) s = .next (s.setThread { t.writeReg 31 (t.pc + 4) with pc := t.pc + 4 * disp.signExtend 64 }) ∧
    (effective t a imm &&& 3 = 0 →
      exec (.jalr d a imm) s = .next (s.setThread { t.writeReg d (t.pc + 4) with pc := effective t a imm })) ∧
    (effective t a imm &&& 3 ≠ 0 →
      exec (.jalr d a imm) s = .next (syncTrap s t 33 0 false false t.pc (effective t a imm)))

/-- R334, R336, R342: a synchronous trap outside a handler. The target mode is supervisor on a control core; on a system
core it is monitor from monitor mode and, for TRAPI, from supervisor mode, and supervisor otherwise. EPC, ECAUSE, EVAL,
PMODE and INH of the target's bank are written, the pc is the vector, and no other register changes. -/
def Sys2Proof.Claims.TrapTakes : Prop :=
  ∀ (s : State) (t : Thread) (code sub : Nat) (imp norec : Bool) (epc eval : Word), t.inh = false → code < 64 → sub < 256 →
    let toMonitor : Prop := t.id.isSys = true ∧ (t.mode = .monitor ∨ (t.mode = .supervisor ∧ code = 35))
    ∃ u, syncTrap s t code sub imp norec epc eval = s.setThread u ∧
      (toMonitor → u.mode = .monitor ∧ u.sup = t.sup) ∧ (¬ toMonitor → u.mode = .supervisor ∧ u.mon = t.mon) ∧
      (let old := t.bank u.mode
       let new := u.bank u.mode
       new.epc = epc ∧ new.eval = eval ∧ new.inh = true ∧ new.pmode = BitVec.ofNat 2 t.mode.code ∧ new.tvec = old.tvec ∧
       new.escratch = old.escratch ∧ new.ecause.extractLsb' 0 16 = BitVec.ofNat 16 code ∧ new.ecause.getLsbD 16 = imp ∧
       new.ecause.getLsbD 17 = false ∧ new.ecause.getLsbD 18 = norec ∧ new.ecause.extractLsb' 19 5 = 0 ∧
       new.ecause.extractLsb' 24 8 = BitVec.ofNat 8 sub ∧ new.ecause.extractLsb' 32 16 = 0 ∧
       new.ecause.extractLsb' 48 16 = BitVec.ofNat 16 t.asid ∧
       (t.id.isSys = true → u.pc = old.tvec) ∧
       (t.id.isSys = false → ∀ p, partOf s t.asid = some p → u.pc = p.ctvec)) ∧
      u = { t with mode := u.mode, pc := u.pc, sup := u.sup, mon := u.mon, wait := .none }

/-- R334: a second synchronous trap in a handler stops a system core: EPC and the other fields of ECAUSE keep the first
trap's values, CODE becomes 43, and EVAL holds both codes. On a control core the
thread stops and the partition supervisor is given the traps that stood pending there, and DOUBLE_TRAP. -/
def Sys2Proof.Claims.DoubleTrap : Prop :=
  ∀ (s : State) (t : Thread) (code sub : Nat) (imp norec : Bool) (epc eval : Word), Issues s t → t.inh = true → code < 64 →
    (t.id.isSys = true → ∃ u, syncTrap s t code sub imp norec epc eval = s.setThread u ∧ u.run = .stopped ∧ u.mode = t.mode ∧
      u.pc = t.pc ∧ u.gpr = t.gpr ∧
      (let old := t.bank t.mode
       let new := u.bank t.mode
       new.epc = old.epc ∧ new.ecause.extractLsb' 0 16 = 43 ∧ new.ecause.extractLsb' 16 48 = old.ecause.extractLsb' 16 48 ∧
       new.eval.extractLsb' 0 16 = BitVec.ofNat 16 code ∧ new.eval.extractLsb' 16 16 = old.ecause.extractLsb' 0 16 ∧
       new.eval.extractLsb' 32 32 = 0 ∧ new.pmode = old.pmode ∧ new.inh = old.inh ∧ new.tvec = old.tvec)) ∧
    (t.id.isSys = false → ∃ s', syncTrap s t code sub imp norec epc eval = s' ∧
      s'.thread? t.id = some { t with run := .stopped, wait := .none, async := [] } ∧
      (∀ v, (∀ b ∈ t.async, b.asid = t.asid) → s.thread? (supervisorOf s t.asid) = some v → v.run = .running → (supervisorOf s t.asid) ≠ t.id →
        ∃ v' a, s'.thread? (supervisorOf s t.asid) = some v' ∧ v'.async = v.async ++ t.async ++ [a] ∧ a.code = 43 ∧ a.asid = t.asid ∧
          v'.event = true))

/-- R337, R338: ERET sets pc := EPC, mode := min(PMODE, current mode) and INH := 0 in the current mode's bank and changes
nothing else; TRAP takes TRAPI with num16 in EVAL and the address after it in EPC. -/
def Sys2Proof.Claims.EretAndTrap : Prop :=
  ∀ (s : State) (t : Thread) (num : BitVec 16), Issues s t →
    (t.mode ≠ .user → ∃ u, exec .eret s = .next (s.setThread u) ∧ u.pc = (t.bank t.mode).epc ∧
      u.mode.code = min (t.bank t.mode).pmode.toNat t.mode.code ∧
      u.bank t.mode = { t.bank t.mode with inh := false } ∧
      u = { t with pc := u.pc, mode := u.mode, sup := u.sup, mon := u.mon } ∧
      (t.mode = .supervisor → u.mon = t.mon) ∧ (t.mode = .monitor → u.sup = t.sup)) ∧
    (t.inh = false → exec (.trap num) s = .next (syncTrap s t 35 0 false false (t.pc + 4) (num.setWidth 64)))

/-- R333: in user mode ERET, CACHE operation 2 and the TLB operations take PRIV with their word in EVAL; so does SWAPP in
any mode but monitor. -/
def Sys2Proof.Claims.PrivilegeTraps : Prop :=
  ∀ (s : State) (t : Thread) (a b d : Reg) (i : Instr), Issues s t →
    (i ∈ [Instr.eret, .cacheInv a, .tlbinvPage a b, .tlbinvAsid a b, .tlbinvAll a b] ∧ t.mode = .user ∨
      i = .swapp d a ∧ t.mode ≠ .monitor) →
    ∃ w, encodeScalar i = some w ∧ exec i s = .next (syncTrap s t 34 0 false false t.pc (w.setWidth 64))

/-- R323, R334-R336, R339: TAKE_ASYNC_TRAP gives a thread that runs, waits in an instruction that a trap abandons, what it waits for not having come, or is parked in
HALT, INH clear as it stands, the oldest of its pending asynchronous traps whose target mode has INH clear: EPC is the instruction it is at, or the next
one after WFE and HALT, ASYNC is set, and the trap is no longer pending. -/
def Sys2Proof.Claims.AsyncTrapTaken : Prop :=
  ∀ (s : State) (t : Thread) (a : AsyncTrap) (older rest : List AsyncTrap), s.thread? t.id = some t → t.run = .running ∨ t.run = .parked →
    t.wait.abandoned = true → waitMet s t = false → t.frozen = false → t.inh = false → t.async = older ++ a :: rest → a.code < 64 → a.asid < 65536 →
    let target (b : AsyncTrap) : Mode := if t.id.isSys = true ∧ ¬ (b.asid ≠ 0 ∧ t.asid = b.asid) then .monitor else .supervisor
    let tm := target a
    (∀ b ∈ older, (t.bank (target b)).inh = true) → (t.bank tm).inh = false →
    ∃ u, exec (.takeAsyncTrap t.id) s = .next ((abandonRing s t.id).setThread u) ∧ u.async = older ++ rest ∧ u.mode = tm ∧
      (t.run = .running → (∀ due, t.wait ≠ .wfe due) → (u.bank tm).epc = t.pc) ∧
      (t.run = .parked ∨ (∃ due, t.wait = .wfe due) → (u.bank tm).epc = t.pc + 4) ∧
      (u.bank tm).eval = a.eval ∧ (u.bank tm).inh = true ∧ (u.bank tm).pmode = BitVec.ofNat 2 t.mode.code ∧
      (u.bank tm).ecause.extractLsb' 0 16 = BitVec.ofNat 16 a.code ∧ (u.bank tm).ecause.getLsbD 17 = true ∧
      (u.bank tm).ecause.extractLsb' 48 16 = BitVec.ofNat 16 a.asid ∧ u.gpr = t.gpr ∧ u.kreg = t.kreg ∧ u.fflags = t.fflags

/-- R314: FENCE, LDA, STL, the atomics and HALT first take an imprecise store error that is pending, with EPC at
themselves, IMP set and EVAL naming the store's record. -/
def Sys2Proof.Claims.ImpreciseFirst : Prop :=
  ∀ (s : State) (t : Thread) (e : ImpErr) (rest : List ImpErr) (d a b : Reg) (sc : BitVec 3) (u w : Bool) (z : BitVec 2)
      (i : Instr), Issues s t → t.imp = e :: rest →
    i ∈ [Instr.fence sc, .lda d a sc u z, .stl a b sc z, .amoadd d a b sc w, .amoswap d a b sc w, .amocas d a b sc w,
      .amomin d a b sc u w, .amomax d a b sc u w, .amoand d a b sc w, .amoor d a b sc w, .amoxor d a b sc w, .halt] →
    exec i s = .next (syncTrap s { t with imp := rest } e.code e.sub true e.norec t.pc e.recAddr)

/-- R324, R326, R339: with no error pending, FENCE performs the stores of the buffer and moves on, HALT performs them and
parks a system core or ends a launch thread. WFE clears a set event flag and goes on; it waits 65,536 cycles at most for
one that is clear, and WFE_TIMEOUT ends the wait. -/
def Obligations.FenceHaltWfe : Prop :=
  ∀ (s : State) (t : Thread), Issues s t →
    (∀ s1 (sc : BitVec 3), t.imp = [] → drainList t t.stbuf s = some (s1, []) →
      let r := { t with stbuf := [] }
      exec (.fence sc) s = .next ((acquireAt (s1.setThread r) r sc.toNat).setThread r.advance) ∧
      (t.id.isSys = true → exec .halt s = .next ((s1.setThread r).setThread { r with run := .parked, wait := .none })) ∧
      (t.id.isSys = false →
        exec .halt s = .next (threadEnds ((s1.setThread r).setThread { r with run := .ended, wait := .none }) r false))) ∧
    (t.event = true → exec .wfe s = .next (s.setThread { t with pc := t.pc + 4, event := false, wait := .none })) ∧
    (t.event = false → t.wait = .none → exec .wfe s = .next (s.setThread { t with wait := .wfe (s.cycle + 65536) })) ∧
    (∀ u due, s.thread? u.id = some u → u.wait = .wfe due →
      (due ≤ s.cycle → exec (.wfeTimeout u.id) s = .next (s.setThread { u with pc := u.pc + 4, wait := .none, event := false })) ∧
      (s.cycle < due → exec (.wfeTimeout u.id) s = .next s))


namespace Sys2Proof.Claims

open Sys2Proof.Machine

/-- Nothing but one thread has changed, and that one is `u`. -/
def Becomes (s : State) (t u : Thread) (s' : State) : Prop :=
  OnlyThreads s s' ∧ s'.thread? t.id = some u ∧ ∀ id, id ≠ t.id → s'.thread? id = s.thread? id

end Sys2Proof.Claims


/-! ### System registers, CACHE and TLBINV (R340-R344) -/

/-- R340-R342: what SYSRD gives for the registers of a thread, of its partition and of the package. -/
def Sys2Proof.Claims.SysrdReads : Prop :=
  ∀ (s : State) (t : Thread) (g : Reg), Issues s t →
    let reads (n : BitVec 16) (v : Word) : Prop := exec (.sysrd g n) s = .next (s.setThread ((t.writeReg g v).advance))
    let b := t.bank t.mode
    reads 0x000 (t.fflags.setWidth 64) ∧ reads 0x001 t.tstat ∧ reads 0x003 (BitVec.ofNat 64 s.cycle) ∧
    reads 0x004 (BitVec.ofNat 64 t.scope) ∧
    (∀ n, t.id = .sys n → n < 32 →
      reads 0x002 (BitVec.ofNat 64 (if n < 16 then 8 else 9) <<< 12 ||| BitVec.ofNat 64 (n % 16) <<< 4 ||| 1)) ∧
    (∀ d c h, t.id = .ctl d c h → d < 8 → c < 32 → h < 4 →
      reads 0x002 (BitVec.ofNat 64 d <<< 12 ||| BitVec.ofNat 64 c <<< 4 ||| BitVec.ofNat 64 h <<< 2)) ∧
    (t.mode ≠ .user → reads 0x010 ((BitVec.ofNat 2 t.mode.code ++ BitVec.ofBool b.inh ++ b.pmode).setWidth 64) ∧
      reads 0x011 b.epc ∧ reads 0x012 b.ecause ∧ reads 0x013 b.eval ∧ reads 0x015 b.escratch) ∧
    (t.id.isSys = true → t.mode ≠ .user → reads 0x014 b.tvec) ∧ (t.id.isSys = true → reads 0x020 (BitVec.ofNat 64 t.asid)) ∧
    (∀ p, partOf s t.asid = some p → t.mode ≠ .user → reads 0x200 p.ctvec ∧ reads 0x201 p.census ∧ reads 0x202 p.stowcfg ∧
      reads 0x203 p.frarea ∧ reads 0x205 p.psuper ∧ reads 0x206 p.rbarea) ∧
    (partOf s t.asid = none → t.mode ≠ .user → reads 0x200 0 ∧ reads 0x201 0 ∧ reads 0x202 0 ∧ reads 0x203 0 ∧ reads 0x205 0 ∧ reads 0x206 0) ∧
    (t.id.isSys = true → t.mode = .monitor → reads 0x300 s.pkg.pwrcap ∧ reads 0x301 s.pkg.pwrstat ∧ reads 0x302 s.pkg.thermtrip ∧
      reads 0x303 s.pkg.bootstat ∧ reads 0x304 s.pkg.attreq ∧ reads 0x305 s.pkg.partcmd ∧ reads 0x306 s.pkg.partstat ∧
      reads 0x307 s.pkg.catbase2 ∧ reads 0x308 s.pkg.catctl ∧ reads 0x320 s.pkg.sprsel ∧ reads 0x331 s.pkg.ident.svnfuse)

/-- R340, R342: what SYSWR leaves in the registers of a thread and of its partition; a write to a read-only register is
ignored, and one of ASID ends the silence of the partition the thread leaves and of that it comes to. The event REGISTER_WRITE of the table has the same effect without the instruction. -/
def Sys2Proof.Claims.SyswrWrites : Prop :=
  ∀ (s : State) (t : Thread) (g : Reg), Issues s t → t.run = .running →
    let v := t.reg g
    let sets (n : BitVec 16) (u : Thread) : Prop :=
      (∃ s', exec (.syswr g n) s = .next s' ∧ Becomes s t { u with pc := t.pc + 4 } s') ∧
      (∃ s', exec (.registerWrite n v) s = .next s' ∧ Becomes s t u s')
    let bank (f : Bank → Bank) : Thread := t.setBank t.mode (f (t.bank t.mode))
    sets 0x000 { t with fflags := v.setWidth 7 } ∧ sets 0x001 { t with tstat := v &&& 0xFFFFFFFF00FFFFFF } ∧ sets 0x002 t ∧
    sets 0x003 t ∧ sets 0x004 t ∧
    (t.mode ≠ .user → sets 0x010 (bank (fun b => { b with inh := v.getLsbD 2, pmode := v.extractLsb' 0 2 })) ∧
      sets 0x011 (bank (fun b => { b with epc := v })) ∧ sets 0x012 t ∧ sets 0x013 t ∧
      sets 0x015 (bank (fun b => { b with escratch := v }))) ∧
    (t.id.isSys = true → t.mode ≠ .user → sets 0x014 (bank (fun b => { b with tvec := v &&& 0x0000FFFFFFFFFFFC }))) ∧
    (t.id.isSys = true → t.mode = .monitor →
      let u := { t with asid := (v.extractLsb' 0 16).toNat }
      let s0 := stir (stir s t.asid) u.asid
      (∃ s', exec (.syswr g 0x020) s = .next s' ∧ Becomes s0 t { u with pc := t.pc + 4 } s') ∧
      (∃ s', exec (.registerWrite 0x020 v) s = .next s' ∧ Becomes s0 t u s')) ∧
    (t.mode ≠ .user → ∀ p, partOf s t.asid = some p →
      let set_ (n : BitVec 16) (f : Partition → Partition) : Prop :=
        exec (.syswr g n) s = .next ((s.updPart p.asid f).updThread t.id Thread.advance) ∧
        exec (.registerWrite n v) s = .next (s.updPart p.asid f)
      set_ 0x200 (fun q => { q with ctvec := v &&& 0x0000FFFFFFFFFFFC }) ∧
      set_ 0x201 (fun q => { q with census := v &&& 0x0000FFFFFFFFF00F }) ∧
      (t.mode = .monitor → set_ 0x205 (fun q => { q with psuper := v &&& 0x1F })))

/-- R340, R341: a number assigned to no register of the core's kind is ILLEGAL, and a mode below the register's takes PRIV,
each with the word in EVAL. -/
def Sys2Proof.Claims.SystemRegisterTraps : Prop :=
  ∀ (s : State) (t : Thread) (g : Reg) (n : BitVec 16), Issues s t →
    let traps (code : Nat) : Prop := ∀ i ∈ [Instr.sysrd g n, Instr.syswr g n],
      ∃ w, encodeScalar i = some w ∧ exec i s = .next (syncTrap s t code 0 false false t.pc (w.setWidth 64))
    (t.id.isSys = false → (n = 0x014 ∨ n = 0x020 ∨ 0x300 ≤ n.toNat) → traps 32) ∧
    (t.id.isSys = true → n = 0x102 → traps 32) ∧
    ((5 ≤ n.toNat ∧ n.toNat < 0x10) ∨ (0x21 ≤ n.toNat ∧ n.toNat < 0x100) ∨ (0x103 ≤ n.toNat ∧ n.toNat < 0x200) ∨
      (0x207 ≤ n.toNat ∧ n.toNat < 0x300) ∨ 0x344 ≤ n.toNat → traps 32) ∧
    (t.mode = .user → (0x010 ≤ n.toNat ∧ n.toNat ≤ 0x013 ∨ n = 0x015 ∨ 0x200 ≤ n.toNat ∧ n.toNat ≤ 0x206) → traps 34) ∧
    (t.id.isSys = true → t.mode ≠ .monitor → (0x300 ≤ n.toNat ∧ n.toNat ≤ 0x308 ∨ 0x310 ≤ n.toNat ∧ n.toNat ≤ 0x31E) → traps 34)

/-- R343: with the stores of the buffer performed, the address translated and permitted, and the line on its way nowhere:
CLEAN retires once its line is dirty in no slice of the thread's dies, CLEANINV also leaves it in none of them, BLOCKINV
leaves none of the lines of the block; until then dirty lines set out for the LLC and the instruction stands. INV leaves
the line in none of them and writes nothing back. A line on its way makes the first two wait. -/
def Sys2Proof.Claims.CacheOperations : Prop :=
  ∀ (s s1 s2 : State) (t : Thread) (a : Reg) (x : Xl) (lv : Nat) (es : List ImpErr), Issues s t →
    drainList t t.stbuf s = some (s1, es) →
    let r := { t with stbuf := [], imp := t.imp ++ es }
    let s0 := s1.setThread r
    let mine (y : Slice) : Prop := (cacheDies s2 r).contains y.die = true
    let comes (i : Instr) (u : Thread) (P : State → Prop) : Prop :=
      ∃ s', exec i s = .next s' ∧ s'.thread? t.id = some u ∧ P s'
    let idle (hit : Nat → Prop) : Prop := ∀ y ∈ s2.slices, mine y → ∀ p ∈ y.pend, ¬ hit p.line
    let allClean (hit : Nat → Prop) (s' : State) : Prop := ∀ y ∈ s'.slices, mine y → ∀ l ∈ y.lines, hit l.line → l.dirty = false
    let absent (hit : Nat → Prop) (s' : State) : Prop := ∀ y ∈ s'.slices, mine y → ∀ l ∈ y.lines, ¬ hit l.line
    let unique : Prop := s2.slices.Pairwise (fun y z => ¬ (y.die = z.die ∧ y.idx = z.idx)) ∧
      ∀ y ∈ s2.slices, y.lines.Pairwise (fun l m => l.line ≠ m.line)
    let line (l : Nat) : Prop := l = lineKey x
    let block (l : Nat) : Prop := l / 1024 = lineKey x / 1024
    unique → x.sram = false →
    (threadXl s0 r (t.reg a).toNat (Need.load (t.mode = .user)) = .ok s2 (x, lv) →
      (¬ idle line → exec (.cacheClean a) s = .next s2 ∧ exec (.cacheCleaninv a) s = .next s2) ∧
      (idle line → allClean line s2 →
        comes (.cacheClean a) r.advance (allClean line) ∧ comes (.cacheCleaninv a) r.advance (absent line)) ∧
      (idle line → ¬ allClean line s2 → (∀ y ∈ s2.slices, mine y → y.hasRoom = true) →
        comes (.cacheClean a) r (allClean line) ∧ comes (.cacheCleaninv a) r (absent line)) ∧
      (idle block → allClean block s2 → comes (.cacheBlockinv a) r.advance (absent block)) ∧
      (idle block → ¬ allClean block s2 → comes (.cacheBlockinv a) r (fun _ => True))) ∧
    (t.mode ≠ .user → threadXl s0 r (t.reg a).toNat (Need.store false) = .ok s2 (x, lv) → idle line →
      comes (.cacheInv a) r.advance (fun s' => SameBytes s2 s' ∧ absent line s'))

/-- R344: what each kind drops, in monitor mode, or in supervisor mode for the thread's own partition: PAGE leaves no
cached translation of the address for the partition, global or not, and no decoded tile of its page; ASID leaves no walker
entry, no decoded tile and no translation of the partition but global ones; ALL leaves none of any; a walk in flight of the
partition's generators is discarded. -/
def Sys2Proof.Claims.TlbinvDrops : Prop :=
  ∀ (s : State) (t : Thread) (a b : Reg), Issues s t →
    let asid := (t.reg b).toNat % 2 ^ 16
    let va := (t.reg a).toNat
    let done (i : Instr) (P : State → Prop) : Prop := ∃ s', exec i s = .next s' ∧ s'.thread? t.id = some t.advance ∧
      s'.mem = s.mem ∧ s'.parts = s.parts ∧ P s'
    let rewalk (s' : State) : Prop := ∀ p ∈ s'.places, p.asid = asid → ∀ q ∈ p.ports, ∀ r, q.running = some r → r.walking = none
    (t.mode = .monitor ∨ t.mode = .supervisor ∧ asid = t.asid →
      done (.tlbinvPage a b) (fun s' => rewalk s' ∧
        (∀ e ∈ s'.xlats, e.ent.asid = asid ∨ e.ent.isGlobal = true → va / 2 ^ e.ent.size ≠ e.ent.vpage) ∧
        ∀ y ∈ s'.slices, ∀ k ∈ y.tiles, k.win.asid = asid ∨ k.win.glob = true → va / 2 ^ k.win.size ≠ k.win.page) ∧
      done (.tlbinvAsid a b) (fun s' => rewalk s' ∧ (∀ w ∈ s'.walkers, w.asid ≠ asid) ∧
        (∀ y ∈ s'.slices, ∀ k ∈ y.tiles, k.win.asid ≠ asid) ∧ ∀ e ∈ s'.xlats, e.ent.asid = asid → e.ent.isGlobal = true)) ∧
    (t.mode = .monitor → done (.tlbinvAll a b) (fun s' => rewalk s' ∧ s'.walkers = [] ∧ (∀ y ∈ s'.slices, y.tiles = []) ∧
      s'.xlats = [])) ∧
    (t.mode = .supervisor → exec (.tlbinvAll a b) s = .next (syncTrap s t 34 0 false false t.pc (wordOf (.tlbinvAll a b))))

/-- R345, R66: SWAPP in monitor mode: an operand above 65,535 is BADREC, −1; an ASID no partition holds is NOASID, −3; an
accepted swap waits 875 cycles. -/
def Sys2Proof.Claims.SwappStarts : Prop :=
  ∀ (s : State) (t : Thread) (d a : Reg), Issues s t → t.mode = .monitor →
    ((t.reg a).toNat ≥ 2 ^ 16 → ∃ s' u, exec (.swapp d a) s = .next s' ∧ s'.thread? t.id = some u ∧
      (d ≠ 0 → (u.reg d).toInt = -1) ∧ u.pc = t.pc + 4 ∧ u.tstat = 0x00043001) ∧
    ((t.reg a).toNat < 2 ^ 16 → partOf s (t.reg a).toNat = none → ∃ s' u, exec (.swapp d a) s = .next s' ∧
      s'.thread? t.id = some u ∧ (d ≠ 0 → (u.reg d).toInt = -3) ∧ u.pc = t.pc + 4 ∧ u.tstat = 0x00043003) ∧
    ((t.reg a).toNat < 2 ^ 16 → swapCode s (t.reg a).toNat = 0 →
      exec (.swapp d a) s = .next (s.setThread { t with wait := .swapp (t.reg a).toNat (s.cycle + 875) d }))


namespace Sys2Proof.Claims

open Sys2Proof.Machine

/-- R321: TSTAT of a report, FUNC, MAJOR and CODE. -/
def report (maj fn code : Nat) : Word := BitVec.ofNat 64 fn <<< 16 ||| BitVec.ofNat 64 maj <<< 8 ||| BitVec.ofNat 64 code

/-- What a status instruction leaves in its thread: TSTAT, gd with `v` or with −`code`, every other register as it was, and
the pc behind the instruction. -/
def Reports (t u : Thread) (d : Reg) (maj fn code : Nat) (v : Word) : Prop :=
  u.pc = t.pc + 4 ∧ u.tstat = report maj fn code ∧ (d ≠ 0 → u.reg d = if code = 0 then v else BitVec.ofInt 64 (-(code : Int))) ∧
  (∀ r, r ≠ d → u.reg r = t.reg r) ∧ u.wait = .none ∧ u.mode = t.mode ∧ u.sup = t.sup ∧ u.mon = t.mon ∧ u.fflags = t.fflags ∧
  u.kreg = t.kreg ∧ u.asid = t.asid

/-- The same for a pair: g(d+1) takes `w`, or zero unless the outcome is OK (R321). -/
def ReportsPair (t u : Thread) (d : Reg) (maj fn code : Nat) (v w : Word) : Prop :=
  u.pc = t.pc + 4 ∧ u.tstat = report maj fn code ∧ u.reg d = v ∧ u.reg (d + 1) = w ∧
  (∀ r, r ≠ d → r ≠ d + 1 → u.reg r = t.reg r) ∧ u.wait = .none ∧ u.mode = t.mode ∧ u.kreg = t.kreg ∧ u.fflags = t.fflags

/-- An instruction completes with a report, and the state after it has `P`. -/
def Ends (s : State) (t : Thread) (i : Instr) (d : Reg) (maj fn code : Nat) (v : Word) (P : State → Prop) : Prop :=
  ∃ s' u, exec i s = .next s' ∧ s'.thread? t.id = some u ∧ Reports t u d maj fn code v ∧ P s'

def EndsPair (s : State) (t : Thread) (i : Instr) (d : Reg) (maj fn code : Nat) (v w : Word) (P : State → Prop) : Prop :=
  ∃ s' u, exec i s = .next s' ∧ s'.thread? t.id = some u ∧ ReportsPair t u d maj fn code v w ∧ P s'

/-- An instruction begins to wait: its thread has the wait and stays at it, and nothing but the census clock of the
partition has changed. -/
def Waits (s : State) (t : Thread) (i : Instr) (w : Wait) : Prop :=
  ∃ s', exec i s = .next s' ∧ s'.thread? t.id = some { t with wait := w } ∧ s'.mem = s.mem ∧ s'.slices = s.slices

/-- The partition afterwards is `p`; memory is as it was. -/
def Leaves (s : State) (p : Partition) (s' : State) : Prop := partOf s' p.asid = some p ∧ s'.mem = s.mem ∧ s'.pkg = s.pkg

end Sys2Proof.Claims


/-! ### Scopes, barriers, launches, deques and rings (R67-R113, R321-R325) -/

/-- R107, R322: SCOPEN makes a LIVE child of the current scope under a free ID above 0, and gives that ID; under a free
scope, or one that does not exist, it is BADSCOPE, 3, under a cancelled one CANCELLED, 2, and with 4,096 scopes there FULL, 5.
scopen completes so. -/
def Sys2Proof.Claims.ScopenCreates : Prop :=
  ∀ (s : State) (t : Thread) (p : Partition) (d : Reg), Issues s t → partOf s t.asid = some p →
    (t.scopeFree = false → p.scopeExists t.scope = true → p.scopeCancelled t.scope = false → p.scopes.length < 4096 →
      ∃ id, 1 ≤ id ∧ id ≤ 65535 ∧ p.scopeExists id = false ∧
        Ends s t (.scopen d) d 0x2F 0 0 (BitVec.ofNat 64 id) (Leaves s { p with
          scopes := p.scopes ++ [{ id := id, parent := t.scope, cancelled := false, work := 0 }], lastScope := id })) ∧
    (t.scopeFree = true ∨ p.scopeExists t.scope = false → Ends s t (.scopen d) d 0x2F 0 3 0 (Leaves s p)) ∧
    (t.scopeFree = false → p.scopeExists t.scope = true → p.scopeCancelled t.scope = false → 4096 ≤ p.scopes.length →
      Ends s t (.scopen d) d 0x2F 0 5 0 (Leaves s p)) ∧
    (t.scopeFree = false → p.scopeExists t.scope = true → p.scopeCancelled t.scope = true → Ends s t (.scopen d) d 0x2F 0 2 0 (Leaves s p))

/-- R107, R322: SCCLOSE frees a scope that has no child, no WORK and no ticket that is not acknowledged, and marks the threads
whose current scope it is; with one of these it is BUSY, 4, of scope 0 REFUSED, 6, and of no scope BADSCOPE, 3. SCSET gives the
previous current scope and sets the new one, and of no scope it is BADSCOPE. The partition's rings have met no plain store. scclose and scset
complete so. -/
def Sys2Proof.Claims.ScopesCloseAndSet : Prop :=
  ∀ (s : State) (t : Thread) (p : Partition) (d a : Reg), Issues s t → partOf s t.asid = some p →
    (∀ r ∈ s.rings, r.asid = t.asid → r.stored = false) →
    let v := (t.reg a).toNat
    (∀ x, v < 2 ^ 16 → v ≠ 0 → p.scope? v = some x →
      (x.work = 0 → (∀ k ∈ p.tickets, k.scope = v → k.acked = true) → (∀ y ∈ p.scopes, y.parent = v → y.id = 0) →
        Ends s t (.scclose d a) d 0x2F 1 0 0 (fun s' => Leaves s { p with scopes := p.scopes.filter (fun y => y.id ≠ v) } s' ∧
          ∀ u ∈ s'.threads, u.asid = p.asid → u.scope = v → u.scopeFree = true)) ∧
      (x.work ≠ 0 ∨ (∃ k ∈ p.tickets, k.scope = v ∧ k.acked = false) ∨ (∃ y ∈ p.scopes, y.parent = v ∧ y.id ≠ 0) →
        Ends s t (.scclose d a) d 0x2F 1 4 0 (Leaves s p))) ∧
    (v = 0 → Ends s t (.scclose d a) d 0x2F 1 6 0 (Leaves s p)) ∧
    (∀ x, v < 2 ^ 16 → p.scope? v = some x →
      Ends s t (.scset d a) d 0x2F 2 0 (BitVec.ofNat 64 t.scope) (fun s' => Leaves s p s' ∧
        ∃ u, s'.thread? t.id = some u ∧ u.scope = v ∧ u.scopeFree = false)) ∧
    (v ≥ 2 ^ 16 ∨ (v ≠ 0 ∧ p.scope? v = none) → Ends s t (.scclose d a) d 0x2F 1 3 0 (Leaves s p)) ∧
    (v ≥ 2 ^ 16 ∨ p.scope? v = none → Ends s t (.scset d a) d 0x2F 2 3 0 (Leaves s p))

/-- R107, R108, R111, R322: CANCEL gives a ticket, the scope in its high half and the sequence number in its low, owned by
the thread, after applying the fates to the subtree; a record that is not 64-byte aligned is MISALIGNED before any effect.
CWAIT returns once the ticket is acknowledged, as an acquire at PACKAGE, and waits until then; an unknown one is STALE, 8,
and a wait whose own scope is cancelled ends CANCELLED, 2. -/
def Sys2Proof.Claims.CancelAndCwait : Prop :=
  ∀ (s : State) (t : Thread) (p : Partition) (d a b : Reg), Issues s t → partOf s t.asid = some p →
    let v := (t.reg a).toNat
    let ticket := v * 2 ^ 16 + p.tickSeq
    ((t.reg b).toNat % 64 = 0 → v < 2 ^ 16 → v ≠ 0 → p.scopeExists v = true → (p.tickets.filter (fun k => !k.acked)).length < 16 →
      let k : Ticket := { val := ticket, scope := v, addr := (t.reg b).toNat, owner := some t.id, acked := false,
                          killCycle := s.cycle, counts := List.replicate 11 0 }
      let s1 := s.setPart { p with tickets := p.tickets ++ [k], tickSeq := (p.tickSeq + 1) % 2 ^ 16 }
      let s2 := if p.scopeCancelled v then s1 else killSubtree s1 p.asid (deadKey p.asid ticket) v
      exec (.cancel d a b) s = .next (s2.updThread t.id (fun u => u.report d 0x2F 3 0 (BitVec.ofNat 64 ticket)))) ∧
    ((t.reg b).toNat % 64 ≠ 0 → exec (.cancel d a b) s = .next (syncTrap s t 33 0 false false t.pc (t.reg b))) ∧
    (∀ k, p.knownTicket v = some k → v < 2 ^ 32 → t.wait ≠ .killed →
      (k.acked = true → exec (.cwait d a) s = .next ((acquireAt s t 3).setThread (t.report d 0x2F 4 0 0))) ∧
      (k.acked = false → Waits s t (.cwait d a) (.ticket v))) ∧
    (v < 2 ^ 32 → p.knownTicket v = none → t.wait ≠ .killed → Ends s t (.cwait d a) d 0x2F 4 8 0 (Leaves s p)) ∧
    (t.wait = .killed → Ends s t (.cwait d a) d 0x2F 4 2 0 (Leaves s p))

/-- R104, R105, R322: BARINIT sets a barrier up in phase 0 with no arrivals, which sets the event flags of the partition
where the phase was another, and it counts in its scope's WORK, an older one no
more; a count outside 1-64 or a set bit above 22 is REFUSED, 6, a scope that does not exist BADSCOPE, 3, and a barrier that a
thread waits at BUSY, 4. -/
def Sys2Proof.Claims.BarriersComplete : Prop :=
  ∀ (s : State) (t : Thread) (p : Partition) (d a b : Reg) (n sc : Nat), Issues s t → partOf s t.asid = some p →
    (t.reg a).toNat < 64 →
    let bar : Barrier := { id := (t.reg a).toNat, n := n, scope := sc, phase := 0, arrived := [], leaving := 0, dead := false }
    let old := p.bar (t.reg a).toNat
    let p1 := if old.n ≠ 0 ∨ old.dead = true then p.workDown old.scope else p
    let waited := ∃ u ∈ s.threads, u.asid = p.asid ∧ u.wait = .barrier (t.reg a).toNat
    (1 ≤ n → n ≤ 64 → sc < 2 ^ 16 → (t.reg b).toNat = n * 2 ^ 16 + sc →
      (p.scopeExists sc = true → ¬ waited → Ends s t (.barinit d a b) d 0x2C 1 0 0 (fun s' => Leaves s ((p1.setBar bar).workUp sc) s' ∧
        (old.phase ≠ 0 → ∀ u ∈ s'.threads, u.asid = p.asid → u.event = true))) ∧
      (p.scopeExists sc = true → waited → Ends s t (.barinit d a b) d 0x2C 1 4 0 (Leaves s p)) ∧
      (p.scopeExists sc = false → Ends s t (.barinit d a b) d 0x2C 1 3 0 (Leaves s p))) ∧
    (((t.reg b).toNat / 2 ^ 16 % 128 = 0 ∨ 64 < (t.reg b).toNat / 2 ^ 16) → Ends s t (.barinit d a b) d 0x2C 1 6 0 (Leaves s p))

/-- R105, R109, R113: the last arrival of a phase gives the phase it arrived in, moves the barrier on, tells its waiters and sets
the event flags of the partition; an earlier one is kept. BARWAIT returns the phase once it differs, or with which it was told,
and waits until then; a dead barrier gives CANCELLED, 2. -/
def Sys2Proof.Claims.BarrierArrivals : Prop :=
  ∀ (s : State) (t : Thread) (p : Partition) (d a b : Reg) (c : Nat), Issues s t → partOf s t.asid = some p →
    t.imp = [] → t.stbuf = [] → t.scopeFree = false → (t.reg a).toNat < 64 →
    let x := p.bar (t.reg a).toNat
    (x.dead = false → p.scopeCancelled t.scope = false → p.childOf x.scope p.scopes.length t.scope = some c → c ∉ x.arrived →
      (x.arrived.length + 1 = x.n →
        Ends s t (.bararr d a) d 0x2C 2 0 (BitVec.ofNat 64 x.phase) (fun s' =>
          Leaves s (p.setBar { x with phase := (x.phase + 1) % 2 ^ 16, arrived := [], n := x.n - x.leaving, leaving := 0, dead := (x.leaving > 0 && x.n ≤ x.leaving) }) s' ∧
          ∀ u ∈ s'.threads, u.asid = p.asid → u.event = true)) ∧
      (x.arrived.length + 1 ≠ x.n →
        Ends s t (.bararr d a) d 0x2C 2 0 (BitVec.ofNat 64 x.phase) (Leaves s (p.setBar { x with arrived := x.arrived ++ [c] })))) ∧
    (x.dead = true → Ends s t (.bararr d a) d 0x2C 2 2 0 (Leaves s p)) ∧
    (x.dead = false → (∀ k, t.wait ≠ .passed k) → t.wait ≠ .killed → x.phase ≠ (t.reg b).toNat % 2 ^ 16 →
      exec (.barwait d a b) s = .next ((acquireAt s t 3).setThread (t.report d 0x2C 3 0 (BitVec.ofNat 64 x.phase)))) ∧
    (x.dead = false → (∀ k, t.wait ≠ .passed k) → t.wait ≠ .killed → x.phase = (t.reg b).toNat % 2 ^ 16 → Waits s t (.barwait d a b) (.barrier (t.reg a).toNat)) ∧
    (∀ k, t.wait = .passed k → exec (.barwait d a b) s = .next ((acquireAt s t 3).setThread (t.report d 0x2C 3 0 (BitVec.ofNat 64 k)))) ∧
    (x.dead = true ∨ t.wait = .killed → (∀ k, t.wait ≠ .passed k) → Ends s t (.barwait d a b) d 0x2C 3 2 0 (Leaves s p))

/-- R67-R71, R322: a valid record with no predecessor makes a READY entry in the lowest free slot, with the record's entry
point, argument, completion record, folio, scope and priority; the launch ID comes back in gd and the state, 2, in g(d+1).
A misaligned record is BADREC, 3, with no trap. -/
def Sys2Proof.Claims.LaunchCreates : Prop :=
  ∀ (s s1 : State) (t : Thread) (p : Partition) (d a : Reg) (bs : List Byte) (slot : Nat), Issues s t → t.imp = [] →
    t.stbuf = [] → pairOk d = true → partOf s t.asid = some p →
    ((t.reg a).toNat % 8 = 0 → readWords t 8 (s.setThread t) (t.reg a).toNat = .ok s1 bs → partOf s1 t.asid = some p →
      s1.thread? t.id = some t → p.st = .running →
      let r := launchRec bs
      bitsOf r.ctl 5 1 = 0 → r.ok s1 p = true → r.npred = 0 → p.scopeCancelled r.scope = false →
      p.freeSlot 4096 0 = some slot → (∀ e ∈ p.tasks, e.slot < 4096) →
      let lid := p.gen slot % 2 ^ 16 * 2 ^ 12 + slot
      EndsPair s t (.launch d a) d 0x2E 0 0 (BitVec.ofNat 64 lid) 2 (fun s' => ∃ p' e, partOf s' t.asid = some p' ∧
        p'.tasks = p.tasks ++ [e] ∧ e.slot = slot ∧ e.st = .ready ∧ e.entry = r.entry ∧ e.arg = BitVec.ofNat 64 r.arg ∧
        e.crec = r.crec ∧ e.folio = r.folio ∧ e.scope = r.scope ∧ e.prio = r.ctl % 8 ∧ e.level = r.ctl % 8 ∧ e.preds = [] ∧
        e.creator = some t.id ∧ p'.scopes = (p.workUp r.scope).scopes)) ∧
    ((t.reg a).toNat % 8 ≠ 0 → p.st = .running → EndsPair s t (.launch d a) d 0x2E 0 3 (BitVec.ofInt 64 (-3)) 0 (Leaves s p))

/-- R70, R322: LWAIT on a COMPLETE launch gives STATUS + 256·VERDICT and reaps the entry; on another launch it waits; where no
entry holds the ID it is STALE, 8. -/
def Sys2Proof.Claims.LwaitReaps : Prop :=
  ∀ (s : State) (t : Thread) (p : Partition) (d a : Reg) (e : TgEntry), Issues s t → partOf s t.asid = some p →
    t.wait ≠ .killed → (t.reg a).toNat < 2 ^ 28 →
    (p.launch? (t.reg a).toNat = some e →
      (e.st = .complete → ∃ s' u p', exec (.lwait d a) s = .next s' ∧ s'.thread? t.id = some u ∧
        Reports t u d 0x2E 1 0 (BitVec.ofNat 64 (e.status + 256 * e.verdict)) ∧ partOf s' t.asid = some p' ∧
        p'.tasks = p.tasks.filter (fun x => x.slot ≠ e.slot) ∧ p'.gen e.slot = (e.gen + 1) % 2 ^ 16) ∧
      (e.st ≠ .complete → Waits s t (.lwait d a) (.launch (t.reg a).toNat))) ∧
    (p.launch? (t.reg a).toNat = none → Ends s t (.lwait d a) d 0x2E 1 8 0 (Leaves s p))

/-- R88, R92, R93, R322: DQPUSH puts the entry of its two registers, with the current scope in its top 16 bits, at the tail
of the deque, and the scope's WORK rises; with 256 on chip 32 entries first move to the extension, or DEQUE_FULL is taken; DQPOP takes the
tail entry where its scope is not cancelled, its low half to gd and its high half to g(d+1), so a pop right after a push gives the entry back, and of an
empty deque it is EMPTY, 1, with zeros. dqpush and dqpop complete so. -/
def Sys2Proof.Claims.DequePushPop : Prop :=
  ∀ (s : State) (t : Thread) (p : Partition) (d e a b : Reg), Issues s t → partOf s t.asid = some p → pairOk e = true →
    let q := p.deque (ownCore t p)
    let entry : Word128 := BitVec.ofNat 16 t.scope ++ (t.reg b).extractLsb' 0 48 ++ t.reg a
    (t.scopeFree = false → p.scopeCancelled t.scope = false → t.scope < 2 ^ 16 → q.onchip < 256 →
      Ends s t (.dqpush d a b) d 0x2E 2 0 0 (Leaves s ((p.setDeque { q with entries := q.entries ++ [entry] }).workUp t.scope)) ∧
      (∀ s1 u, exec (.dqpush d a b) s = .next s1 → s1.thread? t.id = some u →
        EndsPair s1 u (.dqpop e) e 0x2E 3 0 (t.reg a) (BitVec.ofNat 16 t.scope ++ (t.reg b).extractLsb' 0 48) (fun s' =>
          ∃ p', partOf s' t.asid = some p' ∧ (p'.deque (ownCore t p)).entries = q.entries))) ∧
    (∀ rest w, q.entries = rest ++ [w] → p.scopeCancelled (w.extractLsb' 112 16).toNat = false →
      EndsPair s t (.dqpop e) e 0x2E 3 0 (w.extractLsb' 0 64) (w.extractLsb' 64 64) (fun s' => s'.mem = s.mem ∧
        ∃ p', partOf s' t.asid = some p' ∧ (p'.deque (ownCore t p)).entries = rest)) ∧
    (q.entries = [] → EndsPair s t (.dqpop e) e 0x2E 3 1 0 0 (fun s' => s'.mem = s.mem)) ∧
    (t.scopeFree = false → p.scopeCancelled t.scope = false → 256 ≤ q.onchip →
      (∀ s1 q1, spill s p.asid q = some (s1, q1) → partOf s1 t.asid = some p → s1.thread? t.id = some t →
        Ends s t (.dqpush d a b) d 0x2E 2 0 0 (fun s' => s'.mem = s1.mem ∧
          partOf s' t.asid = some ((p.setDeque { q1 with entries := q1.entries ++ [entry] }).workUp t.scope))) ∧
      (spill s p.asid q = none → exec (.dqpush d a b) s = .next (syncTrap s t 36 0 false false t.pc q.dqext))) ∧
    (t.scopeFree = false → p.scopeCancelled t.scope = true → Ends s t (.dqpush d a b) d 0x2E 2 2 0 (Leaves s p))

/-- R94, R95, R322: DQSTEAL of another core of the partition sends its request and waits; of its own core it is EMPTY, 1, with
zeros; of a core outside it is REFUSED, 6. STEAL_REQUEST, once the request has arrived, takes the head entry that may be
stolen and the victim keeps a copy; STEAL_RESPONSE gives it to the thief; STEAL_ACK frees the copy of that steal alone. -/
def Sys2Proof.Claims.StealsComplete : Prop :=
  ∀ (s : State) (t : Thread) (p : Partition) (d a : Reg) (die core : Nat), Issues s t → partOf s t.asid = some p →
    die < 8 → core < 32 → pairOk d = true →
    ((t.reg a).toNat = die * 256 + core →
      ((die, core) ∈ p.cores → (die, core) ≠ ownCore t p →
        ∃ s' x, exec (.dqsteal d a) s = .next s' ∧ s'.steals = s.steals ++ [x] ∧ x.thief = t.id ∧ x.asid = t.asid ∧ x.die = die ∧
          x.core = core ∧ x.dst = d ∧ x.answered = false ∧ x.entry = none ∧ x.acked = false ∧
          s'.thread? t.id = some { t with wait := .steal } ∧ s'.mem = s.mem) ∧
      ((die, core) ∈ p.cores → (die, core) = ownCore t p → EndsPair s t (.dqsteal d a) d 0x2E 4 1 0 0 (Leaves s p)) ∧
      ((die, core) ∉ p.cores → EndsPair s t (.dqsteal d a) d 0x2E 4 6 0 0 (Leaves s p))) ∧
    (∀ (x : Steal), x.asid = t.asid →
      let q := p.deque (x.die, x.core)
      let others (f : Steal → Steal) : List Steal := s.steals.map (fun y => if y.no = x.no then f y else y)
      (∀ gone e left, s.steals.find? (fun y => y.thief = t.id && !y.answered && s.arrived (.steal y.no)) = some x →
        stealFrom p q.entries = (gone, e, left) →
        ∃ s' p', exec (.stealRequest t.id) s = .next s' ∧ s'.steals = others (fun y => { y with answered := true, entry := e }) ∧
          partOf s' t.asid = some p' ∧ (p'.deque (x.die, x.core)).entries = left ∧
          (p'.deque (x.die, x.core)).copies = q.copies ++ e.toList.map (fun w => { no := x.no, thief := t.id, entry := w, at_ := s.cycle })) ∧
      (∀ w rest, q.entries = w :: rest → p.scopeCancelled (w.extractLsb' 112 16).toNat = false → w.getLsbD 88 = false →
        stealFrom p q.entries = ([], some w, rest)) ∧
      (s.steals.find? (fun y => y.thief = t.id && y.answered && !y.acked && s.arrived (.stealBack y.no)) = some x →
        (x.gone = false → x.dead = none → t.wait = .steal → pairOk x.dst = true → EndsPair s t (.stealResponse t.id) x.dst 0x2E 4 (if x.entry.isSome then 0 else 1)
          ((x.entry.getD 0).extractLsb' 0 64) ((x.entry.getD 0).extractLsb' 64 64)
          (fun s' => s'.steals = others (fun y => { y with acked := true }))) ∧
        (x.gone = true → ∃ s', exec (.stealResponse t.id) s = .next s' ∧ s'.steals = s.steals.filter (fun y => y.no ≠ x.no) ∧
          s'.threads = s.threads)) ∧
      (s.steals.find? (fun y => y.no = x.no && y.acked && s.arrived (.stealAck x.no)) = some x →
        ∃ s' p', exec (.stealAck x.no) s = .next s' ∧ s'.steals = s.steals.filter (fun y => y.no ≠ x.no) ∧ partOf s' t.asid = some p' ∧
          (p'.deque (x.die, x.core)).entries = q.entries ∧ (p'.deque (x.die, x.core)).copies = q.copies.filter (fun c => c.no ≠ x.no)))

/-- R98-R101: the four operations on the control block and the tables of a ring. A claim is granted at PCLAIM while
PCLAIM + n − CHEAD stays within the ring and no claim waits before it; a commit of an open claim at PTAIL moves PTAIL past
it; a wait takes n committed granules from CRES; retiring the oldest reservation moves CHEAD past it. An operation that
names no such claim or reservation, or a count outside the ring, is REFUSED and changes nothing. -/
def Sys2Proof.Claims.RingOperations : Prop :=
  ∀ (b : RBlock) (r : Ring) (who : Agent) (blk n sc : Nat),
    (1 ≤ n → b.pclaim + n ≤ b.chead + 2 ^ b.lgn → b.chead ≤ b.pclaim → r.waiters = [] →
      (r.claims.filter (fun c => c.st = .opened)).length < 64 →
      ringApply b r who false (.claim blk n sc) = ({ b with pclaim := b.pclaim + n },
        { r with claims := r.claims ++ [{ pos := b.pclaim, n := n, st := .opened, scope := sc }] }, .granted b.pclaim n)) ∧
    (1 ≤ n → n ≤ 2 ^ b.lgn → b.chead + 2 ^ b.lgn < b.pclaim + n →
      ringApply b r who false (.claim blk n sc) = (b, { r with waiters := r.waiters ++ [{ who := who, claims := true, n := n, scope := sc }] }, .waits)) ∧
    ((n = 0 ∨ 2 ^ b.lgn < n) → ringApply b r who false (.claim blk n sc) = (b, r, .status 6) ∧
      ringApply b r who false (.wait blk n sc) = (b, r, .status 6)) ∧
    (1 ≤ n → r.claims = [{ pos := b.ptail, n := n, st := .opened, scope := sc }] → r.resvs = [] → b.chead = b.ptail → b.cres = b.ptail →
      ringApply b r who false (.commit blk b.ptail sc) = ({ b with ptail := b.ptail + n },
        { r with claims := [{ pos := b.ptail, n := n, st := .committed, scope := sc }] }, .granted b.ptail 0)) ∧
    (1 ≤ n → n ≤ 2 ^ b.lgn → r.claims = [{ pos := b.cres, n := n, st := .committed, scope := sc }] → r.resvs = [] → r.waiters = [] →
      b.chead = b.cres → b.ptail = b.cres + n →
      ringApply b r who false (.wait blk n sc) = ({ b with cres := b.cres + n },
        { r with resvs := [{ pos := b.cres, n := n, retired := false, scope := sc }] }, .granted b.cres n)) ∧
    (1 ≤ n → r.claims = [{ pos := b.chead, n := n, st := .committed, scope := sc }] →
      r.resvs = [{ pos := b.chead, n := n, retired := false, scope := sc }] → b.ptail = b.chead + n → b.cres = b.chead + n →
      ringApply b r who false (.retire blk b.chead sc) = ({ b with chead := b.chead + n }, { r with claims := [], resvs := [] }, .granted b.chead 0)) ∧
    (r.claims = [] → ringApply b r who false (.commit blk n sc) = (b, r, .status 6)) ∧
    (r.resvs = [] → ringApply b r who false (.retire blk n sc) = (b, r, .status 6))

/-- R98, R100, R322: the four instructions, from what the home slice answers: RCLAIM gives P, RCOMMIT and RRETIRE 0, RWAIT P
and m after an acquire at OSCOPE; an operation that waits leaves its thread waiting. A block that is not 64-byte aligned is
MISALIGNED. -/
def Sys2Proof.Claims.RingInstructions : Prop :=
  ∀ (s s1 s2 : State) (t : Thread) (d e a b : Reg) (p : Partition) (x : Xl) (lv P m osc : Nat) (ev : Bool), Issues s t → t.imp = [] →
    t.stbuf = [] → t.scopeFree = false → partOf s t.asid = some p → pairOk e = true →
    let blk := (t.reg a).toNat
    let n := (t.reg b).toNat
    let r : Thread := { t with lastRing := some blk }
    let at_ (op : RingOp) (res : RingRes) : Prop := ringAtSlice (s1.setThread r) t.asid x (.thread t.id) op = some (s2, res, osc)
    (blk % 64 = 0 → s2.thread? t.id = some { r with event := ev } → P < 2 ^ 64 →
      (threadXl s r blk (Need.atomic (t.mode = .user)) = .ok s1 (x, lv) →
        (at_ (.claim blk n t.scope) (.granted P m) → Ends s t (.rclaim d a b) d 0x2E 5 0 (BitVec.ofNat 64 P) (fun s' => s'.mem = s2.mem)) ∧
        (at_ (.wait blk n t.scope) (.granted P m) → EndsPair s t (.rwait e a b) e 0x2E 7 0 (BitVec.ofNat 64 P) (BitVec.ofNat 64 m) (fun s' => s'.mem = s2.mem)) ∧
        (at_ (.claim blk n t.scope) (.status 6) → Ends s t (.rclaim d a b) d 0x2E 5 6 0 (fun s' => s'.mem = s2.mem)) ∧
        (at_ (.claim blk n t.scope) .waits → ∃ s' u, exec (.rclaim d a b) s = .next s' ∧ s'.thread? t.id = some u ∧
          u = { r with event := ev, wait := .ring blk true d }) ∧
        (at_ (.wait blk n t.scope) .waits → ∃ s' u, exec (.rwait e a b) s = .next s' ∧ s'.thread? t.id = some u ∧
          u = { r with event := ev, wait := .ring blk false e })) ∧
      (threadXl (s.setThread t) r blk (Need.atomic (t.mode = .user)) = .ok s1 (x, lv) →
        (at_ (.commit blk n t.scope) (.granted P m) → Ends s t (.rcommit d a b) d 0x2E 6 0 0 (fun s' => s'.mem = s2.mem)) ∧
        (at_ (.commit blk n t.scope) (.status 6) → Ends s t (.rcommit d a b) d 0x2E 6 6 0 (fun s' => s'.mem = s2.mem)) ∧
        (at_ (.retire blk n t.scope) (.status 6) → Ends s t (.rretire d a b) d 0x2E 8 6 0 (fun s' => s'.mem = s2.mem)) ∧
        (at_ (.retire blk n t.scope) (.granted P m) → Ends s t (.rretire d a b) d 0x2E 8 0 0 (fun s' => s'.mem = s2.mem)))) ∧
    (blk % 64 ≠ 0 → exec (.rclaim d a b) s = .next (syncTrap s t 33 0 false false t.pc (t.reg a)) ∧
      exec (.rwait e a b) s = .next (syncTrap s t 33 0 false false t.pc (t.reg a)) ∧
      exec (.rcommit d a b) s = .next (syncTrap (s.setThread t) t 33 0 false false t.pc (t.reg a)) ∧
      exec (.rretire d a b) s = .next (syncTrap (s.setThread t) t 33 0 false false t.pc (t.reg a)))


/-! ### Command registers, regions and blocks (R327-R332) -/

/-- R327: KSET writes one half of a command register, KMOV copies one, KLD loads sixteen bytes and needs an address that is
sixteen-byte aligned; on a system core each is ILLEGAL (R283). -/
def Sys2Proof.Claims.CommandRegisters : Prop :=
  ∀ (s : State) (t : Thread) (a : Reg) (kx ky : BitVec 3), Issues s t →
    (t.id.isSys = false →
      exec (.kset a kx false) s = .next (s.setThread (t.kset kx ((t.kget kx).extractLsb' 64 64 ++ t.reg a)).advance) ∧
      exec (.kset a kx true) s = .next (s.setThread (t.kset kx (t.reg a ++ (t.kget kx).extractLsb' 0 64)).advance) ∧
      exec (.kmov kx ky) s = .next (s.setThread (t.kset kx (t.kget ky)).advance) ∧
      (∀ s1 x lv s2 bs, Passes s t (t.reg a) 16 Need.load s1 x lv → threadRead s1 t x lv 16 = .ok s2 bs →
        exec (.kld a kx) s = .next (s2.setThread (t.kset kx (BitVec.ofNat 128 (bytesNat bs))).advance)) ∧
      ((t.reg a).toNat % 16 ≠ 0 → exec (.kld a kx) s = .next (syncTrap s t 33 0 false false t.pc (t.reg a)))) ∧
    (t.id.isSys = true → ∀ i ∈ [Instr.kset a kx false, .kset a kx true, .kmov kx ky, .kld a kx],
      ∃ w, encodeScalar i = some w ∧ exec i s = .next (syncTrap s t 32 0 false false t.pc (w.setWidth 64)))

/-- R327: what a command register holds after a write, and that no other register changes. -/
def Sys2Proof.Claims.CommandRegisterFile : Prop :=
  ∀ (t : Thread) (k j : BitVec 3) (v : Word128),
    (t.kset k v).kget k = v ∧ (j ≠ k → (t.kset k v).kget j = t.kget j) ∧ (∀ r, (t.kset k v).reg r = t.reg r) ∧ (t.kset k v).pc = t.pc

/-- R328, R329: SCMD checks the command, tests its scope for a cancel, and puts it behind its port's queue, which with the
commands under way holds eight; a command that fails the check is INVALID, 9, and counts as ended in the status word, with its TAG in TAGI; a
cancelled scope gives CANCELLED, 2; a full queue makes the thread wait. -/
def Sys2Proof.Claims.ScmdHandsOver : Prop :=
  ∀ (s : State) (t : Thread) (p : Place) (g : Partition) (q : Port) (d : Reg) (kx : BitVec 3), Issues s t →
    t.id.isSys = false → s.place? t.place = some p → partOf s t.asid = some g →
    let w := t.kget kx
    let c : QCmd := { word := w, thread := t.id, seq := t.cmds }
    let port := (w.extractLsb' 114 6).toNat
    let cs := c.f.cscope.toNat
    p.port? port = some q →
    (cmdValid s p port c.op c.f = true → g.scopeExists cs = true → g.scopeCancelled cs = false → q.queued < 8 →
      ∃ s' u p' q', exec (.scmd d kx) s = .next s' ∧ s'.thread? t.id = some u ∧ Reports t u d 0x2D 3 0 0 ∧ u.cmds = t.cmds + 1 ∧
        s'.place? t.place = some p' ∧ p'.port? port = some q' ∧ q' = { q with queue := q.queue ++ [c] } ∧
        partOf s' t.asid = some (g.workUp cs)) ∧
    (cmdValid s p port c.op c.f = true → g.scopeExists cs = true → g.scopeCancelled cs = false → 8 ≤ q.queued →
      exec (.scmd d kx) s = .next (s.setThread { t with wait := .scmd })) ∧
    (cmdValid s p port c.op c.f = true → g.scopeCancelled cs = true → Ends s t (.scmd d kx) d 0x2D 3 2 0 (fun s' => s'.places = s.places)) ∧
    ((cmdValid s p port c.op c.f = false ∨ g.scopeExists cs = false) → c.op ≠ 0x08 →
      Ends s t (.scmd d kx) d 0x2D 3 9 0 (fun s' => ∃ p' q', s'.place? t.place = some p' ∧ p'.port? port = some q' ∧
        q'.end_ = 4 ∧ q'.tagi = c.f.tag ∧ q'.tag = q.tag ∧ q'.donecnt = q.donecnt + 1 ∧ q'.queue = q.queue))

/-- R329: PSTAT gives the status word of a port, DONECNT in its low half, TAG, TAGI and END above it and QUEUED in bits 55:52;
an operand above 63 gives −6. -/
def Sys2Proof.Claims.PstatReads : Prop :=
  ∀ (s : State) (t : Thread) (p : Place) (q : Port) (d a : Reg), Issues s t → t.id.isSys = false →
    s.place? t.place = some p →
    ((t.reg a).toNat < 64 → p.port? (t.reg a).toNat = some q → q.end_ < 16 → (∀ r ∈ q.runs ++ q.logs, r.frozen = none) →
      ∃ w : Word, exec (.pstat d a) s = .next (s.setThread ((t.writeReg d w).advance)) ∧ w.extractLsb' 0 32 = q.donecnt ∧
        w.extractLsb' 32 8 = q.tag ∧ w.extractLsb' 40 8 = q.tagi ∧ w.extractLsb' 48 4 = BitVec.ofNat 4 q.end_ ∧
        w.extractLsb' 52 4 = BitVec.ofNat 4 (min 8 (q.queue.length + q.runs.length + q.logs.length)) ∧ w.extractLsb' 56 8 = 0) ∧
    (64 ≤ (t.reg a).toNat → exec (.pstat d a) s = .next (s.setThread ((t.writeReg d (BitVec.ofInt 64 (-6))).advance)))

/-- R330-R332: FLOAD of a folio that passes the load checks, into a slot that is neither running nor chosen, waits for its
contexts, and FLOAD_DONE then holds the folio in the slot; FSEL names the next block, in place
of one that waits for its switch; FSEAM opens or closes the seam of two
neighbouring cores of the region. A routine that the catalogue does not hold and an empty slot are REFUSED, 6. -/
def Obligations.BlocksLoadAndSelect : Prop :=
  ∀ (s : State) (t : Thread) (p : Place) (g : Partition) (f : Folio) (d a : Reg) (k : BitVec 2), Issues s t →
    t.id.isSys = false → s.place? t.place = some p → partOf s t.asid = some g →
    let v := (t.reg a).toNat
    (v < 256 → v < g.catcount → k.toNat ≠ p.run → p.sel ≠ some k.toNat → p.chosen ≠ some k.toNat →
      (∀ u ∈ s.threads, ∀ a b c e h, u.wait ≠ .fload a b c e h) → loadCheck s g p v = .folio f →
      exec (.fload d a k) s = .next (s.setThread { t with wait := .fload p.id k.toNat v s.cycle d })) ∧
    (256 ≤ v ∨ g.catcount ≤ v → Ends s t (.fload d a k) d 0x2D 5 6 0 (fun s' => s'.places = s.places)) ∧
    (∀ at_, t.wait = .fload p.id k.toNat v at_ d → g.loading = false → loadCheck s g p v = .folio f → p.slots.length = 4 →
      Ends s t (.floadDone t.id) d 0x2D 5 0 0 (fun s' => ∃ p', s'.place? t.place = some p' ∧ p'.slots.getD k.toNat none = some f)) ∧
    (p.slots.getD k.toNat none = some f → ∃ s' u p', exec (.fsel k) s = .next s' ∧ s'.thread? t.id = some u ∧
      u.tstat = report 0x2D 6 0 ∧ u.pc = t.pc + 4 ∧ u.gpr = t.gpr ∧ s'.place? t.place = some p' ∧
      (p.chosen = none → p' = { p with sel := some k.toNat }) ∧
      (p.chosen.isSome = true → p'.sel = (if p.chosen = some k.toNat then p.sel else none) ∧
        p'.chosen = (if k.toNat = p.run ∧ p.chosen ≠ some k.toNat then none else some k.toNat))) ∧
    (p.slots.getD k.toNat none = none → exec (.fsel k) s = .next (s.setThread { t with tstat := report 0x2D 6 6, wait := .none, pc := t.pc + 4 })) ∧
    (∀ core side other, v = core + 256 * side → core < 32 → side < 4 → neighbour core side = some other → p.spans core = true →
      p.spans other = true → onSeam s p core other = false →
      Ends s t (.fseam d a true) d 0x2D 7 0 0 (fun s' => ∃ p', s'.place? t.place = some p' ∧ (core, other) ∈ p'.unstitched) ∧
      Ends s t (.fseam d a false) d 0x2D 7 0 0 (fun s' => ∃ p', s'.place? t.place = some p' ∧ (core, other) ∉ p'.unstitched ∧
        (other, core) ∉ p'.unstitched))


namespace Sys2Proof.Claims

open Sys2Proof.Machine

/-- A command of a port is alone under way, at a turn in which its place moves: the region neither records, replays nor
rolls back, the port is not held or frozen, and the request the generator sends next has room. -/
structure Stands (s : State) (pr : PortRef) (op : Nat) (f : CmdF) (p : Place) (q : Port) (r : Running) : Prop where
  place : s.place? pr.place = some p
  port : p.port? pr.port = some q
  moves : placeMoves s p = true
  notHeld : q.held = false
  running : q.running = some r
  alone : q.older = [] ∧ q.logs = []
  isOp : r.cmd.op = op
  fields : r.cmd.f = f
  notFrozen : r.frozen = none
  noElems : r.elems = []
  noRb : p.rb = none
  notLogged : recording s p = false ∧ replaying s p = false
  free : q.canIssue = true ∧ r.walking = none

/-- The generator has the translation of an address, and the page permits the access. -/
def Reaches (s : State) (p : Place) (q : Port) (va : Nat) (nd : Need) (x : Xl) (lv : Nat) : Prop := genXl s p q va nd = .ok x lv

/-- The turn sends one request of `len` bytes to the slice of `x`; memory, slices and threads stay as they are. -/
def Sends (s : State) (i : Instr) (x : Xl) (len : Nat) (k : ReqKind) : Prop :=
  ∃ s' rq, exec i s = .next s' ∧ s'.reqs = s.reqs ++ [rq] ∧ rq.pa = x.pa ∧ rq.len = len ∧ rq.kind = k ∧ rq.iset = x.iset ∧
    rq.share = x.share ∧ s'.mem = s.mem ∧ s'.slices = s.slices ∧ s'.threads = s.threads

/-- The command ends DONE: it has left its port, DONECNT has risen, END is 1 and TAG is its own (R329, R349). -/
def EndsDone (s : State) (i : Instr) (pr : PortRef) (q : Port) (c : QCmd) : Prop :=
  ∃ s' p' q', exec i s = .next s' ∧ s'.place? pr.place = some p' ∧ p'.port? pr.port = some q' ∧ q'.running = none ∧
    q'.donecnt = q.donecnt + 1 ∧ q'.end_ = 1 ∧ q'.tag = (if c.op = 0x08 then 0 else c.f.tag) ∧ q'.queue = q.queue ∧ s'.mem = s.mem ∧
    s'.threads = s.threads

end Sys2Proof.Claims


/-! ### Stream commands (R347-R366) -/

/-- R350, R352: element n of a pattern lies at base + u·(CNT0·S0 + CNT1·S1 + CNT2·S2 + CNT3·S3), with n = CNT0 +
C0·(CNT1 + C1·(CNT2 + C2·CNT3)) and each count but the last below its C, in 64-bit arithmetic. -/
def Sys2Proof.Claims.PatternAddress : Prop :=
  ∀ (p : Pat) (base n : Nat), ∃ n0 n1 n2 n3 : Nat, n0 < patC p 0 ∧ n1 < patC p 1 ∧ n2 < patC p 2 ∧
    n = n0 + patC p 0 * (n1 + patC p 1 * (n2 + patC p 2 * n3)) ∧ patCnt p n = [n0, n1, n2, n3] ∧
    patAddr p base n = (BitVec.ofInt 64 ((base : Int) +
      patUnit p * (n0 * patS p 0 + n1 * patS p 1 + n2 * patS p 2 + n3 * patS p 3))).toNat

/-- R203-R205, R353, R356-R360, R364: the requests of the commands at a turn with a new element: LOAD, COPY, PREFETCH and
FLUSH walk their pattern with a read, a read, a prefetch and a flush; FILL writes the companion's low bytes; STORE, REDUCE
and SCATTER send the bytes they have taken, for an element within the header's rows and columns, SCATTER at the address of
the index; GATHER forms an element at the address of
its index; MCAST reads whole lines for the cores it names. -/
def Sys2Proof.Claims.CommandsIssueElements : Prop :=
  ∀ (s : State) (pr : PortRef) (f : CmdF) (p : Place) (q : Port) (r : Running) (x : Xl) (lv : Nat),
    let u := patUnit r.pat
    let at_ := patAddr r.pat f.base.toNat r.next
    let n := f.count.toNat
    (Stands s pr 0x00 f p q r → r.stage = 2 → r.bytes = [] → r.doneN < n → r.next < n → f.mrx = false → Reaches s p q at_ (Need.load true) x lv →
      Sends s (.cmdLoad pr f) x u .read) ∧
    (Stands s pr 0x02 f p q r → r.next < n → Reaches s p q at_ (Need.load true) x lv → Sends s (.cmdCopy pr f) x u .read) ∧
    (Stands s pr 0x10 f p q r → r.next < n → Reaches s p q at_ (Need.load true) x lv → Sends s (.cmdPrefetch pr f) x u .prefetch) ∧
    (Stands s pr 0x11 f p q r → r.next < n → Reaches s p q at_ (Need.load true) x lv → Sends s (.cmdFlush pr f) x u (.flush (f.flags.getLsbD 0))) ∧
    (Stands s pr 0x07 f p q r → r.next < n → u ≠ 64 → Reaches s p q at_ (Need.store true) x lv →
      Sends s (.cmdFill pr f) x u (.write ((lowBytes u (r.pat2.extractLsb' 0 64)).map (fun b => (b, true))))) ∧
    (Stands s pr 0x01 f p q r → r.next < n → u ≤ r.bytes.length → r.within r.next = u → Reaches s p q at_ (Need.store true) x lv →
      Sends s (.cmdStore pr f) x u (.write ((r.bytes.take u).map (fun b => (b, true))))) ∧
    (Stands s pr 0x05 f p q r → r.next < n → u ≤ r.bytes.length → r.within r.next = u → Reaches s p q at_ (Need.store true) x lv →
      Sends s (.cmdReduce pr f) x u (.reduce f.redOp f.fmt f.sat (r.bytes.take u))) ∧
    (∀ i l, Stands s pr 0x04 f p q r → r.next < n → u ≤ r.bytes.length → r.within r.next = u → r.idx = some i :: l → Reaches s p q (idxAddr r i) (Need.store true) x lv →
      Sends s (.cmdScatter pr f) x u (.write ((r.bytes.take u).map (fun b => (b, true))))) ∧
    (∀ i l, Stands s pr 0x03 f p q r → r.stage = 2 → r.bytes = [] → r.doneN < n → r.next < n → r.idx = some i :: l →
      ∃ s' p' q' r', exec (.cmdGather pr f) s = .next s' ∧ s'.place? pr.place = some p' ∧ p'.port? pr.port = some q' ∧
        q'.running = some r' ∧ r'.next = r.next + 1 ∧ r'.idx = l ∧
        r'.elems = [{ n := r.next, addr := idxAddr r i, data := [], refusals := 0, hold := none, st := .queued }]) ∧
    (Stands s pr 0x06 f p q r → r.next < f.count.toNat % 256 + 1 → s.landing = [] → Reaches s p q (f.base.toNat + 128 * r.next) (Need.load true) x lv →
      ∃ s' rq, exec (.cmdMcast pr f) s = .next s' ∧ s'.reqs = s.reqs ++ [rq] ∧ rq.pa = x.pa ∧ rq.len = 128 ∧
        s'.landing.map (fun l => l.core) = mcastCores f ∧ (∀ l ∈ s'.landing, l.line = rq.line ∧ l.va = f.base.toNat + 128 * r.next))

/-- R358: an index adds u times its signed value to the base. -/
def Sys2Proof.Claims.IndexedAddress : Prop :=
  ∀ (r : Running) (i : BitVec 32),
    BitVec.ofNat 64 (idxAddr r i) = (r.cmd.f.base.setWidth 64) + BitVec.ofNat 64 (patUnit r.pat) * i.signExtend 64

/-- R30, R361: a turn of XPUT, XGET and CREDUCE toward a peer with the feature it needs sends the element's message to the
port group that leads to the peer, and the request stands until it is answered. -/
def Obligations.RemoteCommands : Prop :=
  ∀ (s : State) (pr : PortRef) (f : CmdF) (p : Place) (q : Port) (r : Running),
    let u := patUnit r.pat
    let at_ := patAddr r.pat f.base.toNat r.next
    let n := f.count.toNat % 4096
    let sends (i : Instr) (op : Nat) (data : List Byte) : Prop := ∃ s0 m rq,
      exec i s = .next (sendMessage s0 m (.remote p.id q.num q.reqNo)) ∧ m.dev = false ∧ m.traffic = .request ∧
      m.src = coreEp p.die (p.portCore q.num) ∧ m.dst = portGroupEp (brosumIo s f.dev) ∧ m.who = .gen p.id q.num q.reqNo ∧
      s0.net = s.net ∧ s0.mem = s.mem ∧ s0.reqs = s.reqs ++ [rq] ∧ rq.kind = .remote f.dev ∧ rq.elem = q.reqNo ∧
      m.body = natBytes 1 op ++ natBytes 1 f.flags.toNat ++ natBytes 2 p.asid ++ natBytes 8 at_ ++ natBytes 4 u ++ data
    at_ < 2 ^ 48 → r.next < n →
    (Stands s pr 0x0E f p q r → r.stage = 2 → r.bytes = [] → r.doneN < n → bitsOf (peerCap s f.dev) 0 1 = 1 → sends (.cmdXget pr f) 0x0E []) ∧
    (Stands s pr 0x0D f p q r → u ≤ r.bytes.length → r.within r.next = u → bitsOf (peerCap s f.dev) 0 1 = 1 →
      sends (.cmdXput pr f) 0x0D (r.bytes.take u)) ∧
    (Stands s pr 0x0F f p q r → u ≤ r.bytes.length → r.within r.next = u → bitsOf (peerCap s f.dev) 1 1 = 1 →
      sends (.cmdCreduce pr f) 0x0F (r.bytes.take u))

/-- R329, R349, R351, R356, R362-R365: commands that have nothing left end DONE: the ones that walk a pattern after their last
element, those that take a segment once EOT has come and nothing is outstanding, RECORD and REPLAY after COUNT entries, a
PSET that heads its queue in the turn it starts, its slot's pattern replaced, a SYNC once every earlier command of its thread has ended. -/
def Sys2Proof.Claims.StreamCommandsEnd : Prop :=
  ∀ (s : State) (pr : PortRef) (f : CmdF) (p : Place) (q : Port) (r : Running),
    let n := f.count.toNat
    endsOut s p pr.port = none → q.flags = 0 →
    (Stands s pr 0x02 f p q r → n ≤ r.next → EndsDone s (.cmdCopy pr f) pr q r.cmd) ∧
    (Stands s pr 0x07 f p q r → n ≤ r.next → EndsDone s (.cmdFill pr f) pr q r.cmd) ∧
    (Stands s pr 0x10 f p q r → n ≤ r.next → EndsDone s (.cmdPrefetch pr f) pr q r.cmd) ∧
    (Stands s pr 0x11 f p q r → n ≤ r.next → EndsDone s (.cmdFlush pr f) pr q r.cmd) ∧
    (Stands s pr 0x06 f p q r → f.count.toNat % 256 + 1 ≤ r.next → EndsDone s (.cmdMcast pr f) pr q r.cmd) ∧
    (∀ i op, (i, op) ∈ [(Instr.cmdStore pr f, 0x01), (.cmdReduce pr f, 0x05), (.cmdScatter pr f, 0x04)] → Stands s pr op f p q r →
      n ≤ r.next → r.eotSeen = true → EndsDone s i pr q r.cmd) ∧
    (∀ i op, (i, op) ∈ [(Instr.cmdXput pr f, 0x0D), (.cmdCreduce pr f, 0x0F)] → Stands s pr op f p q r →
      n % 4096 ≤ r.next → r.eotSeen = true → EndsDone s i pr q r.cmd) ∧
    (∀ c rest, s.place? pr.place = some p → p.port? pr.port = some q → q.queue = c :: rest → c.op = 0x08 → c.f = f → mayStart s p q c = true →
      (∀ z ∈ q.runs ++ q.logs, z.cmd ≠ c) →
      ∃ s' p' q', exec (.cmdPset pr f) s = .next s' ∧ s'.place? pr.place = some p' ∧ p'.port? pr.port = some q' ∧ q'.queue = rest ∧
        q'.running = q.running ∧ q'.donecnt = q.donecnt + 1 ∧ q'.end_ = 1 ∧ q'.tag = 0 ∧
        q'.slot f.slot.toNat = psetPat f (q.slot f.slot.toNat) ∧ s'.mem = s.mem ∧ s'.threads = s.threads) ∧
    (Stands s pr 0x0A f p q r → (∀ y ∈ p.ports, ∀ c ∈ y.queue ++ (y.runs ++ y.logs).map (fun z => z.cmd), c.thread = r.cmd.thread → r.cmd.seq ≤ c.seq) →
      f.scope.toNat < 3 ∨ forwarding s p = false →
      (f.flags.getLsbD 0 = false → EndsDone s (.cmdSync pr f) pr q r.cmd) ∧
      (f.flags.getLsbD 0 = true → exec (.cmdSync pr f) s = .next (endWithEot s p q.num r.cmd))) ∧
    (∀ s1 s2, Stands s pr 0x09 f p q r → r.doneN + 1 = n → ∀ bs,
      fabReadSpan 2 s p (p.portCore q.num) f.hint.toNat (f.base.toNat + 64 * r.doneN) 64 = .ok s1 bs →
      portSend s1 p q (mkTok (injectKind f.fmt) (BitVec.ofNat 512 (bytesNat bs)) (BitVec.allOnes 64) false false) = (s2, true) →
      exec (.cmdInject pr f) s = .next (endCommand s2 p.id q.num r.cmd 1))

/-- R258, R259, R365: RECORD and REPLAY run beside the port's other commands and end DONE after COUNT entries. -/
def Sys2Proof.Claims.LogCommandsEnd : Prop :=
  ∀ (s : State) (pr : PortRef) (f : CmdF) (p : Place) (q : Port) (r : Running) (i : Instr) (op : Nat),
    (i, op) ∈ [(Instr.cmdRecord pr f, 0x0B), (.cmdReplay pr f, 0x0C)] → s.place? pr.place = some p → p.port? pr.port = some q →
    placeMoves s p = true → q.held = false → q.running = none → q.older = [] → q.logs = [r] → r.cmd.op = op → r.cmd.f = f →
    r.elems = [] → f.count.toNat ≤ r.doneN →
    ∃ s' p' q', exec i s = .next s' ∧ s'.place? pr.place = some p' ∧ p'.port? pr.port = some q' ∧ q'.logs = [] ∧
      q'.donecnt = q.donecnt + 1 ∧ q'.end_ = 1 ∧ q'.tag = f.tag ∧ s'.mem = s.mem

/-- R351: PSET replaces one half of its slot's pattern: the low half the bits 88:0, the high half, by its bit 87, the bits
177:89, and no other slot. -/
def Sys2Proof.Claims.PsetPattern : Prop :=
  ∀ (f : CmdF) (old : Pat),
    let v : BitVec 89 := f.hint ++ f.flags.extractLsb' 0 7 ++ f.count ++ f.tag ++ f.base
    (f.flags.getLsbD 7 = false → (psetPat f old).extractLsb' 0 89 = v ∧ (psetPat f old).extractLsb' 89 89 = old.extractLsb' 89 89) ∧
    (f.flags.getLsbD 7 = true → (psetPat f old).extractLsb' 89 89 = v ∧ (psetPat f old).extractLsb' 0 89 = old.extractLsb' 0 89)


namespace Sys2Proof.Claims

open Sys2Proof.Machine

/-- A site may fire: its context stands, nothing is rolled back, a segment is open, every enabled output has a free result
place, and each input of `ins` has a header and a sound DATA token at its head. -/
structure CanFire (s : State) (n : Node) (op : Nat) (w : CellF) (c : Ctx) (ins : List Nat) : Prop where
  ctx : siteCtx s n op w = some c
  quiet : rollDue s c.place = false
  isOpen : c.x.segOpen = true
  room : c.room = true
  some_ : ins ≠ []
  heads : ∀ i ∈ ins, ∃ t, c.head i = some t ∧ t.kind = .data ∧ t.chk = .good ∧ t.res = residues t.pay
  hdrs : ∀ i ∈ ins, (c.hdr i).isSome = true

/-- A firing: the heads of `ins` are consumed, `out` leaves by the enabled outputs, the state and the sticky flags follow;
every other site, memory, threads and partitions stay as they are. -/
def FiresTo (s : State) (i : Instr) (c : Ctx) (ins : List Nat) (out : List (Nat × Token)) (st : OpSt) (fl : Flags) : Prop :=
  exec i s = .next (s.updSite c.x.node (fun x =>
    { x.eat ins with out := x.out ++ out.filter (fun o => c.w.outen.getLsbD o.1), st := st, flags := x.flags ||| fl, lastActive := s.cycle }))

/-- A DATA beat of width `b`: its flag bits, and what each of its elements is, with whether it is live. -/
def Beats (t : Token) (b : Nat) (last void : Bool) (e : Nat → Nat × Bool) : Prop :=
  t.kind = .data ∧ t.last = last ∧ t.void = void ∧ t.chk = .good ∧ t.res = residues t.pay ∧
  ∀ j, j < 512 / b → t.live b j = (e j).2 ∧ t.elem b j = if (e j).2 then (e j).1 % 2 ^ b else 0

/-- An element-wise cell over its inputs `ops`: each element of the result is `f` of the operands' elements where they are
all live and the predicate, if there is one, is on; the element of input `pass` where it is off; dead where one is dead. -/
def LaneCell (i : Node → CellF → Instr) (op : Nat) (ops : List Nat) (pass : Nat) (f : Ctx → List Nat → Nat × Flags) : Prop :=
  ∀ (s : State) (n : Node) (w : CellF) (c : Ctx),
    let data := if w.pred ≠ 0 then ops ++ [2] else ops
    let b := fmtWidth c.fmt
    let xs (j : Nat) : List Nat := ops.map (fun k => (c.tok k b).elem b j)
    let live (j : Nat) : Bool := ops.all (fun k => (c.tok k b).live b j) && (decide (w.pred = 0) || (c.tok 2 b).live b j)
    let on (j : Nat) : Prop := w.pred = 0 ∨ ((c.tok 2 b).elem b j ≠ 0 ↔ w.pred = 1)
    CanFire s n op w c (data.filter c.streams) → c.anyVoid data = false →
    ∃ t fl, FiresTo s (i n w) c (data.filter c.streams) [(0, t)] c.x.st fl ∧ t.kind = .data ∧ t.last = c.lastA ∧ t.void = false ∧
      (∀ j, j < 512 / b → t.live b j = live j ∧ (live j = false → t.elem b j = 0) ∧
        (live j = true → on j → t.elem b j = (f c (xs j)).1 % 2 ^ b) ∧ (live j = true → ¬ on j → t.elem b j = (c.tok pass b).elem b j)) ∧
      (∀ k, k < 7 → (fl.getLsbD k = true ↔ ∃ j, j < 512 / b ∧ live j = true ∧ on j ∧ ((f c (xs j)).2).getLsbD k = true))

/-- Two operands, in a floating format or as integers. -/
def two (g : Rs → Fmt → Val → Val → Nat × Flags) (h : Int → Int → Int) (c : Ctx) : List Nat → Nat × Flags
  | [x, y] => match floatFmt c.fmt with
    | some f => g c.rs f (f.read x) (f.read y)
    | none => fitInt (fmtWidth c.fmt) (c.fmt ≠ 10) c.rs.sat (h (elemInt c.fmt x) (elemInt c.fmt y))
  | _ => (0, 0)

/-- Two raw operands of the width. -/
def raw (g : Nat → Nat → Nat → Nat) (c : Ctx) : List Nat → Nat × Flags
  | [x, y] => (g (fmtWidth c.fmt) x y, 0)
  | _ => (0, 0)

end Sys2Proof.Claims


/-! ### Element-wise cells, special functions, conversions, reductions and moves (R368-R385) -/

/-- R371-R376: arithmetic, the lesser and greater, absolute value and negation, comparison by the condition code of IMM,
selection by a nonzero c, bitwise operations and shifts, element by element, with the predicate of R196. -/
def Sys2Proof.Claims.ElementwiseCells : Prop :=
  LaneCell .cellAdd 0x01 [0, 1] 0 (two fpAdd (fun x y => x + y)) ∧ LaneCell .cellSub 0x02 [0, 1] 0 (two fpSub (fun x y => x - y)) ∧
  LaneCell .cellMul 0x03 [0, 1] 0 (two fpMul (fun x y => x * y)) ∧
  LaneCell .cellMac 0x04 [0, 1, 2] 2 (fun c xs => match xs with
    | [x, y, z] => (match floatFmt c.fmt with
      | some f => fpMac c.rs f (f.read x) (f.read y) (f.read z)
      | none => fitInt (fmtWidth c.fmt) (c.fmt ≠ 10) c.rs.sat (elemInt c.fmt x * elemInt c.fmt y + elemInt c.fmt z))
    | _ => (0, 0)) ∧
  LaneCell .cellMin 0x05 [0, 1] 0 (elemPick false) ∧ LaneCell .cellMax 0x06 [0, 1] 0 (elemPick true) ∧
  LaneCell .cellAbs 0x07 [0] 0 (elemSign false) ∧ LaneCell .cellNeg 0x08 [0] 0 (elemSign true) ∧
  LaneCell .cellCmp 0x09 [0, 1] 0 elemCmp ∧
  LaneCell .cellSel 0x0A [0, 1, 2] 0 (fun _ xs => match xs with | [x, y, z] => (if z = 0 then y else x, 0) | _ => (0, 0)) ∧
  LaneCell .cellAnd 0x0B [0, 1] 0 (raw (fun _ x y => x &&& y)) ∧ LaneCell .cellOr 0x0C [0, 1] 0 (raw (fun _ x y => x ||| y)) ∧
  LaneCell .cellXor 0x0D [0, 1] 0 (raw (fun _ x y => x ^^^ y)) ∧
  LaneCell .cellNot 0x0E [0] 0 (fun c xs => match xs with | [x] => (2 ^ fmtWidth c.fmt - 1 - x, 0) | _ => (0, 0)) ∧
  LaneCell .cellShl 0x0F [0, 1] 0 (raw (fun b x k => if k < b then x * 2 ^ k % 2 ^ b else 0)) ∧
  LaneCell .cellShr 0x10 [0, 1] 0 (raw (fun b x k => if k < b then x / 2 ^ k else 0)) ∧
  LaneCell .cellSra 0x11 [0, 1] 0 (fun c xs => match xs with
    | [x, k] => (if c.fmt = 10 then (if k < 8 then x / 2 ^ k else 0)
        else ((signed (fmtWidth c.fmt) x / 2 ^ min k (fmtWidth c.fmt)) % (2 ^ fmtWidth c.fmt : Int)).toNat, 0)
    | _ => (0, 0))

/-- R377: the seven special functions are element-wise cells, of the format's values; the model's own enclosure settles
their rounding (assumption 18). -/
def Sys2Proof.Claims.SpecialFunctionCells : Prop :=
  let g (op : Nat) (c : Ctx) (xs : List Nat) : Nat × Flags := match xs, floatFmt c.fmt with
    | [x], some f => sfu op c.fmt f c.rs x
    | _, _ => (0, 0)
  LaneCell .cellRcp 0x12 [0] 0 (g 0x12) ∧ LaneCell .cellRsq 0x13 [0] 0 (g 0x13) ∧ LaneCell .cellSqrt 0x14 [0] 0 (g 0x14) ∧
  LaneCell .cellExp2 0x15 [0] 0 (g 0x15) ∧ LaneCell .cellLog2 0x16 [0] 0 (g 0x16) ∧ LaneCell .cellTanh 0x17 [0] 0 (g 0x17) ∧
  LaneCell .cellSig 0x18 [0] 0 (g 0x18)

/-- R378-R380: a conversion of one beat. CVT of one width is beat for beat; a widening takes a beat in several firings and
keeps its input until the last. PACK puts a's elements before b's, at half the width; UNPACK takes the half that IMM names,
at twice the width. SCALE without a scale converts the elements of the tile. -/
def Sys2Proof.Claims.ConversionCells : Prop :=
  ∀ (s : State) (n : Node) (w : CellF) (c : Ctx) (a b : Token) (sub : Nat), c.head 0 = some a → a.void = false →
    let src := c.src
    let tgt := c.fmt
    let wi := fmtWidth src
    let wo := fmtWidth tgt
    let conv (t : Token) (k : Nat) : Nat × Bool := ((convElem src tgt c.rs (t.elem wi k)).1, t.live wi k)
    (CanFire s n 0x19 w c [0] → c.streams 0 = true → c.x.st = .gather [] false sub →
      (wi = wo → sub = 0 → ∃ t fl, Beats t wo false false (conv a) ∧ FiresTo s (.cellCvt n w) c [0] [(0, t)] (.gather [] false 0) fl) ∧
      (wi < wo → sub < wo / wi → ∃ t fl, Beats t wo (a.last && decide (sub + 1 = wo / wi)) false (fun j => conv a (sub * (512 / wo) + j)) ∧
        FiresTo s (.cellCvt n w) c (if sub + 1 < wo / wi then [] else [0]) [(0, t)]
          (.gather [] false (if sub + 1 < wo / wi then sub + 1 else 0)) fl)) ∧
    (CanFire s n 0x20 w c [0, 1] → c.streams 0 = true → c.streams 1 = true → c.head 1 = some b → b.void = false → wi = 2 * wo →
      ∃ t fl, Beats t wo a.last false (fun j => if j < 512 / wi then conv a j else conv b (j - 512 / wi)) ∧
        FiresTo s (.cellPack n w) c [0, 1] [(0, t)] c.x.st fl) ∧
    (CanFire s n 0x21 w c [0] → c.streams 0 = true → wo = 2 * wi →
      ∃ t fl, Beats t wo a.last false (fun j => conv a (c.imm % 2 * (256 / wi) + j)) ∧ FiresTo s (.cellUnpack n w) c [0] [(0, t)] c.x.st fl) ∧
    (∀ h f bytes taken pos side, CanFire s n 0x1A w c [0] → c.hdr 0 = some h → hdrScale h % 4 = 0 → floatFmt (hdrFmtA h) = some f →
      c.head 1 = none → c.x.st = .scale bytes taken pos side → wi = wo → pos + 512 / wi ≤ hdrRows h * hdrCols h →
      ∃ t fl, Beats t wo false false (fun j => ((valueOut tgt c.rs (f.read (a.elem wi j))).1, a.live wi j)) ∧
        FiresTo s (.cellScale n w) c [0] [(0, t)] (.scale bytes taken (pos + 512 / wi) side) fl)

/-- R381, R382: RSUM and RMAX gather one element a beat, the sum rounded once and the greatest of the live elements; ACC adds
each live lane to its own, and sends its lanes with LAST, or with each beat where IMM bit 0 is set. -/
def Sys2Proof.Claims.ReductionCells : Prop :=
  ∀ (s : State) (n : Node) (w : CellF) (c : Ctx) (a : Token), c.head 0 = some a → a.void = false → c.streams 0 = true →
    let b := fmtWidth c.fmt
    let xs := ((List.range (512 / b)).filter (fun j => a.live b j)).map (fun j => a.elem b j)
    (∀ es, CanFire s n 0x1B w c [0] → c.x.st = .gather es false 0 → es.length < 15 →
      FiresTo s (.cellRsum n w) c [0] [] (.gather (es ++ [((sumElems c.fmt c.rs xs).1, true)]) false 0) (sumElems c.fmt c.rs xs).2) ∧
    (∀ es, CanFire s n 0x1C w c [0] → c.x.st = .gather es false 0 → es.length + 1 < 512 / b →
      FiresTo s (.cellRmax n w) c [0] [] (.gather (es ++ [((maxElems c.fmt c xs).1, !xs.isEmpty)]) false 0) (maxElems c.fmt c xs).2) ∧
    (∀ lanes filled, CanFire s n 0x1D w c [0] → c.uses 1 = false → lanes.length = 16 → c.x.st = .acc lanes filled false →
      let sum (l : Nat) : Nat × Flags := two fpAdd (fun x y => x + y) c [(lanes.getD l 0).toNat, a.elem 32 l]
      let lane (l : Nat) : Nat := if a.live 32 l then (sum l).1 % 2 ^ 32 else (lanes.getD l 0).toNat
      (a.last = true ∨ c.imm % 2 = 1 → ∃ t fl, Beats t 32 false false (fun l => (lane l, filled.getLsbD l || a.live 32 l)) ∧
        FiresTo s (.cellAcc n w) c [0] [(0, t)] (.acc (List.replicate 16 0) 0 false) fl) ∧
      (a.last = false → c.imm % 2 = 0 → ∃ lanes' filled' fl, FiresTo s (.cellAcc n w) c [0] [] (.acc lanes' filled' false) fl ∧
        ∀ l, l < 16 → (lanes'.getD l 0).toNat = lane l ∧ filled'.getLsbD l = (filled.getLsbD l || a.live 32 l)))

/-- R383, R384: PERM's lane ℓ is lane i of a, i from lane ℓ of b, and dead where i is above 15; BCAST repeats the element
of a that IMM names; CONST sends its slot in every element; PASS sends a on as it is. -/
def Sys2Proof.Claims.MoveCells : Prop :=
  ∀ (s : State) (n : Node) (w : CellF) (c : Ctx) (a b : Token), c.head 0 = some a → a.void = false → c.streams 0 = true →
    let e := fmtWidth c.fmt
    (CanFire s n 0x1E w c [0, 1] → c.streams 1 = true → c.head 1 = some b → b.void = false →
      ∃ t, FiresTo s (.cellPerm n w) c [0, 1] [(0, t)] c.x.st 0 ∧ t.kind = .data ∧ t.last = a.last ∧ t.void = false ∧
        ∀ l, l < 16 → (b.laneLive l = true → b.elem 32 l < 16 → t.elem 32 l = a.elem 32 (b.elem 32 l) ∧
            ∀ k, k < 4 → t.mask.getLsbD (4 * l + k) = a.mask.getLsbD (4 * b.elem 32 l + k)) ∧
          (b.laneLive l = false ∨ 16 ≤ b.elem 32 l → t.elem 32 l = 0 ∧ ∀ k, k < 4 → t.mask.getLsbD (4 * l + k) = false)) ∧
    (CanFire s n 0x1F w c [0] → ∃ t, FiresTo s (.cellBcast n w) c [0] [(0, t)] c.x.st 0 ∧
      Beats t e a.last false (fun _ => (a.elem e (c.imm % (512 / e)), a.live e (c.imm % (512 / e))))) ∧
    (CanFire s n 0x22 w c [0] → ∃ t, FiresTo s (.cellConst n w) c [0] [(0, t)] c.x.st 0 ∧
      Beats t e a.last false (fun _ => (c.slot (c.imm % 4) % 2 ^ e, true))) ∧
    (w.pred = 0 → CanFire s n 0x23 w c [0] → FiresTo s (.cellPass n w) c [0] [(0, a)] c.x.st 0)


namespace Sys2Proof.Claims

open Sys2Proof.Machine

/-- A sound token: its sideband and its residues agree with it. -/
def Sound (t : Token) : Prop := t.chk = .good ∧ t.res = residues t.pay

/-- A site may act, every enabled output has room, and the given inputs have these sound heads. -/
def Stage (s : State) (n : Node) (op : Nat) (w : CellF) (c : Ctx) (heads : List (Nat × Token)) : Prop :=
  siteCtx s n op w = some c ∧ rollDue c.s c.place = false ∧ c.room = true ∧
  ∀ h ∈ heads, c.streams h.1 = true ∧ c.head h.1 = some h.2 ∧ Sound h.2

/-- A router slot may act, and its used inputs `used` have the given sound heads. -/
def SlotStage (s : State) (n : Node) (w : RopF) (c : RCtx) (heads : List (Nat × Token)) : Prop :=
  slotCtx s n w = some c ∧ rollDue c.s c.place = false ∧ c.used = heads.map (fun h => h.1) ∧ c.x.segOpen = true ∧
  (∀ h ∈ heads, (c.x.hdrs.getD h.1 none).isSome = true) ∧
  ∀ h ∈ heads, c.head h.1 = some h.2 ∧ Sound h.2

/-- A router slot consumes the heads of `eat`, sends `out` and stands in `st`. -/
def SlotTo (s : State) (i : Instr) (c : RCtx) (eat : List Nat) (out : List (Nat × Token)) (st : OpSt) : Prop :=
  exec i s = .next (s.updSlot c.x.node c.x.slot (fun x => { x.eat eat with out := x.out ++ out, st := st }))

/-- A program-class fault with a code is raised at the site. -/
def FaultsAt (s : State) (i : Instr) (c : Ctx) (code : Nat) : Prop := exec i s = .next (nodeFault s c.x.node code)

end Sys2Proof.Claims


/-! ### Framing, flow, orders, tiles, memory nodes, matrix nodes and routers (R147-R172, R386-R410) -/

/-- R147, R151, R157-R159, at a cell of one input: SOT opens a segment and goes on; a second SOT, or anything else outside a
segment, is an ALIGN fault, 4; a beat before its header is a HEADER fault, 5; ORD, DONE and CTRL are KIND faults, 3; EOT
closes the segment and gives the launch the sticky flags; MARK goes on; KILL clears the state and goes on by every output. -/
def Sys2Proof.Claims.FramingAtACell : Prop :=
  ∀ (s : State) (n : Node) (w : CellF) (c : Ctx) (t : Token), w.pred = 0 → Stage s n 0x23 w c [(0, t)] →
    let i := Instr.cellPass n w
    let out : List (Nat × Token) := if w.outen.getLsbD 0 then [(0, t)] else []
    let goes (f : Site → Site) : State := s.updSite c.x.node (fun x => f { x.eat [0] with out := x.out ++ out, st := c.x.st, lastActive := s.cycle })
    let whole : Prop := sidecarShort (c.hdr 0) c.x.beats t.kind = false
    (sidecarShort (c.hdr 0) c.x.beats t.kind = true → FaultsAt s i c 5) ∧
    (t.kind = .sot → whole → c.x.segOpen = false → exec i s = .next (goes (fun x => { x with segOpen := true, hdrs := [none, none, none], beats := 0 }))) ∧
    (t.kind = .sot → whole → c.x.segOpen = true → FaultsAt s i c 4) ∧
    (t.kind = .data ∨ t.kind = .hdr ∨ t.kind = .eot ∨ t.kind = .mark → whole → c.x.segOpen = false → FaultsAt s i c 4) ∧
    (t.kind = .data ∨ t.kind = .eot → c.x.segOpen = true → c.hdr 0 = none → FaultsAt s i c 5) ∧
    (t.kind = .ord ∨ t.kind = .done ∨ t.kind = .ctrl ∨ t.kind = .idx → FaultsAt s i c 3) ∧
    (t.kind = .eot → whole → c.x.segOpen = true → (c.hdr 0).isSome = true →
      exec i s = .next (gatherFlags (goes (fun x => { x with segOpen := false, hdrs := [none, none, none], flags := 0 })) c.place c.segno c.x.flags)) ∧
    (t.kind = .mark → c.x.segOpen = true → exec i s = .next (goes (fun x => x.snap (t.pay.toNat % 2 ^ 32)))) ∧
    (t.kind = .kill → exec i s = .next (s.updSite c.x.node (fun x => { x.eat [0] with
      out := ([0, 1, 2].filter (fun k => w.outen.getLsbD k)).map (fun k => (k, plainTok .kill 0)), st := c.x.st, flags := 0,
      hdrs := [none, none, none], segOpen := false, segOpenB := false, beats := 0, beatsB := 0, lastActive := s.cycle })))

/-- R162, R163, R390, R391: FILTER sends each container of a to the arm that its lane of b names, a beat of an arm that fills by
that arm's output, and on output 2 which arm each went to. COUNT at level 0 sends, with its trigger and then at each turn of the
run, the token of its index; chained, one token for each token from the level below. cellFilter and
cellCount complete so. -/
def Sys2Proof.Claims.FilterAndCount : Prop :=
  ∀ (s : State) (n : Node) (w : CellF) (c : Ctx) (a b : Token),
    (∀ a0 a1, CanFire s n 0x30 w c [0, 1] → c.head 0 = some a → c.head 1 = some b → c.streams 0 = true → c.streams 1 = true →
      a.void = false → b.void = false → c.x.st = .filter a0 a1 → a0.length < 16 → a1.length < 16 →
      let arm (i : Nat) : Bool := a.laneLive i && b.laneLive i && b.lane i ≠ 0
      let pick (k : Bool) : List Cont := ((List.range 16).zip a.conts).filterMap (fun p => if arm p.1 = k then some p.2 else none)
      let full (k : Nat) (l : List Cont) : List (Nat × Token) := if l.length < 16 then [] else [(k, contBeat .data (l.take 16) false)]
      let left (l : List Cont) : List Cont := if l.length < 16 then l else l.drop 16
      ∃ x, FiresTo s (.cellFilter n w) c [0, 1] (full 0 (a0 ++ pick false) ++ full 1 (a1 ++ pick true) ++ [(2, x)])
          (.filter (left (a0 ++ pick false)) (left (a1 ++ pick true))) 0 ∧ x.kind = .idx ∧
        x.last = a.last ∧ x.void = false ∧ ∀ i, i < 16 → x.lane i = if arm i then 1 else 0) ∧
    (let top := c.slot 2 % 2 ^ 32
     let after (i : Nat) : Nat := if top ≤ i + 1 then 0 else i + 1
     let value (i : Nat) (x : Token) : Prop := x.kind = .idx ∧ x.void = false ∧
       ∀ l, l < 16 → x.lane l = (c.slot 0 % 2 ^ 32 + i * (c.slot 1 % 2 ^ 32) + l * (c.slot 3 % 2 ^ 32)) % 2 ^ 32
     (∀ i v, CanFire s n 0x32 w c [0] → c.streams 0 = true → c.head 0 = some a → a.void = false → c.imm % 2 = 0 → c.x.st = .count i 0 v →
       ∃ x, FiresTo s (.cellCount n w) c [0] [(0, x)] (.count (after i) (top * (c.slot 2 / 2 ^ 32 + 1) - 1) false) 0 ∧ value i x ∧
         (x.last = true ↔ i + 1 = top)) ∧
     (∀ i k, Stage s n 0x32 w c [] → c.headIs 0 (fun z => z = Kind.kill) = false → c.x.st = .count i k false → 0 < k →
       ∃ x, FiresTo s (.cellCount n w) c [] [(0, x)] (.count (after i) (k - 1) false) 0 ∧ value i x ∧ (x.last = true ↔ i + 1 = top)) ∧
     (∀ i v, Stage s n 0x32 w c [(0, a)] → a.kind = .idx → a.void = false → c.x.segOpen = true → (c.hdr 0).isSome = true → c.imm % 2 = 1 → c.x.st = .count i 0 v →
       ∃ x, FiresTo s (.cellCount n w) c [0] [(0, x)] (.count (if a.last then (if i + 1 = top then 0 else i + 1) else i) 0 false) 0 ∧ value i x ∧
         (x.last = true ↔ i + 1 = top ∧ a.last = true)))

/-- R164, R165, R392: LOOP sends a's record on as iteration 0; keeps the record a back edge brings; sends it on as the next
iteration while the window has room; a status without LAST confirms the oldest iteration, one with LAST also squashes the later
ones, and the exiting iteration's record then leaves by output 1. cellLoop completes so. -/
def Sys2Proof.Claims.LoopCell : Prop :=
  ∀ (s : State) (n : Node) (w : CellF) (c : Ctx) (t : Token) (kept : List (Nat × Token)) (next oldest : Nat),
    let run (k : List (Nat × Token)) (m o sb sc : Nat) (e : Option Nat) (r : Bool) : OpSt := .loop k m o sb sc e r false false false false
    let prod (m : Nat) : Option Token := (kept.find? (fun k => k.1 = m)).map (fun k => k.2)
    (CanFire s n 0x31 w c [0] → c.streams 0 = true → c.head 0 = some t → c.head 1 = none → c.head 2 = none →
      c.x.st = run kept next oldest 0 0 none false → FiresTo s (.cellLoop n w) c [0] [(0, t)] (run [] 1 0 0 0 none true) 0) ∧
    (c.head 0 = none →
      (Stage s n 0x31 w c [(1, t)] → c.head 2 = none → t.kind = .data → c.x.st = run kept next oldest 0 0 none true → prod (next - 1) = none →
        FiresTo s (.cellLoop n w) c [1] [] (run (kept ++ [(next - 1, t)]) next oldest 0 0 none true) 0) ∧
      (Stage s n 0x31 w c [] → c.head 1 = none → c.head 2 = none → c.x.st = run kept next oldest 0 0 none true → prod (next - 1) = some t →
        next < oldest + (c.imm % 16 + 1) →
        FiresTo s (.cellLoop n w) c [] [(0, t)] (run kept (next + 1) oldest 0 0 none true) 0) ∧
      (Stage s n 0x31 w c [(2, t)] → c.head 1 = none → t.kind = .done → oldest < next → c.x.st = run kept next oldest 0 0 none true →
        (t.last = false → ∃ kept', FiresTo s (.cellLoop n w) c [2] [(2, ordTok false)] (run kept' next (oldest + 1) 0 0 none true) 0 ∧
          ∀ k, k ∈ kept' ↔ k ∈ kept ∧ (oldest < k.1 ∨ k.1 + 1 = next)) ∧
        (t.last = true → FiresTo s (.cellLoop n w) c [2] ((2, ordTok false) :: List.replicate (next - 1 - oldest) (2, ordTok true))
          (run kept next (oldest + 1) (if 0 < next - 1 - oldest ∧ prod (next - 1) = none then 1 else 0) (next - 1 - oldest) (some oldest) true) 0)) ∧
      (∀ e sb sc, Stage s n 0x31 w c [] → c.head 1 = none → c.head 2 = none → c.x.st = run kept next oldest sb sc (some e) true → prod e = some t →
        FiresTo s (.cellLoop n w) c [] [(1, t)] (run [] next oldest sb sc none false) 0))

/-- R233, R235, R399, R400: FORK sends its ORD on. JOIN sends, once every used input holds one, a token of a's kind; with PRED, one
whose LAST says that c's lane 0 is zero. FENCE sends an ORD once its trigger and its DONE inputs hold a token, at PACKAGE and
SYSTEM scope after the place's writes are performed, the die's SHARE_PKG lines leaving; each is VOID where a consumed token is. cellFork,
cellJoin and cellFence complete so. -/
def Sys2Proof.Claims.OrderCells : Prop :=
  ∀ (s : State) (n : Node) (w : CellF) (c : Ctx) (a b k : Token),
    (Stage s n 0x45 w c [(0, a)] → a.kind = .ord → FiresTo s (.cellFork n w) c [0] [(0, ordTok a.void)] c.x.st 0) ∧
    (a.kind = .ord ∨ a.kind = .done → b.kind = .ord ∨ b.kind = .done →
      (Stage s n 0x46 w c [(0, a), (1, b)] → c.uses 2 = false →
        ∃ x, FiresTo s (.cellJoin n w) c [0, 1] [(0, x)] c.x.st 0 ∧ x.kind = a.kind ∧ x.void = (a.void || b.void) ∧ x.last = false) ∧
      (Stage s n 0x46 w c [(0, a), (1, b), (2, k)] → c.imm % 2 = 1 → k.kind = .data →
        ∃ x, FiresTo s (.cellJoin n w) c [0, 1, 2] [(0, x)] c.x.st 0 ∧ x.kind = a.kind ∧ x.void = (a.void || b.void || k.void) ∧
          (x.last = true ↔ k.decides = false))) ∧
    (a.kind = .data ∨ a.kind = .ord ∨ a.kind = .done → b.kind = .done → k.kind = .done →
      ∀ ins void, (ins = [0, 1] ∧ Stage s n 0x47 w c [(0, a), (1, b)] ∧ c.uses 2 = false ∧ void = (a.void || b.void) ∨
          ins = [0, 1, 2] ∧ Stage s n 0x47 w c [(0, a), (1, b), (2, k)] ∧ void = (a.void || b.void || k.void)) →
        (c.imm < 3 → FiresTo s (.cellFence n w) c ins [(0, ordTok void)] c.x.st 0) ∧
        (3 ≤ c.imm → forwarding s (regionOf s c.place) = false → exec (.cellFence n w) s =
          .next ((flashInvalidate s c.place.die).updSite c.x.node (fun x => { x.eat ins with
            out := x.out ++ [(0, ordTok void)].filter (fun (o : Nat × Token) => w.outen.getLsbD o.1), st := c.x.st, flags := x.flags ||| 0, lastActive := s.cycle }))) ∧
        (3 ≤ c.imm → forwarding s (regionOf s c.place) = true → exec (.cellFence n w) s = .next s))

/-- R405, R407-R410: MSEQ sends the MMA of its template, without ACC for the first of an accumulation, MZERO before it where ZERO is
set and a segment begins, and the drain with LAST unless NODRAIN is set; HDRGEN sends a header on with the fields put in that IMM
names, its format A where bit 0 is set, and passes beats on; MARKIN puts a MARK of b before a's beat; FLAGS passes beats on, and
with EOT sends its flag segment on output 1; SEGIN passes beats on and cuts a segment after one with LAST. cellMseq, cellHdrgen, cellMarkin,
cellFlags and cellSegin complete so. -/
def Sys2Proof.Claims.FramingCells : Prop :=
  ∀ (s : State) (n : Node) (w : CellF) (c : Ctx) (a b h : Token), c.head 0 = some a → a.void = false → c.streams 0 = true →
    let tmpl := c.slot 0 + c.slot 1 * 2 ^ 64
    let out (l : List (Nat × Token)) : List (Nat × Token) := c.x.out ++ l.filter (fun o => w.outen.getLsbD o.1)
    (∀ first zero, CanFire s n 0x50 w c [0] → c.x.st = .mseq first zero →
      let mma := tmpl - bitsOf tmpl 8 1 * 2 ^ 8 + (if first then 0 else 2 ^ 8)
      FiresTo s (.cellMseq n w) c [0] ((if zero = true ∧ c.imm / 2 % 2 = 1 then [(0, plainTok .ctrl 0x52)] else []) ++ [(0, plainTok .ctrl mma)] ++
        (if a.last = true ∧ c.imm % 2 = 0 then [(0, plainTok .ctrl (0x53 + bitsOf tmpl 16 16 * 2 ^ 16))] else [])) (.mseq a.last false) 0) ∧
    (CanFire s n 0x58 w c [0] → FiresTo s (.cellHdrgen n w) c [0] [(0, a)] c.x.st 0) ∧
    (hdrFmtA (hdrGen c h) = if c.imm % 2 = 1 then bitsOf (c.slot 0) 8 4 else hdrFmtA h) ∧
    (Stage s n 0x58 w c [(0, a)] → a.kind = .hdr → c.hdr 1 = none → c.hdr 2 = none → c.x.segOpen = true → sidecarShort (c.hdr 0) c.x.beats .hdr = false → hdrOk a = true →
      hdrOk (hdrGen c a) = true → ∃ s' x, exec (.cellHdrgen n w) s = .next s' ∧ s'.site? n = some x ∧ x.out = out [(0, hdrGen c a)] ∧ x.ina = c.x.ina.drop 1) ∧
    (CanFire s n 0x59 w c [0, 1] → c.streams 1 = true → c.head 1 = some b → b.void = false → FiresTo s (.cellMarkin n w) c [0, 1] [(0, a)] c.x.st 0) ∧
    (Stage s n 0x59 w c [(0, a), (1, b)] → a.kind = .data → b.kind = .mark → c.x.segOpen = true →
      exec (.cellMarkin n w) s = .next (s.updSite c.x.node (fun x =>
        { x.eat [1] with out := x.out ++ [(0, b)].filter (fun (o : Nat × Token) => w.outen.getLsbD o.1), st := c.x.st, lastActive := s.cycle }.snap (b.pay.toNat % 2 ^ 32)))) ∧
    (CanFire s n 0x5A w c [0] → FiresTo s (.cellFlags n w) c [0] [(0, a)] c.x.st 0) ∧
    (Stage s n 0x5A w c [(0, a)] → a.kind = .eot → c.x.segOpen = true → c.hdr 0 = some h → sidecarShort (some h) c.x.beats .eot = false →
      ∃ s' x fl, exec (.cellFlags n w) s = .next s' ∧ s'.site? n = some x ∧ x.ina = c.x.ina.drop 1 ∧
        x.out = out [(1, plainTok .sot (hdrField h 160 32)), (1, flagHdr (hdrField h 160 32)), (1, plainTok .data (fl &&& c.imm % 2 ^ 7)), (1, plainTok .eot 0), (0, a)]) ∧
    (∀ no, CanFire s n 0x5B w c [0] → c.x.st = .segin no → c.hdr 0 = some h →
      (a.last = false → FiresTo s (.cellSegin n w) c [0] [(0, a)] (.segin no) 0) ∧
      (a.last = true → FiresTo s (.cellSegin n w) c [0] [(0, a), (0, plainTok .eot 0), (0, plainTok .sot (no + 1).toNat),
        (0, hdrSet h 160 32 (no + 1).toNat)] (.segin (no + 1)) 0))

/-- R171, R172, R401-R404: a FIFO and a SPORT take a beat behind what they hold, a BUF into the buffer it fills; a FIFO gives
its oldest token by output 0; AGEN reads the row an index names; LINEBUF reads the row of its window that an index names and
drops the window's front with LAST. -/
def Sys2Proof.Claims.TileCells : Prop :=
  ∀ (s : State) (n : Node) (w : CellF) (c : Ctx) (t : Token) (rows : List (Nat × Token)) (f : List Token) (wr rd : Nat),
    let ends (i : Instr) (P : Site → Prop) : Prop := ∃ s' x, exec i s = .next s' ∧ s'.site? c.x.node = some x ∧ P x
    c.x.snaps = [] → c.x.segOpen = true → (c.hdr 0).isSome = true →
    (Stage s n 0x4A w c [(0, t)] → t.kind = .data → c.x.st = .tile rows [] [] [] wr rd → ends (.cellFifo n w) (fun x => x.ina = c.x.ina.drop 1 ∧
      ∃ rows', x.st = .tile rows' [] [t] [] ((wr + 1) % 2048) rd ∧ rowOf rows' (wr % 2048) = t)) ∧
    (Stage s n 0x4C w c [(0, t)] → t.kind = .data → c.x.segOpenB = true → (c.hdr 1).isSome = true → c.x.st = .tile rows [] [] [] wr rd → ends (.cellSport n w) (fun x => x.ina = c.x.ina.drop 1 ∧
      ∃ rows', x.st = .tile rows' [] [] [t] wr (rd + 1) ∧ rowOf rows' (1024 + rd % 1024) = t)) ∧
    (Stage s n 0x49 w c [(0, t)] → t.kind = .data → c.imm % 4 = 1 → c.x.st = .tile rows [([], false), ([], false)] [] [] 0 0 →
      ends (.cellBuf n w) (fun x => x.ina = c.x.ina.drop 1 ∧ ∃ rows', x.st = .tile rows' [([t], false), ([], false)] [] [] 0 0 ∧ rowOf rows' 0 = t)) ∧
    (Stage s n 0x4A w c [] → c.head 0 = none → t.kind = .data → c.x.st = .tile rows [] (t :: f) [] wr rd → c.portOn 1 = false → c.enabled 0 = true → c.x.out = [] →
      ends (.cellFifo n w) (fun x => x.out = [(0, t)] ∧ x.st = .tile rows [] f [] wr rd)) ∧
    (Stage s n 0x48 w c [(2, t)] → c.head 0 = none → c.head 1 = none → t.kind = .idx → t.lane 0 < 2048 → c.enabled 0 = true → c.x.out = [] →
      ends (.cellAgen n w) (fun x => x.st = c.x.st ∧ ∃ r, x.out = [(0, r)] ∧ r.kind = .data ∧ r.last = t.last ∧
        r.pay = (rowOf (rowsOf c.x.st) (t.lane 0)).pay ∧ r.mask = (rowOf (rowsOf c.x.st) (t.lane 0)).mask)) ∧
    (∀ r, Stage s n 0x4B w c [(1, t)] → c.head 0 = none → t.kind = .idx → t.lane 0 = 0 → t.void = false → r.kind = .data → r.void = false →
      c.x.st = .tile rows [] (r :: f) [] wr rd → c.portOn 1 = false → c.enabled 0 = true → c.x.out = [] →
      ends (.cellLinebuf n w) (fun x => x.out = [(0, r)] ∧ x.st = .tile rows [] (if t.last then f else r :: f) [] wr rd))

/-- R232, R236, R393-R398: a memory node with an index beat whose lanes all reach memory sends a beat of what they read, an
ORD on output 1 and a DONE on output 2, and counts the firing; a VOID beat makes no access and gives VOID tokens. Lane ℓ names
the address of its slot 0 plus four times its index. -/
def Sys2Proof.Claims.MemoryNodes : Prop :=
  (∀ (c : Ctx) (a : Token) (l : Nat), BitVec.ofNat 64 (laneAddr c a l) =
    BitVec.ofNat 64 (c.slot 0 % 2 ^ 48) + 4 * (BitVec.ofNat 32 (a.lane l)).signExtend 64) ∧
  (∀ (s s1 : State) (n : Node) (w : CellF) (c : Ctx) (a b : Token) (vals : List (BitVec 32)) (i : Instr) (op : Nat) (m : MemSt),
    let ins := if op = 0x40 ∨ op = 0x43 then [0] else [0, 1]
    let done (s2 : State) (beat : Token) (void : Bool) : State := s2.updSite c.x.node (fun x =>
      { x.eat ins with
        out := x.out ++ ([(0, beat), (1, ordTok void), (2, doneTok false void)].filter (fun o => w.outen.getLsbD o.1))
        st := .mem { m with fired := m.fired + 1, lane := 0, vals := [] }, flags := x.flags ||| 0, lastActive := s2.cycle })
    (i, op) ∈ [(Instr.cellLd n w, 0x40), (.cellSt n w, 0x41), (.cellAt n w, 0x42), (.cellLda n w, 0x43), (.cellStl n w, 0x44)] →
    CanFire s n op w c ins → (∀ k ∈ ins, c.streams k = true) → c.head 0 = some a → (1 ∈ ins → c.head 1 = some b) → (1 ∉ ins → c.uses 1 = false) →
    c.uses 2 = false → c.x.st = .mem m → m.conf = 0 → m.lane = 0 → m.vals = [] → regionRb s c.place = none →
    (memImm c.imm).log = false → (memImm c.imm).conf = false → (memImm c.imm).scope < 3 → (memImm c.imm).dscope = 0 →
    (a.void = false → (1 ∈ ins → b.void = false) → (1 ∉ ins → b = voidTok .data false) → lanesFrom c a b 16 0 s [] = .all s1 vals →
      exec i s = .next (done (if op = 0x42 then s1.updRb c.place (fun r => { r with
        atoms := putBy (fun k => k.node = c.x.node && k.fired = m.fired) { node := c.x.node, fired := m.fired, wave := m.wave, vals := vals } r.atoms }) else s1) (memBeat a vals) false)) ∧
    (a.void = true → exec i s = .next (done s (voidTok .data a.last) true)))

/-- R167-R170, R192-R195, R298, R406: MZERO empties the active accumulator; MMA with the four buffers full and of the beats it
needs multiplies them into it, frees the buffers and consumes its token; MDRAIN exchanges the accumulators and sends the one
that was active as a segment. -/
def Sys2Proof.Claims.MatrixNodes : Prop :=
  ∀ (s : State) (n : Node) (f : CtrlF) (c : Ctx) (t : Token) (act oth : List (BitVec 32)) (v : Bool),
    matrixCtx s n = some c → rollDue c.s c.place = false → c.head 0 = some t → Sound t → t.kind = .ctrl → t.void = false →
    c.x.st = .matrix act oth v → t.pay.toNat / 2 ^ 128 = 0 →
    (t.pay.toNat % 256 = 0x52 → ctrlOk 0x52 f = true → FiresTo s (.mzero n f) c [0] [] (.matrix [] oth false) 0) ∧
    (t.pay.toNat % 256 = 0x53 → ctrlOk 0x53 f = true → c.x.out = [] →
      FiresTo s (.mdrain n f) c [0] ((drainSegment c.segno (16 * f.mg.toNat) (16 * f.ng.toNat) act v).map (fun t => (0, t))) (.matrix oth act false) 0) ∧
    (∀ we no ea so, t.pay.toNat % 256 = 0x51 → ctrlOk 0x51 f = true → f.scale = 0 →
      bufBeats s { n with x := n.x - 1 } = some we → bufBeats s { n with y := n.y - 1 } = some no →
      bufBeats s { n with x := n.x + 1 } = some ea → bufBeats s { n with y := n.y + 1 } = some so →
      let da := 256 * f.mg.toNat * f.kg.toNat * fmtWidth f.fmta.toNat / 512
      let db := 256 * f.kg.toNat * f.ng.toNat * fmtWidth f.fmtb.toNat / 512
      (∀ u ∈ we ++ no ++ ea ++ so, Sound u) → we.length = (da + 1) / 2 → no.length = da / 2 → ea.length = (db + 1) / 2 → so.length = db / 2 →
      let A : Operand := { beats := alternate we no, fmt := f.fmta.toNat, data := da, sidecar := false, ts := none }
      let B : Operand := { beats := alternate ea so, fmt := f.fmtb.toNat, data := db, sidecar := false, ts := none }
      exec (.mma n f) s = .next ((aroundOf n).foldl freeBuf (c.done [0] []
        (.matrix (mmaAll f A B act).1 oth ((f.acc && v) || (we ++ no ++ ea ++ so).any (fun t => t.void))) (mmaAll f A B act).2 (fun x => x))))

/-- R156, R161, R162, R388, R389: the router operators on beats: STEER by the predicate to output 0 or 1, MERGE from the input the
control names, CARRY's initial token and back edges, INVAR's held value, which it takes ahead of the control, ORDMERGE's lanes in the order of the arms, GATE past
a nonzero control. -/
def Obligations.RouterOperators : Prop :=
  ∀ (s : State) (n : Node) (w : RopF) (c : RCtx) (a b k : Token), a.kind = .data → b.kind = .data → a.void = false → b.void = false → k.void = false →
    (k.kind = .data → SlotStage s n w c [(0, a), (1, k)] →
      SlotTo s (.ropSteer n w) c [0, 1] [(if k.laneLive 0 && k.lane 0 ≠ 0 then 0 else 1, a)] c.x.st ∧
      (c.x.st = .invar none → SlotTo s (.ropInvar n w) c [0, 1] [(0, a)] (.invar (if k.last then none else some a))) ∧
      (c.x.st = .invar (some b) → SlotTo s (.ropInvar n w) c [1] [(0, b)] (.invar (if k.last then none else some b))) ∧
      SlotTo s (.ropGate n w) c [0, 1] (if k.laneLive 0 && k.lane 0 ≠ 0 then [(0, a)] else []) c.x.st) ∧
    (slotCtx s n w = some c → rollDue c.s c.place = false → c.used = [0, 1] → c.x.segOpen = true → (c.x.hdrs.getD 0 none).isSome = true →
      c.head 0 = some a → Sound a → c.head 1 = none → c.x.st = .invar none → SlotTo s (.ropInvar n w) c [0] [] (.invar (some a))) ∧
    (k.kind = .ord ∨ k.kind = .done → SlotStage s n w c [(0, a), (1, k)] → SlotTo s (.ropGate n w) c [0, 1] [(0, a)] c.x.st) ∧
    (k.kind = .data → SlotStage s n w c [(0, a), (1, b), (2, k)] →
      let yes := k.laneLive 0 && k.lane 0 ≠ 0
      SlotTo s (.ropMerge n w) c [if yes then 1 else 0, 2] [(0, if yes then b else a)] c.x.st ∧
      (c.x.st = .carry false → SlotTo s (.ropCarry n w) c [0] [(0, a)] (.carry true)) ∧
      (c.x.st = .carry true → yes = true → SlotTo s (.ropCarry n w) c [1, 2] [(0, b)] (.carry true)) ∧
      (c.x.st = .carry true → yes = false → SlotTo s (.ropCarry n w) c [2] [] (.carry false))) ∧
    (k.kind = .idx → SlotStage s n w c [(0, a), (1, b), (2, k)] →
      (c.x.st = .ord [] [] → (∃ l, l < 16 ∧ k.lane l = 0) → (∀ l, l < 16 → k.lane l ≤ 1) →
        SlotTo s (.ropOrdmerge n w) c [0] [] (.ord a.conts [])) ∧
      (∀ x y, c.x.st = .ord x y → x.length = 16 → (∀ l, l < 16 → k.lane l = 0) →
        SlotTo s (.ropOrdmerge n w) c [2] [(0, contBeat .data x k.last)] (.ord [] y)))


/-! ### Calls (R127, R411, R412) -/

/-- R127, R411, R412: a PITCH whose record is complete makes a call of one instance, a PITCHG one of as many as IMM 10:8 say,
and puts its request behind the queue of its core; ARGP sends the next token of its argument line on, without the line's
route; STRIKE sends a result behind SOT and the header in force on the line of its position. -/
def Obligations.CallCells : Prop :=
  ∀ (s : State) (n : Node) (w : CellF) (c : Ctx) (t h : Token) (p : Partition) (ps : PitchSt) (routine : Nat),
    c.hdr 0 = some h → c.x.segOpen = true → partOf s c.place.asid = some p →
    let pitches (i : Instr) (k nres narg : Nat) : Prop := ∃ s' x p' q, exec i s = .next s' ∧ s'.site? c.x.node = some x ∧
      partOf s' c.place.asid = some p' ∧ p'.curq = p.curq ++ [q] ∧ q.node = c.x.node ∧ q.routine = routine ∧ q.k = k ∧ q.call = ps.next ∧
      q.scope = c.place.scope ∧ q.unstow = none ∧ x.ina = c.x.ina.drop 1 ∧
      ∃ call, x.st = .pitch { ps with items := [.call ps.next], calls := [call], next := ps.next + 1 } ∧ call.num = ps.next ∧ call.k = k ∧
        call.toks = [t] ∧ call.narg = narg ∧ call.nres = nres ∧ call.hdr = some h
    (ps.toks = [] → ps.items = [] → ps.calls = [] → ps.routine = routine → c.x.st = .pitch ps → t.kind = .data → c.imm < 2 ^ 15 →
      c.imm % 256 = routine →
      (∀ nres, Stage s n 0x60 w c [(0, t)] → routineHead s c.place.asid routine = some (1, nres) → pitches (.cellPitch n w) 1 nres 1) ∧
      (∀ nres, Stage s n 0x61 w c [(0, t)] → routineHead s c.place.asid routine = some (0, nres) →
        pitches (.cellPitchg n w) (c.imm / 256 % 8) nres 0)) ∧
    (∀ i line rest, Stage s n 0x62 w c [] → c.place.inst = some i → i.struck = false → c.x.st = .line false → i.args[c.imm % 8]? = some line →
      guyLine s c.place.asid line = t :: rest → guyHead s c.place.asid line = some t → Sound t → t.route = BitVec.ofNat 12 line → t.kind = .data →
      ∃ s' x, exec (.cellArgp n w) s = .next s' ∧ s'.site? c.x.node = some x ∧ guyLine s' c.place.asid line = rest ∧
        x.out = c.x.out ++ (if w.outen.getLsbD 0 then [(0, { t with route := 0 })] else []) ∧ x.st = .line false) ∧
    (∀ i k line, Stage s n 0x63 w c [(0, t)] → c.place.inst = some i → i.struck = false → c.x.st = .strike k → i.results[k]? = some line →
      i.results.any (recordFull s c.place.asid) = false → t.kind = .data →
      ∃ s' x, exec (.cellStrike n w) s = .next s' ∧ s'.site? c.x.node = some x ∧ x.st = .strike (k + 1) ∧ x.ina = c.x.ina.drop 1 ∧
        guyLine s' c.place.asid line = guyLine s c.place.asid line ++
          [plainTok .sot (hdrField h 160 32), h, t].map (fun u => { u with route := BitVec.ofNat 12 line }))

namespace Sys2Proof.Claims

open Sys2Proof.Machine

/-- A step that changes package registers alone, and leaves those for which `P` holds. -/
def PkgStep (i : Instr) (s : State) (P : Pkg → Prop) : Prop :=
  ∃ q : Pkg, exec i s = .next { s with pkg := q } ∧ P q

/-- One step of CRC-8 with polynomial x^8 + x^2 + x + 1 (R22). -/
def crc8Bit (c : BitVec 8) (bit : Bool) : BitVec 8 := if (c.getLsbD 7) != bit then (c <<< 1) ^^^ 7 else c <<< 1

/-- The rail-set frame of R22: START, DIE, CODE, the reserved bit and the CRC over bits 23:8, most significant first. -/
def GoodFrame (die : BitVec 3) (code : Byte) (f : BitVec 24) : Prop :=
  f.extractLsb' 20 4 = 0b1010 ∧ f.extractLsb' 17 3 = die ∧ f.extractLsb' 9 8 = code ∧ f.getLsbD 8 = false ∧
  f.extractLsb' 0 8 = (List.range 16).foldl (fun c k => crc8Bit c (f.getLsbD (23 - k))) 0

/-- BOOTSTAT with its stage, cause, attempts, port and protocol. -/
def BootWord (w : Word) (stage cause attempts port proto : Nat) : Prop :=
  w.extractLsb' 28 4 = BitVec.ofNat 4 stage ∧ w.extractLsb' 24 4 = BitVec.ofNat 4 cause ∧
  w.extractLsb' 16 8 = BitVec.ofNat 8 attempts ∧ w.extractLsb' 15 1 = BitVec.ofNat 1 port ∧
  w.extractLsb' 14 1 = BitVec.ofNat 1 proto

/-- What a failed attempt leaves: the waiting stage with its cause, one attempt more, saturating at 255, and the retry
after 1, 2, 4 and 8 seconds on each port, then every 60. -/
def BootFails (i : Instr) (s : State) (cause : Nat) : Prop :=
  PkgStep i s (fun q => ∃ port proto, BootWord s.pkg.bootstat ((s.pkg.bootstat.extractLsb' 28 4).toNat)
      ((s.pkg.bootstat.extractLsb' 24 4).toNat) ((s.pkg.bootstat.extractLsb' 16 8).toNat) port proto ∧
    BootWord q.bootstat 15 cause (min 255 ((s.pkg.bootstat.extractLsb' 16 8).toNat + 1)) port proto ∧
    q.boot.fails = s.pkg.boot.fails + 1 ∧
    q.boot.due = s.cycle + 1750000000 *
      (if s.pkg.boot.fails ≥ 7 then 60 else ([1, 2, 4, 8, 1, 2, 4, 8] : List Nat).getD s.pkg.boot.fails 60) ∧
    q = { s.pkg with bootstat := q.bootstat, boot := q.boot })

/-- System core 0 of IO0 is in the boot ROM, at a stage. -/
def RomAt (s : State) (stage : BitVec 4) : Prop :=
  s.pkg.bootstat.extractLsb' 28 4 = stage ∧ ∃ t, s.thread? (.sys 0) = some t ∧ t.run = .rom

end Sys2Proof.Claims


/-! ### The package: power, boot, trust (R15-R22, R49-R59) -/

/-- R18-R21: a sample applies the caps written before it, updates every field of PWRSTAT and moves the throttle factor by
the strictest case that holds; at 115 °C it is a thermal trip: no partition is left, the rails are down and THERMTRIP
holds the die and the temperature. A write of PWRCAP is held within its ranges, and ignored once LOCK is 1. -/
def Sys2Proof.Claims.PowerControl : Prop :=
  ∀ (s : State) (r : Sample) (v : Word) (hot : BitVec 4) (temp : BitVec 16),
    let watts : Prop := r.ppkg.toNat > (s.pkg.pwrcap.extractLsb' 16 14).toNat
    let amps : Prop := r.ifab.toNat > 100 * (s.pkg.pwrcap.extractLsb' 8 8).toNat
    let warm : Prop := 840 ≤ r.tjmax.toInt
    let f := (s.pkg.pwrstat.extractLsb' 7 5).toNat
    (r.tjmax.toInt < 920 → 1 ≤ f → f ≤ 16 →
      ∃ g thr : Nat,
        exec (.powerSample r) s = .next (s.updPkg (fun p => { p with
          capApplied := p.pwrcap
          pwrstat := r.tjmax ++ r.ifab ++ r.ppkg ++ r.hotdie ++ BitVec.ofNat 5 g ++ 0#5 ++ BitVec.ofNat 2 thr })) ∧
        (warm → g = max 1 (f - 4) ∧ thr = 3) ∧ (¬ warm → amps → g = max 1 (f - 2) ∧ thr = 2) ∧
        (¬ warm → ¬ amps → watts → g = max 1 (f - 1) ∧ thr = 1) ∧
        (¬ warm → ¬ amps → ¬ watts → g = min 16 (f + 1) ∧
          thr = if g = 16 then 0 else (s.pkg.pwrstat.extractLsb' 0 2).toNat)) ∧
    (920 ≤ r.tjmax.toInt → exec (.powerSample r) s = exec (.thermalTrip r.hotdie r.tjmax) (s.updPkg (fun p => { p with
      capApplied := p.pwrcap
      pwrstat := r.tjmax ++ r.ifab ++ r.ppkg ++ r.hotdie ++ p.pwrstat.extractLsb' 7 5 ++ 0#5 ++ p.pwrstat.extractLsb' 0 2 }))) ∧
    (∃ s', exec (.thermalTrip hot temp) s = .next s' ∧ s'.parts = [] ∧ s'.places = [] ∧ s'.sites = [] ∧ s'.mem = s.mem ∧
      s'.threads = s.threads.filter (fun t => t.id.isSys) ∧ s'.pkg.thermtrip = 0#32 ++ temp ++ 0#11 ++ hot ++ 1#1 ∧
      s'.pkg.railReset = List.replicate 8 true ∧ s'.pkg.dieTrained = List.replicate 8 false) ∧
    (s.pkg.pwrcap.getLsbD 0 = false → exec (.pwrcapWrite v) s = .next (s.updPkg (fun p => { p with
      pwrcap := 0#34 ++ BitVec.ofNat 14 (max 1000 (min 10000 (v.extractLsb' 16 14).toNat)) ++
        BitVec.ofNat 8 (max 20 (min 200 (v.extractLsb' 8 8).toNat)) ++ 0#7 ++ v.extractLsb' 0 1 }))) ∧
    (s.pkg.pwrcap.getLsbD 0 = true → exec (.pwrcapWrite v) s = .next s)

/-- R15, R17, R21, R22, R49, R59: the rail-set frame goes out twice, 3,500 cycles apart; a core rail that falls leaves its
die held in reset, with no site, slice or running thread of it, and its launches ended FAULTED; a die trains once it is
out of reset, and an HBM4E stack; an enabled PCIe port trains to what its partner allows and a disabled one does not;
an Ethernet link comes up; a reset gives the reset state, with the fuses and bit 0 of THERMTRIP as they were, and the public key that the OTP secret
gives. -/
def Sys2Proof.Claims.RailsAndLinks : Prop :=
  ∀ (s : State) (die : Nat) (d : BitVec 3) (code : Byte) (io gen width n : Nat),
    PkgStep (.railSetFrame d code) s (fun q => ∃ f, GoodFrame d code f ∧
      q = { s.pkg with rails := if 60 ≤ code.toNat ∧ code.toNat ≤ 140 then s.pkg.rails.set d.toNat code else s.pkg.rails
                       railFrames := s.pkg.railFrames ++ [(f, s.cycle + 3500)], railSent := s.pkg.railSent ++ [f] }) ∧
    (∀ f due rest, s.pkg.railFrames = (f, due) :: rest → due ≤ s.cycle → PkgStep .railFrameRepeat s (fun q =>
      q = { s.pkg with railFrames := rest, railSent := s.pkg.railSent ++ [f] })) ∧
    (∃ s', exec (.coreRailUndervolt die) s = .next s' ∧ s'.mem = s.mem ∧
      s'.pkg = { s.pkg with railReset := s.pkg.railReset.set die true, dieTrained := s.pkg.dieTrained.set die false,
                            fullService := s.pkg.fullService.set die false } ∧
      (∀ x ∈ s'.sites, ∀ p ∈ s.places, p.die = die → x.node.place ≠ p.id) ∧ (∀ x ∈ s'.slices, x.die ≠ die) ∧
      (∀ t ∈ s'.threads, ∀ c h, t.id = .ctl die c h → t.run = .stopped) ∧
      (∀ p ∈ s'.parts, ∀ e ∈ p.tasks, e.st = .running → ∀ x ∈ s.places, x.die = die → x.asid = p.asid → x.lslot = e.slot →
        e.threadDone = true ∧ e.verdict = 2)) ∧
    PkgStep (.coreRailUp die) s (fun q => q = { s.pkg with railReset := s.pkg.railReset.set die false }) ∧
    (s.pkg.railReset[die]? = some false → PkgStep (.fabricDieTrained die) s (fun q =>
      q = { s.pkg with dieTrained := s.pkg.dieTrained.set die true })) ∧
    (s.pkg.railReset[die]? = some true → exec (.fabricDieTrained die) s = .next s) ∧
    PkgStep (.hbm4eStackTrained n) s (fun q => q = { s.pkg with hbmTrained := s.pkg.hbmTrained.set n true }) ∧
    (s.pkg.pcieStrap[io]? = some true → 1 ≤ gen → gen ≤ 7 → width ∈ [1, 2, 4, 8, 16] → PkgStep (.pcieLinkTrain io gen width) s
      (fun q => q = { s.pkg with pcieLink := s.pkg.pcieLink.set io (gen, width) })) ∧
    (s.pkg.pcieStrap[io]? = some false → exec (.pcieLinkTrain io gen width) s = .next s) ∧
    PkgStep (.ethernetLinkUp io) s (fun q => q.ethUp = s.pkg.ethUp.set io true ∧
      q = { s.pkg with ethUp := q.ethUp, bootstat := q.bootstat, boot := q.boot }) ∧
    (∃ s', exec .powerOnReset s = .next s' ∧ s'.threads = State.reset.threads ∧ s'.parts = [] ∧ s'.mem = [] ∧ s'.net = .reset ∧
      s'.pkg.ident = { s.pkg.ident with pubkey := identityPublic s.pkg.ident } ∧ s'.pkg.bootstat = 0 ∧ s'.pkg.thermtrip = s.pkg.thermtrip &&& 1)

/-- R49-R53: the steps of the boot ROM. A link leads to the wait of 8 s for an address, the offer to the fetch; an attempt
that has no link after 5 s, no address, a bad transfer or an image that a check of R51 refuses fails with its cause; an
image that passes every check is copied to LOADADDR and system core 0 starts at LOADADDR + ENTRY in monitor mode; the retry
timer begins the next attempt, on IO0 for the first four, on IO1 for the next four, and on IO0 from then on. -/
def Sys2Proof.Claims.NetworkBootSteps : Prop :=
  ∀ (s : State) (http : Bool) (img : List Byte),
    let w := s.pkg.bootstat
    let word (q : Pkg) (stage port proto : Nat) : Prop :=
      BootWord q.bootstat stage (w.extractLsb' 24 4).toNat (w.extractLsb' 16 8).toNat port proto
    let port := (w.extractLsb' 15 1).toNat
    let proto := (w.extractLsb' 14 1).toNat
    (RomAt s 0 → PkgStep (.ethernetLinkUp port) s (fun q => word q 1 port proto ∧ q.boot.due = s.cycle + 14000000000)) ∧
    (RomAt s 0 → s.pkg.boot.due ≤ s.cycle → BootFails .bootLinkTimeout s 1) ∧
    (RomAt s 1 → PkgStep (.bootDhcpOffer http) s (fun q => word q 3 port http.toNat)) ∧
    (RomAt s 1 → s.pkg.boot.due ≤ s.cycle → BootFails .bootDhcpTimeout s 2) ∧
    (RomAt s 3 → BootFails (.bootImageFetched false img) s 3) ∧
    (RomAt s 3 → 48 * 2 ^ 20 + 256 < img.length → BootFails (.bootImageFetched true img) s 3) ∧
    (RomAt s 15 → s.pkg.boot.due ≤ s.cycle → PkgStep .bootRetryTimer s (fun q =>
      word q 0 (if 4 ≤ s.pkg.boot.fails ∧ s.pkg.boot.fails < 8 then 1 else 0) proto ∧
      q.boot.due = s.cycle + 8750000000))

/-- R50, R51: of an image of the right size that has come whole, the first failing check gives the cause, and one that
fails none runs. -/
def Sys2Proof.Claims.ImageChecks : Prop :=
  ∀ (s : State) (img : List Byte), RomAt s 3 →
    let num (o n : Nat) : Nat := bytesNat ((img.drop o).take n)
    let load := num 16 8
    let entry := num 24 8
    let len := num 32 4
    let zero (o n : Nat) : Prop := ∀ b ∈ (img.drop o).take n, b = 0
    let body := (img.drop 256).take len
    let key := (img.drop 64).take 64
    let slot := num 6 2
    let id := s.pkg.ident
    let header : Prop := num 0 4 = 0x4B4E4431 ∧ num 4 2 = 1 ∧ slot ≤ 3 ∧ zero 12 4 ∧ zero 36 28 ∧ zero 192 64 ∧
      load % 4096 = 0 ∧ len % 64 = 0 ∧ 64 ≤ len ∧ len ≤ 48 * 2 ^ 20 ∧ load + len ≤ 2 ^ 26 ∧ entry % 4 = 0 ∧ entry < len
    let trusted : Prop := Machine.sha256 key = id.roothash.getD slot 0 ∧ id.revoke.getLsbD slot = false
    let digest := Machine.sha256 (img.take 128 ++ body)
    let signed : Prop := Machine.ecdsaVerify key digest ((img.drop 128).take 64) = true
    let recent : Prop := ((List.range 64).filter (fun k => id.svnfuse.getLsbD k)).length ≤ num 8 4
    img.length = 256 + len → img.length ≤ 48 * 2 ^ 20 + 256 →
    (¬ header → BootFails (.bootImageFetched true img) s 4) ∧
    (header → ¬ trusted → BootFails (.bootImageFetched true img) s 5) ∧
    (header → trusted → ¬ signed → BootFails (.bootImageFetched true img) s 6) ∧
    (header → trusted → signed → ¬ recent → BootFails (.bootImageFetched true img) s 7) ∧
    (header → trusted → signed → recent → ∃ s' u, exec (.bootImageFetched true img) s = .next s' ∧
      s'.sram = memWrite s.sram load body ∧ s'.pkg.fwDigest = digest ∧ s'.pkg.fwSvn = BitVec.ofNat 32 (num 8 4) ∧
      s'.pkg.bootstat.extractLsb' 28 4 = 5 ∧ s'.thread? (.sys 0) = some u ∧ u.run = .running ∧ u.mode = .monitor ∧
      u.pc = BitVec.ofNat 64 (load + entry))

/-- R52, R55: a fuse is blown and never cleared, and a REVOKE that would leave all four slots revoked is ignored; a report
starts at the write, is refused with ERR while one is under way, is written to its buffer, and a write with ERR = 1 clears
ERR alone. -/
def Obligations.FusesAndReports : Prop :=
  ∀ (s : State) (slot : BitVec 2) (bit : BitVec 6) (v : Word) (bs : List Byte),
    let revoked := s.pkg.ident.revoke ||| (1#4 <<< slot.toNat)
    let a := s.pkg.attreq
    (revoked ≠ 15 → PkgStep (.otpRevokeBlow slot) s (fun q => q = { s.pkg with ident := { s.pkg.ident with revoke := revoked } })) ∧
    (revoked = 15 → exec (.otpRevokeBlow slot) s = .next s) ∧
    PkgStep (.otpSvnBlow bit) s (fun q => (q.ident.svnfuse.getLsbD bit.toNat = true ∧
      ∀ k, k ≠ bit.toNat → q.ident.svnfuse.getLsbD k = s.pkg.ident.svnfuse.getLsbD k) ∧
      q = { s.pkg with ident := { s.pkg.ident with svnfuse := q.ident.svnfuse } }) ∧
    PkgStep .attreqErrClear s (fun q => q = { s.pkg with attreq := a &&& ~~~4#64 }) ∧
    (v.getLsbD 2 = true → PkgStep (.attreqReport v) s (fun q => q = { s.pkg with attreq := a &&& ~~~4#64 })) ∧
    (v.getLsbD 2 = false → a.getLsbD 0 = true → PkgStep (.attreqReport v) s (fun q => q = { s.pkg with attreq := a ||| 4#64 })) ∧
    (v.getLsbD 2 = false → a.getLsbD 0 = false →
      let buf := (v.extractLsb' 6 42).toNat * 64
      let nonce := memRead s.mem buf 32
      let rest := (digests s).filter (fun x => bytesNat (memRead s.mem (buf + 32) 2) ≤ x.1)
      let here := rest.take 64
      let next := if rest.length ≤ 64 then 0 else (rest.getD 64 (0, 0)).1
      let body := natBytes 4 0x41545431 ++ natBytes 2 1 ++ natBytes 2 here.length ++ natBytes 4 s.pkg.ident.devid.toNat ++
        natBytes 4 s.pkg.fwSvn.toNat ++ natBytes 2 (digests s).length ++ natBytes 2 next ++ natBytes 12 0 ++ nonce ++
        digestBytes s.pkg.fwDigest ++ digestBytes s.pkg.rtDigest ++
        here.flatMap (fun x => natBytes 2 x.1 ++ natBytes 6 0 ++ digestBytes x.2)
      exec (.attreqReport v) s = .next { s with freeCtr := s.freeCtr + 8, pkg := { s.pkg with
        attreq := (v &&& 0x0000FFFFFFFFFFC0) ||| (a &&& 4) ||| 1
        report := some (body ++ identitySign s.pkg.ident (Machine.sha256 body) s.freeCtr) } }) ∧
    (s.pkg.report = some bs → ∃ s', exec .attestReportDone s = .next s' ∧ s'.mem = memWrite s.mem ((a.extractLsb' 6 42).toNat * 64) bs ∧
      s'.pkg = { s.pkg with attreq := (a &&& ~~~1#64) ||| 2, report := none })

namespace Sys2Proof.Claims

open Sys2Proof.Machine

/-- A step that changes the networks' state alone, and leaves it as `P` says. -/
def NetStep (i : Instr) (s : State) (P : Net → Prop) : Prop :=
  ∃ w : Net, exec i s = .next { s with net := w } ∧ P w

/-- The planes of a network (R24). -/
def planes (net : Nat) : Nat := ([5, 10, 16] : List Nat).getD net 16

/-- The decode slots of an endpoint (R24). -/
def slotsAt (net : Nat) : Nat := ([32, 128, 1024] : List Nat).getD net 1024

/-- The counters of the endpoint a message goes to. -/
def countersOf (w : Net) (key : MsgKey) : NetCnt := w.counter key.net key.ep

/-- One more, held at the greatest value. -/
def oneMore (c : BitVec 32) : BitVec 32 := BitVec.ofNat 32 (min (2 ^ 32 - 1) (c.toNat + 1))

/-- The distance of R33, under the window that the endpoint keeps for the source of a message. -/
def distance (w : Net) (key : MsgKey) : Nat := ((w.window key).h + 65536 - key.msgid) % 65536

/-- The message is finished: its ID is inside the window with its bit set. -/
def Finished (w : Net) (key : MsgKey) : Prop := distance w key ≤ 255 ∧ (w.window key).map.getLsbD (distance w key) = true

/-- NET_LOSS at the requester of a message (R37, R38): a generator finds its element answered by the loss; a running thread
outside a handler, whose scope is not cancelled and that steals nothing, takes the precise trap at its instruction, an access to
memory. Where a timer has run out the request may still be performed, its answer dead. -/
def LossRaised (i : Instr) (s : State) (who : Agent) (n : NetInfo) : Prop :=
  (∀ place port elem, who = .gen place port elem → ∃ s', exec i s = .next s' ∧
    (∃ dead, s'.resps = s.resps.filter (fun r => !r.isOf place port elem) ++ [⟨place, port, elem, .lost n.key n.cls n.bitmap n.timer, dead⟩]) ∧
    (∀ r ∈ s'.reqs, r.isOf place port elem = true → n.timer = true ∧ r.dead.isSome = true) ∧ s'.mem = s.mem ∧ s'.threads = s.threads) ∧
  (∀ t, who = .thread t.id → s.thread? t.id = some t → t.run = .running → t.inh = false → t.wait ≠ .steal →
    (∀ x ∈ s.steals, x.thief ≠ t.id) → (∃ a, (pcInstr s t).bind (pcAccess t) = some a) → threadCancelled s t = false →
    ∃ s1 ev norec, exec i s = .next (syncTrap s1 t 12 0 false norec t.pc ev))

end Sys2Proof.Claims


/-! ### The fragment spray networks (R23-R48) -/

/-- R24-R27, R29, R32, R39, R59: a message between two endpoints of the package, within the length its code allows, goes over
the die mesh where both ends are cores or slices of one die and over the package network otherwise, in the class of its
traffic, BULK above 256 bytes. It leaves as one fragment for each index whose plane is enabled: all of size F, data fragment i
with bytes i·F on, zeros beyond L, the first parity fragment their XOR, each on plane (message ID + n) mod P; the source's
next ID goes up by one. The code is the register's once firmware has written it, the reduced one before (the model's choice
between R39 and R59, assumption 126). -/
def Sys2Proof.Claims.MessageEncoded : Prop :=
  ∀ (s : State) (m : Msg), m.dev = false → endpointOk m.src = true → endpointOk m.dst = true →
    let inDie (e : BitVec 12) : Prop := e.toNat / 256 < 8 ∧ e.toNat % 256 < 96
    let net := if inDie m.src ∧ inDie m.dst ∧ m.src.toNat / 256 = m.dst.toNat / 256 then 0 else 1
    let len := m.body.length
    let cls := if 256 < len then 2 else match m.traffic with | .request => 0 | .response => 1 | .control => 3
    let reg := s.pkg.sprcode.getD (4 * net + cls) 0
    let written := s.pkg.sprWritten.getD (4 * net + cls) false
    let k := if written then (reg.extractLsb' 0 4).toNat else if net = 1 ∧ cls = 2 then 6 else 3
    let par := if written then (reg.extractLsb' 8 3).toNat else if net = 1 ∧ cls = 2 then 4 else 2
    let id := (takeMsgId s net m.src.toNat 0).1
    let size := ((len + k - 1) / k + 31) / 32 * 32
    let plane (n : Nat) : Nat := (id + n) % planes net
    let dataByte (n b : Nat) : Byte := m.body.getD (n * size + b) 0
    0 < len → 1 ≤ k → len ≤ 4096 → len ≤ 512 * k →
    ∃ (s' : State) (pay : Nat → List Byte), exec (.messageEncode m) s = .next s' ∧ s'.mem = s.mem ∧ s'.threads = s.threads ∧
      s'.net.flight = s.net.flight ++ ((List.range (k + par)).filter (fun n => reg.getLsbD (48 + plane n))).map (fun n =>
        { hdr := { msgid := BitVec.ofNat 16 id, src := m.src, dst := m.dst, len := BitVec.ofNat 12 (len - 1), idx := BitVec.ofNat 4 n
                   k := BitVec.ofNat 4 k, m := BitVec.ofNat 3 par, fsz := BitVec.ofNat 4 (size / 32 - 1), cls := BitVec.ofNat 2 cls
                   net := BitVec.ofNat 2 net, retx := 0, seq := m.seq, plane := BitVec.ofNat 4 (plane n), rsv := 0 }
          pay := pay n, io := 0 }) ∧
      (takeMsgId s' net m.src.toNat 0).1 = (id + 1) % 65536 ∧
      (∀ n, n < k + par → (pay n).length = size) ∧
      (∀ n b, n < k → b < size → (pay n)[b]? = some (dataByte n b)) ∧
      (0 < par → ∀ b, b < size → (pay k)[b]? = some ((List.range k).foldl (fun x n => x ^^^ dataByte n b) 0))

/-- R31, R33, R35: a fragment with a flit that fails its CRC, or that fails the header checks, counts as an erasure; a valid
one joins the slot of its message and code, or is dropped as late or as stale, or waits for a slot, or opens one, by the first
row that matches; a plane that a waiting fragment holds brings none. -/
def Sys2Proof.Claims.FragmentArrives : Prop :=
  ∀ (s : State) (i plane : Nat) (errs : List WireErr) (f g : Frag), s.net.flight[i]? = some f →
    let w := { s.net with flight := s.net.flight.eraseIdx i }
    let fs := hurt errs f.flits
    let arrive := NetStep (.fragmentArrive i plane errs) s
    let held : Prop := ∃ x ∈ s.net.ingress, x.1.key.net = f.key.net ∧ x.1.key.ep = f.key.ep ∧ x.1.hdr.plane.toNat = plane
    let erased (q : Net) : Prop := countersOf q f.key = { countersOf s.net f.key with crc := oneMore (countersOf s.net f.key).crc }
    let h := g.hdr
    let good : Prop := h.plane.toNat = plane ∧ 1 ≤ h.k.toNat ∧ h.k.toNat ≤ 14 ∧ h.m.toNat ≤ 4 ∧ h.idx.toNat < h.k.toNat + h.m.toNat ∧ h.rsv = 0
    let slotOpen : Prop := ∃ d ∈ s.net.slots, d.key = g.key
    let d := distance s.net g.key
    let opens : Prop := ¬ slotOpen ∧ ¬ Finished s.net g.key ∧ (d ≤ 255 ∨ 32768 ≤ d)
    let inUse := (s.net.slots.filter (fun d => d.key.net = g.key.net && d.key.ep = g.key.ep)).length
    let fits (x : DSlot) : Prop := x.key = g.key ∧ x.k = h.k.toNat ∧ x.m = h.m.toNat ∧ x.fsz = h.fsz.toNat
    let counts (c : NetCnt) (q : Net) : Prop := q.slots = w.slots ∧ q.flight = w.flight ∧ countersOf q g.key = c
    (held → exec (.fragmentArrive i plane errs) s = .next s) ∧
    (¬ held → (crcGood fs = false → arrive (fun q => erased q ∧ q.slots = w.slots ∧ q.flight = w.flight)) ∧
     (crcGood fs = true → g = (if errs.isEmpty then f else fragOf f.io fs) →
      (¬ good → arrive (fun q => erased q ∧ q.slots = w.slots ∧ q.flight = w.flight)) ∧
      (good → slotOpen → arrive (fun q => q = { w with slots := q.slots } ∧ q.slots.length = w.slots.length ∧
        (∀ x ∈ q.slots, fits x → ∃ y ∈ x.frags, y.1 = h.idx.toNat) ∧ ∀ x ∈ w.slots, ¬ fits x → x ∈ q.slots)) ∧
      (good → ¬ slotOpen → Finished s.net g.key →
        arrive (counts { countersOf s.net g.key with late := oneMore (countersOf s.net g.key).late })) ∧
      (good → ¬ slotOpen → 256 ≤ d → d ≤ 32767 →
        arrive (counts { countersOf s.net g.key with stale := oneMore (countersOf s.net g.key).stale })) ∧
      (good → opens → slotsAt g.key.net ≤ inUse → arrive (fun q => q = { w with ingress := w.ingress ++ [(g, s.cycle)] })) ∧
      (good → opens → inUse < slotsAt g.key.net → arrive (fun q => q = { w with slots := w.slots ++
        [{ key := g.key, len := h.len.toNat + 1, k := h.k.toNat, m := h.m.toNat, fsz := h.fsz.toNat, cls := h.cls.toNat
           seq := h.seq.toNat, frags := [(h.idx.toNat, g.pay)], retx := h.retx = 1
           due := s.cycle + ((s.pkg.sprtmo.getD g.key.net 0).toNat % 2 ^ 32) }] }))))

/-- R34, R35: a slot that holds its k data fragments delivers the message they hold and closes, and the message is
finished; a fragment that waits is let in once a slot is free, its cycles of waiting counted. -/
def Sys2Proof.Claims.MessageDelivered : Prop :=
  ∀ (s : State) (d : DSlot) (size : Nat) (data : List (List Byte)),
    s.net.slots.find? (fun x => x.key = d.key) = some d → d.key.msgid < 65536 →
    data.length = d.k → (∀ x ∈ data, x.length = size) → d.frags.Perm (data.mapIdx (fun n x => (n, x))) →
    (∀ x ∈ s.net.transit, x.1 = some d.key → ∀ p q e, x.2 ≠ .remote p q e) →
    (∃ s', exec (.messageDeliver d.key) s = .next s' ∧ s'.net.slots = s.net.slots.filter (fun x => x.key ≠ d.key) ∧
      s'.net.delivered = s.net.delivered ++ [{ key := d.key, seq := d.seq, body := data.flatten.take d.len, repaired := false }] ∧
      (distance s.net d.key ≤ 255 ∨ 32768 ≤ distance s.net d.key → Finished s'.net d.key) ∧ s'.mem = s.mem) ∧
    (∀ i f t0, s.net.ingress[i]? = some (f, t0) → (∀ x ∈ s.net.slots, x.key ≠ f.key) →
      (s.net.slots.filter (fun x => x.key.net = f.key.net && x.key.ep = f.key.ep)).length < slotsAt f.key.net →
      ¬ Finished s.net f.key → (distance s.net f.key ≤ 255 ∨ 32768 ≤ distance s.net f.key) →
      NetStep (.ingressSlotAdmit i) s (fun q => q.ingress = s.net.ingress.eraseIdx i ∧
        (countersOf q f.key).wait = BitVec.ofNat 32 (min (2 ^ 32 - 1) ((countersOf s.net f.key).wait.toNat + (s.cycle - t0))) ∧
        ∃ x, q.slots = s.net.slots ++ [x] ∧ x.key = f.key ∧ x.frags = [(f.hdr.idx.toNat, f.pay)]))

/-- R36-R38, on the networks of the package: a slot short of k fragments at its timeout closes, NETLOSS counts and a notice
with the bitmap of the fragments held goes back, a CTRL message to the source; a notice that has come and a response timer
that runs out raise NET_LOSS at the requester, the latter with a zero bitmap and the TIMER bit. -/
def Sys2Proof.Claims.MessageLost : Prop :=
  ∀ (s : State) (d : DSlot) (i j : Nat) (n : Notice) (t : Timer),
    (s.net.slots.find? (fun x => x.key = d.key) = some d → d.key.net ≤ 1 → d.frags.length < d.k → d.due ≤ s.cycle →
      NetStep (.decodeTimeout d.key) s (fun q => q.slots = s.net.slots.filter (fun x => x.key ≠ d.key) ∧
        (countersOf q d.key).lost = oneMore (countersOf s.net d.key).lost ∧
        (∃ no b, q.notices = s.net.notices ++ [{ no := no, key := d.key, cls := d.cls, bitmap := b }] ∧
          ∀ k, k < d.k + d.m → (b.testBit k = true ↔ ∃ f ∈ d.frags, f.1 = k)) ∧
        ∃ fr, q.flight = s.net.flight ++ fr ∧ ∀ f ∈ fr, f.hdr.cls = 3 ∧ f.hdr.src = BitVec.ofNat 12 d.key.dst ∧
          f.hdr.dst = BitVec.ofNat 12 d.key.src)) ∧
    (s.net.notices[i]? = some n → s.arrived (.notice n.no) = true → (∀ r ∈ s.net.retain, r.key ≠ n.key) →
      (∀ x ∈ s.net.transit, x.1 ≠ some n.key) → s.net.timers.find? (fun x => x.key = n.key) = some t →
      LossRaised (.lossNoticeReceive i) s t.who { key := n.key, cls := n.cls, bitmap := n.bitmap, timer := false }) ∧
    (s.net.timers[j]? = some t → t.due ≤ s.cycle →
      LossRaised (.responseTimerExpire j) s t.who { key := t.key, cls := t.cls, bitmap := 0, timer := true })

/-- R39, R40, R42: an accepted write of a code register sets its code and its plane mask, with the planes the network has; a
refused one sets ERR alone; one with ERR = 1 clears ERR alone; a write of a counter register clears its two counters at the
endpoint selected. -/
def Sys2Proof.Claims.SprayRegisters : Prop :=
  ∀ (s : State) (io idx : Nat) (v old : Word), idx < 12 → s.pkg.sprcode.length = 12 → s.pkg.sprcodeB.length = 4 →
    let second : Prop := io = 1 ∧ 8 ≤ idx
    let k := (v.extractLsb' 0 4).toNat
    let m := (v.extractLsb' 8 3).toNat
    let p := planes (idx / 4)
    let disabled := ((List.range p).filter (fun i => v.getLsbD (48 + i) = false)).length
    let refused : Prop := k = 0 ∨ 14 < k ∨ 4 < m ∨ (idx < 8 ∧ (p < k + m ∨ m < disabled))
    let becomes (i : Instr) (new : Word) (l : List Bool) : Prop :=
      (second → s.pkg.sprcodeB[idx - 8]? = some old →
        PkgStep i s (fun q => q = { s.pkg with sprcodeB := s.pkg.sprcodeB.set (idx - 8) new, sprWritten := l })) ∧
      (¬ second → s.pkg.sprcode[idx]? = some old →
        PkgStep i s (fun q => q = { s.pkg with sprcode := s.pkg.sprcode.set idx new, sprWritten := l }))
    let was := s.pkg.sprWritten
    becomes (.sprcodeErrClear io idx) (old &&& ~~~(1#64 <<< 40)) was ∧
    (v.getLsbD 40 = true → becomes (.sprcodeWrite io idx v) (old &&& ~~~(1#64 <<< 40)) was) ∧
    (v.getLsbD 40 = false → refused → becomes (.sprcodeWrite io idx v) (old ||| (1#64 <<< 40)) was) ∧
    (v.getLsbD 40 = false → ¬ refused → becomes (.sprcodeWrite io idx v)
      ((v &&& ((BitVec.ofNat 64 (2 ^ p - 1) <<< 48) ||| 0x70F)) ||| (old &&& (1#64 <<< 40))) (was.set idx true)) ∧
    (let net := (s.pkg.sprsel.extractLsb' 12 2).toNat
     let group := (s.pkg.sprsel.extractLsb' 0 12).toNat
     let ep := if net = 2 then 4096 * (s.pkg.ident.devid.toNat + 1) + group else group
     let c := s.net.counter net ep
     NetStep (.sprcntWrite 0) s (fun q => q.counter net ep = { c with late := 0, stale := 0 }) ∧
     NetStep (.sprcntWrite 1) s (fun q => q.counter net ep = { c with crc := 0, repaired := 0 }) ∧
     NetStep (.sprcntWrite 2) s (fun q => q.counter net ep = { c with lost := 0, wait := 0 } ∧
       ∀ x ∈ q.ingress, x.1.key.net = net → x.1.key.ep = ep → x.2 = s.cycle))

/-- R12, R13, R43-R46: a Brosum port trains with 8 good lanes or at half rate with 4, when the versions meet, and stays down
otherwise; a port that goes down takes the fragments on it with it; after 64 messages or 1,024 cycles the finished IDs are
acknowledged; an acknowledgement that has come frees the copies it names; a copy neither acknowledged nor lost within twice
the timeout is sent again once, under its ID and its code. -/
def Obligations.BrosumLinks : Prop :=
  ∀ (s : State) (p lanes : Nat) (cap : Word) (i : Nat) (o : Owed) (a : BackAck) (r : Retain),
    let maj := min 1 (cap.extractLsb' 56 8).toNat
    let meets : Prop := 1 ≤ maj ∧ (cap.extractLsb' 40 8).toNat ≤ maj
    let port (b : BPort) : Prop := PkgStep (.brosumPortTrain p lanes cap) s (fun q => q = { s.pkg with bports := s.pkg.bports.set p b })
    let ids (w : Net) (l : List Nat) (io dst src : Nat) : Prop :=
      ∀ id, id < 65536 → (id ∈ l ↔ Finished w { net := 2, src := src, dst := dst, msgid := id, io := io })
    (meets → 4 ≤ lanes → port { lanes := if lanes < 8 then 4 else 8, peer := (cap.extractLsb' 28 12).toNat, cap := cap,
                                mismatch := false, joined := false }) ∧
    (¬ meets → 4 ≤ lanes → port { lanes := 0, peer := 0, cap := cap, mismatch := true, joined := false }) ∧
    (lanes < 4 → ∀ b, s.pkg.bports[p]? = some b → port { lanes := 0, peer := 0, cap := cap, mismatch := b.mismatch, joined := false }) ∧
    (∀ b, s.pkg.bports[p]? = some b → ∃ s', exec (.brosumPortDown p) s = .next s' ∧
      s'.pkg.bports = s.pkg.bports.set p { b with lanes := 0, joined := false } ∧
      ∀ f, f ∈ s'.net.flight ↔ f ∈ s.net.flight ∧ ¬ (f.hdr.net = 2 ∧ f.io = p / 16 ∧ f.hdr.plane.toNat = p % 16)) ∧
    (s.net.owed.find? (fun x => x.io = o.io && x.dst = o.dst && x.src = o.src) = some o → (64 ≤ o.n ∨ o.since + 1024 ≤ s.cycle) →
      ∃ s' no l, exec (.brosumAckSend ⟨o.io, o.dst⟩ o.src) s = .next s' ∧ ids s.net l o.io o.dst o.src ∧ s'.mem = s.mem ∧
        s'.net.acks = s.net.acks ++ [{ no := no, io := o.io, dst := o.dst, src := o.src, ids := l }]) ∧
    (s.net.acks[i]? = some a → s.arrived (.ack a.no) = true → NetStep (.brosumAckReceive i) s (fun q => q.acks = s.net.acks.eraseIdx i ∧
      ∀ x, x ∈ q.retain ↔ x ∈ s.net.retain ∧ ¬ (x.key.io = a.io ∧ x.key.src = a.src ∧ x.key.dst = a.dst ∧ x.key.msgid ∈ a.ids))) ∧
    (s.net.retain[i]? = some r → s.net.retain.Nodup → r.sentAt + 2 * ((s.pkg.sprtmo.getD 2 0).toNat % 2 ^ 32) ≤ s.cycle →
      (r.retx = false → r.code.m + 1 ≤ (r.code.members.filter (fun k => (spraySet s r.key.io r.cls (msgFar s r.msg)).contains k)).length →
        NetStep (.brosumRetainTimeout i) s (fun q => q.retain[i]? = some { r with retx := true, sentAt := s.cycle } ∧
          ∃ fr, q.flight = s.net.flight ++ fr ∧ ∀ f ∈ fr, f.hdr.retx = 1 ∧ f.hdr.src = r.msg.src ∧ f.hdr.dst = r.msg.dst ∧
            f.hdr.msgid = BitVec.ofNat 16 r.key.msgid ∧ f.hdr.k = BitVec.ofNat 4 r.code.k ∧ f.hdr.m = BitVec.ofNat 3 r.code.m)) ∧
      (r.retx = true → exec (.brosumRetainTimeout i) s = .next (lossOf s r.loss)))

namespace Sys2Proof.Claims

open Sys2Proof.Machine

/-- The machine once PARTCMD holds a command that is written while no command is under way. -/
def commanded (s : State) (v : Word) : State :=
  s.updPkg (fun k => { k with partcmd := (v &&& ~~~3#64) ||| (k.partcmd &&& 2#64) })

/-- A write of PARTCMD that is accepted as a command: its OP, with ERR 0, while BUSY is 0. -/
def Accepted (s : State) (v : Word) (op : BitVec 3) : Prop :=
  v.extractLsb' 3 3 = op ∧ v.getLsbD 1 = false ∧ s.pkg.partcmd.getLsbD 0 = false

/-- PARTSTAT names a partition, a RESULT and the state it is in. -/
def Told (s' : State) (asid result state : Nat) : Prop :=
  s'.pkg.partstat = BitVec.ofNat 64 (asid * 2 ^ 48 + result * 16 + state)

/-- PARTSTAT's code of a partition's state (R64). -/
def stateNo : PState → Nat
  | .running => 1 | .halting => 2 | .halted => 3 | .stored => 4 | .drained => 5

/-- A step after which `P` holds. -/
def StepTo (i : Instr) (s : State) (P : State → Prop) : Prop := ∃ s', exec i s = .next s' ∧ P s'

/-- A region of a launch that has come to rest: no instance, every unit past its EOT, no command, nothing held, no request. -/
def Rested (s : State) (x : Place) : Prop :=
  x.inst = none ∧ placeQuiet s x = true ∧ portsIdle x = true ∧ rbClear x = true ∧ noTraffic s x.id = true

end Sys2Proof.Claims


/-! ### Partitions and the dispatcher (R62-R66, R73-R83, R102, R103) -/

/-- R63-R65: CREATE from a valid record, with a catalogue in order, an unused ASID, fewer than 512 partitions and free planes,
makes the partition: RUNNING in the active planes, STORED in the storeroom planes, with no launch and scope 0 alone. A bad
record is 1, a plane in use 2, an ASID in use 3, a full table 5. While a command is under way a write is ignored and sets
ERR; a write with ERR = 1 clears ERR alone. -/
def Sys2Proof.Claims.PartitionCreate : Prop :=
  ∀ (s : State) (v : Word) (r : PartRec),
    let s0 := commanded s v
    let fresh := freshPart r s.cycle
    let trial := { s0 with parts := fresh :: s0.parts.filter (fun q => q.asid ≠ r.asid) }
    let refused (code state : Nat) : Prop :=
      StepTo (.partcmdCreate v) s (fun s' => s'.parts = s.parts ∧ Told s' r.asid code state)
    let usable : Prop := ∀ x ∈ r.rects, s.dieUsable x.die = true
    (Accepted s v 0 → (recBytes s0 ((v.extractLsb' 6 42).toNat * 64)).map partRec = some r →
      (r.ok = false ∨ ¬ usable → partOf s r.asid = none → refused 1 0) ∧
      (r.ok = true → usable → catCheck trial r.asid r.catbase r.catcount 0 = none →
        (∀ p, partOf s r.asid = some p → refused 3 (stateNo p.st)) ∧
        (partOf s r.asid = none → 512 ≤ s.parts.length → refused 5 0) ∧
        (partOf s r.asid = none → s.parts.length < 512 →
          (planeTaken s fresh (r.plane = 1) = true → refused 2 0) ∧
          (r.plane = 1 → claimPlanes s0 fresh = none → refused 2 0) ∧
          (planeTaken s fresh (r.plane = 1) = false → (r.plane = 1 → planedRows s0 fresh = []) →
            StepTo (.partcmdCreate v) s (fun s' => Told s' r.asid 0 (if r.plane = 0 then 1 else 4) ∧
              ∃ p : Partition, s'.parts = s.parts ++ [p] ∧ p.asid = r.asid ∧ p.rects = r.rects ∧ p.ptroot = r.ptroot ∧ p.catbase = r.catbase ∧
                p.catcount = r.catcount ∧ p.homedie = r.homedie ∧ p.homecore = r.homecore ∧ p.tasks = [] ∧
                p.st = (if r.plane = 0 then PState.running else PState.stored) ∧
                p.scopes = [{ id := 0, parent := 0, cancelled := false, work := 0 }]))))) ∧
    (∀ i ∈ [Instr.partcmdCreate v, .partcmdDestroy v, .partcmdHalt v, .partcmdResume v, .partcmdDrain v, .partcmdFill v],
      (i = .partcmdCreate v ∧ v.extractLsb' 3 3 = 0 ∨ i = .partcmdDestroy v ∧ v.extractLsb' 3 3 = 1 ∨
        i = .partcmdHalt v ∧ v.extractLsb' 3 3 = 2 ∨ i = .partcmdResume v ∧ v.extractLsb' 3 3 = 3 ∨
        i = .partcmdDrain v ∧ v.extractLsb' 3 3 = 4 ∨ i = .partcmdFill v ∧ v.extractLsb' 3 3 = 5) →
      v.getLsbD 1 = false → s.pkg.partcmd.getLsbD 0 = true →
      PkgStep i s (fun q => q = { s.pkg with partcmd := s.pkg.partcmd ||| 2#64 })) ∧
    PkgStep .partcmdErrClear s (fun q => q = { s.pkg with partcmd := s.pkg.partcmd &&& ~~~2#64 })

/-- R64, R65, R83: DESTROY of a partition at rest removes it with its places and threads, and is BADSTATE, 4, of one that
runs; HALT freezes its threads and makes it HALTING, and HALTED once nothing of it is on its way; RESUME makes it RUNNING
again with its threads unfrozen; DRAIN of a STORED partition keeps BUSY set until the copy is done, and it is then DRAINED;
FILL gives it back as STORED. -/
def Sys2Proof.Claims.PartitionLife : Prop :=
  ∀ (s : State) (v : Word) (p : Partition), partOf s p.asid = some p →
    let named : Prop := (v.extractLsb' 48 16).toNat = p.asid
    let addr := (v.extractLsb' 6 42).toNat * 64
    let frozen (s' : State) (b : Bool) : Prop := ∀ t ∈ s'.threads, t.asid = p.asid → t.frozen = b
    let isIn (s' : State) (st : PState) : Prop := ∃ q, partOf s' p.asid = some q ∧ q.st = st
    (Accepted s v 1 → named → p.st ∈ [PState.halted, .stored, .drained] →
      StepTo (.partcmdDestroy v) s (fun s' => Told s' p.asid 0 0 ∧ s'.parts = s.parts.filter (fun q => q.asid ≠ p.asid) ∧
        s'.places = s.places.filter (fun x => x.asid ≠ p.asid) ∧ s'.mem = s.mem ∧
        ∀ t ∈ s'.threads, t.asid = p.asid → t.id.isSys = true)) ∧
    (Accepted s v 1 → named → p.st ∈ [PState.running, .halting] →
      StepTo (.partcmdDestroy v) s (fun s' => Told s' p.asid 4 (stateNo p.st) ∧ s'.parts = s.parts)) ∧
    (Accepted s v 2 → named → p.st = .running → (∀ x ∈ s.places, x.rb = none) →
      StepTo (.partcmdHalt v) s (fun s' => Told s' p.asid 0 2 ∧ isIn s' .halting ∧ frozen s' true ∧ s'.mem = s.mem)) ∧
    (p.st = .halting → haltMet s p = true → StepTo (.partitionHalted p.asid) s (fun s' => isIn s' .halted ∧ s'.mem = s.mem ∧
      s'.threads = s.threads)) ∧
    (Accepted s v 3 → named → p.st = .halted → (∀ x ∈ s.places, x.rb = none) →
      StepTo (.partcmdResume v) s (fun s' => Told s' p.asid 0 1 ∧ isIn s' .running ∧ frozen s' false ∧ s'.mem = s.mem)) ∧
    (Accepted s v 4 → named → p.st = .stored →
      StepTo (.partcmdDrain v) s (fun s' => s'.pkg.partcmd.getLsbD 0 = true ∧ s'.pkg.copying = some { asid := p.asid, addr := addr, record := [] } ∧ s'.parts = s.parts)) ∧
    (s.pkg.copying = some { asid := p.asid, addr := addr, record := [] } →
      StepTo .partitionCopyDone s (fun s' => Told s' p.asid 0 5 ∧ s'.pkg.partcmd.getLsbD 0 = false ∧
        partOf s' p.asid = some { p with st := .drained })) ∧
    (Accepted s v 5 → (v.extractLsb' 48 16) = 0 → PkgStep (.partcmdFill v) s (fun q => q.fillRec = some addr)) ∧
    (∀ rec_ bs, Accepted s v 5 → named → p.asid ≠ 0 → p.st = .drained → s.pkg.fillRec = some rec_ →
      recBytes (commanded s v) rec_ = some bs → (partRec bs).ok = true → (partRec bs).asid = p.asid → sameShape p (partRec bs) = true →
      canMove s p (partRec bs) = true → planeTaken s { p with rects := (partRec bs).rects } true = false →
      StepTo (.partcmdFill v) s (fun s' => s'.pkg.partcmd.getLsbD 0 = true ∧
        s'.pkg.copying = some { asid := p.asid, addr := addr, record := bs } ∧ s'.parts = s.parts)) ∧
    (∀ bs s1, s.pkg.copying = some { asid := p.asid, addr := addr, record := bs } → bs ≠ [] →
      s1 = setPartBusy (s.updPkg (fun k => { k with copying := none })) false →
      let s2 := movePartition s1 p (partRec bs)
      ∀ m, partOf s2 p.asid = some m →
        (catCheck s2 p.asid m.catbase m.catcount 0 = none → planedRows s2 m = [] →
          StepTo .partitionCopyDone s (fun s' => Told s' p.asid 0 4 ∧ ∃ q, partOf s' p.asid = some q ∧ q.st = .stored ∧
            q.rects = (partRec bs).rects ∧ q.ptroot = (partRec bs).ptroot ∧ q.catbase = (partRec bs).catbase)) ∧
        (catCheck s2 p.asid m.catbase m.catcount 0 ≠ none →
          StepTo .partitionCopyDone s (fun s' => Told s' p.asid 1 (stateNo p.st) ∧ s'.parts = s.parts)))

/-- R66, R345: 875 cycles after it was accepted a swap ends, with the result that its set's state then gives. With OK it exchanges
the planes of its set: its HALTED partitions are STORED, with no launch thread left in the active planes, its STORED partitions
are HALTED with theirs back. -/
def Sys2Proof.Claims.SwapCompletes : Prop :=
  ∀ (s : State) (t : Thread) (asid due : Nat) (d : Reg), s.thread? t.id = some t → t.id.isSys = true →
    t.wait = .swapp asid due d → due ≤ s.cycle →
    StepTo (.swapPlanesDone t.id) s (fun s' =>
      (∃ u, s'.thread? t.id = some u ∧ Reports t u d 0x30 4 (swapCode s asid) 0) ∧ s'.mem = s.mem ∧
      (swapCode s asid ≠ 0 → s'.parts = s.parts ∧ ∀ id, id ≠ t.id → s'.thread? id = s.thread? id) ∧
      ∀ p, swapCode s asid = 0 → (s.parts.map (fun q => q.asid)).Nodup → partOf s asid = some p → ∀ q ∈ swapSetOf s p,
        ∃ q', partOf s' q.asid = some q' ∧
          (q.st = .halted → q'.st = .stored ∧ ∀ u ∈ s.threads, u.id.isSys = false → u.asid = q.asid → u ∈ q'.parked) ∧
          (q.st = .stored → q'.st = .halted ∧ q'.parked = [] ∧ ∀ u ∈ q.parked, u.id.isSys = false → u ∈ s'.threads))

/-- R75-R79: of the ready queues the dispatcher serves, the head of the highest whose folio is cached and has a free region
starts: its region is placed at the origin found, its entry thread begins at ENTRY in user mode with g1 = ARG and g2 = the
launch ID and every other register zero, and the entry is RUNNING; heads above it stay blocked. A launch that has waited
4,096 cycles more moves to the tail of the next queue; a head blocked for 16,384 cycles holds the queues below it back; the
region's power-up makes it ready. -/
def Sys2Proof.Claims.DispatcherSteps : Prop :=
  ∀ (s : State) (p : Partition) (e : TgEntry) (f : Folio) (lvl die gx gy : Nat), partOf s p.asid = some p → p.task? e.slot = some e →
    (p.st = .running → (∀ c, p.lastStart = some c → c + 8 ≤ s.cycle) → lvl ∈ p.levels s.cycle → p.headOf lvl s.cycle = some e →
      (∀ l ∈ p.levels s.cycle, lvl < l → ∀ b, p.headOf l s.cycle = some b →
        b.folio < p.catcount ∧ ∃ g, p.cached p.homedie p.homecore b.folio = some g ∧ findRegion s p g = none) →
      e.folio < p.catcount → p.cached p.homedie p.homecore e.folio = some f →
      findRegion s p f = some (die, gx, gy) → f.bad p.catcount (some (gx, gy)) = none →
      StepTo (.dispatch p.asid) s (fun s' => s'.mem = s.mem ∧ s'.pkg = s.pkg ∧
        (∃ t n, s'.threads = s.threads.filter (fun u => u.id ≠ t.id) ++ [t] ∧ t.id = .ctl die (8 * (gy / 4) + gx / 4) n ∧ n < 4 ∧
          (∀ u ∈ s.threads, u.id = t.id → u.idle = true) ∧
          t.run = .running ∧ t.mode = .user ∧ t.pc = BitVec.ofNat 64 e.entry ∧ t.reg 1 = e.arg ∧
          t.reg 2 = BitVec.ofNat 64 (lidOf e.gen e.slot) ∧ (∀ r : Reg, r ≠ 1 → r ≠ 2 → t.reg r = 0) ∧ t.scope = e.scope ∧ t.asid = p.asid ∧
          t.place = s.nextPlace ∧ t.lslot = e.slot) ∧
        (∃ x, s'.places = s.places ++ [x] ∧ x.id = s.nextPlace ∧ x.asid = p.asid ∧ x.die = die ∧ x.gx = gx ∧ x.gy = gy ∧ x.gw = f.w ∧
          x.gh = f.h ∧ x.slots = [some f, none, none, none] ∧ x.lslot = e.slot ∧ x.scope = e.scope ∧ x.inst = none) ∧
        ∃ q e', partOf s' p.asid = some q ∧ q.task? e.slot = some e' ∧ e'.st = .running ∧ e'.place = some s.nextPlace ∧
          e'.startCycle = s.cycle)) ∧
    (p.st = .running ∨ p.st = .halting → e.st = .ready → e.level < 7 → e.readyAt + 4096 * (e.level - e.prio + 1) ≤ s.cycle →
      exec (.launchAging p.asid e.slot) s = .next (s.setPart (p.updTask e.slot (fun x =>
        { x with level := x.level + 1, joined := x.dueAt, was := some (s.cycle, x.seen s.cycle), blockedAt := none, capped := false })))) ∧
    (p.st = .running → p.headOf lvl s.cycle = some e → (∀ c, e.blockedAt = some c → c + 16384 ≤ s.cycle) → e.blockedAt.isSome = true →
      exec (.headBlockLimit p.asid lvl) s = .next (s.updTask p.asid e.slot (fun x => { x with capped := true }))) ∧
    (∀ x, s.place? x.id = some x → x.asid = p.asid → x.inst = none → p.st.active = true →
      exec (.folioPowerReady x.id) s = .next (s.updPlace x.id (fun y => { y with ready := true })))

/-- R73, R74: a launch whose entry thread has ended and whose regions have all come to rest completes: its entry is COMPLETE,
its regions and its threads are gone, and the granules are free again. -/
def Sys2Proof.Claims.LaunchCompletes : Prop :=
  ∀ (s : State) (p : Partition) (e : TgEntry), partOf s p.asid = some p → p.task? e.slot = some e → e.st = .running →
    e.threadDone = true → e.killed = false →
    (∀ t ∈ s.threads, t.asid = p.asid → t.lslot = e.slot → t.id.isSys = false → t.stbuf = []) → (∀ x ∈ s.places, x.asid = p.asid → x.lslot = e.slot → Rested s x) →
    StepTo (.launchComplete p.asid e.slot) s (fun s' =>
      (∀ x ∈ s'.places, ¬ (x.asid = p.asid ∧ x.lslot = e.slot)) ∧
      (∀ x ∈ s.places, ¬ (x.asid = p.asid ∧ x.lslot = e.slot) → (∀ y ∈ s.places, y.id = x.id → y = x) → ∃ y ∈ s'.places, y.id = x.id) ∧
      (∀ t ∈ s'.threads, t.asid = p.asid → t.lslot = e.slot → t.id.isSys = true) ∧
      ∃ q e', partOf s' p.asid = some q ∧ q.task? e.slot = some e' ∧ e'.st = .complete ∧ e'.gen = e.gen ∧
        ((∀ x ∈ p.tasks, x.slot = e.slot → x = e) → e'.status = e.status ∧ e'.verdict = e.verdict))

/-- R80-R82, R331: at the end of a segment the block that FSEL has selected is chosen, else one passed over sixteen times, else
the one with the longest WAIT; with every WAIT 0 the region idles, and the first block to receive a record is taken; the region
then runs it from its configuration. -/
def Sys2Proof.Claims.BlockChosen : Prop :=
  ∀ (s : State) (p : Place) (b : Nat), s.place? p.id = some p → p.inst = none → placeMoves s p = true → placeDrained s p = true →
    (p.chosen = none → p.sched ≠ some p.begun → p.sel = some b →
      StepTo (.blockSchedule p.id) s (fun s' => ∃ q, s'.place? p.id = some q ∧ q.chosen = (if b = p.run then none else some b) ∧
        q.sel = none ∧ q.run = p.run ∧ q.ports = p.ports ∧ s'.sites = s.sites)) ∧
    (p.chosen = none → p.sched ≠ some p.begun → p.sel = none → p.idle = false → b ∈ p.blocks → (∀ c ∈ p.blocks, p.passc.getD c 0 ≠ 16) →
      0 < p.waitOf b → (∀ c ∈ p.blocks, p.waitOf c < p.waitOf b ∨ (p.waitOf c = p.waitOf b ∧ b ≤ c)) →
      StepTo (.blockSchedule p.id) s (fun s' => ∃ q, s'.place? p.id = some q ∧ q.chosen = (if b = p.run then none else some b) ∧
        (∀ c, c < 4 → q.passc.getD c 0 = if c = b then 0 else if c ∈ p.blocks ∧ 0 < p.waitOf c then min 16 (p.passc.getD c 0 + 1) else p.passc.getD c 0))) ∧
    (p.chosen = none → p.sched ≠ some p.begun → p.sel = none → p.idle = false → b ∈ p.blocks → p.passc.getD b 0 = 16 →
      (∀ c ∈ p.blocks, p.passc.getD c 0 = 16 → b ≤ c) →
      StepTo (.blockSchedule p.id) s (fun s' => ∃ q, s'.place? p.id = some q ∧ q.chosen = (if b = p.run then none else some b))) ∧
    (p.chosen = none → p.sched ≠ some p.begun → p.sel = none → p.idle = false → (∀ c ∈ p.blocks, p.waitOf c = 0) →
      (∀ c ∈ p.blocks, p.passc.getD c 0 ≠ 16) →
      StepTo (.blockSchedule p.id) s (fun s' => ∃ q, s'.place? p.id = some q ∧ q.chosen = none ∧ q.idle = true ∧ q.run = p.run)) ∧
    (p.chosen = none → p.sched ≠ some p.begun → p.sel = none → p.idle = true → p.first = some b →
      StepTo (.blockSchedule p.id) s (fun s' => ∃ q, s'.place? p.id = some q ∧ q.chosen = (if b = p.run then none else some b) ∧
        q.idle = false)) ∧
    (∀ f, p.chosen = some b → p.slots.getD b none = some f →
      StepTo (.contextSwitch p.id) s (fun s' => ∃ q, s'.place? p.id = some q ∧ q.run = b ∧ q.chosen = none ∧
        (s'.sites.filter (fun x => x.node.place = p.id)).map (fun x => (x.node.x, x.node.y)) = f.cells.map (fun c => (c.x, c.y)) ∧
        (∀ x ∈ s'.sites, x.node.place = p.id → x.ina = [] ∧ x.inb = [] ∧ x.inc = [] ∧ x.out = [])))

/-- R130, R420: a folded footprint whose logical instance has been struck runs the next one, once a token waits on one of its
argument lines or it takes none. -/
def Sys2Proof.Claims.FoldedTurn : Prop :=
  ∀ (s : State) (p : Place) (i : Inst) (f : Folio), s.place? p.id = some p → p.inst = some i → placeMoves s p = true →
    i.struck = true → i.cur + 1 < i.logical.length → (i.args = [] ∨ ∃ k ∈ i.args, guyLine s p.asid k ≠ []) →
    p.slots.getD (i.cur + 1) none = some f →
    StepTo (.contextSwitch p.id) s (fun s' => ∃ q j, s'.place? p.id = some q ∧ q.run = i.cur + 1 ∧ q.inst = some j ∧
      j.cur = i.cur + 1 ∧ j.struck = false ∧
      (s'.sites.filter (fun x => x.node.place = p.id)).map (fun x => (x.node.x, x.node.y)) = f.cells.map (fun c => (c.x, c.y)))

/-- R102, R103: after 65,536 cycles of silence, with every live thread of a running partition in a census wait and one waiter
at least, a thread or a pitch, WAIT_DEADLOCK is posted to its supervisor, and the silence begins again; without a census
area the trap says that no record was written. A ring agent that waits counts as activity. -/
def Sys2Proof.Claims.WaitCensus : Prop :=
  ∀ (s : State) (p : Partition) (v : Thread), partOf s p.asid = some p → p.st = .running → p.silent + 65536 ≤ s.cycle →
    (∀ r ∈ s.rings, r.asid = p.asid → r.stored = false) →
    (∀ u ∈ s.threads, u.asid = p.asid → u.run = .running → (threadCensus u).isSome = true) →
    ((∃ u ∈ s.threads, u.asid = p.asid ∧ u.run = .running) ∨ p.pitches ≠ []) →
    s.thread? (supervisorOf s p.asid) = some v →
    let agent : Prop := ∃ r ∈ s.rings, r.asid = p.asid ∧ ∃ w ∈ r.waiters, ∃ io n, w.who = .ring io n
    (¬ agent → StepTo (.waitDeadlock p.asid) s (fun s' => (∃ q, partOf s' p.asid = some q ∧ q.silent = s.cycle) ∧
      ∃ v', s'.thread? v.id = some v' ∧ (v.run ≠ .stopped → v.run ≠ .ended → ∃ a, v'.async = v.async ++ [a] ∧ a.code = 38 ∧ a.asid = p.asid ∧
        (p.census.extractLsb' 12 36 = 0 → a.norec = true ∧ s'.mem = s.mem)))) ∧
    (agent → exec (.waitDeadlock p.asid) s = .next (stir s p.asid))


/-! ### The catalogue and the Curators (R121-R136, R141) -/

/-- R121-R123: a write of CATCTL names a partition and a count and starts a load; no such partition is RESULT 4, a count above
256 RESULT 5, and a write during a load sets ERR. A load that finds every entry in order gives the partition its new
catalogue, with an empty cache and no warm footprint; one that does not changes RESULT and INDEX alone. A fetch that finds
its image in order leaves the routine in the core's cache, where none there is pinned. -/
def Sys2Proof.Claims.CatalogueLoads : Prop :=
  ∀ (s : State) (v : Word) (p : Partition) (base count die core routine : Nat) (f : Folio), partOf s p.asid = some p →
    let c := s.pkg.catctl
    let fields := (v &&& 0xFFFF01FF00000000) ||| (c &&& 2)
    let idle : Prop := c.getLsbD 0 = false
    let s1 := (s.updPkg (fun k => { k with catJob := none })).updPart p.asid (fun q => { q with loading := false })
    let word (w : Word) (result index busy : Nat) : Prop :=
      w.extractLsb' 4 4 = BitVec.ofNat 4 result ∧ w.extractLsb' 24 8 = BitVec.ofNat 8 index ∧ w.extractLsb' 0 1 = BitVec.ofNat 1 busy
    (idle → (v.extractLsb' 48 16).toNat = p.asid → (v.extractLsb' 32 9).toNat ≤ 256 →
      StepTo (.catctlLoad v) s (fun s' => s'.pkg.catctl = fields ||| 1 ∧
        s'.pkg.catJob = some (p.asid, (s.pkg.catbase2.extractLsb' 6 42).toNat * 64, (v.extractLsb' 32 9).toNat) ∧
        ∃ q, partOf s' p.asid = some q ∧ q = { p with loading := true })) ∧
    (idle → partOf s (v.extractLsb' 48 16).toNat = none → PkgStep (.catctlLoad v) s (fun q => q = { s.pkg with catctl := fields ||| 0x40 })) ∧
    (idle → (v.extractLsb' 48 16).toNat = p.asid → 256 < (v.extractLsb' 32 9).toNat →
      PkgStep (.catctlLoad v) s (fun q => q = { s.pkg with catctl := fields ||| 0x50 })) ∧
    (c.getLsbD 0 = true → PkgStep (.catctlLoad v) s (fun q => q = { s.pkg with catctl := c ||| 2 })) ∧
    PkgStep .catctlErrClear s (fun q => q = { s.pkg with catctl := c &&& ~~~2#64 }) ∧
    (s.pkg.catJob = some (p.asid, base, count) → catCheck s1 p.asid base count 0 = none →
      StepTo .catalogueLoadDone s (fun s' => word s'.pkg.catctl 0 0 0 ∧ s'.pkg.catJob = none ∧ (∀ w ∈ s'.warm, w.asid ≠ p.asid) ∧
        ∃ q, partOf s' p.asid = some q ∧ q.catbase = base ∧ q.catcount = count ∧ q.cache = [] ∧ q.loading = false ∧
          (∃ d, q.digest = some d) ∧ q.tasks = p.tasks ∧ q.scopes = p.scopes)) ∧
    (∀ result index, s.pkg.catJob = some (p.asid, base, count) → catCheck s1 p.asid base count 0 = some (result, index) →
      StepTo .catalogueLoadDone s (fun s' => word s'.pkg.catctl result index 0 ∧ s'.warm = s.warm ∧
        partOf s' p.asid = some { p with loading := false })) ∧
    (p.loading = false → (die, core, routine) ∈ p.fetching →
      fetchFolio (s.updPart p.asid (fun q => { q with fetching := q.fetching.filter (fun y => y ≠ (die, core, routine)) })) p routine none = .folio f →
      (∀ bs, readImage (s.updPart p.asid (fun q => { q with fetching := q.fetching.filter (fun y => y ≠ (die, core, routine)) })) p routine = some bs →
        bs.length ≤ 65536) →
      (p.cache.filter (fun e => e.die = die && e.core = core)).length ≤ 16 → (∀ e ∈ p.cache, pinned s p.asid e = false) →
      StepTo (.catalogueFetchDone p.asid die core routine) s (fun s' => s'.places = s.places ∧ s'.threads = s.threads ∧
        ∃ q, partOf s' p.asid = some q ∧ q.cached die core routine = some f ∧ (die, core, routine) ∉ q.fetching))

/-- R125, R127-R129, R133, R137: the head of the queue whose turn it is. A pitch whose routine is cached is granted on the
footprints found, as many as it asks for, or, for a FOLDABLE routine, those a stow has freed for it or at least one: its
logical instances are dealt to them in turn, each placed for its caller with its route IDs, and the request leaves the
queue. An unstow takes the first passing candidate around the instance's former origin, and its copy begins. -/
def Sys2Proof.Claims.CuratorServes : Prop :=
  ∀ (s : State) (p : Partition) (core : Nat) (r : PitchReq) (rest : List PitchReq) (x : Place) (f : Folio) (o : Nat × Nat),
    partOf s p.asid = some p → p.st = .running → p.loading = false → p.nextQueue = some core → p.queueOf core = r :: rest →
    let s1 := s.updPart p.asid (fun q => { q with rrCore := core })
    let here := x.at_ r.node.x r.node.y
    let freed := pick (passes s1 p x.die f []) f (p.idsFor f r.k) [] r.freed
    let found := findFootprints s1 p x.die f (candidates (here.1 / 4) (here.2 / 4)) freed r.k
    let os := if f.foldable = true ∧ freed ≠ [] then freed else found
    (r.unstow = none → r.stowing = none → s.place? r.node.place = some x → (∀ y ∈ s.places, y.id < s.nextPlace) →
      r.routine < p.catcount → p.cached (r.core / 32) (r.core % 32) r.routine = some f →
      r.k ≤ os.length ∨ (f.foldable = true ∧ os ≠ []) → os.findSome? (fun o => f.bad p.catcount (some o)) = none →
      os.length * (f.narg + f.nres) + p.poolUsed.length ≤ 1024 →
      StepTo (.curatorServeHead p.asid core) s (fun s' =>
        (∀ j o, os[j]? = some o → ∃ y i, s'.place? (s.nextPlace + j) = some y ∧ y.inst = some i ∧ i.caller = r.node ∧ i.call = r.call ∧
          i.logical = (List.range r.k).filter (fun n => n % os.length = j) ∧ i.st = .awake ∧ i.args.length = f.narg ∧
          i.results.length = f.nres ∧ y.asid = p.asid ∧ y.die = x.die ∧ (y.gx, y.gy) = o ∧ y.slots.getD 0 none = some f ∧
          y.lslot = x.lslot ∧ y.scope = x.scope) ∧
        ∃ q, partOf s' p.asid = some q ∧ q.rrCore = core ∧ q.curq.length + 1 = p.curq.length)) ∧
    (∀ i, r.unstow = some x.id → s.place? x.id = some x → x.inst = some i → i.st = .stowed → x.shape = some f →
      (candidates x.gx x.gy).find? (passes s1 p x.die f []) = some o →
      StepTo (.curatorServeHead p.asid core) s (fun s' =>
        (∃ y, s'.place? x.id = some y ∧ (y.gx, y.gy) = o ∧ y.inst = some { i with st := .unstowing }) ∧
        ∃ q, partOf s' p.asid = some q ∧ q.curq.length + 1 = p.curq.length))

/-- R131-R134: once the copies of a request's victims have completed they are stowed and the request is served, where the
Curator grants, has its image and has the route IDs; until then their footprints are kept for it. A result that reaches an instance being copied, kept out or
stowed goes to its record; once an unstow has completed the instance is awake and its slots are free; STOWCFG is ignored
while a slot is in use. -/
def Sys2Proof.Claims.StowSteps : Prop :=
  ∀ (s : State) (p : Partition) (core : Nat) (r : PitchReq) (ids : List Nat) (x : Place) (i : Inst) (k : Nat) (tok : Token) (v : Word),
    partOf s p.asid = some p → s.place? x.id = some x → x.asid = p.asid → x.inst = some i →
    (p.stower core = some r → r.frozen = 0 → r.stowing = some ids →
      (∀ n ∈ ids, ∃ y j, s.place? n = some y ∧ y.asid = p.asid ∧ y.killed = false ∧ y.inst = some j ∧ j.st = .copying ∧ slotFault? s p false j.stowSlots = none) →
      (p.grants = true → p.catcount ≤ r.routine ∨ (∃ g, p.cached (r.core / 32) (r.core % 32) r.routine = some g ∧ p.hasIds r g = true) →
        ∃ s3 q, exec (.stowCopyDone p.asid core) s = .next (servePitch s3 p.asid q { r with stowing := none }) ∧
          partOf s3 p.asid = some q ∧ ∀ n ∈ ids, ∃ y j, s3.place? n = some y ∧ y.inst = some j ∧ j.st = .stowed) ∧
      (p.grants = false → StepTo (.stowCopyDone p.asid core) s (fun s' => ∀ n ∈ ids, ∃ y j, s'.place? n = some y ∧ y.inst = some j ∧
        j.st = .vacated))) ∧
    (i.st = .copying ∨ i.st = .vacated ∨ i.st = .stowed → i.buffered.length < 4096 → guyHead s p.asid k = some tok →
      (∃ y ∈ s.sites, y.node.place = x.id ∧ ∃ l ∈ (y.st.pitch?).lines, l.line = k) →
      (∀ y ∈ s.places, ∀ j, y.inst = some j → k ∈ j.results → y.id ≠ x.id) →
      StepTo (.stowedResultArrive x.id k tok) s (fun s' => guyLine s' p.asid k = (guyLine s p.asid k).tail ∧
        ∃ y, s'.place? x.id = some y ∧ y.inst = some { i with buffered := i.buffered ++ [(k, tok)] })) ∧
    (i.st = .unstowing → (∀ q ∈ p.curq, q.unstow ≠ some x.id) → slotFault? s p true i.stowSlots = none →
      StepTo (.unstowCopyDone x.id) s (fun s' => ∃ y, s'.place? x.id = some y ∧
        y.inst = some { i with st := .awake, stowSlots := [], activeAt := s.cycle } ∧ y.ready = p.standby)) ∧
    (usedSlots s p.asid = [] → exec (.stowcfgWrite p.asid v) s = .next (s.updPart p.asid (fun q => { q with
      stowcfg := (v &&& 0x0000FFFFFFE00000) ||| BitVec.ofNat 64 (min 4096 (v.extractLsb' 0 13).toNat) }))) ∧
    (usedSlots s p.asid ≠ [] → exec (.stowcfgWrite p.asid v) s = .next s)

/-- R136, R141: a head that has waited 32,768 cycles posts CURATOR_STALL to the supervisor and waits anew; the free granules
of a running partition come to standby, and the instances placed before wake. -/
def Sys2Proof.Claims.CuratorWaits : Prop :=
  ∀ (s : State) (p : Partition) (core : Nat) (r : PitchReq) (rest : List PitchReq) (v : Thread), partOf s p.asid = some p →
    p.st = .running →
    (p.queueOf core = r :: rest → r.waitFrom + 32768 ≤ s.cycle → s.thread? (supervisorOf s p.asid) = some v →
      StepTo (.curatorStall p.asid core) s (fun s' =>
        (∃ v', s'.thread? v.id = some v' ∧ (v.run ≠ .stopped → v.run ≠ .ended → ∃ a, v'.async = v.async ++ [a] ∧ a.code = 39 ∧
          a.asid = p.asid ∧ (p.census.extractLsb' 12 36 = 0 → a.norec = true ∧ s'.mem = s.mem))) ∧
        ∃ q, partOf s' p.asid = some q ∧ ∃ r' rest', q.queueOf core = r' :: rest' ∧ r' = { r with waitFrom := s.cycle })) ∧
    (p.standby = false → StepTo (.granulesStandby p.asid) s (fun s' => (∃ q, partOf s' p.asid = some q ∧ q = { p with standby := true }) ∧
      ∀ x ∈ s'.places, x.asid = p.asid → x.inst.isSome = true → x.ready = true))


/-! ### Switch boxes, sites, slices and the LLC (R115, R154, R155, R173, R210-R220) -/

/-- R115, R116, R148, R154, R155: a token whose check is good leaves its source and goes down every branch of its box, once each
can take it: onto the segment of an output with the switch's route ID, into the input of the site, into the input of a router
slot. One that crosses a seam to another core is a message, and is at the far side only once that has arrived. -/
def Sys2Proof.Claims.SwitchForwards : Prop :=
  ∀ (s : State) (n : Node) (src : BitVec 6) (p : Place) (f : Folio) (t : Token) (bs : List Branch), s.place? n.place = some p →
    p.folio = some f → placeMoves s p = true → sourceTok s n src.toNat = some t → t.chk = .good →
    f.branches n.x n.y src.toNat = bs → bs ≠ [] → (∀ b ∈ bs, branchReady s p n b = true) →
    (isSegCode src.toNat = true → ∀ o r, .seg o r ∈ bs → t.route = BitVec.ofNat 12 r) →
    (∀ y ∈ s.sites, y.node = n → y.asleep s.cycle = false) →
    let s1 := sourceTake s n src.toNat
    let e := exec (.switchForward n src) s
    let seg (o r u v no : Nat) : Seg := { node := { n with x := u, y := v }, code := o, tok := { t with route := BitVec.ofNat 12 r }, seq := no }
    e = .next (bs.foldl (fun st b => branchPut st n t b) s1) ∧
    (∀ o r u v, bs = [.seg o r] → farBox o n.x n.y = some (u, v) → lineEnds s1 (.seam n o 0) = none →
      e = .next { s1 with segs := s1.segs ++ [seg o r u v 0] }) ∧
    (∀ o r u v, bs = [.seg o r] → farBox o n.x n.y = some (u, v) → lineEnds s1 (.seam n o 0) ≠ none →
      ∃ s' no, e = .next s' ∧ s'.segs = s1.segs ++ [seg o r u v no] ∧ s'.mem = s.mem ∧
        ((lineEnds s1 (.seam n o no)).isSome = true → s'.arrived (.token (.seam n o no)) = false)) ∧
    (∀ i, bs = [.site i] → e = .next (s1.updSite n (fun x => { x.setInput i (x.input i ++ [t]) with lastActive := s.cycle }))) ∧
    (∀ k i, bs = [.router k i] → e = .next (s1.updSlot n k (fun x => x.setInput i (x.input i ++ [t]))))

/-- R173: a site that has neither fired nor accepted a token for 32 cycles is gated, whatever it holds, unless it is waking already;
two cycles after a token has reached it, it is awake. -/
def Sys2Proof.Claims.SiteGating : Prop :=
  ∀ (s : State) (x : Site), s.site? x.node = some x →
    (x.lastActive + 32 ≤ s.cycle → x.waking = none →
      exec (.siteClockGate x.node) s = .next (s.updSite x.node (fun y => { y with gated := true }))) ∧
    (s.cycle < x.lastActive + 32 ∨ x.waking.isSome = true → exec (.siteClockGate x.node) s = .next s) ∧
    (∀ c, x.waking = some c → c ≤ s.cycle →
      exec (.siteWake x.node) s = .next (s.updSite x.node (fun y => { y with gated := false, waking := none, lastActive := s.cycle })))

/-- R97, R210-R214: a request that has reached its slice, the home slice of a ring where it touches the line of the block. A read that hits is
answered with its bytes, under the region's uncommitted writes, and makes the line the most recently used; a write that hits a
line changes its bytes, marks a write-back line dirty and sends those of a write-through line on, and is acknowledged; a read
that misses with an entry free takes it and asks the LLC; with none free it is refused with a hint, and a PRIO request reserves
the next entry for 1,024 cycles, a reservation that then lapses. -/
def Sys2Proof.Claims.SliceRequests : Prop :=
  ∀ (s : State) (i : Nat) (r0 : Req) (rest : List Req), pickReq s i = some (r0, rest) →
    let r : Req := match s.rings.find? (fun g =>
        g.pa / 128 * 128 < r0.pa + r0.len && r0.pa < g.pa / 128 * 128 + 128 && r0.comp.isNone) with
      | some g => { r0 with die := g.die, iset := g.iset }
      | none => r0
    let x := sliceAt s r.die (sliceIndex r.iset r.pa)
    let after (s' : State) : Slice := sliceAt s' x.die x.idx
    let answer (k : RespKind) : Resp := { place := r.place, port := r.port, elem := r.elem, kind := k, dead := r.dead }
    let step (P : State → Prop) : Prop := StepTo (.sliceRequest i) s (fun s' => s'.mem = s.mem ∧ s'.reqs = rest ∧ P s')
    let quiet : Prop := x.writingBack r.line = false ∧ x.filling r.line = none
    let asks (s' : State) (kind : PendKind) (q : Option Req) : Prop :=
      (∃ no, s'.lreqs = s.lreqs ++ [{ no := no, die := x.die, slice := x.idx, line := r.line, req := q, back := false }]) ∧
      ∃ p, (after s').pend.getLast? = some p ∧ (after s').pend.length = x.pend.length + 1 ∧ p.line = r.line ∧ p.taken = s.cycle ∧ p.kind = kind
    (stackReady s r.pa = false → x.find r.line = none → step (fun s' => s'.resps = s.resps ++ [answer (.fault 10 2 0)])) ∧
    (stackReady s r.pa = true ∨ x.find r.line ≠ none →
      (r.kind = .read → (∀ g ∈ x.groups, g.line = r.line → g.closed = true) →
        (∀ l, x.writingBack r.line = false → (r.fromLlc && r.share) = false → x.find r.line = some l → (l.got r.pa r.len).2.bad = [] →
          step (fun s' => s'.resps = s.resps ++ [answer (.data (bound s r ((l.data.drop (r.pa % 128)).take r.len)))] ∧
            ∃ l', (after s').lines = x.lines.filter (fun y => y.line ≠ r.line) ++ [l'] ∧ l'.data = l.data ∧ l'.dirty = l.dirty)) ∧
        (∀ l, x.writingBack r.line = false → (r.fromLlc && r.share) = false → x.find r.line = some l → (l.got r.pa r.len).2.bad ≠ [] →
          step (fun s' => s'.resps = s.resps ++ [answer (.fault 10 1 0)])) ∧
        (quiet → (r.fromLlc && r.share) = false → x.find r.line = none → r.comp = none → x.room r = true →
          step (fun s' => s'.resps = s.resps ∧ (r.policy = 0 ∨ r.policy = 2 → asks s' .fill none) ∧
            (r.policy ≠ 0 → r.policy ≠ 2 → asks s' .llc (some r)))) ∧
        (quiet → (r.fromLlc && r.share) = false → x.find r.line = none → x.room r = false →
          step (fun s' => (∃ h, 16 ≤ h ∧ h % 16 = 0 ∧ s'.resps = s.resps ++ [answer (.refused h r)]) ∧
            s'.lreqs = s.lreqs ∧ (after s').pend = x.pend ∧
            (after s').resv = if r.prio = true ∧ x.resv = none then some (r.place, r.port, r.elem, s.cycle + 1024) else x.resv))) ∧
      (∀ l, (∃ bs, r.kind = .write bs) ∨ (∃ op fmt sat bs, r.kind = .reduce op fmt sat bs ∧ r.fromLlc = false) → quiet →
        x.find r.line = some l → r.meets l.bad = false → l.data.length = 128 → r.pa % 128 + r.len ≤ 128 →
        let pol := if r.share = true ∧ r.policy < 2 then 2 else r.policy
        let old := (l.data.drop (r.pa % 128)).take r.len
        let new := (r.newBytes old).1
        let holds (s' : State) (dirty : Bool) : Prop := ∃ l', (after s').find r.line = some l' ∧ l'.dirty = dirty ∧
          ∀ k, k < 128 → l'.data[k]? = if r.pa % 128 ≤ k ∧ k < r.pa % 128 + r.len then new[k - r.pa % 128]? else l.data[k]?
        (pol ≤ 1 → step (fun s' => s'.resps = s.resps ++ [answer (.ack (r.newBytes old).2)] ∧ holds s' true)) ∧
        (pol = 2 → x.room r = true → r.fromLlc = false → step (fun s' => s'.resps = s.resps ++ [answer (.ack (r.newBytes old).2)] ∧
          holds s' l.dirty ∧ asks s' .forward (some { r with kind := .write (new.map (fun b => (b, true))) }))) ∧
        (∀ bs, r.kind = .write bs → ∀ k, k < r.len → new[k]? = match bs[k]? with | some (b, true) => some b | _ => old[k]?))) ∧
    (∀ y : Slice, y = sliceAt s y.die y.idx → ∀ a b c due, y.resv = some (a, b, c, due) → due ≤ s.cycle →
      exec (.prioReservationExpire y.die y.idx) s = .next (s.setSlice { y with resv := none }))

/-- R211, R213, R215, R218, R220, R222: a request that has reached the LLC is performed where its line is resident and none to it
stands before it, else waits for the line's fill from HBM4E; after the fill the line is resident and the requests that waited
have been performed. At the slice the answer to a fill serves the reads that waited and is installed, the answer to any other
request ends its entry, and one to a write-back lets what waited go on; a tile is decoded and its line installed, or every
request that waits meets the fault. -/
def Sys2Proof.Claims.LinesMove : Prop :=
  ∀ (s : State) (i die slice line base : Nat) (p : Pend) (q : LReq),
    let x := sliceAt s die slice
    let answers (l : List Req) (k : Req → RespKind) : List Resp :=
      l.map (fun r => { place := r.place, port := r.port, elem := r.elem, kind := k r, dead := r.dead : Resp })
    let told (s' : State) (q : LReq) (m : Mem) : Prop := ∀ y ∈ (sliceAt s q.die q.slice).pend, y.no = q.no →
      ∃ y' ∈ (sliceAt s' q.die q.slice).pend, y'.no = q.no ∧ y'.line = y.line ∧ y'.answer = some (.data (memRead m (q.line * 128) 128))
    let at_ := llcAt s (baseOf q.line)
    let gone (s' : State) : Prop := (sliceAt s' die slice).pend = dropFirst (fun y => y = p) x.pend
    (s.lreqs[i]? = some q → s.arrived (.toLlc q.no) = true →
      (∀ y ∈ s.lreqs.take i, y.line ≠ q.line ∨ y.die ≠ q.die ∨ y.slice ≠ q.slice) →
      (at_.queue.length < 1024 → at_.annex = [] → q.line ∈ at_.lines → (∀ y ∈ at_.queue, y.line ≠ q.line) → q.req = none → q.back = false →
        StepTo (.llcRequest i) s (fun s' => s'.lreqs = s.lreqs.eraseIdx i ∧ s'.mem = s.mem ∧ told s' q s.mem)) ∧
      (at_.queue.length < 1024 → at_.annex = [] → q.line ∉ at_.lines ∨ (∃ y ∈ at_.queue, y.line = q.line) →
        StepTo (.llcRequest i) s (fun s' => s'.lreqs = s.lreqs.eraseIdx i ∧ s'.mem = s.mem ∧
          (llcAt s' (baseOf q.line)).queue = at_.queue ++ [q] ∧ q.line ∈ (llcAt s' (baseOf q.line)).fills)) ∧
      (1024 ≤ at_.queue.length ∨ at_.annex ≠ [] → at_.annex.length < Config.annexEntries →
        StepTo (.llcRequest i) s (fun s' => s'.lreqs = s.lreqs.eraseIdx i ∧ s'.mem = s.mem ∧
          (llcAt s' (baseOf q.line)).annex = at_.annex ++ [q]))) ∧
    (line ∈ (llcAt s base).fills → baseOf line = base → (llcAt s base).annex = [] →
      StepTo (.llcFill base line) s (fun s' => line ∈ (llcAt s' base).lines ∧
        (llcAt s' base).queue = (llcAt s base).queue.filter (fun y => y.line ≠ line) ∧
        ((llcAt s base).queue.filter (fun y => y.line = line) = [q] → q.req = none → q.back = false → s'.mem = s.mem ∧ told s' q s.mem))) ∧
    (x.pend.find? (fun y => y.line = line && y.answer.isSome && y.kind ≠ .writeback && s.arrived (.fromLlc y.no)) = some p →
      (∀ d, p.kind = .fill → p.answer = some (.data d) → p.bad = [] → p.held = [] → (∀ r ∈ p.waiting, r.kind = .read) → x.pend.length ≤ 48 →
        StepTo (.sliceFillInstall die slice line) s (fun s' => s'.mem = s.mem ∧
          s'.resps = s.resps ++ answers p.waiting (fun r => .data (bound s r ((d.drop (r.pa % 128)).take r.len))) ∧
          (∀ y ∈ (sliceAt s' die slice).pend, y ∈ dropFirst (fun z => z = p) x.pend ∨ y.kind = .writeback) ∧
          (p.install = true → ∃ l, (sliceAt s' die slice).find line = some l ∧ l.data = d ∧ l.dirty = false ∧ l.share = p.share))) ∧
      (∀ k, p.kind = .llc ∨ p.kind = .forward → p.answer = some k →
        StepTo (.sliceFillInstall die slice line) s (fun s' => s'.mem = s.mem ∧ s'.resps = s.resps ++ answers p.waiting (fun _ => k) ∧
          (sliceAt s' die slice).pend.length + 1 = x.pend.length))) ∧
    (x.pend.find? (fun y => y.line = line && y.kind = .writeback && y.answer.isSome && s.arrived (.fromLlc y.no)) = some p →
      StepTo (.writebackAck die slice line) s (fun s' => s'.mem = s.mem ∧ gone s' ∧ s'.reqs = p.held ++ s.reqs ∧
        s'.resps = s.resps ++ answers p.waiting (fun _ => .ack 0))) ∧
    (∀ w, x.pend.find? (fun y => y.line = line && y.comp.isSome && y.data.isEmpty) = some p → p.comp = some w → p.kind = .fill →
      (∀ s1 bs f, tileFor s die slice w (((line - 2 ^ 41) * 128 - w.dir) / 4096) = (s1, .tile bs f) → p.waiting = [] → p.held = [] →
        p.install = true → x.pend.length ≤ 48 →
        StepTo (.expanderDecodeDone die slice line) s (fun s' => s'.mem = s.mem ∧ ∃ l, (sliceAt s' die slice).find line = some l ∧
          l.data = (bs.drop ((line - 2 ^ 41) * 128 % 4096 / 128 * 128)).take 128 ∧ l.dirty = false ∧ l.share = p.share)) ∧
      (∀ s1 code sub, tileFor s die slice w (((line - 2 ^ 41) * 128 - w.dir) / 4096) = (s1, .fault code sub) →
        StepTo (.expanderDecodeDone die slice line) s (fun s' => s'.mem = s.mem ∧ gone s' ∧ s'.reqs = s.reqs ∧
          s'.resps = s.resps ++ answers (p.waiting ++ p.held) (fun _ => .fault code sub 0))))

namespace Sys2Proof.Claims

open Sys2Proof.Machine

/-- A step after which a port of a place stands as `P` says, with memory as it was. -/
def PortBecomes (i : Instr) (s : State) (place port : Nat) (P : State → Port → Prop) : Prop :=
  ∃ s' p q, exec i s = .next s' ∧ s'.place? place = some p ∧ p.port? port = some q ∧ P s' q ∧ s'.mem = s.mem

/-- A place and one of its ports. -/
structure HasPort (s : State) (p : Place) (q : Port) : Prop where
  place : s.place? p.id = some p
  port : p.port? q.num = some q

/-- The commands a port has under way after `f` of those that are `r`'s. -/
def Changed (q q' : Port) (r : Running) (f : Running → Running) : Prop :=
  q'.runs = q.runs.map (fun x => if x.cmd = r.cmd then f x else x)

/-- An element stands otherwise. -/
def Holds (e : Elem) (st : ElemSt) (x : Running) : Running := x.updElem e.n (fun y => { y with st := st })

/-- An element is done with. -/
def Done (e : Elem) (x : Running) : Running := { x with elems := x.elems.filter (fun y => y.n ≠ e.n), doneN := x.doneN + 1 }

end Sys2Proof.Claims


/-! ### The events of ports and of accesses (R85, R203, R204, R214, R314, R347, R348, R360, R426) -/

/-- R347, R348: the command at the head of a queue starts once the one before it has issued its last request: it leaves the
queue, latches its slots and stands under way, RECORD and REPLAY beside the others; a PSET ends as
it starts, its slot written; one that is not valid against its slot ends INVALID, with its TAG in TAGI. -/
def Sys2Proof.Claims.CommandsStart : Prop :=
  ∀ (s : State) (p : Place) (f : Folio) (q : Port) (c : QCmd) (rest : List QCmd), HasPort s p q → placeMoves s p = true →
    partGoes s p = true → q.held = false → (∀ r, q.running = some r → r.issued = true ∧ (replaying s p = false ∨ writes r.cmd.op = true)) →
    q.queue = c :: rest → p.folio = some f → f.declares q.num c.op = true →
    let pat := q.slot c.f.slot.toNat
    (startValid c.op c.f pat = true → c.op ≠ 0x08 → c.op ≠ 0x0B → c.op ≠ 0x0C →
      PortBecomes (.commandStart p.id q.num) s p.id q.num (fun s' q' => (c.f.scope.toNat < 3 → s'.slices = s.slices) ∧
        ∃ r, q' = { q with queue := rest, older := q.runs, running := some r } ∧ r.cmd = c ∧ r.pat = pat ∧
          r.pat2 = q.slot (c.f.slot.toNat + 1) ∧ r.next = 0 ∧ r.doneN = 0 ∧ r.elems = [] ∧ r.bytes = [] ∧ r.stage = 0 ∧ r.frozen = none)) ∧
    (startValid c.op c.f pat = true → (c.op = 0x0B ∨ c.op = 0x0C) →
      PortBecomes (.commandStart p.id q.num) s p.id q.num (fun _ q' =>
        ∃ r, q' = { q with queue := rest, logs := q.logs ++ [r] } ∧ r.cmd = c ∧ r.doneN = 0)) ∧
    (startValid c.op c.f pat = true → c.op = 0x08 → (∀ r ∈ q.runs ++ q.logs, r.cmd ≠ c) →
      PortBecomes (.commandStart p.id q.num) s p.id q.num (fun _ q' => q'.slot c.f.slot.toNat = psetPat c.f pat ∧ q'.queue = rest ∧
        q'.running = q.running ∧ q'.donecnt = q.donecnt + 1 ∧ q'.end_ = 1)) ∧
    (startValid c.op c.f pat = false → (∀ r ∈ q.runs ++ q.logs, r.cmd ≠ c) →
      PortBecomes (.commandStart p.id q.num) s p.id q.num (fun _ q' =>
        q' = { q with queue := rest, donecnt := q.donecnt + 1, end_ := 4, tagi := if c.op = 0x08 then 0 else c.f.tag }))

/-- R204, R214, R224, R364, R426: an answer that has come reaches the element that waits for it: data stand with it, an
acknowledgement ends it and its flags are kept, a refusal makes it wait for its hint, a fault and a loss stand until the element
is raised in its turn, or pass a PREFETCH over; an answer for killed work is counted and dropped. After the wait the request is
sent again, with PRIO from the eighth refusal on. -/
def Sys2Proof.Claims.PortAnswers : Prop :=
  ∀ (s : State) (p : Place) (q : Port) (r : Running) (e : Elem) (no i : Nat), HasPort s p q →
    let answer (k : RespKind) : Prop := s.resps[i]? = some { place := p.id, port := q.num, elem := no, kind := k, dead := none }
    let becomes (P : Port → Prop) : Prop :=
      PortBecomes (.generatorResponse i) s p.id q.num (fun s' q' => s'.resps = s.resps.eraseIdx i ∧ P q')
    (q.awaits no = some (r, e) → s.arrived (.resp p.id q.num no) = true →
      (∀ bs, answer (.data bs) → becomes (fun q' => Changed q q' r (Holds e (.done (bs.take (patUnit r.pat)))))) ∧
      (∀ fl, answer (.ack fl) → becomes (fun q' => Changed q q' r (Done e) ∧ q'.flags = q.flags ||| fl)) ∧
      (∀ h rq, answer (.refused h rq) → becomes (fun q' => Changed q q' r (fun x => x.updElem e.n (fun y =>
        { y with refusals := y.refusals + 1, st := .retry (s.cycle + h) rq })))) ∧
      (∀ code sub pte, answer (.fault code sub pte) → r.cmd.op ≠ 0x10 →
        becomes (fun q' => ∃ m, Changed q q' r (Holds e (.bad code sub pte m 0 0 false)))) ∧
      (∀ m cls bm tm, answer (.lost m cls bm tm) → r.cmd.op ≠ 0x10 → (r.cmd.op ≠ 0x06 ∨ cls ≠ 1) →
        becomes (fun q' => Changed q q' r (Holds e (.bad 12 0 0 m cls bm tm)))) ∧
      (∀ code sub pte, answer (.fault code sub pte) → r.cmd.op = 0x10 → becomes (fun q' => Changed q q' r (Done e)))) ∧
    (∀ a bs key, s.resps[i]? = some a → a.kind = .data bs → a.dead = some key → s.arrived (.resp a.place a.port a.elem) = true →
      StepTo (.generatorResponse i) s (fun s' => s'.resps = s.resps.eraseIdx i ∧ s'.places = s.places ∧
        ∀ g k, partOf s (key / 2 ^ 32) = some g → g.tickets.find? (fun k => k.val = key % 2 ^ 32) = some k → k.counts.length = 11 →
          ∃ g' k', partOf s' (key / 2 ^ 32) = some g' ∧ g'.tickets.find? (fun k => k.val = key % 2 ^ 32) = some k' ∧
            k'.counts[4]? = some (min (2 ^ 32 - 1) (k.counts.getD 4 0 + 1)))) ∧
    (∀ t rq, r ∈ q.runs → e ∈ r.elems → e.st = .retry t rq → rq.elem = no → t ≤ s.cycle →
      (∀ r' ∈ q.runs, ∀ e' ∈ r'.elems, ∀ t' rq', e'.st = .retry t' rq' → rq'.elem = no → r' = r ∧ e' = e) →
      (∀ r' ∈ q.runs, ∀ e' ∈ r'.elems, ∀ t' rq', e'.st = .retry t' rq' → t < t' ∨ t = t' ∧ no ≤ rq'.elem) →
      PortBecomes (.retryTimerExpire p.id q.num no) s p.id q.num (fun s' q' => Changed q q' r (Holds e (.sent no)) ∧
        s'.reqs = s.reqs ++ [{ rq with refusals := rq.refusals + 1, prio := decide (8 ≤ rq.refusals + 1) }]))

/-- R85, R203, R206: a walk whose turn it is at its core and that succeeds leaves its leaf with the generator, for the page it
maps; a window of a port begins with nothing admitted in it, and one that has admitted its rate, scaled by the throttle factor and
at least 1, admits no token more; RGRATE sets a port's rate, with windows of 2^6 cycles or more. -/
def Sys2Proof.Claims.PortEvents : Prop :=
  ∀ (s : State) (p : Place) (q : Port) (r : Running) (va : Nat) (v : Word), HasPort s p q →
    (∀ s1 leaf lv d, q.runs.find? (fun r => r.walking.isSome) = some r → r.walking = some va → walkTurnOf s p q.num = true →
      p.decl q.num = some d → walk s (some p.die) (p.portCore q.num) p.asid va = .ok s1 (leaf, lv) →
      StepTo (.pageWalkDone p.id q.num) s (fun s' =>
        genEnt s' p q.num = some { asid := p.asid, vpage := va / 2 ^ pageBits lv, size := pageBits lv, pte := BitVec.ofNat 64 leaf, lv := lv } ∧
        (∀ w ∈ s'.walkq, ¬ (w.2.2.1 = p.id ∧ w.2.2.2 = q.num)) ∧ s'.mem = s.mem)) ∧
    (s.cycle % 2 ^ q.winlg = 0 → q.lastIn < s.cycle → PortBecomes (.rateWindow p.id q.num) s p.id q.num (fun _ q' => q' = { q with used := 0 })) ∧
    (s.cycle / 2 ^ q.winlg = q.lastIn / 2 ^ q.winlg → max 1 ((if q.cnt = 0 then 2 ^ q.winlg else q.cnt) * (s.pkg.pwrstat.extractLsb' 7 5).toNat / 16) ≤ q.used →
      ∀ tok, letIn s p q.num tok = (s, false)) ∧
    (q.num = (v.extractLsb' 0 6).toNat → PortBecomes (.rgrateWrite p.id v) s p.id q.num (fun _ q' =>
      q'.cnt = (v.extractLsb' 48 16).toNat ∧ q'.winlg = max 6 (v.extractLsb' 44 4).toNat ∧ q'.queue = q.queue ∧ q'.running = q.running))

/-- R217, R360: as the response of a line's group leaves its slice, the slice is rid of the group and its entry and copies of
the line are on their way to the cores; the notice of the last line ends the MCAST. A copy that has come lands in the buffer; a
drop notice discards the lines and lets the MRX LOADs that wait for them read them themselves. -/
def Sys2Proof.Claims.McastEvents : Prop :=
  ∀ (s : State) (x : Slice) (g : Group) (e : Pend) (l : Landing) (data : List Byte) (line : Nat),
    (s.slices.findSome? (fun x => (x.groups.find? (fun y => y.line = line && y.req.place = g.req.place && y.req.port = g.req.port)).bind (fun y =>
        (x.pend.find? (fun p => p.line = line && p.kind = .mcast && !p.data.isEmpty)).map (fun p => (x, y, p)))) = some (x, g, e) → e.bad = [] →
      let mine (k : Landing) : Bool := k.die = x.die && k.line = line && k.place = g.req.place && k.port = g.req.port && k.inflight.isNone && k.data.isNone
      s.landing.find? mine = some l →
      StepTo (.mcastDepartureNotice g.req.place g.req.port line) s (fun s' => s'.mem = s.mem ∧
        s'.landing = s.landing.map (fun k => if mine k && k.va = l.va then { k with inflight := some e.data, fixed := !e.fixed.isEmpty } else k) ∧
        (∀ y ∈ (sliceAt s' x.die x.idx).groups, y.line ≠ line) ∧
        (∀ y ∈ (sliceAt s' x.die x.idx).pend, ¬ (y.line = line ∧ y.kind = .mcast)) ∧ (sliceAt s' x.die x.idx).waitMcast = x.waitMcast.filter (fun r => r.line ≠ line) ∧
        (∀ p q r, HasPort s p q → p.id = g.req.place → q.num = g.req.port → q.runs.find? (fun r => r.cmd.op = 0x06 && r.elems.any (fun y => y.addr = l.va)) = some r →
          cmdCount 0x06 r.cmd.f ≤ r.doneN + 1 → ∃ p' q', s'.place? p.id = some p' ∧ p'.port? q.num = some q' ∧
            q'.donecnt = q.donecnt + 1 ∧ q'.end_ = 1 ∧ q'.tag = r.cmd.f.tag))) ∧
    (s.landing.find? (fun k => k.die = l.die && k.core = l.core && k.line = l.line && k.inflight.isSome && k.lost.isNone) = some l →
      s.arrived (.line l.die l.core l.line) = true → l.inflight = some data →
      exec (.mcastLanding l.die l.core l.line) s = .next { s with
        landing := putBy (fun k => k = l) { l with inflight := none, data := some data } s.landing }) ∧
    (l ∈ s.landing → l.dropped = true → StepTo (.mcastDropNotice l.die l.core l.line) s (fun s' => s'.mem = s.mem ∧
      s'.landing = s.landing.filter (fun k => !(k.die = l.die && k.core = l.core && k.line = l.line && k.dropped)) ∧
      ∀ p q r, HasPort s p q → q.running = some r → r.cmd.op = 0x00 → r.cmd.f.mrx = true → p.die = l.die →
        p.portCore q.num = l.core → r.cmd.f.base.toNat ≤ l.va → l.va < r.cmd.f.base.toNat + 64 * r.cmd.f.count.toNat →
        ∃ p' q', s'.place? p.id = some p' ∧ p'.port? q.num = some q' ∧ q'.running = some { r with fallback := true }))

/-- R38, R314, R317: the answer to an access at a thread's pc takes its timers down; a store that is performed leaves the buffer,
and one that meets an uncorrectable error or is lost becomes an imprecise error of code 10 or 12; a load that meets one takes
the precise trap, and one that is lost NET_LOSS. What a loss leaves undone: a lost request; with a lost answer the write has been
done, and where a timer has run out either may be. -/
def Sys2Proof.Claims.MemoryAnswers : Prop :=
  ∀ (s : State) (t : Thread) (i : Nat) (e : StoreEnt), s.thread? t.id = some t →
    let told (tm : Bool) : Prop := tm = true → ∃ x ∈ s.net.timers, x.who = .thread t.id ∧ x.due ≤ s.cycle
    (StepTo (.memoryResponseArrive t.id .value) s (fun s' => s'.mem = s.mem ∧ s'.threads = s.threads ∧
      ∀ x ∈ s'.net.timers, x.who ≠ .thread t.id)) ∧
    (t.stbuf[i]? = some e → (∀ x ∈ t.stbuf.take i, x.xl.sram ≠ e.xl.sram ∨ x.xl.pa + x.bytes.length ≤ e.xl.pa ∨ e.xl.pa + e.bytes.length ≤ x.xl.pa) →
      (∀ s1 errs, performStore s t e = some (s1, errs) → exec (.memoryResponseArrive t.id (.stored i)) s = .next
        ((s1.updThread t.id (fun u => { u with stbuf := u.stbuf.eraseIdx i })).updThread t.id (fun u => { u with imp := u.imp ++ errs }))) ∧
      (StepTo (.memoryResponseArrive t.id (.storeUncorrectable i)) s (fun s' => ∃ u a, s'.thread? t.id = some u ∧
        u = { t with stbuf := t.stbuf.eraseIdx i, imp := t.imp ++ [a] } ∧ a.code = 10 ∧ a.sub = 1)) ∧
      (∀ m cls bm tm, threadCancelled s t = false → told tm → tm = true ∨ cls = 0 →
        StepTo (.memoryResponseArrive t.id (.storeLost i false m cls bm tm)) s (fun s' => ∃ u a, s'.thread? t.id = some u ∧
          u = { t with stbuf := t.stbuf.eraseIdx i, imp := t.imp ++ [a] } ∧ a.code = 12)) ∧
      (∀ m cls bm tm s1 errs, told tm → tm = true ∨ cls ≠ 0 → performStore s t e = some (s1, errs) →
        exec (.memoryResponseArrive t.id (.storeLost i true m cls bm tm)) s = .next
          (pushImp (s1.updThread t.id (fun u => { u with stbuf := u.stbuf.eraseIdx i })) t 12 0 e.va
            { key := m, cls := cls, bitmap := bm, timer := tm }))) ∧
    (∀ j va, t.canIssue = true → pcInstr s t = some j → pcAccess t j = some (va, false) →
      exec (.memoryResponseArrive t.id .uncorrectable) s = .next (accessFault s t 10 1 0 va false)) ∧
    (∀ j va w m cls bm tm, t.canIssue = true → t.wait ≠ .steal → pcInstr s t = some j → pcAccess t j = some (va, w) → told tm →
      let n : NetInfo := { key := m, cls := cls, bitmap := bm, timer := tm }
      (w = false ∨ tm = true ∨ cls = 0 →
        exec (.memoryResponseArrive t.id (.lost false m cls bm tm)) s = .next (threadLoss (dropTimers s (.thread t.id)) t va w n)) ∧
      (∀ s1 u, w = true → tm = true ∨ cls ≠ 0 → amoAlone s t j = some s1 → s1.thread? t.id = some u →
        exec (.memoryResponseArrive t.id (.lost true m cls bm tm)) s = .next (threadLoss (dropTimers s1 (.thread t.id)) u va w n)))


/-! ### Waves, records, cancellation, rings and deques as events (R90, R95, R97, R98, R108, R227, R250-R253) -/

/-- R250-R253: a wave, or with the EOT a segment, is complete once every output has passed it and the writes held up to it are
performed: older snapshots go, retries begin anew. A region due to roll back drops what it holds, counts it, and its sites
stand as their snapshot says, a PITCH's later calls apart, the DONEs of the complete wave's writes going out again; its ports go on from their counters. RBAREA is ignored while copies
are held. -/
def Sys2Proof.Claims.WavesAndRollback : Prop :=
  ∀ (s s1 : State) (p p1 : Place) (b b1 : Rollback) (v : Word), s.place? p.id = some p → p.inst = none → p.rb = some b →
    placeDead s p = false →
    let wave := if b.complete = 0 then waveStart else b.complete - 1
    let now (s' : State) (P : Place → Rollback → Prop) : Prop := ∃ q b', s'.place? p.id = some q ∧ q.rb = some b' ∧ P q b'
    (b.due = false → b.stuck = false → s1.place? p.id = some p1 → p1.rb = some b1 →
      (b.complete < wavesPassed s p b → wavesPassed s p b < 2 ^ 32 → commitHeld p b.complete (b.held.length + 1) s = (s1, true) →
        StepTo (.waveComplete p.id) s (fun s' => now s' (fun q b' => b'.complete = b.complete + 1 ∧ b'.retries = 0 ∧
          ∀ y ∈ q.ports, ∀ m ∈ y.saved, b.complete ≤ m.wave) ∧
          (∀ x ∈ s'.sites, x.node.place = p.id → ∀ k ∈ x.snaps, b.complete ≤ k.wave ∧ k.wave < waveStart) ∧ s'.mem = s1.mem)) ∧
      (2 ^ 32 ≤ wavesPassed s p b → commitHeld p waveStart (b.held.length + 1) s = (s1, true) →
        StepTo (.waveComplete p.id) s (fun s' => now s' (fun q b' => b'.complete = 0 ∧ b'.retries = 0 ∧ b'.passed = [] ∧ b'.limit = false ∧
          ∀ y ∈ q.ports, y.saved = []) ∧ (∀ x ∈ s'.sites, x.node.place = p.id → x.snaps = []) ∧ s'.mem = s1.mem))) ∧
    (b.due = true →
      StepTo (.rollback p.id) s (fun s' => now s' (fun q b' => b'.due = false ∧ b'.held = [] ∧ b'.retries = b.retries + 1 ∧
          b'.complete = b.complete ∧ ∀ y ∈ q.ports, y.held = true) ∧
        (∀ x ∈ s'.sites, x.node.place = p.id →
          x.out = (b.dones.filter (fun d => d.2 < b.complete && d.1 = x.node)).map (fun _ => (2, doneTok false false)) ∧ ∃ y ∈ s.sites, y.node = x.node ∧ ∀ k, y.snaps.find? (fun k => k.wave = wave) = some k →
          x.ina = k.ina ∧ x.inb = k.inb ∧ x.inc = k.inc ∧ x.flags = k.flags ∧ ((∀ c, k.st ≠ .pitch c) → x.st = k.st)) ∧
        (∀ g e, partOf s p.asid = some g → g.task? p.lslot = some e → ∃ g' e', partOf s' p.asid = some g' ∧ g'.task? p.lslot = some e' ∧
          e'.rollbacks = min 65535 (e.rollbacks + 1)) ∧ ((∀ q ∈ p.ports, q.logs = []) → s'.mem = s.mem))) ∧
    (∀ q, b.due = false → partGoes s p = true → (p.ports.map (fun y => y.num)).Nodup → HasPort s p q → q.held = true →
      (q.saved.find? (fun m => m.wave = wave) = none →
        PortBecomes (.rollbackReread p.id) s p.id q.num (fun _ q' => q' = { q with held := false })) ∧
      (∀ m, q.saved.find? (fun m => m.wave = wave) = some m → PortBecomes (.rollbackReread p.id) s p.id q.num (fun _ q' => q'.held = false ∧
        q'.slots = m.slots ∧ q'.donecnt = m.donecnt ∧ q'.segs = m.segs ∧ q'.mkWave = m.mkWave ∧ q'.flags = m.flags))) ∧
    (areaInUse s p.asid = false → exec (.rbareaWrite p.asid v) s = .next (s.updPart p.asid (fun g =>
      { g with rbarea := v &&& 0x0000FFFFFE000000 }))) ∧
    (areaInUse s p.asid = true → exec (.rbareaWrite p.asid v) s = .next s)

/-- R227: FRESUME of a record in use frees it. A resume lets the commands of its port go on, translating anew, a node fire
again, a pitch wait at the queue's end. An abandon, or a resume of a fault that cannot go on, ends the launch FAULTED and
tainted; killed work only gives its record back. A write that names no record in use changes nothing. -/
def Sys2Proof.Claims.RecordsResume : Prop :=
  ∀ (s : State) (g : Partition) (x : RecUse), partOf s g.asid = some g →
    g.recs.find? (fun r => r.addr = x.addr) = some x → g.lateFaults = [] → x.addr % 64 = 0 → x.addr < 2 ^ 48 →
    let v := BitVec.ofNat 64 x.addr
    let freed (s' : State) : Prop := ∃ g', partOf s' g.asid = some g' ∧ ∀ r ∈ g'.recs, r.addr ≠ x.addr
    (resumable x = true → (∀ p, frozenPlace s g.asid x = some p → placeDead s p = false) →
      (∀ p q, x.owner = .port p.id q.num → HasPort s p q → StepTo (.fresumeResume g.asid v) s (fun s' => freed s' ∧ s'.mem = s.mem ∧
        ∃ p' q', s'.place? p.id = some p' ∧ p'.port? q.num = some q' ∧ genEnt s' p' q.num = none ∧ (∀ r ∈ q'.runs, r.frozen = none) ∧
          q'.runs.map (fun r => (r.cmd, r.next)) = q.runs.map (fun r => (r.cmd, r.next)))) ∧
      (∀ n y, x.owner = .node n → s.site? n = some y → StepTo (.fresumeResume g.asid v) s (fun s' => freed s' ∧ s'.mem = s.mem ∧
        s'.site? n = some { y with frozen := false })) ∧
      (∀ n, x.owner = .pitch n → StepTo (.fresumeResume g.asid v) s (fun s' => s'.mem = s.mem ∧ ∃ g', partOf s' g.asid = some g' ∧
        g'.recs = g.recs.filter (fun r => r.addr ≠ x.addr) ∧ g'.curq = g.curq.filter (fun k => !(k.node = n && k.frozen = 1)) ++
          (g.curq.filter (fun k => k.node = n && k.frozen = 1)).map (fun k => { k with frozen := 0, waitFrom := s.cycle }))) ∧
      (x.owner = .scalar → StepTo (.fresumeResume g.asid v) s (fun s' => freed s' ∧ s'.mem = s.mem))) ∧
    (∀ i p e, i = .fresumeAbandon g.asid v ∨ resumable x = false ∧ i = .fresumeResume g.asid v → frozenPlace s g.asid x = some p →
      (placeDead s p = true → StepTo i s (fun s' => freed s' ∧ s'.places = s.places ∧ s'.mem = s.mem)) ∧
      (placeDead s p = false → p.asid = g.asid → g.task? p.lslot = some e → StepTo i s (fun s' => freed s' ∧
        ∃ g' e', partOf s' g.asid = some g' ∧ g'.task? p.lslot = some e' ∧ e'.status = 1 ∧ e'.verdict = 2))) ∧
    (∀ w : Word, (∀ r ∈ g.recs, r.addr ≠ (w.extractLsb' 6 42).toNat * 64) → exec (.fresumeResume g.asid w) s = .next s ∧
      exec (.fresumeAbandon g.asid w) s = .next s)

/-- R108, R110, R111: once nothing of the killed work, of its subtree or under an older ticket is on its way, its rings hold
no claim, its threads no store and no FLOAD of theirs still loads, the ticket is acknowledged and its owner's event flag set; before that it waits. -/
def Sys2Proof.Claims.CancelAcknowledged : Prop :=
  ∀ (s : State) (g : Partition) (k : Ticket), partOf s g.asid = some g → g.tickets.find? (fun x => x.val = k.val) = some k → k.acked = false →
    let hit (y : Nat) : Bool := g.inSubtree k.scope y
    let moving := g.tickets.any (fun x => !x.acked && hit x.scope && trafficOf s (deadKey g.asid x.val))
    let older := (g.tickets.takeWhile (fun x => x.val ≠ k.val)).any (fun x => !x.acked && g.inSubtree x.scope k.scope)
    let killed := g.tasks.filter (fun e => e.st = .running && e.killed && hit e.scope)
    let s1 := killRings (killed.foldl (fun st e => drainKilled st g.asid e.slot) s) g.asid (deadKey g.asid k.val) hit
    let s2 := finishKilled s1 g.asid hit
    (moving = true ∨ older = true → exec (.cancelAcknowledge g.asid k.val) s = .next s) ∧
    (∀ p k2, moving = false → older = false → ringsOpen s1 g.asid hit = false → (∀ e ∈ killed, killedStores s1 g.asid e.slot = false) →
      (∀ t ∈ s.threads, t.run = .stopped → ∀ a b c d e, t.wait ≠ .fload a b c d e) → partOf s2 g.asid = some p → p.tickets.find? (fun x => x.val = k.val && !x.acked) = some k2 →
      StepTo (.cancelAcknowledge g.asid k.val) s (fun s' =>
        (∃ g' k', partOf s' g.asid = some g' ∧ g'.tickets.find? (fun x => x.val = k.val) = some k' ∧ k'.acked = true ∧ k'.scope = k2.scope) ∧
        ∀ u, k2.owner = some u.id → s2.thread? u.id = some u → ∃ u', s'.thread? u.id = some u' ∧ u'.event = true))

/-- R97, R98: a plain store that has reached a registered block clears its tables; an operation of any agent reaches the
home slice, and a ring port learns the outcome; the first waiting claim or wait is granted once it fits, and its thread
takes P, or P and m. -/
def Sys2Proof.Claims.RingEvents : Prop :=
  ∀ (s : State) (r : Ring) (t : Thread) (g : Partition) (d : Reg) (w : RWaiter) (b' : RBlock) (r' : Ring) (P m : Nat)
    (s1 s3 : State) (bs : List Byte) (cl : Bool), s.ring? r.asid r.block = some r →
    let op : RingOp := if cl then .claim r.block w.n w.scope else .wait r.block w.n w.scope
    (r.stored = true → StepTo (.ringReinit r.asid r.block) s (fun s' => s'.mem = s.mem ∧ ∃ r', s'.ring? r.asid r.block = some r' ∧
      r' = { r with claims := [], resvs := [], waiters := [], stored := false })) ∧
    (r.stored = false → exec (.ringReinit r.asid r.block) s = .next s) ∧
    (∀ op y lv s2 res osc who, op.block % 64 = 0 → translate s none 0 r.asid op.block (Need.atomic false) = .ok s1 (y, lv) →
      ringAtSlice s1 r.asid y who op = some (s2, res, osc) →
      StepTo (.ringOpAtSlice r.asid op who) s (fun s' => s'.mem = s2.mem ∧ s'.rings = s2.rings ∧
        ∀ io port rp, who = .ring io port → s2.pkg.rports[io * 64 + port]? = some rp →
          s'.pkg.rports[io * 64 + port]? = some { rp with granted := match res with
            | .granted P _ => some (P, 0) | .status c => some (0, c) | .waits => none })) ∧
    (r.stored = false → r.waiters.find? (fun y => y.claims = cl) = some w → w.who = .thread t.id →
      readBytes s (some r.die) 3 r.xl 64 = .ok s1 bs → partOf s1 r.asid = some g →
      ringApply (ringBlock bs) r w.who true op = (b', r', .granted P m) →
      ringPut (s1.setPart (ringWork g r op)) { r' with waiters := r'.waiters.erase w } r.xl b' = some s3 →
      s3.thread? t.id = some t → t.wait = .ring r.block cl d → d.getLsbD 0 = false → d ≠ 0 →
      StepTo (.ringWaitGrant r.asid r.block cl) s (fun s' => ∃ u, s'.thread? t.id = some u ∧
        if cl then Reports t u d 0x2E 5 0 (BitVec.ofNat 64 P) else ReportsPair t u d 0x2E 7 0 (BitVec.ofNat 64 P) (BitVec.ofNat 64 m)))

/-- R90, R95: DQEXT takes its base and its size, held within 2^8 and 2^24 entries, while the extension holds nothing, and is
ignored while it does; a copy of a stolen entry that nobody has answered for in four decode timeouts is put into a record,
and DEQUE_LOST is posted to the supervisor; without a free record it stays. -/
def Sys2Proof.Claims.DequeEvents : Prop :=
  ∀ (s : State) (g : Partition) (die core : Nat) (v : Word), partOf s g.asid = some g →
    let q := g.deque (die, core)
    let l := (v.extractLsb' 0 5).toNat
    (q.spilled = 0 → StepTo (.dqextWrite g.asid die core v) s (fun s' => s'.mem = s.mem ∧ ∃ g' q', partOf s' g.asid = some g' ∧
      q' = g'.deque (die, core) ∧ q'.entries = q.entries ∧ q'.spilled = 0 ∧
      q'.dqext = (v &&& 0x0000FFFFFFFFF000) ||| BitVec.ofNat 64 (if l = 0 then 0 else max 8 (min 24 l)))) ∧
    (q.spilled ≠ 0 → exec (.dqextWrite g.asid die core v) s = .next s) ∧
    (∀ y ∈ g.deques, ∀ c ∈ y.copies, g ∈ s.parts →
      (∀ g2 ∈ s.parts, ∀ y2 ∈ g2.deques, ∀ c2 ∈ y2.copies, c2.no = c.no → g2 = g ∧ y2 = y ∧ c2 = c) →
      let due := c.at_ + 4 * ((s.pkg.sprtmo.getD (if c.thief.dieCode = y.die then 0 else 1) 0).toNat % 2 ^ 32)
      (s.cycle < due → exec (.stealCopyTimeout c.no) s = .next s) ∧
      (∀ s1, due ≤ s.cycle → takeRecord s g.asid .scalar (dequeLostInfo g.asid y.die y.core c.entry) = (s1, none) →
        exec (.stealCopyTimeout c.no) s = .next s) ∧
      (∀ s1 a nr g1 u, due ≤ s.cycle → takeRecord s g.asid .scalar (dequeLostInfo g.asid y.die y.core c.entry) = (s1, some (a, nr)) →
        partOf s1 g.asid = some g1 → s1.thread? (supervisorOf s1 g.asid) = some u → u.run = .running →
        StepTo (.stealCopyTimeout c.no) s (fun s' => s'.mem = s1.mem ∧
          (∃ g' y', partOf s' g.asid = some g' ∧ y' = g'.deque (y.die, y.core) ∧ y'.entries = (g1.deque (y.die, y.core)).entries ∧
            ∀ k ∈ y'.copies, k.no ≠ c.no) ∧
          ∃ u' k, s'.thread? u.id = some u' ∧ u'.async = u.async ++ [k] ∧ k.code = 37 ∧ k.asid = g.asid ∧ k.eval = BitVec.ofNat 64 a)))


/-- R14, R15, R56-R58, R342: the ring ports. A host's write of RPPUSH, after the writes of HOSTVER and of the
staging posted ahead of it, is queued behind a valid HOSTVER, refused while BUSY without
disturbing the push in progress, and refused with a finished count and a vector otherwise. A datagram of the bound source is
answered: HELLO with the lower of its version and 1, a PUSH with its recorded status when its SEQ is known; another is queued;
one of another source, port or a link that is down is dropped. RPBIND2 makes the binding apply at once; the ring agent refuses a
push of no granule or above the limit, each push by the binding it was asked under, and commits a granted claim once its granules
are copied, or voids it where its scope has been cancelled. -/
def Obligations.RingPorts : Prop :=
  ∀ (s : State) (io p : Nat) (r : RingPort) (v : Word) (d : Datagram)
    (hv : Option (BitVec 32)) (posted : List (Nat × List Byte)),
    io < 2 → p < 64 → s.pkg.rports.length = 128 → s.rport io p = r →
    let n := (v.extractLsb' 0 11).toNat
    let src := r.b2.extractLsb' 30 2
    let h := dgHdr d
    let port (i : Instr) (P : State → RingPort → Prop) : Prop := StepTo i s (fun s' => s'.rings = s.rings ∧ s'.mem = s.mem ∧
      s'.pkg.rports = s.pkg.rports.set (io * 64 + p) (s'.rport io p) ∧ P s' (s'.rport io p))
    let told (op : Nat) (status : Nat) (seq : BitVec 32) : List Byte :=
      [1, BitVec.ofNat 8 op, BitVec.ofNat 8 p, BitVec.ofNat 8 status] ++ natBytes 4 seq.toNat ++ List.replicate 8 0
    let ends (job : Push) (status : Nat) (q q' : Pkg) : Prop := match job.seq with
      | none => q'.msix = q.msix ++ [(io, p)]
      | some k => q'.udpOut = q.udpOut ++ List.replicate (1 + job.again) (io, told 2 status k)
    exec (.rppushWrite io p v hv posted) s = exec (.rppushWrite io p v none []) (hostPosted io p hv posted s) ∧
    (hostReaches s io = false → exec (.rppushWrite io p v none []) s = .next s) ∧
    (hostReaches s io = true →
      (r.busy = true → port (.rppushWrite io p v none []) (fun _ r' => r' = { r with status := 3 })) ∧
      (r.busy = false → (s.pkg.hostver.getD io 0).toNat / 2 ^ 16 = 1 → src = 1 → n ≤ 1024 → port (.rppushWrite io p v none []) (fun _ r' =>
        r' = { r with busy := true, queue := r.queue ++ [{ n := n, bytes := memRead r.staging 0 (64 * n), seq := none, again := 0, b0 := r.b0, b1 := r.b1, b2 := r.b2 }] })) ∧
      (r.busy = false → ((s.pkg.hostver.getD io 0).toNat / 2 ^ 16 ≠ 1 ∨ src ≠ 1 ∨ 1024 < n) → port (.rppushWrite io p v none []) (fun s' r' =>
        r'.status = 3 ∧ r'.donecnt = r.donecnt + 1 ∧ r'.queue = r.queue ∧ s'.pkg.msix = s.pkg.msix ++ [(io, p)]))) ∧
    (h.port = p → udpHeard s io d = true →
      (h.op = 0 → PkgStep (.udpHello io d.mac ⟨d.addr, d.port⟩ d.bytes) s (fun q => q = { s.pkg with udpOut := s.pkg.udpOut ++
        [(io, [BitVec.ofNat 8 (min h.ver 1), 0, BitVec.ofNat 8 p, 0] ++ List.replicate 12 0)] })) ∧
      (h.op = 1 → h.ver ≤ 1 → h.n ≤ 140 → 16 + 64 * h.n ≤ d.bytes.length →
        (∀ st, r.seqs.find? (fun x => x.1 = h.seq) = some (h.seq, st) →
          PkgStep (.udpPush io d.mac d.addr d.port d.bytes) s (fun q => q = { s.pkg with udpOut := s.pkg.udpOut ++ [(io, told 2 st h.seq)] })) ∧
        (r.seqs.find? (fun x => x.1 = h.seq) = none → (∃ j ∈ r.queue, j.seq = some h.seq) → port (.udpPush io d.mac d.addr d.port d.bytes) (fun s' r' =>
          r'.queue.map (fun j => (j.n, j.bytes, j.seq)) = r.queue.map (fun j => (j.n, j.bytes, j.seq)) ∧ s'.pkg.udpOut = s.pkg.udpOut)) ∧
        (r.seqs.find? (fun x => x.1 = h.seq) = none → (∀ j ∈ r.queue, j.seq ≠ some h.seq) → (∀ j b, r.waiting = some (j, b) → j.seq ≠ some h.seq) →
          port (.udpPush io d.mac d.addr d.port d.bytes) (fun _ r' => r' = { r with busy := true, queue := r.queue ++
            [{ n := h.n, bytes := (d.bytes.drop 16).take (64 * h.n), seq := some h.seq, again := 0, b0 := r.b0, b1 := r.b1, b2 := r.b2 }] })))) ∧
    (h.port = p → (src ≠ 2 ∨ r.b1.extractLsb' 0 48 ≠ d.mac ∨ d.port ≠ 0x4B55 ∨ s.pkg.ethUp.getD io false = false) →
      exec (.udpHello io d.mac ⟨d.addr, d.port⟩ d.bytes) s = .next s ∧ exec (.udpPush io d.mac d.addr d.port d.bytes) s = .next s) ∧
    ((s.pkg.rpsel.getD io 0).extractLsb' 0 6 = BitVec.ofNat 6 p → port (.rpbind2Write io v) (fun _ r' => r'.b0 = r.staged0 ∧ r'.b1 = r.staged1 ∧
      r'.b2.extractLsb' 30 2 = (if v.extractLsb' 30 2 = 3 then 0 else v.extractLsb' 30 2) ∧
      (r'.b2.extractLsb' 0 11).toNat = (if n = 0 ∨ 1024 < n then 1024 else n) ∧ r'.queue = r.queue)) ∧
    (∀ job rest, r.waiting = none → r.queue = job :: rest → (job.b2.extractLsb' 30 2 = 0 ∨ job.n = 0 ∨ (job.b2.extractLsb' 0 11).toNat < job.n) →
      port (.ringAgentPush io p) (fun s' r' => r'.status = 3 ∧ r'.donecnt = r.donecnt + 1 ∧ r'.queue = rest ∧ ends job 3 s.pkg s'.pkg)) ∧
    (∀ job b0 b1 pos g s1 s2 s3 bs a m osc, r.waiting = some (job, b0, b1) → r.granted = some (pos, 0) →
      let asid := (b0.extractLsb' 48 16).toNat
      let block := (b0.extractLsb' 6 42).toNat * 64
      s.ring? asid block = some g → g.stored = false → (∃ c ∈ g.claims, c.pos = pos ∧ c.st = .opened) →
      (scopeGone s asid (b1.extractLsb' 48 16).toNat = true →
        exec (.ringAgentPush io p) s = .next (pushDone (voidAt s asid block pos) io p job 2)) ∧
      (scopeGone s asid (b1.extractLsb' 48 16).toNat = false → readBytes s (some g.die) 3 g.xl 64 = .ok s1 bs →
      copyGranules asid (ringBlock bs).base (ringBlock bs).lgn job.n s1 pos job.bytes = some s2 →
      ringAtSlice s2 asid g.xl (.ring io p) (.commit block pos (b1.extractLsb' 48 16).toNat) = some (s3, .granted a m, osc) →
      s3.rport io p = r → s3.pkg.rports.length = 128 →
      StepTo (.ringAgentPush io p) s (fun s' => s'.rings = s3.rings ∧ s'.mem = s3.mem ∧ ends job 0 s3.pkg s'.pkg ∧
        s'.rport io p = { r with
          donecnt := r.donecnt + 1, status := 0, waiting := none, granted := none, busy := !r.queue.isEmpty
          seqs := match job.seq with | none => r.seqs | some k => (r.seqs ++ [(k, 0)]).drop (r.seqs.length + 1 - 64) })))


/-! ### The step, the encodings and the invariant of memory -/

/-- A step takes the first of the agenda, or the thread whose turn it is when there is none (assumption 1): a thread that is
up, with no asynchronous trap to take, fetches the four bytes at its pc (R275, R302) and runs the instruction they decode to, and a word
that decodes to nothing is ILLEGAL, with the word in EVAL (R285); a site, a router slot and a command of a port run the
operation found there; an event with no encoding runs, and an act from outside; a thread that has ended lets a cycle pass. A system core that acts
in no partition fetches the bytes of memory itself, least significant first (R2, R275). -/
def Obligations.StepRunsDecoded : Prop :=
  ∀ (s s' : State) (t : Thread) (rest : List Turn) (w : BitVec 32) (i : Instr),
    let s0 : State := { s with agenda := rest }
    (s.agenda = [] → Issues s t → threadUp s t = true → takeAsync s t = none → t.canIssue = true → fetch s t = .word s' w →
      (decodeScalar w = some i → step s = exec i s') ∧
      (decodeScalar w = none → step s = .next (syncTrap s' t 32 0 false false t.pc (w.setWidth 64)))) ∧
    (∀ id, s.agenda = .thread id :: rest → s.thread? id = some t → threadUp ({ s0 with cur := id } : State) t = true →
      takeAsync ({ s0 with cur := id } : State) t = none → t.canIssue = true →
      fetch ({ s0 with cur := id } : State) t = .word s' w → decodeScalar w = some i → step s = exec i s') ∧
    (t.pc.toNat % 4 ≠ 0 → s.agenda = [] → Issues s t → threadUp s t = true → takeAsync s t = none → t.canIssue = true →
      step s = .next (syncTrap s t 33 0 false false t.pc t.pc)) ∧
    (Physical s t t.pc 4 →
      ∃ l, fetch s t = .word { s with llc := l } (memByte s.mem (t.pc.toNat + 3) ++ memByte s.mem (t.pc.toNat + 2) ++ memByte s.mem (t.pc.toNat + 1) ++
        memByte s.mem t.pc.toNat)) ∧
    (∀ n, s.agenda = .site n :: rest → siteInstr s0 n = some i → step s = exec i s0) ∧
    (∀ n k, s.agenda = .router n k :: rest → routerInstr s0 n k = some i → step s = exec i s0) ∧
    (∀ p k, s.agenda = .port p k :: rest → portInstr s0 p k = some i → step s = exec i s0) ∧
    (s.agenda = .event i :: rest → encode i = none → step s = exec i s0) ∧
    (∀ a, s.agenda = .outside a :: rest → step s = .next (outsideDo a s0)) ∧
    (∀ n, s.agenda = .tick n :: rest → step s = .next { s0 with cycle := s.cycle + n }) ∧
    (s.agenda = [] → Issues s t → t.run = .ended → step s = .next { s with cycle := s.cycle + 1 })

/-- R275-R298: words put together field by field from the formats decode to the instructions they stand for. -/
def Obligations.DecodingWords : Prop :=
  decodeScalar 0x04611000 = some (.add 3 1 2 false) ∧ decodeScalar 0x04A51319 = some (.crcw 5 5 2 3) ∧
  decodeScalar 0x08A0FFFF = some (.addi 5 0 0xFFFF) ∧ decodeScalar 0x2C204000 = some (.lih 1 0x4000) ∧
  decodeScalar 0x30A63901 = some (.fadd 5 6 7 1 true) ∧ decodeScalar 0x58410000 = some (.ldd 2 1 0) ∧
  decodeScalar 0x70892B08 = some (.amoadd 4 9 5 3 true) ∧ decodeScalar 0x80800008 = some (.beq 4 0 8) ∧
  decodeScalar 0xA01F0000 = some (.jalr 0 31 0) ∧ decodeScalar 0xB0000200 = some (.fence 2) ∧
  decodeScalar 0xB4054100 = some (.kset 5 2 true) ∧ decodeScalar 0xB8410000 = some (.launch 2 1) ∧
  decodeScalar 0xBCE34003 = some (.cancel 7 3 8) ∧ decodeScalar 0xC0000001 = some .halt ∧
  decodeScalar 0xC5800001 = some (.sysrd 12 1) ∧ decodeScalar 0 = none ∧ decodeScalar 0xFFFFFFFF = none ∧
  (∀ n, decodeCell n 0x0300008010010000 = some (.cellMul n (cellFields 0x0300008010010000))) ∧
  (cellFields 0x0300008010010000).sela = 0x20 ∧ (cellFields 0x0300008010010000).selb = 0x01 ∧
  (∀ n, decodeRouter n 0x89452000 = some (.ropInvar n { slot := false, in0 := 0x28, in1 := 0x29, in2 := 0 })) ∧
  (∀ n, (decodeCmd n 0x00002800050A00008009000100000000).isSome = true)

/-- R275-R285: every well-formed scalar instruction has one word, the decoder reads that word back as the instruction with
every operand, and a word that decodes is the word of a well-formed instruction. -/
def Obligations.ScalarRoundTrip : Prop :=
  (∀ (i : Instr) (w : BitVec 32), wellFormed i = true → encodeScalar i = some w →
    decodeScalar w = some i ∧ decodeTableWord 32 w.toNat = some i ∧ decodeBytes (bytesOfWord w) = some i) ∧
  (∀ (i : Instr) (w : BitVec 32), decodeScalar w = some i → wellFormed i = true ∧ encodeScalar i = some w)

/-- R286-R298: the same of cell words, router words, stream commands and CTRL payloads, at the place each stands. -/
def Obligations.FabricRoundTrip : Prop :=
  (∀ (i : Instr) (w : BitVec 64), encodeCell i = some w → ∃ n, decodeCell n w = some i) ∧
  (∀ (i : Instr) (n : Node) (w : BitVec 64), decodeCell n w = some i → encodeCell i = some w) ∧
  (∀ (i : Instr) (w : BitVec 32), wellFormed i = true → encodeRouter i = some w → ∃ n, decodeRouter n w = some i) ∧
  (∀ (i : Instr) (n : Node) (w : BitVec 32), decodeRouter n w = some i → wellFormed i = true ∧ encodeRouter i = some w) ∧
  (∀ (i : Instr) (w : Word128), wellFormed i = true → encodeCmd i = some w → ∃ n, decodeCmd n w = some i) ∧
  (∀ (i : Instr) (n : Nat) (w : Word128), decodeCmd n w = some i → wellFormed i = true ∧ encodeCmd i = some w) ∧
  (∀ (i : Instr) (w : Word128), encodeCtrl i = some w → ∃ n, decodeCtrl n (w.setWidth 512) = some i) ∧
  (∀ (i : Instr) (n : Node) (w : Beat), decodeCtrl n w = some i → encodeCtrl i = some (w.setWidth 128) ∧ w.extractLsb' 128 384 = 0)

/-- R49, R333: after reset the boot ROM runs on system core 0 of IO0 in monitor mode, the other 31 system cores wait for
firmware in monitor mode, and no control-core thread exists; POWER_ON_RESET starts ETH_LINK_UP of IO0's port. The other
values that reset leaves (registers zero, memory with nothing listed) are the model's own (assumptions 3 and 4). -/
def Obligations.ResetLeaves : Prop :=
  MemoryOk State.reset ∧ State.reset.threads.length = 32 ∧ State.reset.cur = .sys 0 ∧ State.reset.parts = [] ∧
  State.reset.places = [] ∧
  (∃ t, State.reset.thread? (.sys 0) = some t ∧ t.run = .rom ∧ t.mode = .monitor) ∧
  (∀ n, 1 ≤ n → n < 32 → ∃ t, State.reset.thread? (.sys n) = some t ∧ t.run = .unstarted ∧ t.mode = .monitor) ∧
  (∀ d c h, State.reset.thread? (.ctl d c h) = none) ∧
  (∀ a, memByte State.reset.mem a = 0 ∧ memByte State.reset.sram a = 0) ∧
  step State.reset = .next { State.reset with cycle := 1 }

/-- The two memories of the package keep their one canonical form in every step (their representation in State is the
model's, assumption 4). -/
def Obligations.StepKeepsMemoryOk : Prop :=
  ∀ (s s' : State), MemoryOk s → step s = .next s' → MemoryOk s'

/-! ### The statements that join several of the above -/

/-- General registers and command registers: a write is what is then read, g0 is zero. R276: g0 always reads zero and a write
to it is discarded; a write to any other register is what it then reads, and no other register changes. R327: what a
command register holds after a write, and that no other register changes. -/
def Obligations.RegisterFiles : Prop :=
  Claims.RegisterZeroAndWrites ∧ Claims.CommandRegisterFile

/-- What every register form of the integer group writes, division by zero among them. R304: the sums, differences, bitwise
operations and shifts of the integer group. R304, R305: products by their low and high halves; quotients truncated toward
zero and remainders with the sign of the dividend, with the results R305 gives for a divisor of zero. R304: the lesser and
the greater, signed and unsigned, and the two comparisons. -/
def Obligations.IntegerRegisterForms : Prop :=
  Claims.IntegerArithmetic ∧ Claims.IntegerMultiplyDivide ∧ Claims.IntegerCompare

/-- Bit counts, byte reversal, CRC-32C and the immediate forms. R304, R306: counts of leading zeros, trailing zeros and one
bits; the bytes in reverse order; the CRC-32C of the low 8, 16, 32 or 64 bits of gb, least significant first,
zero-extended. R307: the immediate forms, all on 64 bits, and LIH. -/
def Obligations.IntegerBitsAndImmediates : Prop :=
  Claims.IntegerBits ∧ Claims.ImmediateForms

/-- Special operands of the floating forms and the order of finite numbers. R309, the table of special operands, for every
rounding code and both precisions: any NaN operand gives the canonical NaN and NaN-in alone; infinities of unlike sign
added, an infinity times zero, zero over zero and infinity over infinity give the canonical NaN and invalid; a finite
nonzero number over zero gives an infinity with the xor of the signs and divide-by-zero; the square root of a negative
number gives the canonical NaN and invalid, of −0 gives −0 and no flag. R310: on finite numbers the comparisons order the
numbers themselves, so that +0 and −0 are equal. -/
def Obligations.FloatValues : Prop :=
  Claims.FloatSpecials ∧ Claims.FloatCompare

/-- Loads complete with the bytes of memory, and where they fault. R312-R314: the loads, by width and extension, and where
they are MISALIGNED. R312: a physical load gives its register the bytes of memory, least significant first, extended as
its name says, and changes nothing but the register, the pc and which lines the LLC holds; memory itself stays as it is.
R313: an address whose bits 63:48 are not zero is TRANSLATION, subcode NONCANON, and nothing is accessed. -/
def Obligations.LoadsComplete : Prop :=
  Claims.LoadForms ∧ Claims.PhysicalLoad ∧ Claims.NonCanonicalFaults

/-- Stores enter the store buffer, and later loads see them. R312-R314: the stores, by width, into the 16-entry store buffer,
and where they are MISALIGNED. R314: a load that touches bytes held in the store buffer is given them from the buffer, the
newest write winning byte by byte: a doubleword stored, then one of its bytes stored again, reads back with that byte
replaced. -/
def Obligations.StoresComplete : Prop :=
  Claims.StoreForms ∧ Claims.StoreForwarding

/-- LDA, STL and the atomics complete with what they read and write. R315: LDA is a load at ga alone, after an acquire at its
scope and any imprecise error; STL performs every earlier access, then its own write of the low bytes of gb. A misaligned
address is MISALIGNED for each. R316: what each atomic writes and returns. -/
def Obligations.AtomicsAndOrdered : Prop :=
  Claims.AcquireAndRelease ∧ Claims.AtomicsComplete

/-- Branches and jumps, with JALR's MISALIGNED trap. R319: the branches; none of them writes a register. R320: JMP, JAL and
JALR, with JALR reading ga before it writes gd, and its MISALIGNED trap with no register written. -/
def Obligations.ControlFlow : Prop :=
  Claims.BranchesComplete ∧ Claims.JumpsComplete

/-- What a synchronous trap saves, and what a second one does. R334, R336, R342: a synchronous trap outside a handler. The
target mode is supervisor on a control core; on a system core it is monitor from monitor mode and, for TRAPI, from
supervisor mode, and supervisor otherwise. EPC, ECAUSE, EVAL, PMODE and INH of the target's bank are written, the pc is
the vector, and no other register changes. R334: a second synchronous trap in a handler stops a system core: EPC and the
other fields of ECAUSE keep the first trap's values, CODE becomes 43, and EVAL holds both codes. On a control core the
thread stops and the partition supervisor is given the traps that stood pending there, and DOUBLE_TRAP. -/
def Obligations.TrapEntry : Prop :=
  Claims.TrapTakes ∧ Claims.DoubleTrap

/-- ERET, TRAP and the privilege traps. R337, R338: ERET sets pc := EPC, mode := min(PMODE, current mode) and INH := 0 in the
current mode's bank and changes nothing else; TRAP takes TRAPI with num16 in EVAL and the address after it in EPC. R333:
in user mode ERET, CACHE operation 2 and the TLB operations take PRIV with their word in EVAL; so does SWAPP in any mode
but monitor. -/
def Obligations.ReturnAndPrivilege : Prop :=
  Claims.EretAndTrap ∧ Claims.PrivilegeTraps

/-- Asynchronous traps and imprecise store errors are taken first. R323, R334-R336, R339: TAKE_ASYNC_TRAP gives a thread that
runs, waits in an instruction that a trap abandons, what it waits for not having come, or is parked in HALT, INH clear as
it stands, the oldest of its pending asynchronous traps whose target mode has INH clear: EPC is the instruction it is at,
or the next one after WFE and HALT, ASYNC is set, and the trap is no longer pending. R314: FENCE, LDA, STL, the atomics
and HALT first take an imprecise store error that is pending, with EPC at themselves, IMP set and EVAL naming the store's
record. -/
def Obligations.PendingTraps : Prop :=
  Claims.AsyncTrapTaken ∧ Claims.ImpreciseFirst

/-- SYSRD, SYSWR and their traps. R340-R342: what SYSRD gives for the registers of a thread, of its partition and of the
package. R340, R342: what SYSWR leaves in the registers of a thread and of its partition; a write to a read-only register
is ignored, and one of ASID ends the silence of the partition the thread leaves and of that it comes to. The event
REGISTER_WRITE of the table has the same effect without the instruction. R340, R341: a number assigned to no register of
the core's kind is ILLEGAL, and a mode below the register's takes PRIV, each with the word in EVAL. -/
def Obligations.SystemRegisters : Prop :=
  Claims.SysrdReads ∧ Claims.SyswrWrites ∧ Claims.SystemRegisterTraps

/-- What CACHE and TLBINV leave in the slices and the walkers. R343: with the stores of the buffer performed, the address
translated and permitted, and the line on its way nowhere: CLEAN retires once its line is dirty in no slice of the
thread's dies, CLEANINV also leaves it in none of them, BLOCKINV leaves none of the lines of the block; until then dirty
lines set out for the LLC and the instruction stands. INV leaves the line in none of them and writes nothing back. A line
on its way makes the first two wait. R344: what each kind drops, in monitor mode, or in supervisor mode for the thread's
own partition: PAGE leaves no cached translation of the address for the partition, global or not, and no decoded tile of
its page; ASID leaves no walker entry, no decoded tile and no translation of the partition but global ones; ALL leaves
none of any; a walk in flight of the partition's generators is discarded. -/
def Obligations.CacheAndTlb : Prop :=
  Claims.CacheOperations ∧ Claims.TlbinvDrops

/-- SWAPP checks its operand, waits, and swaps the planes at its end. R345, R66: SWAPP in monitor mode: an operand above
65,535 is BADREC, −1; an ASID no partition holds is NOASID, −3; an accepted swap waits 875 cycles. R66, R345: 875 cycles
after it was accepted a swap ends, with the result that its set's state then gives. With OK it exchanges the planes of its
set: its HALTED partitions are STORED, with no launch thread left in the active planes, its STORED partitions are HALTED
with theirs back. -/
def Obligations.SwapPartition : Prop :=
  Claims.SwappStarts ∧ Claims.SwapCompletes

/-- SCOPEN, SCCLOSE and SCSET. R107, R322: SCOPEN makes a LIVE child of the current scope under a free ID above 0, and gives
that ID; under a free scope, or one that does not exist, it is BADSCOPE, 3, under a cancelled one CANCELLED, 2, and with
4,096 scopes there FULL, 5. scopen completes so. R107, R322: SCCLOSE frees a scope that has no child, no WORK and no
ticket that is not acknowledged, and marks the threads whose current scope it is; with one of these it is BUSY, 4, of
scope 0 REFUSED, 6, and of no scope BADSCOPE, 3. SCSET gives the previous current scope and sets the new one, and of no
scope it is BADSCOPE. The partition's rings have met no plain store. scclose and scset complete so. -/
def Obligations.ScopeInstructions : Prop :=
  Claims.ScopenCreates ∧ Claims.ScopesCloseAndSet

/-- CANCEL gives a ticket and CWAIT waits for its acknowledgement. R107, R108, R111, R322: CANCEL gives a ticket, the scope in
its high half and the sequence number in its low, owned by the thread, after applying the fates to the subtree; a record
that is not 64-byte aligned is MISALIGNED before any effect. CWAIT returns once the ticket is acknowledged, as an acquire
at PACKAGE, and waits until then; an unknown one is STALE, 8, and a wait whose own scope is cancelled ends CANCELLED, 2.
R108, R110, R111: once nothing of the killed work, of its subtree or under an older ticket is on its way, its rings hold
no claim, its threads no store and no FLOAD of theirs still loads, the ticket is acknowledged and its owner's event flag
set; before that it waits. -/
def Obligations.Cancellation : Prop :=
  Claims.CancelAndCwait ∧ Claims.CancelAcknowledged

/-- Barrier instructions and the arrivals of threads and ports. R104, R105, R322: BARINIT sets a barrier up in phase 0 with no
arrivals, which sets the event flags of the partition where the phase was another, and it counts in its scope's WORK, an
older one no more; a count outside 1-64 or a set bit above 22 is REFUSED, 6, a scope that does not exist BADSCOPE, 3, and
a barrier that a thread waits at BUSY, 4. R105, R109, R113: the last arrival of a phase gives the phase it arrived in,
moves the barrier on, tells its waiters and sets the event flags of the partition; an earlier one is kept. BARWAIT returns
the phase once it differs, or with which it was told, and waits until then; a dead barrier gives CANCELLED, 2. -/
def Obligations.Barriers : Prop :=
  Claims.BarriersComplete ∧ Claims.BarrierArrivals

/-- LAUNCH makes a task entry and LWAIT reaps it. R67-R71, R322: a valid record with no predecessor makes a READY entry in the
lowest free slot, with the record's entry point, argument, completion record, folio, scope and priority; the launch ID
comes back in gd and the state, 2, in g(d+1). A misaligned record is BADREC, 3, with no trap. R70, R322: LWAIT on a
COMPLETE launch gives STATUS + 256·VERDICT and reaps the entry; on another launch it waits; where no entry holds the ID it
is STALE, 8. -/
def Obligations.LaunchAndLwait : Prop :=
  Claims.LaunchCreates ∧ Claims.LwaitReaps

/-- Pushes, pops and steals of deques, and their spills and refills. R88, R92, R93, R322: DQPUSH puts the entry of its two
registers, with the current scope in its top 16 bits, at the tail of the deque, and the scope's WORK rises; with 256 on
chip 32 entries first move to the extension, or DEQUE_FULL is taken; DQPOP takes the tail entry where its scope is not
cancelled, its low half to gd and its high half to g(d+1), so a pop right after a push gives the entry back, and of an
empty deque it is EMPTY, 1, with zeros. dqpush and dqpop complete so. R94, R95, R322: DQSTEAL of another core of the
partition sends its request and waits; of its own core it is EMPTY, 1, with zeros; of a core outside it is REFUSED, 6.
STEAL_REQUEST, once the request has arrived, takes the head entry that may be stolen and the victim keeps a copy;
STEAL_RESPONSE gives it to the thief; STEAL_ACK frees the copy of that steal alone. R90, R95: DQEXT takes its base and its
size, held within 2^8 and 2^24 entries, while the extension holds nothing, and is ignored while it does; a copy of a
stolen entry that nobody has answered for in four decode timeouts is put into a record, and DEQUE_LOST is posted to the
supervisor; without a free record it stays. -/
def Obligations.Deques : Prop :=
  Claims.DequePushPop ∧ Claims.StealsComplete ∧ Claims.DequeEvents

/-- The four ring operations, their instructions and their events. R98-R101: the four operations on the control block and the
tables of a ring. A claim is granted at PCLAIM while PCLAIM + n − CHEAD stays within the ring and no claim waits before
it; a commit of an open claim at PTAIL moves PTAIL past it; a wait takes n committed granules from CRES; retiring the
oldest reservation moves CHEAD past it. An operation that names no such claim or reservation, or a count outside the ring,
is REFUSED and changes nothing. R98, R100, R322: the four instructions, from what the home slice answers: RCLAIM gives P,
RCOMMIT and RRETIRE 0, RWAIT P and m after an acquire at OSCOPE; an operation that waits leaves its thread waiting. A
block that is not 64-byte aligned is MISALIGNED. R97, R98: a plain store that has reached a registered block clears its
tables; an operation of any agent reaches the home slice, and a ring port learns the outcome; the first waiting claim or
wait is granted once it fits, and its thread takes P, or P and m. -/
def Obligations.Rings : Prop :=
  Claims.RingOperations ∧ Claims.RingInstructions ∧ Claims.RingEvents

/-- Command registers, SCMD and PSTAT. R327: KSET writes one half of a command register, KMOV copies one, KLD loads sixteen
bytes and needs an address that is sixteen-byte aligned; on a system core each is ILLEGAL (R283). R328, R329: SCMD checks
the command, tests its scope for a cancel, and puts it behind its port's queue, which with the commands under way holds
eight; a command that fails the check is INVALID, 9, and counts as ended in the status word, with its TAG in TAGI; a
cancelled scope gives CANCELLED, 2; a full queue makes the thread wait. R329: PSTAT gives the status word of a port,
DONECNT in its low half, TAG, TAGI and END above it and QUEUED in bits 55:52; an operand above 63 gives −6. -/
def Obligations.CommandHandOver : Prop :=
  Claims.CommandRegisters ∧ Claims.ScmdHandsOver ∧ Claims.PstatReads

/-- Addresses of walked and indexed elements, and PSET. R350, R352: element n of a pattern lies at base + u·(CNT0·S0 + CNT1·S1
+ CNT2·S2 + CNT3·S3), with n = CNT0 + C0·(CNT1 + C1·(CNT2 + C2·CNT3)) and each count but the last below its C, in 64-bit
arithmetic. R358: an index adds u times its signed value to the base. R351: PSET replaces one half of its slot's pattern:
the low half the bits 88:0, the high half, by its bit 87, the bits 177:89, and no other slot. -/
def Obligations.StreamAddresses : Prop :=
  Claims.PatternAddress ∧ Claims.IndexedAddress ∧ Claims.PsetPattern

/-- Stream commands start and issue their elements' requests. R203-R205, R353, R356-R360, R364: the requests of the commands
at a turn with a new element: LOAD, COPY, PREFETCH and FLUSH walk their pattern with a read, a read, a prefetch and a
flush; FILL writes the companion's low bytes; STORE, REDUCE and SCATTER send the bytes they have taken, for an element
within the header's rows and columns, SCATTER at the address of the index; GATHER forms an element at the address of its
index; MCAST reads whole lines for the cores it names. R347, R348: the command at the head of a queue starts once the one
before it has issued its last request: it leaves the queue, latches its slots and stands under way, RECORD and REPLAY
beside the others; a PSET ends as it starts, its slot written; one that is not valid against its slot ends INVALID, with
its TAG in TAGI. -/
def Obligations.CommandsIssue : Prop :=
  Claims.CommandsIssueElements ∧ Claims.CommandsStart

/-- How stream commands end and what the status word then holds. R329, R349, R351, R356, R362-R365: commands that have nothing
left end DONE: the ones that walk a pattern after their last element, those that take a segment once EOT has come and
nothing is outstanding, RECORD and REPLAY after COUNT entries, a PSET that heads its queue in the turn it starts, its
slot's pattern replaced, a SYNC once every earlier command of its thread has ended. R258, R259, R365: RECORD and REPLAY
run beside the port's other commands and end DONE after COUNT entries. -/
def Obligations.CommandsEnd : Prop :=
  Claims.StreamCommandsEnd ∧ Claims.LogCommandsEnd

/-- Elementwise, special-function and conversion cells. R371-R376: arithmetic, the lesser and greater, absolute value and
negation, comparison by the condition code of IMM, selection by a nonzero c, bitwise operations and shifts, element by
element, with the predicate of R196. R377: the seven special functions are element-wise cells, of the format's values; the
model's own enclosure settles their rounding (assumption 18). R378-R380: a conversion of one beat. CVT of one width is
beat for beat; a widening takes a beat in several firings and keeps its input until the last. PACK puts a's elements
before b's, at half the width; UNPACK takes the half that IMM names, at twice the width. SCALE without a scale converts
the elements of the tile. -/
def Obligations.CellArithmetic : Prop :=
  Claims.ElementwiseCells ∧ Claims.SpecialFunctionCells ∧ Claims.ConversionCells

/-- Reduction, permutation and constant cells. R381, R382: RSUM and RMAX gather one element a beat, the sum rounded once and
the greatest of the live elements; ACC adds each live lane to its own, and sends its lanes with LAST, or with each beat
where IMM bit 0 is set. R383, R384: PERM's lane ℓ is lane i of a, i from lane ℓ of b, and dead where i is above 15; BCAST
repeats the element of a that IMM names; CONST sends its slot in every element; PASS sends a on as it is. -/
def Obligations.CellReductionsAndMoves : Prop :=
  Claims.ReductionCells ∧ Claims.MoveCells

/-- The flow cells complete: FILTER, COUNT, LOOP, FORK, JOIN and FENCE. R162, R163, R390, R391: FILTER sends each container of
a to the arm that its lane of b names, a beat of an arm that fills by that arm's output, and on output 2 which arm each
went to. COUNT at level 0 sends, with its trigger and then at each turn of the run, the token of its index; chained, one
token for each token from the level below. cellFilter and cellCount complete so. R164, R165, R392: LOOP sends a's record
on as iteration 0; keeps the record a back edge brings; sends it on as the next iteration while the window has room; a
status without LAST confirms the oldest iteration, one with LAST also squashes the later ones, and the exiting iteration's
record then leaves by output 1. cellLoop completes so. R233, R235, R399, R400: FORK sends its ORD on. JOIN sends, once
every used input holds one, a token of a's kind; with PRED, one whose LAST says that c's lane 0 is zero. FENCE sends an
ORD once its trigger and its DONE inputs hold a token, at PACKAGE and SYSTEM scope after the place's writes are performed,
the die's SHARE_PKG lines leaving; each is VOID where a consumed token is. cellFork, cellJoin and cellFence complete so. -/
def Obligations.CellFlow : Prop :=
  Claims.FilterAndCount ∧ Claims.LoopCell ∧ Claims.OrderCells

/-- Tile stores, memory-port nodes and matrix nodes. R171, R172, R401-R404: a FIFO and a SPORT take a beat behind what they
hold, a BUF into the buffer it fills; a FIFO gives its oldest token by output 0; AGEN reads the row an index names;
LINEBUF reads the row of its window that an index names and drops the window's front with LAST. R232, R236, R393-R398: a
memory node with an index beat whose lanes all reach memory sends a beat of what they read, an ORD on output 1 and a DONE
on output 2, and counts the firing; a VOID beat makes no access and gives VOID tokens. Lane ℓ names the address of its
slot 0 plus four times its index. R167-R170, R192-R195, R298, R406: MZERO empties the active accumulator; MMA with the
four buffers full and of the beats it needs multiplies them into it, frees the buffers and consumes its token; MDRAIN
exchanges the accumulators and sends the one that was active as a segment. -/
def Obligations.MemoryAndMatrixNodes : Prop :=
  Claims.TileCells ∧ Claims.MemoryNodes ∧ Claims.MatrixNodes

/-- Power cap, thermal trip, rails and links. R18-R21: a sample applies the caps written before it, updates every field of
PWRSTAT and moves the throttle factor by the strictest case that holds; at 115 °C it is a thermal trip: no partition is
left, the rails are down and THERMTRIP holds the die and the temperature. A write of PWRCAP is held within its ranges, and
ignored once LOCK is 1. R15, R17, R21, R22, R49, R59: the rail-set frame goes out twice, 3,500 cycles apart; a core rail
that falls leaves its die held in reset, with no site, slice or running thread of it, and its launches ended FAULTED; a
die trains once it is out of reset, and an HBM4E stack; an enabled PCIe port trains to what its partner allows and a
disabled one does not; an Ethernet link comes up; a reset gives the reset state, with the fuses and bit 0 of THERMTRIP as
they were, and the public key that the OTP secret gives. -/
def Obligations.PowerAndLinks : Prop :=
  Claims.PowerControl ∧ Claims.RailsAndLinks

/-- The boot ROM's steps and its image checks. R49-R53: the steps of the boot ROM. A link leads to the wait of 8 s for an
address, the offer to the fetch; an attempt that has no link after 5 s, no address, a bad transfer or an image that a
check of R51 refuses fails with its cause; an image that passes every check is copied to LOADADDR and system core 0 starts
at LOADADDR + ENTRY in monitor mode; the retry timer begins the next attempt, on IO0 for the first four, on IO1 for the
next four, and on IO0 from then on. R50, R51: of an image of the right size that has come whole, the first failing check
gives the cause, and one that fails none runs. -/
def Obligations.NetworkBoot : Prop :=
  Claims.NetworkBootSteps ∧ Claims.ImageChecks

/-- Messages are cut into coded fragments, and the registers that set the code. R24-R27, R29, R32, R39, R59: a message between
two endpoints of the package, within the length its code allows, goes over the die mesh where both ends are cores or
slices of one die and over the package network otherwise, in the class of its traffic, BULK above 256 bytes. It leaves as
one fragment for each index whose plane is enabled: all of size F, data fragment i with bytes i·F on, zeros beyond L, the
first parity fragment their XOR, each on plane (message ID + n) mod P; the source's next ID goes up by one. The code is
the register's once firmware has written it, the reduced one before (the model's choice between R39 and R59, assumption
126). R39, R40, R42: an accepted write of a code register sets its code and its plane mask, with the planes the network
has; a refused one sets ERR alone; one with ERR = 1 clears ERR alone; a write of a counter register clears its two
counters at the endpoint selected. -/
def Obligations.MessageEncoding : Prop :=
  Claims.MessageEncoded ∧ Claims.SprayRegisters

/-- Fragments arrive, messages are decoded and delivered, and losses are reported. R31, R33, R35: a fragment with a flit that
fails its CRC, or that fails the header checks, counts as an erasure; a valid one joins the slot of its message and code,
or is dropped as late or as stale, or waits for a slot, or opens one, by the first row that matches; a plane that a
waiting fragment holds brings none. R34, R35: a slot that holds its k data fragments delivers the message they hold and
closes, and the message is finished; a fragment that waits is let in once a slot is free, its cycles of waiting counted.
R36-R38, on the networks of the package: a slot short of k fragments at its timeout closes, NETLOSS counts and a notice
with the bitmap of the fragments held goes back, a CTRL message to the source; a notice that has come and a response timer
that runs out raise NET_LOSS at the requester, the latter with a zero bitmap and the TIMER bit. -/
def Obligations.MessageArrival : Prop :=
  Claims.FragmentArrives ∧ Claims.MessageDelivered ∧ Claims.MessageLost

/-- Partition commands: create, destroy, halt, resume, drain and fill. R63-R65: CREATE from a valid record, with a catalogue
in order, an unused ASID, fewer than 512 partitions and free planes, makes the partition: RUNNING in the active planes,
STORED in the storeroom planes, with no launch and scope 0 alone. A bad record is 1, a plane in use 2, an ASID in use 3, a
full table 5. While a command is under way a write is ignored and sets ERR; a write with ERR = 1 clears ERR alone. R64,
R65, R83: DESTROY of a partition at rest removes it with its places and threads, and is BADSTATE, 4, of one that runs;
HALT freezes its threads and makes it HALTING, and HALTED once nothing of it is on its way; RESUME makes it RUNNING again
with its threads unfrozen; DRAIN of a STORED partition keeps BUSY set until the copy is done, and it is then DRAINED; FILL
gives it back as STORED. -/
def Obligations.Partitions : Prop :=
  Claims.PartitionCreate ∧ Claims.PartitionLife

/-- The dispatcher, completion of launches and the wait census. R75-R79: of the ready queues the dispatcher serves, the head
of the highest whose folio is cached and has a free region starts: its region is placed at the origin found, its entry
thread begins at ENTRY in user mode with g1 = ARG and g2 = the launch ID and every other register zero, and the entry is
RUNNING; heads above it stay blocked. A launch that has waited 4,096 cycles more moves to the tail of the next queue; a
head blocked for 16,384 cycles holds the queues below it back; the region's power-up makes it ready. R73, R74: a launch
whose entry thread has ended and whose regions have all come to rest completes: its entry is COMPLETE, its regions and its
threads are gone, and the granules are free again. R102, R103: after 65,536 cycles of silence, with every live thread of a
running partition in a census wait and one waiter at least, a thread or a pitch, WAIT_DEADLOCK is posted to its
supervisor, and the silence begins again; without a census area the trap says that no record was written. A ring agent
that waits counts as activity. -/
def Obligations.Dispatcher : Prop :=
  Claims.DispatcherSteps ∧ Claims.LaunchCompletes ∧ Claims.WaitCensus

/-- The block schedule and the context switch. R80-R82, R331: at the end of a segment the block that FSEL has selected is
chosen, else one passed over sixteen times, else the one with the longest WAIT; with every WAIT 0 the region idles, and
the first block to receive a record is taken; the region then runs it from its configuration. R130, R420: a folded
footprint whose logical instance has been struck runs the next one, once a token waits on one of its argument lines or it
takes none. -/
def Obligations.BlockSchedule : Prop :=
  Claims.BlockChosen ∧ Claims.FoldedTurn

/-- Catalogue loads, and how the Curator serves requests. R121-R123: a write of CATCTL names a partition and a count and
starts a load; no such partition is RESULT 4, a count above 256 RESULT 5, and a write during a load sets ERR. A load that
finds every entry in order gives the partition its new catalogue, with an empty cache and no warm footprint; one that does
not changes RESULT and INDEX alone. A fetch that finds its image in order leaves the routine in the core's cache, where
none there is pinned. R125, R127-R129, R133, R137: the head of the queue whose turn it is. A pitch whose routine is cached
is granted on the footprints found, as many as it asks for, or, for a FOLDABLE routine, those a stow has freed for it or
at least one: its logical instances are dealt to them in turn, each placed for its caller with its route IDs, and the
request leaves the queue. An unstow takes the first passing candidate around the instance's former origin, and its copy
begins. -/
def Obligations.CatalogueAndCurator : Prop :=
  Claims.CatalogueLoads ∧ Claims.CuratorServes

/-- Stow and unstow, and the waits of the Curator. R131-R134: once the copies of a request's victims have completed they are
stowed and the request is served, where the Curator grants, has its image and has the route IDs; until then their
footprints are kept for it. A result that reaches an instance being copied, kept out or stowed goes to its record; once an
unstow has completed the instance is awake and its slots are free; STOWCFG is ignored while a slot is in use. R136, R141:
a head that has waited 32,768 cycles posts CURATOR_STALL to the supervisor and waits anew; the free granules of a running
partition come to standby, and the instances placed before wake. -/
def Obligations.CuratorStow : Prop :=
  Claims.StowSteps ∧ Claims.CuratorWaits

/-- A switch forwards tokens along its route, and gating of idle sites. R115, R116, R148, R154, R155: a token whose check is
good leaves its source and goes down every branch of its box, once each can take it: onto the segment of an output with
the switch's route ID, into the input of the site, into the input of a router slot. One that crosses a seam to another
core is a message, and is at the far side only once that has arrived. R173: a site that has neither fired nor accepted a
token for 32 cycles is gated, whatever it holds, unless it is waking already; two cycles after a token has reached it, it
is awake. -/
def Obligations.FabricSwitching : Prop :=
  Claims.SwitchForwards ∧ Claims.SiteGating

/-- Requests at a slice, and lines that move. R97, R210-R214: a request that has reached its slice, the home slice of a ring
where it touches the line of the block. A read that hits is answered with its bytes, under the region's uncommitted
writes, and makes the line the most recently used; a write that hits a line changes its bytes, marks a write-back line
dirty and sends those of a write-through line on, and is acknowledged; a read that misses with an entry free takes it and
asks the LLC; with none free it is refused with a hint, and a PRIO request reserves the next entry for 1,024 cycles, a
reservation that then lapses. R211, R213, R215, R218, R220, R222: a request that has reached the LLC is performed where
its line is resident and none to it stands before it, else waits for the line's fill from HBM4E; after the fill the line
is resident and the requests that waited have been performed. At the slice the answer to a fill serves the reads that
waited and is installed, the answer to any other request ends its entry, and one to a write-back lets what waited go on; a
tile is decoded and its line installed, or every request that waits meets the fault. -/
def Obligations.SlicesAndLines : Prop :=
  Claims.SliceRequests ∧ Claims.LinesMove

/-- Answers at a stream port, and its events. R204, R214, R224, R364, R426: an answer that has come reaches the element that
waits for it: data stand with it, an acknowledgement ends it and its flags are kept, a refusal makes it wait for its hint,
a fault and a loss stand until the element is raised in its turn, or pass a PREFETCH over; an answer for killed work is
counted and dropped. After the wait the request is sent again, with PRIO from the eighth refusal on. R85, R203, R206: a
walk whose turn it is at its core and that succeeds leaves its leaf with the generator, for the page it maps; a window of
a port begins with nothing admitted in it, and one that has admitted its rate, scaled by the throttle factor and at least
1, admits no token more; RGRATE sets a port's rate, with windows of 2^6 cycles or more. -/
def Obligations.PortTraffic : Prop :=
  Claims.PortAnswers ∧ Claims.PortEvents

/-- MCAST lines and the answers of memory. R217, R360: as the response of a line's group leaves its slice, the slice is rid of
the group and its entry and copies of the line are on their way to the cores; the notice of the last line ends the MCAST.
A copy that has come lands in the buffer; a drop notice discards the lines and lets the MRX LOADs that wait for them read
them themselves. R38, R314, R317: the answer to an access at a thread's pc takes its timers down; a store that is
performed leaves the buffer, and one that meets an uncorrectable error or is lost becomes an imprecise error of code 10 or
12; a load that meets one takes the precise trap, and one that is lost NET_LOSS. What a loss leaves undone: a lost
request; with a lost answer the write has been done, and where a timer has run out either may be. -/
def Obligations.McastAndMemoryAnswers : Prop :=
  Claims.McastEvents ∧ Claims.MemoryAnswers

/-- Waves, rollback and records that resume. R250-R253: a wave, or with the EOT a segment, is complete once every output has
passed it and the writes held up to it are performed: older snapshots go, retries begin anew. A region due to roll back
drops what it holds, counts it, and its sites stand as their snapshot says, a PITCH's later calls apart, the DONEs of the
complete wave's writes going out again; its ports go on from their counters. RBAREA is ignored while copies are held.
R227: FRESUME of a record in use frees it. A resume lets the commands of its port go on, translating anew, a node fire
again, a pitch wait at the queue's end. An abandon, or a resume of a fault that cannot go on, ends the launch FAULTED and
tainted; killed work only gives its record back. A write that names no record in use changes nothing. -/
def Obligations.RollbackAndRecords : Prop :=
  Claims.WavesAndRollback ∧ Claims.RecordsResume

/-- Framing at a cell, and the framing cells complete: MSEQ, HDRGEN, MARKIN, FLAGS and SEGIN. R147, R151, R157-R159, at a cell
of one input: SOT opens a segment and goes on; a second SOT, or anything else outside a segment, is an ALIGN fault, 4; a
beat before its header is a HEADER fault, 5; ORD, DONE and CTRL are KIND faults, 3; EOT closes the segment and gives the
launch the sticky flags; MARK goes on; KILL clears the state and goes on by every output. R405, R407-R410: MSEQ sends the
MMA of its template, without ACC for the first of an accumulation, MZERO before it where ZERO is set and a segment begins,
and the drain with LAST unless NODRAIN is set; HDRGEN sends a header on with the fields put in that IMM names, its format
A where bit 0 is set, and passes beats on; MARKIN puts a MARK of b before a's beat; FLAGS passes beats on, and with EOT
sends its flag segment on output 1; SEGIN passes beats on and cuts a segment after one with LAST. cellMseq, cellHdrgen,
cellMarkin, cellFlags and cellSegin complete so. -/
def Obligations.CellFraming : Prop :=
  Claims.FramingAtACell ∧ Claims.FramingCells
end

