-- ==== Sys2Proof/Laws/Ops.lean ====
section
/-! SUPPORT. What the shared operations do, one lemma each: finding and putting back an object, registers, the operand forms,
traps, and the memory accesses of every agent, which keep both memories in their canonical form. -/

namespace Sys2Proof.Machine

/-! ### Lists of objects -/

theorem find?_updBy_hit {α : Type} {p : α → Bool} {f : α → α} (hf : ∀ x, p x = true → p (f x) = true) :
    ∀ {l : List α} {x : α}, l.find? p = some x → (updBy p f l).find? p = some (f x)
  | y :: l, x, h => by
    unfold updBy
    simp only [List.map_cons]
    cases hy : p y with
    | true =>
      rw [List.find?_cons_of_pos hy] at h
      cases h
      rw [if_pos rfl, List.find?_cons_of_pos (hf _ hy)]
    | false =>
      rw [List.find?_cons_of_neg (by simp [hy])] at h
      simp only [Bool.false_eq_true, if_false]
      rw [List.find?_cons_of_neg (by simp [hy])]
      exact find?_updBy_hit hf h

/-- A thread that has been put back is found. -/
theorem thread?_setThread {s : State} {t u : Thread} (h : s.thread? u.id = some t) : (s.setThread u).thread? u.id = some u :=
  find?_updBy_hit (fun _ _ => by simp) h

/-- Another thread is as it was. -/
theorem thread?_setThread_other {s : State} {u : Thread} {id : ThreadId} (h : id ≠ u.id) :
    (s.setThread u).thread? id = s.thread? id := by
  unfold State.thread? State.setThread updBy
  simp only
  induction s.threads with
  | nil => rfl
  | cons y l ih =>
    simp only [List.map_cons]
    by_cases hy : y.id = u.id
    · rw [if_pos (by simp [hy]), List.find?_cons_of_neg (by simpa using fun e => h e.symm),
        List.find?_cons_of_neg (by simpa [hy] using fun e => h e.symm)]
      exact ih
    · rw [if_neg (by simpa using hy)]
      by_cases hi : y.id = id
      · rw [List.find?_cons_of_pos (by simp [hi]), List.find?_cons_of_pos (by simp [hi])]
      · rw [List.find?_cons_of_neg (by simpa using hi), List.find?_cons_of_neg (by simpa using hi)]
        exact ih

/-- A scalar instruction acts on the thread that issues. -/
theorem onCur_issues {s : State} {t : Thread} {f : Thread → State} (h : Issues s t) : onCur s f = .next (f t) := by
  unfold onCur
  rw [show s.thread? s.cur = some t from h]

/-! ### Registers -/

@[simp] theorem Thread.reg_zero (t : Thread) : t.reg 0 = 0 := rfl
@[simp] theorem Thread.writeReg_zero (t : Thread) (v : Word) : t.writeReg 0 v = t := rfl

/-- A register that has been written reads as the value. -/
theorem Thread.reg_writeReg_same {t : Thread} {d : Reg} {v : Word} (h : d ≠ 0) : (t.writeReg d v).reg d = v := by
  unfold Thread.reg Thread.writeReg
  rw [if_neg h, if_neg h]
  exact Vector.getElem_set_self _

/-- Every other register reads as before. -/
theorem Thread.reg_writeReg_other {t : Thread} {d r : Reg} {v : Word} (h : r ≠ d) : (t.writeReg d v).reg r = t.reg r := by
  unfold Thread.reg Thread.writeReg
  split
  · rfl
  · split
    · rfl
    · exact Vector.getElem_set_ne d.isLt r.isLt (fun e => h (BitVec.eq_of_toNat_eq e.symm))

@[simp] theorem Thread.reg_advance (t : Thread) (r : Reg) : t.advance.reg r = t.reg r := rfl
@[simp] theorem Thread.reg_raise (t : Thread) (fl : Flags) (r : Reg) : (t.raise fl).reg r = t.reg r := rfl

/-- An instruction that writes gd and moves on: gd, every other register, and the pc. -/
theorem Thread.retire_spec (t : Thread) (d : Reg) (v : Word) :
    (d ≠ 0 → (t.retire d v).reg d = v) ∧ (∀ r, r ≠ d → (t.retire d v).reg r = t.reg r) ∧ (t.retire d v).pc = t.pc + 4 := by
  refine ⟨fun h => ?_, fun r h => ?_, ?_⟩
  · exact Thread.reg_writeReg_same h
  · exact Thread.reg_writeReg_other h
  · simp

/-! ### The operand forms -/

theorem intRR_issues {s : State} {t : Thread} (d a b : Reg) (w : Bool) (f : Nat → Nat → Nat → Nat) (h : Issues s t) :
    intRR d a b w f s = .next (s.setThread (t.retire d (extInt w (f (formWidth w) (t.src a w) (t.src b w))))) := onCur_issues h
theorem intR_issues {s : State} {t : Thread} (d a : Reg) (w : Bool) (f : Nat → Nat → Nat) (h : Issues s t) :
    intR d a w f s = .next (s.setThread (t.retire d (extInt w (f (formWidth w) (t.src a w))))) := onCur_issues h
theorem intRI_issues {s : State} {t : Thread} (d a : Reg) (f : Word → Word) (h : Issues s t) :
    intRI d a f s = .next (s.setThread (t.retire d (f (t.reg a)))) := onCur_issues h
theorem fpRR_issues {s : State} {t : Thread} (d a b : Reg) (p : Bool) (f : Fmt → Val → Val → Nat × Flags) (h : Issues s t) :
    fpRR d a b p f s = .next (s.setThread (t.fretire d (f (precFmt p) (t.fsrc a p) (t.fsrc b p)))) := onCur_issues h

/-! ### Traps -/

/-- Taking a trap: the bank of the target mode, the mode and the pc (R334). -/
theorem Thread.enter_spec (t : Thread) (m : Mode) (v : Word) (r : TrapReq) (hm : m ≠ .user) :
    let u := t.enter m v r
    u.mode = m ∧ u.pc = v ∧ u.wait = .none ∧ u.inh = true ∧ (u.bank m).epc = r.epc ∧ (u.bank m).ecause = ecauseWord r ∧
    (u.bank m).eval = r.eval ∧ (u.bank m).pmode = BitVec.ofNat 2 t.mode.code ∧ (u.bank m).tvec = (t.bank m).tvec ∧
    (u.bank m).escratch = (t.bank m).escratch ∧ u.gpr = t.gpr ∧ u.kreg = t.kreg ∧ u.fflags = t.fflags ∧ u.id = t.id := by
  cases m with
  | user => exact absurd rfl hm
  | supervisor => exact ⟨rfl, rfl, rfl, rfl, rfl, rfl, rfl, rfl, rfl, rfl, rfl, rfl, rfl, rfl⟩
  | monitor => exact ⟨rfl, rfl, rfl, rfl, rfl, rfl, rfl, rfl, rfl, rfl, rfl, rfl, rfl, rfl⟩

/-- Outside a handler a synchronous trap is entered in the mode of R336. -/
theorem syncTrap_clear {s : State} {t : Thread} (code sub : Nat) (imp norec : Bool) (epc eval : Word) (h : t.inh = false) :
    syncTrap s t code sub imp norec epc eval = enterTrap s t (ownTarget t code)
      { code := code, sub := sub, imp := imp, asyn := false, norec := norec, asid := t.asid, epc := epc, eval := eval } := by
  simp [syncTrap, h]

/-- In a handler it is DOUBLE_TRAP. -/
theorem syncTrap_nested {s : State} {t : Thread} (code sub : Nat) (imp norec : Bool) (epc eval : Word) (h : t.inh = true) :
    syncTrap s t code sub imp norec epc eval = doubleTrap s t code := by simp [syncTrap, h]

/-! ### Accesses keep the memories in form -/

theorem Acc.leaves_bind {α β : Type} {P : State → Prop} {a : Acc α} {f : State → α → Acc β} (ha : a.Leaves P)
    (hf : ∀ s v, a = .ok s v → P s → (f s v).Leaves P) : (a.bind f).Leaves P := by
  cases a with
  | ok s v => exact hf s v rfl ha
  | fault s c k p => exact ha
  | wait => trivial

theorem useGot_leaves {s : State} {p : Word} {g : Got} (h : MemoryOk s) : (useGot p s g).Leaves MemoryOk := by
  unfold useGot
  split
  · exact h
  · show MemoryOk (if _ then _ else _)
    split <;> exact h

theorem llcLoad_leaves {s : State} (h : MemoryOk s) (lv : Nat) (x : Xl) (n : Nat) : (llcLoad s lv x n).Leaves MemoryOk := by
  have he := expandAt_ok (compDir x (pageBits lv)).1 (compDir x (pageBits lv)).2 h
  unfold llcLoad
  split
  · exact h
  split
  · exact h
  split
  · split
    · next e => rw [e] at he; exact he
    · next e => rw [e] at he; exact useGot_leaves he
  · exact useGot_leaves (llcGet_ok _ _ h)

theorem missRead_leaves {s : State} (h : MemoryOk s) (d lv : Nat) (x : Xl) (n : Nat) : (missRead s d lv x n).Leaves MemoryOk := by
  have ht := tileFor_ok d (sliceIndex x.iset x.pa) (x.window lv) (compDir x (pageBits lv)).2 h
  have hg := fun a n => llcGet_ok (s := s) a n h
  unfold missRead
  simp only
  split
  · exact h
  split
  · trivial
  split
  · split
    · next e => rw [e] at ht; exact ht
    · next e =>
      rw [e] at ht
      apply useGot_leaves
      split
      · exact installAt_ok ht
      · exact ht
  split
  · trivial
  split
  · exact useGot_leaves (installAt_ok (hg _ _))
  · exact useGot_leaves (hg _ _)

theorem readBytes_leaves {s : State} (h : MemoryOk s) (die : Option Nat) (lv : Nat) (x : Xl) (n : Nat) :
    (readBytes s die lv x n).Leaves MemoryOk := by
  unfold readBytes
  generalize placeOf s die x n = dx
  obtain ⟨d, y⟩ := dx
  simp only
  split
  · split
    · trivial
    · exact llcLoad_leaves h _ _ _
  · split
    · trivial
    split
    · exact useGot_leaves h
    split
    · trivial
    · exact missRead_leaves h _ _ _ _

theorem llcStore_leaves {s : State} (h : MemoryOk s) (x : Xl) (bs : List Byte) : (llcStore s x bs).Leaves MemoryOk := by
  unfold llcStore
  split
  · exact ⟨h.1, memWrite_wf h.2⟩
  split
  · exact h
  split
  · exact h
  · exact llcPut_ok (s := markRing s _ _) h

theorem hitWrite_leaves {s : State} (h : MemoryOk s) (sl : Slice) (l : SLine) (x : Xl) (bs : List Byte) : (hitWrite s sl l x bs).Leaves MemoryOk := by
  unfold hitWrite
  simp only
  split
  · exact h
  split
  · exact h
  split
  · trivial
  split
  · exact Acc.leaves_bind (llcStore_leaves h x bs) (fun _ _ _ h1 => h1)
  · refine Acc.leaves_bind (llcStore_leaves ?_ x bs) (fun _ _ _ h1 => h1)
    split
    · exact llcBack_ok h
    · exact h

theorem missWrite_leaves {s : State} (h : MemoryOk s) (sl : Slice) (x : Xl) (bs : List Byte) : (missWrite s sl x bs).Leaves MemoryOk := by
  have hg := fun a n => llcGet_ok (s := s) a n h
  unfold missWrite
  simp only
  split
  · exact h
  split
  · trivial
  split
  · split
    · exact hg _ _
    · exact installAt_ok (hg (x.pa / 128 * 128) 128)
  · exact Acc.leaves_bind (llcStore_leaves h x bs) (fun _ _ _ h1 => h1)

theorem writeBytes_leaves {s : State} (h : MemoryOk s) (die : Option Nat) (x : Xl) (bs : List Byte) :
    (writeBytes s die x bs).Leaves MemoryOk := by
  unfold writeBytes
  generalize placeOf s die x bs.length = dx
  obtain ⟨d, y⟩ := dx
  simp only
  split
  · split
    · trivial
    · exact llcStore_leaves h _ _
  · split
    · trivial
    split
    · exact hitWrite_leaves h _ _ _ _
    split
    · trivial
    · exact missWrite_leaves h _ _ _

theorem readTable_leaves {s : State} (h : MemoryOk s) (die : Option Nat) (a : Nat) : (readTable s die a).Leaves MemoryOk := by
  unfold readTable
  refine Acc.leaves_bind ?_ (fun _ _ _ h1 => h1)
  split
  · exact llcLoad_leaves h _ _ _
  · exact readBytes_leaves h _ _ _ _

theorem walkFrom_leaves (die : Option Nat) (core asid va : Nat) : ∀ (k lv a : Nat) {s : State}, MemoryOk s →
    (walkFrom die core asid va k lv a s).Leaves MemoryOk
  | 0, _, _, s, h => h
  | k + 1, lv, a, s, h => by
    have hr := readTable_leaves h die (a + 8 * walkIdx va lv)
    unfold walkFrom
    simp only
    split
    · trivial
    · next e => rw [e] at hr; exact hr
    · next s' v e =>
      rw [e] at hr
      have hr' : MemoryOk s' := hr
      repeat' split
      all_goals first | exact hr' | exact walkFrom_leaves _ core asid va k _ _ hr'

theorem walk_leaves {s : State} (h : MemoryOk s) (die : Option Nat) (core asid va : Nat) : (walk s die core asid va).Leaves MemoryOk := by
  unfold walk
  split
  · exact h
  · exact walkFrom_leaves die core asid va _ _ _ h

theorem translate_leaves {s : State} (h : MemoryOk s) (die : Option Nat) (core asid va : Nat) (nd : Need) :
    (translate s die core asid va nd).Leaves MemoryOk := by
  unfold translate
  split
  · exact h
  · exact Acc.leaves_bind (walk_leaves h die core asid va) (fun s1 v _ h1 => by
      show Acc.Leaves _ (match permSub v.1 nd with | some k => _ | none => _)
      split <;> exact h1)

theorem hwPut_ok {s s' : State} (h : MemoryOk s) {asid va : Nat} {bs : List Byte} (e : hwPut s asid va bs = some s') : MemoryOk s' := by
  have ht := translate_leaves h none 0 asid va (Need.store false)
  unfold hwPut at e
  split at e
  · next s1 x lv e1 =>
    rw [e1] at ht
    have hw := llcStore_leaves (s := s1) ht x bs
    split at e
    · next s2 e2 => rw [e2] at hw; cases e; exact hw
    · cases e
  · cases e

theorem hwWrite_ok : ∀ {k : Nat} {s s' : State} {asid va : Nat} {bs : List Byte}, MemoryOk s → hwWrite k s asid va bs = some s' → MemoryOk s'
  | 0, s, s', _, _, _, h, e => by cases e; exact h
  | k + 1, s, s', asid, va, bs, h, e => by
    unfold hwWrite at e
    split at e
    · cases e; exact h
    · split at e
      · cases e
      · next e1 => exact hwWrite_ok (hwPut_ok h e1) e

theorem recPut_ok {s s' : State} (h : MemoryOk s) {asid va : Nat} {bs : List Byte} (e : recPut s asid va bs = some s') : MemoryOk s' := by
  unfold recPut at e
  split at e
  · next x _ _ =>
    have hw := llcStore_leaves h x bs
    split at e
    · next s2 e2 => rw [e2] at hw; cases e; exact hw
    · cases e
  · cases e

theorem takeRecord_ok {s : State} (h : MemoryOk s) (asid : Nat) (o : RecOwner) (f : FaultInfo) : MemoryOk (takeRecord s asid o f).1 := by
  unfold takeRecord
  split
  · exact h
  · split
    · exact h
    · simp only
      split
      · exact h
      · split
        · next e => exact recPut_ok (s := State.updPart s asid _) h e
        · exact h

theorem scalarRecord_ok {s : State} (h : MemoryOk s) (t : Thread) (f : FaultInfo) : MemoryOk (scalarRecord s t f).1 := by
  have hr := takeRecord_ok h t.asid .scalar f
  unfold scalarRecord
  simp only
  split <;> exact hr

theorem postTrap_ok {s : State} (h : MemoryOk s) (id : ThreadId) (a : AsyncTrap) : MemoryOk (postTrap s id a) := h

theorem passTraps_ok {s : State} (h : MemoryOk s) (t : Thread) : MemoryOk (passTraps s t) := by
  have fold : ∀ (l : List AsyncTrap) (s : State), MemoryOk s →
      MemoryOk (l.foldl (fun st a => postSupervisor st a.asid a.code a.eval a.norec) s) := by
    intro l
    induction l with
    | nil => exact fun _ h => h
    | cons a l ih => exact fun s h => ih _ (postTrap_ok h _ _)
  exact fold _ (s.updThread t.id (fun u => { u with async := [] })) h

theorem threadEnds_ok {s : State} (h : MemoryOk s) (t : Thread) (b : Bool) : MemoryOk (threadEnds s t b) := by
  unfold threadEnds
  split
  · exact h
  · exact passTraps_ok h t

theorem doubleTrap_ok {s : State} (h : MemoryOk s) (t : Thread) (code : Nat) : MemoryOk (doubleTrap s t code) := by
  unfold doubleTrap
  simp only
  split
  · exact h
  · have h1 := threadEnds_ok (s := s.setThread { t with run := .stopped, wait := .none }) h t true
    exact takeRecord_ok h1 _ _ _

theorem syncTrap_ok {s : State} (h : MemoryOk s) (t : Thread) (code sub : Nat) (imp norec : Bool) (epc eval : Word) :
    MemoryOk (syncTrap s t code sub imp norec epc eval) := by
  unfold syncTrap
  split
  · exact doubleTrap_ok h t code
  · exact h

theorem accessFault_ok {s : State} (h : MemoryOk s) (t : Thread) (code sub : Nat) (pte : Word) (va : Nat) (w : Bool) :
    MemoryOk (accessFault s t code sub pte va w) := by
  unfold accessFault
  split
  · exact doubleTrap_ok h t code
  · exact syncTrap_ok (scalarRecord_ok h t _) t code sub false _ t.pc _

theorem threadXl_leaves {s : State} (h : MemoryOk s) (t : Thread) (va : Nat) (nd : Need) : (threadXl s t va nd).Leaves MemoryOk := by
  unfold threadXl
  split
  · split
    · exact h
    · split
      · exact h
      · exact translate_leaves h _ _ _ _ _
  · exact translate_leaves h _ _ _ _ _

/-- R313's checks: what an access of a thread leaves is in form if its continuation keeps it. -/
theorem checked_ok {s : State} (h : MemoryOk s) (t : Thread) (ea : Word) (n : Nat) (nd : Bool → Need) (w : Bool)
    (k : State → Xl → Nat → State) (hk : ∀ s' x lv, MemoryOk s' → MemoryOk (k s' x lv)) : MemoryOk (checked s t ea n nd w k) := by
  have ht := threadXl_leaves h t ea.toNat (nd (t.mode = .user))
  unfold checked
  split
  · exact syncTrap_ok h _ _ _ _ _ _ _
  · split
    · exact h
    · next e => rw [e] at ht; exact accessFault_ok ht _ _ _ _ _ _
    · next e => rw [e] at ht; exact hk _ _ _ ht

theorem threadBytes_leaves {s : State} (h : MemoryOk s) (t : Thread) (die : Option Nat) (lv : Nat) (x : Xl) (n : Nat) :
    (threadBytes s t die lv x n).Leaves MemoryOk :=
  Acc.leaves_bind (readBytes_leaves h die lv x n) (fun s1 v _ h1 => by
    show MemoryOk (if _ then _ else _)
    split <;> exact h1)

theorem threadRead_leaves {s : State} (h : MemoryOk s) (t : Thread) (x : Xl) (lv n : Nat) : (threadRead s t x lv n).Leaves MemoryOk := by
  unfold threadRead
  split
  · exact h
  · exact Acc.leaves_bind (threadBytes_leaves h t _ lv x n) (fun _ _ _ h1 => h1)

theorem performStore_ok {s s' : State} {t : Thread} {e : StoreEnt} {l : List ImpErr} (h : MemoryOk s) (he : performStore s t e = some (s', l)) :
    MemoryOk s' := by
  have hw := writeBytes_leaves h t.id.die? e.xl e.bytes
  unfold performStore at he
  split at he
  · next e1 => rw [e1] at hw; cases he; exact hw
  · cases he
  · next e1 =>
    rw [e1] at hw
    split at he <;> cases he
    · exact hw
    · exact scalarRecord_ok hw _ _

theorem drainList_ok {t : Thread} : ∀ {es : List StoreEnt} {s s' : State} {l : List ImpErr}, MemoryOk s → drainList t es s = some (s', l) → MemoryOk s'
  | [], s, s', l, h, e => by cases e; exact h
  | x :: es, s, s', l, h, e => by
    unfold drainList at e
    split at e
    · cases e
    · next s1 a e1 =>
      cases e2 : drainList t es s1 with
      | none => rw [e2] at e; cases e
      | some r =>
        rw [e2] at e
        cases e
        exact drainList_ok (performStore_ok h e1) e2

theorem syncPoint_ok {s : State} (h : MemoryOk s) (t : Thread) (k : State → Thread → State)
    (hk : ∀ s' u, MemoryOk s' → MemoryOk (k s' u)) : MemoryOk (syncPoint s t k) := by
  unfold syncPoint
  split
  · exact syncTrap_ok h _ _ _ _ _ _ _
  · split
    · exact h
    · next e =>
      have h1 := drainList_ok h e
      exact hk _ _ h1
    · next e => exact syncTrap_ok (drainList_ok (s := s) h e) _ _ _ _ _ _ _

end Sys2Proof.Machine
end

