-- ==== Sys2Proof/Tests/Slice0.lean ====
section
/-! SUPPORT. Tests: one ill-formed term for each rule of WellFormed; words written out from the formats decode to what they
stand for; small single steps whose expected values come from the spec; and, for each statement with hypotheses, a concrete
state that meets them. -/

namespace Sys2Proof.Tests

open Sys2Proof Sys2Proof.Machine Sys2Proof.Claims

/-! ### A small machine -/

/-- The package with its memory stacks and dies trained. -/
def pkgUp : Pkg := { Pkg.reset with hbmTrained := List.replicate 16 true, dieTrained := List.replicate 8 true, railReset := List.replicate 8 false }

/-- System core 0, running in monitor mode; g1 holds `x` and g2 holds `y`. -/
def sysT (x y : Word) : Thread := (({ Thread.fresh (.sys 0) with run := .running } : Thread).writeReg 1 x).writeReg 2 y

/-- A user thread of the region of partition 1, with g1 and g2. -/
def ctlT (x y : Word) : Thread :=
  (({ Thread.fresh (.ctl 0 0 0) with run := .running, mode := .user, asid := 1, place := 1 } : Thread).writeReg 1 x).writeReg 2 y

/-- A partition of the whole of die 0. -/
def part : Partition :=
  freshPart { asid := 1, plane := 0, ptroot := 4096, catbase := 0, catcount := 4, homedie := 0, homecore := 0,
              rects := [{ die := 0, col := 0, row := 0, cols := 8, rows := 4 }], ok := true } 0

/-- A folio of four by four sites with the given words. -/
def folio (cells : List (Placed 64)) (routs : List (Placed 32)) : Folio :=
  { w := 4, h := 4, cls := 0, foldable := false, stow := 0, warm := false, narg := 0, nres := 0, mkint := 0,
    masks := [15, 15, 15, 15], cells := cells, routs := routs, ports := [], routine := 0 }

/-- The region of launch 0 of partition 1, in core 0 of die 0. -/
def place (f : Folio) (ports : List Port) : Place :=
  { id := 1, asid := 1, die := 0, gx := 0, gy := 0, gw := 4, gh := 4, lslot := 0, scope := 0, slots := [some f, none, none, none],
    run := 0, sel := none, chosen := none, sched := none, passc := [], spare := 0, idle := false, first := none, past := 0, before := 0, ready := true, ports := ports,
    unstitched := [], rgport := 0, killed := false, stopped := false, verdict := 0, segFault := [], segFlags := [], rb := none,
    inst := none }

/-- A running launch in slot 0. -/
def entry : TgEntry :=
  { slot := 0, gen := 0, st := .running, entry := 0, arg := 0, crec := 0, folio := 0, scope := 0, prio := 0, record := false,
    replay := false, preds := [], creator := none, place := some 1, startCycle := 0, level := 0, qseq := 0, readyAt := 0, joined := 0, was := none,
    blockedAt := none, capped := false, threadDone := false, killed := false, status := 0, verdict := 0, flags := 0, segs := 0, rollbacks := 0,
    nfault := 0, fcode := 0, fwhere := [0, 0, 0, 0], faddr := 0, frec := 0 }

/-- One system core. -/
def sysW (t : Thread) : State := { State.reset with pkg := pkgUp, threads := [t] }

/-- A partition, a region of it, a user thread whose turn it is, and the supervisor of the partition. -/
def ctlW (t : Thread) (p : Partition) (x : Place) : State :=
  { State.reset with pkg := pkgUp, cur := .ctl 0 0 0, threads := [t, sysT 0 0], parts := [p], places := [x], nextPlace := 2 }

def node : Node := { place := 1, x := 1, y := 1 }

/-- An access succeeds, with a state and a value of which `P` holds. -/
def okAnd {α : Type} (f : Acc α) (P : State → α → Bool) : Bool := match f with | .ok s a => P s a | _ => false

/-- An instruction answers a next state, of which `P` holds. -/
def nextAnd (o : Host.Outcome State Fault Refusal) (P : State → Bool) : Bool := match o with | .next s => P s | _ => false

/-! ### Ill-formed terms -/

theorem test_fcvt_code : wellFormed (.fcvt 1 2 10 0) = false ∧ wellFormed (.fcvt 1 2 9 0) = true := by decide
theorem test_lda_unsigned_d : wellFormed (.lda 1 2 0 true 3) = false ∧ wellFormed (.lda 1 2 0 true 2) = true := by decide
theorem test_scopes : wellFormed (.lda 1 2 5 false 0) = false ∧ wellFormed (.stl 1 2 5 0) = false ∧ wellFormed (.fence 5) = false ∧
    wellFormed (.amoadd 1 2 3 5 true) = false ∧ wellFormed (.amoswap 1 2 3 5 true) = false ∧ wellFormed (.amocas 1 2 3 5 true) = false ∧
    wellFormed (.amomin 1 2 3 5 true true) = false ∧ wellFormed (.amomax 1 2 3 5 true true) = false ∧
    wellFormed (.amoand 1 2 3 5 true) = false ∧ wellFormed (.amoor 1 2 3 5 true) = false ∧ wellFormed (.amoxor 1 2 3 5 true) = false ∧
    wellFormed (.fence 4) = true := by decide
theorem test_pairs : wellFormed (.launch 3 1) = false ∧ wellFormed (.launch 0 1) = false ∧ wellFormed (.dqpop 31) = false ∧
    wellFormed (.dqsteal 1 1) = false ∧ wellFormed (.rwait 5 1 2) = false ∧ wellFormed (.launch 30 1) = true := by decide
theorem test_router_unused : wellFormed (.ropSteer node { slot := false, in0 := 1, in1 := 2, in2 := 3 }) = false ∧
    wellFormed (.ropInvar node { slot := false, in0 := 1, in1 := 2, in2 := 3 }) = false ∧
    wellFormed (.ropGate node { slot := false, in0 := 1, in1 := 2, in2 := 3 }) = false := by decide
theorem test_cmd_port : ∀ op ∈ [Instr.cmdLoad, .cmdStore, .cmdCopy, .cmdGather, .cmdScatter, .cmdReduce, .cmdMcast, .cmdFill, .cmdPset,
    .cmdInject, .cmdSync, .cmdRecord, .cmdReplay, .cmdXput, .cmdXget, .cmdCreduce, .cmdPrefetch, .cmdFlush],
    wellFormed (op { place := 1, port := 64 } (cmdFields 0)) = false ∧ wellFormed (op { place := 1, port := 63 } (cmdFields 0)) = true := by
  intro op h
  simp only [List.mem_cons, List.not_mem_nil, or_false] at h
  rcases h with rfl | rfl | rfl | rfl | rfl | rfl | rfl | rfl | rfl | rfl | rfl | rfl | rfl | rfl | rfl | rfl | rfl | rfl <;> exact ⟨rfl, rfl⟩

/-! ### Words written out from the formats -/

/-- ADD g3, g1, g2: 000001 00011 00001 00010 000 00000000. -/
theorem test_decode_add : decodeScalar 0b00000100011000010001000000000000 = some (.add 3 1 2 false) := by decide
/-- FADD.D.RTZ g5, g6, g7: 001100 00101 00110 00111 001 00000001. -/
theorem test_decode_fadd : decodeScalar 0b00110000101001100011100100000001 = some (.fadd 5 6 7 1 true) := by decide
/-- ADDI g5, g0, -1. -/
theorem test_decode_addi : decodeScalar 0b00001000101000001111111111111111 = some (.addi 5 0 0xFFFF) := by decide
/-- LDD g2, 0(g1). -/
theorem test_decode_ldd : decodeScalar 0b01011000010000010000000000000000 = some (.ldd 2 1 0) := by decide
/-- LDA.W at scope DIE (2), signed. -/
theorem test_decode_lda : decodeScalar 0b01101100100010010000001000000010 = some (.lda 4 9 2 false 2) := by decide
/-- AMOADD.D at scope PACKAGE (3). -/
theorem test_decode_amo : decodeScalar 0b01110000100010010010101100001000 = some (.amoadd 4 9 5 3 true) := by decide
/-- BEQ with displacement 8. -/
theorem test_decode_beq : decodeScalar 0b10000000100000000000000000001000 = some (.beq 4 0 8) := by decide
/-- FENCE.DIE. -/
theorem test_decode_fence : decodeScalar 0b10110000000000000000001000000000 = some (.fence 2) := by decide
/-- KSET k2.HI, g5. -/
theorem test_decode_kset : decodeScalar 0b10110100000001010100000100000000 = some (.kset 5 2 true) := by decide
/-- LAUNCH g2, g1. -/
theorem test_decode_launch : decodeScalar 0b10111000010000010000000000000000 = some (.launch 2 1) := by decide
/-- CANCEL g7, g3, g8. -/
theorem test_decode_cancel : decodeScalar 0b10111100111000110100000000000011 = some (.cancel 7 3 8) := by decide
/-- SYSRD g12, TSTAT. -/
theorem test_decode_sysrd : decodeScalar 0b11000101100000000000000000000001 = some (.sysrd 12 1) := by decide
/-- The cell word of MUL: OP 0x03, FMT 0 in bits 49:46, SELA 0x20, SELB 0x01 and output 0. -/
theorem test_decode_cell : decodeCell node 0x0300008010010000 = some (.cellMul node
    { rep := 0, fmt := 0, rs := 0, pred := 0, sela := 0x20, selb := 1, selc := 0, outen := 1, imm := 0 }) := by decide
/-- INVAR of slot 0 from 0x28 and 0x29. -/
theorem test_decode_router : decodeRouter node 0b10001001010001010010000000000000 =
    some (.ropInvar node { slot := false, in0 := 0x28, in1 := 0x29, in2 := 0 }) := by decide
/-- LOAD at port 0, slot 1, scope 2, cancel scope 5, FLAGS 0x0A, COUNT 128, TAG 9. -/
theorem test_decode_cmd : decodeCmd 1 0x00002800050A00008009000100000000 = some (.cmdLoad { place := 1, port := 0 }
    { slot := 1, scope := 2, hint := 0, cscope := 5, flags := 0x0A, count := 0x80, tag := 9, base := 0x000100000000 }) := by decide
/-- MMA of one granule by one, in the payload of a CTRL token. -/
theorem test_decode_ctrl : (decodeCtrl node (BitVec.setWidth 512 0x0000000101010051#64)).isSome = true ∧
    (ctrlFields (BitVec.setWidth 512 0x0000000101010051#64)).mg = 1 ∧ (ctrlFields 0x0000000101010051).acc = false := by
  refine ⟨rfl, rfl, rfl⟩
/-- Reserved words, a nonzero unused field, a shift amount above 63, an odd pair: each decodes to nothing. -/
theorem test_decode_refuses : decodeScalar 0 = none ∧ decodeScalar 0xFFFFFFFF = none ∧ decodeScalar 0xC0000101 = none ∧
    decodeScalar 0x18410040 = none ∧ decodeScalar 0xB8610000 = none ∧ decodeScalar 0x0461101A = none := by decide
/-- The table numbers a scalar word as R275 does. -/
theorem test_table_word : decodeTableWord 32 0x04611000 = some (.add 3 1 2 false) := by decide

/-! ### Witnesses: scalar instructions -/

/-- Registers: the statements of the register files and of every form that only asks whose turn it is. -/
theorem witness_Issues : Issues (sysW (sysT 5 7)) (sysT 5 7) ∧
    Issues (ctlW (ctlT 5 7) part (place (folio [] []) [])) (ctlT 5 7) ∧ (3 : Reg) ≠ 0 ∧ (2 : Reg) ≠ 3 ∧ (1 : BitVec 3) ≠ 2 :=
  ⟨rfl, rfl, by decide, by decide, by decide⟩

/-- Both outcomes of every branch condition. -/
theorem witness_Branches : let t := sysT 5 (-3)
    t.reg 1 = t.reg 1 ∧ t.reg 1 ≠ t.reg 2 ∧ (t.reg 2).slt (t.reg 1) = true ∧ ¬ (t.reg 1).slt (t.reg 2) = true ∧
    (t.reg 2).sle (t.reg 1) = true ∧ ¬ (t.reg 1).sle (t.reg 2) = true ∧ (t.reg 1).ult (t.reg 2) = true ∧ ¬ (t.reg 2).ult (t.reg 1) = true ∧
    (t.reg 1).ule (t.reg 2) = true ∧ ¬ (t.reg 2).ule (t.reg 1) = true ∧ (t.reg 1).ule (t.reg 1) = true := by decide

theorem witness_Jalr : effective (sysT 8 5) 1 0 &&& 3 = 0 ∧ effective (sysT 8 5) 2 0 &&& 3 ≠ 0 ∧ effective (sysT 8 5) 1 3 &&& 3 ≠ 0 := by decide

theorem witness_FloatSpecials : (Val.nan = .nan ∨ Val.inf true = .nan) ∧ (1 : Nat) ≠ 0 := ⟨.inl rfl, by decide⟩

/-- One and the least number of FP32, the greatest of E4M3. -/
theorem witness_RoundExact : fp32 ∈ [fp32, fp64, bf16, fp16, e4m3, e5m2, e2m1] ∧ (rsOf 0).mode < 4 ∧ (rsOf 3).mode < 4 ∧
    0x3F800000 < 2 ^ fp32.width ∧ fp32.read 0x3F800000 = .num false 8388608 (-23) ∧ fp32.read 1 = .num false 1 (-149) ∧
    fp32.read 0x80000000 = .num true 0 (-149) ∧ e4m3.read 0x7E = .num false 14 5 := by decide

/-- Physical accesses at the lowest and the highest address of the memory. -/
theorem witness_Physical : let s := sysW (sysT (2 ^ 26) 0xFFDFFFFFF8)
    Physical s (sysT (2 ^ 26) 0xFFDFFFFFF8) (effective (sysT (2 ^ 26) 0xFFDFFFFFF8) 1 0) 8 ∧
    Physical s (sysT (2 ^ 26) 0xFFDFFFFFF8) (effective (sysT (2 ^ 26) 0xFFDFFFFFF8) 2 0) 8 ∧
    Physical s (sysT (2 ^ 26) 0xFFDFFFFFF8) (effective (sysT (2 ^ 26) 0xFFDFFFFFF8) 2 6) 2 ∧
    Physical s (sysT (2 ^ 26) 0xFFDFFFFFF8) (effective (sysT (2 ^ 26) 0xFFDFFFFFF8) 1 4) 4 ∧
    Physical s (sysT (2 ^ 26) 0xFFDFFFFFF8) (effective (sysT (2 ^ 26) 0xFFDFFFFFF8) 1 1) 1 := by
  unfold Physical; decide

theorem witness_Loads : let t := sysT (2 ^ 26) 1
    let s := sysW t
    (∃ s1 x lv s2 bs, Passes s t (effective t 1 0) 8 Need.load s1 x lv ∧ threadRead s1 t x lv 8 = .ok s2 bs) ∧
    (effective t 1 1).toNat % 2 ≠ 0 ∧ (effective t 1 4).toNat % 8 ≠ 0 :=
  ⟨⟨_, _, _, _, _, ⟨by decide, rfl⟩, rfl⟩, by decide, by decide⟩

/-- A store with room in the buffer, and one of a full buffer whose oldest store is performed. -/
theorem witness_Stores :
    (let t := sysT (2 ^ 26) 1
     let s := sysW t
     (∃ s1 x lv, Passes s t (effective t 1 0) 8 Need.store s1 x lv ∧ (x.sram = true ∨ stackReady s1 x.pa = true)) ∧ t.stbuf.length < 16 ∧
       (effective t 1 1).toNat % 2 ≠ 0) ∧
    (let e : StoreEnt := { va := 2 ^ 26, xl := physXl true (2 ^ 26), bytes := [1] }
     let t := { sysT (2 ^ 26) 1 with stbuf := e :: List.replicate 15 e }
     let s := sysW t
     ¬ t.stbuf.length < 16 ∧ ∃ s2 errs, performStore s t e = some (s2, errs)) :=
  ⟨⟨⟨_, _, _, ⟨by decide, rfl⟩, .inr (by decide)⟩, by decide, by decide⟩, by decide, ⟨_, _, rfl⟩⟩

theorem witness_StoreForwarding : let t := sysT (2 ^ 26) 0x1122334455667788
    let s := sysW t
    (7 : Nat) < 8 ∧ t.stbuf.length < 15 ∧ (3 : Reg) ≠ 0 ∧ ∃ s1 s2, exec (.std 2 1 0) s = .next s1 ∧ exec (.stb 1 1 (BitVec.ofNat 16 7)) s1 = .next s2 :=
  ⟨by decide, by decide, by decide, _, _, rfl, rfl⟩

theorem witness_AcquireAndRelease : let t := sysT (2 ^ 26) 1
    let s := sysW t
    t.imp = [] ∧ (∃ s1 x lv s2 bs, Passes (acquireAt s t 2) t (t.reg 1) (2 ^ (3 : BitVec 2).toNat) Need.load s1 x lv ∧
      threadRead s1 t x lv (2 ^ (3 : BitVec 2).toNat) = .ok s2 bs) ∧ (t.reg 2).toNat % 2 ^ (1 : BitVec 2).toNat ≠ 0 ∧
    (∃ s1, drainList t t.stbuf s = some (s1, []) ∧ ∃ s2 x lv s3, Passes (s1.setThread { t with stbuf := [] }) { t with stbuf := [] } (t.reg 1) 8 Need.store s2 x lv ∧
      writeBytes s2 t.id.die? x (lowBytes 8 (t.reg 2)) = .ok s3 ()) :=
  ⟨rfl, ⟨_, _, _, _, _, ⟨by decide, rfl⟩, rfl⟩, by decide, _, rfl, _, _, _, _, ⟨by decide, rfl⟩, rfl⟩

/-- An atomic that writes and a compare that does not: g2 holds what memory does not. -/
theorem witness_Atomics : let t := sysT (2 ^ 26) 1
    let s := sysW t
    let r := { t with stbuf := [] }
    t.imp = [] ∧ ∃ s1, drainList t t.stbuf s = some (s1, []) ∧ ∃ s2 x lv, Passes (acquireAt (s1.setThread r) r 3) r (t.reg 1) 8 Need.atomic s2 x lv ∧
      linePending s2 t.id.die? x = false ∧ ∃ s4 bs, threadBytes (amoPlace s2 t.id.die? 3 x).1 r (amoPlace s2 t.id.die? 3 x).2 lv x 8 = .ok s4 bs ∧
      bs.length = 8 ∧ BitVec.ofNat 64 (bytesNat bs) ≠ t.reg 2 ∧ ∃ s5, writeBytes s4 (amoPlace s2 t.id.die? 3 x).2 x (lowBytes 8 (t.reg 2)) = .ok s5 () :=
  ⟨rfl, _, rfl, _, _, _, ⟨by decide, rfl⟩, rfl, _, _, rfl, rfl, by decide, _, rfl⟩

theorem witness_NonCanonical : (2 ^ 48 : Nat) ≤ 2 ^ 48 ∧ threadXl (sysW (sysT 0 0)) (sysT 0 0) (2 ^ 48) (Need.load false) = .fault (sysW (sysT 0 0)) 8 3 0 :=
  ⟨by decide, rfl⟩

/-- A write at the LLC at the end of a line, one of the boot memory, and one that hits a line of a slice. -/
theorem witness_WriteFrame : let s := sysW (sysT 0 0)
    let x (pa : Nat) (sram : Bool) : Xl := { pa := pa, cpol := 0, iset := 0, share := false, comp := false, pte := 0, sram := sram, asid := 1, va := pa }
    let l : SLine := { line := 2 ^ 20, data := List.replicate 128 7, dirty := false, share := false, bad := [], soft := [] }
    let s' := s.setSlice { emptySlice 0 (sliceIndex 0 (2 ^ 27)) with lines := [l] }
    (x (2 ^ 27) false).pa % 128 + 8 ≤ 128 ∧ s.rings = [] ∧ (∃ r, writeBytes s none (x (2 ^ 27 + 120) false) (List.replicate 8 1) = .ok r ()) ∧
    (∃ r, writeBytes s none (x 0 true) [1] = .ok r ()) ∧
    (sliceAt s' 0 (sliceIndex 0 (2 ^ 27))).find (2 ^ 27 / 128) = some l ∧ l.data.length = 128 ∧
    ∃ r l', writeBytes s' (some 0) (x (2 ^ 27) false) [9] = .ok r () ∧ (sliceAt r 0 (sliceIndex 0 (2 ^ 27))).find (2 ^ 27 / 128) = some l' :=
  ⟨by decide, rfl, ⟨_, rfl⟩, ⟨_, rfl⟩, rfl, rfl, _, _, rfl, rfl⟩

/-! ### Witnesses: traps and system registers -/

/-- A synchronous trap to supervisor, to monitor from monitor mode, and to monitor for TRAPI from supervisor mode. -/
theorem witness_TrapEntry : (ctlT 0 0).inh = false ∧ (32 : Nat) < 64 ∧ (255 : Nat) < 256 ∧
    ¬ ((ctlT 0 0).id.isSys = true ∧ ((ctlT 0 0).mode = .monitor ∨ ((ctlT 0 0).mode = .supervisor ∧ 32 = 35))) ∧
    ((sysT 0 0).id.isSys = true ∧ (sysT 0 0).mode = .monitor) ∧
    (({ sysT 0 0 with mode := .supervisor } : Thread).inh = false ∧ ({ sysT 0 0 with mode := .supervisor } : Thread).mode = .supervisor) ∧
    partOf (ctlW (ctlT 0 0) part (place (folio [] []) [])) (ctlT 0 0).asid = some part := by
  refine ⟨by decide, by decide, by decide, by decide, by decide, by decide, rfl⟩

theorem witness_DoubleTrap :
    (let t := { sysT 0 0 with mon := { Bank.reset with inh := true } }
     Issues (sysW t) t ∧ t.inh = true ∧ t.id.isSys = true) ∧
    (let t := { ctlT 0 0 with sup := { Bank.reset with inh := true }, mode := .supervisor }
     let s := ctlW t part (place (folio [] []) [])
     Issues s t ∧ t.inh = true ∧ t.id.isSys = false ∧ s.thread? (supervisorOf s t.asid) = some (sysT 0 0) ∧ (sysT 0 0).run = .running ∧
       supervisorOf s t.asid ≠ t.id) := by
  refine ⟨⟨rfl, rfl, rfl⟩, rfl, rfl, rfl, rfl, rfl, by decide⟩

theorem witness_EretAndTrap : (sysT 0 0).mode ≠ .user ∧ (sysT 0 0).inh = false ∧ ({ sysT 0 0 with mode := .supervisor } : Thread).mode = .supervisor ∧
    (sysT 0 0).mode = .monitor := by decide

theorem witness_PrivilegeTraps : let t := ctlT 0 0
    Issues (ctlW t part (place (folio [] []) [])) t ∧
    (Instr.eret ∈ [Instr.eret, .cacheInv 1, .tlbinvPage 1 2, .tlbinvAsid 1 2, .tlbinvAll 1 2] ∧ t.mode = .user ∨ Instr.eret = .swapp 3 1 ∧ t.mode ≠ .monitor) ∧
    (Instr.swapp 3 1 = .swapp 3 1 ∧ t.mode ≠ .monitor) := ⟨rfl, .inl (by decide), by decide⟩

/-- A posted trap of a control thread behind one for a mode whose INH is set, of a system core that acts in the trap's partition, of
one parked in HALT, and of one that waits in WFE. -/
theorem witness_AsyncTrapTaken : let a : AsyncTrap := { code := 38, asid := 1, eval := 0, norec := true }
    let o : AsyncTrap := { code := 38, asid := 2, eval := 0, norec := true }
    (let t := { ctlT 0 0 with async := [a] }
     (ctlW t part (place (folio [] []) [])).thread? t.id = some t ∧ t.run = .running ∧ t.wait.abandoned = true ∧
       waitMet (ctlW t part (place (folio [] []) [])) t = false ∧ t.inh = false ∧ t.frozen = false ∧ t.async = [] ++ a :: [] ∧
       a.code < 64 ∧ a.asid < 65536 ∧ (t.bank .supervisor).inh = false) ∧
    (let t := { sysT 0 0 with mode := .user, async := [o, a], asid := 1, mon := { Bank.reset with inh := true }, wait := .wfe 5 }
     (sysW t).thread? t.id = some t ∧ t.wait.abandoned = true ∧ waitMet (sysW t) t = false ∧ t.inh = false ∧ t.async = [o] ++ a :: [] ∧ (t.id.isSys = true ∧ ¬ ¬ (a.asid ≠ 0 ∧ t.asid = a.asid)) ∧
       (t.id.isSys = true ∧ ¬ (o.asid ≠ 0 ∧ t.asid = o.asid)) ∧ (t.bank .monitor).inh = true ∧ (t.bank .supervisor).inh = false) ∧
    (let t := { sysT 0 0 with async := [a], run := .parked }
     (sysW t).thread? t.id = some t ∧ t.run = .parked ∧ (t.id.isSys = true ∧ ¬ (a.asid ≠ 0 ∧ t.asid = a.asid)) ∧ (t.bank .monitor).inh = false) := by
  refine ⟨⟨rfl, rfl, rfl, rfl, rfl, rfl, rfl, by decide, by decide, rfl⟩, ⟨rfl, rfl, rfl, rfl, rfl, by decide, by decide, rfl, rfl⟩, rfl, rfl, by decide, rfl⟩

theorem witness_ImpreciseFirst : let e : ImpErr := { code := 10, sub := 1, recAddr := 64, norec := false }
    let t := { sysT 0 0 with imp := [e] }
    Issues (sysW t) t ∧ t.imp = e :: [] ∧ Instr.halt ∈ [Instr.fence 0, .halt] := ⟨rfl, rfl, by decide⟩

theorem witness_FenceHaltWfe : let t := sysT 0 0
    Issues (sysW t) t ∧ t.imp = [] ∧ drainList t t.stbuf (sysW t) = some (sysW t, []) ∧ t.id.isSys = true ∧ (ctlT 0 0).id.isSys = false ∧
    ({ t with event := true } : Thread).event = true ∧ t.event = false ∧ t.wait = .none ∧ 
    (let u := { t with wait := .wfe 0 }
     (sysW u).thread? u.id = some u ∧ u.wait = .wfe 0 ∧ 0 ≤ (sysW u).cycle) ∧
    (let u := { t with wait := .wfe 5 }
     (sysW u).thread? u.id = some u ∧ u.wait = .wfe 5 ∧ (sysW u).cycle < 5) :=
  ⟨rfl, rfl, rfl, rfl, rfl, rfl, rfl, rfl, ⟨rfl, rfl, by decide⟩, rfl, rfl, by decide⟩

theorem witness_Sysrd : let s := ctlW (ctlT 0 0) part (place (folio [] []) [])
    (sysT 0 0).id = .sys 0 ∧ 0 < 32 ∧ (ctlT 0 0).id = .ctl 0 0 0 ∧ (sysT 0 0).mode ≠ .user ∧ (sysT 0 0).id.isSys = true ∧
    (sysT 0 0).mode = .monitor ∧ partOf s 1 = some part ∧ partOf s 0 = none ∧ ({ ctlT 0 0 with mode := .supervisor } : Thread).mode ≠ .user := by
  refine ⟨rfl, by decide, rfl, by decide, rfl, rfl, rfl, rfl, by decide⟩

theorem witness_Syswr : let t := { sysT 5 0 with asid := 1 }
    let s := { sysW t with parts := [part] }
    Issues s t ∧ t.run = .running ∧ t.mode ≠ .user ∧ t.id.isSys = true ∧ t.mode = .monitor ∧ partOf s t.asid = some part :=
  ⟨rfl, rfl, by decide, rfl, rfl, rfl⟩

theorem witness_SystemRegisterTraps : (ctlT 0 0).id.isSys = false ∧ (0x300 ≤ (0x300 : BitVec 16).toNat) ∧ (sysT 0 0).id.isSys = true ∧
    (5 ≤ (5 : BitVec 16).toNat ∧ (0x0F : BitVec 16).toNat < 0x10) ∧ (0x21 ≤ (0x21 : BitVec 16).toNat ∧ (0xFF : BitVec 16).toNat < 0x100) ∧
    (0x103 ≤ (0x103 : BitVec 16).toNat) ∧ (0x207 ≤ (0x207 : BitVec 16).toNat) ∧ (0x344 ≤ (0xFFFF : BitVec 16).toNat) ∧
    ((ctlT 0 0).mode = .user ∧ 0x200 ≤ (0x206 : BitVec 16).toNat) ∧
    (({ sysT 0 0 with mode := .supervisor } : Thread).mode ≠ .monitor ∧ 0x310 ≤ (0x31E : BitVec 16).toNat) := by decide

/-- A line held dirty in a slice of the die of a control thread, and nothing pending. -/
theorem witness_CacheOperations : let t := { ctlT (2 ^ 27) 0 with asid := 0 }
    let u := sysT (2 ^ 27) 0
    let l : SLine := { line := 2 ^ 20, data := List.replicate 128 7, dirty := true, share := false, bad := [], soft := [] }
    let s := { (sysW u) with slices := [{ emptySlice 0 (sliceIndex 2 (2 ^ 27)) with lines := [l] }] }
    Issues s u ∧ drainList u u.stbuf s = some (s, []) ∧
    (∃ x lv, threadXl (s.setThread u) u (u.reg 1).toNat (Need.load false) = .ok (s.setThread u) (x, lv) ∧ x.sram = false ∧ lineKey x = 2 ^ 20) ∧
    (∃ x lv, threadXl (s.setThread u) u (u.reg 1).toNat (Need.store false) = .ok (s.setThread u) (x, lv) ∧ x.sram = false) ∧
    u.mode ≠ .user ∧ t.asid = 0 ∧
    (s.slices.Pairwise (fun y z => ¬ (y.die = z.die ∧ y.idx = z.idx)) ∧ ∀ y ∈ s.slices, y.lines.Pairwise (fun l m => l.line ≠ m.line)) ∧
    (∀ y ∈ s.slices, ∀ p ∈ y.pend, ¬ p.line = 2 ^ 20) := by
  refine ⟨rfl, rfl, ⟨_, _, rfl, rfl, rfl⟩, ⟨_, _, rfl, rfl⟩, by decide, rfl, ?_, ?_⟩
  · simp
  · simp [emptySlice]

theorem witness_Tlbinv : (sysT 0 1).mode = .monitor ∧ ({ ctlT 0 1 with mode := .supervisor } : Thread).mode = .supervisor ∧
    ((ctlT 0 1).reg 2).toNat % 2 ^ 16 = (ctlT 0 1).asid ∧ ({ sysT 0 0 with mode := .supervisor } : Thread).mode = .supervisor := by decide

/-- An operand above 65,535, one that names no partition, and a HALTED partition that may be swapped. -/
theorem witness_Swapp : let p := { part with st := .halted }
    let t := sysT 1 (2 ^ 16)
    let s := { sysW t with parts := [p] }
    Issues s t ∧ t.mode = .monitor ∧ (t.reg 2).toNat ≥ 2 ^ 16 ∧ (t.reg 1).toNat < 2 ^ 16 ∧ partOf (sysW t) (t.reg 1).toNat = none ∧
    swapCode s (t.reg 1).toNat = 0 := by
  refine ⟨rfl, rfl, by decide, by decide, rfl, rfl⟩

/-- The swap of that partition at its end, with a launch thread in the active planes, and one whose partition is gone. -/
theorem witness_SwapCompletes : let p := { part with st := .halted }
    let t := { sysT 1 0 with wait := .swapp 1 0 3 }
    let s := { sysW t with parts := [p], threads := [t, ctlT 0 0] }
    s.thread? t.id = some t ∧ t.id.isSys = true ∧ t.wait = .swapp 1 0 3 ∧ 0 ≤ s.cycle ∧ swapCode s 1 = 0 ∧ (s.parts.map (fun q => q.asid)).Nodup ∧
    partOf s 1 = some p ∧ swapSetOf s p = [p] ∧ p.st = .halted ∧ swapCode (sysW t) 1 ≠ 0 := by
  refine ⟨rfl, rfl, rfl, by decide, rfl, by decide, rfl, rfl, rfl, by decide⟩

/-! ### Witnesses: scopes, barriers, launches, deques, rings -/

/-- Scope 3 under scope 0, with no WORK, and scope 4 cancelled. -/
def partS : Partition := { part with scopes := part.scopes ++ [{ id := 3, parent := 0, cancelled := false, work := 0 },
  { id := 4, parent := 0, cancelled := true, work := 0 }, { id := 5, parent := 0, cancelled := false, work := 1 }] }

theorem witness_Scopes : let t := ctlT 3 5
    let s := ctlW t partS (place (folio [] []) [])
    Issues s t ∧ partOf s t.asid = some partS ∧ t.scopeFree = false ∧ partS.scopeExists t.scope = true ∧ partS.scopeCancelled t.scope = false ∧
    partS.scopes.length < 4096 ∧ ({ t with scopeFree := true } : Thread).scopeFree = true ∧ partS.scopeCancelled 4 = true ∧
    (t.reg 1).toNat < 2 ^ 16 ∧ (t.reg 1).toNat ≠ 0 ∧ (∃ x, partS.scope? (t.reg 1).toNat = some x ∧ x.work = 0) ∧ (∀ k ∈ partS.tickets, k.scope = (t.reg 1).toNat → k.acked = true) ∧
    (∀ y ∈ partS.scopes, y.parent ≠ (t.reg 1).toNat) ∧ (∃ x, partS.scope? (t.reg 2).toNat = some x ∧ x.work ≠ 0) ∧
    ((ctlT (2 ^ 16) 0).reg 1).toNat ≥ 2 ^ 16 ∧ s.rings = [] ∧
    (let k : Ticket := { val := 3 * 2 ^ 16, scope := 3, addr := 0, owner := none, acked := false, killCycle := 0, counts := [] }
     k ∈ ({ partS with tickets := [k] } : Partition).tickets ∧ k.scope = (t.reg 1).toNat ∧ k.acked = false) ∧
    (let c : Scope := { id := 6, parent := 3, cancelled := false, work := 0 }
     c ∈ ({ partS with scopes := c :: partS.scopes } : Partition).scopes ∧ c.parent = (t.reg 1).toNat ∧ c.id ≠ 0) ∧
    ((ctlT 0 0).reg 1).toNat = 0 ∧ partS.scope? 7 = none ∧ partS.scopeExists 7 = false := by
  refine ⟨rfl, rfl, rfl, rfl, rfl, by decide, rfl, rfl, by decide, by decide, ⟨_, rfl, rfl⟩, by decide, by decide, ⟨_, rfl, by decide⟩, by decide, rfl,
    by decide, by decide, rfl, rfl, rfl⟩

theorem witness_Scopes_full (x : Scope) : 4096 ≤ ({ part with scopes := List.replicate 4096 x } : Partition).scopes.length :=
  le_of_eq (List.length_replicate ..).symm

theorem witness_CancelAndCwait : let k : Ticket := { val := 3 * 2 ^ 16, scope := 3, addr := 0, owner := some (.ctl 0 0 0), acked := false, killCycle := 0, counts := List.replicate 11 0 }
    let t := ctlT 3 64
    let s := ctlW t partS (place (folio [] []) [])
    Issues s t ∧ partOf s t.asid = some partS ∧ (t.reg 2).toNat % 64 = 0 ∧ (t.reg 1).toNat ≠ 0 ∧ partS.scopeExists (t.reg 1).toNat = true ∧
    (partS.tickets.filter (fun k => !k.acked)).length < 16 ∧ ((ctlT 3 1).reg 2).toNat % 64 ≠ 0 ∧ t.wait ≠ .killed ∧ ({ t with wait := .killed } : Thread).wait = .killed ∧
    partS.knownTicket (t.reg 1).toNat = none ∧
    (let u := ctlT (3 * 2 ^ 16) 0
     ({ partS with tickets := [k] } : Partition).knownTicket (u.reg 1).toNat = some k ∧ (u.reg 1).toNat < 2 ^ 32 ∧ k.acked = false ∧
       ({ partS with tickets := [{ k with acked := true }] } : Partition).knownTicket (u.reg 1).toNat = some { k with acked := true }) := by
  refine ⟨rfl, rfl, by decide, by decide, rfl, by decide, by decide, by decide, rfl, rfl, rfl, by decide, rfl, rfl⟩

/-- A ticket with nothing on the way, a killed launch under it, and one behind an older ticket of its scope. -/
theorem witness_CancelAcknowledged : let k : Ticket := { val := 3 * 2 ^ 16, scope := 3, addr := 0, owner := some (.ctl 0 0 0), acked := false, killCycle := 0, counts := List.replicate 11 0 }
    let g := { partS with tickets := [k] }
    let s := ctlW (ctlT 0 0) g (place (folio [] []) [])
    let hit (y : Nat) : Bool := g.inSubtree k.scope y
    let killed := g.tasks.filter (fun e => e.st = .running && e.killed && hit e.scope)
    let s1 := killRings (killed.foldl (fun st e => drainKilled st g.asid e.slot) s) g.asid (deadKey g.asid k.val) hit
    let s2 := finishKilled s1 g.asid hit
    partOf s g.asid = some g ∧ g.tickets.find? (fun x => x.val = k.val) = some k ∧ k.acked = false ∧
    g.tickets.any (fun x => !x.acked && hit x.scope && trafficOf s (deadKey g.asid x.val)) = false ∧
    (g.tickets.takeWhile (fun x => x.val ≠ k.val)).any (fun x => !x.acked && g.inSubtree x.scope k.scope) = false ∧
    ringsOpen s1 g.asid hit = false ∧ (∀ e ∈ killed, killedStores s1 g.asid e.slot = false) ∧ (∀ t ∈ s.threads, t.run ≠ .stopped) ∧
    (∃ p k2, partOf s2 g.asid = some p ∧ p.tickets.find? (fun x => x.val = k.val && !x.acked) = some k2 ∧ k2.owner = some (ctlT 0 0).id) ∧
    s2.thread? (.ctl 0 0 0) = some (ctlT 0 0) ∧
    (let o := { k with val := 3 * 2 ^ 16 + 1 }
     [o, k].find? (fun x => x.val = k.val) = some k ∧ ([o, k].takeWhile (fun x => x.val ≠ k.val)).any (fun x => !x.acked && g.inSubtree x.scope k.scope) = true) := by
  refine ⟨rfl, rfl, rfl, rfl, rfl, rfl, by decide, by decide, ⟨_, _, rfl, rfl, rfl⟩, rfl, rfl, rfl⟩

/-- Barrier 2 unset, set, waited at and dead; an arrival that is the last and one that is not; a phase that is past and one that is not. -/
theorem witness_Barriers : let b1 : Barrier := { id := 2, n := 1, scope := 0, phase := 0, arrived := [], leaving := 0, dead := false }
    let t := { ctlT 2 (1 * 2 ^ 16) with scope := 3 }
    let s := ctlW t partS (place (folio [] []) [])
    let p1 := { partS with bars := [b1] }
    Issues s t ∧ partOf s t.asid = some partS ∧ (t.reg 1).toNat < 64 ∧ (t.reg 2).toNat = 1 * 2 ^ 16 + 0 ∧
    partS.scopeExists 0 = true ∧ partS.scopeExists 77 = false ∧ ¬ (∃ u ∈ s.threads, u.asid = partS.asid ∧ u.wait = .barrier 2) ∧
    (∃ u ∈ [{ t with wait := .barrier 2 }], u.asid = partS.asid ∧ u.wait = .barrier 2) ∧ (64 < ((ctlT 2 (65 * 2 ^ 16)).reg 2).toNat / 2 ^ 16) ∧
    ((ctlT 2 5).reg 2).toNat / 2 ^ 16 % 128 = 0 ∧
    (p1.bar (t.reg 1).toNat = b1 ∧ b1.dead = false ∧ p1.scopeCancelled t.scope = false ∧ p1.childOf b1.scope p1.scopes.length t.scope = some 3 ∧
      3 ∉ b1.arrived ∧ b1.arrived.length + 1 = b1.n ∧ b1.arrived.length + 1 ≠ ({ b1 with n := 64 } : Barrier).n) ∧
    ({ partS with bars := [{ b1 with dead := true }] } : Partition).bar 2 = { b1 with dead := true } ∧ t.imp = [] ∧ t.stbuf = [] ∧ t.scopeFree = false ∧
    (∀ k, t.wait ≠ .passed k) ∧ t.wait ≠ .killed ∧ ({ t with wait := .passed 1 } : Thread).wait = .passed 1 ∧
    (b1.phase ≠ ((ctlT 2 1).reg 2).toNat % 2 ^ 16 ∧ b1.phase = ((ctlT 2 (2 ^ 16)).reg 2).toNat % 2 ^ 16) := by
  refine ⟨rfl, rfl, by decide, by decide, rfl, rfl, by decide, by decide, by decide, by decide, ⟨rfl, rfl, rfl, rfl, by decide, rfl, by decide⟩, rfl, rfl, rfl, rfl,
    fun k => Wait.noConfusion, by decide, rfl, by decide, by decide⟩

/-- Partition 1's first 32 GiB mapped onto themselves for every access, and a ring block of 16 granules at 2^18. -/
def pages : Mem := [(4096, 1), (4097, 0x20), (8192, 0x3F), (8193, 8), (2 ^ 18 + 8, 4)]

/-- A record of zeros: ENTRY 0, folio 0, scope 0, no predecessor; and a record that is not aligned. -/
theorem witness_LaunchCreates : let t := ctlT (2 ^ 17) 4
    let s := { ctlW t part (place (folio [] []) []) with mem := pages }
    Issues s t ∧ t.imp = [] ∧ t.stbuf = [] ∧ pairOk 2 = true ∧ partOf s t.asid = some part ∧ part.st = .running ∧ (t.reg 1).toNat % 8 = 0 ∧
    okAnd (readWords t 8 (s.setThread t) (t.reg 1).toNat) (fun s1 bs => partOf s1 t.asid = some part && s1.thread? t.id = some t &&
      bitsOf (launchRec bs).ctl 5 1 = 0 && (launchRec bs).ok s1 part && (launchRec bs).npred = 0 && !part.scopeCancelled (launchRec bs).scope) = true ∧
    part.freeSlot 4096 0 = some 0 ∧ (∀ e ∈ part.tasks, e.slot < 4096) ∧ (t.reg 2).toNat % 8 ≠ 0 := by
  refine ⟨rfl, rfl, rfl, by decide, rfl, rfl, by decide, by decide +kernel, rfl, by decide, by decide⟩

theorem witness_LwaitReaps : let e := { entry with st := .complete }
    let p := { part with tasks := [e] }
    let t := ctlT 0 0
    let s := ctlW t p (place (folio [] []) [])
    Issues s t ∧ partOf s t.asid = some p ∧ t.wait ≠ .killed ∧ (t.reg 1).toNat < 2 ^ 28 ∧ p.launch? (t.reg 1).toNat = some e ∧
    e.st = .complete ∧ entry.st ≠ .complete ∧ part.launch? (t.reg 1).toNat = none := by
  refine ⟨rfl, rfl, by decide, by decide, by decide +kernel, rfl, by decide, by decide +kernel⟩

set_option maxRecDepth 20000 in
/-- A push with room on chip, one that spills 32 entries, and one that finds no extension. -/
theorem witness_DequePushPop : let t := ctlT 9 8
    let s := ctlW t part (place (folio [] []) [])
    let q := part.deque (ownCore t part)
    let full : Deque := { q with entries := List.replicate 256 7 }
    let ext : Deque := { full with dqext := 0x4000A }
    Issues s t ∧ partOf s t.asid = some part ∧ pairOk 30 = true ∧ t.scopeFree = false ∧ part.scopeCancelled t.scope = false ∧ t.scope < 2 ^ 16 ∧
    q.onchip < 256 ∧ q.entries = [] ∧
    (∃ s1 u, exec (.dqpush 3 1 2) s = .next s1 ∧ s1.thread? t.id = some u) ∧ partS.scopeCancelled 4 = true ∧
    256 ≤ full.onchip ∧ spill s 1 full = none ∧ 256 ≤ ext.onchip ∧
    (let s0 := { s with mem := pages }
     ∃ s1 q1, spill s0 1 ext = some (s1, q1) ∧ partOf s1 t.asid = some part ∧ s1.thread? t.id = some t) ∧
    (let g : Partition := { part with deques := [{ q with entries := [5, 7] }] }
     (g.deque (ownCore t g)).entries = [5] ++ [7] ∧ g.scopeCancelled ((7 : Word128).extractLsb' 112 16).toNat = false) := by
  refine ⟨rfl, rfl, by decide, rfl, rfl, by decide, by decide, rfl, ⟨_, _, rfl, rfl⟩, rfl, by decide, rfl, by decide, ⟨_, _, rfl, rfl, rfl⟩, rfl, rfl⟩

/-- A steal of core 1 of die 0, of the thread's own core, and of a core of another die; its request, response and end. -/
theorem witness_Steals : let w : Word128 := 7
    let q : Deque := { freshDeque (0, 1) with entries := [w] }
    let p := { part with deques := [q] }
    let t := ctlT 1 0
    let x : Steal := { no := 5, thief := t.id, asid := 1, die := 0, core := 1, dst := 2, answered := false, entry := none, acked := false, gone := false, dead := none }
    let y : Steal := { x with answered := true, entry := some w }
    let z : Steal := { y with acked := true }
    let s (x : Steal) := { ctlW t p (place (folio [] []) []) with steals := [{ x with no := 4, thief := .ctl 0 1 0 }, x] }
    Issues (s x) t ∧ partOf (s x) t.asid = some p ∧ (t.reg 1).toNat = 0 * 256 + 1 ∧ pairOk 2 = true ∧ (0, 1) ∈ p.cores ∧ (0, 1) ≠ ownCore t p ∧
    (0, 0) ∈ p.cores ∧ (0, 0) = ownCore t p ∧ (1, 0) ∉ p.cores ∧
    (s x).steals.find? (fun y => y.thief = t.id && !y.answered && (s x).arrived (.steal y.no)) = some x ∧ x.dead = none ∧ p.deque (0, 1) = q ∧
    stealFrom p q.entries = ([], some w, []) ∧ q.entries = w :: [] ∧ p.scopeCancelled (w.extractLsb' 112 16).toNat = false ∧ w.getLsbD 88 = false ∧
    (s y).steals.find? (fun v => v.thief = t.id && v.answered && !v.acked && (s y).arrived (.stealBack v.no)) = some y ∧ y.gone = false ∧ y.dead = none ∧
    ({ t with wait := .steal } : Thread).wait = .steal ∧ ({ y with gone := true } : Steal).gone = true ∧
    (s z).steals.find? (fun v => v.no = z.no && v.acked && (s z).arrived (.stealAck z.no)) = some z := by
  refine ⟨rfl, rfl, by decide, by decide, by decide, by decide, by decide, by decide, by decide, rfl, rfl, rfl, rfl, rfl, rfl, rfl, rfl, rfl, rfl, rfl, rfl, rfl⟩

theorem witness_RingOperations : let b : RBlock := ringBlock (List.replicate 64 0)
    let r : Ring := { asid := 1, block := 64, pa := 64, die := 0, iset := 0, stored := false, claims := [], resvs := [], waiters := [] }
    1 ≤ 1 ∧ b.pclaim + 1 ≤ b.chead + 2 ^ b.lgn ∧ b.chead ≤ b.pclaim ∧ r.waiters = [] ∧ (r.claims.filter (fun c => c.st = .opened)).length < 64 ∧
    (1 ≤ 2 ^ b.lgn ∧ ({ b with chead := 0, pclaim := 2 ^ b.lgn } : RBlock).chead + 2 ^ b.lgn < 2 ^ b.lgn + 1) ∧ 2 ^ b.lgn < 2 ^ b.lgn + 1 ∧
    b.chead = b.ptail ∧ b.cres = b.ptail ∧ ({ b with ptail := b.cres + 1 } : RBlock).ptail = b.cres + 1 := by
  refine ⟨by decide, by decide, by decide, rfl, by decide, by decide, by decide, rfl, rfl, rfl⟩

/-- A ring that a store has reached, one whose first waiting claim is granted, and an operation of a ring port. -/
theorem witness_RingEvents : let w : RWaiter := { who := .thread (.ctl 0 0 0), claims := true, n := 1, scope := 0 }
    let r : Ring := { asid := 1, block := 2 ^ 18, pa := 2 ^ 27, die := 0, iset := 0, stored := false, claims := [], resvs := [], waiters := [w] }
    let t := { ctlT 0 0 with wait := .ring (2 ^ 18) true 2 }
    let s := { ctlW t part (place (folio [] []) []) with mem := pages, rings := [r] }
    s.ring? r.asid r.block = some r ∧ ({ r with stored := true } : Ring).stored = true ∧ r.stored = false ∧
    (∃ s1 y lv s2 res osc, translate s none 0 r.asid (2 ^ 18) (Need.atomic false) = .ok s1 (y, lv) ∧
      ringAtSlice s1 r.asid y (.ring 0 0) (.claim (2 ^ 18) 1 0) = some (s2, res, osc) ∧ ∃ rp, s2.pkg.rports[0 * 64 + 0]? = some rp) ∧
    r.waiters.find? (fun y => y.claims = true) = some w ∧ w.who = .thread t.id ∧
    (∃ s1 bs b' r' P m s3, readBytes s (some r.die) 3 r.xl 64 = .ok s1 bs ∧ partOf s1 r.asid = some part ∧
      ringApply (ringBlock bs) r w.who true (.claim r.block w.n w.scope) = (b', r', .granted P m) ∧
      ringPut (s1.setPart (ringWork part r (.claim r.block w.n w.scope))) { r' with waiters := r'.waiters.erase w } r.xl b' = some s3 ∧
      s3.thread? t.id = some t) ∧ t.wait = .ring r.block true 2 ∧ (2 : Reg).getLsbD 0 = false ∧ (2 : Reg) ≠ 0 := by
  refine ⟨rfl, rfl, rfl, ⟨_, _, _, _, _, _, rfl, rfl, _, rfl⟩, rfl, rfl, ⟨_, _, _, _, _, _, _, rfl, rfl, rfl, rfl, rfl⟩, rfl, rfl, by decide⟩

/-- A claim that is granted, one that is REFUSED for its count, a wait that waits, a commit of no claim, and a misaligned block. -/
theorem witness_RingInstructions : let t := ctlT (2 ^ 18) 1
    let s := { ctlW t part (place (folio [] []) []) with mem := pages }
    let r : Thread := { t with lastRing := some (2 ^ 18) }
    let ends (s1 : State) (x : Xl) (op : RingOp) (ev : Bool) (P : RingRes → Bool) : Bool := (ringAtSlice (s1.setThread r) t.asid x (.thread t.id) op).any
      (fun y => y.1.thread? t.id = some { r with event := ev } && P y.2.1)
    let m (c : List Claim) (v : List Resv) : State := { s with
      mem := memWrite pages (2 ^ 18 + 16) ([5, 0, 0, 0, 0, 0, 0, 0, (if v = [] then 2 else 5), 0, 0, 0, 0, 0, 0, 0, (if v = [] then 2 else 5), 0, 0, 0, 0, 0, 0, 0, 2]),
      rings := [{ asid := 1, block := 2 ^ 18, pa := 2 ^ 18, die := 0, iset := 0, stored := false, claims := c, resvs := v, waiters := [] }] }
    Issues s t ∧ t.imp = [] ∧ t.stbuf = [] ∧ t.scopeFree = false ∧ partOf s t.asid = some part ∧ pairOk 2 = true ∧ (t.reg 1).toNat = 2 ^ 18 ∧
    (t.reg 1).toNat % 64 = 0 ∧ ((ctlT 65 1).reg 1).toNat % 64 ≠ 0 ∧
    okAnd (threadXl s r (2 ^ 18) (Need.atomic (t.mode = .user))) (fun s1 y => ends s1 y.1 (.claim (2 ^ 18) 1 t.scope) false (fun z => z = .granted 0 1) &&
      ends s1 y.1 (.claim (2 ^ 18) 0 t.scope) false (fun z => z = .status 6) && ends s1 y.1 (.wait (2 ^ 18) 1 t.scope) false (fun z => z = .waits)) = true ∧
    okAnd (threadXl (s.setThread t) r (2 ^ 18) (Need.atomic (t.mode = .user))) (fun s1 y =>
      ends s1 y.1 (.commit (2 ^ 18) 0 t.scope) false (fun z => z = .status 6)) = true ∧
    okAnd (threadXl ((m [{ pos := 2, n := 3, st := .opened, scope := 0 }] []).setThread t) r (2 ^ 18) (Need.atomic (t.mode = .user))) (fun s1 y =>
      ends s1 y.1 (.commit (2 ^ 18) 2 t.scope) true (fun z => z = .granted 2 0)) = true ∧
    okAnd (threadXl ((m [{ pos := 2, n := 3, st := .committed, scope := 0 }] [{ pos := 2, n := 3, retired := false, scope := 0 }]).setThread t) r (2 ^ 18)
      (Need.atomic (t.mode = .user))) (fun s1 y => ends s1 y.1 (.retire (2 ^ 18) 2 t.scope) true (fun z => z = .granted 2 0)) = true := by
  refine ⟨rfl, rfl, rfl, rfl, rfl, by decide, by decide, by decide, by decide, by decide +kernel, by decide +kernel, by decide +kernel, by decide +kernel⟩

/-- A copy whose time is over, with the zero address as its record (no fault area), one whose time is not, and one for which no record
is free. -/
theorem witness_DequeEvents : let w : Word128 := 7
    let c : StealCopy := { no := 3, thief := .ctl 0 0 0, entry := w, at_ := 0 }
    let q : Deque := { freshDeque (0, 1) with copies := [c] }
    let g := { part with deques := [q] }
    let s := { ctlW (ctlT 0 0) g (place (folio [] []) []) with cycle := 2 ^ 40 }
    partOf s g.asid = some g ∧ g.deque (0, 1) = q ∧ q.spilled = 0 ∧ ({ q with ext := [none] } : Deque).spilled ≠ 0 ∧ q ∈ g.deques ∧ c ∈ q.copies ∧ g ∈ s.parts ∧
    (∀ g2 ∈ s.parts, ∀ y2 ∈ g2.deques, ∀ c2 ∈ y2.copies, c2.no = c.no → g2 = g ∧ y2 = q ∧ c2 = c) ∧
    c.at_ + 4 * ((s.pkg.sprtmo.getD (if c.thief.dieCode = q.die then 0 else 1) 0).toNat % 2 ^ 32) ≤ s.cycle ∧
    0 < c.at_ + 4 * ((s.pkg.sprtmo.getD (if c.thief.dieCode = q.die then 0 else 1) 0).toNat % 2 ^ 32) ∧
    (let y := takeRecord s g.asid .scalar (dequeLostInfo g.asid q.die q.core c.entry)
     y.2.isSome = true ∧ (partOf y.1 g.asid).isSome = true ∧ y.1.thread? (supervisorOf y.1 g.asid) = some (sysT 0 0)) ∧
    (takeRecord { s with parts := [{ g with frarea := 0, recs := [{ addr := 0, owner := .scalar, code := 37 }] }] } g.asid .scalar (dequeLostInfo g.asid q.die q.core c.entry)).2 = none ∧ (sysT 0 0).run = .running := by
  refine ⟨rfl, rfl, rfl, by decide, by decide, by decide, by decide, ?_, by decide, by decide, by decide +kernel, by decide +kernel, rfl⟩
  intro g2 h2 y2 hy c2 hc _
  simp only [ctlW, List.mem_singleton] at h2
  subst h2
  simp only [List.mem_singleton] at hy
  subst hy
  simp only [List.mem_singleton] at hc
  exact ⟨rfl, rfl, hc⟩

/-! ### Witnesses: commands, ports and blocks -/

/-- A folio with ports 0 (read) and 1 (write) at site (1, 1), a FIFO. -/
def folioP : Folio := { folio [{ x := 1, y := 1, word := 0x4A00000000010000 }] [] with
  ports := [{ num := 0, x := 1, y := 1, gen := 0 }, { num := 1, x := 1, y := 1, gen := 1 }] }

/-- A command's fields: one element at 2^18, INT32 where the command takes a format. -/
def f0 : CmdF := { slot := 0, scope := 0, hint := 0, cscope := 0, flags := 0, count := 1, tag := 9, base := 0x40000 }

def qcmd (op : BitVec 8) (port : BitVec 6) (f : CmdF) : QCmd := { word := cmdWord op port f, thread := .ctl 0 0 0, seq := 0 }

def run0 (op : BitVec 8) (f : CmdF) : Running :=
  { cmd := qcmd op 0 f, pat := 0, pat2 := 0, next := 0, elems := [], doneN := 0, bytes := [], beats := 0, idx := [some 1], stage := 2,
    eotSeen := false, bounds := none, walking := none, frozen := none, fallback := false }

/-- Port 0 with a command under way. -/
def port0 (r : Running) : Port := { freshPort State.reset 0 with running := some r }

/-- The region with a port, and the translation of the page at 0 in the port's generator. -/
def portW (q : Port) : State := { ctlW (ctlT 0 0) { part with tasks := [entry] } (place folioP [q]) with
  xlats := [{ die := 0, x := 1, y := 1, gen := 0, ent := { asid := 1, vpage := 0, size := 35, pte := 0x83F, lv := 1 } }] }

theorem standsOf (r : Running) (op : Nat) (f : CmdF) (h : r.cmd.op = op) (h' : r.cmd.f = f) (h1 : r.frozen = none) (h2 : r.elems = [])
    (h3 : r.walking = none) : Stands (portW (port0 r)) { place := 1, port := 0 } op f (place folioP [port0 r]) (port0 r) r :=
  { place := rfl, port := rfl, moves := rfl, notHeld := rfl, running := rfl, alone := ⟨rfl, rfl⟩, isOp := h, fields := h', notFrozen := h1,
    noElems := h2, noRb := rfl, notLogged := ⟨rfl, rfl⟩, free := ⟨by simp [Port.canIssue, Port.outstanding, Port.retries, port0, freshPort, Port.runs, h2], h3⟩ }

/-- Each command of a port under way with an element left, and its page's permission. -/
theorem witness_CommandsIssue : (∀ op ∈ [0x00, 0x01, 0x02, 0x03, 0x04, 0x05, 0x06, 0x07, 0x10, 0x11], (qcmd (BitVec.ofNat 8 op) 0 f0).op = op ∧
      (qcmd (BitVec.ofNat 8 op) 0 f0).f = f0) ∧ (run0 0 f0).stage = 2 ∧ (run0 0 f0).bytes = [] ∧ (run0 0 f0).doneN < f0.count.toNat ∧
    (run0 0 f0).next < f0.count.toNat ∧ f0.mrx = false ∧ patUnit 0 ≠ 64 ∧ (run0 4 f0).idx = some 1 :: [] ∧
    patUnit (run0 1 f0).pat ≤ ({ run0 1 f0 with bytes := [3] } : Running).bytes.length ∧ (run0 1 f0).within 0 = patUnit (run0 1 f0).pat ∧ (portW (port0 (run0 6 f0))).landing = [] ∧
    (∃ x lv, Reaches (portW (port0 (run0 0 f0))) (place folioP [port0 (run0 0 f0)]) (port0 (run0 0 f0)) (patAddr 0 f0.base.toNat 0) (Need.load true) x lv) ∧
    (∃ x lv, Reaches (portW (port0 (run0 0 f0))) (place folioP [port0 (run0 0 f0)]) (port0 (run0 0 f0)) (patAddr 0 f0.base.toNat 0) (Need.store true) x lv) ∧
    (∃ x lv, Reaches (portW (port0 (run0 0 f0))) (place folioP [port0 (run0 0 f0)]) (port0 (run0 0 f0)) (patAddr 0 f0.base.toNat 0) (Need.atomic true) x lv) ∧
    (∃ x lv, Reaches (portW (port0 (run0 0 f0))) (place folioP [port0 (run0 0 f0)]) (port0 (run0 0 f0)) (idxAddr (run0 4 f0) 1) (Need.store true) x lv) := by
  refine ⟨by decide, rfl, rfl, by decide, by decide, by decide, by decide, rfl, by decide, by decide, rfl, ⟨_, _, rfl⟩, ⟨_, _, rfl⟩, ⟨_, _, rfl⟩, _, _, rfl⟩

theorem witness_Stands : Stands (portW (port0 (run0 0 f0))) { place := 1, port := 0 } 0 f0 (place folioP [port0 (run0 0 f0)]) (port0 (run0 0 f0)) (run0 0 f0) :=
  standsOf _ _ _ (by decide) (by decide) rfl rfl rfl

/-- A peer that offers XPUT, XGET and CREDUCE. -/
theorem witness_RemoteCommands : let b : BPort := { lanes := 8, peer := 0, cap := 0x0100010000000003, mismatch := false, joined := true }
    let s := (portW (port0 (run0 0x0D f0))).updPkg (fun q => { q with bports := [b] })
    patAddr 0 f0.base.toNat 0 < 2 ^ 48 ∧ 0 < f0.count.toNat % 4096 ∧ bitsOf (peerCap s f0.dev) 0 1 = 1 ∧
    bitsOf (peerCap s f0.dev) 1 1 = 1 := by
  refine ⟨by decide, by decide, by decide, by decide⟩

/-- Commands with no element left, with their EOT seen, and a SYNC and an INJECT that can end. -/
theorem witness_CommandsEnd : let r (op : BitVec 8) : Running := { run0 op f0 with next := 1, eotSeen := true, doneN := 1 }
    (∀ op ∈ [0x01, 0x02, 0x04, 0x05, 0x06, 0x07, 0x08, 0x0D, 0x0F, 0x10, 0x11], (r (BitVec.ofNat 8 op)).cmd.op = op) ∧
    f0.count.toNat ≤ (r 2).next ∧ (r 1).eotSeen = true ∧ f0.count.toNat % 4096 ≤ (r 0x0D).next ∧
    endsOut (portW (port0 (r 2))) (place folioP [port0 (r 2)]) 0 = none ∧ (port0 (r 2)).flags = 0 ∧
    (∀ y ∈ (place folioP [port0 (r 2)]).ports, ∀ c ∈ y.queue ++ (y.runs ++ y.logs).map (fun z => z.cmd), c.thread = (r 2).cmd.thread → (r 2).cmd.seq ≤ c.seq) ∧
    f0.scope.toNat < 3 ∧ f0.flags.getLsbD 0 = false ∧ (run0 9 f0).doneN + 1 = f0.count.toNat ∧
    (let f := { f0 with count := 0 }
     f.count.toNat % 256 + 1 ≤ (r 6).next) ∧
    (let c := qcmd 0x08 0 f0
     let q := { freshPort State.reset 0 with queue := [c] }
     let p := place folioP [q]
     (portW q).place? 1 = some p ∧ p.port? 0 = some q ∧ q.queue = c :: [] ∧ c.op = 0x08 ∧ c.f = f0 ∧ mayStart (portW q) p q c = true ∧
       ∀ z ∈ q.runs ++ q.logs, z.cmd ≠ c) := by
  refine ⟨by decide, by decide, rfl, by decide, rfl, rfl, by decide, by decide, rfl, rfl, by decide, rfl, rfl, rfl, rfl, rfl, by decide, by simp [freshPort, Port.runs]⟩

/-- INJECT's bytes read through the partition's pages, and its tile with room. -/
theorem witness_Inject : let q := port0 (run0 9 f0)
    let x := freshSite node (.tile [] [] [] [] 0 0) 0
    let s := { portW q with mem := pages, sites := [{ x with segOpen := true, hdrs := [some (plainTok .hdr 0), none, none] }] }
    okAnd (fabReadSpan 2 s (place folioP [q]) ((place folioP [q]).portCore 0) 0 f0.base.toNat 64) (fun s1 bs => bs.length = 64 &&
      (portSend s1 (place folioP [q]) q (mkTok (injectKind f0.fmt) (BitVec.ofNat 512 (bytesNat bs)) (BitVec.allOnes 64) false false)).2) = true := by
  decide +kernel

theorem witness_LogCommandsEnd : let r := { run0 0x0B f0 with doneN := 1 }
    let q := { freshPort State.reset 0 with logs := [r] }
    (Instr.cmdRecord { place := 1, port := 0 } f0, 0x0B) ∈ [(Instr.cmdRecord { place := 1, port := 0 } f0, 0x0B), (.cmdReplay { place := 1, port := 0 } f0, 0x0C)] ∧
    (portW q).place? 1 = some (place folioP [q]) ∧ (place folioP [q]).port? 0 = some q ∧ placeMoves (portW q) (place folioP [q]) = true ∧ q.held = false ∧
    q.running = none ∧ q.older = [] ∧ q.logs = [r] ∧ r.cmd.op = 0x0B ∧ r.cmd.f = f0 ∧ r.elems = [] ∧ f0.count.toNat ≤ r.doneN := by
  refine ⟨by decide, rfl, rfl, rfl, rfl, rfl, rfl, rfl, by decide, by decide, rfl, by decide⟩

theorem witness_PsetPattern : f0.flags.getLsbD 7 = false ∧ ({ f0 with flags := 0x80 } : CmdF).flags.getLsbD 7 = true := by decide

theorem witness_CommandRegisters : let t := ctlT 0x40000 1
    let s := { ctlW t part (place (folio [] []) []) with mem := pages }
    Issues s t ∧ t.id.isSys = false ∧ (t.reg 2).toNat % 16 ≠ 0 ∧ (sysT 0 0).id.isSys = true ∧
    (t.reg 1).toNat % 16 = 0 ∧ okAnd (threadXl s t (t.reg 1).toNat (Need.load (t.mode = .user))) (fun s1 x => okAnd (threadRead s1 t x.1 x.2 16) (fun _ _ => true)) = true :=
  ⟨rfl, rfl, by decide, rfl, by decide, by decide +kernel⟩

/-- A LOAD that is taken, that finds eight waiting, whose scope is cancelled, and one of COUNT 0. -/
theorem witness_ScmdHandsOver : let c := qcmd 0 0 f0
    let t := (ctlT 0 0).kset 1 c.word
    let q := freshPort State.reset 0
    let p := place folioP [q]
    let s := ctlW t partS p
    Issues s t ∧ t.id.isSys = false ∧ s.place? t.place = some p ∧ partOf s t.asid = some partS ∧ (t.kget 1).extractLsb' 114 6 = 0 ∧ p.port? 0 = some q ∧
    cmdValid s p 0 c.op c.f = true ∧ partS.scopeExists c.f.cscope.toNat = true ∧ partS.scopeCancelled c.f.cscope.toNat = false ∧ q.queued < 8 ∧
    8 ≤ ({ q with queue := List.replicate 8 c } : Port).queued ∧ partS.scopeCancelled 4 = true ∧
    cmdValid s p 0 0 { f0 with count := 0 } = false ∧ c.op ≠ 0x08 := by
  refine ⟨rfl, rfl, rfl, rfl, by decide, rfl, rfl, rfl, rfl, by decide, by decide, rfl, by decide, by decide⟩

theorem witness_PstatReads : let q := freshPort State.reset 0
    (portW q).place? (ctlT 0 0).place = some (place folioP [q]) ∧ ((ctlT 63 64).reg 1).toNat < 64 ∧ 64 ≤ ((ctlT 63 64).reg 2).toNat ∧
    (place folioP [q]).port? ((ctlT 0 0).reg 1).toNat = some q ∧ q.end_ < 16 ∧ (∀ r ∈ q.runs ++ q.logs, r.frozen = none) := by
  refine ⟨rfl, by decide, by decide, rfl, by decide, by simp [freshPort, Port.runs]⟩

/-- A folio cached for the core, loaded into slot 1; an operand past the catalogue; an empty slot; a seam of core 0 to its east. -/
theorem witness_BlocksLoadAndSelect : let f := folio [] []
    let g := { part with cache := [{ die := 0, core := 0, routine := 0, lines := 1, folio := f }] }
    let x := place f []
    let t := ctlT 0 256
    let s := ctlW t g x
    Issues s t ∧ s.place? t.place = some x ∧ partOf s t.asid = some g ∧ (t.reg 1).toNat < g.catcount ∧ (1 : BitVec 2).toNat ≠ x.run ∧ x.sel ≠ some 1 ∧
    x.chosen ≠ some 1 ∧ (∀ u ∈ s.threads, ∀ a b c e h, u.wait ≠ .fload a b c e h) ∧ loadCheck s g x 0 = .folio f ∧ 256 ≤ (t.reg 2).toNat ∧
    ({ t with wait := .fload 1 1 0 0 3 } : Thread).wait = .fload x.id (1 : BitVec 2).toNat 0 0 3 ∧ g.loading = false ∧ x.slots.length = 4 ∧
    x.slots.getD 0 none = some f ∧ x.slots.getD 1 none = none ∧
    (let y := { x with gw := 8 }
     ({ x with chosen := some 1 } : Place).chosen.isSome = true ∧ ((ctlT 256 0).reg 1).toNat = 0 + 256 * 1 ∧ neighbour 0 1 = some 1 ∧ y.spans 0 = true ∧ y.spans 1 = true ∧ onSeam s y 0 1 = false) := by
  refine ⟨rfl, rfl, rfl, by decide, by decide, by decide, by decide, ?_, rfl, by decide, rfl, rfl, rfl, rfl, rfl, rfl, by decide, rfl, by decide, by decide, rfl⟩
  intro u hu a b c e h
  simp only [ctlW, List.mem_cons, List.not_mem_nil, or_false] at hu
  rcases hu with rfl | rfl <;> exact Wait.noConfusion

theorem witness_CommandsStart : let c := qcmd 0 0 { f0 with flags := 10 }
    let q := { freshPort State.reset 0 with queue := [c] }
    let p := place folioP [q]
    HasPort (portW q) p q ∧ placeMoves (portW q) p = true ∧ partGoes (portW q) p = true ∧ q.held = false ∧ q.running = none ∧ q.queue = c :: [] ∧
    p.folio = some folioP ∧ folioP.declares q.num c.op = true ∧ startValid c.op c.f (q.slot c.f.slot.toNat) = true ∧ c.f.scope.toNat < 3 ∧
    (let d := qcmd 0x08 0 { f0 with scope := 0 }
     startValid d.op d.f 0 = true ∧ d.op = 0x08 ∧ ∀ r ∈ (freshPort State.reset 0).runs ++ (freshPort State.reset 0).logs, r.cmd ≠ d) ∧
    (let d := qcmd 0x0C 0 f0
     folioP.declares 0 d.op = true ∧ startValid d.op d.f 0 = true ∧ d.op = 0x0C) ∧
    (let d := qcmd 0 0 f0
     startValid d.op d.f 0 = false ∧ d.op ≠ 0x08 ∧ ∀ r ∈ (freshPort State.reset 0).runs ++ (freshPort State.reset 0).logs, r.cmd ≠ d) := by
  refine ⟨⟨rfl, rfl⟩, rfl, rfl, rfl, rfl, rfl, rfl, by decide, by decide, by decide, ⟨by decide, by decide, by simp [freshPort, Port.runs]⟩, by decide, by decide, by decide, by simp [freshPort, Port.runs]⟩

/-- An element whose answer has come, one that waits to try again, and an answer for killed work. -/
theorem witness_PortAnswers : let e : Elem := { n := 0, addr := 0x40000, data := [], refusals := 0, hold := none, st := .sent 5 }
    let r := { run0 0 f0 with elems := [e] }
    let q := port0 r
    let a : Resp := { place := 1, port := 0, elem := 5, kind := .data [1], dead := none }
    let k := mkReq (place folioP [q]) 0 5 f0 (leafXl 0x83F 1 0x40000 1) 1 1 .read
    let s := { portW q with resps := [a, { a with kind := .ack 0 }, { a with dead := some (2 ^ 32 + 3 * 2 ^ 16) }, { a with kind := .refused 16 k },
      { a with kind := .fault 10 1 0 }, { a with kind := .lost { net := 0, src := 0, dst := 0, msgid := 0, io := 0 } 0 0 true }] }
    HasPort s (place folioP [q]) q ∧ q.awaits 5 = some (r, e) ∧ s.arrived (.resp 1 q.num 5) = true ∧
    s.resps[0]? = some { place := 1, port := q.num, elem := 5, kind := .data [1], dead := none } ∧
    s.resps[1]? = some { place := 1, port := q.num, elem := 5, kind := .ack 0, dead := none } ∧
    s.resps[3]? = some { place := 1, port := q.num, elem := 5, kind := .refused 16 k, dead := none } ∧
    s.resps[4]? = some { place := 1, port := q.num, elem := 5, kind := .fault 10 1 0, dead := none } ∧
    (∃ m, s.resps[5]? = some { place := 1, port := q.num, elem := 5, kind := .lost m 0 0 true, dead := none }) ∧ r.cmd.op ≠ 0x10 ∧ r.cmd.op ≠ 0x06 ∧
    (run0 0x10 f0).cmd.op = 0x10 ∧
    (∃ b, s.resps[2]? = some b ∧ b.kind = .data [1] ∧ b.dead = some (2 ^ 32 + 3 * 2 ^ 16) ∧ s.arrived (.resp b.place b.port b.elem) = true) ∧
    (let e' := { e with st := ElemSt.retry 0 k }
     let r' := { r with elems := [e', { e' with n := 1, st := .retry 0 { k with elem := 6 } }] }
     r' ∈ (port0 r').runs ∧ e' ∈ r'.elems ∧ e'.st = .retry 0 k ∧ k.elem = 5 ∧ 0 ≤ s.cycle ∧
     ∀ x ∈ (port0 r').runs, ∀ y ∈ x.elems, ∀ t z, y.st = ElemSt.retry t z → (z.elem = 5 → x = r' ∧ y = e') ∧ (0 < t ∨ 0 = t ∧ 5 ≤ z.elem)) := by
  refine ⟨⟨rfl, rfl⟩, rfl, rfl, rfl, rfl, rfl, rfl, ⟨_, rfl⟩, by decide, by decide, by decide, ⟨_, rfl, rfl, rfl, rfl⟩, ?_, ?_, rfl, rfl, by decide, ?_⟩
  · simp [port0, freshPort, Port.runs]
  · simp
  · intro x hx y hy t z hz
    simp only [port0, freshPort, Port.runs, Option.toList, List.append_nil, List.nil_append, List.mem_cons, List.not_mem_nil, or_false] at hx
    subst hx
    simp only [List.mem_cons, List.not_mem_nil, or_false] at hy
    rcases hy with rfl | rfl <;> simp only [ElemSt.retry.injEq] at hz <;> obtain ⟨rfl, rfl⟩ := hz
    · exact ⟨fun _ => ⟨rfl, rfl⟩, .inr ⟨rfl, Nat.le_refl 5⟩⟩
    · exact ⟨fun h => absurd h (by decide), .inr ⟨rfl, by decide⟩⟩

/-- A walk that has its turn, a window that begins, and a RGRATE of the port. -/
theorem witness_PortEvents : let r := { run0 0 f0 with walking := some 0x40000 }
    let q := port0 r
    let p := place folioP [q]
    let s := { portW q with mem := pages, walkq := [(0, p.portCore 0, 1, 0)] }
    HasPort s p q ∧ q.runs.find? (fun r => r.walking.isSome) = some r ∧ r.walking = some 0x40000 ∧ walkTurnOf s p q.num = true ∧
    (∃ d, p.decl q.num = some d) ∧ okAnd (walk s (some p.die) (p.portCore q.num) p.asid 0x40000) (fun _ _ => true) = true ∧
    ({ q with lastIn := 0 } : Port).lastIn < ({ s with cycle := 256 } : State).cycle ∧ ({ s with cycle := 256 } : State).cycle % 2 ^ q.winlg = 0 ∧
    (s.cycle / 2 ^ q.winlg = q.lastIn / 2 ^ q.winlg ∧ max 1 ((if q.cnt = 0 then 2 ^ q.winlg else q.cnt) * (s.pkg.pwrstat.extractLsb' 7 5).toNat / 16) ≤
      ({ q with used := 2 ^ 16 } : Port).used) ∧ q.num = ((0 : Word).extractLsb' 0 6).toNat := by
  refine ⟨⟨rfl, rfl⟩, rfl, rfl, by decide +kernel, ⟨_, rfl⟩, by decide +kernel, by decide, by decide +kernel, ⟨by decide +kernel, by decide +kernel⟩, rfl⟩

/-- A group of one core ready to leave its slice, a line on its way, and a line whose notice says dropped. -/
theorem witness_McastEvents : let l : Landing := { die := 0, core := 0, line := 2048, va := 0x40000, base := 0x40000, place := 1, port := 0, asid := 1, scope := 0, inflight := none, data := none, lost := none, fixed := false, dropped := false }
    let d : List Byte := List.replicate 128 7
    let f := { f0 with count := 256 }
    let y : Elem := { n := 0, addr := 0x40000, data := [], refusals := 0, hold := none, st := .sent 0 }
    let r := { run0 6 f with elems := [y] }
    let q := port0 r
    let p := place folioP [q]
    let k := mkReq p 0 0 f (leafXl 0x83F 1 0x40000 1) 1 128 .read
    let e : Pend := { no := 1, line := 2048, kind := .mcast, taken := 0, waiting := [], held := [], acked := false, share := false, install := false, data := d, bad := [], fixed := [], comp := none, answer := none }
    let g : Group := { line := 2048, mask := 1, req := k, joined := [], closed := false }
    let x : Slice := { emptySlice 0 3 with pend := [e], groups := [g] }
    let s := { portW q with landing := [l], slices := [x] }
    s.slices.findSome? (fun x => (x.groups.find? (fun y => y.line = 2048 && y.req.place = g.req.place && y.req.port = g.req.port)).bind (fun y =>
        (x.pend.find? (fun p => p.line = 2048 && p.kind = .mcast && !p.data.isEmpty)).map (fun p => (x, y, p)))) = some (x, g, e) ∧ e.bad = [] ∧
    s.landing.find? (fun k => k.die = x.die && k.line = 2048 && k.place = g.req.place && k.port = g.req.port && k.inflight.isNone && k.data.isNone) = some l ∧
    HasPort s p q ∧ p.id = g.req.place ∧ q.num = g.req.port ∧ q.runs.find? (fun r => r.cmd.op = 0x06 && r.elems.any (fun y => y.addr = l.va)) = some r ∧
    cmdCount 0x06 r.cmd.f ≤ r.doneN + 1 ∧
    (let m := { l with inflight := some d }
     [m].find? (fun k => k.die = m.die && k.core = m.core && k.line = m.line && k.inflight.isSome && k.lost.isNone) = some m ∧ s.arrived (.line m.die m.core m.line) = true) ∧
    (let m := { l with dropped := true }
     m ∈ [m] ∧ m.dropped = true) ∧
    (let m := qcmd 0 0 { f0 with flags := 0x1A }
     m.op = 0x00 ∧ m.f.mrx = true ∧ m.f.base.toNat ≤ l.va ∧ l.va < m.f.base.toNat + 64 * m.f.count.toNat ∧ (place folioP [q]).portCore 0 = l.core) := by
  refine ⟨by decide +kernel, rfl, by decide +kernel, ⟨rfl, rfl⟩, rfl, rfl, by decide +kernel, by decide, by decide +kernel, by decide +kernel, by decide, by decide, by decide, by decide, rfl⟩

/-- A system core with one store in its buffer, standing at a load. -/
theorem witness_MemoryAnswers : let e : StoreEnt := { va := 2 ^ 27, xl := physXl true (2 ^ 27), bytes := [1] }
    let t := { sysT (2 ^ 27) 0 with stbuf := [e], pc := 2 ^ 26 }
    let s := { sysW t with mem := [(2 ^ 26 + 2, 0x61), (2 ^ 26 + 3, 0x58)] }
    s.thread? t.id = some t ∧ t.stbuf[0]? = some e ∧ (∀ x ∈ t.stbuf.take 0, x.xl.sram ≠ e.xl.sram ∨ x.xl.pa + x.bytes.length ≤ e.xl.pa ∨ e.xl.pa + e.bytes.length ≤ x.xl.pa) ∧
    (∃ s1 errs, performStore s t e = some (s1, errs)) ∧ t.canIssue = true ∧ pcInstr s t = some (.ldd 3 1 0) ∧
    pcAccess t (.ldd 3 1 0) = some (2 ^ 27, false) ∧ threadCancelled s t = false ∧ t.wait ≠ .steal ∧
    (let m : MsgKey := { net := 0, src := 0, dst := 0, msgid := 0, io := 0 }
     ∃ x ∈ [({ who := .thread t.id, key := m, cls := 0, due := 0, answer := false } : Timer)], x.who = .thread t.id ∧ x.due ≤ s.cycle) ∧
    (let u := { sysT (2 ^ 27) 1 with pc := 2 ^ 26 }
     let v := { sysW u with mem := [(2 ^ 26 + 1, 0x18), (2 ^ 26 + 2, 0x61), (2 ^ 26 + 3, 0x70)] }
     ∃ j s1 w, pcInstr v u = some j ∧ pcAccess u j = some (2 ^ 27, true) ∧ amoAlone v u j = some s1 ∧ s1.thread? u.id = some w) := by
  refine ⟨rfl, rfl, by simp, ⟨_, _, rfl⟩, rfl, rfl, rfl, rfl, by decide, ⟨_, List.mem_singleton.mpr rfl, rfl, by decide⟩, ?_⟩
  refine ⟨.amoadd 3 1 3 0 false, _, _, rfl, rfl, rfl, rfl⟩

/-! ### Witnesses: cells, tiles, memory nodes, matrix nodes, routers and calls -/

/-- A site of the region of launch 0, standing alone. -/
def siteW (x : Site) : State :=
  { ctlW (ctlT 0 0) { part with tasks := [entry] } (place (folio [] []) []) with sites := [x] }

/-- A site within a segment with the given inputs, each with the header `h`. -/
def stood (st : OpSt) (a b c : List Token) (h : Token) : Site :=
  { freshSite node st 0 with ina := a, inb := b, inc := c, segOpen := true, hdrs := [some h, some h, some h] }

/-- A cell word with every input on a channel and every output enabled. -/
def cw (fmt : BitVec 4) (imm : BitVec 16) : CellF :=
  { rep := 0, fmt := fmt, rs := 0, pred := 0, sela := 0x20, selb := 0x21, selc := 0x22, outen := 7, imm := imm }

def ctxOf (op : Nat) (w : CellF) (x : Site) : Ctx :=
  { op := op, w := w, folio := folio [] [], place := place (folio [] []) [], x := x, s := siteW x }

/-- A header of format A, of two rows of 64. -/
def hdrOf (fmtA : Nat) : Token := plainTok .hdr (fmtA * 2 ^ 8 + 2 * 2 ^ 32 + 64 * 2 ^ 48)

def beat (n : Nat) : Token := plainTok .data n

/-- With a sound beat on each input a site can fire, whatever it is. -/
theorem canFire (op : Nat) (w : CellF) (st : OpSt) (h : Token) (ta tb tc : Nat) (ins : List Nat)
    (hr : (ctxOf op w (stood st [beat ta] [beat tb] [beat tc] h)).room = true) (hi : ins ≠ []) (hs : ∀ i ∈ ins, i < 3) :
    CanFire (siteW (stood st [beat ta] [beat tb] [beat tc] h)) node op w (ctxOf op w (stood st [beat ta] [beat tb] [beat tc] h)) ins where
  ctx := rfl
  quiet := rfl
  isOpen := rfl
  room := hr
  some_ := hi
  heads := fun i m => by
    have := hs i m
    interval_cases i <;> exact ⟨_, rfl, rfl, rfl, rfl⟩
  hdrs := fun i m => by
    have := hs i m
    interval_cases i <;> rfl

/-- Each operator of one to three inputs has room for its results. -/
theorem witness_Cells : (∀ op ∈ [0x01, 0x02, 0x03, 0x04, 0x05, 0x06, 0x07, 0x08, 0x09, 0x0A, 0x0B, 0x0C, 0x0D, 0x0E, 0x0F, 0x10, 0x11, 0x12, 0x13,
      0x14, 0x15, 0x16, 0x17, 0x18, 0x19, 0x1A, 0x1B, 0x1C, 0x1D, 0x1E, 0x1F, 0x20, 0x21, 0x22, 0x23, 0x30, 0x31, 0x32, 0x40, 0x41, 0x42, 0x43, 0x44,
      0x50, 0x58, 0x59, 0x5A, 0x5B],
      (ctxOf op (cw 6 0) (stood .none [beat 1] [beat 2] [beat 3] (hdrOf 6))).room = true) ∧
    ([0, 1] : List Nat).filter (ctxOf 1 (cw 6 0) (stood .none [beat 1] [beat 2] [beat 3] (hdrOf 6))).streams = [0, 1] ∧
    (ctxOf 1 (cw 6 0) (stood .none [beat 1] [beat 2] [beat 3] (hdrOf 6))).anyVoid [0, 1, 2] = false := by
  refine ⟨by decide +kernel, by decide +kernel, by decide +kernel⟩

/-- One cell whole, with a predicate. -/
theorem witness_LaneCell : let w := { cw 6 0 with pred := 1 }
    let x := stood .none [beat 1] [beat 2] [beat 1] (hdrOf 6)
    CanFire (siteW x) node 1 w (ctxOf 1 w x) (([0, 1] ++ [2]).filter (ctxOf 1 w x).streams) ∧ (ctxOf 1 w x).anyVoid [0, 1, 2] = false ∧ w.pred ≠ 0 :=
  ⟨canFire 1 _ .none (hdrOf 6) 1 2 1 _ (by decide +kernel) (by decide +kernel) (by decide +kernel), by decide +kernel, by decide +kernel⟩

/-- CVT of one width and to a wider one, PACK to half, UNPACK to twice, SCALE with no scale. -/
theorem witness_Conversions :
    (let x := stood (.gather [] false 0) [beat 1] [beat 2] [beat 3] (hdrOf 6)
     let c := ctxOf 0x19 (cw 0 0) x
     CanFire (siteW x) node 0x19 (cw 0 0) c [0] ∧ c.head 0 = some (beat 1) ∧ (beat 1).void = false ∧ c.streams 0 = true ∧
       c.x.st = .gather [] false 0 ∧ fmtWidth c.src = fmtWidth c.fmt) ∧
    (let c := ctxOf 0x19 (cw 6 0) (stood (.gather [] false 1) [beat 1] [beat 2] [beat 3] (hdrOf 7))
     fmtWidth c.src < fmtWidth c.fmt ∧ 1 < fmtWidth c.fmt / fmtWidth c.src) ∧
    (let c := ctxOf 0x20 (cw 7 0) (stood .none [beat 1] [beat 2] [beat 3] (hdrOf 6))
     fmtWidth c.src = 2 * fmtWidth c.fmt ∧ c.streams 1 = true ∧ c.head 1 = some (beat 2)) ∧
    (let c := ctxOf 0x21 (cw 6 0) (stood .none [beat 1] [beat 2] [beat 3] (hdrOf 7))
     fmtWidth c.fmt = 2 * fmtWidth c.src) ∧
    (let x := stood (.scale [] 0 0 0) [beat 1] [] [] (hdrOf 0)
     let c := ctxOf 0x1A (cw 6 0) x
     c.hdr 0 = some (hdrOf 0) ∧ hdrScale (hdrOf 0) % 4 = 0 ∧ floatFmt (hdrFmtA (hdrOf 0)) = some fp32 ∧ c.head 1 = none ∧ c.room = true ∧
       c.x.st = .scale [] 0 0 0 ∧ fmtWidth c.src = fmtWidth c.fmt ∧ 0 + 512 / fmtWidth c.src ≤ hdrRows (hdrOf 0) * hdrCols (hdrOf 0)) := by
  refine ⟨⟨canFire _ _ _ _ _ _ _ _ (by decide +kernel) (by decide +kernel) (by decide +kernel), rfl, rfl, rfl, rfl, by decide +kernel⟩, by decide +kernel, by decide +kernel, by decide +kernel, ?_⟩
  decide +kernel

theorem witness_Reductions : let x := stood (.gather [] false 0) [beat 1] [beat 2] [beat 3] (hdrOf 6)
    let c := ctxOf 0x1B (cw 6 1) x
    c.head 0 = some (beat 1) ∧ (beat 1).void = false ∧ c.streams 0 = true ∧ c.x.st = .gather [] false 0 ∧ ([] : List (Nat × Bool)).length < 15 ∧
    ([] : List (Nat × Bool)).length + 1 < 512 / fmtWidth c.fmt ∧ c.imm % 2 = 1 ∧ (beat 1).last = false ∧ (ctxOf 0x1D (cw 6 0) x).imm % 2 = 0 ∧
    (ctxOf 0x1D { cw 6 0 with selb := 0 } x).uses 1 = false ∧ (List.replicate 16 (0 : BitVec 32)).length = 16 := by decide +kernel

theorem witness_Moves : let x := stood .none [beat 1] [beat 2] [beat 3] (hdrOf 6)
    let c := ctxOf 0x1E (cw 6 0) x
    CanFire (siteW x) node 0x1E (cw 6 0) c [0, 1] ∧ c.head 0 = some (beat 1) ∧ c.head 1 = some (beat 2) ∧ (beat 2).void = false ∧ c.streams 1 = true ∧
    (beat 2).laneLive 0 = true ∧ (beat 2).elem 32 0 < 16 ∧ 16 ≤ (beat 16).elem 32 0 ∧ (cw 6 0).pred = 0 :=
  ⟨canFire _ _ _ _ _ _ _ _ (by decide +kernel) (by decide +kernel) (by decide +kernel), rfl, rfl, rfl, rfl, by decide +kernel, by decide +kernel, by decide +kernel, rfl⟩

/-- Every kind of token at the head of input a, within a segment and outside one, before a header and after it. -/
theorem witness_Framing : (∀ k ∈ [Kind.sot, .data, .hdr, .eot, .mark, .kill, .ord, .done, .ctrl, .idx],
      Stage (siteW (stood .none [plainTok k 1] [] [] (hdrOf 6))) node 0x23 (cw 6 0) (ctxOf 0x23 (cw 6 0) (stood .none [plainTok k 1] [] [] (hdrOf 6)))
        [(0, plainTok k 1)]) ∧ (cw 6 0).pred = 0 ∧ (stood .none [] [] [] (hdrOf 6)).segOpen = true ∧
    ({ stood .none [] [] [] (hdrOf 6) with segOpen := false } : Site).segOpen = false ∧
    (ctxOf 0x23 (cw 6 0) (stood .none [] [] [] (hdrOf 6))).hdr 0 = some (hdrOf 6) ∧
    (ctxOf 0x23 (cw 6 0) (freshSite node .none 0)).hdr 0 = none ∧ sidecarShort (some (hdrOf 6)) 0 .eot = false ∧
    sidecarShort (some (hdrSet (hdrOf 6) 16 3 1)) 0 .eot = true := by
  refine ⟨?_, rfl, rfl, rfl, rfl, rfl, by decide +kernel, by decide +kernel⟩
  intro k hk
  have room : (ctxOf 0x23 (cw 6 0) (stood .none [] [] [] (hdrOf 6))).room = true := by decide +kernel
  refine ⟨rfl, rfl, room, ?_⟩
  intro h hh
  simp only [List.mem_cons, List.not_mem_nil, or_false] at hh
  subst hh
  exact ⟨rfl, rfl, rfl, rfl⟩

/-- With sound heads on some inputs and room for its results a site may act. -/
theorem stage (op : Nat) (w : CellF) (x : Site) (heads : List (Nat × Token)) (hs : siteCtx (siteW x) node op w = some (ctxOf op w x))
    (hr : (ctxOf op w x).room = true)
    (hh : ∀ h ∈ heads, (ctxOf op w x).streams h.1 = true ∧ (ctxOf op w x).head h.1 = some h.2 ∧ h.2.chk = .good ∧ h.2.res = residues h.2.pay) :
    Stage (siteW x) node op w (ctxOf op w x) heads := ⟨hs, rfl, hr, hh⟩

/-- With one sound beat, on input a, a site can fire. -/
theorem canFireA (op : Nat) (w : CellF) (st : OpSt) (h a : Token) (hs : a.kind = .data ∧ a.chk = .good ∧ a.res = residues a.pay)
    (hr : (ctxOf op w (stood st [a] [] [] h)).room = true) :
    CanFire (siteW (stood st [a] [] [] h)) node op w (ctxOf op w (stood st [a] [] [] h)) [0] where
  ctx := rfl
  quiet := rfl
  isOpen := rfl
  room := hr
  some_ := by decide
  heads := fun i m => by rw [List.mem_singleton.mp m]; exact ⟨a, rfl, hs⟩
  hdrs := fun i m => by rw [List.mem_singleton.mp m]; rfl

/-- FILTER with one arm that the beat fills; COUNT at level 0 with its trigger and within its run, and chained. -/
theorem witness_FilterAndCount : let full : List Cont := List.replicate 15 { val := 1, live := 15, void := false }
    (let c := ctxOf 0x30 (cw 6 0) (stood (.filter [] full) [beat 1] [beat 1] [beat 1] (hdrOf 6))
     CanFire c.s node 0x30 (cw 6 0) c [0, 1] ∧ c.head 0 = some (beat 1) ∧ c.head 1 = some (beat 1) ∧ c.streams 0 = true ∧ c.streams 1 = true ∧
       (beat 1).void = false ∧ c.x.st = .filter [] full ∧ ([] : List Cont).length < 16 ∧ full.length < 16) ∧
    (let c := ctxOf 0x32 (cw 6 0) (stood (.count 0 0 false) [beat 1] [] [] (hdrOf 6))
     CanFire c.s node 0x32 (cw 6 0) c [0] ∧ c.streams 0 = true ∧ c.head 0 = some (beat 1) ∧ c.imm % 2 = 0 ∧ c.x.st = .count 0 0 false) ∧
    (let c := ctxOf 0x32 (cw 6 0) (stood (.count 1 5 false) [] [] [] (hdrOf 6))
     Stage c.s node 0x32 (cw 6 0) c [] ∧ c.headIs 0 (fun z => z = Kind.kill) = false ∧ c.x.st = .count 1 5 false ∧ 0 < 5) ∧
    (let a := plainTok .idx 0
     let c := ctxOf 0x32 (cw 6 1) (stood (.count 0 0 false) [a] [] [] (hdrOf 6))
     Stage c.s node 0x32 (cw 6 1) c [(0, a)] ∧ a.kind = .idx ∧ a.void = false ∧ c.x.segOpen = true ∧ (c.hdr 0).isSome = true ∧ c.imm % 2 = 1 ∧
       c.x.st = .count 0 0 false) := by
  refine ⟨⟨canFire _ _ _ _ _ _ _ _ (by decide +kernel) (by decide) (by decide), rfl, rfl, rfl, rfl, rfl, rfl, by decide, by decide⟩,
    ⟨canFireA _ _ _ _ _ ⟨rfl, rfl, rfl⟩ (by decide +kernel), rfl, rfl, rfl, rfl⟩,
    ⟨stage _ _ _ _ rfl (by decide +kernel) (by simp), rfl, rfl, by decide⟩,
    ⟨stage _ _ _ _ rfl (by decide +kernel) (by decide +kernel), rfl, rfl, rfl, rfl, rfl, rfl⟩⟩

/-- LOOP about to start, with a record brought back, with one to send on, with a status of each kind, and with an exit to give. -/
theorem witness_LoopCell : let run (k : List (Nat × Token)) (m o : Nat) (e : Option Nat) (r : Bool) : OpSt := .loop k m o 0 0 e r false false false false
    (let c := ctxOf 0x31 (cw 6 1) (stood (run [] 0 0 none false) [beat 1] [] [] (hdrOf 6))
     CanFire c.s node 0x31 (cw 6 1) c [0] ∧ c.streams 0 = true ∧ c.head 0 = some (beat 1) ∧ c.head 1 = none ∧ c.head 2 = none) ∧
    (let c := ctxOf 0x31 (cw 6 1) (stood (run [] 1 0 none true) [] [beat 2] [] (hdrOf 6))
     Stage c.s node 0x31 (cw 6 1) c [(1, beat 2)] ∧ c.head 0 = none ∧ c.head 2 = none ∧ (beat 2).kind = .data ∧ c.x.st = run [] 1 0 none true) ∧
    (let c := ctxOf 0x31 (cw 6 1) (stood (run [(0, beat 2)] 1 0 none true) [] [] [] (hdrOf 6))
     Stage c.s node 0x31 (cw 6 1) c [] ∧ c.head 0 = none ∧ c.head 1 = none ∧ c.head 2 = none ∧
       (([(0, beat 2)] : List (Nat × Token)).find? (fun k => k.1 = 0)).map (fun k => k.2) = some (beat 2) ∧ 1 < 0 + (c.imm % 16 + 1)) ∧
    (∀ last : Bool, let t := doneTok last false
     let c := ctxOf 0x31 (cw 6 1) (stood (run [(0, beat 2)] 1 0 none true) [] [] [t] (hdrOf 6))
     Stage c.s node 0x31 (cw 6 1) c [(2, t)] ∧ c.head 0 = none ∧ c.head 1 = none ∧ t.kind = .done ∧ t.last = last ∧ 0 < 1) ∧
    (let c := ctxOf 0x31 (cw 6 1) (stood (run [(0, beat 2)] 1 1 (some 0) true) [] [] [] (hdrOf 6))
     Stage c.s node 0x31 (cw 6 1) c [] ∧ c.head 0 = none ∧ c.head 1 = none ∧ c.head 2 = none ∧ c.x.st = run [(0, beat 2)] 1 1 (some 0) true) := by
  refine ⟨⟨canFireA _ _ _ _ _ ⟨rfl, rfl, rfl⟩ (by decide +kernel), rfl, rfl, rfl, rfl⟩,
    ⟨stage _ _ _ _ rfl (by decide +kernel) (by decide +kernel), rfl, rfl, rfl, rfl⟩,
    ⟨stage _ _ _ _ rfl (by decide +kernel) (by decide +kernel), rfl, rfl, rfl, rfl, by decide +kernel⟩, ?_,
    ⟨stage _ _ _ _ rfl (by decide +kernel) (by decide +kernel), rfl, rfl, rfl, rfl⟩⟩
  intro last
  cases last <;> exact ⟨stage _ _ _ _ rfl (by decide +kernel) (by decide +kernel), rfl, rfl, rfl, rfl, by decide⟩

/-- FORK with its ORD, JOIN of two and of three, FENCE of two and of three at REGION and at PACKAGE, where writes are forwarded or not. -/
theorem witness_OrderCells : let o := ordTok false
    let d := doneTok false true
    let x := stood .none [o] [d] [beat 1] (hdrOf 6)
    let y := stood .none [o] [d] [d] (hdrOf 6)
    let w2 := { cw 6 0 with selc := 0 }
    Stage (siteW x) node 0x45 (cw 6 0) (ctxOf 0x45 (cw 6 0) x) [(0, o)] ∧ o.kind = .ord ∧ d.kind = .done ∧ (beat 1).kind = .data ∧
    Stage (siteW x) node 0x46 w2 (ctxOf 0x46 w2 x) [(0, o), (1, d)] ∧ (ctxOf 0x46 w2 x).uses 2 = false ∧
    Stage (siteW x) node 0x46 (cw 6 1) (ctxOf 0x46 (cw 6 1) x) [(0, o), (1, d), (2, beat 1)] ∧ (ctxOf 0x46 (cw 6 1) x).imm % 2 = 1 ∧
    Stage (siteW y) node 0x47 w2 (ctxOf 0x47 w2 y) [(0, o), (1, d)] ∧ (ctxOf 0x47 w2 y).uses 2 = false ∧ (ctxOf 0x47 w2 y).imm < 3 ∧
    Stage (siteW y) node 0x47 (cw 6 3) (ctxOf 0x47 (cw 6 3) y) [(0, o), (1, d), (2, d)] ∧ 3 ≤ (ctxOf 0x47 (cw 6 3) y).imm ∧
    forwarding (siteW y) (regionOf (siteW y) (place (folio [] []) [])) = false := by
  refine ⟨stage _ _ _ _ rfl (by decide +kernel) (by decide +kernel), rfl, rfl, rfl, stage _ _ _ _ rfl (by decide +kernel) (by decide +kernel), rfl,
    stage _ _ _ _ rfl (by decide +kernel) (by decide +kernel), rfl, stage _ _ _ _ rfl (by decide +kernel) (by decide +kernel), rfl, by decide,
    stage _ _ _ _ rfl (by decide +kernel) (by decide +kernel), by decide, rfl⟩

/-- A header of version 1. -/
def goodHdr : Token := plainTok .hdr (1 + 6 * 2 ^ 8 + 2 * 2 ^ 32 + 64 * 2 ^ 48)

theorem witness_FramingCells : let l : Token := { beat 1 with last := true }
    (let c := ctxOf 0x50 (cw 6 0) (stood (.mseq true false) [l] [] [] (hdrOf 6))
     CanFire c.s node 0x50 (cw 6 0) c [0] ∧ c.head 0 = some l ∧ l.void = false ∧ c.streams 0 = true ∧ c.x.st = .mseq true false ∧ l.last = true) ∧
    CanFire (siteW (stood .none [beat 1] [] [] (hdrOf 6))) node 0x58 (cw 6 0) (ctxOf 0x58 (cw 6 0) (stood .none [beat 1] [] [] (hdrOf 6))) [0] ∧
    (let x := { stood .none [goodHdr] [] [] goodHdr with hdrs := [some goodHdr, none, none] }
     let c := ctxOf 0x58 (cw 6 1) x
     Stage (siteW x) node 0x58 (cw 6 1) c [(0, goodHdr)] ∧ c.hdr 1 = none ∧ c.hdr 2 = none ∧ c.x.segOpen = true ∧
       sidecarShort (c.hdr 0) c.x.beats .hdr = false ∧ hdrOk goodHdr = true ∧ hdrOk (hdrGen c goodHdr) = true) ∧
    (let x := stood .none [beat 1] [beat 2] [beat 3] (hdrOf 6)
     let c := ctxOf 0x59 (cw 6 0) x
     CanFire (siteW x) node 0x59 (cw 6 0) c [0, 1] ∧ c.streams 1 = true ∧ c.head 1 = some (beat 2) ∧ (beat 2).void = false) ∧
    (let m := plainTok .mark 1
     let x := stood .none [beat 1] [m] [] (hdrOf 6)
     Stage (siteW x) node 0x59 (cw 6 0) (ctxOf 0x59 (cw 6 0) x) [(0, beat 1), (1, m)] ∧ (beat 1).kind = .data ∧ m.kind = .mark) ∧
    CanFire (siteW (stood .none [beat 1] [] [] (hdrOf 6))) node 0x5A (cw 6 0) (ctxOf 0x5A (cw 6 0) (stood .none [beat 1] [] [] (hdrOf 6))) [0] ∧
    (let e := plainTok .eot 0
     let x := stood .none [e] [] [] (hdrOf 6)
     let c := ctxOf 0x5A (cw 6 0) x
     Stage (siteW x) node 0x5A (cw 6 0) c [(0, e)] ∧ e.kind = .eot ∧ c.x.segOpen = true ∧ c.hdr 0 = some (hdrOf 6) ∧
       sidecarShort (some (hdrOf 6)) c.x.beats .eot = false) ∧
    (∀ t ∈ [l, beat 1], let c := ctxOf 0x5B (cw 6 0) (stood (.segin 7) [t] [] [] (hdrOf 6))
     CanFire c.s node 0x5B (cw 6 0) c [0] ∧ c.x.st = .segin 7 ∧ c.hdr 0 = some (hdrOf 6)) ∧ (beat 1).last = false := by
  refine ⟨⟨canFireA _ _ _ _ _ ⟨rfl, rfl, rfl⟩ (by decide +kernel), rfl, rfl, rfl, rfl, rfl⟩, canFireA _ _ _ _ _ ⟨rfl, rfl, rfl⟩ (by decide +kernel),
    ⟨stage _ _ _ _ rfl (by decide +kernel) (by decide +kernel), rfl, rfl, rfl, by decide +kernel, by decide +kernel, by decide +kernel⟩,
    ⟨canFire _ _ _ _ _ _ _ _ (by decide +kernel) (by decide) (by decide), rfl, rfl, rfl⟩,
    ⟨stage _ _ _ _ rfl (by decide +kernel) (by decide +kernel), rfl, rfl⟩, canFireA _ _ _ _ _ ⟨rfl, rfl, rfl⟩ (by decide +kernel),
    ⟨stage _ _ _ _ rfl (by decide +kernel) (by decide +kernel), rfl, rfl, rfl, by decide +kernel⟩, ?_, rfl⟩
  intro t ht
  simp only [List.mem_cons, List.not_mem_nil, or_false] at ht
  rcases ht with rfl | rfl <;> exact ⟨canFireA _ _ _ _ _ ⟨rfl, rfl, rfl⟩ (by decide +kernel), rfl, rfl⟩

/-- A FIFO with room and with a token to give, a BUF with both buffers free, AGEN and LINEBUF with an index of row 0. -/
theorem witness_Tiles : let i := plainTok .idx 0
    (let x := stood (.tile [] [] [] [] 2047 1023) [beat 1] [] [] (hdrOf 6)
     let c := ctxOf 0x4A (cw 6 0) x
     Stage (siteW x) node 0x4A (cw 6 0) c [(0, beat 1)] ∧ c.x.snaps = [] ∧ c.x.segOpen = true ∧ (c.hdr 0).isSome = true ∧ (beat 1).kind = .data ∧
       c.x.st = .tile [] [] [] [] 2047 1023 ∧ ({ x with segOpenB := true } : Site).segOpenB = true ∧ (c.hdr 1).isSome = true) ∧
    (let c := ctxOf 0x49 (cw 6 1) (stood (.tile [] [([], false), ([], false)] [] [] 0 0) [beat 1] [] [] (hdrOf 6))
     c.imm % 4 = 1 ∧ c.x.st = .tile [] [([], false), ([], false)] [] [] 0 0) ∧
    (let x := stood (.tile [] [] [beat 1] [] 0 0) [] [i] [i] (hdrOf 6)
     let c := ctxOf 0x4B (cw 6 0) x
     c.head 0 = none ∧ c.head 1 = some i ∧ i.kind = .idx ∧ i.lane 0 = 0 ∧ i.lane 0 < 2048 ∧ i.void = false ∧ c.portOn 1 = false ∧ c.enabled 0 = true ∧
       c.x.out = [] ∧ c.x.st = .tile [] [] [beat 1] [] 0 0) ∧
    (let c := ctxOf 0x48 (cw 6 0) (stood (.tile [] [] [] [] 0 0) [] [] [i] (hdrOf 6))
     c.head 0 = none ∧ c.head 1 = none ∧ c.head 2 = some i ∧ c.room = true) := by
  refine ⟨⟨⟨rfl, rfl, rfl, ?_⟩, rfl, rfl, rfl, rfl, rfl, rfl, rfl⟩, ⟨rfl, rfl⟩, ⟨rfl, rfl, rfl, by decide +kernel, by decide +kernel, rfl, rfl, rfl, rfl, rfl⟩, rfl, rfl, rfl, rfl⟩
  intro h hh
  simp only [List.mem_cons, List.not_mem_nil, or_false] at hh
  subst hh
  exact ⟨rfl, rfl, rfl, rfl⟩

/-- An index beat with no live lane reaches memory trivially; a VOID one makes no access. -/
theorem witness_MemoryNodes : let a : Token := mkTok .idx 0 0 false false
    let m : MemSt := { fired := 0, lane := 0, vals := [], conf := 0, wave := 0, logged := 0 }
    let w := { cw 6 0 with selb := 0, selc := 0 }
    let x := stood (.mem m) [beat 0] [] [] (hdrOf 6)
    let c := ctxOf 0x40 w x
    c.streams 0 = true ∧ c.head 0 = some (beat 0) ∧ c.uses 1 = false ∧ c.uses 2 = false ∧ c.x.st = .mem m ∧ m.conf = 0 ∧ m.lane = 0 ∧ m.vals = [] ∧
    regionRb (siteW x) c.place = none ∧ (memImm c.imm).log = false ∧ (memImm c.imm).conf = false ∧ (memImm c.imm).scope < 3 ∧ (memImm c.imm).dscope = 0 ∧
    a.void = false ∧ (∃ s1 vals, lanesFrom c a (voidTok .data false) 16 0 (siteW x) [] = .all s1 vals) ∧ (voidTok .data true).void = true ∧
    (Instr.cellLd node w, 0x40) ∈ [(Instr.cellLd node w, 0x40), (.cellSt node w, 0x41)] := by
  refine ⟨rfl, rfl, rfl, rfl, rfl, rfl, rfl, rfl, rfl, by decide +kernel, by decide +kernel, by decide +kernel, by decide +kernel, rfl, ⟨_, _, rfl⟩, rfl, by decide +kernel⟩

/-- A matrix node at MZERO, MDRAIN, and MMA of one granule of INT8 by one, with its four buffers full. -/
theorem witness_MatrixNodes :
    let ctl (op kg gr fa : Nat) : Token := plainTok .ctrl (op + gr * 2 ^ 16 + gr * 2 ^ 24 + kg * 2 ^ 32 + fa * 2 ^ 48 + fa * 2 ^ 52)
    let fields (t : Token) : CtrlF := ctrlFields t.pay
    let f : Folio := folio [{ x := 1, y := 1, word := 0x5100000000000000 }] []
    let x (t : Token) : Site := stood (.matrix [] [] false) [t] [] [] (hdrOf 6)
    let w (t : Token) : State := { ctlW (ctlT 0 0) { part with tasks := [entry] } (place f []) with sites := [x t] }
    let t := ctl 0x52 0 0 0
    (∃ c, matrixCtx (w t) node = some c ∧ rollDue c.s c.place = false ∧ c.head 0 = some t ∧ Sound t ∧ t.kind = .ctrl ∧ t.void = false ∧
      c.x.st = .matrix [] [] false ∧ c.x.out = []) ∧ t.pay.toNat / 2 ^ 128 = 0 ∧ (∀ u ∈ [beat 1, beat 2], Sound u) ∧ t.pay.toNat % 256 = 0x52 ∧ ctrlOk 0x52 (fields t) = true ∧
    ((ctl 0x53 0 1 0).pay.toNat % 256 = 0x53 ∧ ctrlOk 0x53 (fields (ctl 0x53 0 1 0)) = true) ∧
    ((ctl 0x51 1 1 8).pay.toNat % 256 = 0x51 ∧ ctrlOk 0x51 (fields (ctl 0x51 1 1 8)) = true ∧ (fields (ctl 0x51 1 1 8)).scale = 0) ∧
    (let full : Site := { freshSite { node with x := 0 } (.tile [] [([beat 1, beat 2], true)] [] [] 0 0) 0 with segOpen := true }
     bufBeats { w t with sites := [full] } { node with x := 0 } = some [beat 1, beat 2] ∧
       ([beat 1, beat 2].length = (256 * (fields (ctl 0x51 1 1 8)).mg.toNat * (fields (ctl 0x51 1 1 8)).kg.toNat * fmtWidth (fields (ctl 0x51 1 1 8)).fmta.toNat / 512 + 1) / 2)) := by
  refine ⟨⟨_, rfl, rfl, rfl, ⟨rfl, rfl⟩, rfl, rfl, rfl, rfl⟩, by decide +kernel, by simp [Sound, beat, plainTok, mkTok], by decide +kernel, by decide +kernel, by decide +kernel, by decide +kernel, rfl, by decide +kernel⟩

/-- A router slot with two and with three inputs. -/
theorem witness_Routers : let w2 : RopF := { slot := false, in0 := 0x28, in1 := 0x29, in2 := 0 }
    let w3 : RopF := { w2 with in2 := 0x2A }
    let sl (st : OpSt) (k : List Token) (k2 : List Token) : RSlot := { freshSlot node false st with in0 := [beat 1], in1 := k, in2 := k2, segOpen := true, hdrs := List.replicate 3 (some (hdrOf 6)) }
    let w (x : RSlot) : State := { ctlW (ctlT 0 0) { part with tasks := [entry] } (place (folio [] []) []) with rslots := [x] }
    (∀ k ∈ [beat 1, ordTok false], ∃ c, SlotStage (w (sl (.invar none) [k] [])) node w2 c [(0, beat 1), (1, k)] ∧ c.x.st = .invar none) ∧
    (∃ c, slotCtx (w (sl (.invar none) [] [])) node w2 = some c ∧ rollDue c.s c.place = false ∧ c.used = [0, 1] ∧ c.x.segOpen = true ∧
      (c.x.hdrs.getD 0 none).isSome = true ∧ c.head 0 = some (beat 1) ∧ Sound (beat 1) ∧ c.head 1 = none ∧ c.x.st = .invar none) ∧
    (∀ k ∈ [beat 0, plainTok .idx 0], ∃ c, SlotStage (w (sl (.carry true) [beat 2] [k])) node w3 c [(0, beat 1), (1, beat 2), (2, k)] ∧ c.x.st = .carry true) ∧
    (beat 1).kind = .data ∧ (beat 1).void = false ∧ ((beat 1).laneLive 0 && decide ((beat 1).lane 0 ≠ 0)) = true ∧
    ((beat 0).laneLive 0 && decide ((beat 0).lane 0 ≠ 0)) = false ∧ (∃ l, l < 16 ∧ (plainTok .idx 0).lane l = 0) ∧
    (∀ l, l < 16 → (plainTok .idx 0).lane l = 0) := by
  refine ⟨?_, ⟨_, rfl, rfl, rfl, rfl, rfl, rfl, ⟨rfl, rfl⟩, rfl, rfl⟩, ?_, rfl, rfl, by decide +kernel, by decide +kernel, ⟨0, by decide +kernel, by decide +kernel⟩, by decide +kernel⟩
  · intro k hk
    simp only [List.mem_cons, List.not_mem_nil, or_false] at hk
    rcases hk with rfl | rfl <;> refine ⟨_, ⟨rfl, rfl, rfl, rfl, ?_, ?_⟩, rfl⟩ <;> intro h hh <;>
      simp only [List.mem_cons, List.not_mem_nil, or_false] at hh <;> rcases hh with rfl | rfl <;> first | rfl | exact ⟨rfl, rfl, rfl⟩
  · intro k hk
    simp only [List.mem_cons, List.not_mem_nil, or_false] at hk
    rcases hk with rfl | rfl <;> refine ⟨_, ⟨rfl, rfl, rfl, rfl, ?_, ?_⟩, rfl⟩ <;> intro h hh <;>
      simp only [List.mem_cons, List.not_mem_nil, or_false] at hh <;> rcases hh with rfl | rfl | rfl <;> first | rfl | exact ⟨rfl, rfl, rfl⟩

/-- A PITCH of a routine with one argument and a PITCHG of one with none; ARGP and STRIKE of an instance. -/
theorem witness_Calls : let ps : PitchSt := { toks := [], routine := 1, items := [], calls := [], next := 0 }
    let g := { part with heads := [(0, 1), (1, 1)] }
    let x := stood (.pitch ps) [beat 1] [] [] (hdrOf 6)
    let s : State := { siteW x with parts := [g] }
    let c : Ctx := { ctxOf 0x60 (cw 6 1) x with s := s }
    (c.hdr 0 = some (hdrOf 6) ∧ c.x.segOpen = true ∧ partOf s c.place.asid = some g ∧ ps.toks = [] ∧ ps.items = [] ∧ ps.calls = [] ∧ ps.routine = 1 ∧
      c.x.st = .pitch ps ∧ (beat 1).kind = .data ∧ c.imm < 2 ^ 15 ∧ c.imm % 256 = 1 ∧ siteCtx s node 0x60 (cw 6 1) = some c ∧ rollDue c.s c.place = false ∧
      c.room = true ∧ routineHead s c.place.asid 1 = some (1, 1) ∧ routineHead s c.place.asid 0 = some (0, 1)) ∧
    (let i : Inst := { caller := node, call := 0, logical := [0], cur := 0, args := [5], results := [6], st := .awake, stowSlots := [], buffered := [], activeAt := 0, struck := false, wave := 0 }
     let y := stood (.line false) [] [] [] (hdrOf 6)
     let p := { place (folio [] []) [] with inst := some i }
     let t : Token := { beat 1 with route := 5 }
     let v : State := { ctlW (ctlT 0 0) part p with sites := [y], guy := [{ asid := 1, route := 5, next := 1, toks := [t] }] }
     (∃ c, siteCtx v node 0x62 (cw 6 0) = some c ∧ c.place.inst = some i ∧ c.x.st = .line false ∧ i.args[c.imm % 8]? = some 5) ∧ i.struck = false ∧
       guyLine v 1 5 = t :: [] ∧ guyHead v 1 5 = some t ∧ i.results.any (recordFull v 1) = false ∧ Sound t ∧ t.route = BitVec.ofNat 12 5 ∧ t.kind = .data ∧ i.results[0]? = some 6) := by
  refine ⟨⟨rfl, rfl, rfl, rfl, rfl, rfl, rfl, rfl, rfl, by decide +kernel, by decide +kernel, rfl, rfl, rfl, rfl, rfl⟩, ⟨_, rfl, rfl, rfl, rfl⟩, rfl, rfl, by decide +kernel, by decide +kernel, ⟨rfl, rfl⟩, rfl, rfl, rfl⟩

/-! ### Witnesses: the package and the networks -/

theorem witness_PowerControl : let r (ppkg ifab tj : BitVec 16) : Sample := { ppkg := ppkg, ifab := ifab, tjmax := tj, hotdie := 3 }
    (r 0 0 919).tjmax.toInt < 920 ∧ 1 ≤ (pkgUp.pwrstat.extractLsb' 7 5).toNat ∧ (pkgUp.pwrstat.extractLsb' 7 5).toNat ≤ 16 ∧
    840 ≤ (r 0 0 840).tjmax.toInt ∧ ¬ 840 ≤ (r 0 0 839).tjmax.toInt ∧ (r 0 20001 0).ifab.toNat > 100 * (pkgUp.pwrcap.extractLsb' 8 8).toNat ∧
    ¬ (r 0 20000 0).ifab.toNat > 100 * (pkgUp.pwrcap.extractLsb' 8 8).toNat ∧ (r 10001 0 0).ppkg.toNat > (pkgUp.pwrcap.extractLsb' 16 14).toNat ∧
    ¬ (r 10000 0 0).ppkg.toNat > (pkgUp.pwrcap.extractLsb' 16 14).toNat ∧ 920 ≤ (r 0 0 920).tjmax.toInt ∧ pkgUp.pwrcap.getLsbD 0 = false ∧
    ({ pkgUp with pwrcap := 1 } : Pkg).pwrcap.getLsbD 0 = true := by decide

theorem witness_RailsAndLinks : ({ pkgUp with railFrames := [(0, 0)] } : Pkg).railFrames = [(0, 0)] ∧ 0 ≤ State.reset.cycle ∧
    60 ≤ (100 : Byte).toNat ∧ (100 : Byte).toNat ≤ 140 ∧ Pkg.reset.railReset[7]? = some true ∧ pkgUp.railReset[7]? = some false ∧
    pkgUp.pcieStrap[1]? = some true ∧ ({ pkgUp with pcieStrap := [false, true] } : Pkg).pcieStrap[0]? = some false ∧ 16 ∈ [1, 2, 4, 8, 16] := by decide

/-- The boot ROM at each of its stages, its timer run out. -/
theorem witness_NetworkBoot : ∀ g ∈ [(0 : BitVec 4), 1, 3, 15],
    let s : State := { State.reset with cycle := 8750000000, pkg := { Pkg.reset with bootstat := (g.setWidth 64) <<< 28 } }
    RomAt s g ∧ s.pkg.boot.due ≤ s.cycle := by
  intro g hg
  simp only [List.mem_cons, List.not_mem_nil, or_false] at hg
  rcases hg with rfl | rfl | rfl | rfl <;> exact ⟨⟨rfl, _, rfl, rfl⟩, by decide⟩

/-- An image of 64 zero bytes whose header is in order, signed outside the model with the private key 12345678901234567890
and the nonce 987654321987654321 (R50: the key and the signature are big-endian). -/
def image : List Byte :=
  natBytes 4 0x4B4E4431 ++ natBytes 2 1 ++ List.replicate 26 0 ++ natBytes 4 64 ++ List.replicate 28 0 ++
  (natBytes 32 0x3ed7a28ec648edce5d5b7e252f6b2aafbb44835114a24b3caa8f710f64993bc2).reverse ++
  (natBytes 32 0x5711a34cdc9229080b639f09977feb7ca91ecce1649bfea8ad85c72b206ade7e).reverse ++
  (natBytes 32 0xe7acf4c3e7af0a905105825659269fd7721430a2fdc5600ced282370a8fd0143).reverse ++
  (natBytes 32 0xdf5ffcd4b69d1a2e15bd45642e8a2bdcf021f566f3c8637bd3c3f95476198951).reverse ++ List.replicate 128 0

def imageDigest : BitVec 256 := 0x8666134dd2f96b174b5b250c196094a695b0f410aa492c9eeb09279e1427c192
def imageKey : BitVec 256 := 0xe9461d729d49936ca30ce1b64080788d715e62a3fb876685453df8bb599410e3

/-- SHA-256 and ECDSA over P-256 against an implementation outside the model. -/
theorem test_sha256 : Machine.sha256 (image.take 128 ++ (image.drop 256).take 64) = imageDigest ∧
    Machine.sha256 ((image.drop 64).take 64) = imageKey := by decide +kernel
theorem test_ecdsa : Machine.ecdsaVerify ((image.drop 64).take 64) imageDigest ((image.drop 128).take 64) = true := by decide +kernel

/-- A good header and a bad one, a key that is trusted and one that is revoked, a good signature (`test_ecdsa`) and an empty
one, a version at the fuses' floor and one below it. -/
theorem witness_ImageChecks : let num (o n : Nat) : Nat := bytesNat ((image.drop o).take n)
    image.length = 256 + num 32 4 ∧ image.length ≤ 48 * 2 ^ 20 + 256 ∧ num 0 4 = 0x4B4E4431 ∧ num 4 2 = 1 ∧ num 6 2 ≤ 3 ∧
    (∀ b ∈ (image.drop 12).take 4, b = 0) ∧ (∀ b ∈ (image.drop 36).take 28, b = 0) ∧ (∀ b ∈ (image.drop 192).take 64, b = 0) ∧ num 16 8 % 4096 = 0 ∧
    num 32 4 % 64 = 0 ∧ 64 ≤ num 32 4 ∧ num 32 4 ≤ 48 * 2 ^ 20 ∧ num 16 8 + num 32 4 ≤ 2 ^ 26 ∧ num 24 8 % 4 = 0 ∧ num 24 8 < num 32 4 ∧
    bytesNat (((0 : Byte) :: image.drop 1).take 4) ≠ 0x4B4E4431 ∧
    (let id : Ident := { Pkg.reset.ident with roothash := List.replicate 4 imageKey }
     imageKey = id.roothash.getD (num 6 2) 0 ∧ id.revoke.getLsbD (num 6 2) = false ∧
       ((List.range 64).filter (fun k => id.svnfuse.getLsbD k)).length ≤ num 8 4) ∧
    Machine.ecdsaVerify ((image.drop 64).take 64) imageDigest (List.replicate 64 0) = false ∧
    (1#4).getLsbD (num 6 2) = true ∧ ¬ ((List.range 64).filter (fun k => (1#64).getLsbD k)).length ≤ num 8 4 := by
  refine ⟨by decide +kernel, by decide +kernel, by decide, by decide, by decide, by decide, by decide, by decide +kernel, by decide, by decide,
    by decide, by decide, by decide, by decide, by decide, by decide, ⟨by decide +kernel, by decide +kernel, by decide +kernel⟩, by decide +kernel, by decide, by decide⟩

theorem witness_FusesAndReports : (0#4 ||| (1#4 <<< (3 : BitVec 2).toNat)) ≠ 15 ∧ (7#4 ||| (1#4 <<< (3 : BitVec 2).toNat)) = 15 ∧ (4 : Word).getLsbD 2 = true ∧
    (0x1000 : Word).getLsbD 2 = false ∧ (1 : Word).getLsbD 0 = true ∧ pkgUp.attreq.getLsbD 0 = false ∧ ({ pkgUp with report := some [1] } : Pkg).report = some [1] := by decide

theorem witness_MessageEncoded : let m : Msg := { src := 0, dst := 1, dev := false, traffic := .request, seq := 0, body := [1, 2, 3, 4], who := .unit }
    let reg := pkgUp.sprcode.getD (4 * 0 + 0) 0
    m.dev = false ∧ endpointOk m.src = true ∧ endpointOk m.dst = true ∧ endpointOk 0x940 = true ∧ endpointOk 0x941 = false ∧
    pkgUp.sprWritten.getD 0 false = false ∧ 1 ≤ (reg.extractLsb' 0 4).toNat ∧ 0 < m.body.length ∧ m.body.length ≤ 4096 ∧
    m.body.length ≤ 512 * 3 ∧ reg.getLsbD (48 + 0 % planes 0) = true := by decide

/-- A header of a message from core 0 to core 1 of die 0. -/
def fragHdr (id : BitVec 16) : FragHdr := { msgid := id, src := 0, dst := 1, len := 3, idx := 0, k := 1, m := 0, fsz := 0, cls := 0, net := 0, retx := 0, seq := 0, plane := 2, rsv := 0 }
def fragAt (id : BitVec 16) : Frag := { hdr := fragHdr id, pay := List.replicate 32 0, io := 0 }
def keyAt (id : Nat) : MsgKey := { net := 0, src := 0, dst := 1, msgid := id, io := 0 }
def slotAt (id k m : Nat) (fr : List (Nat × List Byte)) : DSlot :=
  { key := keyAt id, len := 4, k := k, m := m, fsz := 0, cls := 0, seq := 0, frags := fr, retx := false, due := 0 }

/-- A fragment whole and one a flit of which is hurt; of an open slot, of a finished message, of one 256 IDs back, of one that
opens a slot with room and without; a plane that is held. -/
theorem witness_FragmentArrives : let f := fragAt
    let w (slots : List DSlot) (wins : List Window) (id : BitVec 16) : Net := { Net.reset with flight := [f id], slots := slots, windows := wins }
    let win : Window := { net := 0, src := 0, dst := 1, io := 0, h := 300, map := 1 }
    (w [] [] 5).flight[0]? = some (f 5) ∧ (f 5).key = keyAt 5 ∧ crcGood (hurt [] (f 5).flits) = true ∧
    crcGood (hurt [{ flit := 0, mask := 1 }] (f 5).flits) = false ∧ fragOf 0 (f 5).flits = f 5 ∧ (f 5).hdr.plane.toNat = 2 ∧ ¬ (f 5).hdr.plane.toNat = 3 ∧
    (1 ≤ (f 5).hdr.k.toNat ∧ (f 5).hdr.k.toNat ≤ 14 ∧ (f 5).hdr.m.toNat ≤ 4 ∧ (f 5).hdr.idx.toNat < (f 5).hdr.k.toNat + (f 5).hdr.m.toNat ∧ (f 5).hdr.rsv = 0) ∧
    (∃ x ∈ ({ w [] [] 5 with ingress := [(f 7, 0)] } : Net).ingress, x.1.key.net = (f 5).key.net ∧ x.1.key.ep = (f 5).key.ep ∧ x.1.hdr.plane.toNat = 2) ∧
    (∃ x ∈ (w [slotAt 5 1 0 []] [] 5).slots, x.key = (f 5).key) ∧ Finished (w [] [win] 300) (f 300).key ∧
    (256 ≤ distance (w [] [win] 44) (f 44).key ∧ distance (w [] [win] 44) (f 44).key ≤ 32767) ∧
    ((¬ ∃ x ∈ (w [] [] 5).slots, x.key = (f 5).key) ∧ ¬ Finished (w [] [] 5) (f 5).key ∧ 32768 ≤ distance (w [] [] 5) (f 5).key) ∧
    ((w [] [] 5).slots.filter (fun x => x.key.net = 0 && x.key.ep = 1)).length < 32 ∧
    32 ≤ ((w (List.replicate 32 (slotAt 9 1 0 [])) [] 5).slots.filter (fun x => x.key.net = 0 && x.key.ep = 1)).length := by
  unfold Finished; decide +kernel

theorem witness_MessageDelivered : let data : List (List Byte) := [List.replicate 32 7]
    let d := slotAt 5 1 0 [(0, List.replicate 32 7)]
    let s : State := { State.reset with net := { Net.reset with slots := [d] } }
    s.net.slots.find? (fun x => x.key = d.key) = some d ∧ d.key.msgid < 65536 ∧ data.length = d.k ∧ (∀ x ∈ data, x.length = 32) ∧
    d.frags.Perm (data.mapIdx (fun n x => (n, x))) ∧ s.net.transit = [] ∧ (distance s.net d.key ≤ 255 ∨ 32768 ≤ distance s.net d.key) ∧
    (let f := fragAt 6
     let w : Net := { s.net with ingress := [(f, 0)] }
     w.ingress[0]? = some (f, 0) ∧ (∀ x ∈ w.slots, x.key ≠ f.key) ∧ (w.slots.filter (fun x => x.key.net = f.key.net && x.key.ep = f.key.ep)).length < 32 ∧
       ¬ Finished w f.key ∧ (distance w f.key ≤ 255 ∨ 32768 ≤ distance w f.key)) := by
  refine ⟨by decide, by decide, rfl, by decide, List.Perm.refl _, rfl, by decide, ?_⟩
  unfold Finished; decide +kernel

theorem witness_MessageLost : let d := slotAt 5 2 1 [(2, [])]
    let t : Timer := { who := .thread (.sys 0), key := keyAt 5, cls := 0, due := 0, answer := false }
    let n : Notice := { no := 0, key := keyAt 5, cls := 0, bitmap := 4 }
    let s : State := { sysW (sysT 0 0) with net := { Net.reset with slots := [d], notices := [n], timers := [t] } }
    s.net.slots.find? (fun x => x.key = d.key) = some d ∧ d.key.net ≤ 1 ∧ d.frags.length < d.k ∧ d.due ≤ s.cycle ∧ s.net.notices[0]? = some n ∧
    s.arrived (.notice n.no) = true ∧ s.net.retain = [] ∧ s.net.transit = [] ∧ s.net.timers.find? (fun x => x.key = n.key) = some t ∧ s.net.timers[0]? = some t ∧
    t.due ≤ s.cycle ∧ t.who = .thread (sysT 0 0).id ∧ s.thread? (sysT 0 0).id = some (sysT 0 0) ∧ (sysT 0 0).run = .running ∧ (sysT 0 0).inh = false ∧
    (sysT 0 0).wait ≠ .steal ∧ threadCancelled s (sysT 0 0) = false := by
  refine ⟨rfl, by decide, by decide, by decide, rfl, rfl, rfl, rfl, rfl, rfl, by decide, rfl, rfl, rfl, rfl, by decide, rfl⟩

/-- A code that is accepted, each reason to refuse one, and the second I/O die's registers. -/
theorem witness_SprayRegisters : let v : Word := sprcodeReset 0x1F 1 4
    let k (v : Word) : Nat := (v.extractLsb' 0 4).toNat
    let m (v : Word) : Nat := (v.extractLsb' 8 3).toNat
    pkgUp.sprcode.length = 12 ∧ pkgUp.sprcodeB.length = 4 ∧ (1 = 1 ∧ 8 ≤ 11) ∧ ¬ (0 = 1 ∧ 8 ≤ 11) ∧ pkgUp.sprcodeB[3]? = some (sprcodeReset 0xFFFF 2 14) ∧
    pkgUp.sprcode[0]? = some v ∧ v.getLsbD 40 = false ∧ (v ||| (1#64 <<< 40)).getLsbD 40 = true ∧
    ¬ (k v = 0 ∨ 14 < k v ∨ 4 < m v ∨ (0 < 8 ∧ (planes 0 < k v + m v ∨ m v < ((List.range (planes 0)).filter (fun i => v.getLsbD (48 + i) = false)).length))) ∧
    k (sprcodeReset 0x1F 1 0) = 0 ∧ 14 < k (sprcodeReset 0x1F 1 15) ∧ 4 < m (sprcodeReset 0x1F 5 4) ∧ planes 0 < k (sprcodeReset 0x1F 2 4) + m (sprcodeReset 0x1F 2 4) := by decide

/-- A message of the port group of I/O die 0 to device 9. -/
def brosumMsg : Retain := { msg := { src := 0, dst := 9, dev := true, traffic := .request, seq := 0, body := [1], who := .unit }, key := { net := 2, src := 0, dst := 9, msgid := 3, io := 0 }, cls := 0, code := { k := 2, m := 1, fmax := 512, members := List.range 16 }, sentAt := 0, retx := false }
def brosumCap : Word := 0x0100010000000000
def brosumPort : BPort := { lanes := 8, peer := 9, cap := brosumCap, mismatch := false, joined := true }
def brosumW : State := { sysW (sysT 0 0) with cycle := 2 ^ 20, net := { Net.reset with owed := [{ io := 0, dst := 9, src := 0, n := 64, since := 0 }], acks := [{ no := 1, io := 0, dst := 9, src := 0, ids := [3] }], retain := [brosumMsg] }, pkg := { pkgUp with bports := List.replicate 16 brosumPort } }

theorem witness_BrosumLinks : let s := brosumW
    let r := brosumMsg
    (1 ≤ min 1 (brosumCap.extractLsb' 56 8).toNat ∧ (brosumCap.extractLsb' 40 8).toNat ≤ min 1 (brosumCap.extractLsb' 56 8).toNat) ∧
    ¬ (1 ≤ min 1 ((0 : Word).extractLsb' 56 8).toNat) ∧ s.pkg.bports[0]? = some brosumPort ∧
    s.net.owed.find? (fun x => x.io = 0 && x.dst = 9 && x.src = 0) = some { io := 0, dst := 9, src := 0, n := 64, since := 0 } ∧ 64 ≤ 64 ∧ 0 + 1024 ≤ s.cycle ∧
    s.net.acks[0]? = some { no := 1, io := 0, dst := 9, src := 0, ids := [3] } ∧ s.arrived (.ack 1) = true ∧ s.net.retain[0]? = some r ∧ s.net.retain.Nodup ∧
    r.sentAt + 2 * ((s.pkg.sprtmo.getD 2 0).toNat % 2 ^ 32) ≤ s.cycle ∧ r.retx = false ∧
    r.code.m + 1 ≤ (r.code.members.filter (fun k => (spraySet s r.key.io r.cls (msgFar s r.msg)).contains k)).length := by
  refine ⟨by decide, by decide, rfl, rfl, by decide, by decide, rfl, rfl, rfl, ?_, by decide, rfl, by decide +kernel⟩
  show [brosumMsg].Nodup
  simp

/-! ### Witnesses: partitions, the dispatcher, the Curators -/

/-- The record of a partition of the whole of die 0 in its active planes, and of one with a catalogue of one routine. -/
def partBytes (asid count : Byte) : List Byte :=
  [asid, 0, 1, 0] ++ List.replicate 20 0 ++ [count] ++ List.replicate 9 0 ++ [8, 4] ++ List.replicate 28 0
def partMem (asid plane : Byte) : Mem := memWrite [] (2 ^ 27) ((partBytes asid 0).set 3 plane)

/-- A site of the region with a row of its tile still in its storeroom plane. -/
def planedSite : Site := { freshSite node .none 0 with snaps := [{ wave := 0, st := .none, flags := 0, ina := [], inb := [], inc := [], hdrs := [], segOpen := true, segOpenB := false, beats := 0, beatsB := 0, copied := [], planed := [3] }] }

/-- A good record of an ASID that no partition holds, with planes free, with planes taken and with planes that hold copies that
cannot move; of one that is held; of a die that is not trained; a bad record. -/
theorem witness_PartitionCreate : let v : Word := 2 ^ 27
    let s : State := { sysW (sysT 0 0) with mem := partMem 2 0 }
    let r (b : Byte) : PartRec := partRec ((partBytes 2 0).set 3 b)
    let t : State := { s with parts := [part] }
    Accepted s v 0 ∧ (recBytes (commanded s v) ((v.extractLsb' 6 42).toNat * 64)).map partRec = some (r 0) ∧ (r 0).ok = true ∧
    (∀ x ∈ (r 0).rects, s.dieUsable x.die = true) ∧ ¬ (∀ x ∈ (r 0).rects, ({ s with pkg := Pkg.reset } : State).dieUsable x.die = true) ∧
    partOf s 2 = none ∧ s.parts.length < 512 ∧
    catCheck { commanded s v with parts := freshPart (r 0) s.cycle :: (commanded s v).parts.filter (fun q => q.asid ≠ 2) } 2 (r 0).catbase (r 0).catcount 0 = none ∧
    planeTaken s (freshPart (r 0) s.cycle) false = false ∧ planeTaken t (freshPart (r 0) s.cycle) false = true ∧ planedRows (commanded s v) (freshPart (r 1) 0) = [] ∧
    (let w : State := { ctlW (ctlT 0 0) part (place (folio [] []) []) with mem := partMem 2 1, sites := [planedSite] }
     (recBytes (commanded w v) ((v.extractLsb' 6 42).toNat * 64)).map partRec = some (r 1) ∧ (r 1).plane = 1 ∧ planeTaken w (freshPart (r 1) 0) true = false ∧
       (claimPlanes (commanded w v) (freshPart (r 1) 0)).isNone = true) ∧
    partOf { s with parts := [{ part with asid := 2 }] } 2 = some { part with asid := 2 } ∧ 512 ≤ ({ s with parts := List.replicate 512 part } : State).parts.length ∧
    ((recBytes (commanded (sysW (sysT 0 0)) v) ((v.extractLsb' 6 42).toNat * 64)).map partRec).any (fun r => !r.ok) = true ∧
    (0x10 : Word).extractLsb' 3 3 = 2 ∧ ({ pkgUp with partcmd := 1 } : Pkg).partcmd.getLsbD 0 = true := by
  unfold Accepted; decide +kernel

theorem witness_PartitionLife : let v (op : Nat) : Word := BitVec.ofNat 64 (1 * 2 ^ 48 + op * 8)
    let p (st : PState) : Partition := { part with st := st }
    let s (st : PState) : State := { sysW (sysT 0 0) with parts := [p st] }
    (∀ op ∈ [1, 2, 3, 4, 5], Accepted (s .halted) (v op) (BitVec.ofNat 3 op) ∧ ((v op).extractLsb' 48 16).toNat = part.asid) ∧
    partOf (s .halted) 1 = some (p .halted) ∧ (p .halted).st ∈ [PState.halted, .stored, .drained] ∧ (p .halting).st ∈ [PState.running, .halting] ∧
    (∀ x ∈ (s .running).places, x.rb = none) ∧ haltMet (s .halting) (p .halting) = true ∧
    (({ s .stored with pkg := { pkgUp with copying := some { asid := 1, addr := 2 ^ 27, record := [] } } } : State).pkg.copying = some { asid := 1, addr := 2 ^ 27, record := [] }) ∧
    Accepted (s .halted) 0x28 5 ∧ ((0x28 : Word).extractLsb' 48 16) = 0 ∧
    (let t : State := { s .drained with mem := partMem 1 0, pkg := { pkgUp with fillRec := some (2 ^ 27) } }
     let r := partRec (partBytes 1 0)
     recBytes (commanded t (v 5)) (2 ^ 27) = some (partBytes 1 0) ∧ r.ok = true ∧ r.asid = 1 ∧ sameShape (p .drained) r = true ∧ canMove t (p .drained) r = true ∧
       planeTaken t { p .drained with rects := r.rects } true = false) ∧
    (let w (n : Byte) : State := movePartition (setPartBusy ((s .drained).updPkg (fun k => { k with copying := none })) false) (p .drained) (partRec (partBytes 1 n))
     partBytes 1 0 ≠ [] ∧ (∀ n ∈ [(0 : Byte), 1], (partOf (w n) 1).isSome = true) ∧ planedRows (w 0) (p .drained) = [] ∧
     (partOf (w 0) 1).all (fun m => (catCheck (w 0) 1 m.catbase m.catcount 0).isNone) = true ∧
     (partOf (w 1) 1).all (fun m => (catCheck (w 1) 1 m.catbase m.catcount 0).isSome) = true) := by
  unfold Accepted; decide +kernel

/-- A READY launch at the head of its queue whose folio is cached, with a blocked one above it; one that has aged, and a head
blocked for 16,384 cycles. -/
theorem witness_DispatcherSteps : let f := folio [] []
    let big : Folio := { f with w := 32, h := 32, masks := List.replicate 32 0xFFFFFFFF }
    let e : TgEntry := { entry with st := .ready, place := none }
    let b : TgEntry := { e with slot := 1, prio := 3, level := 3, folio := 1, qseq := 1 }
    let p : Partition := { part with tasks := [e, b], cache := [{ die := 0, core := 0, routine := 0, lines := 1, folio := f }, { die := 0, core := 0, routine := 1, lines := 1, folio := big }], rects := [{ die := 0, col := 0, row := 0, cols := 1, rows := 1 }] }
    let s : State := { sysW (sysT 0 0) with parts := [p], cycle := 2 ^ 16 }
    let q : Partition := { p with tasks := [{ e with blockedAt := some 0 }] }
    partOf s p.asid = some p ∧ p.st = .running ∧ p.task? e.slot = some e ∧ (∀ c ∈ p.lastStart, c + 8 ≤ s.cycle) ∧ 0 ∈ p.levels s.cycle ∧
    p.headOf 0 s.cycle = some e ∧ (∀ l ∈ p.levels s.cycle, 0 < l → ∀ b ∈ p.headOf l s.cycle, b.folio < p.catcount ∧
      (p.cached p.homedie p.homecore b.folio).any (fun g => (findRegion s p g).isNone) = true) ∧ e.folio < p.catcount ∧
    p.cached p.homedie p.homecore e.folio = some f ∧ findRegion s p f = some (0, 0, 0) ∧ (f.bad p.catcount (some (0, 0))).isNone = true ∧
    e.st = .ready ∧ e.level < 7 ∧ e.readyAt + 4096 * (e.level - e.prio + 1) ≤ s.cycle ∧
    q.headOf 0 s.cycle = some { e with blockedAt := some 0 } ∧ 0 + 16384 ≤ s.cycle ∧
    (portW (freshPort State.reset 0)).place? 1 = some (place folioP [freshPort State.reset 0]) ∧ (place folioP [freshPort State.reset 0]).inst = none ∧
    part.st.active = true := by
  decide +kernel

theorem witness_LaunchCompletes : let e : TgEntry := { entry with threadDone := true }
    let p : Partition := { part with tasks := [e] }
    let x := place (folio [] []) []
    let s := ctlW (ctlT 0 0) p x
    partOf s p.asid = some p ∧ p.task? e.slot = some e ∧ e.st = .running ∧ e.threadDone = true ∧ e.killed = false ∧ s.places = [x] ∧ x.asid = p.asid ∧
    x.lslot = e.slot ∧ Rested s x ∧ ∀ t ∈ s.threads, t.stbuf = [] :=
  ⟨rfl, rfl, rfl, rfl, rfl, rfl, rfl, rfl, ⟨rfl, rfl, rfl, rfl, rfl⟩, by decide⟩

/-- A region between segments with block 1 selected, with block 1 waiting longest, with a block passed over 16 times, and with
block 1 chosen. -/
theorem witness_BlockChosen : let f := folio [] []
    let x : Place := { place f [] with slots := [some f, some f, none, none] }
    let s (y : Place) : State := ctlW (ctlT 0 0) { part with tasks := [entry] } y
    (let y : Place := { x with sel := some 1 }
     (s y).place? y.id = some y ∧ y.inst = none ∧ placeMoves (s y) y = true ∧ placeDrained (s y) y = true ∧ y.chosen = none ∧ y.sched ≠ some y.begun ∧ y.sel = some 1) ∧
    x.sel = none ∧ x.idle = false ∧ (∀ c ∈ x.blocks, x.waitOf c = 0) ∧ (∀ c ∈ x.blocks, x.passc.getD c 0 ≠ 16) ∧
    (let y : Place := { x with idle := true, first := some 1 }
     y.sel = none ∧ y.idle = true ∧ y.first = some 1) ∧
    (let q : Port := { freshPort State.reset 0 with queue := [qcmd 0 0 f0] }
     let y : Place := { x with slots := [some folioP, some folioP, none, none], ports := [q] }
     0 ∈ y.blocks ∧ (∀ c ∈ y.blocks, y.passc.getD c 0 ≠ 16) ∧ 0 < y.waitOf 0 ∧
       (∀ c ∈ y.blocks, y.waitOf c < y.waitOf 0 ∨ (y.waitOf c = y.waitOf 0 ∧ 0 ≤ c)) ∧
       ({ y with passc := [16, 0, 0, 0] } : Place).passc.getD 0 0 = 16) ∧
    (let y : Place := { x with chosen := some 1 }
     (s y).place? y.id = some y ∧ y.chosen = some 1 ∧ y.slots.getD 1 none = some f) := by
  refine ⟨⟨rfl, rfl, rfl, rfl, rfl, by decide, rfl⟩, rfl, rfl, by decide, by decide, ⟨rfl, rfl, rfl⟩, ⟨by decide, by decide, by decide, by decide, rfl⟩, rfl, rfl, rfl⟩

def calleeI : Inst := { caller := node, call := 0, logical := [0, 1], cur := 0, args := [], results := [5], st := .awake, stowSlots := [], buffered := [], activeAt := 0, struck := true, wave := 0 }

/-- An instance whose first logical instance has been struck, with a second that takes no argument. -/
theorem witness_FoldedTurn : let f := folio [] []
    let x : Place := { place f [] with slots := [some f, some f, none, none], inst := some calleeI }
    let s := ctlW (ctlT 0 0) { part with tasks := [entry] } x
    s.place? x.id = some x ∧ placeMoves s x = true ∧ calleeI.struck = true ∧ calleeI.cur + 1 < calleeI.logical.length ∧ calleeI.args = [] ∧
    x.slots.getD (calleeI.cur + 1) none = some f := by decide +kernel

/-- The one thread of a partition waits at a barrier; and beside it a ring agent waits for a claim. -/
theorem witness_WaitCensus : let t : Thread := { ctlT 0 0 with wait := .barrier 2 }
    let s : State := { ctlW t part (place (folio [] []) []) with cycle := 65536 }
    let r : Ring := { asid := 1, block := 4096, pa := 4096, die := 0, iset := 0, stored := false, claims := [], resvs := [], waiters := [{ who := .ring 0 1, claims := true, n := 1, scope := 0 }] }
    partOf s part.asid = some part ∧ part.st = .running ∧ part.silent + 65536 ≤ s.cycle ∧ s.rings = [] ∧ t ∈ s.threads ∧ t.asid = part.asid ∧ t.run = .running ∧
    (∀ u ∈ s.threads, u.asid = part.asid → u.run = .running → (threadCensus u).isSome = true) ∧ part.census.extractLsb' 12 36 = 0 ∧
    s.thread? (supervisorOf s part.asid) = some (sysT 0 0) ∧ (sysT 0 0).run = .running ∧
    (r.asid = part.asid ∧ r.stored = false ∧ ∃ w ∈ r.waiters, w.who = .ring 0 1) := by
  refine ⟨rfl, rfl, by decide, rfl, by simp [ctlW], rfl, rfl, by decide +kernel, rfl, rfl, rfl, rfl, rfl, _, .head _, rfl⟩

theorem witness_CatalogueLoads : let v (asid count : Nat) : Word := BitVec.ofNat 64 (asid * 2 ^ 48 + count * 2 ^ 32)
    let s : State := { sysW (sysT 0 0) with parts := [part] }
    partOf s 1 = some part ∧ s.pkg.catctl.getLsbD 0 = false ∧ ((v 1 256).extractLsb' 48 16).toNat = part.asid ∧ ((v 1 256).extractLsb' 32 9).toNat ≤ 256 ∧
    partOf s ((v 7 0).extractLsb' 48 16).toNat = none ∧ 256 < ((v 1 257).extractLsb' 32 9).toNat ∧ (1 : Word).getLsbD 0 = true ∧
    ({ pkgUp with catJob := some (1, 0, 0) } : Pkg).catJob = some (part.asid, 0, 0) ∧ catCheck s 1 0 0 0 = none ∧
    (∃ r i, catCheck s 1 0 1 0 = some (r, i)) ∧ part.loading = false ∧ (0, 0, 1) ∈ ({ part with fetching := [(0, 0, 1)] } : Partition).fetching := by
  refine ⟨rfl, by decide, by decide, by decide, rfl, by decide, by decide, rfl, rfl, ⟨_, _, rfl⟩, rfl, by decide⟩

/-- The image of a routine of one granule, catalogue entry 1 of the partition. -/
theorem witness_CatalogueLoads_fetch :
    let image : List Byte := natBytes 4 0x4F494C46 ++ [1, 0, 1, 1, 1, 0, 0, 0] ++ natBytes 4 0 ++ natBytes 4 72 ++ natBytes 4 0 ++ natBytes 4 64 ++ natBytes 4 72 ++
      natBytes 4 72 ++ natBytes 4 72 ++ List.replicate 24 0 ++ [1, 0] ++ List.replicate 6 0
    let p : Partition := { part with catbase := 2 ^ 18, fetching := [(0, 0, 1)] }
    let s : State := { sysW (sysT 0 0) with parts := [p], mem := memWrite (memWrite pages (2 ^ 18 + 16) (natBytes 8 (2 ^ 18 + 64) ++ natBytes 4 72)) (2 ^ 18 + 64) image }
    (match fetchFolio (s.updPart 1 (fun q => { q with fetching := [] })) p 1 none with | .folio f => decide (f.w = 1 ∧ f.masks = [1]) | _ => false) = true ∧
    (readImage (s.updPart 1 (fun q => { q with fetching := [] })) p 1).any (fun bs => bs.length ≤ 65536) = true ∧
    (p.cache.filter (fun e => e.die = 0 && e.core = 0)).length ≤ 16 ∧ (∀ e ∈ p.cache, pinned s p.asid e = false) := by
  decide +kernel

def routine1 : Folio := { folio [] [] with w := 1, h := 1, masks := [1], cls := 1 }
def pitchReq : PitchReq := { core := 0, node := node, call := 0, routine := 1, k := 1, scope := 0, unstow := none, stowing := none, freed := [], kept := [], frozen := 0, waitFrom := 0 }

/-- A routine of one site, cached, asked for by a PITCH in the region of launch 0; the same when it is FOLDABLE and one origin
has been freed for it; and the unstow of an instance. -/
theorem witness_CuratorServes : let f := routine1
    let r := pitchReq
    let p : Partition := { part with curq := [r], cache := [{ die := 0, core := 0, routine := 1, lines := 1, folio := f }] }
    let x := place (folio [] []) []
    let s := ctlW (ctlT 0 0) p x
    let s1 := s.updPart p.asid (fun q => { q with rrCore := 0 })
    let os := findFootprints s1 p x.die f (candidates ((x.at_ r.node.x r.node.y).1 / 4) ((x.at_ r.node.x r.node.y).2 / 4)) (pick (passes s1 p x.die f []) f (p.idsFor f 1) [] []) 1
    partOf s p.asid = some p ∧ p.st = .running ∧ p.loading = false ∧ p.nextQueue = some 0 ∧ p.queueOf 0 = r :: [] ∧ r.unstow = none ∧ r.stowing = none ∧
    r.k = 1 ∧ s.place? r.node.place = some x ∧ (∀ y ∈ s.places, y.id < s.nextPlace) ∧ r.routine < p.catcount ∧
    p.cached (r.core / 32) (r.core % 32) r.routine = some f ∧ os.length = 1 ∧ (os.findSome? (fun o => f.bad p.catcount (some o))).isNone = true ∧
    os.length * (f.narg + f.nres) + p.poolUsed.length ≤ 1024 ∧
    (let g := { f with foldable := true }
     pick (passes s1 p x.die g []) g (p.idsFor g 2) [] [(5, 0)] = [(5, 0)]) ∧
    (let i : Inst := { calleeI with results := [], st := .stowed }
     let y : Place := { place f [] with id := 2, gw := 1, gh := 1, inst := some i }
     let u : PitchReq := { r with unstow := some 2 }
     let g : Partition := { p with curq := [u] }
     let s2 : State := { s with parts := [g], places := [x, y], nextPlace := 3 }
     s2.place? 2 = some y ∧ y.inst = some i ∧ i.st = .stowed ∧ y.shape = some f ∧
       ((candidates y.gx y.gy).find? (passes (s2.updPart g.asid (fun q => { q with rrCore := 0 })) g y.die f [])).isSome = true) := by
  decide +kernel

/-- An instance whose stow copy is done, one with a result on its line, and one whose unstow is done. -/
theorem witness_StowSteps : let i : Inst := { calleeI with results := [], st := .copying, struck := false }
    let y : Place := { place (folio [] []) [] with id := 2, inst := some i }
    let r : PitchReq := { pitchReq with stowing := some [2] }
    let p : Partition := { part with curq := [r] }
    let c : Call := { num := 0, routine := 1, k := 1, narg := 0, nres := 1, toks := [], hdr := none, phys := [{ place := 3, args := [], results := [5], ended := [] }], opened := [], closed := [], res := [], sent := 0, struck := false }
    let z : Site := freshSite { place := 2, x := 1, y := 1 } (.pitch { toks := [], routine := 1, items := [], calls := [c], next := 1 }) 0
    let s : State := { ctlW (ctlT 0 0) p y with nextPlace := 3, sites := [z], guy := [{ asid := 1, route := 5, next := 1, toks := [beat 1] }] }
    partOf s p.asid = some p ∧ s.place? y.id = some y ∧ y.asid = p.asid ∧ y.inst = some i ∧ p.stower 0 = some r ∧ r.frozen = 0 ∧ r.stowing = some [y.id] ∧
    (slotFault? s p false i.stowSlots).isNone = true ∧ y.killed = false ∧ p.grants = true ∧ p.catcount ≤ ({ r with routine := 9 } : PitchReq).routine ∧
    (let g : Partition := { p with cache := [{ die := 0, core := 0, routine := 1, lines := 1, folio := routine1 }] }
     g.cached (r.core / 32) (r.core % 32) r.routine = some routine1 ∧ g.hasIds r routine1 = true) ∧
    ({ p with st := .halting } : Partition).grants = false ∧ i.st = .copying ∧ i.buffered.length < 4096 ∧ guyHead s 1 5 = some (beat 1) ∧
    (z.node.place = y.id ∧ ∃ l ∈ (z.st.pitch?).lines, l.line = 5) ∧ (∀ z ∈ s.places, ∀ j ∈ z.inst, 5 ∈ j.results → z.id ≠ y.id) ∧
    ({ i with st := .unstowing } : Inst).st = .unstowing ∧ (∀ q ∈ p.curq, q.unstow ≠ some y.id) ∧ (slotFault? s p true i.stowSlots).isNone = true ∧ usedSlots s 1 = [] ∧
    usedSlots { s with places := [{ y with inst := some { i with stowSlots := [0] } }] } 1 ≠ [] := by
  decide +kernel

theorem witness_CuratorWaits : let r := pitchReq
    let p : Partition := { part with curq := [r] }
    let s : State := { ctlW (ctlT 0 0) p (place (folio [] []) []) with cycle := 32768 }
    partOf s p.asid = some p ∧ p.st = .running ∧ p.queueOf 0 = r :: [] ∧ r.waitFrom + 32768 ≤ s.cycle ∧ p.census.extractLsb' 12 36 = 0 ∧
    s.thread? (supervisorOf s p.asid) = some (sysT 0 0) ∧ (sysT 0 0).run = .running ∧ p.standby = false := by
  refine ⟨rfl, rfl, rfl, by decide, rfl, rfl, rfl, rfl⟩

/-! ### Witnesses: switch boxes, sites, slices -/

/-- A token at the end of a segment with a switch behind it; with a site behind it; with a router slot behind it; at a switch
whose segment crosses to the next core. -/
theorem witness_SwitchForwards : let t := beat 1
    let f (k : Nat) : Folio := if k = 0 then folio [] [{ x := 1, y := 1, word := 0x68A00140 }] else if k = 1 then
      folio [{ x := 1, y := 1, word := 0x0300008010010000 }] [] else if k = 2 then folio [] [{ x := 1, y := 1, word := 0x89452000 }] else
      { folio [] [{ x := 15, y := 1, word := 0x68A00140 }] with w := 5, masks := [31, 31, 31, 31] }
    let n3 : Node := { place := 1, x := 15, y := 1 }
    let s (k : Nat) : State := { ctlW (ctlT 0 0) { part with tasks := [entry] } (place (f k) []) with
      segs := [{ node := node, code := 0x28, tok := { t with route := 5 }, seq := 0 }, { node := node, code := 0x20, tok := t, seq := 0 }, { node := n3, code := 0x28, tok := { t with route := 5 }, seq := 0 }],
      sites := [freshSite node .none 0], rslots := [freshSlot node false (.invar none)] }
    (∀ k ∈ [0, 1, 2, 3], (s k).place? 1 = some (place (f k) []) ∧ (place (f k) []).folio = some (f k) ∧ placeMoves (s k) (place (f k) []) = true ∧ t.chk = .good) ∧
    (sourceTok (s 0) node 0x28 = some { t with route := 5 } ∧ (f 0).branches 1 1 0x28 = [.seg 0x28 5] ∧ branchReady (s 0) (place (f 0) []) node (.seg 0x28 5) = true ∧
      isSegCode 0x28 = true ∧ farBox 0x28 1 1 = some (2, 1) ∧ lineEnds (sourceTake (s 0) node 0x28) (.seam node 0x28 0) = none) ∧
    (sourceTok (s 1) node 0x20 = some t ∧ (f 1).branches 1 1 0x20 = [.site 0] ∧ branchReady (s 1) (place (f 1) []) node (.site 0) = true ∧
      ∀ y ∈ (s 1).sites, y.node = node → y.asleep 0 = false) ∧
    (sourceTok (s 2) node 0x28 = some { t with route := 5 } ∧ (f 2).branches 1 1 0x28 = [.router false 0] ∧
      branchReady (s 2) (place (f 2) []) node (.router false 0) = true) ∧
    (sourceTok (s 3) n3 0x28 = some { t with route := 5 } ∧ (f 3).branches 15 1 0x28 = [.seg 0x28 5] ∧ branchReady (s 3) (place (f 3) []) n3 (.seg 0x28 5) = true ∧
      farBox 0x28 15 1 = some (16, 1) ∧ lineEnds (sourceTake (s 3) n3 0x28) (.seam n3 0x28 0) ≠ none) := by
  decide +kernel

theorem witness_SiteGating : let x := freshSite node .none 0
    (siteW x).site? node = some x ∧ (0 : Nat) + 32 ≤ ({ siteW x with cycle := 32 } : State).cycle ∧ x.waking = none ∧
    ({ x with waking := some 2 } : Site).waking = some 2 ∧ (0 : Nat) < x.lastActive + 32 := by decide

def rq (k : ReqKind) : Req :=
  { place := 1, port := 0, elem := 0, die := 0, core := 0, pa := 2 ^ 27, len := 4, kind := k, policy := 0, share := false, iset := 0, comp := none,
    prio := false, refusals := 0, fromLlc := false, dead := none }

def sline : SLine := { line := 2 ^ 20, data := List.replicate 128 7, dirty := false, share := false, bad := [], soft := [] }

def pend (k : PendKind) (l : Nat) : Pend :=
  { no := 0, line := l, kind := k, taken := 0, waiting := [], held := [], acked := false, share := false, install := true, data := [], bad := [], fixed := [], comp := none, answer := none }

/-- A read and a write that hit, a read that hits a bad line, a read that misses with room and with none, a stack that is not
ready, and a reservation whose time is up. -/
theorem witness_SliceRequests : let d := sliceIndex 0 (2 ^ 27)
    let s (k : ReqKind) (x : Slice) : State := { sysW (sysT 0 0) with reqs := [rq k], slices := [x] }
    let hit : Slice := { emptySlice 0 d with lines := [sline] }
    let ill : Slice := { hit with lines := [{ sline with bad := [2 ^ 24] }] }
    let full : Slice := { emptySlice 0 d with pend := List.replicate 48 (pend .llc 1) }
    let wr : ReqKind := .write [(1, true), (2, false), (3, true), (4, true)]
    pickReq (s .read hit) 0 = some (rq .read, []) ∧ (s .read hit).rings = [] ∧ stackReady (s .read hit) (2 ^ 27) = true ∧ sliceAt (s .read hit) 0 d = hit ∧ hit.groups = [] ∧
    stackReady { s .read hit with pkg := Pkg.reset } (2 ^ 27) = false ∧ hit.writingBack (2 ^ 20) = false ∧ hit.filling (2 ^ 20) = none ∧
    hit.find (2 ^ 27 / 128) = some sline ∧ (sline.got (2 ^ 27) 4).2.bad = [] ∧  (({ sline with bad := [2 ^ 24] } : SLine).got (2 ^ 27) 4).2.bad ≠ [] ∧ ill.find (2 ^ 20) = some { sline with bad := [2 ^ 24] } ∧
    pickReq (s wr hit) 0 = some (rq wr, []) ∧ (rq wr).meets sline.bad = false ∧ 2 ^ 27 % 128 + 4 ≤ 128 ∧ sline.data.length = 128 ∧ hit.room (rq wr) = true ∧
    (emptySlice 0 d).find (2 ^ 27 / 128) = none ∧ (emptySlice 0 d).room (rq .read) = true ∧ full.room (rq .read) = false ∧ full.find (2 ^ 27 / 128) = none ∧
    full.writingBack (2 ^ 20) = false ∧ full.filling (2 ^ 20) = none ∧
    (let y : Slice := { hit with resv := some (1, 0, 0, 9) }
     let z : State := { s .read y with cycle := 9 }
     y = sliceAt z y.die y.idx ∧ y.resv = some (1, 0, 0, 9) ∧ 9 ≤ z.cycle) := by
  decide +kernel

/-- A fill at the LLC whose line is resident, and one whose line is not, with room and with none; a fill from HBM4E; the LLC's
answer at its slice, to a fill and to a forward; a write-back; a line of a compressed window whose tile is decoded already, and
one whose directory is no good. -/
theorem witness_LinesMove : let l := 2 ^ 20
    let q : LReq := { no := 0, die := 0, slice := 0, line := l, req := none, back := false }
    let sl (p : Pend) : Slice := { emptySlice 0 0 with pend := [p] }
    let c : Llc := { base := baseOf l, lines := [l], bad := [], soft := [], fills := [], queue := [], annex := [] }
    let s (p : Pend) (c : Llc) : State := { sysW (sysT 0 0) with slices := [sl p], lreqs := [q], llc := [c] }
    let p := pend .fill l
    let d : List Byte := List.replicate 128 7
    (s p c).lreqs[0]? = some q ∧ (s p c).arrived (.toLlc 0) = true ∧ (∀ y ∈ (s p c).lreqs.take 0, y.line ≠ l ∨ y.die ≠ 0 ∨ y.slice ≠ 0) ∧
    llcAt (s p c) (baseOf l) = c ∧ l ∈ c.lines ∧ l ∉ ({ c with lines := [] } : Llc).lines ∧ c.queue.length < 1024 ∧ c.annex = [] ∧
    c.annex.length < Config.annexEntries ∧
    (let c2 : Llc := { c with fills := [l], queue := [q] }
     l ∈ (llcAt (s p c2) (baseOf l)).fills ∧ (llcAt (s p c2) (baseOf l)).annex = [] ∧ (llcAt (s p c2) (baseOf l)).queue.filter (fun y => y.line = l) = [q]) ∧
    (let p2 : Pend := { p with answer := some (.data d), waiting := [rq .read] }
     let x := sliceAt (s p2 c) 0 0
     x.pend.find? (fun y => y.line = l && y.answer.isSome && y.kind ≠ .writeback && (s p2 c).arrived (.fromLlc y.no)) = some p2 ∧ p2.kind = .fill ∧
       p2.answer = some (.data d) ∧ p2.bad = [] ∧ p2.held = [] ∧ (∀ r ∈ p2.waiting, r.kind = .read) ∧ x.pend.length ≤ 48 ∧ p2.install = true) ∧
    (let p5 : Pend := { pend .forward l with answer := some (.ack 0), waiting := [rq .read] }
     (sliceAt (s p5 c) 0 0).pend.find? (fun y => y.line = l && y.answer.isSome && y.kind ≠ .writeback && (s p5 c).arrived (.fromLlc y.no)) = some p5 ∧ p5.kind = .forward) ∧
    (let p6 : Pend := { pend .writeback l with answer := some (.ack 0) }
     (sliceAt (s p6 c) 0 0).pend.find? (fun y => y.line = l && y.kind = .writeback && y.answer.isSome && (s p6 c).arrived (.fromLlc y.no)) = some p6) ∧
    (let v := 2 ^ 41 + 4096 / 128
     let w : CompPage := { dir := 0, asid := 1, page := 0, size := 12, glob := false }
     let p3 : Pend := { pend .fill v with comp := some w }
     let x : Slice := { sl p3 with tiles := [{ win := w, idx := 1, bytes := [5, 6] }] }
     let z : State := { s p3 c with slices := [x] }
     (sliceAt z 0 0).pend.find? (fun y => y.line = v && y.comp.isSome && y.data.isEmpty) = some p3 ∧ p3.comp = some w ∧ p3.kind = .fill ∧
       (tileFor z 0 0 w (((v - 2 ^ 41) * 128 - w.dir) / 4096)).2 = .tile [5, 6] false ∧ p3.waiting = [] ∧ p3.install = true) ∧
    (let w : CompPage := { dir := 2 ^ 27, asid := 1, page := 0, size := 12, glob := false }
     let p4 : Pend := { pend .fill (2 ^ 41 + 2 ^ 20 + 32) with comp := some w }
     let m : State := { s p4 c with mem := [(2 ^ 27, 7)] }
     (match tileFor m 0 0 w (((2 ^ 20 + 32) * 128 - w.dir) / 4096) with | (_, .fault _ _) => true | _ => false) = true) := by
  decide +kernel

theorem witness_LinesMove_full (q : LReq) (c : Llc) :
    1024 ≤ ({ c with queue := List.replicate 1024 q } : Llc).queue.length := le_of_eq (List.length_replicate ..).symm

/-! ### Witnesses: waves, records, cancellation -/

def mark0 : PortMark := { wave := 0, runs := [], queue := [], slots := [], donecnt := 0, mkBeats := 0, mkWave := 0, segs := 0, midSeg := true, logSeq := 0, flags := 0 }
def rb0 : Rollback := { complete := 0, retries := 0, limit := false, due := false, stuck := false, passed := [], held := [], atoms := [], flags := [], dones := [], copyFault := false }

/-- A region in rollback mode with one port: in its first wave, past its EOT, due to roll back, with nothing left to commit, and
reading anew, with a snapshot of the port and with none. -/
theorem witness_WavesAndRollback : let m : PortMark := { mark0 with wave := waveStart }
    let q : Port := { freshPort State.reset 0 with saved := [m], midSeg := true, mkWave := 1 }
    let b := rb0
    let p (b : Rollback) (q : Port) : Place := { place (folio [] []) [q] with rb := some b }
    let s (b : Rollback) (q : Port) : State := { ctlW (ctlT 0 0) { part with tasks := [entry] } (p b q) with sites := [{ planedSite with snaps := planedSite.snaps.map (fun k => { k with wave := waveStart }) }] }
    (s b q).place? 1 = some (p b q) ∧ (p b q).inst = none ∧ placeDead (s b q) (p b q) = false ∧ b.due = false ∧ b.stuck = false ∧
    b.complete < wavesPassed (s b q) (p b q) b ∧ wavesPassed (s b q) (p b q) b < 2 ^ 32 ∧ commitHeld (p b q) b.complete (b.held.length + 1) (s b q) = (s b q, true) ∧
    2 ^ 32 ≤ wavesPassed (s b { q with midSeg := false }) (p b { q with midSeg := false }) b ∧
    commitHeld (p b q) waveStart (b.held.length + 1) (s b q) = (s b q, true) ∧ q.logs = [] ∧
    (∀ x ∈ (s b q).sites, (x.snaps.find? (fun k => k.wave = waveStart)).isSome = true ∧ ∀ k ∈ x.snaps, k.st = .none) ∧ partOf (s b q) 1 = some { part with tasks := [entry] } ∧
    ({ b with due := true } : Rollback).due = true ∧ partGoes (s b q) (p b q) = true ∧ ((p b q).ports.map (fun y => y.num)).Nodup ∧ ({ q with held := true } : Port).held = true ∧
    q.saved.find? (fun m => m.wave = waveStart) = some m ∧ ({ q with saved := [] } : Port).saved = [] ∧ areaInUse (s b q) 1 = false ∧
    areaInUse { s b q with sites := [{ planedSite with snaps := planedSite.snaps.map (fun k => { k with copied := [1] }) }] } 1 = true := by
  decide +kernel

/-- A record of a port, of a node, of a queued pitch and of a scalar access; of a region that lives and of one that is killed; of a
fault that cannot be resumed; an address that is no record's. -/
theorem witness_RecordsResume : let rec_ (o : RecOwner) (c : Nat) : RecUse := { addr := 4096, owner := o, code := c }
    let x := rec_ (.port 1 0) 9
    let g (r : RecUse) : Partition := { part with tasks := [entry], recs := [r] }
    let q := port0 { run0 0 f0 with frozen := some 0 }
    let p := place folioP [q]
    let s (r : RecUse) (p : Place) : State := { ctlW (ctlT 0 0) (g r) p with sites := [{ freshSite node .none 0 with frozen := true }] }
    partOf (s x p) 1 = some (g x) ∧ (g x).recs.find? (fun r => r.addr = x.addr) = some x ∧ (g x).lateFaults = [] ∧ x.addr % 64 = 0 ∧ x.addr < 2 ^ 48 ∧
    HasPort (s x p) p q ∧ p.asid = 1 ∧ frozenPlace (s x p) 1 x = some p ∧ placeDead (s x p) p = false ∧ placeDead (s x p) { p with killed := true } = true ∧
    frozenPlace (s x { p with killed := true }) 1 x = some { p with killed := true } ∧
    resumable x = true ∧ resumable (rec_ (.node node) 13) = true ∧ resumable (rec_ (.pitch node) 14) = true ∧ resumable (rec_ .scalar 12) = true ∧
    resumable (rec_ (.node node) 5) = false ∧ (∀ o ∈ [RecOwner.node node, .pitch node], frozenPlace (s x p) 1 (rec_ o 13) = some p) ∧
    frozenPlace (s x p) 1 (rec_ .scalar 12) = none ∧ ((s x p).site? node).isSome = true ∧ (g x).task? p.lslot = some entry ∧
    ((0 : Word).extractLsb' 6 42).toNat * 64 ≠ x.addr := by
  refine ⟨rfl, rfl, rfl, by decide, by decide, ⟨rfl, rfl⟩, by decide +kernel⟩

/-- A write of killed work on its way holds its ticket. -/
theorem witness_CancelAcknowledged_moving :
    trafficOf { State.reset with reqs := [{ rq .read with dead := some (deadKey 1 (3 * 2 ^ 16)) }] } (deadKey 1 (3 * 2 ^ 16)) = true := by decide

/-! ### Witnesses: ring ports, the step, the encodings -/

/-- A datagram of the source 02:00:00:00:00:AA: op 0 HELLO, op 1 PUSH of one granule with SEQ 7. -/
def gram (op : Byte) : Datagram := { mac := 0x0200000000AA, addr := 0, port := 0x4B55, bytes := [1, op, 0, 0, 7, 0, 0, 0, 1, 0] ++ List.replicate 70 0 }

def hostPort : RingPort := { RingPort.reset with b2 := 0x40000400 }
def udpPort : RingPort := { RingPort.reset with b1 := 0x0200000000AA, b2 := 0x80000400 }
def ringPortW (r : RingPort) : State :=
  { sysW (sysT 0 0) with pkg := { pkgUp with rports := r :: List.replicate 127 .reset, pcieLink := [(6, 16), (0, 0)], ethUp := [true, false] } }

/-- Port 0 of I/O die 0, bound to the host and to a datagram source, idle, BUSY, with a push queued, a SEQ known and one pending. -/
theorem witness_RingPorts : let s := ringPortW
    let job : Push := { n := 1, bytes := List.replicate 64 3, seq := none, again := 0, b0 := 0, b1 := 0, b2 := 0x40000400 }
    let known : RingPort := { udpPort with seqs := [(7, 0)] }
    let busy : RingPort := { udpPort with busy := true, queue := [{ job with seq := some 7 }] }
    (s hostPort).pkg.rports.length = 128 ∧ (s hostPort).rport 0 0 = hostPort ∧ hostReaches (s hostPort) 0 = true ∧ hostReaches (s hostPort) 1 = false ∧
    hostPort.busy = false ∧ pkgUp.hostver.length = 2 ∧ (0x10000 : BitVec 32).toNat / 2 ^ 16 = 1 ∧ hostPort.b2.extractLsb' 30 2 = 1 ∧
    ((5 : Word).extractLsb' 0 11).toNat ≤ 1024 ∧ 1024 < ((1025 : Word).extractLsb' 0 11).toNat ∧ busy.busy = true ∧
    (dgHdr (gram 0)).port = 0 ∧ (dgHdr (gram 0)).op = 0 ∧ udpHeard (s udpPort) 0 (gram 0) = true ∧ udpPort.b2.extractLsb' 30 2 = 2 ∧
    ((dgHdr (gram 1)).op = 1 ∧ (dgHdr (gram 1)).ver ≤ 1 ∧ (dgHdr (gram 1)).n = 1 ∧ 16 + 64 * 1 ≤ (gram 1).bytes.length ∧ (dgHdr (gram 1)).seq = 7) ∧
    known.seqs.find? (fun x => x.1 = 7) = some (7, 0) ∧ busy.seqs.find? (fun x => x.1 = 7) = none ∧ (∃ j ∈ busy.queue, j.seq = some 7) ∧
    udpPort.seqs = [] ∧ udpPort.queue = [] ∧ udpPort.waiting = none ∧ (∀ r ∈ [known, busy], udpHeard (s r) 0 (gram 1) = true) ∧
    hostPort.b2.extractLsb' 30 2 ≠ 2 ∧ ((s hostPort).pkg.rpsel.getD 0 0).extractLsb' 0 6 = BitVec.ofNat 6 0 ∧
    ({ hostPort with queue := [{ job with n := 0 }] } : RingPort).queue = { job with n := 0 } :: [] ∧ hostPort.waiting = none := by
  decide +kernel

/-- A claim of one granule that is granted to the port and still open: its copy, and the commit that the home slice accepts. -/
theorem witness_RingPorts_commit : let job : Push := { n := 1, bytes := List.replicate 64 3, seq := none, again := 0, b0 := 0, b1 := 0, b2 := 0x40000400 }
    let g : Ring := { asid := 1, block := 2 ^ 18, pa := 2 ^ 18, die := 0, iset := 0, stored := false, claims := [{ pos := 0, n := 1, st := .opened, scope := 0 }], resvs := [], waiters := [] }
    let b0 : Word := BitVec.ofNat 64 (1 * 2 ^ 48 + 2 ^ 18)
    let r : RingPort := { hostPort with waiting := some (job, b0, 0), granted := some (0, 0) }
    let w : State := { ringPortW r with rings := [g], parts := [part], mem := pages }
    (b0.extractLsb' 48 16).toNat = 1 ∧ (b0.extractLsb' 6 42).toNat * 64 = 2 ^ 18 ∧ w.ring? 1 (2 ^ 18) = some g ∧ g.stored = false ∧
    (∃ c ∈ g.claims, c.pos = 0 ∧ c.st = .opened) ∧ scopeGone w 1 0 = false ∧
    scopeGone { w with parts := [{ part with scopes := [{ id := 0, parent := 0, cancelled := true, work := 0 }] }] } 1 0 = true ∧
    okAnd (readBytes w (some g.die) 3 g.xl 64) (fun s1 bs => (copyGranules 1 (ringBlock bs).base (ringBlock bs).lgn 1 s1 0 job.bytes).any (fun s2 =>
      (ringAtSlice s2 1 g.xl (.ring 0 0) (.commit (2 ^ 18) 0 0)).any (fun y => (match y.2.1 with | .granted _ _ => true | _ => false) &&
        y.1.rport 0 0 = r && y.1.pkg.rports.length = 128))) = true := by
  decide +kernel

/-- A core about to run ADD g3, g1, g2 from memory; a word that decodes to nothing; a pc that is not aligned; a site, a
router slot and a port whose turn it is; an event; a tick; a thread that has ended. -/
theorem witness_StepRunsDecoded : let t : Thread := { sysT 5 7 with pc := 2 ^ 27 }
    let code : Mem := [(2 ^ 27 + 1, 0x10), (2 ^ 27 + 2, 0x61), (2 ^ 27 + 3, 0x04)]
    let s : State := { sysW t with mem := code }
    let z : State := sysW t
    let at_ (u : Turn) (x : State) : State := { x with agenda := [u] }
    let c : State := { siteW (freshSite node .none 0) with
      places := [place (folio [{ x := 1, y := 1, word := 0x0300008010010000 }] [{ x := 1, y := 1, word := 0x89452000 }]) []] }
    (s.agenda = [] ∧ Issues s t ∧ threadUp s t = true ∧ takeAsync s t = none ∧ t.canIssue = true ∧ Physical s t t.pc 4 ∧ (match fetch s t with | .word u w => decide (u = { s with llc := u.llc } ∧ w = 0x04611000) | _ => false) = true ∧
      decodeScalar 0x04611000 = some (.add 3 1 2 false)) ∧
    (Issues z t ∧ (match fetch z t with | .word u w => decide (u = { z with llc := u.llc } ∧ w = 0) | _ => false) = true ∧ decodeScalar 0 = none) ∧
    (at_ (.thread (.sys 0)) s).agenda = .thread (.sys 0) :: [] ∧ s.thread? (.sys 0) = some t ∧
    (let u : Thread := { t with pc := 2 ^ 27 + 2 }
     u.pc.toNat % 4 ≠ 0 ∧ Issues (sysW u) u ∧ threadUp (sysW u) u = true ∧ takeAsync (sysW u) u = none ∧ u.canIssue = true) ∧
    (∃ i, siteInstr c node = some i) ∧ (∃ i, routerInstr c node false = some i) ∧
    (∃ i, portInstr (portW (port0 (run0 0 f0))) { place := 1, port := 0 } 0 = some i) ∧
    encode (.siteWake node) = none ∧ Issues (sysW { t with run := .ended }) { t with run := .ended } := by
  refine ⟨⟨rfl, rfl, rfl, rfl, rfl, by unfold Physical; decide, by decide +kernel, rfl⟩, ⟨rfl, by decide +kernel, rfl⟩, rfl, rfl, ⟨by decide, rfl, rfl, rfl, rfl⟩, ⟨_, rfl⟩, ⟨_, rfl⟩, ⟨_, rfl⟩, rfl, rfl⟩

theorem witness_RoundTrips : (wellFormed (.add 3 1 2 false) = true ∧ encodeScalar (.add 3 1 2 false) = some 0x04611000) ∧
    (∃ i, decodeCell node 0x0300008010010000 = some i ∧ ∃ w, encodeCell i = some w) ∧
    (let i : Instr := .ropInvar node { slot := false, in0 := 0x28, in1 := 0x29, in2 := 0 }
     wellFormed i = true ∧ encodeRouter i = some 0x89452000) ∧
    (∃ i, decodeCmd 1 0x00002800050A00008009000100000000 = some i ∧ wellFormed i = true ∧ ∃ w, encodeCmd i = some w) ∧
    (∃ i, decodeCtrl node ((BitVec.setWidth 512 0x0000000101010051#64)) = some i ∧ ∃ w, encodeCtrl i = some w) := by
  refine ⟨by decide, ⟨_, rfl, _, rfl⟩, by decide, ⟨_, rfl, rfl, _, rfl⟩, ?_⟩
  exact ⟨_, rfl, _, rfl⟩

/-- Reset satisfies the invariant of the two memories, and its first step is a next state. -/
theorem witness_StepKeepsMemoryOk : MemoryOk State.reset ∧ ∃ s', step State.reset = .next s' := by
  refine ⟨by unfold MemoryOk; decide, _, rfl⟩

/-! ### Small steps with values from the spec -/

/-- What register `d` and FFLAGS hold after one instruction of system core 0. -/
def after (i : Instr) (t : Thread) (d : Reg) : Option (Word × BitVec 7) :=
  match exec i (sysW t) with
  | .next s => (s.thread? (.sys 0)).map (fun u => (u.reg d, u.fflags))
  | _ => none

/-- A thread of system core 0 with g1, g2 and g3. -/
def sysT3 (x y z : Word) : Thread := (sysT x y).writeReg 3 z

/-- R305: the sum wraps. -/
theorem test_add_wraps : after (.add 4 1 2 false) (sysT 0xFFFFFFFFFFFFFFFF 2) 4 = some (1, 0) := by decide
/-- R276: a write of g0 is discarded. -/
theorem test_add_g0 : after (.add 0 1 2 false) (sysT 3 4) 0 = some (0, 0) := by decide
/-- The program of chapter 14's check value: CRCW.D of the first eight bytes, then CRCW.B of the ninth, 0x39. -/
theorem test_crc_check_value : (after (.crcw 3 1 2 3) (sysT3 0xFFFFFFFF 0x3837363534333231 0) 3).map (fun r =>
    (after (.crcw 4 3 1 0) (sysT3 0x39 0 r.1) 4).map (fun q => q.1)) = some (some 0x1CF96D7C) := by decide +kernel
/-- Chapter 14's one rounding: FMAC is exact, FMUL rounds. -/
theorem test_fmac_one_rounding : after (.fmac 3 1 2 0 false) (sysT3 0x3F800800 0x3F800800 0xBF801000) 3 = some (0x33800000, 0) := by decide +kernel
theorem test_fmul_rounds : after (.fmul 3 1 2 0 false) (sysT 0x3F800800 0x3F800800) 3 = some (0x3F801000, 16) := by decide +kernel
/-- R181, R183: chapter 08's conversions. 300.7 to E4M3; 464, a tie; 500 without and with SAT; 0.003; to BF16 a tie. -/
theorem test_conversions : let c (f : Fmt) (rs : BitVec 3) (x : Nat) : Nat × Flags := f.convert (rsOf rs) (fp32.read x)
    c e4m3 0 0x4396599A = (0x79, fInexact) ∧ c e4m3 0 0x43E80000 = (0x7E, fInexact) ∧ c e4m3 0 0x43FA0000 = (0x7F, fOverflow ||| fInexact) ∧
    c e4m3 4 0x43FA0000 = (0x7E, fOverflow ||| fInexact ||| fSaturated) ∧ c e4m3 0 0x3B449BA6 = (0x02, fUnderflow ||| fInexact) ∧
    c bf16 0 0x3F808000 = (0x3F80, fInexact) ∧ c e5m2 0 0x38D1B717 = (0x07, fInexact) := by decide +kernel
/-- R193: sixteen products of 2^-24 added to 1.0 in one group. -/
theorem test_one_group : fp32.put (rsOf 0) (sumVals 0 (fp32.read 0x3F800000 :: List.replicate 16 (mulVals (bf16.read 0x3980) (bf16.read 0x3980)).1)).1 =
    (0x3F800008, 0) := by decide +kernel
/-- R28: the coefficients and the parity bytes of chapter 02's two repairs. -/
theorem test_parity : parityCoef 1 1 = 0x1B ∧ parityCoef 1 2 = 0x1D ∧ parityCoef 1 6 = 0xB0 ∧ parityFrag 1 0 [[0xA5], [0x3C], [0x0F], [0x71]] = [0xE7] ∧
    parityFrag 1 1 [[0], [0x3C], [0x05], [0], [0], [0], [0x01], [0]] = [0x87] := by decide +kernel
/-- R212: chapter 09's four lines of a page at 2^32 in set 0. -/
theorem test_slice_hash : sliceIndex 0 0x100000000 = 2 ∧ sliceIndex 0 0x100005000 = 8 ∧ sliceIndex 0 0x100009000 = 1 ∧
    sliceIndex 0 (0x100000000 + 0x101 * 77 * 128) = 2 := by decide
/-- R312: LDB extends the sign, LDBU does not. -/
theorem test_ldb_sign : (match exec (.ldb 3 1 0) { sysW (sysT (2 ^ 27) 0) with mem := [(2 ^ 27, 0x80)] } with
    | .next s => (s.thread? (.sys 0)).map (fun u => u.reg 3) | _ => none) = some 0xFFFFFFFFFFFFFF80 := by decide
/-- R334: an ILLEGAL word of a user thread traps into the supervisor: pc at the vector, EPC the old pc, code 32, mode kept. -/
theorem test_trap_entry : let t := syncTrap (sysW { sysT 0 0 with mode := .user, asid := 1, pc := 0x1000 }) { sysT 0 0 with mode := .user, asid := 1, pc := 0x1000 } 32 0 false false 0x1000 0
    (t.thread? (.sys 0)).map (fun u => (u.mode, u.inh)) = some (.supervisor, true) := by decide
/-- The words worked out in chapters 13, 17 and 18: the predicated ADD, the PITCH and a switch of `scale2`. -/
theorem test_words_worked : decodeCell node 0x010001802A010000 = some (.cellAdd node
      { rep := 0, fmt := 0, rs := 0, pred := 1, sela := 0x20, selb := 2, selc := 0x28, outen := 1, imm := 0 }) ∧
    decodeCell node 0x6003C0A000010007 = some (.cellPitch node
      { rep := 0, fmt := 15, rs := 0, pred := 0, sela := 0x28, selb := 0, selc := 0, outen := 1, imm := 7 }) ∧
    (folio [] [{ x := 1, y := 1, word := 0x70A00040 }]).switches 1 1 = [(0x30, 0x28, 1)] := by decide

end Sys2Proof.Tests
end

section
/-! SUPPORT. What a fetch of a thread that accesses memory physically reads, and what a step does at each kind of turn. -/

namespace Sys2Proof.Machine
open Sys2Proof.Claims

-- One after another: proofs elaborated at a time take a thread each, whose stacks are the most of the check's memory.
set_option Elab.async false

/-! ### What a fetch reads (R2, R275, R313) -/

/-- No word that the levels below the slices hold has an error. -/
def NoErrors (s : State) : Prop := s.badWords = [] ∧ s.softWords = [] ∧ ∀ x ∈ s.llc, x.bad = [] ∧ x.soft = []

theorem llcAt_noErrors {s : State} (h : ∀ x ∈ s.llc, x.bad = [] ∧ x.soft = []) (b : Nat) :
    (llcAt s b).bad = [] ∧ (llcAt s b).soft = [] := by
  unfold llcAt
  cases e : s.llc.find? (fun x => x.base = b) with
  | none => exact ⟨rfl, rfl⟩
  | some x => exact h x (List.mem_of_find?_eq_some e)

/-- What is put in a list is there or was there. -/
theorem mem_of_mem_putBy {α : Type} {p : α → Bool} {x y : α} : ∀ {l : List α}, y ∈ putBy p x l → y = x ∨ y ∈ l
  | [], h => .inl (List.mem_singleton.mp h)
  | z :: l, h => by
    rw [putBy] at h
    split at h
    · exact (List.mem_cons.mp h).imp_right (List.mem_cons_of_mem z)
    · rcases List.mem_cons.mp h with rfl | h
      · exact .inr List.mem_cons_self
      · exact (mem_of_mem_putBy h).imp_right (List.mem_cons_of_mem z)

/-- Without errors, a line that becomes resident changes what the LLC holds, and nothing else. -/
theorem llcHold_eq_of_noErrors {s : State} (h : NoErrors s) (line : Nat) :
    ∃ l, llcHold s line = ({ s with llc := l }, []) ∧ ∀ x ∈ l, x.bad = [] ∧ x.soft = [] := by
  obtain ⟨hbad, hsoft, hllc⟩ := h
  obtain ⟨hx, hy⟩ := llcAt_noErrors hllc (baseOf line)
  have put : ∀ (p : Llc → Bool) (x : Llc), x.bad = [] → x.soft = [] → ∀ y ∈ putBy p x s.llc, y.bad = [] ∧ y.soft = [] :=
    fun p x hb hs y hm => (mem_of_mem_putBy hm).elim (fun e => e ▸ ⟨hb, hs⟩) (hllc y)
  simp only [llcHold, State.setLlc, wordsOf, hbad, hsoft, hx, hy, List.filter_nil, List.append_nil]
  split
  · exact ⟨_, rfl, put _ _ rfl rfl⟩
  · exact ⟨_, rfl, put _ _ rfl rfl⟩

/-- Without errors, a read at the LLC delivers the bytes of memory, none of them with an error. -/
theorem llcGet_eq_of_noErrors {s : State} (h : NoErrors s) (pa n : Nat) :
    ∃ l, llcGet s pa n = ({ s with llc := l }, { data := memRead s.mem pa n, bad := [], fixed := [] }) := by
  obtain ⟨l, hold, hl⟩ := llcHold_eq_of_noErrors h (pa / 128)
  obtain ⟨hx, hy⟩ := @llcAt_noErrors { s with llc := l } hl (baseOf (pa / 128))
  simp only [llcGet, hold, hx, hy, State.setLlc, List.filter_nil, List.append_nil]
  exact ⟨_, rfl⟩

theorem noErrors_of_physical {s : State} {t : Thread} {ea : Word} {n : Nat} (h : Physical s t ea n) : NoErrors s := by
  obtain ⟨-, -, -, -, -, -, hbad, hsoft, -, hllc, -⟩ := h
  exact ⟨hbad, hsoft, hllc⟩

/-- A system core that acts in no partition reads at the address itself, from memory and not from the boot SRAM (R313). -/
theorem threadXl_of_physical {s : State} {t : Thread} {ea : Word} {n : Nat} (h : Physical s t ea n) (hn : 0 < n) (nd : Need) :
    ∃ x, threadXl s t ea.toNat nd = .ok s (x, 3) ∧ x.pa = ea.toNat ∧ x.sram = false ∧ x.comp = false := by
  obtain ⟨hsys, hasid, -, hlo, hhi, -⟩ := h
  cases ht : t.id with
  | ctl d c k => simp [ht, ThreadId.isSys] at hsys
  | sys m =>
    have hmem : decide (ea.toNat < 2 ^ 26) = false := decide_eq_false (Nat.not_lt.mpr hlo)
    refine ⟨physXl (m < 16) ea.toNat, ?_, rfl, ?_, rfl⟩
    · simp only [threadXl, ht]
      rw [if_neg (by omega), if_pos hasid]
    · rw [physXl, hmem, Bool.and_false]

/-- The bytes at such an address are those of memory, and what the LLC holds is all that changes (R2, R229). -/
theorem threadBytes_of_physical {s : State} {t : Thread} {ea : Word} {n : Nat} (h : Physical s t ea n) {x : Xl} (hpa : x.pa = ea.toNat)
    (hsram : x.sram = false) (hcomp : x.comp = false) (lv : Nat) :
    ∃ l, threadBytes s t t.id.die? lv x n = .ok { s with llc := l } (memRead s.mem ea.toNat n) := by
  obtain ⟨l, get⟩ := llcGet_eq_of_noErrors (noErrors_of_physical h) ea.toNat n
  obtain ⟨hsys, -, -, -, -, hready, -, -, hrings, -, hbusy⟩ := h
  have hdie : t.id.die? = none := by
    cases ht : t.id with
    | ctl d c k => simp [ht, ThreadId.isSys] at hsys
    | sys m => rfl
  have hplace : placeOf s none x n = (none, x) := by simp [placeOf, State.ringLine, hrings]
  have load : readBytes s none lv x n = .ok { s with llc := l } (memRead s.mem ea.toNat n) := by
    simp only [readBytes, hplace, llcLoad, hsram, hcomp, hpa, hbusy, hready, get]
    rfl
  refine ⟨l, ?_⟩
  simp [threadBytes, hdie, load, Acc.bind, correctedIn]

/-- A thread that accesses memory physically fetches the four bytes at its pc, the least significant first (R2, R275, R285). -/
theorem fetch_of_physical {s : State} {t : Thread} (h : Physical s t t.pc 4) :
    ∃ l, fetch s t = .word { s with llc := l } (memByte s.mem (t.pc.toNat + 3) ++ memByte s.mem (t.pc.toNat + 2) ++
      memByte s.mem (t.pc.toNat + 1) ++ memByte s.mem t.pc.toNat) := by
  obtain ⟨x, hxl, hpa, hsram, hcomp⟩ := threadXl_of_physical h (by decide) (Need.fetch (t.mode = .user))
  obtain ⟨l, hbytes⟩ := threadBytes_of_physical h hpa hsram hcomp 3
  obtain ⟨-, -, haligned, -⟩ := h
  refine ⟨l, ?_⟩
  simp [fetch, haligned, hxl, Acc.bind, hbytes, memRead, wordOfBytes]

/-! ### What a thread does at its turn (R285, R302, R334) -/

section
variable {s s' : State} {id : ThreadId} {t : Thread} (ht : s.thread? id = some t) (hup : threadUp { s with cur := id } t = true)
  (hasync : takeAsync { s with cur := id } t = none) (hcan : t.canIssue = true)
include ht hup hasync hcan

/-- A thread that is up and may issue, with no trap to take, runs the instruction that the word it fetches decodes to. -/
theorem issue_of_decode_some {w : BitVec 32} {i : Instr} (hfetch : fetch { s with cur := id } t = .word s' w)
    (hdecode : decodeScalar w = some i) : issue s id = exec i s' := by
  have ht' : ({ s with cur := id } : State).thread? id = some t := ht
  simp [issue, ht', hup, hasync, hcan, hfetch, hdecode]

/-- The same thread takes ILLEGAL, with the word in EVAL, when the word decodes to nothing (R285). -/
theorem issue_of_decode_none {w : BitVec 32} (hfetch : fetch { s with cur := id } t = .word s' w)
    (hdecode : decodeScalar w = none) : issue s id = .next (illegal s' t (w.setWidth 64)) := by
  have ht' : ({ s with cur := id } : State).thread? id = some t := ht
  simp [issue, ht', hup, hasync, hcan, hfetch, hdecode]

/-- The same thread's fetch trap comes before decoding (R285). -/
theorem issue_of_trapped (hfetch : fetch { s with cur := id } t = .trapped s') : issue s id = .next s' := by
  have ht' : ({ s with cur := id } : State).thread? id = some t := ht
  simp [issue, ht', hup, hasync, hcan, hfetch]

end

/-- A thread that has ended has no trap to take (R334). -/
theorem takeAsync_of_ended {s : State} {t : Thread} (h : t.run = .ended) : takeAsync s t = none := by
  have none_takeable : t.takeable = none := by simp [Thread.takeable, h]
  simp [takeAsync, none_takeable]

/-- A thread that has ended lets a cycle pass. -/
theorem issue_of_ended {s : State} {id : ThreadId} {t : Thread} (ht : s.thread? id = some t) (h : t.run = .ended) :
    issue s id = .next (idle { s with cur := id }) := by
  have ht' : ({ s with cur := id } : State).thread? id = some t := ht
  have hcan : t.canIssue = false := by simp [Thread.canIssue, h]
  simp [issue, ht', takeAsync_of_ended h, hcan]

/-- With nothing on the agenda the current thread issues (assumption 1). -/
theorem step_of_agenda_nil {s : State} (h : s.agenda = []) : step s = issue s s.cur := by rw [step, h]

/-- The pc's alignment is the first that a fetch checks (R285). -/
theorem fetch_of_misaligned {s : State} {t : Thread} (h : t.pc.toNat % 4 ≠ 0) : fetch s t = .trapped (misaligned s t t.pc) :=
  if_pos h

/-- Settles O54: the step's own equation at each kind of turn, and the bytes a physical fetch reads. -/
theorem stepRunsDecoded : Obligations.StepRunsDecoded := by
  unfold Obligations.StepRunsDecoded
  intro s s' t rest w i s0
  refine ⟨?word, ?turn, ?misaligned, fetch_of_physical, ?site, ?router, ?port, ?event, ?outside, ?tick, ?ended⟩
  case word =>
    intro hagenda ht hup hasync hcan hfetch
    rw [step_of_agenda_nil hagenda]
    exact ⟨issue_of_decode_some ht hup hasync hcan hfetch, issue_of_decode_none ht hup hasync hcan hfetch⟩
  case turn =>
    intro id hagenda ht hup hasync hcan hfetch hdecode
    have turn : step s = issue s0 id := by rw [step, hagenda]
    have ht0 : s0.thread? id = some t := ht
    rw [turn]
    exact issue_of_decode_some ht0 hup hasync hcan hfetch hdecode
  case misaligned =>
    intro hpc hagenda ht hup hasync hcan
    rw [step_of_agenda_nil hagenda]
    exact issue_of_trapped ht hup hasync hcan (fetch_of_misaligned hpc)
  case site =>
    intro n hagenda hfound
    simp only [step, hagenda]
    rw [hfound, perform]
  case router =>
    intro n k hagenda hfound
    simp only [step, hagenda]
    rw [hfound, perform]
  case port =>
    intro p k hagenda hfound
    simp only [step, hagenda]
    rw [hfound, perform]
  case event =>
    intro hagenda hword
    simp [step, hagenda, hword, s0]
  case outside =>
    intro a hagenda
    simp only [step, hagenda, s0]
  case tick =>
    intro n hagenda
    simp only [step, hagenda, s0]
  case ended =>
    intro hagenda ht hrun
    rw [step_of_agenda_nil hagenda, issue_of_ended ht hrun]
    rfl

end Sys2Proof.Machine
end

section
/-! SUPPORT. Every step keeps both memories in their canonical form (O59). Each function of the model on the way to the step
has one lemma here, in the order of the model's files: `f_ok` when `f` leaves a state, an outcome or a pair with a state,
`f_leaves` when it leaves an access or an option. A lemma takes the form of the state that its function starts from; the
bytes themselves are written by `memWrite` alone, whose lemma is `memWrite_wf`; POWER_ON_RESET empties both memories. -/

namespace Sys2Proof.Machine

-- One after another: proofs elaborated at a time take a thread each, whose stacks are the most of the check's memory.
set_option Elab.async false

/-- What an instruction leaves has both memories in form. -/
def OutOk : Out → Prop
  | .next s => MemoryOk s
  | _ => True

/-- What an optional result holds satisfies `P`. -/
def OptLeaves {α : Type} (P : α → Prop) : Option α → Prop
  | some a => P a
  | none => True

theorem OptLeaves.of_some {α : Type} {P : α → Prop} {o : Option α} {a : α} (h : OptLeaves P o) (e : o = some a) : P a := by
  rw [e] at h; exact h

theorem Acc.Leaves.of_ok {α : Type} {P : State → Prop} {x : Acc α} {s : State} {v : α} (h : x.Leaves P) (e : x = .ok s v) : P s := by
  rw [e] at h; exact h

theorem Acc.Leaves.of_fault {α : Type} {P : State → Prop} {x : Acc α} {s : State} {c k : Nat} {p : Word} (h : x.Leaves P)
    (e : x = .fault s c k p) : P s := by
  rw [e] at h; exact h

theorem ok_of_fst {α : Type} {x : State × α} {s : State} {v : α} (h : MemoryOk x.1) (e : x = (s, v)) : MemoryOk s := by
  rw [e] at h; exact h

theorem ok_of_snd {α : Type} {x : α × State} {s : State} {v : α} (h : MemoryOk x.2) (e : x = (v, s)) : MemoryOk s := by
  rw [e] at h; exact h

theorem foldl_ok {α : Type} {f : State → α → State} {l : List α} {s : State} (hf : ∀ s x, MemoryOk s → MemoryOk (f s x))
    (h : MemoryOk s) : MemoryOk (l.foldl f s) :=
  List.foldlRecOn l f h (fun s hs x _ => hf s x hs)

theorem OptLeaves.intro {α : Type} {P : α → Prop} {o : Option α} (h : ∀ a, o = some a → P a) : OptLeaves P o := by
  cases o with
  | none => trivial
  | some a => exact h a rfl

theorem getD_ok {o : Option State} {s : State} (ho : OptLeaves MemoryOk o) (h : MemoryOk s) : MemoryOk (o.getD s) := by
  cases o with
  | none => exact h
  | some a => exact ho

theorem OutOk.of_next {o : Out} {s : State} (h : OutOk o) (e : o = .next s) : MemoryOk s := by
  rw [e] at h; exact h

theorem OptLeaves.map {α β : Type} {P : α → Prop} {Q : β → Prop} {f : α → β} {o : Option α} (h : OptLeaves P o)
    (hf : ∀ a, P a → Q (f a)) : OptLeaves Q (o.map f) := by
  cases o with
  | none => trivial
  | some a => exact hf a h

theorem foldlM_leaves {α : Type} {f : State → α → Option State} (hf : ∀ s x, MemoryOk s → OptLeaves MemoryOk (f s x)) :
    ∀ {l : List α} {s : State}, MemoryOk s → OptLeaves MemoryOk (l.foldlM f s)
  | [], _, h => h
  | x :: l, s, h => by
    rw [List.foldlM_cons]
    have hx := hf s x h
    cases e : f s x with
    | none => trivial
    | some s1 => exact foldlM_leaves hf (hx.of_some e)

theorem findSome?_leaves {l : List (Option State)} (h : ∀ o ∈ l, OptLeaves MemoryOk o) :
    OptLeaves MemoryOk (l.findSome? (fun o => o)) := by
  cases e : l.findSome? (fun o => o) with
  | none => trivial
  | some s =>
    obtain ⟨o, hm, ho⟩ := List.exists_of_findSome?_eq_some e
    exact (h o hm).of_some ho

theorem OptLeaves.map_all {α β : Type} {Q : β → Prop} {f : α → β} {o : Option α} (hf : ∀ a, Q (f a)) :
    OptLeaves Q (o.map f) := by
  cases o with
  | none => trivial
  | some a => exact hf a

theorem Acc.foldl_leaves {α β : Type} {f : Acc α → β → Acc α} {l : List β} {a : Acc α}
    (hf : ∀ a x, a.Leaves MemoryOk → (f a x).Leaves MemoryOk) (h : a.Leaves MemoryOk) : (l.foldl f a).Leaves MemoryOk :=
  List.foldlRecOn l f h (fun a ha x _ => hf a x ha)

theorem ite_ok {c : Prop} [Decidable c] {s t : State} (hs : MemoryOk s) (ht : MemoryOk t) : MemoryOk (if c then s else t) := by
  split
  · exact hs
  · exact ht

theorem ite_holds {α : Type} {P : α → Prop} {c : Prop} [Decidable c] {a b : α} (ha : P a) (hb : P b) : P (if c then a else b) := by
  split
  · exact ha
  · exact hb

theorem ok_of_ite {c : Prop} [Decidable c] {o p : Option State} {s : State} (e : (if c then o else p) = some s)
    (ho : OptLeaves MemoryOk o) (hp : OptLeaves MemoryOk p) : MemoryOk s := by
  split at e
  · exact ho.of_some e
  · exact hp.of_some e

/-! ### Sys2Proof/Machine/Spray -/

theorem State.updNet_ok {s : State} {f} (h : MemoryOk s) : MemoryOk (State.updNet s f) := h

theorem takeMsgId_ok {s : State} {net src io} (h : MemoryOk s) : MemoryOk (takeMsgId s net src io).2 := by
  unfold takeMsgId
  exact State.updNet_ok h

theorem dropTimers_ok {s : State} {who} (h : MemoryOk s) : MemoryOk (dropTimers s who) := State.updNet_ok h

theorem stir_ok {s : State} {asid} (h : MemoryOk s) : MemoryOk (stir s asid) := h

theorem stirAgent_ok {s : State} {a c} (h : MemoryOk s) : MemoryOk (stirAgent s a c) := by
  unfold stirAgent
  split
  · exact stir_ok h
  · exact h

theorem State.offTransit_ok {s : State} {c} (h : MemoryOk s) : MemoryOk (State.offTransit s c) := State.updNet_ok h

theorem takeSerial_ok {s : State} (h : MemoryOk s) : MemoryOk (takeSerial s).2 := State.updNet_ok h

/-! ### Sys2Proof/Machine/Memory -/

theorem State.setLlc_ok {s : State} {x} (h : MemoryOk s) : MemoryOk (State.setLlc s x) := h

theorem llcPutAll_ok {s : State} {k n l} (h : MemoryOk s) : MemoryOk (llcPutAll k s n l) := by
  induction k generalizing s n l with
  | zero => exact h
  | succ _ ih => exact ite_ok h (ih (llcPut_ok h))

theorem markRing_ok {s : State} {pa n} (h : MemoryOk s) : MemoryOk (markRing s pa n) := h

theorem sendLlc_ok {s : State} {q bytes} (h : MemoryOk s) : MemoryOk (sendLlc s q bytes) := sendMessage_ok h

theorem flashInvalidate_ok {s : State} {d} (h : MemoryOk s) : MemoryOk (flashInvalidate s d) := h

theorem evictNow_ok {s : State} {d idx line} (h : MemoryOk s) : MemoryOk (evictNow s d idx line) := by
  unfold evictNow
  extract_lets
  split
  · exact h
  · exact setSlice_ok (ite_ok (llcBack_ok h) h)

theorem State.setPart_ok {s : State} {p} (h : MemoryOk s) : MemoryOk (State.setPart s p) := h

theorem Acc.orAtLlc_leaves {α : Type} {a b : Acc α} (ha : a.Leaves MemoryOk) (hb : b.Leaves MemoryOk) : (a.orAtLlc b).Leaves MemoryOk := by
  unfold Acc.orAtLlc
  split
  · exact hb
  · exact ha

theorem freeSpan_ok {s : State} {pa n} (h : MemoryOk s) : MemoryOk (freeSpan s pa n) := by
  obtain ⟨hm, hr⟩ := h
  exact ⟨memWrite_wf hm, hr⟩

theorem hwSeen_ok {s : State} {k n n1 n2} (h : MemoryOk s) : MemoryOk (hwSeen k s n n1 n2) := by
  induction k generalizing s n n1 n2 with
  | zero => exact h
  | succ _ ih =>
    unfold hwSeen
    refine ih ?_
    split
    · split
      next e1 => exact ite_ok ((Acc.orAtLlc_leaves (readBytes_leaves h _ _ _ _) (llcLoad_leaves h _ _ _)).of_ok e1) h
      · exact h
    · exact h

/-! ### Sys2Proof/Machine/Ops -/

theorem State.setThread_ok {s : State} {t} (h : MemoryOk s) : MemoryOk (State.setThread s t) := h

theorem State.updThread_ok {s : State} {t f} (h : MemoryOk s) : MemoryOk (State.updThread s t f) := h

theorem onCur_ok {s : State} {f} (h : MemoryOk s) (hf : ∀ x0, MemoryOk (f x0)) : OutOk (onCur s f) := by
  unfold onCur
  split
  · exact hf _
  · exact h

theorem State.updPlace_ok {s : State} {p f} (h : MemoryOk s) : MemoryOk (State.updPlace s p f) := h

theorem State.updPart_ok {s : State} {asid f} (h : MemoryOk s) : MemoryOk (State.updPart s asid f) := h

theorem State.updTask_ok {s : State} {asid slot f} (h : MemoryOk s) : MemoryOk (State.updTask s asid slot f) := State.updPart_ok h

theorem postSupervisor_ok {s : State} {asid code eval norec} (h : MemoryOk s) : MemoryOk (postSupervisor s asid code eval norec) :=
  postTrap_ok h _ _

theorem enterTrap_ok {s : State} {t tm r} (h : MemoryOk s) : MemoryOk (enterTrap s t tm r) := State.setThread_ok h

theorem illegal_ok {s : State} {t w} (h : MemoryOk s) : MemoryOk (illegal s t w) := syncTrap_ok h _ _ _ _ _ _ _

theorem misaligned_ok {s : State} {t a} (h : MemoryOk s) : MemoryOk (misaligned s t a) := syncTrap_ok h _ _ _ _ _ _ _

theorem privTrap_ok {s : State} {t w} (h : MemoryOk s) : MemoryOk (privTrap s t w) := syncTrap_ok h _ _ _ _ _ _ _

theorem abandonRing_ok {s : State} {t} (h : MemoryOk s) : MemoryOk (abandonRing s t) := h

theorem takeAsync_leaves {s : State} {t} (h : MemoryOk s) : OptLeaves MemoryOk (takeAsync s t) := by
  unfold takeAsync
  split
  · trivial
  · exact enterTrap_ok (abandonRing_ok h)

theorem takeImprecise_ok {s : State} {t e} (h : MemoryOk s) : MemoryOk (takeImprecise s t e) := syncTrap_ok h _ _ _ _ _ _ _

theorem acquireAt_ok {s : State} {t sc} (h : MemoryOk s) : MemoryOk (acquireAt s t sc) := by
  unfold acquireAt
  split
  · exact ite_ok (flashInvalidate_ok h) h
  · exact h

/-! ### Sys2Proof/Machine/Fetch -/

/-- What a fetch leaves, with a word or after a trap, has both memories in form. -/
def Fetched.Ok : Fetched → Prop
  | .word s _ => MemoryOk s
  | .trapped s => MemoryOk s
  | .wait => True

theorem fetch_ok {s : State} {t} (h : MemoryOk s) : (fetch s t).Ok := by
  have hb : ((threadXl s t t.pc.toNat (Need.fetch (t.mode = .user))).bind
      (fun s' (x, lv) => threadBytes s' t t.id.die? lv x 4)).Leaves MemoryOk :=
    Acc.leaves_bind (threadXl_leaves h t _ _) (fun _ ⟨_, _⟩ _ h1 => threadBytes_leaves h1 t _ _ _ _)
  unfold fetch
  split
  · exact misaligned_ok h
  split
  · trivial
  · next e => exact accessFault_ok (hb.of_fault e) _ _ _ _ _ _
  · next e => exact hb.of_ok e

theorem idle_ok {s : State} (h : MemoryOk s) : MemoryOk (idle s) := h

/-! ### Sys2Proof/Machine/Folio -/

theorem imageSeen_ok {s : State} {p routine} (h : MemoryOk s) : MemoryOk (imageSeen s p routine) := by
  unfold imageSeen
  split
  · exact h
  · exact hwSeen_ok (hwSeen_ok h)

/-! ### Sys2Proof/Machine/Operands -/

theorem intRR_ok {s : State} {d a b w f} (h : MemoryOk s) : OutOk (intRR d a b w f s) := onCur_ok h (fun _ => State.setThread_ok h)

theorem intR_ok {s : State} {d a w f} (h : MemoryOk s) : OutOk (intR d a w f s) := onCur_ok h (fun _ => State.setThread_ok h)

theorem intRI_ok {s : State} {d a f} (h : MemoryOk s) : OutOk (intRI d a f s) := onCur_ok h (fun _ => State.setThread_ok h)

/-! ### Sys2Proof/Machine/Launch -/

theorem State.setEvent_ok {s : State} {t} (h : MemoryOk s) : MemoryOk (State.setEvent s t) := State.updThread_ok h

theorem State.setEvents_ok {s : State} {asid c} (h : MemoryOk s) : MemoryOk (State.setEvents s asid c) := h

theorem writeCompletion_ok {s : State} {asid e cycles} (h : MemoryOk s) : MemoryOk (writeCompletion s asid e cycles) := by
  unfold writeCompletion
  extract_lets s1
  have h1 : MemoryOk s1 := by
    unfold s1
    split
    next e1 => exact recPut_ok h e1
    · exact postSupervisor_ok h
  split
  · exact State.setEvent_ok h1
  · exact h1

theorem completeEntry_ok {s : State} {k n n1} (h : MemoryOk s) : MemoryOk (completeEntry k s n n1) := by
  induction k generalizing s n n1 with
  | zero => exact h
  | succ _ ih =>
    unfold completeEntry
    split
    · exact h
    refine ite_ok h ?_
    extract_lets _ _ s2
    have h1 : MemoryOk s2 := State.updPart_ok (writeCompletion_ok (stir_ok h))
    split
    · exact h1
    split
    exact foldl_ok (fun _ _ h2 => ih (State.updTask_ok h2)) (State.setPart_ok h1)

theorem cancelEntry_ok {s : State} {asid slot} (h : MemoryOk s) : MemoryOk (cancelEntry s asid slot) :=
  completeEntry_ok (State.updTask_ok h)

theorem readWords_leaves {s : State} {t k n} (h : MemoryOk s) : (readWords t k s n).Leaves MemoryOk := by
  induction k generalizing s n with
  | zero => exact h
  | succ _ ih =>
    unfold readWords
    refine Acc.leaves_bind ?_ (fun _ _ _ h1 => Acc.leaves_bind (ih h1) (fun _ _ _ h2 => h2))
    refine Acc.leaves_bind (threadXl_leaves h _ _ _) (fun _ ⟨_, _⟩ _ h3 => ?_)
    split
    exact threadRead_leaves h3 _ _ _ _

theorem waitIn_ok {s : State} {t w} (h : MemoryOk s) : MemoryOk (waitIn s t w) :=
  ite_ok (State.setThread_ok h) (stir_ok (State.setThread_ok h))

theorem createEntry_ok {s : State} {asid p r slot who} (h : MemoryOk s) : MemoryOk (createEntry s asid p r slot who) := by
  unfold createEntry
  extract_lets _ _ _ s1
  have h1 : MemoryOk s1 := stir_ok (State.setPart_ok h)
  exact ite_ok (cancelEntry_ok h1) (State.updPart_ok h1)

theorem releaseHeld_ok {s : State} {asid p lid} (h : MemoryOk s) : MemoryOk (releaseHeld s asid p lid).1 := by
  unfold releaseHeld
  split
  · exact h
  split
  · exact h
  · exact stir_ok (State.setPart_ok h)

theorem launchWith_ok {s : State} {asid who bytes} (h : MemoryOk s) : MemoryOk (launchWith s asid who bytes).1 := by
  unfold launchWith
  split
  · exact h
  split
  · exact h
  split
  · exact h
  extract_lets
  split
  · split
    · exact h
    split
    next e1 => exact ok_of_fst (releaseHeld_ok h) e1
  split
  · exact h
  split
  · exact h
  split
  · exact h
  · exact createEntry_ok h

theorem launchDone_ok {s : State} {d t bytes} (h : MemoryOk s) : MemoryOk (launchDone d t s bytes) := by
  unfold launchDone
  split
  next e1 => exact State.updThread_ok (ok_of_fst (launchWith_ok h) e1)

theorem execLaunch_ok {s : State} {d a} (h : MemoryOk s) : OutOk (execLaunch d a s) := by
  unfold execLaunch
  refine onCur_ok h (fun _ => ?_)
  refine syncPoint_ok h _ _ (fun _ _ h1 => ?_)
  refine ite_ok (launchDone_ok h1) ?_
  split
  · exact h1
  next e1 => exact launchDone_ok ((readWords_leaves h1).of_fault e1)
  next e1 => exact launchDone_ok ((readWords_leaves h1).of_ok e1)

theorem execLwait_ok {s : State} {d a} (h : MemoryOk s) : OutOk (execLwait d a s) := by
  unfold execLwait
  refine onCur_ok h (fun _ => ?_)
  refine ite_ok (State.setThread_ok h) ?_
  split
  · exact State.setThread_ok h
  refine ite_ok ?_ (waitIn_ok h)
  exact State.setThread_ok (State.updPart_ok (acquireAt_ok h))

/-! ### Sys2Proof/Machine/Place -/

theorem keepLeft_ok {s : State} {p} (h : MemoryOk s) : MemoryOk (keepLeft s p) := ite_ok h h

theorem configure_ok {s : State} {p k} (h : MemoryOk s) : MemoryOk (configure s p k) := by
  unfold configure
  split
  · exact h
  · exact keepLeft_ok h

theorem placeFolio_ok {s : State} {asid die gx gy lslot scope f inst} (h : MemoryOk s) :
    MemoryOk (placeFolio s asid die gx gy lslot scope f inst).1 := by
  unfold placeFolio
  exact configure_ok h

theorem removePlace_ok {s : State} {id} (h : MemoryOk s) : MemoryOk (removePlace s id) := by
  unfold removePlace
  split
  · exact h
  · exact keepLeft_ok h

/-! ### Sys2Proof/Machine/Fabric -/

theorem State.updSite_ok {s : State} {n f} (h : MemoryOk s) : MemoryOk (State.updSite s n f) := h

theorem State.updSlot_ok {s : State} {n k f} (h : MemoryOk s) : MemoryOk (State.updSlot s n k f) := h

theorem taint_ok {s : State} {p v} (h : MemoryOk s) : MemoryOk (taint s p v) := ite_ok h (State.updTask_ok h)

theorem portFault_ok {s : State} {asid lslot code addr norec} (h : MemoryOk s) : MemoryOk (portFault s asid lslot code addr norec) := by
  unfold portFault
  split
  · exact postTrap_ok h _ _
  · exact postSupervisor_ok h

theorem freezeRecord_ok {s : State} {asid f} (h : MemoryOk s) : MemoryOk (freezeRecord s asid f) := by
  unfold freezeRecord
  split
  next e1 => exact portFault_ok (State.updTask_ok (ok_of_fst (takeRecord_ok h _ _ _) e1))
  next e1 => exact State.updPart_ok (ok_of_fst (takeRecord_ok h _ _ _) e1)

theorem nodeFault_ok {s : State} {n code} (h : MemoryOk s) : MemoryOk (nodeFault s n code) := by
  unfold nodeFault
  split
  · exact h
  refine ite_ok h ?_
  exact freezeRecord_ok (State.updSite_ok h)

theorem slotFault_ok {s : State} {n k code} (h : MemoryOk s) : MemoryOk (slotFault s n k code) := by
  unfold slotFault
  split
  · exact h
  refine ite_ok h ?_
  exact freezeRecord_ok (State.updSlot_ok h)

theorem overLimit_ok {s : State} {p code sub} (h : MemoryOk s) : MemoryOk (overLimit s p code sub) :=
  ite_ok (taint_ok (State.updPlace_ok h)) h

theorem errorFault_ok {s : State} {p n code pte} (h : MemoryOk s) : MemoryOk (errorFault s p n code pte) := by
  unfold errorFault
  refine ite_ok h ?_
  extract_lets _ _ s1
  have h1 : MemoryOk s1 := taint_ok (State.updPlace_ok h)
  refine ite_ok (State.updPlace_ok h) ?_
  refine ite_ok (State.updTask_ok h1) ?_
  split
  next s2_1 _ e1 =>
    have h2 : MemoryOk s2_1 := ok_of_fst (takeRecord_ok (State.updPlace_ok h1) _ _ _) e1
    exact State.updTask_ok h2

theorem inspect_ok {s : State} {p n t consumer} (h : MemoryOk s) : MemoryOk (inspect s p n t consumer).1 := by
  unfold inspect
  split
  · exact errorFault_ok h
  split
  · exact taint_ok h
  · exact h

theorem sendToken_ok {s : State} {a seq c body} (h : MemoryOk s) : MemoryOk (sendToken s a seq c body) := by
  unfold sendToken
  split
  · exact h
  · exact sendMessage_ok (State.updNet_ok h)

theorem branchPut_ok {s : State} {n t x} (h : MemoryOk s) : MemoryOk (branchPut s n t x) := by
  unfold branchPut
  split
  · split
    · refine ite_ok h ?_
      split
      next s1 e1 =>
        have h1 : MemoryOk s1 := ok_of_snd (takeSerial_ok h) e1
        exact sendToken_ok h1
    · exact h
  · exact State.updSite_ok h
  · exact State.updSlot_ok h

theorem sourceTake_ok {s : State} {n code} (h : MemoryOk s) : MemoryOk (sourceTake s n code) :=
  ite_ok h (ite_ok (State.updSite_ok h) (State.updSlot_ok h))

theorem wakeSite_ok {s : State} {n} (h : MemoryOk s) : MemoryOk (wakeSite s n) := State.updSite_ok h

theorem startWake_ok {s : State} {n bs} (h : MemoryOk s) : MemoryOk (startWake s n bs) := ite_ok (wakeSite_ok h) h

theorem execSwitchForward_ok {s : State} {n src} (h : MemoryOk s) : OutOk (execSwitchForward n src s) := by
  unfold execSwitchForward
  extract_lets
  split
  · split
    · exact h
    refine ite_holds h ?_
    extract_lets _ s0
    have h1 : MemoryOk s0 := startWake_ok h
    refine ite_holds h1 ?_
    refine ite_holds h1 ?_
    split
    next s2 _ e1 =>
      have h2 : MemoryOk s2 := ok_of_fst (inspect_ok h1) e1
      split
      next s2_1 _ e2 =>
        have h3 : MemoryOk s2_1 := by
          refine ok_of_fst ?_ e2
          split
          · exact errorFault_ok h2
          · exact h2
        exact ite_holds h3 (foldl_ok (fun _ _ h4 => branchPut_ok h4) (sourceTake_ok h3))
  · exact h

theorem execSiteClockGate_ok {s : State} {n} (h : MemoryOk s) : OutOk (execSiteClockGate n s) := by
  unfold execSiteClockGate
  split
  · exact h
  · exact ite_holds (State.updSite_ok h) h

theorem execSiteWake_ok {s : State} {n} (h : MemoryOk s) : OutOk (execSiteWake n s) := by
  unfold execSiteWake
  split
  · exact h
  split
  · exact ite_holds (State.updSite_ok h) h
  · exact h

/-! ### Sys2Proof/Machine/ScalarMem -/

theorem loadAt_ok {s : State} {n sgn d t ea} (h : MemoryOk s) : MemoryOk (loadAt n sgn d s t ea) := by
  unfold loadAt
  refine checked_ok h _ _ _ _ _ _ (fun _ _ _ h1 => ?_)
  split
  · exact h
  next e1 => exact accessFault_ok ((threadRead_leaves h1 _ _ _ _).of_fault e1) _ _ _ _ _ _
  next e1 => exact State.setThread_ok ((threadRead_leaves h1 _ _ _ _).of_ok e1)

theorem storeAt_ok {s : State} {n d t ea} (h : MemoryOk s) : MemoryOk (storeAt n d s t ea) := by
  unfold storeAt
  refine checked_ok h _ _ _ _ _ _ (fun _ _ _ h1 => ?_)
  refine ite_ok (accessFault_ok h1 _ _ _ _ _ _) ?_
  split
  · refine ite_ok (State.setThread_ok h1) ?_
    split
    · exact h
    next e1 => exact State.setThread_ok (performStore_ok h1 e1)
  · exact State.setThread_ok h1

theorem loadInstr_ok {s : State} {n sgn d a imm} (h : MemoryOk s) : OutOk (loadInstr n sgn d a imm s) := onCur_ok h (fun _ => loadAt_ok h)

theorem storeInstr_ok {s : State} {n d a imm} (h : MemoryOk s) : OutOk (storeInstr n d a imm s) := onCur_ok h (fun _ => storeAt_ok h)

theorem execLda_ok {s : State} {d a sc u w} (h : MemoryOk s) : OutOk (execLda d a sc u w s) := by
  unfold execLda
  refine onCur_ok h (fun _ => ?_)
  split
  · exact takeImprecise_ok h
  · exact loadAt_ok (acquireAt_ok h)

theorem execStl_ok {s : State} {a b sc w} (h : MemoryOk s) : OutOk (execStl a b sc w s) := by
  unfold execStl
  refine onCur_ok h (fun _ => ?_)
  refine syncPoint_ok h _ _ (fun _ _ h1 => ?_)
  refine checked_ok h1 _ _ _ _ _ _ (fun _ _ _ h2 => ?_)
  split
  · exact h1
  next e1 => exact accessFault_ok ((writeBytes_leaves h2 _ _ _).of_fault e1) _ _ _ _ _ _
  next e1 => exact State.setThread_ok ((writeBytes_leaves h2 _ _ _).of_ok e1)

theorem amoPlace_ok {s : State} {die sc x} (h : MemoryOk s) : MemoryOk (amoPlace s die sc x).1 := by
  unfold amoPlace
  split
  · exact h
  split
  · exact evictNow_ok h
  · exact h

theorem amo_ok {s : State} {op d a b sc u w} (h : MemoryOk s) : OutOk (amo op d a b sc u w s) := by
  unfold amo
  refine onCur_ok h (fun _ => ?_)
  refine syncPoint_ok h _ _ (fun _ _ h1 => ?_)
  refine checked_ok (acquireAt_ok h1) _ _ _ _ _ _ (fun _ _ _ h2 => ?_)
  refine ite_ok h1 ?_
  split
  next s2 _ e1 =>
    have h3 : MemoryOk s2 := ok_of_fst (amoPlace_ok h2) e1
    split
    · exact h1
    next e2 => exact accessFault_ok ((threadBytes_leaves h3 _ _ _ _ _).of_fault e2) _ _ _ _ _ _
    next s' _ e2 =>
      have h4 : MemoryOk s' := (threadBytes_leaves h3 _ _ _ _ _).of_ok e2
      extract_lets
      split
      · exact State.setThread_ok h4
      split
      · exact h1
      next e3 => exact accessFault_ok ((writeBytes_leaves h4 _ _ _).of_fault e3) _ _ _ _ _ _
      next e3 => exact State.setThread_ok ((writeBytes_leaves h4 _ _ _).of_ok e3)

theorem execAmoadd_ok {s : State} {d a b sc w} (h : MemoryOk s) : OutOk (execAmoadd d a b sc w s) := amo_ok h

theorem execAmoswap_ok {s : State} {d a b sc w} (h : MemoryOk s) : OutOk (execAmoswap d a b sc w s) := amo_ok h

theorem execAmocas_ok {s : State} {d a b sc w} (h : MemoryOk s) : OutOk (execAmocas d a b sc w s) := amo_ok h

theorem execAmomin_ok {s : State} {d a b sc u w} (h : MemoryOk s) : OutOk (execAmomin d a b sc u w s) := amo_ok h

theorem execAmomax_ok {s : State} {d a b sc u w} (h : MemoryOk s) : OutOk (execAmomax d a b sc u w s) := amo_ok h

theorem execAmoand_ok {s : State} {d a b sc w} (h : MemoryOk s) : OutOk (execAmoand d a b sc w s) := amo_ok h

theorem execAmoor_ok {s : State} {d a b sc w} (h : MemoryOk s) : OutOk (execAmoor d a b sc w s) := amo_ok h

theorem execAmoxor_ok {s : State} {d a b sc w} (h : MemoryOk s) : OutOk (execAmoxor d a b sc w s) := amo_ok h

/-! ### Sys2Proof/Machine/Access -/

theorem fabXl_leaves {s : State} {p core va nd} (h : MemoryOk s) : (fabXl s p core va nd).Leaves MemoryOk := translate_leaves h _ _ _ _ _

theorem rollNow_ok {s : State} {p} (h : MemoryOk s) : MemoryOk (rollNow s p) := State.updPlace_ok h

theorem nodeAccessFault_ok {s : State} {p n code sub va pte write elem cnt} (h : MemoryOk s) :
    MemoryOk (nodeAccessFault s p n code sub va pte write elem cnt) :=
  ite_ok h (ite_ok (rollNow_ok h) (freezeRecord_ok (State.updSite_ok (overLimit_ok h))))

theorem State.updRb_ok {s : State} {p f} (h : MemoryOk s) : MemoryOk (State.updRb s p f) := State.updPlace_ok h

theorem fabBytes_leaves {s : State} {p die lv x n} (h : MemoryOk s) : (fabBytes s p die lv x n).Leaves MemoryOk :=
  Acc.leaves_bind (readBytes_leaves h _ _ _ _) (fun _ _ _ h1 => ite_ok (taint_ok h1) h1)

theorem fabRead_leaves {s : State} {p core hint va n} (h : MemoryOk s) : (fabRead s p core hint va n).Leaves MemoryOk := by
  unfold fabRead
  refine Acc.leaves_bind (fabXl_leaves h) (fun _ ⟨_, _⟩ _ h1 => ?_)
  split
  exact Acc.leaves_bind (fabBytes_leaves h1) (fun _ _ _ h2 => h2)

theorem fabWrite_leaves {s : State} {p core hint va bs} (h : MemoryOk s) : (fabWrite s p core hint va bs).Leaves MemoryOk := by
  unfold fabWrite
  refine Acc.leaves_bind (fabXl_leaves h) (fun _ ⟨_, _⟩ _ h1 => ?_)
  split
  exact writeBytes_leaves h1 _ _ _

theorem askMarks_ok {s : State} {p} (h : MemoryOk s) : MemoryOk (askMarks s p) := State.updPlace_ok h

theorem passMark_ok {s : State} {p n t} (h : MemoryOk s) : MemoryOk (passMark s p n t) := by
  unfold passMark
  exact ite_ok (State.updRb_ok h) h

theorem patchHeld_ok {s : State} {p pa bytes} (h : MemoryOk s) : MemoryOk (patchHeld s p pa bytes) := by
  unfold patchHeld
  exact State.updRb_ok h

theorem holdWrite_leaves {s : State} {p core r h1} (h : MemoryOk s) : (holdWrite s p core r h1).Leaves MemoryOk := by
  unfold holdWrite
  refine Acc.leaves_bind (fabXl_leaves h) (fun _ ⟨_, _⟩ _ h1 => ?_)
  split
  extract_lets _ s2
  have h2 : MemoryOk s2 := State.updRb_ok h1
  exact ite_holds (ite_ok (askMarks_ok h2) h2) (ite_holds h1 trivial)

/-! ### Sys2Proof/Machine/Deques -/

theorem Deque.putExt_leaves {s : State} {q asid x} (h : MemoryOk s) : OptLeaves MemoryOk (Deque.putExt q s asid x) :=
  OptLeaves.intro (fun _ e1 => hwPut_ok h e1)

theorem spill_leaves {s : State} {asid q} (h : MemoryOk s) : OptLeaves (fun r => MemoryOk r.1) (spill s asid q) := by
  unfold spill
  split
  · trivial
  exact (foldlM_leaves (fun _ _ hs => Deque.putExt_leaves hs) h).map (fun _ hs => hs)

theorem execDqpush_ok {s : State} {d a b} (h : MemoryOk s) : OutOk (execDqpush d a b s) := by
  unfold execDqpush
  refine onCur_ok h (fun _ => ?_)
  split
  · exact State.setThread_ok h
  refine ite_ok (State.setThread_ok h) ?_
  refine ite_ok (State.setThread_ok h) ?_
  refine ite_ok (State.setThread_ok (State.updPart_ok h)) ?_
  split
  next e1 => exact State.setThread_ok (State.updPart_ok ((spill_leaves h).of_some e1))
  · exact syncTrap_ok h _ _ _ _ _ _ _

theorem execDqpop_ok {s : State} {d} (h : MemoryOk s) : OutOk (execDqpop d s) := by
  unfold execDqpop
  refine onCur_ok h (fun _ => ?_)
  split
  · exact State.setThread_ok h
  extract_lets
  split
  exact State.setThread_ok (State.setPart_ok h)

theorem execDqextWrite_ok {s : State} {asid die core v} (h : MemoryOk s) : OutOk (execDqextWrite asid die core v s) := by
  unfold execDqextWrite
  split
  · exact h
  · exact ite_holds h (State.setPart_ok h)

theorem sendSteal_ok {s : State} {t d v} (h : MemoryOk s) : MemoryOk (sendSteal s t d v) := by
  unfold sendSteal
  split
  next s1 e1 =>
    have h1 : MemoryOk s1 := ok_of_snd (takeSerial_ok h) e1
    exact sendMessage_ok (State.setThread_ok h1)

theorem execDqsteal_ok {s : State} {d a} (h : MemoryOk s) : OutOk (execDqsteal d a s) := by
  unfold execDqsteal
  refine onCur_ok h (fun _ => ?_)
  split
  · exact State.setThread_ok h
  refine ite_ok (ite_ok (State.setThread_ok h) (sendSteal_ok (State.setPart_ok h))) ?_
  refine ite_ok (State.setThread_ok h) ?_
  exact ite_ok (State.setThread_ok h) (ite_ok (State.setThread_ok h) (sendSteal_ok h))

theorem execStealRequest_ok {s : State} {tid} (h : MemoryOk s) : OutOk (execStealRequest tid s) := by
  unfold execStealRequest
  split
  · exact h
  split
  · exact h
  extract_lets
  split
  extract_lets _ _ _ base1
  have h1 : MemoryOk base1 := State.setPart_ok h
  exact sendMessage_ok h1

theorem execStealResponse_ok {s : State} {tid} (h : MemoryOk s) : OutOk (execStealResponse tid s) := by
  unfold execStealResponse
  split
  · exact h
  refine ite_holds h ?_
  exact State.updThread_ok (sendMessage_ok h)

theorem execStealAck_ok {s : State} {no} (h : MemoryOk s) : OutOk (execStealAck no s) := by
  unfold execStealAck
  split
  · exact h
  extract_lets base
  have h1 : MemoryOk base := State.updPart_ok h
  exact h1

theorem stealEmpty_ok {s : State} {x} (h : MemoryOk s) : MemoryOk (stealEmpty s x) := State.updThread_ok h

theorem stealExpired_ok {s : State} {tid} (h : MemoryOk s) : MemoryOk (stealExpired s tid) := by
  unfold stealExpired
  extract_lets
  split
  · exact h
  · exact ite_ok h (stealEmpty_ok h)

theorem Deque.unsteal_ok {s : State} {q asid e} (h : MemoryOk s) : MemoryOk (Deque.unsteal q s asid e).1 := by
  unfold Deque.unsteal
  split
  · exact h
  extract_lets
  split
  next e1 => exact ok_of_ite e1 (Deque.putExt_leaves h) trivial
  · exact h

theorem stealLost_ok {s : State} {no} (h : MemoryOk s) : MemoryOk (stealLost s no) := by
  unfold stealLost
  split
  · exact h
  extract_lets _ s1
  have h1 : MemoryOk s1 := ite_ok h (stealEmpty_ok h)
  split
  · exact h1
  extract_lets
  split
  · exact h1
  split
  next e1 => exact State.updPart_ok (ok_of_fst (Deque.unsteal_ok h1) e1)

theorem execStealCopyTimeout_ok {s : State} {no} (h : MemoryOk s) : OutOk (execStealCopyTimeout no s) := by
  unfold execStealCopyTimeout
  split
  · exact h
  refine ite_holds h ?_
  split
  next e1 => exact postSupervisor_ok (State.updPart_ok (ok_of_fst (takeRecord_ok h _ _ _) e1))
  · exact h

/-! ### Sys2Proof/Machine/Rings -/

theorem State.setRing_ok {s : State} {r} (h : MemoryOk s) : MemoryOk (State.setRing s r) := h

theorem ringOpen_ok {s : State} {asid block x} (h : MemoryOk s) : MemoryOk (ringOpen s asid block x).1 := by
  unfold ringOpen
  split
  · exact h
  · exact State.setRing_ok (foldl_ok (fun _ _ h1 => evictNow_ok h1) h)

theorem tellWaiter_ok {s : State} {w res} (h : MemoryOk s) : MemoryOk (tellWaiter s w res) := by
  unfold tellWaiter
  split
  · exact State.updThread_ok h
  · exact h
  · exact h

theorem ringReset_ok {s : State} {r} (h : MemoryOk s) : MemoryOk (ringReset s r).1 := by
  unfold ringReset
  extract_lets _ p _ s1
  have h1 : MemoryOk s1 := by
    unfold s1
    clear_value p
    split
    · exact State.setPart_ok h
    · exact h
  exact foldl_ok (fun _ _ h2 => tellWaiter_ok h2) (State.setRing_ok h1)

theorem ringFresh_ok {s : State} {asid block} (h : MemoryOk s) : MemoryOk (ringFresh s asid block) := by
  unfold ringFresh
  split
  · exact ite_ok (ringReset_ok h) h
  · exact h

theorem ringsFresh_ok {s : State} {asid} (h : MemoryOk s) : MemoryOk (ringsFresh s asid) := foldl_ok (fun _ _ h1 => ringFresh_ok h1) h

theorem ringPut_leaves {s : State} {r x b} (h : MemoryOk s) : OptLeaves MemoryOk (ringPut s r x b) := by
  unfold ringPut
  split
  next e1 => exact State.setRing_ok ((writeBytes_leaves h _ _ _).of_ok e1)
  · trivial

theorem freeGranules_ok {s : State} {asid base lgn k n} (h : MemoryOk s) : MemoryOk (freeGranules asid base lgn k s n) := by
  induction k generalizing s n with
  | zero => exact h
  | succ _ ih =>
    unfold freeGranules
    refine ih ?_
    refine getD_ok ?_ h
    refine OptLeaves.intro (fun _ e1 => ?_)
    refine hwPut_ok ?_ e1
    exact h

theorem ringEvents_ok {s : State} {asid block old new} (h : MemoryOk s) : MemoryOk (ringEvents s asid block old new) :=
  ite_ok h (State.setEvents_ok h)

theorem ringAtSlice_leaves {s : State} {asid x who op} (h : MemoryOk s) :
    OptLeaves (fun r => MemoryOk r.1) (ringAtSlice s asid x who op) := by
  unfold ringAtSlice
  split
  next e1 =>
    split
    next s2 _ e2 =>
      have h1 : MemoryOk s2 := (readBytes_leaves (ok_of_fst (ringOpen_ok (ringFresh_ok h)) e1) _ _ _ _).of_ok e2
      refine ite_holds h1 ?_
      refine ite_holds h1 ?_
      split
      extract_lets s3
      have h2 : MemoryOk s3 := by
        unfold s3
        split
        · exact State.setPart_ok h1
        · exact h1
      split
      · trivial
      next e3 => exact ringEvents_ok ((ringPut_leaves h2).of_some e3)
    · trivial

theorem grantWaiters_ok {s : State} {k n n1 b} (h : MemoryOk s) : MemoryOk (grantWaiters k s n n1 b) := by
  induction k generalizing s n n1 b with
  | zero => exact h
  | succ _ ih =>
    unfold grantWaiters
    split
    · exact h
    split
    next s1 _ _ e1 =>
      have h1 : MemoryOk s1 := (readBytes_leaves h _ _ _ _).of_ok e1
      extract_lets
      split
      split
      · exact h
      extract_lets _ s2
      have h2 : MemoryOk s2 := by
        unfold s2
        split
        · exact State.setPart_ok h1
        · exact h1
      split
      · exact h
      next s' e2 =>
        have h3 : MemoryOk s' := (ringPut_leaves h2).of_some e2
        refine ih ?_
        split
        · split
          · exact ite_ok (acquireAt_ok (tellWaiter_ok (ringEvents_ok h3))) (tellWaiter_ok (ringEvents_ok h3))
          · exact tellWaiter_ok (ringEvents_ok h3)
        · exact tellWaiter_ok (ringEvents_ok h3)
    · exact h

theorem execRingWaitGrant_ok {s : State} {asid block claims} (h : MemoryOk s) : OutOk (execRingWaitGrant asid block claims s) :=
  grantWaiters_ok (ringFresh_ok h)

theorem execRingReinit_ok {s : State} {asid block} (h : MemoryOk s) : OutOk (execRingReinit asid block s) := ringFresh_ok h

theorem execRingOpAtSlice_ok {s : State} {asid op who} (h : MemoryOk s) : OutOk (execRingOpAtSlice asid op who s) := by
  unfold execRingOpAtSlice
  split
  next e1 =>
    refine ite_holds h ?_
    split
    · exact h
    next e2 => exact tellWaiter_ok ((ringAtSlice_leaves ((translate_leaves h _ _ _ _ _).of_ok e1)).of_some e2)
  · exact h

theorem ringReadFault_leaves {s : State} {asid block x} (h : MemoryOk s) :
    OptLeaves (fun r => MemoryOk r.1) (ringReadFault s asid block x) := by
  unfold ringReadFault
  extract_lets
  split
  next e1 => exact (readBytes_leaves h _ _ _ _).of_fault e1
  · trivial

theorem ringInstr_ok {s : State} {fn d op pair t0} (h : MemoryOk s) : MemoryOk (ringInstr fn d op pair s t0) := by
  unfold ringInstr
  refine ite_ok (misaligned_ok h) ?_
  split
  · exact State.setThread_ok h
  refine ite_ok (State.setThread_ok h) ?_
  split
  · exact h
  next e1 => exact accessFault_ok ((threadXl_leaves h _ _ _).of_fault e1) _ _ _ _ _ _
  next s' _ _ e1 =>
    have h1 : MemoryOk s' := (threadXl_leaves h _ _ _).of_ok e1
    split
    · split
      next e2 => exact accessFault_ok ((ringReadFault_leaves h1).of_some e2) _ _ _ _ _ _
      · exact h
    next e3 => exact stir_ok (State.updThread_ok ((ringAtSlice_leaves (State.setThread_ok h1)).of_some e3))
    next e3 => exact State.updThread_ok ((ringAtSlice_leaves (State.setThread_ok h1)).of_some e3)
    next s2 _ _ _ e3 =>
      have h2 : MemoryOk s2 := (ringAtSlice_leaves (State.setThread_ok h1)).of_some e3
      split
      · exact State.updThread_ok h2
      · exact State.updThread_ok (acquireAt_ok h2)
      · exact State.updThread_ok h2

theorem execRclaim_ok {s : State} {d a b} (h : MemoryOk s) : OutOk (execRclaim d a b s) := onCur_ok h (fun _ => ringInstr_ok h)

theorem execRcommit_ok {s : State} {d a b} (h : MemoryOk s) : OutOk (execRcommit d a b s) :=
  onCur_ok h (fun _ => syncPoint_ok h _ _ (fun _ _ h1 => ringInstr_ok h1))

theorem execRwait_ok {s : State} {d a b} (h : MemoryOk s) : OutOk (execRwait d a b s) := onCur_ok h (fun _ => ringInstr_ok h)

theorem execRretire_ok {s : State} {d a b} (h : MemoryOk s) : OutOk (execRretire d a b s) :=
  onCur_ok h (fun _ => syncPoint_ok h _ _ (fun _ _ h1 => ringInstr_ok h1))

/-! ### Sys2Proof/Machine/Package -/

theorem State.updPkg_ok {s : State} {f} (h : MemoryOk s) : MemoryOk (State.updPkg s f) := h

theorem setStage_ok {s : State} {n due} (h : MemoryOk s) : MemoryOk (setStage s n due) := State.updPkg_ok h

theorem bootFail_ok {s : State} {cause} (h : MemoryOk s) : MemoryOk (bootFail s cause) := by
  unfold bootFail
  exact State.updPkg_ok h

theorem execPowerOnReset_ok {s : State} : OutOk (execPowerOnReset s) := ⟨rfl, rfl⟩

theorem execEthernetLinkUp_ok {s : State} {io} (h : MemoryOk s) : OutOk (execEthernetLinkUp io s) := by
  unfold execEthernetLinkUp
  extract_lets s1
  have h1 : MemoryOk s1 := State.updPkg_ok h
  exact ite_ok (setStage_ok h1) h1

theorem execBootLinkTimeout_ok {s : State} (h : MemoryOk s) : OutOk (execBootLinkTimeout s) := ite_ok (bootFail_ok h) h

theorem execBootDhcpOffer_ok {s : State} {http} (h : MemoryOk s) : OutOk (execBootDhcpOffer http s) :=
  ite_ok (State.updPkg_ok (setStage_ok h)) h

theorem execBootDhcpTimeout_ok {s : State} (h : MemoryOk s) : OutOk (execBootDhcpTimeout s) := ite_ok (bootFail_ok h) h

theorem imageStart_ok {s : State} {img} (h : MemoryOk s) : MemoryOk (imageStart s img) := by
  obtain ⟨hm, hr⟩ := h
  unfold imageStart
  extract_lets _ s1
  have h1 : MemoryOk s1 := ⟨hm, memWrite_wf hr⟩
  exact State.updThread_ok (State.updPkg_ok h1)

theorem execBootImageFetched_ok {s : State} {ok img} (h : MemoryOk s) : OutOk (execBootImageFetched ok img s) := by
  unfold execBootImageFetched
  refine ite_ok ?_ h
  refine ite_ok (bootFail_ok h) ?_
  exact ite_ok (imageStart_ok h) (bootFail_ok h)

theorem execBootRetryTimer_ok {s : State} (h : MemoryOk s) : OutOk (execBootRetryTimer s) := ite_ok (State.updPkg_ok (setStage_ok h)) h

theorem dieLost_ok {s : State} {die} (h : MemoryOk s) : MemoryOk (dieLost s die) := h

theorem execCoreRailUndervolt_ok {s : State} {die} (h : MemoryOk s) : OutOk (execCoreRailUndervolt die s) := State.updPkg_ok (dieLost_ok h)

theorem execCoreRailUp_ok {s : State} {die} (h : MemoryOk s) : OutOk (execCoreRailUp die s) := State.updPkg_ok h

theorem thermalTrip_ok {s : State} {hot temp} (h : MemoryOk s) : MemoryOk (thermalTrip hot temp s) := by
  have hmem : (thermalTrip hot temp s).mem = s.mem := by rw [thermalTrip]
  have hsram : (thermalTrip hot temp s).sram = s.sram := by rw [thermalTrip]
  rw [MemoryOk, hmem, hsram]
  exact h

theorem execThermalTrip_ok {s : State} {hot temp} (h : MemoryOk s) : OutOk (execThermalTrip hot temp s) := thermalTrip_ok h

theorem execPowerSample_ok {s : State} {r} (h : MemoryOk s) : OutOk (execPowerSample r s) := by
  unfold execPowerSample
  exact ite_holds (thermalTrip_ok (State.updPkg_ok h)) (State.updPkg_ok h)

theorem execPwrcapWrite_ok {s : State} {v} (h : MemoryOk s) : OutOk (execPwrcapWrite v s) := by
  unfold execPwrcapWrite
  refine ite_holds h ?_
  exact State.updPkg_ok h

theorem execRailSetFrame_ok {s : State} {die code} (h : MemoryOk s) : OutOk (execRailSetFrame die code s) := State.updPkg_ok h

theorem execRailFrameRepeat_ok {s : State} (h : MemoryOk s) : OutOk (execRailFrameRepeat s) := by
  unfold execRailFrameRepeat
  split
  · exact h
  · exact ite_ok (State.updPkg_ok h) h

theorem execPcieLinkTrain_ok {s : State} {io gen width} (h : MemoryOk s) : OutOk (execPcieLinkTrain io gen width s) :=
  ite_ok (State.updPkg_ok h) h

theorem execHbm4eStackTrained_ok {s : State} {n} (h : MemoryOk s) : OutOk (execHbm4eStackTrained n s) := State.updPkg_ok h

theorem execFabricDieTrained_ok {s : State} {die} (h : MemoryOk s) : OutOk (execFabricDieTrained die s) := ite_ok h (State.updPkg_ok h)

theorem wordError_ok {s : State} {w hard} (h : MemoryOk s) : MemoryOk (wordError w hard s) := ite_ok h (ite_ok h h)

theorem outsideAct_ok {s : State} {a} (h : MemoryOk s) : MemoryOk (outsideAct a s) := by
  unfold outsideAct
  split
  · exact ite_ok h (State.updPkg_ok h)
  · exact State.updPkg_ok h
  · exact ite_ok (State.updPkg_ok h) h
  · exact ite_ok (State.updPkg_ok h) h
  · exact ite_ok (State.updPkg_ok h) h
  · exact wordError_ok h
  · exact h

theorem execOtpRevokeBlow_ok {s : State} {slot} (h : MemoryOk s) : OutOk (execOtpRevokeBlow slot s) := by
  unfold execOtpRevokeBlow
  exact ite_ok h (State.updPkg_ok h)

theorem execOtpSvnBlow_ok {s : State} {bit} (h : MemoryOk s) : OutOk (execOtpSvnBlow bit s) := State.updPkg_ok h

theorem execAttreqErrClear_ok {s : State} (h : MemoryOk s) : OutOk (execAttreqErrClear s) := State.updPkg_ok h

theorem execAttreqReport_ok {s : State} {v} (h : MemoryOk s) : OutOk (execAttreqReport v s) := by
  unfold execAttreqReport
  refine ite_holds (execAttreqErrClear_ok h) ?_
  refine ite_holds (State.updPkg_ok h) ?_
  exact State.updPkg_ok h

theorem execAttestReportDone_ok {s : State} (h : MemoryOk s) : OutOk (execAttestReportDone s) := by
  unfold execAttestReportDone
  split
  · exact h
  · exact State.updPkg_ok (llcPutAll_ok h)

theorem State.setRport_ok {s : State} {io p r} (h : MemoryOk s) : MemoryOk (State.setRport s io p r) := State.updPkg_ok h

theorem pushDone_ok {s : State} {io p job status} (h : MemoryOk s) : MemoryOk (pushDone s io p job status) := by
  unfold pushDone
  split <;> exact State.updPkg_ok (State.setRport_ok h)

theorem hostPosted_ok {s : State} {io p hv staged} (h : MemoryOk s) : MemoryOk (hostPosted io p hv staged s) := by
  unfold hostPosted
  refine foldl_ok (fun _ _ h1 => outsideAct_ok h1) ?_
  split
  · exact outsideAct_ok h
  · exact h

theorem execRppushWrite_ok {s0 : State} {io p v hv staged} (h : MemoryOk s0) : OutOk (execRppushWrite io p v hv staged s0) := by
  unfold execRppushWrite
  extract_lets s
  have h1 : MemoryOk s := hostPosted_ok h
  exact ite_holds h1 (ite_holds (State.setRport_ok h1) (ite_holds (pushDone_ok h1) (State.setRport_ok h1)))

theorem execUdpHello_ok {s : State} {io mac to_ bytes} (h : MemoryOk s) : OutOk (execUdpHello io mac to_ bytes s) := by
  unfold execUdpHello
  exact ite_holds h (State.updPkg_ok h)

theorem execUdpPush_ok {s : State} {io mac addr port bytes} (h : MemoryOk s) : OutOk (execUdpPush io mac addr port bytes s) := by
  unfold execUdpPush
  refine ite_holds h ?_
  split
  · exact State.updPkg_ok h
  · exact ite_holds (State.setRport_ok h) (State.setRport_ok h)

theorem copyGranules_leaves {s : State} {asid base lgn k n l} (h : MemoryOk s) :
    OptLeaves MemoryOk (copyGranules asid base lgn k s n l) := by
  induction k generalizing s n l with
  | zero => exact h
  | succ _ ih =>
    unfold copyGranules
    split
    · trivial
    next e1 => exact ih (hwPut_ok h e1)

theorem voidAt_ok {s0 : State} {asid block pos} (h : MemoryOk s0) : MemoryOk (voidAt s0 asid block pos) := by
  unfold voidAt
  extract_lets s
  have h1 : MemoryOk s := ringFresh_ok h
  split
  · exact h1
  split
  next s1 _ e1 =>
    have h2 : MemoryOk s1 := (readBytes_leaves h1 _ _ _ _).of_ok e1
    extract_lets _ claim s2
    have h3 : MemoryOk s2 := by
      unfold s2
      clear_value claim
      split
      · exact State.updPart_ok h2
      · exact h2
    split
    split
    next s2_1 e2 =>
      have h4 : MemoryOk s2_1 := (ringPut_leaves h3).of_some e2
      extract_lets s4
      have h5 : MemoryOk s4 := by
        unfold s4
        clear_value claim
        split
        · exact freeGranules_ok h4
        · exact h4
      exact ringEvents_ok h5
    · exact h1
  · exact h1

theorem pushCopy_ok {s0 : State} {io p job asid block scope pos} (h : MemoryOk s0) :
    MemoryOk (pushCopy s0 io p job asid block scope pos) := by
  unfold pushCopy
  extract_lets s
  have h1 : MemoryOk s := ringFresh_ok h
  split
  · exact pushDone_ok h1
  refine ite_ok (pushDone_ok h1) ?_
  refine ite_ok (pushDone_ok (voidAt_ok h1)) ?_
  split
  next e1 =>
    extract_lets
    split
    · exact pushDone_ok (voidAt_ok h1)
    next s' e2 =>
      have h2 : MemoryOk s' := (copyGranules_leaves ((readBytes_leaves h1 _ _ _ _).of_ok e1)).of_some e2
      split
      next e3 => exact pushDone_ok (stir_ok ((ringAtSlice_leaves h2).of_some e3))
      next e3 => exact pushDone_ok ((ringAtSlice_leaves h2).of_some e3)
      · exact h1
  · exact h1

theorem execRingAgentPush_ok {s : State} {io p} (h : MemoryOk s) : OutOk (execRingAgentPush io p s) := by
  unfold execRingAgentPush
  extract_lets
  split
  · exact ite_holds (pushDone_ok h) (pushCopy_ok h)
  · exact h
  split
  · exact h
  extract_lets s1
  have h1 : MemoryOk s1 := State.setRport_ok h
  refine ite_holds (pushDone_ok h1) ?_
  split
  · exact h
  · exact pushDone_ok h1
  next s' _ _ e1 =>
    have h2 : MemoryOk s' := (translate_leaves h1 _ _ _ _ _).of_ok e1
    split
    · exact ite_holds (pushDone_ok h1) h
    next e2 => exact pushDone_ok ((ringAtSlice_leaves (stir_ok h2)).of_some e2)
    next e2 => exact State.setRport_ok ((ringAtSlice_leaves (stir_ok h2)).of_some e2)
    next e2 => exact pushCopy_ok ((ringAtSlice_leaves (stir_ok h2)).of_some e2)

theorem execRpbind2Write_ok {s : State} {io v} (h : MemoryOk s) : OutOk (execRpbind2Write io v s) := by
  unfold execRpbind2Write
  exact State.setRport_ok h

/-! ### Sys2Proof/Machine/Scopes -/

theorem onPart_ok {s : State} {absent : State} {t f} (h_absent : MemoryOk absent) (hf : ∀ x0, MemoryOk (f x0)) :
    MemoryOk (onPart s t absent f) := by
  unfold onPart
  split
  · exact h_absent
  · exact hf _

theorem execScopen_ok {s : State} {d} (h : MemoryOk s) : OutOk (execScopen d s) := by
  unfold execScopen
  refine onCur_ok h (fun _ => ?_)
  refine onPart_ok (State.setThread_ok h) (fun _ => ?_)
  refine ite_ok (State.setThread_ok h) ?_
  refine ite_ok (State.setThread_ok h) ?_
  refine ite_ok (State.setThread_ok h) ?_
  exact State.setThread_ok (State.setPart_ok h)

theorem execScclose_ok {s : State} {d a} (h : MemoryOk s) : OutOk (execScclose d a s) := by
  unfold execScclose
  refine onCur_ok h (fun _ => ?_)
  extract_lets s1
  have h1 : MemoryOk s1 := ringsFresh_ok h
  refine onPart_ok (State.updThread_ok h1) (fun _ => ?_)
  refine ite_ok (State.updThread_ok h1) ?_
  refine ite_ok (State.updThread_ok h1) ?_
  split
  · exact State.updThread_ok h1
  refine ite_ok (State.updThread_ok h1) ?_
  exact State.updThread_ok (foldl_ok (fun _ _ h2 => State.updThread_ok (abandonRing_ok h2)) (State.setPart_ok h1))

theorem execScset_ok {s : State} {d a} (h : MemoryOk s) : OutOk (execScset d a s) := by
  unfold execScset
  refine onCur_ok h (fun _ => ?_)
  extract_lets _ bad
  have h1 : MemoryOk bad := State.setThread_ok h
  exact onPart_ok h1 (fun _ => ite_ok h1 (State.setThread_ok h))

theorem execCwait_ok {s : State} {d a} (h : MemoryOk s) : OutOk (execCwait d a s) := by
  unfold execCwait
  refine onCur_ok h (fun _ => ?_)
  extract_lets _ stale
  have h1 : MemoryOk stale := State.setThread_ok h
  refine onPart_ok h1 (fun _ => ?_)
  refine ite_ok (State.setThread_ok h) ?_
  split
  · exact h1
  · exact ite_ok (State.setThread_ok (acquireAt_ok h)) (waitIn_ok h)

theorem tellBarrier_ok {s : State} {asid b ph} (h : MemoryOk s) : MemoryOk (tellBarrier s asid b ph) := h

theorem execBarinit_ok {s : State} {d a b} (h : MemoryOk s) : OutOk (execBarinit d a b s) := by
  unfold execBarinit
  refine onCur_ok h (fun _ => ?_)
  refine onPart_ok (State.setThread_ok h) (fun _ => ?_)
  refine ite_ok (State.setThread_ok h) ?_
  refine ite_ok (State.setThread_ok h) ?_
  refine ite_ok (State.setThread_ok h) ?_
  extract_lets _ _ s1
  have h1 : MemoryOk s1 := State.setPart_ok h
  exact ite_ok (State.setThread_ok h1) (State.updThread_ok (State.setEvents_ok h1))

theorem execBararr_ok {s : State} {d a} (h : MemoryOk s) : OutOk (execBararr d a s) := by
  unfold execBararr
  refine onCur_ok h (fun _ => ?_)
  refine syncPoint_ok h _ _ (fun _ _ h1 => ?_)
  refine onPart_ok (State.updThread_ok h1) (fun _ => ?_)
  refine ite_ok (State.updThread_ok h1) ?_
  refine ite_ok (State.updThread_ok h1) ?_
  refine ite_ok (State.updThread_ok h1) ?_
  refine ite_ok (State.updThread_ok h1) ?_
  split
  · exact State.updThread_ok h1
  refine ite_ok (State.updThread_ok h1) ?_
  refine ite_ok ?_ (State.updThread_ok (State.setPart_ok h1))
  exact State.updThread_ok (State.setEvents_ok (State.setPart_ok (tellBarrier_ok h1)))

theorem execBarwait_ok {s : State} {d a b} (h : MemoryOk s) : OutOk (execBarwait d a b s) := by
  unfold execBarwait
  refine onCur_ok h (fun _ => ?_)
  refine onPart_ok (State.setThread_ok h) (fun _ => ?_)
  refine ite_ok (State.setThread_ok h) ?_
  split
  · exact State.setThread_ok (acquireAt_ok h)
  · exact ite_ok (State.setThread_ok h) (ite_ok (State.setThread_ok (acquireAt_ok h)) (waitIn_ok h))

theorem bumpTicket_ok {s : State} {key i n} (h : MemoryOk s) : MemoryOk (bumpTicket s key i n) := State.updPart_ok h

/-! ### Sys2Proof/Machine/Net -/

theorem raiseVerdict_ok {s : State} {who v} (h : MemoryOk s) : MemoryOk (raiseVerdict s who v) := by
  unfold raiseVerdict
  split
  · split
    · exact ite_ok h (State.updTask_ok h)
    · exact h
  · split
    · exact State.updTask_ok h
    · exact h
  · split
    · exact State.updTask_ok h
    · exact h
  · split
    · exact State.updTask_ok h
    · exact h
  · exact h
  · split
    · exact State.updTask_ok h
    · exact h
  · exact h
  · exact h

theorem countLoss_ok {s : State} {t} (h : MemoryOk s) : MemoryOk (countLoss s t) := by
  unfold countLoss
  split
  · exact bumpTicket_ok h
  · exact h

theorem threadLoss_ok {s : State} {t va write n} (h : MemoryOk s) : MemoryOk (threadLoss s t va write n) := by
  unfold threadLoss
  refine ite_ok (stealExpired_ok h) ?_
  refine ite_ok (countLoss_ok h) ?_
  refine ite_ok h ?_
  refine ite_ok (doubleTrap_ok h _ _) ?_
  split
  next e1 => exact syncTrap_ok (ok_of_fst (scalarRecord_ok h _ _) e1) _ _ _ _ _ _ _

theorem offGen_ok {s : State} {place port elem} (h : MemoryOk s) : MemoryOk (offGen s place port elem) :=
  State.offTransit_ok (State.offTransit_ok (State.offTransit_ok h))

theorem genLoss_ok {s : State} {place port elem n} (h : MemoryOk s) : MemoryOk (genLoss s place port elem n) := by
  have h1 : MemoryOk (offGen s place port elem) := offGen_ok h
  simpa only [MemoryOk, genLoss] using h1

theorem agentLoss_ok {s : State} {io p} (h : MemoryOk s) : MemoryOk (agentLoss s io p) := by
  unfold agentLoss
  split
  · exact pushDone_ok (voidAt_ok h)
  · exact pushDone_ok h
  · exact h

theorem sliceLoss_ok {s : State} {no n} (h : MemoryOk s) : MemoryOk (sliceLoss s no n) := by
  unfold sliceLoss
  extract_lets s1
  have h1 : MemoryOk s1 := State.offTransit_ok (State.offTransit_ok h)
  split
  · exact h1
  refine ite_ok (ite_ok (sendMessage_ok h1) (ite_ok (sendMessage_ok h1) h1)) ?_
  exact foldl_ok (fun _ _ h2 => genLoss_ok (dropTimers_ok h2)) h1

theorem countPlaceLoss_ok {s : State} {p} (h : MemoryOk s) : MemoryOk (countPlaceLoss s p) := by
  unfold countPlaceLoss
  split
  · exact bumpTicket_ok h
  · exact h

theorem dropKept_ok {s : State} {a} (h : MemoryOk s) : MemoryOk (dropKept s a) := State.updNet_ok h

theorem lineLost_ok {s : State} {a c n} (h : MemoryOk s) : MemoryOk (lineLost s a c n) := by
  unfold lineLost
  extract_lets s1
  have h1 : MemoryOk s1 := State.offTransit_ok (State.offTransit_ok (State.offTransit_ok h))
  split
  · exact dropKept_ok h1
  split
  · exact dropKept_ok h1
  refine ite_ok (countPlaceLoss_ok (dropKept_ok h1)) ?_
  exact ite_ok (rollNow_ok h1) (freezeRecord_ok (State.updNet_ok (overLimit_ok h1)))

theorem nodeLoss_ok {s : State} {p n i} (h : MemoryOk s) : MemoryOk (nodeLoss s p n i) := by
  unfold nodeLoss
  refine ite_ok (countPlaceLoss_ok h) ?_
  exact ite_ok h (ite_ok (rollNow_ok h) (freezeRecord_ok (State.updSite_ok (overLimit_ok h))))

theorem raiseLoss_ok {s : State} {who n} (h : MemoryOk s) : MemoryOk (raiseLoss s who n) := by
  unfold raiseLoss
  split
  · exact h
  · split
    · exact nodeLoss_ok h
    · exact h
  · refine ite_ok (stealExpired_ok h) ?_
    split
    · refine ite_ok (threadLoss_ok h) ?_
      split
      · exact threadLoss_ok h
      · exact h
    · exact h
  · exact genLoss_ok h
  · exact agentLoss_ok h
  · extract_lets base
    have h1 : MemoryOk base := State.offTransit_ok h
    exact h1
  · exact sliceLoss_ok h
  · exact lineLost_ok h
  · exact lineLost_ok h

theorem cargoLoss_ok {s : State} {c n} (h : MemoryOk s) : MemoryOk (cargoLoss s c n) := by
  unfold cargoLoss
  split
  · exact genLoss_ok (dropTimers_ok h)
  · exact genLoss_ok (dropTimers_ok h)
  · exact genLoss_ok (dropTimers_ok h)
  · exact raiseLoss_ok (dropTimers_ok h)
  · exact raiseLoss_ok (dropTimers_ok h)
  · exact raiseLoss_ok (dropTimers_ok h)
  · exact raiseLoss_ok (dropTimers_ok h)
  · refine stealLost_ok ?_
    split
    · exact dropTimers_ok (State.offTransit_ok (State.offTransit_ok h))
    · exact State.offTransit_ok (State.offTransit_ok h)
  · refine stealLost_ok ?_
    split
    · exact dropTimers_ok (State.offTransit_ok (State.offTransit_ok h))
    · exact State.offTransit_ok (State.offTransit_ok h)
  · exact sliceLoss_ok (dropTimers_ok h)
  · exact sliceLoss_ok (dropTimers_ok h)
  · extract_lets base
    have h1 : MemoryOk base := State.offTransit_ok h
    exact h1
  · exact State.updNet_ok (State.offTransit_ok h)
  · exact State.updNet_ok (State.offTransit_ok h)

theorem lossOf_ok {s : State} {n} (h : MemoryOk s) : MemoryOk (lossOf s n) := by
  unfold lossOf
  extract_lets s1
  have h1 : MemoryOk s1 := State.updNet_ok h
  split
  · exact cargoLoss_ok h1
  · exact raiseLoss_ok (dropTimers_ok h1)
  · exact raiseLoss_ok h1
  · exact h1

theorem joinPorts_ok {s : State} {io} (h : MemoryOk s) : MemoryOk (joinPorts s io) := State.updPkg_ok h

theorem encodeAt_leaves {s : State} {m cargo} (h : MemoryOk s) : OptLeaves MemoryOk (encodeAt s m cargo) := by
  unfold encodeAt
  extract_lets s0
  have h1 : MemoryOk s0 := ite_ok (joinPorts_ok h) h
  split
  · exact raiseLoss_ok h1
  · exact ite_holds trivial (sendUnder_ok h1)

theorem execMessageEncode_ok {s : State} {m} (h : MemoryOk s) : OutOk (execMessageEncode m s) := ite_holds h (getD_ok (encodeAt_leaves h) h)

theorem openSlot_ok {s : State} {f} (h : MemoryOk s) : MemoryOk (openSlot s f) := by
  unfold openSlot
  exact State.updNet_ok h

theorem takeFragment_ok {s : State} {f} (h : MemoryOk s) : MemoryOk (takeFragment s f) := by
  unfold takeFragment
  refine ite_ok (State.updNet_ok h) ?_
  exact ite_ok (State.updNet_ok h) (ite_ok (State.updNet_ok h) (ite_ok (State.updNet_ok h) (openSlot_ok h)))

theorem discard_ok {s : State} {key} (h : MemoryOk s) : MemoryOk (discard s key) := State.updNet_ok h

theorem execFragmentArrive_ok {s : State} {i plane errs} (h : MemoryOk s) : OutOk (execFragmentArrive i plane errs s) := by
  unfold execFragmentArrive
  split
  · exact h
  refine ite_holds h ?_
  extract_lets s1
  have h1 : MemoryOk s1 := State.updNet_ok h
  exact ite_holds (State.updNet_ok (discard_ok h1)) (ite_holds (discard_ok h1) (takeFragment_ok h1))

theorem answerHome_ok {s : State} {io place port elem control body} (h : MemoryOk s) :
    MemoryOk (answerHome s io place port elem control body) := by
  unfold answerHome
  split
  · exact dropTimers_ok h
  · exact sendMessage_ok h

theorem lineAck_ok {s : State} {key a} (h : MemoryOk s) : MemoryOk (lineAck s key a) := sendMessage_ok h

theorem landCargo_leaves {s : State} {key seq body c} (h : MemoryOk s) : OptLeaves MemoryOk (landCargo s key seq body c) := by
  unfold landCargo
  refine ite_holds h ?_
  split
  · exact dropTimers_ok h
  · split
    · exact h
    · exact encodeAt_leaves h
  · exact dropTimers_ok h
  · exact lineAck_ok h
  · exact lineAck_ok h
  · exact dropKept_ok (dropTimers_ok h)
  · split
    · exact dropTimers_ok h
    · exact h
  · exact dropTimers_ok h
  · exact h
  · exact h
  · exact h
  · exact h
  · exact h
  · exact h

theorem remoteAnswer_ok {s : State} {key body} (h : MemoryOk s) : MemoryOk (remoteAnswer s key body) := by
  unfold remoteAnswer
  split
  · exact h
  refine ite_ok h ?_
  split
  · exact answerHome_ok h
  · exact dropTimers_ok h

theorem execMessageDeliver_ok {s : State} {k} (h : MemoryOk s) : OutOk (execMessageDeliver k s) := by
  unfold execMessageDeliver
  split
  · exact h
  refine ite_holds h ?_
  extract_lets _ _ cargo _ s1 s2
  have h1 : MemoryOk s1 := State.updNet_ok h
  have h2 : MemoryOk s2 := by
    unfold s2
    split
    · exact ite_ok (raiseVerdict_ok (stirAgent_ok h1)) (stirAgent_ok h1)
    · exact stirAgent_ok h1
  clear_value cargo
  split
  · exact getD_ok (landCargo_leaves h2) h
  · exact remoteAnswer_ok h2

theorem execIngressSlotAdmit_ok {s : State} {i} (h : MemoryOk s) : OutOk (execIngressSlotAdmit i s) := by
  unfold execIngressSlotAdmit
  split
  · exact h
  refine ite_holds h ?_
  exact takeFragment_ok (State.updNet_ok h)

theorem sendNotice_ok {s : State} {d} (h : MemoryOk s) : MemoryOk (sendNotice s d) := by
  unfold sendNotice
  split
  next e1 => exact getD_ok (encodeAt_leaves (State.updNet_ok (ok_of_snd (takeSerial_ok h) e1))) h

theorem execDecodeTimeout_ok {s : State} {k} (h : MemoryOk s) : OutOk (execDecodeTimeout k s) := by
  unfold execDecodeTimeout
  split
  · exact h
  refine ite_holds h ?_
  exact sendNotice_ok (State.updNet_ok h)

theorem retransmit_ok {s : State} {r} (h : MemoryOk s) : MemoryOk (retransmit s r) := by
  unfold retransmit
  exact ite_ok (lossOf_ok h) (State.updNet_ok h)

theorem execLossNoticeReceive_ok {s : State} {i} (h : MemoryOk s) : OutOk (execLossNoticeReceive i s) := by
  unfold execLossNoticeReceive
  split
  · exact h
  refine ite_holds h ?_
  extract_lets s1
  have h1 : MemoryOk s1 := State.updNet_ok h
  split
  · exact retransmit_ok h1
  · exact lossOf_ok h1

theorem orphan_ok {s : State} {who} (h : MemoryOk s) : MemoryOk (orphan s who) := by
  unfold orphan
  split <;> exact h

theorem expiryLoss_ok {s : State} {who n} (h : MemoryOk s) : MemoryOk (expiryLoss s who n) := by
  unfold expiryLoss
  split
  · exact orphan_ok h
  · exact raiseLoss_ok h

theorem execResponseTimerExpire_ok {s : State} {i} (h : MemoryOk s) : OutOk (execResponseTimerExpire i s) := by
  unfold execResponseTimerExpire
  split
  · exact h
  refine ite_holds h ?_
  exact expiryLoss_ok (dropTimers_ok (State.updNet_ok h))

theorem setCode_ok {s : State} {io idx f} (h : MemoryOk s) : MemoryOk (setCode s io idx f) := State.updPkg_ok h

theorem execSprcodeErrClear_ok {s : State} {io idx} (h : MemoryOk s) : OutOk (execSprcodeErrClear io idx s) := setCode_ok h

theorem execSprcodeWrite_ok {s : State} {io idx v} (h : MemoryOk s) : OutOk (execSprcodeWrite io idx v s) := by
  unfold execSprcodeWrite
  refine ite_holds (setCode_ok h) ?_
  refine ite_holds (setCode_ok h) ?_
  exact State.updPkg_ok (setCode_ok h)

theorem execSprcntWrite_ok {s : State} {idx} (h : MemoryOk s) : OutOk (execSprcntWrite idx s) := by
  unfold execSprcntWrite
  split
  exact State.updNet_ok h

theorem execBrosumAckSend_ok {s : State} {dst src} (h : MemoryOk s) : OutOk (execBrosumAckSend dst src s) := by
  unfold execBrosumAckSend
  extract_lets
  split
  · exact h
  refine ite_holds h ?_
  split
  next e1 => exact getD_ok (encodeAt_leaves (State.updNet_ok (ok_of_snd (takeSerial_ok h) e1))) h

theorem execBrosumAckReceive_ok {s : State} {i} (h : MemoryOk s) : OutOk (execBrosumAckReceive i s) := by
  unfold execBrosumAckReceive
  split
  · exact h
  · exact ite_holds h (State.updNet_ok h)

theorem execBrosumRetainTimeout_ok {s : State} {i} (h : MemoryOk s) : OutOk (execBrosumRetainTimeout i s) := by
  unfold execBrosumRetainTimeout
  split
  · exact h
  · exact ite_holds h (ite_holds (retransmit_ok h) (lossOf_ok h))

theorem execBrosumPortTrain_ok {s : State} {p lanes cap} (h : MemoryOk s) : OutOk (execBrosumPortTrain p lanes cap s) := by
  unfold execBrosumPortTrain
  exact State.updPkg_ok h

theorem execBrosumPortDown_ok {s : State} {p} (h : MemoryOk s) : OutOk (execBrosumPortDown p s) := by
  unfold execBrosumPortDown
  exact State.updNet_ok (State.updPkg_ok h)

/-! ### Sys2Proof/Machine/Meet -/

theorem siteCtx_leaves {s : State} {n op w} (h : MemoryOk s) : OptLeaves (fun c => MemoryOk c.s) (siteCtx s n op w) := by
  unfold siteCtx
  split
  · split
    · exact ite_holds trivial h
    · trivial
  · trivial

theorem Ctx.fail_ok {c : Ctx} {code} (h : MemoryOk c.s) : MemoryOk (Ctx.fail c code) := nodeFault_ok h

theorem Ctx.done_ok {c : Ctx} {eat out st fl f} (h : MemoryOk c.s) : MemoryOk (Ctx.done c eat out st fl f) := State.updSite_ok h

theorem gatherFlags_ok {s : State} {p seg fl} (h : MemoryOk s) : MemoryOk (gatherFlags s p seg fl) := by
  unfold gatherFlags
  refine ite_ok h ?_
  extract_lets _ s1
  have h1 : MemoryOk s1 := State.updPlace_ok h
  exact ite_ok h1 (State.updTask_ok h1)

theorem killStep_ok {c : Ctx} {h1 ins} (h : MemoryOk c.s) : MemoryOk (killStep c h1 ins) := by
  unfold killStep
  exact ite_ok (State.updSite_ok h) (State.updSite_ok h)

theorem frameStep_ok {c : Ctx} {h1 ins t} (h : MemoryOk c.s) : MemoryOk (frameStep c h1 ins t) := by
  unfold frameStep
  split
  · exact ite_ok (Ctx.fail_ok h) (Ctx.done_ok h)
  · refine ite_ok (Ctx.fail_ok h) ?_
    refine ite_ok (Ctx.fail_ok h) ?_
    split
    extract_lets
    split
    · exact Ctx.fail_ok h
    · exact Ctx.done_ok h
  · refine ite_ok (Ctx.fail_ok h) ?_
    refine ite_ok (Ctx.fail_ok h) ?_
    split
    · exact h
    · exact Ctx.fail_ok h
    · exact gatherFlags_ok (Ctx.done_ok h)
  · exact ite_ok (Ctx.fail_ok h) (Ctx.done_ok h)

theorem checkHeads_ok {c : Ctx} {ins} (h : MemoryOk c.s) : MemoryOk (checkHeads c ins).s := by
  unfold checkHeads
  refine List.foldlRecOn ins _ (motive := fun c : Ctx => MemoryOk c.s) h (fun c hc i _ => ?_)
  split
  · exact hc
  split
  · exact hc
  · exact inspect_ok hc

theorem nudge_ok {s : State} {n line} (h : MemoryOk s) : MemoryOk (nudge s n line) := by
  unfold nudge
  split
  · exact ite_ok (wakeSite_ok h) h
  · exact h

theorem meet_ok {c0 : Ctx} {h1} (h : MemoryOk c0.s) : MemoryOk (meet c0 h1) := by
  unfold meet
  extract_lets _ c _ _ frames
  have h1 : MemoryOk c.s := checkHeads_ok h
  refine ite_ok h1 ?_
  refine ite_ok (killStep_ok h1) ?_
  refine ite_ok (Ctx.fail_ok h1) ?_
  clear_value frames
  split
  · exact ite_ok (Ctx.fail_ok h1) (ite_ok h1 (ite_ok (Ctx.fail_ok h1) (frameStep_ok h1)))
  refine ite_ok h1 ?_
  refine ite_ok (Ctx.fail_ok h1) ?_
  refine ite_ok (Ctx.fail_ok h1) ?_
  split
  · exact h1
  · exact Ctx.fail_ok h1
  · exact Ctx.done_ok h1

theorem runCell_ok {s : State} {n w op h1} (h : MemoryOk s) : OutOk (runCell n w op h1 s) := by
  unfold runCell
  split
  next e1 => exact meet_ok ((siteCtx_leaves h).of_some e1)
  · exact nudge_ok h

/-! ### Sys2Proof/Machine/Flags -/

theorem fpRR_ok {s : State} {d a b p f} (h : MemoryOk s) : OutOk (fpRR d a b p f s) := onCur_ok h (fun _ => State.setThread_ok h)

/-! ### Sys2Proof/Machine/Cells -/

theorem arith2_ok {s : State} {n w op g h1} (h : MemoryOk s) : OutOk (arith2 n w op g h1 s) := runCell_ok h

theorem execCellAdd_ok {s : State} {n w} (h : MemoryOk s) : OutOk (execCellAdd n w s) := arith2_ok h

theorem execCellSub_ok {s : State} {n w} (h : MemoryOk s) : OutOk (execCellSub n w s) := arith2_ok h

theorem execCellMul_ok {s : State} {n w} (h : MemoryOk s) : OutOk (execCellMul n w s) := arith2_ok h

theorem execCellMac_ok {s : State} {n w} (h : MemoryOk s) : OutOk (execCellMac n w s) := runCell_ok h

theorem execCellMin_ok {s : State} {n w} (h : MemoryOk s) : OutOk (execCellMin n w s) := runCell_ok h

theorem execCellMax_ok {s : State} {n w} (h : MemoryOk s) : OutOk (execCellMax n w s) := runCell_ok h

theorem execCellAbs_ok {s : State} {n w} (h : MemoryOk s) : OutOk (execCellAbs n w s) := runCell_ok h

theorem execCellNeg_ok {s : State} {n w} (h : MemoryOk s) : OutOk (execCellNeg n w s) := runCell_ok h

theorem execCellCmp_ok {s : State} {n w} (h : MemoryOk s) : OutOk (execCellCmp n w s) := runCell_ok h

theorem execCellSel_ok {s : State} {n w} (h : MemoryOk s) : OutOk (execCellSel n w s) := runCell_ok h

theorem bits2_ok {s : State} {n w op f} (h : MemoryOk s) : OutOk (bits2 n w op f s) := runCell_ok h

theorem execCellAnd_ok {s : State} {n w} (h : MemoryOk s) : OutOk (execCellAnd n w s) := bits2_ok h

theorem execCellOr_ok {s : State} {n w} (h : MemoryOk s) : OutOk (execCellOr n w s) := bits2_ok h

theorem execCellXor_ok {s : State} {n w} (h : MemoryOk s) : OutOk (execCellXor n w s) := bits2_ok h

theorem execCellNot_ok {s : State} {n w} (h : MemoryOk s) : OutOk (execCellNot n w s) := runCell_ok h

theorem shift2_ok {s : State} {n w op f} (h : MemoryOk s) : OutOk (shift2 n w op f s) := runCell_ok h

theorem execCellShl_ok {s : State} {n w} (h : MemoryOk s) : OutOk (execCellShl n w s) := shift2_ok h

theorem execCellShr_ok {s : State} {n w} (h : MemoryOk s) : OutOk (execCellShr n w s) := shift2_ok h

theorem execCellSra_ok {s : State} {n w} (h : MemoryOk s) : OutOk (execCellSra n w s) := shift2_ok h

theorem sfuCell_ok {s : State} {n w op} (h : MemoryOk s) : OutOk (sfuCell n w op s) := runCell_ok h

theorem execCellRcp_ok {s : State} {n w} (h : MemoryOk s) : OutOk (execCellRcp n w s) := sfuCell_ok h

theorem execCellRsq_ok {s : State} {n w} (h : MemoryOk s) : OutOk (execCellRsq n w s) := sfuCell_ok h

theorem execCellSqrt_ok {s : State} {n w} (h : MemoryOk s) : OutOk (execCellSqrt n w s) := sfuCell_ok h

theorem execCellExp2_ok {s : State} {n w} (h : MemoryOk s) : OutOk (execCellExp2 n w s) := sfuCell_ok h

theorem execCellLog2_ok {s : State} {n w} (h : MemoryOk s) : OutOk (execCellLog2 n w s) := sfuCell_ok h

theorem execCellTanh_ok {s : State} {n w} (h : MemoryOk s) : OutOk (execCellTanh n w s) := sfuCell_ok h

theorem execCellSig_ok {s : State} {n w} (h : MemoryOk s) : OutOk (execCellSig n w s) := sfuCell_ok h

theorem execCellCvt_ok {s : State} {n w} (h : MemoryOk s) : OutOk (execCellCvt n w s) := runCell_ok h

theorem execCellPack_ok {s : State} {n w} (h : MemoryOk s) : OutOk (execCellPack n w s) := runCell_ok h

theorem execCellUnpack_ok {s : State} {n w} (h : MemoryOk s) : OutOk (execCellUnpack n w s) := runCell_ok h

theorem scaleData_ok {c : Ctx} {a bytes taken pos side} (h : MemoryOk c.s) : MemoryOk (scaleData c a bytes taken pos side) := by
  unfold scaleData
  split
  · exact Ctx.fail_ok h
  split
  extract_lets _ _ _ _ _ _ _ _ _ _ _ _ _ _ _ _ _ _ _ _ s1
  have h1 : MemoryOk s1 := Ctx.done_ok (State.updSite_ok h)
  refine ite_ok (Ctx.done_ok h) ?_
  refine ite_ok ?_ (ite_ok h (ite_ok (Ctx.done_ok h) (ite_ok h1 (State.updSite_ok h1))))
  split
  · exact h
  · exact ite_ok (Ctx.done_ok h) (Ctx.fail_ok h)

theorem scaleStep_ok {c0 : Ctx} (h : MemoryOk c0.s) : MemoryOk (scaleStep c0) := by
  unfold scaleStep
  extract_lets c
  have h1 : MemoryOk c.s := checkHeads_ok h
  split
  · refine ite_ok h1 ?_
    refine ite_ok (killStep_ok h1) ?_
    refine ite_ok (Ctx.fail_ok h1) ?_
    split
    · refine ite_ok ?_ (ite_ok (Ctx.fail_ok h1) (scaleData_ok h1))
      refine ite_ok (Ctx.fail_ok h1) ?_
      exact ite_ok h1 (ite_ok (Ctx.fail_ok h1) (ite_ok (frameStep_ok h1) (frameStep_ok (State.updSite_ok h1))))
    · exact ite_ok h1 (ite_ok (Ctx.fail_ok h1) (scaleData_ok h1))
    · exact h1
  · exact h1

theorem execCellScale_ok {s : State} {n w} (h : MemoryOk s) : OutOk (execCellScale n w s) := by
  unfold execCellScale
  split
  next e1 => exact scaleStep_ok ((siteCtx_leaves h).of_some e1)
  · exact nudge_ok h

theorem execCellRsum_ok {s : State} {n w} (h : MemoryOk s) : OutOk (execCellRsum n w s) := runCell_ok h

theorem execCellRmax_ok {s : State} {n w} (h : MemoryOk s) : OutOk (execCellRmax n w s) := runCell_ok h

theorem execCellAcc_ok {s : State} {n w} (h : MemoryOk s) : OutOk (execCellAcc n w s) := runCell_ok h

theorem execCellPerm_ok {s : State} {n w} (h : MemoryOk s) : OutOk (execCellPerm n w s) := runCell_ok h

theorem execCellBcast_ok {s : State} {n w} (h : MemoryOk s) : OutOk (execCellBcast n w s) := runCell_ok h

theorem execCellConst_ok {s : State} {n w} (h : MemoryOk s) : OutOk (execCellConst n w s) := runCell_ok h

theorem execCellPass_ok {s : State} {n w} (h : MemoryOk s) : OutOk (execCellPass n w s) := by
  unfold execCellPass
  split
  · exact nudge_ok h
  next e1 => exact ite_holds (Ctx.fail_ok ((siteCtx_leaves h).of_some e1)) (runCell_ok h)

/-! ### Sys2Proof/Machine/Flow -/

theorem runNode_ok {s : State} {n w op f} (hf : ∀ c', MemoryOk c'.s → MemoryOk (f c')) (h_s : MemoryOk s) : OutOk (runNode n w op f s) := by
  unfold runNode
  split
  next e1 => exact hf _ ((siteCtx_leaves h_s).of_some e1)
  · exact nudge_ok h_s

theorem Ctx.discard_ok {c : Ctx} {is} (h : MemoryOk c.s) : MemoryOk (Ctx.discard c is) := State.updSite_ok h

theorem execCellFilter_ok {s : State} {n w} (h : MemoryOk s) : OutOk (execCellFilter n w s) := runCell_ok h

theorem execCellCount_ok {s : State} {n w} (h : MemoryOk s) : OutOk (execCellCount n w s) := by
  unfold execCellCount
  refine runNode_ok (fun _ h1 => ?_) h
  split
  · refine ite_ok ?_ (meet_ok h1)
    refine ite_ok h1 ?_
    split
    exact Ctx.done_ok h1
  · exact meet_ok h1

theorem loopStep_ok {c : Ctx} {ops} (h : MemoryOk c.s) : MemoryOk (loopStep ops c) := by
  unfold loopStep
  refine ite_ok h ?_
  refine ite_ok (meet_ok h) ?_
  refine ite_ok (Ctx.done_ok h) ?_
  refine ite_ok (Ctx.done_ok h) ?_
  refine ite_ok (Ctx.done_ok h) ?_
  refine ite_ok (Ctx.done_ok h) ?_
  refine ite_ok (ite_ok h (Ctx.discard_ok h)) ?_
  refine ite_ok (Ctx.discard_ok h) ?_
  refine ite_ok (Ctx.discard_ok h) ?_
  refine ite_ok (Ctx.fail_ok h) ?_
  refine ite_ok (Ctx.done_ok h) ?_
  refine ite_ok (Ctx.done_ok h) ?_
  split
  · exact Ctx.done_ok h
  refine ite_ok h ?_
  split
  · split
    · exact Ctx.done_ok h
    · exact h
  refine ite_ok ?_ (ite_ok (meet_ok h) h)
  refine ite_ok ?_ ?_
  · split
    exact Ctx.done_ok h
  split
  · exact Ctx.done_ok h
  · exact ite_ok (meet_ok h) h

theorem execCellLoop_ok {s : State} {n w} (h : MemoryOk s) : OutOk (execCellLoop n w s) := by
  unfold execCellLoop
  exact runNode_ok (fun _ h1 => loopStep_ok (checkHeads_ok h1)) h

theorem orderStep_ok {c0 : Ctx} {ins eots f} (hf : ∀ c', MemoryOk c'.s → MemoryOk (f c')) (h_c0 : MemoryOk c0.s) :
    MemoryOk (orderStep ins eots f c0) := by
  unfold orderStep
  extract_lets _ c
  have h1 : MemoryOk c.s := checkHeads_ok h_c0
  exact ite_ok h1 (ite_ok (killStep_ok h1) (ite_ok (Ctx.discard_ok h1) (ite_ok h1 (hf _ h1))))

theorem execCellFork_ok {s : State} {n w} (h : MemoryOk s) : OutOk (execCellFork n w s) :=
  runNode_ok (fun _ h1 => orderStep_ok (fun _ h2 => ite_ok (Ctx.fail_ok h2) (Ctx.done_ok h2)) h1) h

theorem execCellJoin_ok {s : State} {n w} (h : MemoryOk s) : OutOk (execCellJoin n w s) := by
  unfold execCellJoin
  refine runNode_ok (fun _ h1 => ?_) h
  refine orderStep_ok (fun _ h2 => ?_) h1
  exact ite_ok (Ctx.fail_ok h2) (Ctx.done_ok h2)

theorem execCellFence_ok {s : State} {n w} (h : MemoryOk s) : OutOk (execCellFence n w s) := by
  unfold execCellFence
  refine runNode_ok (fun _ h1 => ?_) h
  refine orderStep_ok (fun _ h2 => ?_) h1
  exact ite_ok (Ctx.fail_ok h2) (ite_ok h2 (Ctx.done_ok (ite_ok (flashInvalidate_ok h2) h2)))

theorem execCellMseq_ok {s : State} {n w} (h : MemoryOk s) : OutOk (execCellMseq n w s) := runCell_ok h

theorem execCellHdrgen_ok {s : State} {n w} (h : MemoryOk s) : OutOk (execCellHdrgen n w s) := runCell_ok h

theorem execCellMarkin_ok {s : State} {n w} (h : MemoryOk s) : OutOk (execCellMarkin n w s) := by
  unfold execCellMarkin
  refine runNode_ok (fun _ h1 => ?_) h
  extract_lets c
  have h2 : MemoryOk c.s := checkHeads_ok h1
  split
  · exact ite_ok (ite_ok (Ctx.done_ok h2) h2) (meet_ok h2)
  · exact meet_ok h2

theorem execCellFlags_ok {s : State} {n w} (h : MemoryOk s) : OutOk (execCellFlags n w s) := runCell_ok h

theorem execCellSegin_ok {s : State} {n w} (h : MemoryOk s) : OutOk (execCellSegin n w s) := runCell_ok h

/-! ### Sys2Proof/Machine/Log -/

theorem State.updPort_ok {s : State} {place k f} (h : MemoryOk s) : MemoryOk (State.updPort s place k f) := State.updPlace_ok h

theorem fabWriteSpan_leaves {s : State} {k p n n1 n2 l} (h : MemoryOk s) : (fabWriteSpan k s p n n1 n2 l).Leaves MemoryOk := by
  induction k generalizing s p n n1 n2 l with
  | zero => exact h
  | succ _ ih =>
    unfold fabWriteSpan
    refine ite_holds h ?_
    exact Acc.leaves_bind (fabWrite_leaves h) (fun _ _ _ h1 => ih h1)

theorem fabReadSpan_leaves {s : State} {k p n n1 n2 n3} (h : MemoryOk s) : (fabReadSpan k s p n n1 n2 n3).Leaves MemoryOk := by
  induction k generalizing s p n n1 n2 n3 with
  | zero => exact h
  | succ _ ih =>
    unfold fabReadSpan
    refine ite_holds h ?_
    exact Acc.leaves_bind (fabRead_leaves h) (fun _ _ _ h1 => Acc.leaves_bind (ih h1) (fun _ _ _ h2 => h2))

theorem recordEntry_leaves {s : State} {p k nodes wave bytes} (h : MemoryOk s) : (recordEntry s p k nodes wave bytes).Leaves MemoryOk := by
  unfold recordEntry
  extract_lets
  split
  · trivial
  · exact Acc.leaves_bind (fabWriteSpan_leaves h) (fun _ _ _ h1 => State.updPort_ok h1)

theorem findEntry_leaves {s : State} {k p n n1 n2 l} (h : MemoryOk s) : (findEntry k s p n n1 n2 l).Leaves MemoryOk := by
  induction k generalizing s p n n1 n2 l with
  | zero => exact h
  | succ _ ih => exact Acc.leaves_bind (fabReadSpan_leaves h) (fun _ _ _ h1 => ite_holds h1 (ih h1))

theorem replayEntry_leaves {s : State} {p k nodes src seq} (h : MemoryOk s) : (replayEntry s p k nodes src seq).Leaves MemoryOk := by
  unfold replayEntry
  extract_lets
  split
  · trivial
  refine Acc.leaves_bind (findEntry_leaves h) (fun _ _ _ h1 => ?_)
  split
  · exact h1
  refine Acc.leaves_bind (fabReadSpan_leaves h1) (fun _ _ _ h2 => ?_)
  refine Acc.leaves_bind (findEntry_leaves h2) (fun _ _ _ h3 => ?_)
  split
  · exact State.updPort_ok h3
  · exact Acc.leaves_bind (fabReadSpan_leaves h3) (fun _ _ _ h4 => State.updPort_ok h4)

/-! ### Sys2Proof/Machine/MemNodes -/

theorem laneAccess_leaves {c : Ctx} {s : State} {a b l} (h_s : MemoryOk s) : (laneAccess c s a b l).Leaves MemoryOk := by
  unfold laneAccess
  extract_lets _ _ _ _ _ _ put
  split
  · exact Acc.leaves_bind (fabRead_leaves h_s) (fun _ _ _ h1 => h1)
  · exact Acc.leaves_bind (fabRead_leaves h_s) (fun _ _ _ h1 => h1)
  · refine Acc.leaves_bind (fabXl_leaves h_s) (fun _ ⟨_, _⟩ _ h1 => ?_)
    split
    refine ite_holds trivial ?_
    split
    next e1 =>
      refine Acc.leaves_bind (fabBytes_leaves (ok_of_fst (amoPlace_ok h1) e1)) (fun _ _ _ h2 => ?_)
      extract_lets
      split
      · exact h2
      · exact Acc.leaves_bind (writeBytes_leaves h2 _ _ _) (fun _ _ _ h3 => patchHeld_ok h3)
  refine Acc.foldl_leaves (fun _ _ h1 => ?_) h_s
  refine Acc.leaves_bind h1 (fun _ _ _ h4 => ?_)
  refine Acc.leaves_bind ?_ (fun _ _ _ h2 => h2)
  unfold put
  split
  · exact fabWrite_leaves h4
  · exact holdWrite_leaves h4

theorem relayLane_ok {c : Ctx} {s : State} {a b l old} (h_s : MemoryOk s) : MemoryOk (relayLane c a b s l old) := by
  unfold relayLane
  extract_lets
  split
  next s' _ _ e1 =>
    have h1 : MemoryOk s' := (fabXl_leaves h_s).of_ok e1
    split
    · exact patchHeld_ok h1
    · exact h1
  · exact h_s

theorem logLanes_leaves {c : Ctx} {s : State} {x vals seq l} (h_s : MemoryOk s) : (logLanes c x vals seq l s).Leaves MemoryOk := by
  induction l generalizing seq s with
  | nil => exact h_s
  | cons _ _ ih => exact ite_holds (ih h_s) (Acc.leaves_bind (recordEntry_leaves h_s) (fun _ _ _ h1 => ih h1))

theorem replayLanes_leaves {c : Ctx} {s : State} {x seq l l1} (h_s : MemoryOk s) : (replayLanes c x seq l s l1).Leaves MemoryOk := by
  induction l generalizing seq s l1 with
  | nil => exact h_s
  | cons _ _ ih =>
    unfold replayLanes
    refine ite_holds (ih h_s) ?_
    refine Acc.leaves_bind (replayEntry_leaves h_s) (fun _ _ _ h1 => ?_)
    split
    · exact h1
    · exact ih (ite_ok (rollNow_ok h1) h1)

theorem memDone_ok {c : Ctx} {s : State} {eat beat void m} (h_s : MemoryOk s) : MemoryOk (memDone c s eat beat void m) := by
  unfold memDone
  exact Ctx.done_ok (ite_ok (State.updRb_ok h_s) h_s)

/-- What the lanes of a firing leave, all of them or up to one that stops, has both memories in form. -/
def LaneRes.Ok : LaneRes → Prop
  | .all s _ => MemoryOk s
  | .stop s _ _ _ => MemoryOk s

theorem lanesFrom_ok {c : Ctx} {a b k l s vals} (h : MemoryOk s) : (lanesFrom c a b k l s vals).Ok := by
  induction k generalizing l s vals with
  | zero => exact h
  | succ _ ih =>
    unfold lanesFrom
    split
    · exact ih h
    split
    · next e => exact ih ((laneAccess_leaves h).of_ok e)
    · exact h
    · next e => exact (laneAccess_leaves h).of_fault e

theorem memFire_ok {c : Ctx} {a b used void} (h : MemoryOk c.s) : MemoryOk (memFire c a b used void) := by
  unfold memFire
  extract_lets _ _ _ _ _ _ s0 finish _ _ had s1 log res
  have h0 : MemoryOk s0 := ite_ok (flashInvalidate_ok h) h
  have hfinish : ∀ {s vals seq}, MemoryOk s → MemoryOk (finish s vals seq) := memDone_ok
  have hlog : ∀ {s vals}, MemoryOk s → MemoryOk (log s vals) := fun hs => ite_ok hs (State.updRb_ok hs)
  refine ite_ok h (ite_ok (memDone_ok h) (ite_ok ?_ ?_))
  · split
    next e1 => exact hfinish ((replayLanes_leaves h0).of_ok e1)
    next e1 => exact nodeFault_ok ((replayLanes_leaves h0).of_ok e1)
    · exact h
    next e1 => exact nodeAccessFault_ok ((replayLanes_leaves h0).of_fault e1)
  have h1 : MemoryOk s1 := ite_ok (foldl_ok (fun _ _ => relayLane_ok) h0) h0
  have hres : res.Ok := lanesFrom_ok h1
  clear_value res
  split
  next s2 l vals why =>
    extract_lets keep
    have hkeep : ∀ {s}, MemoryOk s → MemoryOk (keep s) := fun hs => State.updSite_ok (hlog hs)
    split
    · exact hkeep hres
    · exact ite_ok (hkeep hres) (ite_ok (nodeFault_ok (hkeep hres)) (nodeAccessFault_ok (hkeep hres)))
  next s2 vals =>
    extract_lets s3
    have h3 : MemoryOk s3 := hlog hres
    refine ite_ok ?_ (hfinish h3)
    split
    next e1 => exact hfinish ((logLanes_leaves h3).of_ok e1)
    · exact State.updSite_ok h3
    next e1 => exact nodeAccessFault_ok (State.updSite_ok ((logLanes_leaves h3).of_fault e1))

theorem memStep_ok {c0 : Ctx} (h : MemoryOk c0.s) : MemoryOk (memStep c0) := by
  unfold memStep
  extract_lets _ _ c _ _ _ _ _ _ s1
  have h1 : MemoryOk c.s := checkHeads_ok h
  have h2 : MemoryOk s1 := meet_ok h1
  refine ite_ok h1 ?_
  refine ite_ok (killStep_ok h1) ?_
  refine ite_ok (Ctx.discard_ok h1) ?_
  refine ite_ok (Ctx.fail_ok h1) ?_
  refine ite_ok (Ctx.done_ok h1) ?_
  split
  · exact h1
  refine ite_ok ?_ (ite_ok h1 (ite_ok (Ctx.fail_ok h1) (ite_ok (Ctx.fail_ok h1) (ite_ok h1 (memFire_ok h1)))))
  split
  · refine ite_ok h2 ?_
    extract_lets s2
    have h3 : MemoryOk s2 := ite_ok (passMark_ok h2) h2
    exact ite_ok (State.updSite_ok h3) h3
  · exact h2

theorem execCellLd_ok {s : State} {n w} (h : MemoryOk s) : OutOk (execCellLd n w s) := runNode_ok (fun _ h1 => memStep_ok h1) h

theorem execCellSt_ok {s : State} {n w} (h : MemoryOk s) : OutOk (execCellSt n w s) := runNode_ok (fun _ h1 => memStep_ok h1) h

theorem execCellAt_ok {s : State} {n w} (h : MemoryOk s) : OutOk (execCellAt n w s) := runNode_ok (fun _ h1 => memStep_ok h1) h

theorem execCellLda_ok {s : State} {n w} (h : MemoryOk s) : OutOk (execCellLda n w s) := runNode_ok (fun _ h1 => memStep_ok h1) h

theorem execCellStl_ok {s : State} {n w} (h : MemoryOk s) : OutOk (execCellStl n w s) := runNode_ok (fun _ h1 => memStep_ok h1) h

/-! ### Sys2Proof/Machine/Slices -/

theorem respond_ok {s : State} {r k} (h : MemoryOk s) : MemoryOk (respond s r k) := sendMessage_ok h

theorem serveRead_ok {s : State} {r g} (h : MemoryOk s) : MemoryOk (serveRead s r g) := by
  unfold serveRead
  refine ite_ok (respond_ok h) ?_
  extract_lets s1
  have h1 : MemoryOk s1 := by
    unfold s1
    split
    · exact ite_ok h (taint_ok h)
    · exact h
  exact respond_ok h1

theorem serveLine_ok {s : State} {x r l} (h : MemoryOk s) : MemoryOk (serveLine s x r l) := serveRead_ok (setSlice_ok h)

theorem refuse_ok {s : State} {x r} (h : MemoryOk s) : MemoryOk (refuse s x r) := by
  unfold refuse
  exact respond_ok (setSlice_ok h)

theorem askLlc_ok {s : State} {x r p q} (h : MemoryOk s) : MemoryOk (askLlc s x r p q) := by
  unfold askLlc
  split
  next e1 => exact sendLlc_ok (setSlice_ok (ok_of_snd (takeSerial_ok h) e1))

theorem holdBehind_ok {s : State} {x r p} (h : MemoryOk s) : MemoryOk (holdBehind s x r p) := setSlice_ok h

theorem driveOut_ok {s : State} {x r l} (h : MemoryOk s) : MemoryOk (driveOut s x r l) := by
  unfold driveOut
  exact holdBehind_ok (writeBack_ok (setSlice_ok h))

theorem onHeldLine_ok {s : State} {x r l} (h : MemoryOk s) : MemoryOk (onHeldLine s x r l) := by
  unfold onHeldLine
  extract_lets _ s1
  have h1 : MemoryOk s1 := markRing_ok h
  refine ite_ok (respond_ok h) ?_
  refine ite_ok (refuse_ok h) ?_
  split
  refine ite_ok (respond_ok (setSlice_ok h1)) ?_
  exact ite_ok (ite_ok (askLlc_ok h1) (respond_ok (askLlc_ok h1))) (ite_ok (driveOut_ok h) (askLlc_ok h))

theorem missRequest_ok {s : State} {x r write} (h : MemoryOk s) : MemoryOk (missRequest s x r write) := by
  unfold missRequest
  refine ite_ok (refuse_ok h) ?_
  exact ite_ok (ite_ok (setSlice_ok h) (askLlc_ok h)) (ite_ok (setSlice_ok h) (askLlc_ok h))

theorem readRequest_ok {s : State} {x r} (h : MemoryOk s) : MemoryOk (readRequest s x r) := by
  unfold readRequest
  split
  · exact setSlice_ok h
  refine ite_ok (holdBehind_ok h) ?_
  refine ite_ok (ite_ok (refuse_ok h) (askLlc_ok h)) ?_
  split
  · exact serveLine_ok h
  split
  · exact ite_ok (holdBehind_ok h) (setSlice_ok h)
  · exact missRequest_ok h

theorem writeRequest_ok {s : State} {x r} (h : MemoryOk s) : MemoryOk (writeRequest s x r) := by
  unfold writeRequest
  extract_lets
  split
  · exact holdBehind_ok h
  refine ite_ok (holdBehind_ok h) ?_
  split
  · exact ite_ok (onHeldLine_ok h) (ite_ok (refuse_ok h) (ite_ok (driveOut_ok h) (askLlc_ok h)))
  · exact ite_ok (missRequest_ok h) (ite_ok (refuse_ok h) (askLlc_ok h))

theorem mcastRequest_ok {s : State} {x r mask} (h : MemoryOk s) : MemoryOk (mcastRequest s x r mask) := by
  unfold mcastRequest
  refine ite_ok (setSlice_ok h) ?_
  refine ite_ok (holdBehind_ok h) ?_
  split
  · exact holdBehind_ok h
  refine ite_ok (refuse_ok h) ?_
  split
  · exact setSlice_ok h
  · exact ite_ok (setSlice_ok h) (askLlc_ok h)

theorem lineRequest_ok {s : State} {x r} (h : MemoryOk s) : MemoryOk (lineRequest s x r) := by
  unfold lineRequest
  split
  · refine ite_ok (respond_ok h) ?_
    split
    · exact setSlice_ok h
    · exact ite_ok (holdBehind_ok h) (missRequest_ok h)
  · split
    · refine ite_ok (ite_ok (refuse_ok h) (writeBack_ok (setSlice_ok h))) ?_
      exact ite_ok (holdBehind_ok h) (respond_ok (setSlice_ok h))
    · exact ite_ok (setSlice_ok h) (respond_ok h)
  · exact h

theorem sliceTakes_ok {s : State} {r} (h : MemoryOk s) : MemoryOk (sliceTakes s r) := by
  unfold sliceTakes
  refine ite_ok (respond_ok h) ?_
  split
  · exact readRequest_ok h
  · exact writeRequest_ok h
  · exact writeRequest_ok h
  · exact mcastRequest_ok h
  · exact lineRequest_ok h
  · exact lineRequest_ok h
  · exact h

theorem execSliceRequest_ok {s : State} {i} (h : MemoryOk s) : OutOk (execSliceRequest i s) := by
  unfold execSliceRequest
  split
  · exact h
  · exact sliceTakes_ok h

theorem serveHeld_ok {s : State} {l} (h : MemoryOk s) : MemoryOk (serveHeld l s) := by
  induction l generalizing s with
  | nil => exact h
  | cons _ _ ih =>
    unfold serveHeld
    extract_lets _ s1
    have h1 : MemoryOk s1 := ih h
    split
    · exact ih (serveLine_ok h)
    · exact ih (onHeldLine_ok h)
    · exact ite_ok h1 (ih (onHeldLine_ok h))
    · exact h1

theorem serveWaiting_ok {s : State} {g l} (h : MemoryOk s) : MemoryOk (serveWaiting g l s) := by
  induction l generalizing s with
  | nil => exact h
  | cons _ _ ih =>
    unfold serveWaiting
    refine ih ?_
    split
    · exact serveRead_ok h
    · exact respond_ok h

theorem fillArrives_ok {s : State} {x p g} (h : MemoryOk s) : MemoryOk (fillArrives s x p g) := by
  unfold fillArrives
  exact ite_ok h (serveHeld_ok (serveWaiting_ok (ite_ok (installAt_ok h) (setSlice_ok h))))

theorem llcAnswers_ok {s : State} {x p k} (h : MemoryOk s) : MemoryOk (llcAnswers s x p k) := by
  unfold llcAnswers
  refine foldl_ok (fun _ _ h1 => ?_) (setSlice_ok h)
  extract_lets st1
  have h2 : MemoryOk st1 := by
    unfold st1
    split
    · exact ite_ok h1 (taint_ok h1)
    · exact h1
  exact respond_ok h2

theorem execSliceFillInstall_ok {s : State} {die slice line} (h : MemoryOk s) : OutOk (execSliceFillInstall die slice line s) := by
  unfold execSliceFillInstall
  extract_lets
  split
  · exact h
  split
  · exact fillArrives_ok h
  · exact fillArrives_ok h
  · exact llcAnswers_ok h
  · exact h

theorem execWritebackAck_ok {s : State} {die slice line} (h : MemoryOk s) : OutOk (execWritebackAck die slice line s) := by
  unfold execWritebackAck
  extract_lets
  split
  · exact h
  · exact foldl_ok (fun _ _ h1 => respond_ok h1) (setSlice_ok h)

theorem execExpanderDecodeDone_ok {s : State} {die slice line} (h : MemoryOk s) : OutOk (execExpanderDecodeDone die slice line s) := by
  unfold execExpanderDecodeDone
  extract_lets
  split
  · exact h
  split
  · exact h
  split
  next e1 => exact fillArrives_ok (ok_of_fst (tileFor_ok _ _ _ _ h) e1)
  next e1 => exact foldl_ok (fun _ _ h1 => respond_ok h1) (setSlice_ok (ok_of_fst (tileFor_ok _ _ _ _ h) e1))

theorem execPrioReservationExpire_ok {s : State} {die slice} (h : MemoryOk s) : OutOk (execPrioReservationExpire die slice s) := by
  unfold execPrioReservationExpire
  extract_lets
  split
  · exact ite_holds (setSlice_ok h) h
  · exact h

theorem llcReply_ok {s : State} {q k bad fixed} (h : MemoryOk s) : MemoryOk (llcReply s q k bad fixed) := by
  unfold llcReply
  exact sendMessage_ok (setSlice_ok h)

theorem llcPerform_ok {s : State} {q} (h : MemoryOk s) : MemoryOk (llcPerform s q) := by
  unfold llcPerform
  split
  · refine ite_ok ?_ ?_
    · split
      · exact llcReply_ok (llcBack_ok h)
      · exact h
    split
    next e1 => exact llcReply_ok (ok_of_fst (llcGet_ok _ _ h) e1)
  split
  · split
    next s1 _ e1 =>
      have h1 : MemoryOk s1 := ok_of_fst (llcGet_ok _ _ h) e1
      exact ite_ok (llcReply_ok h1) (llcReply_ok h1)
  · split
    next s1 _ e1 =>
      have h1 : MemoryOk s1 := ok_of_fst (llcHold_ok _ h) e1
      refine ite_ok (llcReply_ok h1) ?_
      split
      exact llcReply_ok (llcPut_ok (markRing_ok h1))
  · split
    next s1 _ e1 =>
      have h1 : MemoryOk s1 := ok_of_fst (llcHold_ok _ h) e1
      refine ite_ok (llcReply_ok h1) ?_
      split
      exact llcReply_ok (llcPut_ok (markRing_ok h1))
  · exact h

theorem llcServe_ok {s : State} {line l} (h : MemoryOk s) : MemoryOk (llcServe line l s) := by
  induction l generalizing s with
  | nil => exact h
  | cons _ _ ih => exact ih (ite_ok (llcPerform_ok h) h)

theorem llcEnter_ok {s : State} {base q} (h : MemoryOk s) : MemoryOk (llcEnter s base q) := by
  unfold llcEnter
  exact ite_ok (llcPerform_ok h) (State.setLlc_ok h)

theorem execLlcRequest_ok {s : State} {i} (h : MemoryOk s) : OutOk (execLlcRequest i s) := by
  unfold execLlcRequest
  split
  · exact h
  refine ite_holds h ?_
  exact ite_holds (llcEnter_ok h) (ite_holds (State.setLlc_ok h) h)

theorem annexMoves_ok {s : State} {base k} (h : MemoryOk s) : MemoryOk (annexMoves base k s) := by
  induction k generalizing s with
  | zero => exact h
  | succ _ ih =>
    unfold annexMoves
    extract_lets
    split
    · exact h
    · exact ite_ok (ih (llcEnter_ok (State.setLlc_ok h))) h

theorem execLlcFill_ok {s : State} {base line} (h : MemoryOk s) : OutOk (execLlcFill base line s) := by
  unfold execLlcFill
  refine ite_holds h ?_
  split
  next e1 => exact annexMoves_ok (State.setLlc_ok (llcServe_ok (State.setLlc_ok (ok_of_fst (llcHold_ok _ (State.setLlc_ok h)) e1))))

/-! ### Sys2Proof/Machine/Routers -/

theorem RCtx.done_ok {c : RCtx} {eat out st} (h : MemoryOk c.s) : MemoryOk (RCtx.done c eat out st) := State.updSlot_ok h

theorem RCtx.fail_ok {c : RCtx} {code} (h : MemoryOk c.s) : MemoryOk (RCtx.fail c code) := slotFault_ok h

theorem slotCtx_leaves {s : State} {n w} (h : MemoryOk s) : OptLeaves (fun c => MemoryOk c.s) (slotCtx s n w) := by
  unfold slotCtx
  split
  · exact ite_holds trivial h
  · trivial

theorem RCtx.check_ok {c : RCtx} (h : MemoryOk c.s) : MemoryOk c.check.s := by
  refine List.foldlRecOn c.used _ (motive := fun c : RCtx => MemoryOk c.s) h (fun c hc i _ => ?_)
  split
  · exact hc
  split
  · exact hc
  · exact inspect_ok hc

theorem slotKill_ok {c : RCtx} {h1 : RopOps} (h : MemoryOk c.s) : MemoryOk (slotKill c h1) := by
  unfold slotKill
  exact ite_ok (State.updSlot_ok h) (State.updSlot_ok h)

theorem ropStep_ok {c0 : RCtx} {h1 : RopOps} (h : MemoryOk c0.s) (hfire : ∀ c, MemoryOk c.s → MemoryOk (h1.fire c)) :
    MemoryOk (ropStep c0 h1) := by
  unfold ropStep
  extract_lets c
  have h1 : MemoryOk c.s := RCtx.check_ok h
  refine ite_ok h1 ?_
  refine ite_ok (slotKill_ok h1) ?_
  refine ite_ok (RCtx.fail_ok h1) ?_
  split
  · exact h1
  refine ite_ok ?_ (ite_ok (RCtx.fail_ok h1) (hfire _ h1))
  refine ite_ok (RCtx.fail_ok h1) ?_
  refine ite_ok h1 ?_
  exact ite_ok (RCtx.fail_ok h1) (State.updSlot_ok (RCtx.done_ok h1))

theorem RCtx.take_ok {c : RCtx} {i void f} (h : MemoryOk c.s) (hf : ∀ x0, MemoryOk (f x0)) : MemoryOk (RCtx.take c i void f) := by
  unfold RCtx.take
  split
  · exact h
  refine ite_ok (RCtx.fail_ok h) ?_
  exact ite_ok (RCtx.fail_ok h) (hf _)

theorem runRop_ok {h1 : RopOps} {s : State} {n w} (hfire : ∀ c, MemoryOk c.s → MemoryOk (h1.fire c)) (h_s : MemoryOk s) :
    OutOk (runRop n w h1 s) := by
  unfold runRop
  split
  next e1 => exact ropStep_ok ((slotCtx_leaves h_s).of_some e1) (fun _ h1 => hfire _ h1)
  · exact h_s

theorem execRopSteer_ok {s : State} {n w} (h : MemoryOk s) : OutOk (execRopSteer n w s) :=
  runRop_ok (fun _ h1 => RCtx.take_ok h1 (fun _ => RCtx.done_ok h1)) h

theorem execRopMerge_ok {s : State} {n w} (h : MemoryOk s) : OutOk (execRopMerge n w s) :=
  runRop_ok (fun _ h1 => RCtx.take_ok h1 (fun _ => RCtx.done_ok h1)) h

theorem execRopCarry_ok {s : State} {n w} (h : MemoryOk s) : OutOk (execRopCarry n w s) := by
  unfold execRopCarry
  refine runRop_ok (fun _ h1 => ?_) h
  refine ite_ok ?_ (RCtx.take_ok h1 (fun _ => RCtx.done_ok h1))
  exact ite_ok (RCtx.take_ok h1 (fun _ => RCtx.done_ok h1)) (RCtx.done_ok h1)

theorem execRopInvar_ok {s : State} {n w} (h : MemoryOk s) : OutOk (execRopInvar n w s) := by
  unfold execRopInvar
  extract_lets ops
  split
  · exact h
  next c0 e1 =>
    have h1 : MemoryOk c0.s := (slotCtx_leaves h).of_some e1
    extract_lets c
    have h2 : MemoryOk c.s := RCtx.check_ok h1
    refine ite_holds (RCtx.take_ok h2 (fun _ => RCtx.done_ok h2)) ?_
    refine ropStep_ok h1 (fun _ h3 => ?_)
    unfold ops
    dsimp only
    split
    · exact RCtx.done_ok h3
    · exact RCtx.take_ok h3 (fun _ => RCtx.done_ok h3)

theorem execRopOrdmerge_ok {s : State} {n w} (h : MemoryOk s) : OutOk (execRopOrdmerge n w s) := by
  unfold execRopOrdmerge
  refine runRop_ok (fun _ h1 => ?_) h
  dsimp only
  split
  · refine ite_ok (RCtx.fail_ok h1) ?_
    refine ite_ok (RCtx.take_ok h1 (fun _ => RCtx.done_ok h1)) ?_
    refine ite_ok (RCtx.take_ok h1 (fun _ => RCtx.done_ok h1)) ?_
    split
    · exact RCtx.done_ok h1
    · exact h1
  · exact h1

theorem execRopGate_ok {s : State} {n w} (h : MemoryOk s) : OutOk (execRopGate n w s) := by
  unfold execRopGate
  refine runRop_ok (fun _ h1 => ?_) h
  dsimp only
  split
  · exact RCtx.take_ok h1 (fun _ => RCtx.done_ok h1)
  · exact h1

/-! ### Sys2Proof/Machine/Tiles -/

theorem copyFreeze_ok {s : State} {p n code sub va pte} (h : MemoryOk s) : MemoryOk (copyFreeze s p n code sub va pte) :=
  ite_ok h (freezeRecord_ok (State.updRb_ok h))

theorem copyRow_leaves {s : State} {p x row} (h : MemoryOk s) : (copyRow s p x row).Leaves MemoryOk := by
  unfold copyRow
  split
  · exact h
  split
  refine ite_holds h ?_
  refine ite_holds (State.updSite_ok h) ?_
  split
  · exact h
  refine ite_holds h ?_
  extract_lets
  split
  next e1 => exact State.updSite_ok ((fabWrite_leaves h).of_ok e1)
  · trivial
  next e1 => exact copyFreeze_ok ((fabWrite_leaves h).of_fault e1)

theorem tilePut_leaves {s : State} {p x op imm second t} (h : MemoryOk s) : (tilePut s p x op imm second t).Leaves MemoryOk := by
  unfold tilePut
  split
  · trivial
  · exact h
  refine Acc.leaves_bind ?_ (fun _ _ _ h1 => State.updSite_ok h1)
  split
  · exact copyRow_leaves h
  · exact h

theorem tileKill_ok {c : Ctx} {ins} (h : MemoryOk c.s) : MemoryOk (tileKill c ins) := by
  unfold tileKill
  exact killStep_ok h

theorem tileWrite_ok {c : Ctx} {second} (h : MemoryOk c.s) : MemoryOk (tileWrite c second) := by
  unfold tileWrite
  split
  · exact h
  extract_lets bad
  split
  · clear_value bad
    split
    · exact Ctx.fail_ok h
    · exact h
  next s2 _ _ _ e1 =>
    have h1 : MemoryOk s2 := (tilePut_leaves h).of_fault e1
    clear_value bad
    split
    · exact Ctx.fail_ok h
    · exact ite_ok (Ctx.fail_ok h) (ite_ok (nodeFault_ok h1) h1)
  next e1 =>
    clear_value bad
    split
    · exact Ctx.fail_ok h
    · exact State.updSite_ok ((tilePut_leaves h).of_ok e1)

theorem tileRead_leaves {c : Ctx} (h : MemoryOk c.s) : OptLeaves MemoryOk (tileRead c) := by
  unfold tileRead
  refine ite_holds trivial ?_
  split
  · exact ite_holds trivial (State.updSite_ok h)
  · trivial

theorem Ctx.again_ok {c : Ctx} {s : State} (h_s : MemoryOk s) : MemoryOk (Ctx.again c s).s := h_s

theorem storageStep_ok {c0 : Ctx} (h : MemoryOk c0.s) : MemoryOk (storageStep c0) := by
  unfold storageStep
  extract_lets c c1
  have h1 : MemoryOk c.s := checkHeads_ok h
  have h2 : MemoryOk c1.s := by
    unfold c1
    split
    next e1 => exact Ctx.again_ok ((tileRead_leaves h1).of_some e1)
    · exact h1
  exact ite_ok h1 (ite_ok (tileKill_ok h1) (tileWrite_ok h2))

theorem execCellBuf_ok {s : State} {n w} (h : MemoryOk s) : OutOk (execCellBuf n w s) := runNode_ok (fun _ h1 => storageStep_ok h1) h

theorem execCellFifo_ok {s : State} {n w} (h : MemoryOk s) : OutOk (execCellFifo n w s) := runNode_ok (fun _ h1 => storageStep_ok h1) h

theorem execCellSport_ok {s : State} {n w} (h : MemoryOk s) : OutOk (execCellSport n w s) := runNode_ok (fun _ h1 => storageStep_ok h1) h

theorem indexFrame_ok {c : Ctx} {t} (h : MemoryOk c.s) : MemoryOk (indexFrame c t) := by
  unfold indexFrame
  split
  · exact Ctx.fail_ok h
  · exact State.updSite_ok h

theorem lineRead_ok {c : Ctx} (h : MemoryOk c.s) : MemoryOk (lineRead c) := by
  unfold lineRead
  split
  · refine ite_ok h ?_
    split
    · refine ite_ok h ?_
      refine ite_ok (State.updSite_ok h) ?_
      split
      · exact h
      refine ite_ok (indexFrame_ok h) ?_
      refine ite_ok (Ctx.fail_ok h) ?_
      refine ite_ok (Ctx.fail_ok h) ?_
      split
      · exact h
      · exact State.updSite_ok h
    split
    · exact ite_ok (indexFrame_ok h) (ite_ok (Ctx.fail_ok h) (ite_ok (Ctx.fail_ok h) h))
    · exact h
  · exact h

theorem execCellLinebuf_ok {s : State} {n w} (h : MemoryOk s) : OutOk (execCellLinebuf n w s) := by
  unfold execCellLinebuf
  refine runNode_ok (fun _ h1 => ?_) h
  extract_lets _ c c1
  have h2 : MemoryOk c.s := checkHeads_ok h1
  have h3 : MemoryOk c1.s := Ctx.again_ok (lineRead_ok h2)
  exact ite_ok h2 (ite_ok (tileKill_ok h2) (ite_ok h3 (tileWrite_ok h3)))

theorem agenRead_ok {c : Ctx} (h : MemoryOk c.s) : MemoryOk (agenRead c) := by
  unfold agenRead
  split
  · exact h
  refine ite_ok h ?_
  refine ite_ok ?_ (ite_ok (Ctx.fail_ok h) (ite_ok (Ctx.fail_ok h) (State.updSite_ok h)))
  split
  · exact Ctx.fail_ok h
  · exact State.updSite_ok (State.updSite_ok h)

theorem agenWrite_ok {c : Ctx} (h : MemoryOk c.s) : MemoryOk (agenWrite c) := by
  unfold agenWrite
  split
  · refine ite_ok ?_ ?_
    · refine ite_ok (Ctx.fail_ok h) ?_
      refine ite_ok (Ctx.fail_ok h) ?_
      split
      · exact ite_ok (Ctx.fail_ok h) (State.updSite_ok h)
      · exact ite_ok (Ctx.fail_ok h) (ite_ok (Ctx.fail_ok h) (State.updSite_ok h))
      · exact ite_ok (Ctx.fail_ok h) (ite_ok (Ctx.fail_ok h) (State.updSite_ok h))
      · exact ite_ok (Ctx.fail_ok h) (State.updSite_ok h)
    refine ite_ok (Ctx.fail_ok h) ?_
    refine ite_ok (Ctx.fail_ok h) ?_
    refine ite_ok (Ctx.fail_ok h) ?_
    refine ite_ok (Ctx.fail_ok h) ?_
    split
    · exact h
    next s2 _ _ _ e1 =>
      have h1 : MemoryOk s2 := (copyRow_leaves h).of_fault e1
      exact ite_ok (nodeFault_ok h1) h1
    next e1 => exact State.updSite_ok ((copyRow_leaves h).of_ok e1)
  · exact h

theorem execCellAgen_ok {s : State} {n w} (h : MemoryOk s) : OutOk (execCellAgen n w s) := by
  unfold execCellAgen
  refine runNode_ok (fun _ h1 => ?_) h
  extract_lets _ c _ c1
  have h2 : MemoryOk c.s := checkHeads_ok h1
  have h3 : MemoryOk c1.s := Ctx.again_ok (agenRead_ok h2)
  exact ite_ok h2 (ite_ok (tileKill_ok h2) (ite_ok h3 (agenWrite_ok h3)))

/-! ### Sys2Proof/Machine/Ports -/

theorem State.updRun_ok {s : State} {place port c f} (h : MemoryOk s) : MemoryOk (State.updRun s place port c f) := State.updPort_ok h

theorem endCommand_ok {s : State} {place port c how} (h : MemoryOk s) : MemoryOk (endCommand s place port c how) := by
  unfold endCommand
  split
  · exact h
  · exact State.updPart_ok (State.updPort_ok (stir_ok h))

theorem portFreeze_ok {s : State} {p port r code sub va pte write e net} (h : MemoryOk s) :
    MemoryOk (portFreeze s p port r code sub va pte write e net) := by
  unfold portFreeze
  refine ite_ok h ?_
  refine ite_ok (rollNow_ok h) ?_
  exact freezeRecord_ok (State.updRun_ok (overLimit_ok h))

theorem portFail_ok {s : State} {p port r code} (h : MemoryOk s) : MemoryOk (portFail s p port r code) := portFreeze_ok h

theorem keepXlat_ok {s : State} {p k x} (h : MemoryOk s) : MemoryOk (keepXlat s p k x) := by
  unfold keepXlat
  split <;> exact h

theorem dropXlats_ok {s : State} {p k} (h : MemoryOk s) : MemoryOk (dropXlats s p k) := by
  unfold dropXlats
  split <;> exact h

theorem sendReq_ok {s : State} {p q} (h : MemoryOk s) : MemoryOk (sendReq s p q) := sendMessage_ok h

theorem sentElem_ok {s : State} {p port c e no} (h : MemoryOk s) : MemoryOk (sentElem s p port c e no) := by
  unfold sentElem
  exact State.updPort_ok h

theorem sendElem_ok {s : State} {p port c e q} (h : MemoryOk s) : MemoryOk (sendElem s p port c e q) := sendReq_ok (sentElem_ok h)

theorem awaitWalk_ok {s : State} {p port c va} (h : MemoryOk s) : MemoryOk (awaitWalk s p port c va) := h

theorem badElem_ok {s : State} {p port c e code sub pte n} (h : MemoryOk s) : MemoryOk (badElem s p port c e code sub pte n) := by
  unfold badElem
  exact State.updRun_ok h

theorem issueElem_ok {s : State} {p q r e len k nd} (h : MemoryOk s) : MemoryOk (issueElem s p q r e len k nd) := by
  unfold issueElem
  refine ite_ok h ?_
  split
  · exact awaitWalk_ok h
  · exact badElem_ok h
  · exact sendElem_ok h

theorem tileAdmit_ok {s : State} {p x w t} (h : MemoryOk s) : MemoryOk (tileAdmit s p x w t).1 := by
  unfold tileAdmit
  split
  · exact h
  split
  · exact wakeSite_ok h
  split
  · exact nodeFault_ok h
  split
  · exact h
  next s2 _ _ _ e1 =>
    have h1 : MemoryOk s2 := (tilePut_leaves h).of_fault e1
    exact ite_ok (nodeFault_ok h1) h1
  next e1 => exact State.updSite_ok ((tilePut_leaves h).of_ok e1)

theorem letIn_ok {s : State} {p port t} (h : MemoryOk s) : MemoryOk (letIn s p port t).1 := by
  unfold letIn
  split
  · split
    · exact h
    extract_lets ok
    split
    · split
      next s' e1 =>
        have h1 : MemoryOk s' := (recordEntry_leaves h).of_ok e1
        split
        next s2 e2 =>
          have h2 : MemoryOk s2 := by
            refine ok_of_fst ?_ e2
            unfold ok
            split
            next e3 => exact State.updPort_ok (stir_ok (ok_of_fst (tileAdmit_ok h1) e3))
            · exact tileAdmit_ok h1
          exact h2
        · exact h
      · exact h
      next s' _ _ _ e1 =>
        have h1 : MemoryOk s' := (recordEntry_leaves h).of_fault e1
        split
        · exact portFreeze_ok h1
        · exact h1
    unfold ok
    split
    next e1 => exact State.updPort_ok (stir_ok (ok_of_fst (tileAdmit_ok h) e1))
    · exact tileAdmit_ok h
  · exact h

theorem insertMark_ok {s : State} {p q rb mkint} (h : MemoryOk s) : MemoryOk (insertMark s p q rb mkint) := by
  unfold insertMark
  refine ite_ok h ?_
  split
  next e1 => exact ok_of_fst (letIn_ok h) e1
  next e1 => exact State.updPort_ok (ok_of_fst (letIn_ok h) e1)

theorem snapAll_ok {s : State} {p} (h : MemoryOk s) : MemoryOk (snapAll s p) := h

theorem portSend_ok {s : State} {p q t} (h : MemoryOk s) : MemoryOk (portSend s p q t).1 := by
  unfold portSend
  extract_lets _ plain
  have h1 : MemoryOk plain.1 := by
    unfold plain
    split
    next e1 => exact State.updPort_ok (ok_of_fst (letIn_ok h) e1)
    · exact letIn_ok h
  split
  · exact h
  split
  · exact h1
  split
  · split
    next e1 => exact State.updPort_ok (ok_of_fst (letIn_ok (ite_ok (snapAll_ok h) h)) e1)
    · exact letIn_ok (ite_ok (snapAll_ok h) h)
  split
  · exact insertMark_ok h
  · exact h1

theorem tileTake_leaves {s : State} {p port} (h : MemoryOk s) : OptLeaves (fun r => MemoryOk r.2) (tileTake s p port) := by
  unfold tileTake
  split
  · trivial
  refine ite_holds trivial ?_
  split
  · trivial
  split
  next e1 => exact stir_ok (State.updSite_ok (ok_of_fst (inspect_ok h) e1))

theorem idxHead_leaves {s : State} {p port} (h : MemoryOk s) : OptLeaves (fun r => MemoryOk r.2) (idxHead s p port) := by
  unfold idxHead
  split
  · trivial
  split
  · trivial
  split
  next e1 => exact State.updSite_ok (ok_of_fst (inspect_ok h) e1)

theorem endWithEot_ok {s : State} {p port c} (h : MemoryOk s) : MemoryOk (endWithEot s p port c) := by
  unfold endWithEot
  split
  · exact endCommand_ok h
  · exact ite_ok h (endCommand_ok (State.updSite_ok h))

/-! ### Sys2Proof/Machine/Streams -/

theorem portTurn_ok {s : State} {pr op f act} (hact : ∀ x0 x1 x2 s', MemoryOk s' → MemoryOk (act x0 x1 x2 s')) (h_s : MemoryOk s) :
    OutOk (portTurn pr op f act s) := by
  unfold portTurn
  split
  · exact h_s
  split
  · exact h_s
  refine ite_holds h_s ?_
  split
  · exact h_s
  split
  · split
    · exact portFreeze_ok (State.updRun_ok h_s)
    · exact hact _ _ _ _ h_s
  · exact hact _ _ _ _ h_s

theorem replayToken_ok {s : State} {p q r raw} (h : MemoryOk s) : MemoryOk (replayToken s p q r raw) := by
  unfold replayToken
  refine ite_ok h ?_
  split
  · exact h
  next e1 => exact portFreeze_ok ((replayEntry_leaves h).of_fault e1)
  next e1 => exact portFreeze_ok ((replayEntry_leaves h).of_ok e1)
  next s0 _ _ _ e1 =>
    have h1 : MemoryOk s0 := (replayEntry_leaves h).of_ok e1
    extract_lets
    refine ite_ok h ?_
    split
    · exact h
    split
    · exact h
    next e2 =>
      extract_lets s3 s4
      have h2 : MemoryOk s3 := State.updPort_ok (ok_of_fst (tileAdmit_ok (ite_ok (snapAll_ok h1) h1)) e2)
      have h3 : MemoryOk s4 := ite_ok (endCommand_ok h2) (State.updRun_ok h2)
      exact ite_ok (rollNow_ok h3) h3

theorem deliver_ok {s : State} {p q r total} (h : MemoryOk s) : MemoryOk (deliver s p q r total) := by
  unfold deliver
  refine ite_ok h ?_
  refine ite_ok (replayToken_ok h) ?_
  split
  · exact h
  split
  next e1 => exact ok_of_fst (portSend_ok h) e1
  next s1 e1 =>
    have h1 : MemoryOk s1 := ok_of_fst (portSend_ok h) e1
    exact ite_ok (endCommand_ok h1) (State.updRun_ok h1)

theorem again_ok {s : State} {p q k} (h : MemoryOk s) (hk : ∀ x0 x1, MemoryOk (k x0 x1)) : MemoryOk (again s p q k) := by
  unfold again
  split
  · exact h
  split
  · exact h
  · exact ite_ok h (hk _ _)

theorem goOn_ok {s : State} {p q r k} (h : MemoryOk s) (hk : ∀ x0 x1 x2, MemoryOk (k x0 x1 x2)) : MemoryOk (goOn s p q r k) := by
  unfold goOn
  refine again_ok h (fun _ _ => ?_)
  split
  · exact ite_ok h (hk _ _ _)
  · exact h

theorem mrxTake_ok {s : State} {p q r} (h : MemoryOk s) : MemoryOk (mrxTake s p q r) := by
  unfold mrxTake
  refine ite_ok h ?_
  refine ite_ok (portFail_ok h) ?_
  split
  · exact h
  split
  · exact portFreeze_ok (State.updRun_ok h)
  · exact h
  · exact State.updRun_ok (ite_ok (taint_ok h) h)

theorem execCmdLoad_ok {s : State} {pr f} (h : MemoryOk s) : OutOk (execCmdLoad pr f s) := by
  unfold execCmdLoad
  refine portTurn_ok (fun _ _ _ _ h1 => ?_) h
  extract_lets _ s1
  have h2 : MemoryOk s1 := deliver_ok h1
  refine goOn_ok h2 (fun _ _ _ => ?_)
  refine ite_ok h2 ?_
  refine ite_ok (mrxTake_ok h2) ?_
  split
  · exact h2
  · exact issueElem_ok h2

theorem takeIdx_ok {s : State} {p q r} (h : MemoryOk s) : MemoryOk (takeIdx s p q r) := by
  unfold takeIdx
  split
  · exact h
  next s1 e1 =>
    have h1 : MemoryOk s1 := (idxHead_leaves h).of_some e1
    refine ite_ok h1 ?_
    refine ite_ok h1 ?_
    refine ite_ok (portFail_ok h1) ?_
    exact State.updRun_ok h1

theorem execCmdGather_ok {s : State} {pr f} (h : MemoryOk s) : OutOk (execCmdGather pr f s) := by
  unfold execCmdGather
  refine portTurn_ok (fun _ _ _ _ h1 => ?_) h
  extract_lets _ s1
  have h2 : MemoryOk s1 := deliver_ok h1
  refine goOn_ok h2 (fun _ _ _ => ?_)
  refine ite_ok h2 ?_
  split
  · exact issueElem_ok h2
  refine ite_ok h2 ?_
  split
  · exact takeIdx_ok h2
  · split <;> exact State.updRun_ok h2

theorem issueRemote_ok {s : State} {p q r e feat} (h : MemoryOk s) : MemoryOk (issueRemote s p q r e feat) := by
  unfold issueRemote
  extract_lets _ _ _ _ _ s1
  have h1 : MemoryOk s1 := sentElem_ok h
  exact ite_ok h (ite_ok (badElem_ok h) (ite_ok (badElem_ok h) (sendMessage_ok h1)))

theorem execCmdXget_ok {s : State} {pr f} (h : MemoryOk s) : OutOk (execCmdXget pr f s) := by
  unfold execCmdXget
  refine portTurn_ok (fun _ _ _ _ h1 => ?_) h
  extract_lets _ s1
  have h2 : MemoryOk s1 := deliver_ok h1
  refine goOn_ok h2 (fun _ _ _ => ?_)
  refine ite_ok h2 ?_
  split
  · exact h2
  · exact issueRemote_ok h2

theorem takeBeat_ok {s : State} {p q r total} (h : MemoryOk s) : MemoryOk (takeBeat s p q r total) := by
  unfold takeBeat
  split
  · exact h
  next s1 e1 =>
    have h1 : MemoryOk s1 := (tileTake_leaves h).of_some e1
    refine ite_ok h1 ?_
    extract_lets
    split
    · exact ite_ok (portFail_ok h1) (State.updPort_ok (State.updRun_ok h1))
    · exact ite_ok (portFail_ok h1) (State.updRun_ok h1)
    · refine ite_ok (portFail_ok h1) ?_
      exact ite_ok (ite_ok (portFail_ok h1) (State.updRun_ok h1)) (ite_ok (portFail_ok h1) (State.updRun_ok h1))
    · refine ite_ok (portFail_ok h1) ?_
      exact State.updPort_ok (ite_ok (passMark_ok (State.updRun_ok h1)) (State.updRun_ok h1))
    · exact State.updPort_ok (ite_ok (passMark_ok h1) h1)
    · exact portFail_ok h1

theorem finishTaker_ok {s : State} {p q r} (h : MemoryOk s) : MemoryOk (finishTaker s p q r) := by
  unfold finishTaker
  refine ite_ok ?_ h
  exact endWithEot_ok (ite_ok h (State.updPort_ok (gatherFlags_ok h)))

theorem takerTurn_ok {s : State} {total idx hold issue p q r} (hissue : ∀ s' x1 x2 x3 x4, MemoryOk s' → MemoryOk (issue s' x1 x2 x3 x4))
    (h_s : MemoryOk s) : MemoryOk (takerTurn total idx hold issue p q r s) := by
  unfold takerTurn
  refine ite_ok h_s ?_
  extract_lets _ _ _ s0 _ s1_1
  have h1 : MemoryOk s0 := ite_ok (askMarks_ok h_s) h_s
  have h2 : MemoryOk s1_1 := by
    unfold s1_1
    split
    · exact ite_ok (State.updRun_ok h1) h1
    · exact ite_ok (takeIdx_ok h1) (ite_ok h1 (takeBeat_ok h1))
  refine ite_ok (portFreeze_ok h_s) ?_
  refine ite_ok h_s ?_
  refine again_ok h2 (fun _ _ => ?_)
  split
  · exact h2
  refine ite_ok h2 ?_
  split
  · exact hissue _ _ _ _ _ h2
  · exact finishTaker_ok h2

theorem storeElem_ok {s : State} {p q r e} (h : MemoryOk s) : MemoryOk (storeElem s p q r e) := by
  unfold storeElem
  split
  · exact issueElem_ok h
  split
  next e1 => exact State.updRun_ok ((holdWrite_leaves h).of_ok e1)
  · exact h
  next e1 => exact portFreeze_ok ((holdWrite_leaves h).of_fault e1)

theorem execCmdStore_ok {s : State} {pr f} (h : MemoryOk s) : OutOk (execCmdStore pr f s) :=
  portTurn_ok (fun _ _ _ _ h1 => takerTurn_ok (fun _ _ _ _ _ h2 => storeElem_ok h2) h1) h

theorem execCmdScatter_ok {s : State} {pr f} (h : MemoryOk s) : OutOk (execCmdScatter pr f s) :=
  portTurn_ok (fun _ _ _ _ h1 => takerTurn_ok (fun _ _ _ _ _ h2 => storeElem_ok h2) h1) h

theorem execCmdReduce_ok {s : State} {pr f} (h : MemoryOk s) : OutOk (execCmdReduce pr f s) :=
  portTurn_ok (fun _ _ _ _ h1 => takerTurn_ok (fun _ _ _ _ _ h2 => issueElem_ok h2) h1) h

theorem execCmdXput_ok {s : State} {pr f} (h : MemoryOk s) : OutOk (execCmdXput pr f s) :=
  portTurn_ok (fun _ _ _ _ h1 => takerTurn_ok (fun _ _ _ _ _ h2 => issueRemote_ok h2) h1) h

theorem execCmdCreduce_ok {s : State} {pr f} (h : MemoryOk s) : OutOk (execCmdCreduce pr f s) :=
  portTurn_ok (fun _ _ _ _ h1 => takerTurn_ok (fun _ _ _ _ _ h2 => issueRemote_ok h2) h1) h

theorem execCmdCopy_ok {s : State} {pr f} (h : MemoryOk s) : OutOk (execCmdCopy pr f s) := by
  unfold execCmdCopy
  refine portTurn_ok (fun _ _ _ _ h1 => ?_) h
  refine ite_ok h1 ?_
  refine ite_ok (endWithEot_ok h1) ?_
  split
  · exact issueElem_ok h1
  split
  · split
    · extract_lets
      split
      next e1 => exact State.updRun_ok ((fabWriteSpan_leaves h1).of_ok e1)
      · exact h1
      next e1 => exact portFreeze_ok ((fabWriteSpan_leaves h1).of_fault e1)
    split
    · exact ite_ok (issueElem_ok h1) h1
    · exact h1
  split
  · exact issueElem_ok h1
  · exact h1

theorem walkTurn_ok {s : State} {eot k nd p q r} (h : MemoryOk s) : MemoryOk (walkTurn eot k nd p q r s) := by
  unfold walkTurn
  refine ite_ok h ?_
  refine ite_ok (ite_ok (endWithEot_ok h) (endCommand_ok h)) ?_
  split
  · exact h
  · exact issueElem_ok h

theorem execCmdFill_ok {s : State} {pr f} (h : MemoryOk s) : OutOk (execCmdFill pr f s) := portTurn_ok (fun _ _ _ _ h1 => walkTurn_ok h1) h

theorem execCmdPrefetch_ok {s : State} {pr f} (h : MemoryOk s) : OutOk (execCmdPrefetch pr f s) := by
  unfold execCmdPrefetch
  refine portTurn_ok (fun _ _ _ _ h1 => ?_) h
  split
  · split
    · exact State.updRun_ok h1
    · exact walkTurn_ok h1
  · exact walkTurn_ok h1

theorem execCmdFlush_ok {s : State} {pr f} (h : MemoryOk s) : OutOk (execCmdFlush pr f s) :=
  portTurn_ok (fun _ _ _ _ h1 => walkTurn_ok h1) h

theorem execCmdMcast_ok {s : State} {pr f} (h : MemoryOk s) : OutOk (execCmdMcast pr f s) := by
  unfold execCmdMcast
  refine portTurn_ok (fun _ _ _ _ h1 => ?_) h
  extract_lets
  refine ite_ok h1 ?_
  refine ite_ok (endCommand_ok h1) ?_
  split
  · exact h1
  extract_lets _ s1
  have h2 : MemoryOk s1 := issueElem_ok h1
  refine ite_ok h1 ?_
  split
  · exact ite_ok h2 h2
  · exact h2

theorem execCmdInject_ok {s : State} {pr f} (h : MemoryOk s) : OutOk (execCmdInject pr f s) := by
  unfold execCmdInject
  refine portTurn_ok (fun _ _ _ _ h1 => ?_) h
  refine ite_ok h1 ?_
  refine ite_ok (endCommand_ok h1) ?_
  refine ite_ok (replayToken_ok h1) ?_
  extract_lets
  split
  · exact h1
  next e1 => exact portFreeze_ok ((fabReadSpan_leaves h1).of_fault e1)
  next s' _ e1 =>
    have h2 : MemoryOk s' := (fabReadSpan_leaves h1).of_ok e1
    extract_lets
    split
    next e2 => exact ok_of_fst (portSend_ok h2) e2
    next s1 e2 =>
      have h3 : MemoryOk s1 := ok_of_fst (portSend_ok h2) e2
      exact ite_ok (endCommand_ok h3) (State.updRun_ok h3)

theorem execCmdSync_ok {s : State} {pr f} (h : MemoryOk s) : OutOk (execCmdSync pr f s) := by
  unfold execCmdSync
  refine portTurn_ok (fun _ _ _ _ h1 => ?_) h
  exact ite_ok h1 (ite_ok (endWithEot_ok h1) (endCommand_ok h1))

theorem execCmdRecord_ok {s : State} {pr f} (h : MemoryOk s) : OutOk (execCmdRecord pr f s) :=
  portTurn_ok (fun _ _ _ _ h1 => ite_ok (endCommand_ok h1) h1) h

theorem execCmdReplay_ok {s : State} {pr f} (h : MemoryOk s) : OutOk (execCmdReplay pr f s) :=
  portTurn_ok (fun _ _ _ _ h1 => ite_ok (endCommand_ok h1) h1) h

/-! ### Sys2Proof/Machine/Answers -/

theorem startHead_ok {s : State} {p q c} (h : MemoryOk s) : MemoryOk (startHead s p q c) := by
  unfold startHead
  extract_lets _ _ s1 _ s2
  have h1 : MemoryOk s1 := State.updPort_ok (stir_ok h)
  have h2 : MemoryOk s2 := ite_ok (flashInvalidate_ok h1) h1
  refine ite_ok (endCommand_ok h1) ?_
  exact ite_ok (endCommand_ok (State.updPort_ok h1)) (ite_ok (State.updPort_ok h2) (State.updPort_ok h2))

theorem startIf_ok {s : State} {may place port} (h : MemoryOk s) : OutOk (startIf may place port s) := by
  unfold startIf
  split
  · exact h
  split
  · exact h
  split
  · exact h
  · exact ite_holds (startHead_ok h) h

theorem execCommandStart_ok {s : State} {place port} (h : MemoryOk s) : OutOk (execCommandStart place port s) := startIf_ok h

theorem execCmdPset_ok {s : State} {pr f} (h : MemoryOk s) : OutOk (execCmdPset pr f s) := startIf_ok h

theorem answerElem_ok {s : State} {p q r e k} (h : MemoryOk s) : MemoryOk (answerElem s p q r e k) := by
  unfold answerElem
  split
  · exact State.updRun_ok h
  · exact State.updPort_ok (State.updRun_ok h)
  · exact State.updRun_ok h
  · exact ite_ok (State.updRun_ok h) (State.updRun_ok h)
  · exact ite_ok (State.updRun_ok h) (ite_ok h (State.updRun_ok h))

theorem stepLoss_ok {s : State} {p q k} (h : MemoryOk s) : MemoryOk (stepLoss s p q k) := by
  unfold stepLoss
  split
  · exact portFreeze_ok h
  · exact h

theorem execGeneratorResponse_ok {s : State} {i} (h : MemoryOk s) : OutOk (execGeneratorResponse i s) := by
  unfold execGeneratorResponse
  split
  · exact h
  refine ite_holds h ?_
  split
  · split
    · exact bumpTicket_ok h
    · exact bumpTicket_ok h
    · exact h
  split
  · exact h
  split
  · exact h
  split
  · exact stepLoss_ok h
  · exact answerElem_ok h

theorem execRetryTimerExpire_ok {s : State} {place port elem} (h : MemoryOk s) : OutOk (execRetryTimerExpire place port elem s) := by
  unfold execRetryTimerExpire
  split
  · exact h
  split
  · exact h
  extract_lets
  split
  · exact h
  · exact ite_holds h (sendReq_ok (State.updRun_ok h))

theorem execPageWalkDone_ok {s : State} {place port} (h : MemoryOk s) : OutOk (execPageWalkDone place port s) := by
  unfold execPageWalkDone
  split
  · exact h
  split
  · exact h
  split
  · exact h
  extract_lets _ done
  refine ite_holds h ?_
  split
  · exact h
  next e1 =>
    refine keepXlat_ok ?_
    unfold done
    extract_lets base
    have h1 : MemoryOk base := State.updRun_ok ((walk_leaves h _ _ _ _).of_ok e1)
    exact h1
  next s1 _ _ _ e1 =>
    have h2 : MemoryOk s1 := (walk_leaves h _ _ _ _).of_fault e1
    refine ite_holds ?_ ?_
    · refine State.updRun_ok ?_
      unfold done
      extract_lets base
      have h1 : MemoryOk base := State.updRun_ok h2
      exact h1
    refine badElem_ok ?_
    unfold done
    extract_lets base1
    have h3 : MemoryOk base1 := State.updRun_ok h2
    exact h3

theorem groupLeaves_leaves {s : State} {x g got} (h : MemoryOk s) : MemoryOk (groupLeaves s x g got) := by
  unfold groupLeaves
  exact foldl_ok (fun _ _ h1 => serveRead_ok h1) (setSlice_ok h)

theorem sendCopy_ok {s : State} {data slice l} (h : MemoryOk s) : MemoryOk (sendCopy data slice s l) := sendMessage_ok h

theorem execMcastDepartureNotice_ok {s : State} {place port line} (h : MemoryOk s) :
    OutOk (execMcastDepartureNotice place port line s) := by
  unfold execMcastDepartureNotice
  split
  · exact h
  extract_lets s1 _ _ _ _ s2 s2'
  have h1 : MemoryOk s1 := groupLeaves_leaves h
  have h2 : MemoryOk s2 := foldl_ok (fun _ _ h3 => sendCopy_ok h3) h1
  have h4 : MemoryOk s2' := by
    unfold s2'
    split
    · exact ite_ok h2 (taint_ok h2)
    · exact h2
  refine ite_holds (respond_ok h1) ?_
  split
  · exact h4
  split
  · exact h4
  extract_lets s3_1
  have h5 : MemoryOk s3_1 := State.updRun_ok (dropTimers_ok h4)
  exact ite_holds (endCommand_ok h5) h5

theorem execMcastLanding_ok {s : State} {die core line} (h : MemoryOk s) : OutOk (execMcastLanding die core line s) := by
  unfold execMcastLanding
  extract_lets
  split
  · exact h
  · exact ite_holds h h

theorem execMcastDropNotice_ok {s : State} {die core line} (h : MemoryOk s) : OutOk (execMcastDropNotice die core line s) := by
  unfold execMcastDropNotice
  exact ite_holds h h

theorem execRateWindow_ok {s : State} {place port} (h : MemoryOk s) : OutOk (execRateWindow place port s) := by
  unfold execRateWindow
  split
  · exact h
  · exact ite_holds (State.updPort_ok h) h

theorem writeRgrate_ok {s : State} {place v} (h : MemoryOk s) : MemoryOk (writeRgrate s place v) := by
  unfold writeRgrate
  exact State.updPort_ok (State.updPlace_ok h)

theorem execRgrateWrite_ok {s : State} {place v} (h : MemoryOk s) : OutOk (execRgrateWrite place v s) := writeRgrate_ok h

theorem pushImp_ok {s : State} {t code sub va n} (h : MemoryOk s) : MemoryOk (pushImp s t code sub va n) := by
  unfold pushImp
  refine ite_ok (ite_ok (countLoss_ok h) h) ?_
  split
  next e1 => exact State.updThread_ok (ok_of_fst (scalarRecord_ok h _ _) e1)

theorem amoAlone_leaves {s : State} {t i} (h : MemoryOk s) : OptLeaves MemoryOk (amoAlone s t i) := by
  unfold amoAlone
  extract_lets _ run
  have h1 : OutOk run := by
    unfold run
    split
    · exact execAmoadd_ok h
    · exact execAmoswap_ok h
    · exact execAmocas_ok h
    · exact execAmomin_ok h
    · exact execAmomax_ok h
    · exact execAmoand_ok h
    · exact execAmoor_ok h
    · exact execAmoxor_ok h
    · exact execStl_ok h
    · exact h
  clear_value run
  split
  · refine ite_holds ?_ trivial
    extract_lets base
    have h2 : MemoryOk base := State.updThread_ok h1
    exact h2
  · trivial

/-- A store that a report performs. -/
theorem performStore_leaves {s : State} {t : Thread} {e : StoreEnt} (h : MemoryOk s) :
    OptLeaves MemoryOk ((performStore s t e).map Prod.fst) := by
  have hp : OptLeaves (fun r => MemoryOk r.1) (performStore s t e) := OptLeaves.intro (fun _ e1 => performStore_ok h e1)
  exact hp.map (fun _ h1 => h1)

theorem execMemoryResponseArrive_ok {s : State} {tid r} (h : MemoryOk s) : OutOk (execMemoryResponseArrive tid r s) := by
  unfold execMemoryResponseArrive
  split
  · exact h
  extract_lets out
  have hout : ∀ {st : State} {i : Nat}, MemoryOk st → MemoryOk (out st i) := State.updThread_ok
  split
  · exact dropTimers_ok h
  · split
    · exact h
    refine ite_holds h ?_
    split
    · exact h
    next e1 => exact State.updThread_ok (hout (performStore_ok h e1))
  · split
    · exact h
    · exact ite_holds (pushImp_ok (hout h)) h
  · split
    · exact h
    refine ite_holds h ?_
    split
    · exact h
    next e1 => exact pushImp_ok (hout (ok_of_ite e1 (performStore_leaves h) h))
  · split
    · exact ite_holds (accessFault_ok h _ _ _ _ _ _) h
    · exact h
  · extract_lets
    refine ite_holds (threadLoss_ok h) ?_
    split
    · exact h
    split
    · exact h
    refine ite_holds h ?_
    split
    · exact h
    next s1 e1 =>
    have h1 : MemoryOk s1 := ok_of_ite e1 (amoAlone_leaves h) h
    split
    · exact threadLoss_ok (dropTimers_ok h1)
    · exact h1

/-! ### Sys2Proof/Machine/Calls -/

theorem setGuy_ok {s : State} {g} (h : MemoryOk s) : MemoryOk (setGuy s g) := h

theorem guyPut_ok {s : State} {n asid k t} (h : MemoryOk s) : MemoryOk (guyPut n asid k s t) := by
  unfold guyPut
  exact sendToken_ok (setGuy_ok h)

theorem guySend_ok {s : State} {n asid k l} (h : MemoryOk s) : MemoryOk (guySend s n asid k l) := foldl_ok (fun _ _ h1 => guyPut_ok h1) h

theorem guyTake_ok {s : State} {asid k} (h : MemoryOk s) : MemoryOk (guyTake s asid k) := by
  unfold guyTake
  exact setGuy_ok h

theorem touchInst_ok {s : State} {place} (h : MemoryOk s) : MemoryOk (touchInst s place) := State.updPlace_ok h

theorem strikeInstance_ok {s : State} {id} (h : MemoryOk s) : MemoryOk (strikeInstance s id) := by
  unfold strikeInstance
  split
  · exact h
  split
  · exact h
  extract_lets _ _ s0 _ _ s3
  have h1 : MemoryOk s0 := removePlace_ok h
  have h2 : MemoryOk s3 := State.updPart_ok (ite_ok h1 h1)
  split
  · exact ite_ok h2 h2
  · exact h2

theorem releaseDrained_ok {s : State} {id} (h : MemoryOk s) : MemoryOk (releaseDrained s id) := by
  unfold releaseDrained
  split
  · exact h
  split
  · exact h
  · exact ite_ok (strikeInstance_ok h) h

theorem State.updPitch_ok {s : State} {n f} (h : MemoryOk s) : MemoryOk (State.updPitch s n f) := State.updSite_ok h

theorem openLines_ok {s : State} {n asid wave c i} (h : MemoryOk s) : MemoryOk (openLines s n asid wave c i) := by
  unfold openLines
  split
  · exact h
  extract_lets _ _ s1 s2
  have h1 : MemoryOk s1 := State.updPlace_ok h
  have h2 : MemoryOk s2 := by
    unfold s2
    split
    · exact State.updRb_ok h1
    · exact h1
  exact foldl_ok (fun _ _ h3 => guySend_ok h3) h2

theorem pitchOpen_leaves {c : Ctx} {p} (h : MemoryOk c.s) : OptLeaves MemoryOk (pitchOpen c p) := by
  unfold pitchOpen
  split
  · trivial
  · exact State.updPitch_ok (touchInst_ok (openLines_ok h))

theorem pitchClose_leaves {c : Ctx} {p} (h : MemoryOk c.s) : OptLeaves MemoryOk (pitchClose c p) := by
  unfold pitchClose
  split
  · trivial
  · exact State.updPitch_ok (touchInst_ok (foldl_ok (fun _ _ h1 => guySend_ok h1) h))

theorem takeGuy_ok {s : State} {p n line t} (h : MemoryOk s) : MemoryOk (takeGuy s p n line t).1 := by
  unfold takeGuy
  split
  · exact errorFault_ok h
  · exact inspect_ok h

theorem pitchReceive_leaves {c : Ctx} {p} (h : MemoryOk c.s) : OptLeaves MemoryOk (pitchReceive c p) := by
  unfold pitchReceive
  extract_lets
  split
  · trivial
  extract_lets
  split
  next e1 =>
    exact releaseDrained_ok (State.updPitch_ok (touchInst_ok (ok_of_fst (takeGuy_ok (ite_ok (State.updPlace_ok h) (guyTake_ok h))) e1)))

theorem pitchEmit_leaves {c : Ctx} {p} (h : MemoryOk c.s) : OptLeaves MemoryOk (pitchEmit c p) := by
  unfold pitchEmit
  split
  · trivial
  · exact ite_holds (State.updPitch_ok (State.updSite_ok h)) trivial
  split
  · exact State.updPitch_ok (State.updSite_ok h)
  refine ite_holds (State.updPitch_ok (State.updSite_ok h)) ?_
  refine ite_holds trivial ?_
  exact OptLeaves.map_all (fun _ => State.updPitch_ok (State.updSite_ok h))

theorem firstWaiter_ok {s : State} {asid} (h : MemoryOk s) : MemoryOk (firstWaiter s asid) := by
  unfold firstWaiter
  exact ite_ok h (stir_ok h)

theorem newCall_ok {s : State} {c : Ctx} {routine narg nres k toks} (h : MemoryOk s) : MemoryOk (newCall s c routine narg nres k toks) := by
  unfold newCall
  exact State.updPart_ok (State.updPitch_ok (firstWaiter_ok h))

theorem pitchData_leaves {c : Ctx} {p k dyn t} (h : MemoryOk c.s) : OptLeaves MemoryOk (pitchData c p k dyn t) := by
  unfold pitchData
  refine ite_holds (Ctx.fail_ok h) ?_
  refine ite_holds (Ctx.fail_ok h) ?_
  extract_lets _ _ _ _ _ s1
  have h1 : MemoryOk s1 := State.updPitch_ok (State.updSite_ok h)
  split
  · exact freezeRecord_ok (State.updSite_ok h)
  · exact ite_holds h1 (ite_holds trivial (newCall_ok h1))

theorem pitchFrame_leaves {c : Ctx} {p dyn t} (h : MemoryOk c.s) : OptLeaves MemoryOk (pitchFrame c p dyn t) := by
  unfold pitchFrame
  extract_lets
  split
  · exact ite_ok (Ctx.fail_ok h) (State.updPitch_ok (State.updSite_ok h))
  · exact ite_ok (Ctx.fail_ok h) (ite_ok (Ctx.fail_ok h) (State.updPitch_ok (State.updSite_ok h)))
  · refine ite_ok (Ctx.fail_ok h) ?_
    exact ite_ok (Ctx.fail_ok h) (ite_ok (Ctx.fail_ok h) (gatherFlags_ok (State.updPitch_ok (State.updSite_ok h))))
  · exact ite_holds (Ctx.fail_ok h) (ite_holds trivial (State.updPitch_ok (State.updSite_ok (foldl_ok (fun _ _ h1 => guySend_ok h1) h))))

theorem pitchKill_ok {c : Ctx} {ins} (h : MemoryOk c.s) : MemoryOk (pitchKill c ins) := by
  unfold pitchKill
  exact ite_ok (State.updSite_ok h) (State.updSite_ok (State.updPart_ok (foldl_ok (fun _ _ h1 => strikeInstance_ok h1) h)))

theorem pitchStep_ok {c0 : Ctx} {k} (h : MemoryOk c0.s) : MemoryOk (pitchStep c0 k) := by
  unfold pitchStep
  extract_lets _ ins c p input
  have h1 : MemoryOk c.s := checkHeads_ok h
  have h2 : OptLeaves MemoryOk input := by
    unfold input
    split
    · trivial
    extract_lets
    refine ite_holds (Ctx.fail_ok h1) ?_
    split
    · trivial
    refine ite_holds (Ctx.fail_ok h1) (ite_holds (Ctx.fail_ok h1) (ite_holds ?_ (pitchData_leaves h1)))
    exact ite_holds (Ctx.fail_ok h1) (pitchFrame_leaves h1)
  refine ite_ok h1 (ite_ok (pitchKill_ok h1) ?_)
  have h3 : OptLeaves MemoryOk ([pitchOpen c p, pitchClose c p, pitchReceive c p, pitchEmit c p, input].findSome? (fun x => x)) := by
    refine findSome?_leaves ?_
    simp only [List.forall_mem_cons]
    exact ⟨pitchOpen_leaves h1, pitchClose_leaves h1, pitchReceive_leaves h1, pitchEmit_leaves h1, h2, fun _ hm => nomatch hm⟩
  split
  next e1 => exact h3.of_some e1
  · exact h1

theorem execCellPitch_ok {s : State} {n w} (h : MemoryOk s) : OutOk (execCellPitch n w s) := by
  unfold execCellPitch
  split
  next e1 => exact pitchStep_ok ((siteCtx_leaves h).of_some e1)
  · exact nudge_ok h

theorem execCellPitchg_ok {s : State} {n w} (h : MemoryOk s) : OutOk (execCellPitchg n w s) := by
  unfold execCellPitchg
  split
  next e1 => exact pitchStep_ok ((siteCtx_leaves h).of_some e1)
  · exact nudge_ok h

theorem argpStep_ok {c : Ctx} {line} (h : MemoryOk c.s) : MemoryOk (argpStep c line) := by
  unfold argpStep
  split
  · exact h
  extract_lets
  split
  next s2 _ e1 =>
    have h1 : MemoryOk s2 := ok_of_fst (takeGuy_ok (guyTake_ok h)) e1
    refine ite_ok h1 ?_
    refine ite_ok (Ctx.fail_ok h) ?_
    exact State.updSite_ok (touchInst_ok h1)

theorem execCellArgp_ok {s : State} {n w} (h : MemoryOk s) : OutOk (execCellArgp n w s) := by
  unfold execCellArgp
  split
  · exact nudge_ok h
  next e1 =>
    split
    · exact h
    split
    · exact ite_holds (argpStep_ok ((siteCtx_leaves h).of_some e1)) h
    · exact h

theorem strikeStep_ok {c0 : Ctx} {i} (h : MemoryOk c0.s) : MemoryOk (strikeStep c0 i) := by
  unfold strikeStep
  extract_lets c
  have h1 : MemoryOk c.s := checkHeads_ok h
  split
  · exact h1
  refine ite_ok h1 ?_
  refine ite_ok (Ctx.fail_ok h1) ?_
  split
  · exact State.updSite_ok (touchInst_ok h1)
  · exact ite_ok (Ctx.fail_ok h1) (State.updSite_ok (touchInst_ok h1))
  · exact ite_ok (Ctx.fail_ok h1) (ite_ok (Ctx.fail_ok h1) (State.updSite_ok (touchInst_ok h1)))
  · refine ite_ok (Ctx.fail_ok h1) ?_
    exact passMark_ok (State.updSite_ok (touchInst_ok (foldl_ok (fun _ _ h2 => guySend_ok h2) h1)))
  · refine ite_ok (Ctx.fail_ok h1) ?_
    split
    · exact Ctx.fail_ok h1
    split
    · exact Ctx.fail_ok h1
    · exact State.updSite_ok (touchInst_ok (guySend_ok h1))
  · refine ite_ok (Ctx.fail_ok h1) ?_
    refine ite_ok (Ctx.fail_ok h1) ?_
    refine ite_ok (Ctx.fail_ok h1) ?_
    exact releaseDrained_ok (State.updPlace_ok (gatherFlags_ok (passMark_ok
      (State.updSite_ok (touchInst_ok (foldl_ok (fun _ _ h3 => guySend_ok h3) h1))))))
  · exact Ctx.fail_ok h1

theorem execCellStrike_ok {s : State} {n w} (h : MemoryOk s) : OutOk (execCellStrike n w s) := by
  unfold execCellStrike
  split
  · exact nudge_ok h
  next e1 =>
    split
    · exact h
    · exact ite_ok h (strikeStep_ok ((siteCtx_leaves h).of_some e1))

/-! ### Sys2Proof/Machine/Curator -/

theorem censusPut_ok {s : State} {k n n1 l} (h : MemoryOk s) : MemoryOk (censusPut k s n n1 l).1 := by
  induction k generalizing s n n1 l with
  | zero => exact h
  | succ _ ih =>
    unfold censusPut
    split
    · exact h
    split
    next e1 => exact ih (recPut_ok h e1)
    · exact h

theorem censusTrap_ok {s : State} {asid code es} (h : MemoryOk s) : MemoryOk (censusTrap s asid code es) := by
  unfold censusTrap
  split
  · exact h
  extract_lets
  split
  next s1 _ e1 =>
    have h1 : MemoryOk s1 := by
      refine ok_of_fst ?_ e1
      split
      · exact h
      · exact censusPut_ok h
    exact postSupervisor_ok h1

theorem writeCatctl_ok {s : State} {v} (h : MemoryOk s) : MemoryOk (writeCatctl s v) := by
  unfold writeCatctl
  refine ite_ok (State.updPkg_ok h) ?_
  refine ite_ok (State.updPkg_ok h) ?_
  exact ite_ok (State.updPkg_ok h) (ite_ok (State.updPkg_ok h) (State.updPart_ok (State.updPkg_ok h)))

theorem execCatctlLoad_ok {s : State} {v} (h : MemoryOk s) : OutOk (execCatctlLoad v s) := writeCatctl_ok h

theorem execCatctlErrClear_ok {s : State} (h : MemoryOk s) : OutOk (execCatctlErrClear s) := writeCatctl_ok h

theorem execCatalogueLoadDone_ok {s : State} (h : MemoryOk s) : OutOk (execCatalogueLoadDone s) := by
  unfold execCatalogueLoadDone
  split
  · exact h
  extract_lets s1 s2
  have h1 : MemoryOk s1 := State.updPart_ok (State.updPkg_ok h)
  have h2 : MemoryOk s2 := State.updPkg_ok h1
  split
  · exact State.updPkg_ok h1
  · exact State.updPart_ok h2

theorem stowAway_ok {s : State} {id} (h : MemoryOk s) : MemoryOk (stowAway s id) := by
  unfold stowAway
  split
  · exact h
  · exact ite_ok (State.updPart_ok (removePlace_ok h)) (State.updPart_ok (State.updPlace_ok (keepLeft_ok h)))

theorem askUnstow_ok {s : State} {id} (h : MemoryOk s) : MemoryOk (askUnstow s id) := by
  unfold askUnstow
  split
  · exact h
  split
  · exact h
  · exact State.updPart_ok h

theorem vacate_ok {s : State} {vs} (h : MemoryOk s) : MemoryOk (vacate s vs) := by
  unfold vacate
  exact foldl_ok (fun _ _ h1 => askUnstow_ok h1) (foldl_ok (fun _ _ h2 => stowAway_ok h2) h)

theorem pitchFault_ok {s : State} {asid r code bad} (h : MemoryOk s) : MemoryOk (pitchFault s asid r code bad) := by
  unfold pitchFault
  extract_lets _ _ s1
  have h1 : MemoryOk s1 := State.updPart_ok (vacate_ok h)
  split
  · refine ite_ok h1 ?_
    exact freezeRecord_ok h1
  · exact h1

theorem launchInvalid_ok {s : State} {asid slot bad} (h : MemoryOk s) : MemoryOk (launchInvalid s asid slot bad) := by
  unfold launchInvalid
  exact completeEntry_ok (State.updTask_ok h)

theorem grantOne_ok {s : State} {asid r caller f m q o} (h : MemoryOk s) : MemoryOk (grantOne s asid r caller f m q o).1 := by
  unfold grantOne
  split
  · exact h
  extract_lets
  split
  next e1 => exact State.updPart_ok (State.updPlace_ok (ok_of_fst (placeFolio_ok h) e1))

theorem grantAll_ok {s : State} {asid r caller f m n l} (h : MemoryOk s) : MemoryOk (grantAll asid r caller f m n l s).1 := by
  induction l generalizing n s with
  | nil => exact h
  | cons _ _ ih => exact ih (grantOne_ok h)

theorem grant_ok {s : State} {asid r caller f os} (h : MemoryOk s) : MemoryOk (grant s asid r caller f os) := by
  unfold grant
  extract_lets
  split
  · exact pitchFault_ok h
  split
  next e1 =>
    extract_lets s2_1 s3
    have h1 : MemoryOk s2_1 := stir_ok (State.updPart_ok (ok_of_fst (grantAll_ok h) e1))
    have h2 : MemoryOk s3 := State.updPitch_ok h1
    split
    · exact h1
    split
    · exact h2
    · exact foldl_ok (fun _ _ h3 => openLines_ok h3) h2

theorem beginStow_ok {s : State} {p l} (h : MemoryOk s) : MemoryOk (beginStow p l s) := by
  induction l generalizing s with
  | nil => exact h
  | cons _ _ ih => exact ih (State.updPlace_ok h)

theorem examine_ok {s : State} {asid p r caller f} (h : MemoryOk s) : MemoryOk (examine s asid p r caller f) := by
  unfold examine
  extract_lets
  refine ite_ok (grant_ok h) ?_
  refine ite_ok (grant_ok h) ?_
  refine ite_ok (grant_ok h) ?_
  split
  · exact stir_ok (State.updPart_ok (beginStow_ok h))
  · exact ite_ok (pitchFault_ok h) h

theorem servePitch_ok {s : State} {asid p r} (h : MemoryOk s) : MemoryOk (servePitch s asid p r) := by
  unfold servePitch
  split
  · exact State.updPart_ok h
  refine ite_ok h ?_
  refine ite_ok (pitchFault_ok h) ?_
  split
  · exact examine_ok h
  · exact State.updPart_ok h

theorem serveUnstow_ok {s : State} {asid p r id} (h : MemoryOk s) : MemoryOk (serveUnstow s asid p r id) := by
  unfold serveUnstow
  split
  · exact State.updPart_ok h
  split
  · refine ite_ok (State.updPart_ok h) ?_
    split
    · exact h
    extract_lets s1 s2
    have h1 : MemoryOk s1 := State.updPlace_ok h
    have h2 : MemoryOk s2 := by
      unfold s2
      split <;> exact h1
    exact stir_ok (State.updPart_ok h2)
  · exact State.updPart_ok h

theorem execCuratorServeHead_ok {s : State} {asid core} (h : MemoryOk s) : OutOk (execCuratorServeHead asid core s) := by
  unfold execCuratorServeHead
  split
  · exact h
  refine ite_holds h ?_
  split
  · exact h
  extract_lets s1
  have h1 : MemoryOk s1 := State.updPart_ok h
  split
  · exact serveUnstow_ok h1
  · exact servePitch_ok h1

theorem execCatalogueFetchDone_ok {s : State} {asid die core routine} (h : MemoryOk s) :
    OutOk (execCatalogueFetchDone asid die core routine s) := by
  unfold execCatalogueFetchDone
  split
  · exact h
  extract_lets _ s1 _ s2 s3
  have h1 : MemoryOk s1 := State.updPart_ok h
  have h2 : MemoryOk s2 := imageSeen_ok h1
  have h3 : MemoryOk s3 := by
    unfold s3
    split
    · split
      · exact taint_ok h2
      · exact h2
    · exact h2
  refine ite_holds h ?_
  split
  · exact State.updPart_ok h3
  extract_lets _ s2_1
  have h4 : MemoryOk s2_1 := ite_ok (foldl_ok (fun _ _ h5 => launchInvalid_ok h5) h1) h1
  split
  · exact ite_ok (pitchFault_ok h4) h4
  · exact h4

theorem pageWrite_ok {s : State} {p pages} (h : MemoryOk s) : MemoryOk (pageWrite p pages s) := by
  unfold pageWrite
  refine foldl_ok (fun _ _ h1 => ?_) h
  split
  · exact freeSpan_ok h1
  · exact h1

theorem copyFault_ok {s : State} {asid place f} (h : MemoryOk s) : MemoryOk (copyFault s asid place f) := freezeRecord_ok h

theorem stowServe_ok {s : State} {asid p r vs} (h : MemoryOk s) : MemoryOk (stowServe s asid p r vs) := by
  unfold stowServe
  extract_lets _ _ s2
  have h1 : MemoryOk s2 := stir_ok (State.updPart_ok (vacate_ok h))
  refine ite_ok (State.updPart_ok (vacate_ok h)) ?_
  refine ite_ok h ?_
  refine ite_ok h ?_
  refine ite_ok (servePitch_ok h) ?_
  split
  · exact servePitch_ok h1
  · exact h1

theorem execStowCopyDone_ok {s : State} {asid core} (h : MemoryOk s) : OutOk (execStowCopyDone asid core s) := by
  unfold execStowCopyDone
  split
  · exact h
  split
  · exact h
  extract_lets
  split
  · exact ite_holds (State.updPart_ok (vacate_ok h)) (copyFault_ok (State.updPart_ok h))
  · exact stowServe_ok (pageWrite_ok h)

/-- The pages of the slot that an expansion leaves are written, when it has a partition and a slot to leave. -/
theorem slotWrite_ok {s : State} (o : Option Partition) (l : Option Nat) (h : MemoryOk s) :
    MemoryOk (match o, l with | some q, some slot => pageWrite q ((slotPages q [slot]).drop 8) s | _, _ => s) := by
  split
  · exact pageWrite_ok h
  · exact h

theorem execStowedResultArrive_ok {s : State} {place k tok} (h : MemoryOk s) : OutOk (execStowedResultArrive place k tok s) := by
  unfold execStowedResultArrive
  split
  · exact h
  split
  · exact h
  extract_lets _ s1 from_ s2 s3
  have h1 : MemoryOk s1 := State.updPlace_ok (guyTake_ok h)
  have h2 : MemoryOk s2 := by
    unfold s2
    clear_value from_
    split
    · exact releaseDrained_ok h1
    · exact h1
  have h3 : MemoryOk s3 := slotWrite_ok _ _ h2
  exact ite_holds h (ite_ok (askUnstow_ok h3) h3)

theorem execUnstowCopyDone_ok {s : State} {place} (h : MemoryOk s) : OutOk (execUnstowCopyDone place s) := by
  unfold execUnstowCopyDone
  split
  · exact h
  split
  · refine ite_holds h ?_
    split
    · exact copyFault_ok (State.updPart_ok h)
    · exact stir_ok (State.updPlace_ok h)
  · exact h

theorem writeStowcfg_ok {s : State} {asid v} (h : MemoryOk s) : MemoryOk (writeStowcfg s asid v) := ite_ok h (State.updPart_ok h)

theorem execStowcfgWrite_ok {s : State} {asid v} (h : MemoryOk s) : OutOk (execStowcfgWrite asid v s) := writeStowcfg_ok h

theorem execCuratorStall_ok {s : State} {asid core} (h : MemoryOk s) : OutOk (execCuratorStall asid core s) := by
  unfold execCuratorStall
  split
  · exact h
  split
  · exact h
  refine ite_holds h ?_
  exact censusTrap_ok (State.updPart_ok h)

theorem execGranulesStandby_ok {s : State} {asid} (h : MemoryOk s) : OutOk (execGranulesStandby asid s) := by
  unfold execGranulesStandby
  split
  · exact h
  refine ite_holds h ?_
  extract_lets s1
  have h1 : MemoryOk s1 := State.updPart_ok h
  exact h1

/-! ### Sys2Proof/Machine/Dispatcher -/

theorem execLaunchAging_ok {s : State} {asid slot} (h : MemoryOk s) : OutOk (execLaunchAging asid slot s) := by
  unfold execLaunchAging
  split
  · exact h
  split
  · exact h
  · exact ite_holds h (State.setPart_ok h)

theorem execHeadBlockLimit_ok {s : State} {asid level} (h : MemoryOk s) : OutOk (execHeadBlockLimit asid level s) := by
  unfold execHeadBlockLimit
  split
  · exact h
  split
  · exact h
  · exact ite_holds (State.updTask_ok h) h

theorem startLaunch_ok {s : State} {p e f die gx gy} (h : MemoryOk s) : MemoryOk (startLaunch s p e f die gx gy) := by
  unfold startLaunch
  split
  · exact launchInvalid_ok h
  extract_lets
  split
  · exact h
  split
  next s1 _ e1 =>
    have h1 : MemoryOk s1 := ok_of_fst (placeFolio_ok h) e1
    exact stir_ok (State.updPart_ok h1)

theorem tryLevels_ok {s : State} {p l} (h : MemoryOk s) : MemoryOk (tryLevels p l s) := by
  induction l generalizing s with
  | nil => exact h
  | cons _ _ ih =>
    unfold tryLevels
    split
    · exact ih h
    refine ite_ok (launchInvalid_ok h) ?_
    split
    · exact State.updPart_ok h
    split
    · exact startLaunch_ok h
    · exact ih (State.updTask_ok h)

theorem execDispatch_ok {s : State} {asid} (h : MemoryOk s) : OutOk (execDispatch asid s) := by
  unfold execDispatch
  split
  · exact h
  · exact ite_holds h (tryLevels_ok h)

theorem execFolioPowerReady_ok {s : State} {place} (h : MemoryOk s) : OutOk (execFolioPowerReady place s) := by
  unfold execFolioPowerReady
  split
  · exact h
  · exact ite_holds h (State.updPlace_ok h)

theorem releaseRegion_ok {s : State} {asid slot} (h : MemoryOk s) : MemoryOk (releaseRegion s asid slot) := by
  unfold releaseRegion
  exact State.updPart_ok (foldl_ok (fun _ _ h1 => removePlace_ok h1) (foldl_ok (fun _ _ h2 => strikeInstance_ok h2) h))

theorem finishLaunch_ok {s : State} {asid e} (h : MemoryOk s) : MemoryOk (finishLaunch s asid e) := by
  unfold finishLaunch
  exact stir_ok (completeEntry_ok (releaseRegion_ok (State.updTask_ok h)))

theorem execLaunchComplete_ok {s : State} {asid slot} (h : MemoryOk s) : OutOk (execLaunchComplete asid slot s) := by
  unfold execLaunchComplete
  split
  · exact h
  · exact ite_holds (finishLaunch_ok h) h

theorem execWaitDeadlock_ok {s0 : State} {asid} (h : MemoryOk s0) : OutOk (execWaitDeadlock asid s0) := by
  unfold execWaitDeadlock
  extract_lets s
  have h1 : MemoryOk s := foldl_ok (fun _ _ h2 => ringFresh_ok h2) h
  split
  · exact h1
  · exact ite_holds h1 (ite_holds (stir_ok h1) (censusTrap_ok (State.updPart_ok h1)))

/-! ### Sys2Proof/Machine/Blocks -/

theorem onCtl_ok {s : State} {i f} (h : MemoryOk s) (hf : ∀ x0, MemoryOk (f x0)) : OutOk (onCtl i s f) :=
  onCur_ok h (fun _ => ite_ok (illegal_ok h) (hf _))

theorem execKset_ok {s : State} {a kx p} (h : MemoryOk s) : OutOk (execKset a kx p s) := by
  unfold execKset
  refine onCtl_ok h (fun _ => ?_)
  exact State.setThread_ok h

theorem execKmov_ok {s : State} {kx ky} (h : MemoryOk s) : OutOk (execKmov kx ky s) := onCtl_ok h (fun _ => State.setThread_ok h)

theorem execKld_ok {s : State} {a kx} (h : MemoryOk s) : OutOk (execKld a kx s) := by
  unfold execKld
  refine onCtl_ok h (fun _ => ?_)
  refine checked_ok h _ _ _ _ _ _ (fun _ _ _ h1 => ?_)
  split
  · exact h
  next e1 => exact accessFault_ok ((threadRead_leaves h1 _ _ _ _).of_fault e1) _ _ _ _ _ _
  next e1 => exact State.setThread_ok ((threadRead_leaves h1 _ _ _ _).of_ok e1)

theorem State.ensurePort_ok {s : State} {place port} (h : MemoryOk s) : MemoryOk (State.ensurePort s place port) := State.updPlace_ok h

theorem execScmd_ok {s : State} {d kx} (h : MemoryOk s) : OutOk (execScmd d kx s) := by
  unfold execScmd
  refine onCtl_ok h (fun _ => ?_)
  split
  · refine ite_ok ?_ ?_
    · exact State.setThread_ok (State.updPort_ok (State.ensurePort_ok h))
    refine ite_ok (State.setThread_ok h) ?_
    split
    · refine ite_ok (State.setThread_ok h) ?_
      extract_lets s0
      have h1 : MemoryOk s0 := State.updPort_ok h
      exact State.setThread_ok (State.updPart_ok (ite_ok (State.updPlace_ok h1) h1))
    · exact State.setThread_ok h
  · exact State.setThread_ok h

theorem execPstat_ok {s : State} {d a} (h : MemoryOk s) : OutOk (execPstat d a s) := by
  unfold execPstat
  refine onCtl_ok h (fun _ => ?_)
  exact ite_ok (State.setThread_ok h) (State.setThread_ok h)

theorem execFload_ok {s : State} {d a slot} (h : MemoryOk s) : OutOk (execFload d a slot s) := by
  unfold execFload
  refine onCtl_ok h (fun _ => ?_)
  split
  · refine ite_ok (State.setThread_ok h) ?_
    split
    · exact State.setThread_ok h
    · exact ite_ok (State.setThread_ok h) (State.setThread_ok h)
    · exact ite_ok (State.setThread_ok h) (State.setThread_ok h)
  · exact State.setThread_ok h

theorem execFloadDone_ok {s : State} {tid} (h : MemoryOk s) : OutOk (execFloadDone tid s) := by
  unfold execFloadDone
  split
  · exact h
  split
  · split
    · extract_lets _ s0
      have h1 : MemoryOk s0 := ite_ok h (imageSeen_ok h)
      refine ite_holds h ?_
      split
      · exact State.setThread_ok h
      · exact State.setThread_ok h
      · exact State.setThread_ok (State.updPart_ok (State.updPlace_ok (ite_ok (State.updTask_ok h1) h1)))
    · exact State.setThread_ok h
  · exact h

theorem execFseam_ok {s : State} {d a p} (h : MemoryOk s) : OutOk (execFseam d a p s) := by
  unfold execFseam
  refine onCtl_ok h (fun _ => ?_)
  extract_lets
  split
  · refine ite_ok (State.setThread_ok h) ?_
    refine ite_ok (State.setThread_ok h) ?_
    exact State.setThread_ok (State.updPlace_ok h)
  · exact State.setThread_ok h

theorem execFsel_ok {s : State} {slot} (h : MemoryOk s) : OutOk (execFsel slot s) := by
  unfold execFsel
  refine onCtl_ok h (fun _ => ?_)
  split
  · exact State.setThread_ok h
  · exact ite_ok (State.setThread_ok h) (State.setThread_ok (State.updPlace_ok h))

theorem execBlockSchedule_ok {s : State} {place} (h : MemoryOk s) : OutOk (execBlockSchedule place s) := by
  unfold execBlockSchedule
  split
  · exact h
  refine ite_holds h ?_
  split <;> exact State.updPlace_ok h

theorem execContextSwitch_ok {s : State} {place} (h : MemoryOk s) : OutOk (execContextSwitch place s) := by
  unfold execContextSwitch
  split
  · exact h
  refine ite_holds h ?_
  split
  · split
    · exact h
    · exact ite_holds h (configure_ok (State.updPlace_ok h))
  · exact ite_holds h (configure_ok (State.updPlace_ok h))

/-! ### Sys2Proof/Machine/Waves -/

theorem commitHeld_ok {s : State} {p wave k} (h : MemoryOk s) : MemoryOk (commitHeld p wave k s).1 := by
  induction k generalizing s with
  | zero => exact h
  | succ _ ih =>
    unfold commitHeld
    split
    · exact h
    extract_lets
    split
    · split
      · exact ih (State.updSite_ok (State.updRb_ok (State.updRb_ok h)))
      · exact ih (State.updRb_ok h)
    split
    next e1 => exact ih (State.updRb_ok ((fabWrite_leaves h).of_ok e1))
    · exact h
    next e1 =>
      extract_lets s1
      have h1 : MemoryOk s1 := State.updRb_ok ((fabWrite_leaves h).of_fault e1)
      split
      · exact nodeAccessFault_ok h1
      split
      · exact portFreeze_ok h1
      · exact freezeRecord_ok h1

theorem waveDone_ok {s : State} {p b} (h : MemoryOk s) : MemoryOk (waveDone s p b) := by
  unfold waveDone
  extract_lets _ _ s1
  have h1 : MemoryOk s1 := State.updPlace_ok (ite_ok (taint_ok h) h)
  exact h1

theorem segmentDone_ok {s : State} {p b} (h : MemoryOk s) : MemoryOk (segmentDone s p b) := by
  unfold segmentDone
  extract_lets _ s1
  have h1 : MemoryOk s1 := State.updPlace_ok (State.updTask_ok (ite_ok (taint_ok h) h))
  exact h1

theorem execWaveComplete_ok {s : State} {place} (h : MemoryOk s) : OutOk (execWaveComplete place s) := by
  unfold execWaveComplete
  split
  · exact h
  split
  · exact h
  refine ite_holds h ?_
  refine ite_holds ?_ ?_
  · split
    next e1 => exact segmentDone_ok (ok_of_fst (commitHeld_ok h) e1)
    next e1 => exact ok_of_fst (commitHeld_ok h) e1
  refine ite_holds ?_ h
  split
  next e1 => exact waveDone_ok (ok_of_fst (commitHeld_ok h) e1)
  next e1 => exact ok_of_fst (commitHeld_ok h) e1

theorem markEntries_ok {s : State} {p from_} (h : MemoryOk s) : MemoryOk (markEntries s p from_) := by
  unfold markEntries
  exact foldl_ok (fun _ _ h1 => getD_ok (OptLeaves.intro (fun _ e1 => recPut_ok h1 e1)) h1) h

theorem callsBack_ok {s : State} {p wave} (h : MemoryOk s) : MemoryOk (callsBack s p wave) := by
  unfold callsBack
  extract_lets _ _ _ _ _ s2
  have h1 : MemoryOk s2 := State.updPart_ok (foldl_ok (fun _ _ h2 => strikeInstance_ok h2) h)
  exact h1

theorem regionBack_ok {s : State} {p b} (h : MemoryOk s) : MemoryOk (regionBack s p b) := by
  unfold regionBack
  extract_lets _ _ _ _ _ s1
  have h1 : MemoryOk s1 := State.updPlace_ok (callsBack_ok (markEntries_ok h))
  exact h1

theorem execRollback_ok {s : State} {place} (h : MemoryOk s) : OutOk (execRollback place s) := by
  unfold execRollback
  split
  · exact h
  split
  · exact h
  refine ite_holds h ?_
  exact State.updTask_ok (State.updPlace_ok (regionBack_ok h))

theorem rereadPort_ok {s : State} {p wave q} (h : MemoryOk s) : MemoryOk (rereadPort s p wave q) := by
  unfold rereadPort
  split
  · exact State.updPort_ok h
  · exact foldl_ok (fun _ _ h1 => State.updPart_ok h1) (State.updPort_ok h)

theorem rereadPorts_ok {s : State} {p b} (h : MemoryOk s) : MemoryOk (rereadPorts s p b) := foldl_ok (fun _ _ h1 => rereadPort_ok h1) h

theorem execRollbackReread_ok {s : State} {place} (h : MemoryOk s) : OutOk (execRollbackReread place s) := by
  unfold execRollbackReread
  split
  · exact h
  split
  · exact h
  · exact ite_holds h (rereadPorts_ok h)

theorem writeRbarea_ok {s : State} {asid v} (h : MemoryOk s) : MemoryOk (writeRbarea s asid v) := ite_ok h (State.updPart_ok h)

theorem execRbareaWrite_ok {s : State} {asid v} (h : MemoryOk s) : OutOk (execRbareaWrite asid v s) := writeRbarea_ok h

/-! ### Sys2Proof/Machine/Resume -/

theorem freeRec_ok {s : State} {asid addr} (h : MemoryOk s) : MemoryOk (freeRec s asid addr) := by
  unfold freeRec
  extract_lets s1
  have h1 : MemoryOk s1 := State.updPart_ok h
  split
  · exact h1
  · exact freezeRecord_ok (State.updPart_ok h1)

theorem unstick_ok {s : State} {id} (h : MemoryOk s) : MemoryOk (unstick s id) := State.updPlace_ok h

theorem resendToken_ok {s : State} {a} (h : MemoryOk s) : MemoryOk (resendToken s a) := by
  unfold resendToken
  split
  · exact h
  extract_lets s1
  have h1 : MemoryOk s1 := State.updNet_ok h
  split
  · exact sendToken_ok h1
  · exact h1

theorem resumeOwner_ok {s : State} {asid r} (h : MemoryOk s) : MemoryOk (resumeOwner s asid r) := by
  unfold resumeOwner
  extract_lets s1
  have h1 : MemoryOk s1 := by
    unfold s1
    split
    · exact unstick_ok h
    · exact h
  split
  · extract_lets s2
    have h2 : MemoryOk s2 := by
      unfold s2
      split
      · exact dropXlats_ok (State.updPort_ok h1)
      · exact h1
    refine ite_ok ?_ h2
    split
    · exact taint_ok h2
    · exact h2
  · extract_lets s2
    have h2 : MemoryOk s2 := State.updSite_ok h1
    refine ite_ok ?_ h2
    split
    · exact taint_ok h2
    · exact h2
  · extract_lets s2
    have h2 : MemoryOk s2 := resendToken_ok h1
    split
    · exact taint_ok h2
    · exact h2
  · exact State.updPart_ok h1
  · exact State.updPart_ok h1
  · exact h1

theorem dropPitches_ok {s : State} {asid slot} (h : MemoryOk s) : MemoryOk (dropPitches s asid slot) := by
  unfold dropPitches
  exact State.updPart_ok h

theorem clearRegion_ok {s : State} {p} (h : MemoryOk s) : MemoryOk (clearRegion s p) := by
  unfold clearRegion
  exact State.updPlace_ok (configure_ok h)

theorem dropSegment_ok {s : State} {asid slot} (h : MemoryOk s) : MemoryOk (dropSegment s asid slot) := by
  unfold dropSegment
  extract_lets _ _ _ _ s3 s4
  have h1 : MemoryOk s3 := by
    unfold s3
    refine foldl_ok (fun _ _ h2 => ?_) (foldl_ok (fun _ _ h3 => strikeInstance_ok h3) (dropPitches_ok h))
    exact foldl_ok (fun _ _ h4 => foldl_ok (fun _ _ h5 => endCommand_ok h5) h4) h2
  have h6 : MemoryOk s4 := by
    unfold s4
    refine foldl_ok (fun _ _ h7 => ?_) h1
    split
    · exact clearRegion_ok h7
    · exact h7
  exact State.updPart_ok h6

theorem abandonOwner_ok {s : State} {asid r} (h : MemoryOk s) : MemoryOk (abandonOwner s asid r) := by
  unfold abandonOwner
  split
  · exact h
  · exact ite_ok h (State.updTask_ok (dropSegment_ok h))

theorem writeFresume_ok {s : State} {asid addr abandon} (h : MemoryOk s) : MemoryOk (writeFresume s asid addr abandon) := by
  unfold writeFresume
  split
  · exact h
  · exact freeRec_ok (ite_ok h (ite_ok (abandonOwner_ok h) (resumeOwner_ok h)))

theorem execFresumeResume_ok {s : State} {asid addr} (h : MemoryOk s) : OutOk (execFresumeResume asid addr s) := writeFresume_ok h

theorem execFresumeAbandon_ok {s : State} {asid addr} (h : MemoryOk s) : OutOk (execFresumeAbandon asid addr s) := writeFresume_ok h

/-! ### Sys2Proof/Machine/Cancel -/

theorem killTraffic_ok {s : State} {f g key} (h : MemoryOk s) : MemoryOk (killTraffic s f g key) := h

theorem dropHeld_ok {s : State} {place port c} (h : MemoryOk s) : MemoryOk (dropHeld s place port c).1 := by
  unfold dropHeld
  split
  · exact h
  split
  · exact h
  · exact State.updRb_ok h

theorem dropMcast_ok {s : State} {place port c next} (h : MemoryOk s) : MemoryOk (dropMcast s place port c next) := by
  unfold dropMcast
  split <;> exact h

theorem killCommand_ok {s : State} {place port key c run} (h : MemoryOk s) : MemoryOk (killCommand s place port key c run) := by
  unfold killCommand
  extract_lets _ _ _ s1 s2
  have h1 : MemoryOk s1 := killTraffic_ok h
  have h2 : MemoryOk s2 := by
    unfold s2
    split
    · exact bumpTicket_ok (bumpTicket_ok h1)
    · exact h1
  split
  next e1 =>
    extract_lets s2c
    have h3 : MemoryOk s2c := bumpTicket_ok (ok_of_fst (dropHeld_ok h2) e1)
    exact bumpTicket_ok (endCommand_ok (State.updPort_ok (ite_ok (dropMcast_ok h3) h3)))

theorem killCommands_ok {s : State} {p key f} (h : MemoryOk s) : MemoryOk (killCommands s p key f) := by
  unfold killCommands
  refine foldl_ok (fun _ _ h1 => ?_) h
  exact foldl_ok (fun _ _ h2 => killCommand_ok h2) (foldl_ok (fun _ _ h3 => killCommand_ok h3) h1)

theorem strikeCall_ok {s : State} {n num} (h : MemoryOk s) : MemoryOk (strikeCall s n num) := State.updPitch_ok h

theorem killLaunch_ok {s : State} {asid key e} (h : MemoryOk s) : MemoryOk (killLaunch s asid key e) := by
  unfold killLaunch
  extract_lets _ _ _ _ _ _ _ _ _ _ _ s4 s5
  have h1 : MemoryOk s4 := by
    unfold s4
    refine foldl_ok (fun _ _ h2 => ?_) (foldl_ok (fun _ _ h3 => strikeInstance_ok h3)
      (dropPitches_ok (foldl_ok (fun _ _ h4 => killCommands_ok h4) (bumpTicket_ok (bumpTicket_ok (bumpTicket_ok (bumpTicket_ok h)))))))
    split
    · exact clearRegion_ok h2
    · exact h2
  have h5 : MemoryOk s5 := killTraffic_ok h1
  exact foldl_ok (fun _ _ h6 => freeRec_ok h6) (State.updPart_ok (State.updTask_ok
    (State.updPart_ok (foldl_ok (fun _ _ h7 => abandonRing_ok h7) (ite_ok (stir_ok h5) h5)))))

theorem drainKilled_ok {s : State} {asid slot} (h : MemoryOk s) : MemoryOk (drainKilled s asid slot) := by
  unfold drainKilled
  refine foldl_ok (fun _ _ h1 => ?_) h
  split
  next e1 => exact State.updThread_ok (drainList_ok h1 e1)
  · exact h1

theorem killCalls_ok {s : State} {asid key hit} (h : MemoryOk s) : MemoryOk (killCalls s asid key hit) := by
  unfold killCalls
  extract_lets _ s1
  have h1 : MemoryOk s1 := by
    unfold s1
    refine foldl_ok (fun _ _ h2 => ?_) h
    extract_lets s2_1
    have h3 : MemoryOk s2_1 := bumpTicket_ok (bumpTicket_ok (strikeInstance_ok h2))
    split
    · exact strikeCall_ok h3
    · exact h3
  split
  · exact h1
  · exact foldl_ok (fun _ _ h4 => bumpTicket_ok (strikeCall_ok h4)) (State.updPart_ok h1)

theorem killBarriers_ok {s : State} {asid key root} (h : MemoryOk s) : MemoryOk (killBarriers s asid key root) := by
  unfold killBarriers
  split
  · exact h
  extract_lets _ _ _ s2
  have h1 : MemoryOk s2 := bumpTicket_ok (State.updPart_ok (foldl_ok (fun _ _ h2 => ite_ok (tellBarrier_ok h2)
    (ite_ok (tellBarrier_ok h2) h2)) h))
  exact ite_ok (State.setEvents_ok h1) h1

theorem killRing_ok {s : State} {asid key hit r0} (h : MemoryOk s) : MemoryOk (killRing s asid key hit r0) := by
  unfold killRing
  extract_lets _ s0
  have h1 : MemoryOk s0 := foldl_ok (fun _ _ h2 => tellWaiter_ok h2) (State.setRing_ok h)
  split
  · exact h1
  refine ite_ok h1 ?_
  split
  next e1 =>
    extract_lets
    split
    split
    next e2 =>
      exact bumpTicket_ok (ringEvents_ok (foldl_ok (fun _ _ h3 => freeGranules_ok h3)
        ((ringPut_leaves (State.updPart_ok ((readBytes_leaves h1 _ _ _ _).of_ok e1))).of_some e2)))
    · exact h1
  · exact h1

theorem killRings_ok {s : State} {asid key hit} (h : MemoryOk s) : MemoryOk (killRings s asid key hit) := by
  unfold killRings
  refine foldl_ok (fun _ _ h1 => ?_) h
  extract_lets st1
  have h2 : MemoryOk st1 := ringFresh_ok h1
  split
  · exact killRing_ok h2
  · exact h2

theorem killWaits_ok {s : State} {asid hit} (h : MemoryOk s) : MemoryOk (killWaits s asid hit) := h

theorem killSubtree_ok {s : State} {asid key root} (h : MemoryOk s) : MemoryOk (killSubtree s asid key root) := by
  unfold killSubtree
  split
  · exact h
  extract_lets _ _ _ _ _ _ _ _ _ s6 s7
  have h1 : MemoryOk s6 := by
    unfold s6
    refine foldl_ok (fun _ _ h2 => ?_) (foldl_ok (fun _ _ h3 => killCommands_ok h3)
      (killCalls_ok (State.updPart_ok (foldl_ok (fun _ _ h4 => killLaunch_ok (drainKilled_ok h4)) (killBarriers_ok h)))))
    split
    · exact ite_ok h2 (bumpTicket_ok (cancelEntry_ok h2))
    · exact h2
  have h5 : MemoryOk s7 := killWaits_ok (killRings_ok h1)
  exact h5

theorem execCancel_ok {s : State} {d a b} (h : MemoryOk s) : OutOk (execCancel d a b s) := by
  unfold execCancel
  refine onCur_ok h (fun _ => ?_)
  refine ite_ok (misaligned_ok h) ?_
  refine onPart_ok (State.updThread_ok h) (fun _ => ?_)
  refine ite_ok (State.updThread_ok h) ?_
  refine ite_ok (State.updThread_ok h) ?_
  refine ite_ok (State.updThread_ok h) ?_
  refine ite_ok (State.updThread_ok h) ?_
  extract_lets _ _ s1
  have h1 : MemoryOk s1 := State.setPart_ok h
  exact State.updThread_ok (ite_ok h1 (killSubtree_ok h1))

theorem finishKilled_ok {s : State} {asid hit} (h : MemoryOk s) : MemoryOk (finishKilled s asid hit) := by
  unfold finishKilled
  split
  · exact h
  refine foldl_ok (fun _ _ h1 => ?_) h
  split
  · exact finishLaunch_ok h1
  · exact h1

theorem execCancelAcknowledge_ok {s : State} {asid ticket} (h : MemoryOk s) : OutOk (execCancelAcknowledge asid ticket s) := by
  unfold execCancelAcknowledge
  split
  · exact h
  split
  · exact h
  extract_lets _ _ _ _ _ _ _ s1 s2
  have h1 : MemoryOk s1 := killRings_ok (foldl_ok (fun _ _ h2 => drainKilled_ok h2) h)
  have h3 : MemoryOk s2 := finishKilled_ok h1
  refine ite_holds h ?_
  refine ite_holds h1 ?_
  split
  · extract_lets _ _ _ _ s3_1 s4
    have h4 : MemoryOk s3_1 := State.setPart_ok h3
    have h5 : MemoryOk s4 := by
      unfold s4
      split
      next e1 => exact recPut_ok h4 e1
      · exact postSupervisor_ok h4
    refine stir_ok ?_
    split
    · exact State.setEvent_ok h5
    · exact h5
  · exact h3

/-! ### Sys2Proof/Machine/Matrix -/

theorem freeBuf_ok {s : State} {n} (h : MemoryOk s) : MemoryOk (freeBuf s n) := State.updSite_ok h

theorem matrixCtx_leaves {s : State} {n} (h : MemoryOk s) : OptLeaves (fun c => MemoryOk c.s) (matrixCtx s n) := by
  unfold matrixCtx
  split
  · exact siteCtx_leaves h
  · trivial

theorem matrixStep_ok {s : State} {n op f go} (hgo : ∀ c', MemoryOk c'.s → MemoryOk (go c')) (h_s : MemoryOk s) :
    OutOk (matrixStep n op f go s) := by
  unfold matrixStep
  split
  · exact h_s
  next e1 =>
    extract_lets c1
    have h1 : MemoryOk c1.s := checkHeads_ok ((matrixCtx_leaves h_s).of_some e1)
    refine ite_holds h1 ?_
    split
    · exact h1
    refine ite_holds (meet_ok h1) ?_
    exact ite_holds (meet_ok h1) (ite_holds (Ctx.done_ok h1) (ite_holds (Ctx.fail_ok h1) (hgo _ h1)))

theorem inspectBeats_ok {s : State} {n p l} (h : MemoryOk s) : MemoryOk (inspectBeats n p l s).1 := by
  induction l generalizing s with
  | nil => exact h
  | cons _ _ ih => exact ih (inspect_ok h)

theorem execMma_ok {s : State} {n f} (h : MemoryOk s) : OutOk (execMma n f s) := by
  unfold execMma
  refine matrixStep_ok (fun _ h1 => ?_) h
  extract_lets
  split
  · split
    split
    refine ite_ok (Ctx.fail_ok h1) ?_
    split
    next e1 =>
      split
      next e2 =>
        split
        next e3 =>
          split
          next e4 =>
            split
            exact foldl_ok (fun _ _ h2 => freeBuf_ok h2) (Ctx.done_ok (ok_of_fst
              (inspectBeats_ok (ok_of_fst (inspectBeats_ok (ok_of_fst (inspectBeats_ok (ok_of_fst (inspectBeats_ok h1) e1)) e2)) e3)) e4))
  · exact h1

theorem execMzero_ok {s : State} {n f} (h : MemoryOk s) : OutOk (execMzero n f s) := by
  unfold execMzero
  refine matrixStep_ok (fun _ h1 => ?_) h
  split
  · exact Ctx.done_ok h1
  · exact h1

theorem execMdrain_ok {s : State} {n f} (h : MemoryOk s) : OutOk (execMdrain n f s) := by
  unfold execMdrain
  refine matrixStep_ok (fun _ h1 => ?_) h
  split
  · exact ite_ok h1 (Ctx.done_ok h1)
  · exact h1

/-! ### Sys2Proof/Machine/Parts -/

theorem partResult_ok {s : State} {asid result} (h : MemoryOk s) : MemoryOk (partResult s asid result) := State.updPkg_ok h

theorem setPartBusy_ok {s : State} {b} (h : MemoryOk s) : MemoryOk (setPartBusy s b) := State.updPkg_ok h

theorem moveCopy_ok {s : State} {c} (h : MemoryOk s) : MemoryOk (moveCopy s c) := by
  unfold moveCopy
  split
  split
  · exact h
  split
  extract_lets
  refine ite_ok h ?_
  split
  next e1 => exact recPut_ok (State.updSite_ok h) e1
  · exact copyFreeze_ok h
  · exact copyFreeze_ok h

theorem claimPlanes_leaves {s : State} {p} (h : MemoryOk s) : OptLeaves MemoryOk (claimPlanes s p) := by
  unfold claimPlanes
  exact ite_holds trivial (foldl_ok (fun _ _ h1 => moveCopy_ok h1) h)

theorem partCreate_ok {s : State} {addr asid} (h : MemoryOk s) : MemoryOk (partCreate s addr asid) := by
  unfold partCreate
  split
  · exact partResult_ok h
  refine ite_ok (partResult_ok h) ?_
  extract_lets
  split
  · exact partResult_ok (State.updPkg_ok h)
  refine ite_ok (partResult_ok h) ?_
  refine ite_ok (partResult_ok h) ?_
  refine ite_ok (partResult_ok h) ?_
  split
  · exact partResult_ok h
  next s' e1 =>
    have h1 : MemoryOk s' := ok_of_ite e1 (claimPlanes_leaves h) h
    exact ite_ok (setPartBusy_ok (State.updPkg_ok h1)) (partResult_ok h1)

theorem dropPartition_ok {s : State} {asid} (h : MemoryOk s) : MemoryOk (dropPartition s asid) := h

theorem partDestroy_ok {s : State} {asid} (h : MemoryOk s) : MemoryOk (partDestroy s asid) := by
  unfold partDestroy
  split
  · split
    · exact partResult_ok (dropPartition_ok h)
    · exact partResult_ok (dropPartition_ok h)
    · exact partResult_ok (dropPartition_ok h)
    · exact partResult_ok h
  · exact partResult_ok h

theorem ringWaiters_ok {s : State} {asid} (h : MemoryOk s) : MemoryOk (ringWaiters s asid) := foldl_ok (fun _ _ h1 => abandonRing_ok h1) h

theorem rbHaltRegions_ok {s : State} {asid} (h : MemoryOk s) : MemoryOk (rbHaltRegions s asid) := by
  unfold rbHaltRegions
  refine foldl_ok (fun _ _ h1 => ?_) h
  split
  · split
    · exact ite_ok h1 (regionBack_ok h1)
    · exact h1
  · exact h1

theorem partHalt_ok {s : State} {asid rbhalt} (h : MemoryOk s) : MemoryOk (partHalt s asid rbhalt) := by
  unfold partHalt
  split
  · refine ite_ok (partResult_ok h) ?_
    extract_lets _ s1
    have h1 : MemoryOk s1 := State.updPart_ok (ringWaiters_ok (ringsFresh_ok h))
    exact partResult_ok (ite_ok (rbHaltRegions_ok h1) h1)
  · exact partResult_ok h

theorem execPartitionHalted_ok {s : State} {asid} (h : MemoryOk s) : OutOk (execPartitionHalted asid s) := by
  unfold execPartitionHalted
  split
  · exact h
  refine ite_holds h ?_
  extract_lets s0
  have h1 : MemoryOk s0 := State.updPart_ok h
  exact ite_ok (partResult_ok h1) h1

theorem partResume_ok {s : State} {asid} (h : MemoryOk s) : MemoryOk (partResume s asid) := by
  unfold partResume
  split
  · refine ite_ok (partResult_ok h) ?_
    extract_lets s1 _ s3
    have h1 : MemoryOk s1 := State.updPart_ok h
    have h2 : MemoryOk s3 := by
      unfold s3
      refine foldl_ok (fun _ _ h3 => ?_) h1
      split
      · exact ite_ok h3 (rereadPorts_ok h3)
      · exact h3
    exact partResult_ok h2
  · exact partResult_ok h

theorem movePartition_ok {s : State} {p r} (h : MemoryOk s) : MemoryOk (movePartition s p r) := h

theorem partDrain_ok {s : State} {asid addr} (h : MemoryOk s) : MemoryOk (partDrain s asid addr) :=
  ite_ok (setPartBusy_ok (State.updPkg_ok h)) (partResult_ok h)

theorem partFill_ok {s : State} {asid addr} (h : MemoryOk s) : MemoryOk (partFill s asid addr) := by
  unfold partFill
  refine ite_ok (State.updPkg_ok h) ?_
  split
  · exact partResult_ok h
  refine ite_ok (partResult_ok h) ?_
  split
  · exact partResult_ok h
  · exact ite_ok (partResult_ok h) (ite_ok (partResult_ok h) (setPartBusy_ok (State.updPkg_ok h)))

theorem execPartitionCopyDone_ok {s : State} (h : MemoryOk s) : OutOk (execPartitionCopyDone s) := by
  unfold execPartitionCopyDone
  split
  · exact h
  extract_lets s1
  have h1 : MemoryOk s1 := setPartBusy_ok (State.updPkg_ok h)
  split
  · exact ite_holds h1 (ite_holds h (partCreate_ok h1))
  refine ite_holds (partResult_ok (State.setPart_ok (freeSpan_ok h1))) ?_
  extract_lets
  split
  · exact h1
  split
  · exact partResult_ok (State.updPkg_ok h1)
  split
  · exact partResult_ok h1
  next e1 =>
    refine ite_holds ?_ ?_
    · split
      next e2 => exact (claimPlanes_leaves h).of_some e2
      · exact h
    extract_lets _ _ base
    have h2 : MemoryOk base := State.setPart_ok ((claimPlanes_leaves (movePartition_ok h1)).of_some e1)
    exact partResult_ok h2

theorem partDo_ok {s : State} {v} (h : MemoryOk s) : MemoryOk (partDo s v) := by
  unfold partDo
  split
  · exact partCreate_ok h
  · exact partDestroy_ok h
  · exact partHalt_ok h
  · exact partResume_ok h
  · exact partDrain_ok h
  · exact partFill_ok h
  · exact partResult_ok h

theorem writePartcmd_ok {s : State} {v} (h : MemoryOk s) : MemoryOk (writePartcmd s v) := by
  unfold writePartcmd
  exact ite_ok (State.updPkg_ok h) (ite_ok (State.updPkg_ok h) (partDo_ok (State.updPkg_ok h)))

theorem partRow_ok {s : State} {op v} (h : MemoryOk s) : OutOk (partRow op v s) := ite_ok (writePartcmd_ok h) h

theorem execPartcmdErrClear_ok {s : State} (h : MemoryOk s) : OutOk (execPartcmdErrClear s) := writePartcmd_ok h

theorem execSwapp_ok {s : State} {d a} (h : MemoryOk s) : OutOk (execSwapp d a s) := by
  unfold execSwapp
  refine onCur_ok h (fun _ => ?_)
  refine ite_ok (privTrap_ok h) ?_
  exact ite_ok (State.setThread_ok h) (partResult_ok (State.setThread_ok h))

theorem swapOne_ok {s : State} {p} (h : MemoryOk s) : MemoryOk (swapOne s p) := by
  unfold swapOne
  split
  · exact State.updPart_ok h
  · exact State.updPart_ok h
  · exact h

theorem execSwapPlanesDone_ok {s : State} {tid} (h : MemoryOk s) : OutOk (execSwapPlanesDone tid s) := by
  unfold execSwapPlanesDone
  split
  · exact h
  split
  · refine ite_holds h ?_
    extract_lets _ _ s1
    have h1 : MemoryOk s1 := ite_ok (foldl_ok (fun _ _ h2 => ite_ok (swapOne_ok h2) h2) h) h
    exact partResult_ok (State.updThread_ok (ite_ok (foldl_ok (fun _ _ h3 => ite_ok (swapOne_ok h3) h3) h1) h1))
  · exact h

/-! ### Sys2Proof/Machine/ScalarCtl -/

theorem branch_ok {s : State} {a b disp cond} (h : MemoryOk s) : OutOk (branch a b disp cond s) :=
  onCur_ok h (fun _ => State.setThread_ok h)

theorem execBeq_ok {s : State} {a b imm} (h : MemoryOk s) : OutOk (execBeq a b imm s) := branch_ok h

theorem execBne_ok {s : State} {a b imm} (h : MemoryOk s) : OutOk (execBne a b imm s) := branch_ok h

theorem execBlt_ok {s : State} {a b imm} (h : MemoryOk s) : OutOk (execBlt a b imm s) := branch_ok h

theorem execBge_ok {s : State} {a b imm} (h : MemoryOk s) : OutOk (execBge a b imm s) := branch_ok h

theorem execBltu_ok {s : State} {a b imm} (h : MemoryOk s) : OutOk (execBltu a b imm s) := branch_ok h

theorem execBgeu_ok {s : State} {a b imm} (h : MemoryOk s) : OutOk (execBgeu a b imm s) := branch_ok h

theorem execJmp_ok {s : State} {imm} (h : MemoryOk s) : OutOk (execJmp imm s) := onCur_ok h (fun _ => State.setThread_ok h)

theorem execJal_ok {s : State} {imm} (h : MemoryOk s) : OutOk (execJal imm s) := onCur_ok h (fun _ => State.setThread_ok h)

theorem execJalr_ok {s : State} {d a imm} (h : MemoryOk s) : OutOk (execJalr d a imm s) := by
  unfold execJalr
  refine onCur_ok h (fun _ => ?_)
  exact ite_ok (misaligned_ok h) (State.setThread_ok h)

theorem execFence_ok {s : State} {sc} (h : MemoryOk s) : OutOk (execFence sc s) :=
  onCur_ok h (fun _ => syncPoint_ok h _ _ (fun _ _ h1 => State.setThread_ok (acquireAt_ok h1)))

theorem execWfe_ok {s : State} (h : MemoryOk s) : OutOk (execWfe s) := by
  unfold execWfe
  refine onCur_ok h (fun _ => ?_)
  refine ite_ok (State.setThread_ok h) ?_
  split
  · exact ite_ok (State.setThread_ok h) (State.setThread_ok h)
  · exact State.setThread_ok h

theorem execWfeTimeout_ok {s : State} {tid} (h : MemoryOk s) : OutOk (execWfeTimeout tid s) := by
  unfold execWfeTimeout
  split
  · exact h
  split
  · exact ite_ok (State.setThread_ok h) h
  · exact h

theorem execEret_ok {s : State} (h : MemoryOk s) : OutOk (execEret s) := onCur_ok h (fun _ => ite_ok (privTrap_ok h) (State.setThread_ok h))

theorem execTrap_ok {s : State} {num} (h : MemoryOk s) : OutOk (execTrap num s) := onCur_ok h (fun _ => syncTrap_ok h _ _ _ _ _ _ _)

theorem execHalt_ok {s : State} (h : MemoryOk s) : OutOk (execHalt s) := by
  unfold execHalt
  refine onCur_ok h (fun _ => ?_)
  refine syncPoint_ok h _ _ (fun _ _ h1 => ?_)
  split
  · exact State.setThread_ok h1
  · exact threadEnds_ok (State.setThread_ok h1) _ _

theorem execTakeAsyncTrap_ok {s : State} {tid} (h : MemoryOk s) : OutOk (execTakeAsyncTrap tid s) := by
  unfold execTakeAsyncTrap
  split
  · exact h
  · exact getD_ok (takeAsync_leaves h) h

/-! ### Sys2Proof/Machine/ScalarFp -/

theorem execFsqrt_ok {s : State} {d a rs p} (h : MemoryOk s) : OutOk (execFsqrt d a rs p s) := onCur_ok h (fun _ => State.setThread_ok h)

theorem execFmac_ok {s : State} {d a b rs p} (h : MemoryOk s) : OutOk (execFmac d a b rs p s) := onCur_ok h (fun _ => State.setThread_ok h)

theorem fpPickRR_ok {s : State} {greater d a b p} (h : MemoryOk s) : OutOk (fpPickRR greater d a b p s) := by
  unfold fpPickRR
  refine onCur_ok h (fun _ => ?_)
  exact State.setThread_ok h

theorem execFmin_ok {s : State} {d a b p} (h : MemoryOk s) : OutOk (execFmin d a b p s) := fpPickRR_ok h

theorem execFmax_ok {s : State} {d a b p} (h : MemoryOk s) : OutOk (execFmax d a b p s) := fpPickRR_ok h

theorem execFcvt_ok {s : State} {d a code rs} (h : MemoryOk s) : OutOk (execFcvt d a code rs s) :=
  onCur_ok h (fun _ => State.setThread_ok h)

theorem execFclass_ok {s : State} {d a p} (h : MemoryOk s) : OutOk (execFclass d a p s) := onCur_ok h (fun _ => State.setThread_ok h)

/-! ### Sys2Proof/Machine/ScalarInt -/

theorem execCrcw_ok {s : State} {d a b sc} (h : MemoryOk s) : OutOk (execCrcw d a b sc s) := onCur_ok h (fun _ => State.setThread_ok h)

theorem execAddi_ok {s : State} {d a imm} (h : MemoryOk s) : OutOk (execAddi d a imm s) := intRI_ok h

theorem execAndi_ok {s : State} {d a imm} (h : MemoryOk s) : OutOk (execAndi d a imm s) := intRI_ok h

theorem execOri_ok {s : State} {d a imm} (h : MemoryOk s) : OutOk (execOri d a imm s) := intRI_ok h

theorem execXori_ok {s : State} {d a imm} (h : MemoryOk s) : OutOk (execXori d a imm s) := intRI_ok h

theorem execShli_ok {s : State} {d a imm} (h : MemoryOk s) : OutOk (execShli d a imm s) := intRI_ok h

theorem execShri_ok {s : State} {d a imm} (h : MemoryOk s) : OutOk (execShri d a imm s) := intRI_ok h

theorem execSrai_ok {s : State} {d a imm} (h : MemoryOk s) : OutOk (execSrai d a imm s) := intRI_ok h

theorem execSlti_ok {s : State} {d a imm} (h : MemoryOk s) : OutOk (execSlti d a imm s) := intRI_ok h

theorem execSltui_ok {s : State} {d a imm} (h : MemoryOk s) : OutOk (execSltui d a imm s) := intRI_ok h

theorem execLih_ok {s : State} {d imm} (h : MemoryOk s) : OutOk (execLih d imm s) := onCur_ok h (fun _ => State.setThread_ok h)

/-! ### Sys2Proof/Machine/System -/

theorem writePartReg_ok {s : State} {t p n v} (h : MemoryOk s) : MemoryOk (writePartReg s t p n v) := by
  unfold writePartReg
  split
  · extract_lets
    split
    next e1 => exact (execDqextWrite_ok h).of_next e1
    · exact h
  · exact writeRgrate_ok h
  · exact State.updPart_ok h
  · exact State.updPart_ok h
  · exact writeStowcfg_ok h
  · exact State.updPart_ok h
  · exact writeFresume_ok h
  · exact State.updPart_ok h
  · exact writeRbarea_ok h
  · exact h

theorem writeOtpctl_ok {s : State} {v} (h : MemoryOk s) : MemoryOk (writeOtpctl s v) := by
  unfold writeOtpctl
  extract_lets _ out
  refine ite_ok h ?_
  refine ite_ok ?_ ?_
  · unfold out
    split
    next e1 => exact (execOtpRevokeBlow_ok h).of_next e1
    · exact h
  refine ite_ok ?_ h
  unfold out
  split
  next e1 => exact (execOtpSvnBlow_ok h).of_next e1
  · exact h

theorem writePkgReg_ok {s : State} {io n v} (h : MemoryOk s) : MemoryOk (writePkgReg s io n v) := by
  unfold writePkgReg
  extract_lets out
  split
  · unfold out
    split
    next e1 => exact (execPwrcapWrite_ok h).of_next e1
    · exact h
  · exact ite_ok (State.updPkg_ok h) h
  · unfold out
    split
    next e1 => exact (execAttreqReport_ok h).of_next e1
    · exact h
  · exact writePartcmd_ok h
  · exact State.updPkg_ok h
  · exact writeCatctl_ok h
  · exact State.updPkg_ok h
  · exact writeOtpctl_ok h
  · exact State.updPkg_ok h
  · exact State.setRport_ok h
  · exact State.setRport_ok h
  · unfold out
    split
    next e1 => exact (execRpbind2Write_ok h).of_next e1
    · exact h
  refine ite_ok ?_ ?_
  · unfold out
    split
    next e1 => exact (execSprcodeWrite_ok h).of_next e1
    · exact h
  refine ite_ok (State.updPkg_ok h) ?_
  refine ite_ok ?_ h
  unfold out
  split
  next e1 => exact (execSprcntWrite_ok h).of_next e1
  · exact h

theorem sysWrite_ok {s : State} {t n v} (h : MemoryOk s) : MemoryOk (sysWrite s t n v) := by
  unfold sysWrite
  extract_lets s1
  have h1 : MemoryOk s1 := ite_ok (stir_ok (stir_ok h)) h
  refine ite_ok (State.updThread_ok h1) ?_
  refine ite_ok ?_ (writePkgReg_ok h1)
  split
  · exact writePartReg_ok h1
  · exact h1

theorem sysChecked_ok {s : State} {k : State} {t i n mode} (h : MemoryOk s) (h_k : MemoryOk k) : MemoryOk (sysChecked s t i n mode k) := by
  unfold sysChecked
  split
  · exact illegal_ok h
  · exact ite_ok (privTrap_ok h) h_k

theorem execSysrd_ok {s : State} {g n} (h : MemoryOk s) : OutOk (execSysrd g n s) :=
  onCur_ok h (fun _ => sysChecked_ok h (State.setThread_ok h))

theorem execSyswr_ok {s : State} {g n} (h : MemoryOk s) : OutOk (execSyswr g n s) :=
  onCur_ok h (fun _ => sysChecked_ok h (State.updThread_ok (sysWrite_ok h)))

theorem firstWrite_ok {s : State} {t n v} (h : MemoryOk s) : MemoryOk (firstWrite s t n v) := by
  unfold firstWrite
  refine ite_ok (State.setThread_ok h) ?_
  refine ite_ok ?_ h
  exact State.setThread_ok h

theorem execRegisterWrite_ok {s : State} {n v} (h : MemoryOk s) : OutOk (execRegisterWrite n v s) := by
  unfold execRegisterWrite
  refine onCur_ok h (fun _ => ?_)
  refine ite_ok (firstWrite_ok h) ?_
  split
  · exact h
  · exact ite_ok h (sysWrite_ok h)

theorem treatLine_ok {s : State} {op d i l} (h : MemoryOk s) : MemoryOk (treatLine op d i s l) := by
  unfold treatLine
  exact ite_ok (ite_ok h (writeBack_ok (setSlice_ok h))) (ite_ok h (setSlice_ok h))

theorem treatLines_ok {s : State} {dies hit op} (h : MemoryOk s) : MemoryOk (treatLines s dies hit op).1 := by
  unfold treatLines
  extract_lets
  split
  · exact h
  · exact foldl_ok (fun _ _ h1 => foldl_ok (fun _ _ h2 => treatLine_ok h2) h1) h

theorem drained_ok {s : State} {t k} (h : MemoryOk s) (hk : ∀ s' x1, MemoryOk s' → MemoryOk (k s' x1)) : MemoryOk (drained s t k) := by
  unfold drained
  split
  · exact h
  next e1 => exact hk _ _ (State.setThread_ok (drainList_ok h e1))

theorem cacheOp_ok {s0 : State} {t0 a nd f} (h : MemoryOk s0) (hf : ∀ s' x1 x2, MemoryOk s' → MemoryOk (f s' x1 x2).1) :
    MemoryOk (cacheOp s0 t0 a nd f) := by
  unfold cacheOp
  refine drained_ok h (fun _ _ h1 => ?_)
  extract_lets
  split
  · exact h1
  next e1 => exact accessFault_ok ((threadXl_leaves h1 _ _ _).of_fault e1) _ _ _ _ _ _
  next s' _ _ e1 =>
    have h2 : MemoryOk s' := (threadXl_leaves h1 _ _ _).of_ok e1
    split
    next e2 => exact ok_of_fst (hf _ _ _ h2) e2
    next e2 => exact State.updThread_ok (ok_of_fst (hf _ _ _ h2) e2)

theorem lineOp_ok {s : State} {op t x} (h : MemoryOk s) : MemoryOk (lineOp op s t x).1 := by
  unfold lineOp
  split
  · exact h
  · exact treatLines_ok h

theorem execCacheClean_ok {s : State} {a} (h : MemoryOk s) : OutOk (execCacheClean a s) :=
  onCur_ok h (fun _ => cacheOp_ok h (fun _ _ _ h1 => lineOp_ok h1))

theorem execCacheCleaninv_ok {s : State} {a} (h : MemoryOk s) : OutOk (execCacheCleaninv a s) :=
  onCur_ok h (fun _ => cacheOp_ok h (fun _ _ _ h1 => lineOp_ok h1))

theorem execCacheInv_ok {s : State} {a} (h : MemoryOk s) : OutOk (execCacheInv a s) :=
  onCur_ok h (fun _ => ite_ok (privTrap_ok h) (cacheOp_ok h (fun _ _ _ h1 => lineOp_ok h1)))

theorem blockOp_ok {s : State} {t x} (h : MemoryOk s) : MemoryOk (blockOp s t x).1 := by
  unfold blockOp
  split
  · exact h
  extract_lets
  split
  next s1 _ e1 =>
    have h1 : MemoryOk s1 := ok_of_fst (treatLines_ok h) e1
    exact h1

theorem execCacheBlockinv_ok {s : State} {a} (h : MemoryOk s) : OutOk (execCacheBlockinv a s) :=
  onCur_ok h (fun _ => cacheOp_ok h (fun _ _ _ h1 => blockOp_ok h1))

theorem tlbDrop_ok {s : State} {asid xl tile we} (h : MemoryOk s) : MemoryOk (tlbDrop s asid xl tile we) := h

theorem tlbinv_ok {s : State} {i b all k} (h : MemoryOk s) (hk : ∀ s' x1 x2, MemoryOk s' → MemoryOk (k s' x1 x2)) :
    OutOk (tlbinv i b all s k) := by
  unfold tlbinv
  refine onCur_ok h (fun _ => ?_)
  exact ite_ok (privTrap_ok h) (State.updThread_ok (hk _ _ _ h))

theorem execTlbinvPage_ok {s : State} {a b} (h : MemoryOk s) : OutOk (execTlbinvPage a b s) := by
  unfold execTlbinvPage
  refine tlbinv_ok h (fun _ _ _ h1 => ?_)
  exact tlbDrop_ok h1

theorem execTlbinvAsid_ok {s : State} {a b} (h : MemoryOk s) : OutOk (execTlbinvAsid a b s) := tlbinv_ok h (fun _ _ _ h1 => tlbDrop_ok h1)

theorem execTlbinvAll_ok {s : State} {a b} (h : MemoryOk s) : OutOk (execTlbinvAll a b s) := tlbinv_ok h (fun _ _ _ h1 => tlbDrop_ok h1)

theorem pathsDiffer_ok {s : State} {n} (h : MemoryOk s) : MemoryOk (pathsDiffer n s) := by
  unfold pathsDiffer
  split
  · split
    · exact ite_ok h (State.updSite_ok (errorFault_ok h))
    split
    · exact ite_ok (State.updSite_ok (errorFault_ok h)) h
    · exact h
  · exact h

theorem outsideDo_ok {s : State} {a} (h : MemoryOk s) : MemoryOk (outsideDo a s) := by
  unfold outsideDo
  split
  · exact pathsDiffer_ok h
  · exact outsideAct_ok h

/-! ### The step -/

/-- Every instruction keeps both memories in form. -/
theorem exec_ok {s : State} {i : Instr} (h : MemoryOk s) : OutOk (exec i s) := by
  cases i with
  | powerOnReset => exact execPowerOnReset_ok
  | bootLinkTimeout => exact execBootLinkTimeout_ok h
  | bootDhcpOffer => exact execBootDhcpOffer_ok h
  | bootDhcpTimeout => exact execBootDhcpTimeout_ok h
  | bootImageFetched => exact execBootImageFetched_ok h
  | bootRetryTimer => exact execBootRetryTimer_ok h
  | coreRailUndervolt => exact execCoreRailUndervolt_ok h
  | powerSample => exact execPowerSample_ok h
  | pwrcapWrite => exact execPwrcapWrite_ok h
  | thermalTrip => exact execThermalTrip_ok h
  | railSetFrame => exact execRailSetFrame_ok h
  | railFrameRepeat => exact execRailFrameRepeat_ok h
  | brosumPortTrain => exact execBrosumPortTrain_ok h
  | brosumPortDown => exact execBrosumPortDown_ok h
  | pcieLinkTrain => exact execPcieLinkTrain_ok h
  | messageEncode => exact execMessageEncode_ok h
  | fragmentArrive => exact execFragmentArrive_ok h
  | messageDeliver => exact execMessageDeliver_ok h
  | ingressSlotAdmit => exact execIngressSlotAdmit_ok h
  | decodeTimeout => exact execDecodeTimeout_ok h
  | lossNoticeReceive => exact execLossNoticeReceive_ok h
  | responseTimerExpire => exact execResponseTimerExpire_ok h
  | sprcodeWrite => exact execSprcodeWrite_ok h
  | sprcodeErrClear => exact execSprcodeErrClear_ok h
  | sprcntWrite => exact execSprcntWrite_ok h
  | brosumAckSend => exact execBrosumAckSend_ok h
  | brosumAckReceive => exact execBrosumAckReceive_ok h
  | brosumRetainTimeout => exact execBrosumRetainTimeout_ok h
  | otpRevokeBlow => exact execOtpRevokeBlow_ok h
  | otpSvnBlow => exact execOtpSvnBlow_ok h
  | attreqReport => exact execAttreqReport_ok h
  | attestReportDone => exact execAttestReportDone_ok h
  | attreqErrClear => exact execAttreqErrClear_ok h
  | rppushWrite => exact execRppushWrite_ok h
  | udpHello => exact execUdpHello_ok h
  | udpPush => exact execUdpPush_ok h
  | ringAgentPush => exact execRingAgentPush_ok h
  | rpbind2Write => exact execRpbind2Write_ok h
  | partcmdCreate | partcmdDestroy | partcmdHalt | partcmdResume | partcmdDrain | partcmdFill => exact partRow_ok h
  | partcmdErrClear => exact execPartcmdErrClear_ok h
  | partitionCopyDone => exact execPartitionCopyDone_ok h
  | partitionHalted => exact execPartitionHalted_ok h
  | swapPlanesDone => exact execSwapPlanesDone_ok h
  | launchComplete => exact execLaunchComplete_ok h
  | launchAging => exact execLaunchAging_ok h
  | dispatch => exact execDispatch_ok h
  | headBlockLimit => exact execHeadBlockLimit_ok h
  | folioPowerReady => exact execFolioPowerReady_ok h
  | blockSchedule => exact execBlockSchedule_ok h
  | contextSwitch => exact execContextSwitch_ok h
  | rgrateWrite => exact execRgrateWrite_ok h
  | rateWindow => exact execRateWindow_ok h
  | dqextWrite => exact execDqextWrite_ok h
  | stealRequest => exact execStealRequest_ok h
  | stealResponse => exact execStealResponse_ok h
  | stealAck => exact execStealAck_ok h
  | stealCopyTimeout => exact execStealCopyTimeout_ok h
  | ringOpAtSlice => exact execRingOpAtSlice_ok h
  | ringWaitGrant => exact execRingWaitGrant_ok h
  | ringReinit => exact execRingReinit_ok h
  | waitDeadlock => exact execWaitDeadlock_ok h
  | cancelAcknowledge => exact execCancelAcknowledge_ok h
  | catctlLoad => exact execCatctlLoad_ok h
  | catalogueLoadDone => exact execCatalogueLoadDone_ok h
  | catctlErrClear => exact execCatctlErrClear_ok h
  | catalogueFetchDone => exact execCatalogueFetchDone_ok h
  | curatorServeHead => exact execCuratorServeHead_ok h
  | stowCopyDone => exact execStowCopyDone_ok h
  | stowedResultArrive => exact execStowedResultArrive_ok h
  | unstowCopyDone => exact execUnstowCopyDone_ok h
  | stowcfgWrite => exact execStowcfgWrite_ok h
  | curatorStall => exact execCuratorStall_ok h
  | granulesStandby => exact execGranulesStandby_ok h
  | switchForward => exact execSwitchForward_ok h
  | siteClockGate => exact execSiteClockGate_ok h
  | siteWake => exact execSiteWake_ok h
  | pageWalkDone => exact execPageWalkDone_ok h
  | sliceRequest => exact execSliceRequest_ok h
  | retryTimerExpire => exact execRetryTimerExpire_ok h
  | prioReservationExpire => exact execPrioReservationExpire_ok h
  | sliceFillInstall => exact execSliceFillInstall_ok h
  | writebackAck => exact execWritebackAck_ok h
  | llcRequest => exact execLlcRequest_ok h
  | llcFill => exact execLlcFill_ok h
  | expanderDecodeDone => exact execExpanderDecodeDone_ok h
  | generatorResponse => exact execGeneratorResponse_ok h
  | fresumeResume => exact execFresumeResume_ok h
  | fresumeAbandon => exact execFresumeAbandon_ok h
  | waveComplete => exact execWaveComplete_ok h
  | rollback => exact execRollback_ok h
  | rollbackReread => exact execRollbackReread_ok h
  | rbareaWrite => exact execRbareaWrite_ok h
  | takeAsyncTrap => exact execTakeAsyncTrap_ok h
  | memoryResponseArrive => exact execMemoryResponseArrive_ok h
  | wfeTimeout => exact execWfeTimeout_ok h
  | commandStart => exact execCommandStart_ok h
  | mcastLanding => exact execMcastLanding_ok h
  | mcastDepartureNotice => exact execMcastDepartureNotice_ok h
  | mcastDropNotice => exact execMcastDropNotice_ok h
  | floadDone => exact execFloadDone_ok h
  | registerWrite => exact execRegisterWrite_ok h
  | add | sub | and | or | xor | shl | shr | sra | mul | mulh | mulhu | div | divu | rem | remu | min | max | minu | maxu | slt
  | sltu => exact intRR_ok h
  | clz | ctz | popc | bswap => exact intR_ok h
  | crcw => exact execCrcw_ok h
  | addi => exact execAddi_ok h
  | andi => exact execAndi_ok h
  | ori => exact execOri_ok h
  | xori => exact execXori_ok h
  | shli => exact execShli_ok h
  | shri => exact execShri_ok h
  | srai => exact execSrai_ok h
  | slti => exact execSlti_ok h
  | sltui => exact execSltui_ok h
  | lih => exact execLih_ok h
  | fadd | fsub | fmul | fdiv | feq | flt | fle => exact fpRR_ok h
  | fsqrt => exact execFsqrt_ok h
  | fmac => exact execFmac_ok h
  | fmin => exact execFmin_ok h
  | fmax => exact execFmax_ok h
  | fcvt => exact execFcvt_ok h
  | fclass => exact execFclass_ok h
  | ldb | ldbu | ldh | ldhu | ldw | ldwu | ldd => exact loadInstr_ok h
  | stb | sth | stw | std => exact storeInstr_ok h
  | lda => exact execLda_ok h
  | stl a b sc w => exact @execStl_ok s a b sc w h
  | amoadd => exact execAmoadd_ok h
  | amoswap => exact execAmoswap_ok h
  | amocas => exact execAmocas_ok h
  | amomin => exact execAmomin_ok h
  | amomax => exact execAmomax_ok h
  | amoand => exact execAmoand_ok h
  | amoor => exact execAmoor_ok h
  | amoxor => exact execAmoxor_ok h
  | beq => exact execBeq_ok h
  | bne => exact execBne_ok h
  | blt => exact execBlt_ok h
  | bge => exact execBge_ok h
  | bltu => exact execBltu_ok h
  | bgeu => exact execBgeu_ok h
  | jmp => exact execJmp_ok h
  | jal => exact execJal_ok h
  | jalr => exact execJalr_ok h
  | fence => exact execFence_ok h
  | barinit => exact execBarinit_ok h
  | bararr => exact execBararr_ok h
  | barwait => exact execBarwait_ok h
  | wfe => exact execWfe_ok h
  | kset => exact execKset_ok h
  | kmov => exact execKmov_ok h
  | kld => exact execKld_ok h
  | scmd => exact execScmd_ok h
  | pstat => exact execPstat_ok h
  | fload => exact execFload_ok h
  | fsel => exact execFsel_ok h
  | fseam => exact execFseam_ok h
  | launch => exact execLaunch_ok h
  | lwait => exact execLwait_ok h
  | dqpush => exact execDqpush_ok h
  | dqpop => exact execDqpop_ok h
  | dqsteal => exact execDqsteal_ok h
  | rclaim => exact execRclaim_ok h
  | rcommit => exact execRcommit_ok h
  | rwait => exact execRwait_ok h
  | rretire => exact execRretire_ok h
  | scopen => exact execScopen_ok h
  | scclose => exact execScclose_ok h
  | scset => exact execScset_ok h
  | cancel => exact execCancel_ok h
  | cwait => exact execCwait_ok h
  | eret => exact execEret_ok h
  | halt => exact execHalt_ok h
  | cacheClean => exact execCacheClean_ok h
  | cacheCleaninv => exact execCacheCleaninv_ok h
  | cacheInv => exact execCacheInv_ok h
  | cacheBlockinv => exact execCacheBlockinv_ok h
  | tlbinvPage => exact execTlbinvPage_ok h
  | tlbinvAsid => exact execTlbinvAsid_ok h
  | tlbinvAll => exact execTlbinvAll_ok h
  | swapp => exact execSwapp_ok h
  | sysrd => exact execSysrd_ok h
  | syswr => exact execSyswr_ok h
  | trap => exact execTrap_ok h
  | cmdLoad => exact execCmdLoad_ok h
  | cmdStore => exact execCmdStore_ok h
  | cmdCopy => exact execCmdCopy_ok h
  | cmdGather => exact execCmdGather_ok h
  | cmdScatter => exact execCmdScatter_ok h
  | cmdReduce => exact execCmdReduce_ok h
  | cmdMcast => exact execCmdMcast_ok h
  | cmdFill => exact execCmdFill_ok h
  | cmdPset => exact execCmdPset_ok h
  | cmdInject => exact execCmdInject_ok h
  | cmdSync => exact execCmdSync_ok h
  | cmdRecord => exact execCmdRecord_ok h
  | cmdReplay => exact execCmdReplay_ok h
  | cmdXput => exact execCmdXput_ok h
  | cmdXget => exact execCmdXget_ok h
  | cmdCreduce => exact execCmdCreduce_ok h
  | cmdPrefetch => exact execCmdPrefetch_ok h
  | cmdFlush => exact execCmdFlush_ok h
  | cellAdd => exact execCellAdd_ok h
  | cellSub => exact execCellSub_ok h
  | cellMul => exact execCellMul_ok h
  | cellMac => exact execCellMac_ok h
  | cellMin => exact execCellMin_ok h
  | cellMax => exact execCellMax_ok h
  | cellAbs => exact execCellAbs_ok h
  | cellNeg => exact execCellNeg_ok h
  | cellCmp => exact execCellCmp_ok h
  | cellSel => exact execCellSel_ok h
  | cellAnd => exact execCellAnd_ok h
  | cellOr => exact execCellOr_ok h
  | cellXor => exact execCellXor_ok h
  | cellNot => exact execCellNot_ok h
  | cellShl => exact execCellShl_ok h
  | cellShr => exact execCellShr_ok h
  | cellSra => exact execCellSra_ok h
  | cellRcp => exact execCellRcp_ok h
  | cellRsq => exact execCellRsq_ok h
  | cellSqrt => exact execCellSqrt_ok h
  | cellExp2 => exact execCellExp2_ok h
  | cellLog2 => exact execCellLog2_ok h
  | cellTanh => exact execCellTanh_ok h
  | cellSig => exact execCellSig_ok h
  | cellCvt => exact execCellCvt_ok h
  | cellScale => exact execCellScale_ok h
  | cellRsum => exact execCellRsum_ok h
  | cellRmax => exact execCellRmax_ok h
  | cellAcc => exact execCellAcc_ok h
  | cellPerm => exact execCellPerm_ok h
  | cellBcast => exact execCellBcast_ok h
  | cellPack => exact execCellPack_ok h
  | cellUnpack => exact execCellUnpack_ok h
  | cellConst => exact execCellConst_ok h
  | cellPass => exact execCellPass_ok h
  | cellFilter => exact execCellFilter_ok h
  | cellLoop => exact execCellLoop_ok h
  | cellCount => exact execCellCount_ok h
  | cellLd => exact execCellLd_ok h
  | cellSt => exact execCellSt_ok h
  | cellAt => exact execCellAt_ok h
  | cellLda => exact execCellLda_ok h
  | cellStl => exact execCellStl_ok h
  | cellFork => exact execCellFork_ok h
  | cellJoin => exact execCellJoin_ok h
  | cellFence => exact execCellFence_ok h
  | cellAgen => exact execCellAgen_ok h
  | cellBuf => exact execCellBuf_ok h
  | cellFifo => exact execCellFifo_ok h
  | cellLinebuf => exact execCellLinebuf_ok h
  | cellSport => exact execCellSport_ok h
  | cellMseq => exact execCellMseq_ok h
  | mma => exact execMma_ok h
  | mzero => exact execMzero_ok h
  | mdrain => exact execMdrain_ok h
  | cellHdrgen => exact execCellHdrgen_ok h
  | cellMarkin => exact execCellMarkin_ok h
  | cellFlags => exact execCellFlags_ok h
  | cellSegin => exact execCellSegin_ok h
  | cellPitch => exact execCellPitch_ok h
  | cellPitchg => exact execCellPitchg_ok h
  | cellArgp => exact execCellArgp_ok h
  | cellStrike => exact execCellStrike_ok h
  | ropSteer => exact execRopSteer_ok h
  | ropMerge => exact execRopMerge_ok h
  | ropCarry => exact execRopCarry_ok h
  | ropInvar => exact execRopInvar_ok h
  | ropOrdmerge => exact execRopOrdmerge_ok h
  | ropGate => exact execRopGate_ok h
  | ethernetLinkUp => exact execEthernetLinkUp_ok h
  | hbm4eStackTrained => exact execHbm4eStackTrained_ok h
  | fabricDieTrained => exact execFabricDieTrained_ok h
  | coreRailUp => exact execCoreRailUp_ok h

/-- A thread at its turn keeps both memories in form. -/
theorem issue_ok {s : State} {id : ThreadId} (h : MemoryOk s) : OutOk (issue s id) := by
  unfold issue
  extract_lets s0
  have h0 : MemoryOk s0 := h
  split
  · exact idle_ok h0
  next t _ =>
  refine ite_holds (idle_ok h0) ?_
  split
  next e1 => exact (takeAsync_leaves h0).of_some e1
  refine ite_holds ?_ (idle_ok h0)
  have hf : (fetch s0 t).Ok := fetch_ok h0
  split
  · exact idle_ok h0
  next e1 =>
    rw [e1] at hf
    exact hf
  next e1 =>
    rw [e1] at hf
    split
    · exact exec_ok hf
    · exact illegal_ok hf

theorem perform_ok {s : State} {i : Option Instr} (h : MemoryOk s) : OutOk (perform s i) := by
  unfold perform
  split
  · exact exec_ok h
  · exact h

theorem step_ok {s : State} (h : MemoryOk s) : OutOk (step s) := by
  unfold step
  split
  · exact issue_ok h
  extract_lets s0
  have h0 : MemoryOk s0 := h
  split
  · exact issue_ok h0
  · exact perform_ok h0
  · exact perform_ok h0
  · exact perform_ok h0
  · exact ite_holds (exec_ok h0) h0
  · exact outsideDo_ok h0
  · exact h0

/-- Settles O59: the step writes the memories through `memWrite`, which keeps the form, and POWER_ON_RESET empties them. -/
theorem stepKeepsMemoryOk : Obligations.StepKeepsMemoryOk := by
  unfold Obligations.StepKeepsMemoryOk
  intro s s' h hstep
  exact (step_ok h).of_next hstep

end Sys2Proof.Machine
end

section
/-! SUPPORT. Power control, rails and links (O37): what the package's steps leave in its registers, and what the loss of a die
leaves of the rest of the state. -/

namespace Sys2Proof.Machine
open Sys2Proof.Claims

-- One after another: proofs elaborated at a time take a thread each, whose stacks are the most of the check's memory.
set_option Elab.async false

/-! ### Fields of a word as numbers -/

theorem toNat_extractLsb'_eq_bitsOf {n : Nat} (w : BitVec n) (lo len : Nat) : (w.extractLsb' lo len).toNat = bitsOf w.toNat lo len := by
  rw [BitVec.extractLsb'_toNat, Nat.shiftRight_eq_div_pow, bitsOf]

theorem bitsOf_one_eq_one_iff {n : Nat} (w : BitVec n) (k : Nat) : bitsOf w.toNat k 1 = 1 ↔ w.getLsbD k = true := by
  rw [bitsOf, BitVec.getLsbD, Nat.testBit_eq_decide_div_mod_eq, decide_eq_true_iff, pow_one]

/-- A concatenation as a sum: the model writes its registers as sums of their fields. -/
theorem toNat_append_eq_add {n m : Nat} (x : BitVec n) (y : BitVec m) : (x ++ y).toNat = x.toNat * 2 ^ m + y.toNat := by
  rw [BitVec.toNat_append, ← Nat.shiftLeft_add_eq_or_of_lt y.isLt, Nat.shiftLeft_eq]

/-! ### The power cap, the sample and the thermal trip (R18-R21) -/

theorem pwrstatOf_eq_append (r : Sample) {f thr : Nat} (hf : f < 32) (ht : thr < 4) :
    pwrstatOf r f thr = r.tjmax ++ r.ifab ++ r.ppkg ++ r.hotdie ++ BitVec.ofNat 5 f ++ 0#5 ++ BitVec.ofNat 2 thr := by
  apply BitVec.eq_of_toNat_eq
  simp only [pwrstatOf, toNat_append_eq_add, BitVec.toNat_ofNat]
  have := r.tjmax.isLt
  have := r.ifab.isLt
  have := r.ppkg.isLt
  have := r.hotdie.isLt
  omega

/-- The throttle factor stays in its field, and so does THR. -/
theorem throttle_lt {f thr : Nat} (hf : f ≤ 16) (ht : thr < 4) (power current hot : Bool) :
    (throttle f thr power current hot).1 < 32 ∧ (throttle f thr power current hot).2 < 4 := by
  unfold throttle
  split_ifs <;> constructor <;> dsimp only <;> omega

/-- R18's four cases, the strictest first. -/
theorem throttle_cases {watts amps warm : Prop} [Decidable watts] [Decidable amps] [Decidable warm] (f thr : Nat) :
    let m := throttle f thr watts amps warm
    (warm → m.1 = max 1 (f - 4) ∧ m.2 = 3) ∧ (¬ warm → amps → m.1 = max 1 (f - 2) ∧ m.2 = 2) ∧
    (¬ warm → ¬ amps → watts → m.1 = max 1 (f - 1) ∧ m.2 = 1) ∧
    (¬ warm → ¬ amps → ¬ watts → m.1 = min 16 (f + 1) ∧ m.2 = if m.1 = 16 then 0 else thr) := by
  refine ⟨fun hw => ?_, fun hw ha => ?_, fun hw ha hp => ?_, fun hw ha hp => ?_⟩
  · simp [throttle, hw]
  · simp [throttle, hw, ha]
  · simp [throttle, hw, ha, hp]
  · have hfull : min 16 (f + 1) = 16 ↔ f + 1 ≥ 16 := by omega
    simp [throttle, hw, ha, hp, hfull]

/-- A sample below 115 °C: each field of PWRSTAT, the factor and THR as `throttle` moves them. -/
theorem exec_powerSample_of_lt (s : State) (r : Sample) (hcold : r.tjmax.toInt < 920) (hf : (s.pkg.pwrstat.extractLsb' 7 5).toNat ≤ 16) :
    let m := throttle (s.pkg.pwrstat.extractLsb' 7 5).toNat (s.pkg.pwrstat.extractLsb' 0 2).toNat
      (r.ppkg.toNat > (s.pkg.pwrcap.extractLsb' 16 14).toNat) (r.ifab.toNat > 100 * (s.pkg.pwrcap.extractLsb' 8 8).toNat)
      (840 ≤ r.tjmax.toInt)
    exec (.powerSample r) s = .next (s.updPkg (fun p => { p with
      capApplied := p.pwrcap
      pwrstat := r.tjmax ++ r.ifab ++ r.ppkg ++ r.hotdie ++ BitVec.ofNat 5 m.1 ++ 0#5 ++ BitVec.ofNat 2 m.2 })) := by
  intro m
  obtain ⟨h1, h2⟩ : m.1 < 32 ∧ m.2 < 4 := throttle_lt hf (BitVec.isLt _) _ _ _
  rw [← pwrstatOf_eq_append r h1 h2]
  change execPowerSample r s = _
  simp only [m, toNat_extractLsb'_eq_bitsOf, Nat.mul_comm 100]
  exact if_neg (Int.not_le.mpr hcold)

/-- A sample of 115 °C or more updates PWRSTAT but for the factor and THR, and trips. -/
theorem exec_powerSample_of_ge (s : State) (r : Sample) (hhot : 920 ≤ r.tjmax.toInt) :
    exec (.powerSample r) s = exec (.thermalTrip r.hotdie r.tjmax) (s.updPkg (fun p => { p with
      capApplied := p.pwrcap
      pwrstat := r.tjmax ++ r.ifab ++ r.ppkg ++ r.hotdie ++ p.pwrstat.extractLsb' 7 5 ++ 0#5 ++ p.pwrstat.extractLsb' 0 2 })) := by
  have hword := pwrstatOf_eq_append r (s.pkg.pwrstat.extractLsb' 7 5).isLt (s.pkg.pwrstat.extractLsb' 0 2).isLt
  rw [BitVec.ofNat_toNat, BitVec.ofNat_toNat, BitVec.setWidth_eq, BitVec.setWidth_eq] at hword
  change execPowerSample r s = _
  simp only [State.updPkg, ← hword, toNat_extractLsb'_eq_bitsOf]
  exact if_pos hhot

theorem thermtrip_eq_append (hot : BitVec 4) (temp : BitVec 16) :
    BitVec.ofNat 64 (temp.toNat * 2 ^ 16 + hot.toNat * 2 + 1) = 0#32 ++ temp ++ 0#11 ++ hot ++ 1#1 := by
  apply BitVec.eq_of_toNat_eq
  simp only [toNat_append_eq_add, BitVec.toNat_ofNat]
  have := temp.isLt
  have := hot.isLt
  omega

theorem pwrcap_eq_append {capw ipeak : Nat} (hc : capw < 2 ^ 14) (hi : ipeak < 2 ^ 8) (v : Word) :
    BitVec.ofNat 64 (capw * 2 ^ 16 + ipeak * 2 ^ 8 + v.toNat % 2) =
      0#34 ++ BitVec.ofNat 14 capw ++ BitVec.ofNat 8 ipeak ++ 0#7 ++ v.extractLsb' 0 1 := by
  apply BitVec.eq_of_toNat_eq
  simp only [toNat_append_eq_add, BitVec.toNat_ofNat, toNat_extractLsb'_eq_bitsOf, bitsOf]
  omega

/-- A write of PWRCAP while LOCK is 0 takes both caps, held within their ranges, and LOCK. -/
theorem exec_pwrcapWrite_of_unlocked (s : State) (v : Word) (h : s.pkg.pwrcap.getLsbD 0 = false) :
    exec (.pwrcapWrite v) s = .next (s.updPkg (fun p => { p with
      pwrcap := 0#34 ++ BitVec.ofNat 14 (max 1000 (min 10000 (v.extractLsb' 16 14).toNat)) ++
        BitVec.ofNat 8 (max 20 (min 200 (v.extractLsb' 8 8).toNat)) ++ 0#7 ++ v.extractLsb' 0 1 })) := by
  have hopen : ¬ bitsOf s.pkg.pwrcap.toNat 0 1 = 1 := by rw [bitsOf_one_eq_one_iff, h]; exact Bool.false_ne_true
  change execPwrcapWrite v s = _
  rw [← pwrcap_eq_append (by omega) (by omega)]
  simp only [toNat_extractLsb'_eq_bitsOf]
  exact if_neg hopen

theorem exec_pwrcapWrite_of_locked (s : State) (v : Word) (h : s.pkg.pwrcap.getLsbD 0 = true) : exec (.pwrcapWrite v) s = .next s :=
  if_pos ((bitsOf_one_eq_one_iff _ _).mpr h)

/-- R18-R21: a sample's two outcomes, the trip, and a write of PWRCAP with LOCK clear and set. -/
theorem powerControl : Claims.PowerControl := by
  intro s r v hot temp
  refine ⟨fun hcold _ hf => ?_, exec_powerSample_of_ge s r, ?_, exec_pwrcapWrite_of_unlocked s v, exec_pwrcapWrite_of_locked s v⟩
  · exact ⟨_, _, exec_powerSample_of_lt s r hcold hf, throttle_cases _ _⟩
  · exact ⟨_, rfl, rfl, rfl, rfl, rfl, rfl, thermtrip_eq_append hot temp, rfl, rfl⟩

/-! ### The rail-set frame and its CRC (R22) -/

/-- One step of the model's CRC-8, on numbers, is one step of `crc8Bit`. -/
theorem toNat_crc8Bit (c : BitVec 8) (b : Bool) :
    (crc8Bit c b).toNat = (c.toNat * 2 % 256) ^^^ (if (c.toNat / 128 + b.toNat) % 2 = 1 then 7 else 0) := by
  have hshift : (c <<< 1).toNat = c.toNat * 2 % 256 := by
    rw [BitVec.toNat_shiftLeft, Nat.shiftLeft_eq]
  have htop : (c.getLsbD 7 != b) = decide ((c.toNat / 128 + b.toNat) % 2 = 1) := by
    have := c.isLt
    rw [BitVec.getLsbD, Nat.testBit_eq_decide_div_mod_eq]
    cases b with
    | false => simp
    | true =>
      rw [Bool.bne_true, ← decide_not, decide_eq_decide, Bool.toNat_true]
      omega
  rw [crc8Bit, htop]
  by_cases hodd : (c.toNat / 128 + b.toNat) % 2 = 1
  · simp only [hodd, decide_true, if_true, BitVec.toNat_xor, hshift]
    rfl
  · simp [hodd, hshift]

/-- The model's CRC-8 of the low `k` bits of `v` is R22's: the bits one after another, the most significant first. -/
theorem crc8_eq_foldl (v : Nat) : ∀ (k : Nat) (c : BitVec 8),
    crc8 k v c.toNat = ((List.range k).foldl (fun c i => crc8Bit c (v.testBit (k - 1 - i))) c).toNat
  | 0, c => rfl
  | k + 1, c => by
    have hstep : (c.toNat * 2 % 256) ^^^ (if (c.toNat / 128 + v / 2 ^ k) % 2 = 1 then 7 else 0) = (crc8Bit c (v.testBit k)).toNat := by
      rw [toNat_crc8Bit, Nat.toNat_testBit, Nat.add_mod_mod]
    rw [crc8, hstep, crc8_eq_foldl v k, List.range_succ_eq_map, List.foldl_cons, List.foldl_map]
    simp only [Nat.add_sub_cancel, Nat.sub_zero, Nat.sub_sub, Nat.add_comm 1]

/-- START, DIE, CODE and the reserved bit of a frame (R22). -/
def railHead (die : BitVec 3) (code : Byte) : BitVec 16 := 0b1010#4 ++ die ++ code ++ 0#1

/-- R22's CRC over the head of a frame. -/
def railCrc (die : BitVec 3) (code : Byte) : BitVec 8 :=
  (List.range 16).foldl (fun c k => crc8Bit c ((railHead die code).getLsbD (15 - k))) 0

theorem railFrame_eq_append (die : BitVec 3) (code : Byte) : railFrame die code = railHead die code ++ railCrc die code := by
  have hhead : 0xA * 2 ^ 12 + die.toNat * 2 ^ 9 + code.toNat * 2 = (railHead die code).toNat := by
    simp only [railHead, toNat_append_eq_add, BitVec.toNat_ofNat]
    omega
  have hcrc : crc8 16 (railHead die code).toNat 0 = (railCrc die code).toNat := crc8_eq_foldl _ 16 0
  apply BitVec.eq_of_toNat_eq
  simp only [railFrame, hhead, hcrc]
  rw [toNat_append_eq_add, BitVec.toNat_ofNat]
  omega

theorem toNat_railFrame (die : BitVec 3) (code : Byte) :
    (railFrame die code).toNat = 10 * 2 ^ 20 + die.toNat * 2 ^ 17 + code.toNat * 2 ^ 9 + (railCrc die code).toNat := by
  simp only [railFrame_eq_append, railHead, toNat_append_eq_add, BitVec.toNat_ofNat]
  omega

/-- A frame's bits from the CRC's upwards are its head's. -/
theorem getLsbD_railFrame_of_le {die : BitVec 3} {code : Byte} {k : Nat} (hk : k ≤ 15) :
    (railFrame die code).getLsbD (23 - k) = (railHead die code).getLsbD (15 - k) := by
  rw [railFrame_eq_append, BitVec.getLsbD_append, if_neg (by omega)]
  congr 1
  omega

theorem goodFrame_railFrame (die : BitVec 3) (code : Byte) : GoodFrame die code (railFrame die code) := by
  have hd := die.isLt
  have hc := code.isLt
  have hr := (railCrc die code).isLt
  have hfield : ∀ lo len, ((railFrame die code).extractLsb' lo len).toNat =
      (10 * 2 ^ 20 + die.toNat * 2 ^ 17 + code.toNat * 2 ^ 9 + (railCrc die code).toNat) / 2 ^ lo % 2 ^ len := fun lo len => by
    rw [toNat_extractLsb'_eq_bitsOf, toNat_railFrame, bitsOf]
  refine ⟨BitVec.eq_of_toNat_eq ?_, BitVec.eq_of_toNat_eq ?_, BitVec.eq_of_toNat_eq ?_, ?_, BitVec.eq_of_toNat_eq ?_⟩
  case refine_4 =>
    rw [← Bool.not_eq_true, ← bitsOf_one_eq_one_iff, toNat_railFrame, bitsOf]
    omega
  case refine_5 =>
    have hcrc : railCrc die code = (List.range 16).foldl (fun c k => crc8Bit c ((railFrame die code).getLsbD (23 - k))) 0 :=
      List.foldl_ext _ _ _ fun c k hk => by rw [getLsbD_railFrame_of_le (Nat.le_of_lt_succ (List.mem_range.mp hk))]
    rw [← hcrc, hfield]
    omega
  · rw [hfield]
    change _ = 10
    omega
  · rw [hfield]
    omega
  · rw [hfield]
    omega

/-! ### The loss of a die (R17) -/

theorem mem_updBy {α : Type} {p : α → Bool} {f : α → α} {l : List α} {x : α} (h : x ∈ updBy p f l) :
    ∃ y ∈ l, (p y = true ∧ x = f y) ∨ (p y = false ∧ x = y) := by
  obtain ⟨y, hy, rfl⟩ := List.mem_map.mp h
  refine ⟨y, hy, ?_⟩
  split
  next hp => exact .inl ⟨hp, rfl⟩
  next hp => exact .inr ⟨Bool.not_eq_true _ ▸ hp, rfl⟩

theorem dieLost_sites {s : State} {die : Nat} {x : Site} (hx : x ∈ (dieLost s die).sites) {p : Place} (hp : p ∈ s.places)
    (hdie : p.die = die) : x.node.place ≠ p.id := by
  intro e
  have hout := (List.mem_filter.mp hx).2
  rw [Bool.not_eq_true', List.contains_eq_mem, decide_eq_false_iff_not, e] at hout
  refine hout (List.mem_map_of_mem (List.mem_filter.mpr ⟨hp, ?_⟩))
  rw [decide_eq_true hdie, Bool.true_or]

theorem dieLost_slices {s : State} {die : Nat} {x : Slice} (hx : x ∈ (dieLost s die).slices) : x.die ≠ die :=
  of_decide_eq_true (List.mem_filter.mp hx).2

theorem dieLost_threads {s : State} {die : Nat} {t : Thread} (ht : t ∈ (dieLost s die).threads) {c h : Nat}
    (hid : t.id = .ctl die c h) : t.run = .stopped := by
  obtain ⟨u, -, ⟨-, rfl⟩ | ⟨hother, rfl⟩⟩ := mem_updBy ht
  · rfl
  · simp [hid] at hother

/-- A running launch with a place on the lost die has ended FAULTED (assumption 27). -/
theorem dieLost_tasks {s : State} {die : Nat} {p : Partition} (hp : p ∈ (dieLost s die).parts) {e : TgEntry} (he : e ∈ p.tasks)
    (hrun : e.st = .running) {x : Place} (hx : x ∈ s.places) (hdie : x.die = die) (hasid : x.asid = p.asid) (hslot : x.lslot = e.slot) :
    e.threadDone = true ∧ e.verdict = 2 := by
  obtain ⟨q, -, rfl⟩ := List.mem_map.mp hp
  obtain ⟨e0, -, ⟨-, rfl⟩ | ⟨hother, rfl⟩⟩ := mem_updBy he
  · exact ⟨rfl, rfl⟩
  · rw [hrun, decide_eq_true rfl, Bool.true_and, Bool.or_eq_false_iff] at hother
    have hno := List.any_eq_false.mp hother.2 x hx
    exact absurd hasid (by simpa [hdie, hslot] using hno)

/-! ### Links and reset (R15, R21, R22, R49, R59) -/

/-- A step that the model gives by `updPkg` changes package registers alone. -/
theorem pkgStep_of_exec {i : Instr} {s : State} {f : Pkg → Pkg} {P : Pkg → Prop} (h : exec i s = .next (s.updPkg f)) (hP : P (f s.pkg)) :
    PkgStep i s P := ⟨f s.pkg, h, hP⟩

theorem railCodeOk_iff (code : Byte) : railCodeOk code = true ↔ 60 ≤ code.toNat ∧ code.toNat ≤ 140 := by
  rw [railCodeOk, Bool.and_eq_true, decide_eq_true_iff, decide_eq_true_iff]

theorem pkgStep_railSetFrame (s : State) (d : BitVec 3) (code : Byte) :
    PkgStep (.railSetFrame d code) s (fun q => ∃ f, GoodFrame d code f ∧
      q = { s.pkg with rails := if 60 ≤ code.toNat ∧ code.toNat ≤ 140 then s.pkg.rails.set d.toNat code else s.pkg.rails
                       railFrames := s.pkg.railFrames ++ [(f, s.cycle + 3500)], railSent := s.pkg.railSent ++ [f] }) := by
  refine pkgStep_of_exec rfl ⟨railFrame d code, goodFrame_railFrame d code, ?_⟩
  simp only [railCodeOk_iff]

theorem pkgStep_railFrameRepeat {s : State} {f : BitVec 24} {due : Nat} {rest : List (BitVec 24 × Nat)}
    (hframes : s.pkg.railFrames = (f, due) :: rest) (hdue : due ≤ s.cycle) :
    PkgStep .railFrameRepeat s (fun q => q = { s.pkg with railFrames := rest, railSent := s.pkg.railSent ++ [f] }) := by
  refine ⟨_, ?_, rfl⟩
  change execRailFrameRepeat s = _
  rw [execRailFrameRepeat, hframes]
  exact congrArg _ (if_pos hdue)

theorem pkgStep_fabricDieTrained {s : State} {die : Nat} (h : s.pkg.railReset[die]? = some false) :
    PkgStep (.fabricDieTrained die) s (fun q => q = { s.pkg with dieTrained := s.pkg.dieTrained.set die true }) := by
  refine pkgStep_of_exec (congrArg _ (if_neg ?_)) rfl
  simp [h]

theorem exec_fabricDieTrained_of_reset {s : State} {die : Nat} (h : s.pkg.railReset[die]? = some true) :
    exec (.fabricDieTrained die) s = .next s := congrArg _ (if_pos (by simp [h]))

/-- A width that a link can have is the greatest not above itself (R15). -/
theorem linkWidth_eq_self {width : Nat} (h : width ∈ [1, 2, 4, 8, 16]) : linkWidth width = width := by
  revert width
  decide

theorem pkgStep_pcieLinkTrain {s : State} {io gen width : Nat} (hstrap : s.pkg.pcieStrap[io]? = some true) (h1 : 1 ≤ gen) (h7 : gen ≤ 7)
    (hw : width ∈ [1, 2, 4, 8, 16]) :
    PkgStep (.pcieLinkTrain io gen width) s (fun q => q = { s.pkg with pcieLink := s.pkg.pcieLink.set io (gen, width) }) := by
  refine pkgStep_of_exec (congrArg _ (if_pos (by simp [hstrap]))) ?_
  rw [Nat.min_eq_right h7, Nat.max_eq_right h1, linkWidth_eq_self hw]

theorem exec_pcieLinkTrain_of_disabled {s : State} {io gen width : Nat} (hstrap : s.pkg.pcieStrap[io]? = some false) :
    exec (.pcieLinkTrain io gen width) s = .next s := congrArg _ (if_neg (by simp [hstrap]))

/-- The link comes up; of the other registers the boot ROM's alone can change (R49). -/
theorem pkgStep_ethernetLinkUp (s : State) (io : Nat) :
    PkgStep (.ethernetLinkUp io) s (fun q => q.ethUp = s.pkg.ethUp.set io true ∧
      q = { s.pkg with ethUp := q.ethUp, bootstat := q.bootstat, boot := q.boot }) := by
  let s1 := s.updPkg (fun p => { p with ethUp := p.ethUp.set io true })
  by_cases hrom : inRom s = true ∧ bootStage s = 0 ∧ bootPort s = io
  · exact ⟨(setStage s1 1 (8 * cyclesPerSecond)).pkg, congrArg _ (if_pos hrom), rfl, rfl⟩
  · exact ⟨s1.pkg, congrArg _ (if_neg hrom), rfl, rfl⟩

/-- R15, R17, R21, R22, R49, R59: one lemma above for each step; two of the steps write one register as it is given. -/
theorem railsAndLinks : Claims.RailsAndLinks := by
  intro s die d code io gen width n
  refine ⟨pkgStep_railSetFrame s d code, fun f due rest => pkgStep_railFrameRepeat, ?undervolt, pkgStep_of_exec rfl rfl,
    pkgStep_fabricDieTrained, exec_fabricDieTrained_of_reset, pkgStep_of_exec rfl rfl, pkgStep_pcieLinkTrain,
    exec_pcieLinkTrain_of_disabled, pkgStep_ethernetLinkUp s io, ?reset⟩
  case undervolt =>
    exact ⟨_, rfl, rfl, rfl, fun x hx p hp => dieLost_sites hx hp, fun x => dieLost_slices, fun t ht c h => dieLost_threads ht,
      fun p hp e he hrun x hx => dieLost_tasks hp he hrun hx⟩
  case reset => exact ⟨_, rfl, rfl, rfl, rfl, rfl, rfl, rfl, rfl⟩

/-- Settles O37: the claims of power control and of the rails and links hold, the CRC of a rail-set frame for every die and code. -/
theorem powerAndLinks : Obligations.PowerAndLinks := ⟨powerControl, railsAndLinks⟩

end Sys2Proof.Machine
end
section
/-! SUPPORT. Sending on the fragment spray networks: what a message that leaves changes of the state, and the fragments it is cut into
(R26-R32). -/

namespace Sys2Proof.Machine
open Sys2Proof.Claims

-- One after another: proofs elaborated at a time take a thread each, whose stacks are the most of the check's memory.
set_option Elab.async false

/-! ### What sending leaves unchanged -/

/-- Sending changes, of the networks, the next IDs, the fragments in flight and those that failed, the timers, what is in
transit and the retain copies. -/
def SentFrom (v w : Net) : Prop :=
  w = { v with nextId := w.nextId, flight := w.flight, failed := w.failed, timers := w.timers, transit := w.transit, retain := w.retain }

theorem SentFrom.refl (v : Net) : SentFrom v v := rfl

theorem SentFrom.trans {u v w : Net} (h : SentFrom u v) (h' : SentFrom v w) : SentFrom u w := by
  unfold SentFrom at *
  rw [h', h]

theorem encodeOne_sent (cls : Nat) (c : Code) (cargo : Option Cargo) (s : State) (m : Msg) :
    ∃ w, encodeOne cls c cargo s m = { s with net := w } ∧ SentFrom s.net w := ⟨_, rfl, rfl⟩

/-- A transfer that leaves changes the networks alone, once its partition has been stirred. -/
theorem sendUnder_sent (s : State) (m : Msg) (cargo : Option Cargo) (c : Code) :
    ∃ w, sendUnder s m cargo c = { stirAgent s m.who cargo with net := w } ∧ SentFrom (stirAgent s m.who cargo).net w := by
  refine List.foldlRecOn (motive := fun x => ∃ w, x = { stirAgent s m.who cargo with net := w } ∧ SentFrom (stirAgent s m.who cargo).net w)
    (pieces c m.body) _ ⟨_, rfl, SentFrom.refl _⟩ ?_
  rintro _ ⟨w, rfl, hw⟩ b -
  obtain ⟨w', he, hw'⟩ := encodeOne_sent _ _ cargo { stirAgent s m.who cargo with net := w } { m with body := b }
  exact ⟨w', he, hw.trans hw'⟩

theorem stirAgent_eq (s : State) (a : Agent) (c : Option Cargo) : stirAgent s a c = { s with parts := (stirAgent s a c).parts } := by
  unfold stirAgent
  split <;> rfl

@[simp] theorem stirAgent_net (s : State) (a : Agent) (c : Option Cargo) : (stirAgent s a c).net = s.net := by rw [stirAgent_eq]
@[simp] theorem stirAgent_mem (s : State) (a : Agent) (c : Option Cargo) : (stirAgent s a c).mem = s.mem := by rw [stirAgent_eq]
@[simp] theorem stirAgent_threads (s : State) (a : Agent) (c : Option Cargo) : (stirAgent s a c).threads = s.threads := by rw [stirAgent_eq]
@[simp] theorem stirAgent_pkg (s : State) (a : Agent) (c : Option Cargo) : (stirAgent s a c).pkg = s.pkg := by rw [stirAgent_eq]
@[simp] theorem stirAgent_cycle (s : State) (a : Agent) (c : Option Cargo) : (stirAgent s a c).cycle = s.cycle := by rw [stirAgent_eq]

/-! ### A message of one piece inside the package (R26, R29) -/

/-- The code of a network and class inside the package (R29, R39, R59). -/
def chipCode (s : State) (net cls : Nat) : Code :=
  { k := (onChipCode s net cls).1, m := (onChipCode s net cls).2, fmax := 512, members := List.range (planesOf net) }

theorem codeFor_of_onChip {s : State} {m : Msg} (h : m.dev = false) : codeFor s m = some (chipCode s m.net m.cls) := by
  simp [codeFor, h, chipCode]

theorem pieces_of_le {c : Code} {body : List Byte} (h : body.length ≤ c.span) : pieces c body = [body] := if_pos h

/-- A transfer of one piece is one message. -/
theorem sendUnder_of_le {s : State} {m : Msg} {cargo : Option Cargo} {c : Code} (h : m.body.length ≤ c.span) :
    sendUnder s m cargo c = encodeOne m.cls c cargo (stirAgent s m.who cargo) m := by
  rw [sendUnder, pieces_of_le h, List.foldl_cons, List.foldl_nil]
  exact congrArg (encodeOne m.cls · cargo _ m) (if_pos rfl)

/-- A message inside the package leaves under the code of its network and class, unless that has no data fragment. -/
theorem encodeAt_of_onChip {s : State} {m : Msg} {cargo : Option Cargo} (h : m.dev = false) :
    encodeAt s m cargo = if (chipCode s m.net m.cls).span = 0 then none else some (sendUnder s m cargo (chipCode s m.net m.cls)) := by
  have room : roomFor s m cargo (chipCode s m.net m.cls) = true := by simp [roomFor, retained, h]
  simp [encodeAt, h, codeFor_of_onChip h, room]

/-- The ID taken, the next one is one higher (R32). -/
theorem find?_putBy {α : Type} {p : α → Bool} {x : α} (hx : p x = true) : ∀ l : List α, (putBy p x l).find? p = some x
  | [] => by rw [putBy, List.find?_cons_of_pos hx]
  | y :: l => by
    unfold putBy
    split
    · rw [List.find?_cons_of_pos hx]
    · next hy => rw [List.find?_cons_of_neg hy, find?_putBy hx l]

theorem takeMsgId_next {s s' : State} {net src io : Nat} (h : s'.net.nextId = (takeMsgId s net src io).2.net.nextId) :
    (takeMsgId s' net src io).1 = ((takeMsgId s net src io).1 + 1) % 65536 := by
  simp only [takeMsgId, h, State.updNet]
  rw [find?_putBy (by simp)]

/-! ### The fragments of a message (R27-R29) -/

theorem mapIdx_eq_map_range {α β : Type} (f : Nat → α → β) (l : List α) (d : α) :
    l.mapIdx f = (List.range l.length).map (fun n => f n (l.getD n d)) := by
  refine List.ext_getElem (by simp) (fun n h _ => ?_)
  have hn : n < l.length := by simpa using h
  simp [hn]

/-- The data of a message as numbers, zeros up to the last fragment's end. -/
def padded (size k : Nat) (body : List Byte) : List Nat := body.map BitVec.toNat ++ List.replicate (k * size - body.length) 0

def dataParts (size k : Nat) (body : List Byte) : List (List Nat) :=
  (List.range k).map (fun i => ((padded size k body).drop (i * size)).take size)

/-- The bytes of every fragment of a message, data before parity. -/
def fragParts (c : Code) (body : List Byte) : List (List Nat) :=
  let size := fragSize body.length c.k
  dataParts size c.k body ++ (List.range c.m).map (fun j => parityFrag size j (dataParts size c.k body))

@[simp] theorem fragParts_length (c : Code) (body : List Byte) : (fragParts c body).length = c.k + c.m := by
  simp [fragParts, dataParts]

/-- The payload of fragment `n`. -/
def fragPay (c : Code) (body : List Byte) (n : Nat) : List Byte := ((fragParts c body).getD n []).map (BitVec.ofNat 8)

/-- The plane of fragment `n` of a message (R29). -/
def fragPlane (c : Code) (id n : Nat) : Nat := c.members.getD ((id % c.members.length + n) % c.members.length) 0

/-- Fragment `n` of a message (R27, R32). -/
def fragOut (m : Msg) (cls : Nat) (key : MsgKey) (c : Code) (retx : Bool) (n : Nat) : Frag :=
  { hdr := { msgid := BitVec.ofNat 16 key.msgid, src := m.src, dst := m.dst, len := BitVec.ofNat 12 (m.body.length - 1)
             idx := BitVec.ofNat 4 n, k := BitVec.ofNat 4 c.k, m := BitVec.ofNat 3 c.m
             fsz := BitVec.ofNat 4 (fragSize m.body.length c.k / 32 - 1), cls := BitVec.ofNat 2 cls, net := BitVec.ofNat 2 key.net
             retx := BitVec.ofBool retx, seq := m.seq, plane := BitVec.ofNat 4 (fragPlane c key.msgid n), rsv := 0 }
    pay := fragPay c m.body n, io := key.io }

/-- A message leaves as its fragments, but for those whose plane is disabled. -/
theorem fragments_eq (s : State) (m : Msg) (cls : Nat) (key : MsgKey) (c : Code) (retx : Bool) :
    fragments s m cls key c retx = ((List.range (c.k + c.m)).filter (fun n =>
      key.net = 2 || bitsOf (codeReg s 0 key.net cls) (48 + (BitVec.ofNat 4 (fragPlane c key.msgid n)).toNat) 1 = 1)).map
        (fragOut m cls key c retx) := by
  have parts := mapIdx_eq_map_range (fun n pay => ({ fragOut m cls key c retx n with pay := pay.map (BitVec.ofNat 8) } : Frag))
    (fragParts c m.body) []
  rw [fragParts_length] at parts
  change (List.mapIdx (fun n pay => ({ fragOut m cls key c retx n with pay := pay.map (BitVec.ofNat 8) } : Frag))
    (fragParts c m.body)).filter _ = _
  rw [parts, List.filter_map]
  rfl

end Sys2Proof.Machine
end
section
/-! SUPPORT. The bytes, the planes and the codes of the fragments of a message, and the registers that set the codes (O40). -/

namespace Sys2Proof.Machine
open Sys2Proof.Claims

-- One after another: proofs elaborated at a time take a thread each, whose stacks are the most of the check's memory.
set_option Elab.async false

/-! ### The bytes of the fragments (R27, R28) -/

/-- The data fragments have room for the message (R27). -/
theorem le_mul_fragSize (l : Nat) {k : Nat} (h : 1 ≤ k) : l ≤ k * fragSize l k := by
  have hdiv : l ≤ k * ((l + k - 1) / k) := by
    have := Nat.lt_mul_div_succ (l + k - 1) h
    rw [Nat.mul_add, Nat.mul_one] at this
    omega
  exact hdiv.trans (Nat.mul_le_mul_left k (by unfold fragSize; omega))

theorem padded_length {size k : Nat} {body : List Byte} (h : body.length ≤ k * size) : (padded size k body).length = k * size := by
  simp [padded, Nat.add_sub_cancel' h]

theorem padded_getD (size k : Nat) (body : List Byte) (b : Nat) : (padded size k body).getD b 0 = (body.getD b 0).toNat := by
  unfold padded
  by_cases hb : b < body.length
  · simp [hb, List.getElem?_append_left]
  · have hge := Nat.not_lt.mp hb
    rw [List.getD_append_right _ _ _ _ (by simpa using hge), List.getD_eq_default _ _ hge]
    simp

@[simp] theorem dataParts_length (size k : Nat) (body : List Byte) : (dataParts size k body).length = k := by simp [dataParts]

theorem dataParts_eq_map_getD (size k : Nat) (body : List Byte) :
    dataParts size k body = (List.range k).map (fun n => (dataParts size k body).getD n []) :=
  List.ext_getElem (by simp) (fun n h _ => by simp [List.getElem?_eq_getElem h])

theorem length_of_mem_dataParts {size k : Nat} {body : List Byte} (h : body.length ≤ k * size) {d : List Nat}
    (hd : d ∈ dataParts size k body) : d.length = size := by
  obtain ⟨i, hi, rfl⟩ := List.mem_map.mp hd
  have hle : i * size + size ≤ k * size := by
    rw [← Nat.succ_mul]; exact Nat.mul_le_mul_right size (List.mem_range.mp hi)
  simp only [List.length_take, List.length_drop, padded_length h]
  omega

/-- Byte `b` of data fragment `n` is byte `n · size + b` of the message, zero beyond its end. -/
theorem dataParts_getD {size k : Nat} (body : List Byte) {n b : Nat} (hn : n < k) (hb : b < size) :
    ((dataParts size k body).getD n []).getD b 0 = (body.getD (n * size + b) 0).toNat := by
  have hd : (dataParts size k body).getD n [] = ((padded size k body).drop (n * size)).take size := by simp [dataParts, hn]
  rw [hd, ← padded_getD size k]
  simp [List.getElem?_take_of_lt hb]

theorem xorBytes_length {f : Nat} {a b : List Nat} (ha : a.length = f) (hb : b.length = f) : (xorBytes a b).length = f := by
  simp [xorBytes, ha, hb]

theorem xorBytes_getD {a b : List Nat} {i : Nat} (ha : i < a.length) (hb : i < b.length) :
    (xorBytes a b).getD i 0 = a.getD i 0 ^^^ b.getD i 0 := by
  simp [xorBytes, ha, hb]

theorem foldl_xorBytes_length {f : Nat} : ∀ {l : List (List Nat)} {a : List Nat}, a.length = f → (∀ x ∈ l, x.length = f) →
    (l.foldl xorBytes a).length = f
  | [], _, ha, _ => ha
  | x :: l, _, ha, hl =>
    foldl_xorBytes_length (l := l) (xorBytes_length ha (hl x List.mem_cons_self)) (fun y hy => hl y (List.mem_cons_of_mem x hy))

/-- The exclusive or of byte strings is taken byte by byte. -/
theorem foldl_xorBytes_getD {f i : Nat} (hi : i < f) : ∀ {l : List (List Nat)} {a : List Nat}, a.length = f → (∀ x ∈ l, x.length = f) →
    (l.foldl xorBytes a).getD i 0 = l.foldl (fun c x => c ^^^ x.getD i 0) (a.getD i 0)
  | [], _, _, _ => rfl
  | x :: l, a, ha, hl => by
    have hx := hl x List.mem_cons_self
    rw [List.foldl_cons, List.foldl_cons, foldl_xorBytes_getD hi (xorBytes_length ha hx) (fun y hy => hl y (List.mem_cons_of_mem x hy)),
      xorBytes_getD (by omega) (by omega)]

theorem parityFrag_length {f j : Nat} {data : List (List Nat)} (h : ∀ x ∈ data, x.length = f) : (parityFrag f j data).length = f := by
  refine foldl_xorBytes_length (by simp) (fun x hx => ?_)
  obtain ⟨i, hi, rfl⟩ := List.mem_mapIdx.mp hx
  simpa using h _ (List.getElem_mem hi)

theorem gmulBits_zero_left : ∀ k b : Nat, gmulBits k 0 b = 0
  | 0, _ => rfl
  | k + 1, b => by
    rw [gmulBits, show gfx 0 = 0 from rfl, gmulBits_zero_left k]
    simp

theorem gmul_zero_left (a : Nat) : gmul 0 a = 0 := gmulBits_zero_left 8 a

/-- One is the neutral element of the product (R28). -/
theorem gmul_one_left {a : Nat} (h : a < 256) : gmul 1 a = a := by
  have all : ∀ x : Fin 256, gmul 1 x.val = x.val := by decide +kernel
  exact all ⟨a, h⟩

theorem map_gmul_one {d : List Nat} (h : ∀ x ∈ d, x < 256) : d.map (gmul 1) = d :=
  (List.map_congr_left (fun x hx => gmul_one_left (h x hx))).trans (List.map_id d)

/-- The first parity fragment is the exclusive or of the data fragments (R28). -/
theorem parityFrag_zero {f : Nat} {data : List (List Nat)} (h : ∀ d ∈ data, ∀ x ∈ d, x < 256) :
    parityFrag f 0 data = data.foldl xorBytes (List.replicate f 0) := by
  have hmap : data.mapIdx (fun i d => d.map (gmul (parityCoef 0 i))) = data := by
    refine List.ext_getElem (by simp) (fun n _ hn => ?_)
    rw [List.getElem_mapIdx]
    exact map_gmul_one (h _ (List.getElem_mem hn))
  rw [parityFrag, hmap]

theorem lt_of_mem_dataParts {size k : Nat} {body : List Byte} {d : List Nat} (hd : d ∈ dataParts size k body) {x : Nat} (hx : x ∈ d) :
    x < 256 := by
  obtain ⟨i, -, rfl⟩ := List.mem_map.mp hd
  rcases List.mem_append.mp (List.mem_of_mem_drop (List.mem_of_mem_take hx)) with h | h
  · obtain ⟨y, -, rfl⟩ := List.mem_map.mp h
    exact y.isLt
  · rw [List.eq_of_mem_replicate h]
    decide

section
variable {c : Code} {body : List Byte} {n b : Nat}

theorem fragPay_data (hn : n < c.k) : fragPay c body n = ((dataParts (fragSize body.length c.k) c.k body).getD n []).map (BitVec.ofNat 8) := by
  rw [fragPay, fragParts, List.getD_append _ _ _ _ (by simpa using hn)]

theorem fragPay_parity (hn : n < c.m) :
    fragPay c body (c.k + n) = (parityFrag (fragSize body.length c.k) n (dataParts (fragSize body.length c.k) c.k body)).map (BitVec.ofNat 8) := by
  rw [fragPay, fragParts, List.getD_append_right _ _ _ _ (by simp)]
  simp [hn]

/-- Every fragment of a message has its size (R27). -/
theorem fragPay_length (hk : 1 ≤ c.k) (hn : n < c.k + c.m) : (fragPay c body n).length = fragSize body.length c.k := by
  have hfit := le_mul_fragSize body.length hk
  rcases Nat.lt_or_ge n c.k with h | h
  · have hn' : n < (dataParts (fragSize body.length c.k) c.k body).length := by simpa using h
    rw [fragPay_data h, List.length_map, List.getD_eq_getElem _ _ hn']
    exact length_of_mem_dataParts hfit (List.getElem_mem hn')
  · obtain ⟨j, rfl⟩ := Nat.exists_eq_add_of_le h
    rw [fragPay_parity (by omega), List.length_map]
    exact parityFrag_length (fun x hx => length_of_mem_dataParts hfit hx)

theorem getElem?_map_ofNat {l : List Nat} (hb : b < l.length) : (l.map (BitVec.ofNat 8))[b]? = some (BitVec.ofNat 8 (l.getD b 0)) := by
  simp [hb]

/-- A data fragment's bytes are the message's (R27). -/
theorem fragPay_data_byte (hk : 1 ≤ c.k) (hn : n < c.k) (hb : b < fragSize body.length c.k) :
    (fragPay c body n)[b]? = some (body.getD (n * fragSize body.length c.k + b) 0) := by
  have hlen := fragPay_length (body := body) hk (Nat.lt_add_right c.m hn)
  rw [fragPay_data hn, List.length_map] at hlen
  rw [fragPay_data hn, getElem?_map_ofNat (by omega), dataParts_getD body hn hb, BitVec.ofNat_toNat, BitVec.setWidth_eq]

/-- The exclusive or of numbers below 256 is that of the bytes. -/
theorem ofNat_foldl_xor (g : Nat → Byte) : ∀ (l : List Nat) (a : Nat),
    BitVec.ofNat 8 (l.foldl (fun x n => x ^^^ (g n).toNat) a) = l.foldl (fun x n => x ^^^ g n) (BitVec.ofNat 8 a)
  | [], _ => rfl
  | n :: l, a => by
    rw [List.foldl_cons, List.foldl_cons, ofNat_foldl_xor g l, BitVec.ofNat_xor, BitVec.ofNat_toNat, BitVec.setWidth_eq]

/-- The first parity fragment's bytes are the exclusive or of the data fragments' (R28). -/
theorem fragPay_parity_byte (hk : 1 ≤ c.k) (hm : 0 < c.m) (hb : b < fragSize body.length c.k) :
    (fragPay c body c.k)[b]? =
      some ((List.range c.k).foldl (fun x n => x ^^^ body.getD (n * fragSize body.length c.k + b) 0) 0) := by
  have hfit := le_mul_fragSize body.length hk
  have hlen : ∀ x ∈ dataParts (fragSize body.length c.k) c.k body, x.length = fragSize body.length c.k :=
    fun x hx => length_of_mem_dataParts hfit hx
  have hbyte : ∀ d ∈ dataParts (fragSize body.length c.k) c.k body, ∀ x ∈ d, x < 256 := fun d hd x hx => lt_of_mem_dataParts hd hx
  have hpar := fragPay_parity (body := body) hm
  rw [Nat.add_zero] at hpar
  rw [hpar, getElem?_map_ofNat (by rwa [parityFrag_length hlen]), parityFrag_zero hbyte,
    foldl_xorBytes_getD hb (by simp) hlen]
  have hfold : (dataParts (fragSize body.length c.k) c.k body).foldl (fun x d => x ^^^ d.getD b 0) 0 =
      (List.range c.k).foldl (fun x n => x ^^^ (body.getD (n * fragSize body.length c.k + b) 0).toNat) 0 := by
    rw [dataParts_eq_map_getD, List.foldl_map]
    refine List.foldl_ext _ _ _ (fun x n hn => ?_)
    rw [dataParts_getD body (List.mem_range.mp hn) hb]
  have hzero : (List.replicate (fragSize body.length c.k) 0).getD b 0 = 0 := by simp [hb]
  rw [hzero, hfold, ofNat_foldl_xor]
  rfl

end

/-! ### A message is encoded (R24-R32, R39, R59) -/

/-- The code registers of the package's networks are those of the first I/O die. -/
theorem codeReg_zero (s : State) (net cls : Nat) : codeReg s 0 net cls = (s.pkg.sprcode.getD (4 * net + cls) 0).toNat :=
  if_neg (by simp)

theorem onMesh_iff (e : BitVec 12) : onMesh e = true ↔ e.toNat / 256 < 8 ∧ e.toNat % 256 < 96 := by
  simp only [onMesh, Bool.and_eq_true, decide_eq_true_eq]
  omega

/-- The network of a message inside the package (R24). -/
theorem Msg.net_of_onChip {m : Msg} (h : m.dev = false) :
    m.net = if (m.src.toNat / 256 < 8 ∧ m.src.toNat % 256 < 96) ∧ (m.dst.toNat / 256 < 8 ∧ m.dst.toNat % 256 < 96) ∧
      m.src.toNat / 256 = m.dst.toNat / 256 then 0 else 1 := by
  simp [Msg.net, h, onMesh_iff, and_assoc]

theorem Msg.net_le_one {m : Msg} (h : m.dev = false) : m.net ≤ 1 := by
  rw [Msg.net_of_onChip h]
  split <;> decide

theorem planesOf_eq_planes {net : Nat} (h : net ≤ 2) : planesOf net = planes net := by
  revert h net
  decide

/-- The code in force inside the package: the register's once it has been written, the reduced one before. -/
theorem onChipCode_eq (s : State) (net cls : Nat) :
    let reg := s.pkg.sprcode.getD (4 * net + cls) 0
    let written := s.pkg.sprWritten.getD (4 * net + cls) false
    onChipCode s net cls = (if written then (reg.extractLsb' 0 4).toNat else if net = 1 ∧ cls = 2 then 6 else 3,
      if written then (reg.extractLsb' 8 3).toNat else if net = 1 ∧ cls = 2 then 4 else 2) := by
  simp only [onChipCode, codeReg_zero, toNat_extractLsb'_eq_bitsOf]
  split_ifs <;> rfl

/-- Inside the package the planes are taken in turn, from the message ID on (R29). -/
theorem fragPlane_chipCode (s : State) {net : Nat} (h : net ≤ 2) (cls id n : Nat) : fragPlane (chipCode s net cls) id n = (id + n) % planes net := by
  have hpos : 0 < planes net := by
    revert h net
    decide
  simp only [fragPlane, chipCode, List.length_range, planesOf_eq_planes h, Nat.mod_add_mod]
  simp [Nat.mod_lt _ hpos]

theorem planes_le (net : Nat) : planes net ≤ 16 := by
  match net with
  | 0 | 1 | 2 => decide
  | n + 3 => exact Nat.le_refl 16

/-- What a message of one piece inside the package leaves: fragments on the planes that are enabled. -/
theorem fragments_chipCode (s : State) (m : Msg) (cls : Nat) {key : MsgKey} (hnet : key.net ≤ 1) (retx : Bool) :
    let c := chipCode s key.net cls
    fragments s m cls key c retx = ((List.range (c.k + c.m)).filter (fun n =>
      (s.pkg.sprcode.getD (4 * key.net + cls) 0).getLsbD (48 + (key.msgid + n) % planes key.net))).map (fragOut m cls key c retx) := by
  intro c
  rw [fragments_eq]
  refine congrArg (List.map _) (List.filter_congr (fun n _ => ?_))
  have hplane : (key.msgid + n) % planes key.net < 16 := by
    refine (Nat.mod_lt _ ?_).trans_le (planes_le _)
    revert hnet
    match key.net with
    | 0 | 1 => decide
    | n + 2 => omega
  have hne : key.net ≠ 2 := by omega
  rw [fragPlane_chipCode s (by omega), codeReg_zero, BitVec.toNat_ofNat, Nat.mod_eq_of_lt hplane]
  simp [hne, bitsOf_one_eq_one_iff]

/-- A message of one piece, encoded. -/
theorem exec_messageEncode {s : State} {m : Msg} (hdev : m.dev = false) (hends : m.endsOk = true) (hlen : 0 < m.body.length)
    (hspan : m.body.length ≤ (chipCode s m.net m.cls).span) :
    exec (.messageEncode m) s = .next (encodeOne m.cls (chipCode s m.net m.cls) none (stirAgent s m.who none) m) := by
  have hguard : ¬ (m.body.length = 0 ∨ (!m.endsOk) = true) := by
    rw [hends]
    exact fun h => h.elim (by omega) Bool.false_ne_true
  have hcode : encodeAt s m none = some (encodeOne m.cls (chipCode s m.net m.cls) none (stirAgent s m.who none) m) := by
    rw [encodeAt_of_onChip hdev, if_neg (by omega), sendUnder_of_le hspan]
  change execMessageEncode m s = _
  rw [execMessageEncode, if_neg hguard, hcode]
  rfl

/-- The key of the next message of a source inside the package (R32). -/
def nextKey (s : State) (m : Msg) : MsgKey :=
  { net := m.net, src := m.src.toNat, dst := m.dst.toNat, msgid := (takeMsgId s m.net m.src.toNat 0).1, io := 0 }

/-- The fragments a message inside the package adds to those in flight, and the ID it takes. -/
theorem encodeOne_flight {s : State} {m : Msg} (hdev : m.dev = false) (cls : Nat) (c : Code) (cargo : Option Cargo) :
    (encodeOne cls c cargo s m).net.flight = s.net.flight ++ fragments s m cls (nextKey s m) c false ∧
    (encodeOne cls c cargo s m).net.nextId = (takeMsgId s m.net m.src.toNat 0).2.net.nextId := by
  have hio : msgIo s m = 0 := by simp [msgIo, hdev]
  simp only [encodeOne, hio]
  exact ⟨rfl, rfl⟩

/-- R24-R27, R29, R32, R39, R59: the message is one piece, and the rules of its fragments are the lemmas above. -/
theorem messageEncoded : Claims.MessageEncoded := by
  intro s m hdev hsrc hdst inDie net len cls reg written k par id size plane dataByte hlen hk h4096 hspan
  have hnet : net = m.net := (Msg.net_of_onChip hdev).symm
  have hcls : cls = m.cls := rfl
  clear_value net cls
  subst hnet hcls
  have hnet1 : m.net ≤ 1 := Msg.net_le_one hdev
  let c := chipCode s m.net m.cls
  obtain ⟨hck, hcm⟩ : c.k = k ∧ c.m = par := Prod.ext_iff.mp (onChipCode_eq s m.net m.cls)
  have hsize : fragSize m.body.length c.k = size := by rw [hck]; rfl
  have hspan' : m.body.length ≤ c.span := le_min h4096 (by rw [hck]; exact hspan)
  have hends : m.endsOk = true := by simp [Msg.endsOk, hsrc, hdst]
  let s0 := stirAgent s m.who none
  have hcode : chipCode s0 m.net m.cls = c := by simp only [s0, c, chipCode, onChipCode, codeReg, stirAgent_pkg]
  obtain ⟨hflight, hnext⟩ := encodeOne_flight (s := s0) hdev m.cls c none
  have hid : (takeMsgId s0 m.net m.src.toNat 0).1 = id := by simp only [s0, takeMsgId, stirAgent_net, id]
  have hkey : nextKey s0 m = { net := m.net, src := m.src.toNat, dst := m.dst.toNat, msgid := id, io := 0 } := by rw [nextKey, hid]
  refine ⟨_, fragPay c m.body, exec_messageEncode hdev hends hlen hspan', stirAgent_mem .., stirAgent_threads ..,
    ?flight, ?next, fun n hn => ?_, fun n b hn hb => ?_, fun hpar b hb => ?_⟩
  case flight =>
    have hfrag := fragments_chipCode s0 m m.cls (key := nextKey s0 m) hnet1 false
    have hplane := fragPlane_chipCode s (net := m.net) (by omega) m.cls
    rw [hflight, stirAgent_net]
    simp only [hkey, hcode, hck, hcm, s0, stirAgent_pkg] at hfrag
    rw [hkey, hfrag]
    refine congrArg (s.net.flight ++ ·) (List.map_congr_left (fun n _ => ?_))
    simp only [fragOut, hplane, hck, hcm, c]
    rfl
  case next => rw [takeMsgId_next hnext, hid]
  · rw [fragPay_length (hck ▸ hk) (by rw [hck, hcm]; exact hn), hsize]
  · rw [fragPay_data_byte (hck ▸ hk) (hck ▸ hn) (by rwa [hsize]), hsize]
  · rw [← hck, fragPay_parity_byte (hck ▸ hk) (hcm ▸ hpar) (by rwa [hsize]), hsize]

/-! ### The code registers (R39, R40) -/

/-- Two neighbouring fields of a word are one. -/
theorem append_extract (w : Word) {hi lo n k : Nat} (h : hi = lo + k) :
    w.extractLsb' hi n ++ w.extractLsb' lo k = w.extractLsb' lo (n + k) := BitVec.extractLsb'_append_extractLsb'_eq_extractLsb' h

/-- A word in three parts, its bit 40 apart. -/
theorem append_extract_bit40 (w : Word) : w.extractLsb' 41 23 ++ w.extractLsb' 40 1 ++ w.extractLsb' 0 40 = w := by
  rw [append_extract w (hi := 41) (lo := 40) rfl, append_extract w (hi := 40) (lo := 0) rfl, BitVec.extractLsb'_eq_self]

theorem putField_bit40 (w : Word) (v : Nat) :
    putField w 40 1 v = w.extractLsb' 41 23 ++ BitVec.ofNat 1 v ++ w.extractLsb' 0 40 := by
  apply BitVec.eq_of_toNat_eq
  simp only [putField, toNat_append_eq_add, BitVec.toNat_ofNat, toNat_extractLsb'_eq_bitsOf, bitsOf]
  have := w.isLt
  omega

/-- ERR cleared, and nothing else. -/
theorem putField_err_zero (w : Word) : putField w 40 1 0 = w &&& ~~~(1#64 <<< 40) := by
  have mask : ~~~(1#64 <<< 40) = BitVec.allOnes 23 ++ 0#1 ++ BitVec.allOnes 40 := by decide
  conv_rhs => rw [← append_extract_bit40 w, mask, BitVec.and_append, BitVec.and_append, BitVec.and_allOnes, BitVec.and_zero, BitVec.and_allOnes]
  exact putField_bit40 w 0

/-- ERR set, and nothing else. -/
theorem putField_err_one (w : Word) : putField w 40 1 1 = w ||| (1#64 <<< 40) := by
  have mask : (1#64 <<< 40) = 0#23 ++ 1#1 ++ 0#40 := by decide
  have bit : w.extractLsb' 40 1 ||| 1#1 = 1#1 := by
    generalize w.extractLsb' 40 1 = b
    revert b
    decide
  conv_rhs => rw [← append_extract_bit40 w, mask, BitVec.or_append, BitVec.or_append, bit, BitVec.or_zero, BitVec.or_zero]
  exact putField_bit40 w 1

/-- A word in the fields of a code register: plane mask, ERR, m and k, with what is between them. -/
theorem append_extract_code (w : Word) : w.extractLsb' 48 16 ++ w.extractLsb' 41 7 ++ w.extractLsb' 40 1 ++ w.extractLsb' 11 29 ++
    w.extractLsb' 8 3 ++ w.extractLsb' 4 4 ++ w.extractLsb' 0 4 = w := by
  rw [append_extract w (hi := 48) (lo := 41) rfl, append_extract w (hi := 41) (lo := 40) rfl, append_extract w (hi := 40) (lo := 11) rfl,
    append_extract w (hi := 11) (lo := 8) rfl, append_extract w (hi := 8) (lo := 4) rfl, append_extract w (hi := 4) (lo := 0) rfl,
    BitVec.extractLsb'_eq_self]

/-- The planes of a network as a mask of 16 bits. -/
theorem toNat_and_planes (w : BitVec 16) {p : Nat} (hp : p ≤ 16) : (w &&& BitVec.ofNat 16 (2 ^ p - 1)).toNat = w.toNat % 2 ^ p := by
  have hlt : 2 ^ p - 1 < 2 ^ 16 := by
    have := Nat.pow_le_pow_right (n := 2) (by decide) hp
    omega
  rw [BitVec.toNat_and, BitVec.toNat_ofNat, Nat.mod_eq_of_lt hlt, Nat.and_two_pow_sub_one_eq_mod]

/-- What an accepted write makes of a code register. -/
def acceptedCode (p : Nat) (v old : Word) : Word :=
  BitVec.ofNat 64 (bitsOf v.toNat 48 16 % 2 ^ p * 2 ^ 48 + bitsOf old.toNat 40 1 * 2 ^ 40 + bitsOf v.toNat 8 3 * 2 ^ 8 + bitsOf v.toNat 0 4)

/-- The planes that the network has, m and k of the new word, ERR of the old one (R39). -/
theorem acceptedCode_eq (old v : Word) {p : Nat} (hp : p ≤ 16) : acceptedCode p v old =
    (v &&& ((BitVec.ofNat 64 (2 ^ p - 1) <<< 48) ||| 0x70F)) ||| (old &&& (1#64 <<< 40)) := by
  have sum : acceptedCode p v old = (v.extractLsb' 48 16 &&& BitVec.ofNat 16 (2 ^ p - 1)) ++ 0#7 ++ old.extractLsb' 40 1 ++ 0#29 ++
      v.extractLsb' 8 3 ++ 0#4 ++ v.extractLsb' 0 4 := by
    apply BitVec.eq_of_toNat_eq
    have hpen := (Nat.mod_le (bitsOf v.toNat 48 16) (2 ^ p))
    simp only [acceptedCode, toNat_append_eq_add, toNat_and_planes _ hp, BitVec.toNat_ofNat, toNat_extractLsb'_eq_bitsOf]
    generalize bitsOf v.toNat 48 16 % 2 ^ p = pen at hpen ⊢
    simp only [bitsOf] at hpen ⊢
    omega
  have hmask : BitVec.ofNat 64 (2 ^ p - 1) <<< 48 ||| ((0x70F : Nat) : Word) = BitVec.ofNat 16 (2 ^ p - 1) ++ 0#7 ++ 0#1 ++ 0#29 ++ 7#3 ++ 0#4 ++ 15#4 := by
    interval_cases p <;> decide
  have herr : 1#64 <<< 40 = 0#16 ++ 0#7 ++ 1#1 ++ 0#29 ++ 0#3 ++ 0#4 ++ 0#4 := by decide
  have h1 : ∀ b : BitVec 1, b &&& 1#1 = b := by decide
  have h3 : ∀ b : BitVec 3, b &&& 7#3 = b := by decide
  have h4 : ∀ b : BitVec 4, b &&& 15#4 = b := by decide
  rw [sum, hmask, herr]
  conv_rhs => rw [← append_extract_code v, ← append_extract_code old]
  iterate 12 rw [BitVec.and_append]
  iterate 6 rw [BitVec.or_append]
  simp only [h1, h3, h4, BitVec.and_zero, BitVec.or_zero, BitVec.zero_or]

theorem modify_eq_set {α : Type} {l : List α} {i : Nat} {x : α} (f : α → α) (h : l[i]? = some x) : l.modify i f = l.set i (f x) := by
  rw [List.modify_eq_set_getElem?, h]
  rfl

/-- A code register takes `f` of the word it had: one of the second I/O die's, or one of the others. -/
theorem setCode_written {s : State} {io idx : Nat} {old new : Word} {f : Word → Word} (hnew : f old = new) (l : List Bool) :
    (io = 1 ∧ 8 ≤ idx → s.pkg.sprcodeB[idx - 8]? = some old → (setCode s io idx f).updPkg (fun p => { p with sprWritten := l }) =
      { s with pkg := { s.pkg with sprcodeB := s.pkg.sprcodeB.set (idx - 8) new, sprWritten := l } }) ∧
    (¬ (io = 1 ∧ 8 ≤ idx) → s.pkg.sprcode[idx]? = some old → (setCode s io idx f).updPkg (fun p => { p with sprWritten := l }) =
      { s with pkg := { s.pkg with sprcode := s.pkg.sprcode.set idx new, sprWritten := l } }) := by
  constructor
  · intro h hold
    simp only [setCode, State.updPkg, ge_iff_le, if_pos h, modify_eq_set f hold, hnew]
  · intro h hold
    simp only [setCode, State.updPkg, ge_iff_le, if_neg h, modify_eq_set f hold, hnew]

/-- A write that sets no code leaves which registers have been written. -/
theorem setCode_sprWritten (s : State) (io idx : Nat) (f : Word → Word) :
    (setCode s io idx f).updPkg (fun p => { p with sprWritten := s.pkg.sprWritten }) = setCode s io idx f := by
  simp only [setCode, State.updPkg]
  split <;> rfl

theorem bitsOf_one_eq_zero_iff {n : Nat} (w : BitVec n) (k : Nat) : bitsOf w.toNat k 1 = 0 ↔ w.getLsbD k = false := by
  rw [← Bool.not_eq_true, ← bitsOf_one_eq_one_iff, bitsOf, pow_one]
  omega

/-- The planes a mask disables (R40). -/
theorem planesOff_eq (v : Word) {p : Nat} (hp : p ≤ 16) :
    planesOff p (bitsOf v.toNat 48 16) = ((List.range p).filter (fun i => v.getLsbD (48 + i) = false)).length := by
  refine congrArg List.length (List.filter_congr (fun i hi => decide_eq_decide.mpr ?_))
  have hi16 : i < 16 := (List.mem_range.mp hi).trans_le hp
  rw [← toNat_extractLsb'_eq_bitsOf, bitsOf_one_eq_zero_iff, BitVec.getLsbD_extractLsb', decide_eq_true hi16, Bool.true_and]

/-- R40's conditions on a new code. -/
theorem codeRefused_iff {idx : Nat} (hidx : idx < 12) (v : Word) :
    let k := (v.extractLsb' 0 4).toNat
    let m := (v.extractLsb' 8 3).toNat
    let p := planes (idx / 4)
    codeRefused idx v.toNat = true ↔ k = 0 ∨ 14 < k ∨ 4 < m ∨
      (idx < 8 ∧ (p < k + m ∨ m < ((List.range p).filter (fun i => v.getLsbD (48 + i) = false)).length)) := by
  have hfew : idx / 4 < 2 ↔ idx < 8 := by omega
  simp only [codeRefused, planesOf_eq_planes (show idx / 4 ≤ 2 by omega), planesOff_eq v (planes_le _), toNat_extractLsb'_eq_bitsOf,
    Bool.or_eq_true, Bool.and_eq_true, decide_eq_true_eq, hfew, gt_iff_lt, or_assoc]

/-- A write with ERR = 1 clears ERR (R40). -/
theorem exec_sprcodeWrite_of_err {s : State} {io idx : Nat} {v : Word} (h : v.getLsbD 40 = true) :
    exec (.sprcodeWrite io idx v) s = .next (setCode s io idx (fun w => putField w 40 1 0)) :=
  if_pos ((bitsOf_one_eq_one_iff v 40).mpr h)

theorem not_err_of_clear {v : Word} (h : v.getLsbD 40 = false) : ¬ bitsOf v.toNat 40 1 = 1 := by
  rw [bitsOf_one_eq_one_iff, h]
  exact Bool.false_ne_true

/-- A refused write sets ERR (R40). -/
theorem exec_sprcodeWrite_of_refused {s : State} {io idx : Nat} {v : Word} (h : v.getLsbD 40 = false)
    (href : codeRefused idx v.toNat = true) :
    exec (.sprcodeWrite io idx v) s = .next (setCode s io idx (fun w => putField w 40 1 1)) :=
  (if_neg (not_err_of_clear h)).trans (if_pos href)

/-- An accepted write sets the code (R39). -/
theorem exec_sprcodeWrite_of_accepted {s : State} {io idx : Nat} {v : Word} (hidx : idx < 12) (h : v.getLsbD 40 = false)
    (hacc : ¬ codeRefused idx v.toNat = true) :
    exec (.sprcodeWrite io idx v) s = .next ((setCode s io idx (acceptedCode (planes (idx / 4)) v)).updPkg (fun p =>
      { p with sprWritten := s.pkg.sprWritten.set idx true })) := by
  rw [← planesOf_eq_planes (show idx / 4 ≤ 2 by omega)]
  refine (if_neg (not_err_of_clear h)).trans ((if_neg hacc).trans (congrArg _ ?_))
  simp only [setCode, State.updPkg]
  split <;> rfl

/-! ### The counter registers (R42) -/

theorem counter_setCounter (w : Net) (c : NetCnt) : (w.setCounter c).counter c.net c.ep = c := by
  rw [Net.counter, Net.setCounter, find?_putBy (by simp)]
  rfl

/-- A counter is that of its network and endpoint. -/
theorem counter_names (w : Net) (net ep : Nat) : (w.counter net ep).net = net ∧ (w.counter net ep).ep = ep := by
  unfold Net.counter
  cases h : w.counters.find? (fun c => c.net = net && c.ep = ep) with
  | none => exact ⟨rfl, rfl⟩
  | some c =>
    have hc := List.find?_some h
    simp only [Bool.and_eq_true, decide_eq_true_eq] at hc
    exact hc

/-- A counter that has been put back under its own name reads as put. -/
theorem counter_setCounter_of_names {w : Net} {c : NetCnt} {net ep : Nat} (h : c.net = net ∧ c.ep = ep) :
    (w.setCounter c).counter net ep = c := by
  obtain ⟨rfl, rfl⟩ := h
  exact counter_setCounter w c

/-- The endpoint that SPRSEL selects (R42). -/
theorem sprSel_eq (s : State) :
    let net := (s.pkg.sprsel.extractLsb' 12 2).toNat
    let group := (s.pkg.sprsel.extractLsb' 0 12).toNat
    sprSel s = (net, if net = 2 then 4096 * (s.pkg.ident.devid.toNat + 1) + group else group) := by
  simp only [sprSel, groupOf, toNat_extractLsb'_eq_bitsOf]

/-- A write of a counter register clears the two counters it shows (R42). -/
theorem exec_sprcntWrite (s : State) :
    let net := (sprSel s).1
    let ep := (sprSel s).2
    let c := s.net.counter net ep
    exec (.sprcntWrite 0) s = .next { s with net := s.net.setCounter { c with late := 0, stale := 0 } } ∧
    exec (.sprcntWrite 1) s = .next { s with net := s.net.setCounter { c with crc := 0, repaired := 0 } } ∧
    exec (.sprcntWrite 2) s = .next { s with net := { s.net.setCounter { c with lost := 0, wait := 0 } with
      ingress := updBy (fun x => x.1.key.net = net && x.1.key.ep = ep) (fun x => (x.1, s.cycle)) s.net.ingress } } := ⟨rfl, rfl, rfl⟩

/-- What `updBy` gives a member that it changes. -/
theorem eq_of_mem_updBy {α : Type} {p : α → Bool} {f : α → α} {l : List α} {y : α} (h : y ∈ updBy p f l) :
    ∃ x ∈ l, y = if p x then f x else x := by
  obtain ⟨x, hx, rfl⟩ := List.mem_map.mp h
  exact ⟨x, hx, rfl⟩

/-- R39, R40, R42: the equations of the code registers' writes and of the counters', in the statement's words. -/
theorem sprayRegisters : Claims.SprayRegisters := by
  intro s io idx v old hidx _ _ second k m p disabled refused becomes was
  have hbecomes : ∀ {i : Instr} {f : Word → Word} {new : Word} {l : List Bool}, f old = new →
      exec i s = .next ((setCode s io idx f).updPkg (fun p => { p with sprWritten := l })) → becomes i new l := by
    intro i f new l hnew hexec
    obtain ⟨hB, hA⟩ := setCode_written (s := s) (io := io) (idx := idx) hnew l
    exact ⟨fun h hold => ⟨_, hexec.trans (congrArg _ (hB h hold)), rfl⟩, fun h hold => ⟨_, hexec.trans (congrArg _ (hA h hold)), rfl⟩⟩
  have hkeeps : ∀ {i : Instr} {f : Word → Word} {new : Word}, f old = new → exec i s = .next (setCode s io idx f) → becomes i new was :=
    fun hnew hexec => hbecomes hnew (hexec.trans (congrArg _ (setCode_sprWritten s io idx _).symm))
  have hrefused : codeRefused idx v.toNat = true ↔ refused := codeRefused_iff hidx v
  refine ⟨hkeeps (putField_err_zero old) rfl, fun h => hkeeps (putField_err_zero old) (exec_sprcodeWrite_of_err h),
    fun h href => hkeeps (putField_err_one old) (exec_sprcodeWrite_of_refused h (hrefused.mpr href)),
    fun h href => hbecomes (acceptedCode_eq old v (planes_le _)) (exec_sprcodeWrite_of_accepted hidx h (mt hrefused.mp href)), ?counters⟩
  case counters =>
    intro net group ep c
    obtain ⟨h0, h1, h2⟩ := exec_sprcntWrite s
    simp only [sprSel_eq] at h0 h1 h2
    have hc : c.net = net ∧ c.ep = ep := counter_names ..
    refine ⟨⟨_, h0, counter_setCounter_of_names hc⟩, ⟨_, h1, counter_setCounter_of_names hc⟩,
      ⟨_, h2, counter_setCounter_of_names hc, fun x hx hnet hep => ?_⟩⟩
    obtain ⟨y, -, rfl⟩ := eq_of_mem_updBy hx
    by_cases hy : (y.1.key.net = net && y.1.key.ep = ep) = true
    · exact congrArg Prod.snd (if_pos hy)
    · rw [if_neg hy] at hnet hep
      exact absurd (by simp [hnet, hep]) hy

/-- Settles O40: the fragments of a message by their bytes and planes, and the registers that set the code. -/
theorem messageEncoding : Obligations.MessageEncoding := ⟨messageEncoded, sprayRegisters⟩

end Sys2Proof.Machine
end
section
/-! SUPPORT. Fragments that arrive, and messages that are decoded and delivered: the first two claims of O41. -/

namespace Sys2Proof.Machine
open Sys2Proof.Claims

-- One after another: proofs elaborated at a time take a thread each, whose stacks are the most of the check's memory.
set_option Elab.async false

/-! ### Windows and counters in the statement's words (R33, R42) -/

/-- The slots per endpoint (R24). -/
theorem slotLimit_eq_slotsAt (net : Nat) : slotLimit net = slotsAt net := by
  match net with
  | 0 | 1 | 2 | n + 3 => rfl

theorem finished_iff {w : Net} {key : MsgKey} : Finished w key ↔ (w.window key).has ((w.window key).dist key.msgid) = true := by
  rw [Window.has, Bool.and_eq_true, decide_eq_true_eq]
  rfl

/-- A counter's change at the endpoint a message goes to. -/
theorem countersOf_count (w : Net) (key : MsgKey) {f : NetCnt → NetCnt} (hf : ∀ c, (f c).net = c.net ∧ (f c).ep = c.ep) :
    countersOf (w.count key f) key = f (countersOf w key) := by
  obtain ⟨hnet, hep⟩ := hf (countersOf w key)
  obtain ⟨hnet', hep'⟩ := counter_names w key.net key.ep
  exact counter_setCounter_of_names ⟨hnet.trans hnet', hep.trans hep'⟩

/-! ### R33's table: what a valid fragment does -/

section
variable {s : State} {f : Frag}

/-- A fragment of a message with a slot joins it. -/
theorem takeFragment_of_slot (h : ∃ d ∈ s.net.slots, d.key = f.key) : takeFragment s f = { s with net := s.net.join f } :=
  if_pos (by simpa using h)

theorem takeFragment_of_noSlot (h : ¬ ∃ d ∈ s.net.slots, d.key = f.key) : takeFragment s f =
    let x := s.net.window f.key
    let d := x.dist f.key.msgid
    if x.has d then s.updNet (fun w => (w.ackAgain f s.cycle).count f.key (fun c => { c with late := satInc c.late 1 }))
    else if 256 ≤ d ∧ d ≤ 32767 then s.updNet (fun w => w.count f.key (fun c => { c with stale := satInc c.stale 1 }))
    else if s.net.slotsOf f.key ≥ slotLimit f.key.net then s.updNet (fun w => { w with ingress := w.ingress ++ [(f, s.cycle)] })
    else openSlot s f :=
  if_neg (by simpa using h)

/-- One of a finished message is late. -/
theorem takeFragment_of_finished (h : ¬ ∃ d ∈ s.net.slots, d.key = f.key) (hfin : Finished s.net f.key) :
    takeFragment s f = s.updNet (fun w => (w.ackAgain f s.cycle).count f.key (fun c => { c with late := satInc c.late 1 })) :=
  (takeFragment_of_noSlot h).trans (if_pos (finished_iff.mp hfin))

/-- One of a message that the window has left behind is stale. -/
theorem takeFragment_of_stale (h : ¬ ∃ d ∈ s.net.slots, d.key = f.key) (h1 : 256 ≤ distance s.net f.key)
    (h2 : distance s.net f.key ≤ 32767) :
    takeFragment s f = s.updNet (fun w => w.count f.key (fun c => { c with stale := satInc c.stale 1 })) := by
  have hfin : ¬ Finished s.net f.key := fun ⟨hd, _⟩ => by omega
  exact (takeFragment_of_noSlot h).trans ((if_neg (mt finished_iff.mpr hfin)).trans (if_pos ⟨h1, h2⟩))

/-- Any other opens a slot where one is free, and waits where none is. -/
theorem takeFragment_of_opens (h : ¬ ∃ d ∈ s.net.slots, d.key = f.key) (hfin : ¬ Finished s.net f.key)
    (hd : distance s.net f.key ≤ 255 ∨ 32768 ≤ distance s.net f.key) :
    takeFragment s f = if s.net.slotsOf f.key ≥ slotsAt f.key.net then s.updNet (fun w => { w with ingress := w.ingress ++ [(f, s.cycle)] })
      else openSlot s f := by
  have hstale : ¬ (256 ≤ distance s.net f.key ∧ distance s.net f.key ≤ 32767) := fun ⟨_, _⟩ => by omega
  rw [← slotLimit_eq_slotsAt]
  exact (takeFragment_of_noSlot h).trans ((if_neg (mt finished_iff.mpr hfin)).trans (if_neg hstale))

end

/-! ### A fragment arrives (R31, R33, R35) -/

section
variable {s : State} {i plane : Nat} {errs : List WireErr} {f : Frag} (hf : s.net.flight[i]? = some f)
include hf

theorem exec_fragmentArrive_of_held (h : s.net.planeHeld f.key plane = true) : exec (.fragmentArrive i plane errs) s = .next s := by
  change execFragmentArrive i plane errs s = _
  rw [execFragmentArrive, hf]
  exact if_pos h

/-- On a plane that is free: the flits' CRC, then the header, then R33's table. -/
theorem exec_fragmentArrive (h : ¬ s.net.planeHeld f.key plane = true) : exec (.fragmentArrive i plane errs) s =
    let s1 := s.updNet (fun w => { w with flight := w.flight.eraseIdx i })
    let fs := hurt errs f.flits
    let g := if errs.isEmpty then f else fragOf f.io fs
    if !crcGood fs then
      .next ((discard s1 f.key).updNet (fun w =>
        if (s.net.window f.key).has ((s.net.window f.key).dist f.key.msgid) then w
        else { w with failed := w.failed ++ [(f.key, f.hdr.idx.toNat)] }))
    else if !g.headerOk plane then .next (discard s1 f.key)
    else .next (takeFragment s1 g) := by
  change execFragmentArrive i plane errs s = _
  rw [execFragmentArrive, hf]
  exact if_neg h

end

theorem planeHeld_iff {w : Net} {key : MsgKey} {plane : Nat} : w.planeHeld key plane = true ↔
    ∃ x ∈ w.ingress, x.1.key.net = key.net ∧ x.1.key.ep = key.ep ∧ x.1.hdr.plane.toNat = plane := by
  simp only [Net.planeHeld, List.any_eq_true, Bool.and_eq_true, decide_eq_true_eq, and_assoc]

theorem headerOk_iff {f : Frag} {plane : Nat} : f.headerOk plane = true ↔
    f.hdr.plane.toNat = plane ∧ 1 ≤ f.hdr.k.toNat ∧ f.hdr.k.toNat ≤ 14 ∧ f.hdr.m.toNat ≤ 4 ∧
      f.hdr.idx.toNat < f.hdr.k.toNat + f.hdr.m.toNat ∧ f.hdr.rsv = 0 := by
  simp only [Frag.headerOk, Bool.and_eq_true, decide_eq_true_eq, and_assoc]

/-- What a fragment that joins leaves: its slot holds its index, any other is as it was. -/
theorem join_slots (w : Net) (f : Frag) : (w.join f).slots.length = w.slots.length ∧
    (∀ x ∈ (w.join f).slots, x.fits f = true → ∃ y ∈ x.frags, y.1 = f.hdr.idx.toNat) ∧
    ∀ x ∈ w.slots, ¬ x.fits f = true → x ∈ (w.join f).slots := by
  refine ⟨List.length_map _, fun x hx hfits => ?_, fun x hx hfits => ?_⟩
  · obtain ⟨y, -, rfl⟩ := eq_of_mem_updBy hx
    by_cases hy : y.fits f = true
    · rw [if_pos hy]
      by_cases hheld : y.frags.any (fun x => x.1 = f.hdr.idx.toNat) = true
      · rw [if_pos hheld]
        simpa using hheld
      · rw [if_neg hheld]
        exact ⟨_, List.mem_append_right _ List.mem_cons_self, rfl⟩
    · rw [if_neg hy] at hfits
      exact absurd hfits hy
  · exact List.mem_map.mpr ⟨x, hx, if_neg hfits⟩

theorem fits_iff {d : DSlot} {f : Frag} : d.fits f = true ↔
    d.key = f.key ∧ d.k = f.hdr.k.toNat ∧ d.m = f.hdr.m.toNat ∧ d.fsz = f.hdr.fsz.toNat := by
  simp only [DSlot.fits, Bool.and_eq_true, decide_eq_true_eq, and_assoc]

/-- An erasure counts, and leaves the slots. -/
theorem discard_net (w : Net) (key : MsgKey) :
    let q := w.count key (fun c => { c with crc := satInc c.crc 1 })
    countersOf q key = { countersOf w key with crc := oneMore (countersOf w key).crc } ∧ q.slots = w.slots ∧ q.flight = w.flight :=
  ⟨countersOf_count w key (fun _ => ⟨rfl, rfl⟩), rfl, rfl⟩

/-- What is acknowledged again changes no slot, no counter and nothing in flight. -/
theorem ackAgain_eq (w : Net) (f : Frag) (now : Nat) : w.ackAgain f now = { w with owed := (w.ackAgain f now).owed } := by
  simp only [Net.ackAgain]
  split <;> rfl

/-- R31, R33, R35: the checks in their order, then the rows of the table. -/
theorem fragmentArrives : Claims.FragmentArrives := by
  intro s i plane errs f g hf w fs arrive held erased h good slotOpen d opens inUse fits counts
  refine ⟨fun hheld => exec_fragmentArrive_of_held hf (planeHeld_iff.mpr hheld), fun hfree => ?_⟩
  have hexec := exec_fragmentArrive (errs := errs) hf (mt planeHeld_iff.mp hfree)
  refine ⟨fun hcrc => ?_, fun hcrc hg => ?_⟩
  · refine ⟨_, hexec.trans (if_pos (by simpa using hcrc)), ?_⟩
    obtain ⟨hcount, hslots, hflight⟩ := discard_net w f.key
    dsimp only [State.updNet]
    split
    · exact ⟨hcount, hslots, hflight⟩
    · exact ⟨hcount, hslots, hflight⟩
  · have hok : good ↔ g.headerOk plane = true := headerOk_iff.symm
    have hpass : good → exec (.fragmentArrive i plane errs) s = .next (takeFragment { s with net := w } g) := by
      intro hgood
      refine hexec.trans ((if_neg (by simpa using hcrc)).trans ((if_neg ?_).trans ?_))
      · rw [← hg, hok.mp hgood]
        decide
      · rw [← hg]
        rfl
    refine ⟨fun hbad => ?_, fun hgood hslot => ?_, fun hgood hslot hfin => ?_, fun hgood hslot h1 h2 => ?_, fun hgood hopens hfull => ?_,
      fun hgood hopens hroom => ?_⟩
    · refine ⟨_, hexec.trans ((if_neg (by simpa using hcrc)).trans (if_pos ?_)), discard_net w f.key⟩
      rw [← hg]
      simpa [hok] using hbad
    · refine ⟨_, (hpass hgood).trans (congrArg _ (takeFragment_of_slot hslot)), rfl, ?_⟩
      obtain ⟨hlen, hjoined, hothers⟩ := join_slots w g
      exact ⟨hlen, fun x hx hfits => hjoined x hx (fits_iff.mpr hfits), fun x hx hfits => hothers x hx (mt fits_iff.mp hfits)⟩
    · refine ⟨_, (hpass hgood).trans (congrArg _ (takeFragment_of_finished hslot hfin)), ?_⟩
      dsimp only
      rw [ackAgain_eq]
      exact ⟨rfl, rfl, countersOf_count _ _ (fun _ => ⟨rfl, rfl⟩)⟩
    · exact ⟨_, (hpass hgood).trans (congrArg _ (takeFragment_of_stale hslot h1 h2)), rfl, rfl, countersOf_count w _ (fun _ => ⟨rfl, rfl⟩)⟩
    · obtain ⟨hslot, hfin, hd⟩ := hopens
      exact ⟨_, (hpass hgood).trans (congrArg _ ((takeFragment_of_opens (s := { s with net := w }) hslot hfin hd).trans (if_pos hfull))), rfl⟩
    · obtain ⟨hslot, hfin, hd⟩ := hopens
      exact ⟨_, (hpass hgood).trans (congrArg _ ((takeFragment_of_opens (s := { s with net := w }) hslot hfin hd).trans (if_neg (Nat.not_le.mpr hroom)))), rfl⟩

/-! ### Decoding from the data fragments (R28, R34) -/

/-- The coefficients of data fragment `n`: 1 at its own place, 0 elsewhere. -/
theorem fragRow_data_getD {k n : Nat} (hn : n < k) {c : Nat} (hc : c < k) : (fragRow k n).getD c 0 = if c = n then 1 else 0 := by
  simp [fragRow, hn, hc]

theorem fragRow_data_lt {k n : Nat} (hn : n < k) {x : Nat} (hx : x ∈ fragRow k n) : x < 256 := by
  rw [fragRow, if_pos hn] at hx
  obtain ⟨i, -, rfl⟩ := List.mem_map.mp hx
  split <;> decide

theorem fragRow_data_length {k n : Nat} (hn : n < k) : (fragRow k n).length = k := by simp [fragRow, hn]

/-- Zeros change no byte. -/
theorem xorBytes_zero {a b : List Nat} (h : a.length = b.length) : xorBytes a (b.map (gmul 0)) = a := by
  refine List.ext_getElem (by simp [xorBytes, h]) (fun i _ _ => ?_)
  simp [xorBytes, gmul_zero_left]

/-- The rows of an elimination that starts from data fragments alone: each is of the fragment its number names. -/
def DataRows (k size : Nat) (data : List (List Nat)) (rows : List (List Nat × List Nat)) : Prop :=
  ∀ r ∈ rows, ∃ n < k, r.1 = fragRow k n ∧ data[n]? = some r.2 ∧ r.2.length = size ∧ ∀ x ∈ r.2, x < 256

/-- Two rows with a coefficient at the same place are one. -/
theorem DataRows.eq_of_coef {k size : Nat} {data : List (List Nat)} {rows : List (List Nat × List Nat)} (h : DataRows k size data rows)
    {r : List Nat × List Nat} (hr : r ∈ rows) {c : Nat} (hc : c < k) (hcoef : r.1.getD c 0 ≠ 0) : r.1 = fragRow k c ∧ data[c]? = some r.2 := by
  obtain ⟨n, hn, hrow, hdata, -⟩ := h r hr
  have hcn : c = n := by
    rw [hrow, fragRow_data_getD hn hc] at hcoef
    exact of_not_not (fun e => hcoef (if_neg e))
  exact hcn ▸ ⟨hrow, hdata⟩

/-- Elimination leaves such rows as they are. -/
theorem eliminate_dataRows {k size : Nat} {data : List (List Nat)} {rows : List (List Nat × List Nat)} (h : DataRows k size data rows)
    {c : Nat} (hc : c < k) : eliminate c rows = rows := by
  unfold eliminate
  split
  · rfl
  next p hp =>
    have hmem := List.mem_of_find?_eq_some hp
    have hcoef : p.1.getD c 0 ≠ 0 := by
      have := List.find?_some hp
      simp only [Bool.and_eq_true, decide_eq_true_eq] at this
      exact this.1
    obtain ⟨hprow, hpdata⟩ := h.eq_of_coef hmem hc hcoef
    obtain ⟨-, -, -, -, hplen, hpbyte⟩ := h p hmem
    have hone : p.1.getD c 0 = 1 := by rw [hprow, fragRow_data_getD hc hc, if_pos rfl]
    have hinv : ginv 1 = 1 := by decide +kernel
    have hscale1 : p.1.map (gmul 1) = p.1 := map_gmul_one (fun x hx => fragRow_data_lt hc (hprow ▸ hx))
    have hscale2 : p.2.map (gmul 1) = p.2 := map_gmul_one hpbyte
    simp only [hone, hinv, hscale1, hscale2]
    refine (List.map_congr_left (fun r hr => ?_)).trans (List.map_id rows)
    split
    · next e => exact e.symm
    · next hne =>
      obtain ⟨n, hn, hrow, hdata, hlen, -⟩ := h r hr
      have hzero : r.1.getD c 0 = 0 := by
        refine of_not_not (fun hcoef' => hne ?_)
        obtain ⟨hrow', hdata'⟩ := h.eq_of_coef hr hc hcoef'
        exact Prod.ext (hrow'.trans hprow.symm) (Option.some.inj (hdata'.symm.trans hpdata))
      rw [hzero, xorBytes_zero (by rw [hrow, hprow, fragRow_data_length hn, fragRow_data_length hc]),
        xorBytes_zero (hlen.trans hplen.symm)]
      rfl

/-- The data fragments of a message, however they have come, rebuild its data. -/
theorem rebuild_data {k size : Nat} {data : List (List Nat)} {frags : List (Nat × List Nat)} (hk : data.length = k)
    (hlen : ∀ d ∈ data, d.length = size) (hbyte : ∀ d ∈ data, ∀ x ∈ d, x < 256) (hfrags : ∀ f, f ∈ frags ↔ data[f.1]? = some f.2) :
    rebuild k frags = data := by
  have hrows : DataRows k size data (frags.map (fun f => (fragRow k f.1, f.2))) := by
    intro r hr
    obtain ⟨f, hf, rfl⟩ := List.mem_map.mp hr
    have hdata := (hfrags f).mp hf
    have hmem := List.mem_of_getElem? hdata
    obtain ⟨hn, -⟩ := List.getElem?_eq_some_iff.mp hdata
    exact ⟨f.1, hk ▸ hn, rfl, hdata, hlen _ hmem, hbyte _ hmem⟩
  have hdone : (List.range k).foldl (fun rows c => eliminate c rows) (frags.map (fun f => (fragRow k f.1, f.2))) =
      frags.map (fun f => (fragRow k f.1, f.2)) := by
    refine List.foldlRecOn (motive := fun x => x = _) _ _ rfl ?_
    rintro _ rfl c hc
    exact eliminate_dataRows hrows (List.mem_range.mp hc)
  simp only [rebuild, hdone]
  refine List.ext_getElem (by simp [hk]) (fun c hck hcd => ?_)
  have hc : c < k := by simpa using hck
  simp only [List.getElem_map, List.getElem_range]
  split
  · next r hr =>
    have hcoef := List.find?_some hr
    obtain ⟨-, hdata⟩ := hrows.eq_of_coef (List.mem_of_find?_eq_some hr) hc (by simpa using hcoef)
    exact (List.getElem?_eq_some_iff.mp hdata).2.symm
  · next hr =>
    have hnone := List.find?_eq_none.mp hr _ (List.mem_map_of_mem ((hfrags (c, data[c])).mpr (List.getElem?_eq_getElem hcd)))
    rw [fragRow_data_getD hc hc, if_pos rfl] at hnone
    exact absurd (by decide) hnone

/-! ### The message of a slot (R34) -/

section
variable {d : DSlot} {data : List (List Byte)} (hk : data.length = d.k) (hfrags : d.frags.Perm (data.mapIdx (fun n x => (n, x))))
include hk hfrags

omit hk in
theorem mem_frags_iff (f : Nat × List Byte) : f ∈ d.frags ↔ data[f.1]? = some f.2 := by
  rw [hfrags.mem_iff, List.mem_mapIdx, List.getElem?_eq_some_iff]
  constructor
  · rintro ⟨i, hi, rfl⟩
    exact ⟨hi, rfl⟩
  · rintro ⟨hi, he⟩
    exact ⟨f.1, hi, Prod.ext rfl he⟩

theorem lt_of_mem_frags {f : Nat × List Byte} (hf : f ∈ d.frags) : f.1 < d.k :=
  hk ▸ (List.getElem?_eq_some_iff.mp ((mem_frags_iff hfrags f).mp hf)).1

/-- A delivery uses the data fragments alone where all are held. -/
theorem chosen_of_data : d.chosen = d.frags := by
  have hdata : d.frags.filter (fun f => f.1 < d.k) = d.frags :=
    List.filter_eq_self.mpr (fun f hf => by simpa using lt_of_mem_frags hk hfrags hf)
  have hparity : (List.range d.m).filterMap (fun j => d.frags.find? (fun f => f.1 = d.k + j)) = [] := by
    refine List.filterMap_eq_nil_iff.mpr (fun j _ => List.find?_eq_none.mpr (fun f hf => ?_))
    have := lt_of_mem_frags hk hfrags hf
    simpa using by omega
  have hlen : d.frags.length ≤ d.k := by rw [hfrags.length_eq, List.length_mapIdx, hk]
  rw [DSlot.chosen, hdata, hparity, List.append_nil, List.take_of_length_le hlen]

theorem not_repaired_of_data (failed : List (MsgKey × Nat)) : d.repaired failed = false := by
  refine List.any_eq_false.mpr (fun n hn => ?_)
  have hn' : n < data.length := hk ▸ List.mem_range.mp hn
  have hheld : d.frags.any (fun f => f.1 = n) = true :=
    List.any_eq_true.mpr ⟨(n, data[n]), (mem_frags_iff hfrags _).mpr (List.getElem?_eq_getElem hn'), decide_eq_true rfl⟩
  rw [hheld]
  exact Bool.false_ne_true

/-- The message is the data's bytes, up to its length. -/
theorem message_of_data {size : Nat} (hsize : ∀ x ∈ data, x.length = size) : d.message = data.flatten.take d.len := by
  have hrebuild : rebuild d.k (d.frags.map (fun f => (f.1, f.2.map BitVec.toNat))) = data.map (List.map BitVec.toNat) := by
    refine rebuild_data (size := size) (by simpa using hk) ?_ ?_ (fun f => ?_)
    · intro x hx
      obtain ⟨y, hy, rfl⟩ := List.mem_map.mp hx
      rw [List.length_map, hsize y hy]
    · intro x hx n hn
      obtain ⟨y, -, rfl⟩ := List.mem_map.mp hx
      obtain ⟨b, -, rfl⟩ := List.mem_map.mp hn
      exact b.isLt
    · rw [List.getElem?_map, Option.map_eq_some_iff, List.mem_map]
      constructor
      · rintro ⟨g, hg, rfl⟩
        exact ⟨g.2, (mem_frags_iff hfrags g).mp hg, rfl⟩
      · rintro ⟨x, hx, he⟩
        exact ⟨(f.1, x), (mem_frags_iff hfrags _).mpr hx, Prod.ext rfl he⟩
  have hback : (data.map (List.map BitVec.toNat)).flatten.map (BitVec.ofNat 8) = data.flatten := by
    rw [List.map_flatten, List.map_map]
    refine congrArg List.flatten ((List.map_congr_left (fun x _ => ?_)).trans (List.map_id data))
    exact List.map_map.trans ((List.map_congr_left (fun b _ => by simp)).trans (List.map_id x))
  rw [DSlot.message, chosen_of_data hk hfrags, hrebuild, hback]

end

/-! ### What taking a delivered message leaves (R24, R34, R38) -/

/-- Memory, the decode slots, the windows and what has been delivered are as they were. -/
def KeepsReceived (s s' : State) : Prop :=
  s'.mem = s.mem ∧ s'.net.slots = s.net.slots ∧ s'.net.windows = s.net.windows ∧ s'.net.delivered = s.net.delivered

theorem KeepsReceived.refl (s : State) : KeepsReceived s s := ⟨rfl, rfl, rfl, rfl⟩

theorem KeepsReceived.trans {s s1 s2 : State} (h : KeepsReceived s s1) (h' : KeepsReceived s1 s2) : KeepsReceived s s2 := by
  obtain ⟨hm, hs, hw, hd⟩ := h
  obtain ⟨hm', hs', hw', hd'⟩ := h'
  exact ⟨hm'.trans hm, hs'.trans hs, hw'.trans hw, hd'.trans hd⟩

theorem dropTimers_keeps (s : State) (a : Agent) : KeepsReceived s (dropTimers s a) := ⟨rfl, rfl, rfl, rfl⟩

theorem stirAgent_keeps (s : State) (a : Agent) (c : Option Cargo) : KeepsReceived s (stirAgent s a c) := by
  rw [stirAgent_eq]
  exact ⟨rfl, rfl, rfl, rfl⟩

theorem sendUnder_keeps (s : State) (m : Msg) (cargo : Option Cargo) (c : Code) : KeepsReceived s (sendUnder s m cargo c) := by
  obtain ⟨w, he, hw⟩ := sendUnder_sent s m cargo c
  refine (stirAgent_keeps s m.who cargo).trans ?_
  rw [he, hw]
  exact ⟨rfl, rfl, rfl, rfl⟩

theorem sendMessage_keeps (s : State) (m : Msg) (cargo : Cargo) : KeepsReceived s (sendMessage s m cargo) := by
  unfold sendMessage
  split
  · exact sendUnder_keeps ..
  · exact .refl s

/-- What a cargo that has landed does keeps them, but for a request that the port group has to send on. -/
theorem landCargo_keeps (s : State) (key : MsgKey) (seq : Nat) (body : List Byte) {c : Cargo} (h : ∀ p q e, c ≠ .remote p q e) :
    ∃ s', landCargo s key seq body c = some s' ∧ KeepsReceived s s' := by
  unfold landCargo
  split
  · exact ⟨s, rfl, .refl s⟩
  cases c with
  | remote p q e => exact absurd rfl (h p q e)
  | resp p q e => exact ⟨_, rfl, dropTimers_keeps ..⟩
  | line d k l => exact ⟨_, rfl, dropTimers_keeps ..⟩
  | fromLlc no => exact ⟨_, rfl, dropTimers_keeps ..⟩
  | token a => exact ⟨_, rfl, sendMessage_keeps ..⟩
  | again a => exact ⟨_, rfl, sendMessage_keeps ..⟩
  | taken a => exact ⟨_, rfl, (dropTimers_keeps s a).trans ⟨rfl, rfl, rfl, rfl⟩⟩
  | stealBack no =>
    dsimp only
    split
    · exact ⟨_, rfl, dropTimers_keeps ..⟩
    · exact ⟨_, rfl, .refl s⟩
  | req p q e => exact ⟨_, rfl, .refl s⟩
  | steal no => exact ⟨_, rfl, .refl s⟩
  | stealAck no => exact ⟨_, rfl, .refl s⟩
  | toLlc no => exact ⟨_, rfl, .refl s⟩
  | notice no => exact ⟨_, rfl, .refl s⟩
  | ack no => exact ⟨_, rfl, .refl s⟩

theorem answerHome_keeps (s : State) (io p q e : Nat) (control : Bool) (body : List Byte) :
    KeepsReceived s (answerHome s io p q e control body) := by
  unfold answerHome
  split
  · exact dropTimers_keeps ..
  · exact KeepsReceived.trans ⟨rfl, rfl, rfl, rfl⟩ (sendMessage_keeps ..)

theorem remoteAnswer_keeps (s : State) (key : MsgKey) (body : List Byte) : KeepsReceived s (remoteAnswer s key body) := by
  unfold remoteAnswer
  split
  · exact .refl s
  split
  · exact .refl s
  split
  · exact answerHome_keeps ..
  · exact dropTimers_keeps ..

/-! ### A message is finished (R33) -/

theorem window_names (w : Net) (key : MsgKey) : (w.window key).net = key.net ∧ (w.window key).src = key.src ∧
    (w.window key).dst = key.dst ∧ (w.window key).io = key.io := by
  unfold Net.window
  cases h : w.windows.find? (fun x => x.net = key.net && x.src = key.src && x.dst = key.dst && x.io = key.io) with
  | none => exact ⟨rfl, rfl, rfl, rfl⟩
  | some x =>
    have hx := List.find?_some h
    simp only [Bool.and_eq_true, decide_eq_true_eq, and_assoc] at hx
    exact hx

theorem Window.finish_names (x : Window) (id : Nat) : (x.finish id).net = x.net ∧ (x.finish id).src = x.src ∧
    (x.finish id).dst = x.dst ∧ (x.finish id).io = x.io := by
  unfold Window.finish
  dsimp only
  split
  · exact ⟨rfl, rfl, rfl, rfl⟩
  · split <;> exact ⟨rfl, rfl, rfl, rfl⟩

/-- A window that has been put back under a message's names is that message's. -/
theorem window_putBy {w : Net} {key : MsgKey} {x : Window} {failed : List (MsgKey × Nat)}
    (h : x.net = key.net ∧ x.src = key.src ∧ x.dst = key.dst ∧ x.io = key.io) :
    ({ w with windows := putBy (fun y => y.net = x.net && y.src = x.src && y.dst = x.dst && y.io = x.io) x w.windows
              failed := failed } : Net).window key = x := by
  obtain ⟨net, src, dst, id, io⟩ := key
  obtain ⟨rfl, rfl, rfl, rfl⟩ := h
  rw [Net.window, find?_putBy (by simp)]
  rfl

/-- The window a finished message leaves. -/
theorem window_finish (w : Net) (key : MsgKey) : (w.finish key).window key = (w.window key).finish key.msgid := by
  obtain ⟨hnet, hsrc, hdst, hio⟩ := window_names w key
  obtain ⟨hnet', hsrc', hdst', hio'⟩ := Window.finish_names (w.window key) key.msgid
  exact window_putBy ⟨hnet'.trans hnet, hsrc'.trans hsrc, hdst'.trans hdst, hio'.trans hio⟩

/-- A message that is not stale is finished by it. -/
theorem finished_finish {w : Net} {key : MsgKey} (h : distance w key ≤ 255 ∨ 32768 ≤ distance w key) : Finished (w.finish key) key := by
  have hdist : (w.window key).dist key.msgid = distance w key := rfl
  rw [finished_iff, window_finish]
  rcases h with h | h
  · have hfin : (w.window key).finish key.msgid = { w.window key with map := (w.window key).map ||| (1#256 <<< distance w key) } :=
      if_pos h
    have hbit : ((w.window key).map ||| (1#256 <<< distance w key)).getLsbD (distance w key) = true := by
      have hlt : distance w key < 256 := by omega
      simp [hlt]
    rw [hfin, Window.has]
    exact Bool.and_eq_true_iff.mpr ⟨decide_eq_true h, hbit⟩
  · have hfin : (w.window key).finish key.msgid =
        { w.window key with h := key.msgid, map := ((w.window key).map <<< (65536 - distance w key)) ||| 1#256 } :=
      (if_neg (by rw [hdist]; omega)).trans (if_neg (by rw [hdist]; omega))
    have hzero : (key.msgid + 65536 - key.msgid) % 65536 = 0 := by omega
    rw [hfin, Window.has, Window.dist, hzero]
    simp

/-- A finished message depends on the windows alone. -/
theorem Finished.congr {w w' : Net} {key : MsgKey} (h : w'.windows = w.windows) (hf : Finished w key) : Finished w' key := by
  simp only [Finished, distance, Net.window, h] at hf ⊢
  exact hf

theorem owe_eq (w : Net) (key : MsgKey) (now : Nat) : w.owe key now = { w with owed := (w.owe key now).owed } := by
  unfold Net.owe
  split <;> rfl

/-! ### A message is delivered, and a fragment that waits is let in (R34, R35) -/

/-- A slot that is full and needs no repair delivers its message and closes; the message is finished. -/
theorem exec_messageDeliver_keeps {s : State} {k : MsgKey} {d : DSlot} (hfind : s.net.slots.find? (fun x => x.key = k) = some d)
    (hfull : ¬ d.frags.length < d.k) (hwhole : d.repaired s.net.failed = false)
    (hremote : ∀ x ∈ s.net.transit, x.1 = some k → ∀ p q e, x.2 ≠ .remote p q e) :
    ∃ s', exec (.messageDeliver k) s = .next s' ∧ s'.mem = s.mem ∧ s'.net.slots = s.net.slots.filter (fun x => x.key ≠ k) ∧
      s'.net.windows = (s.net.finish k).windows ∧
      s'.net.delivered = s.net.delivered ++ [{ key := k, seq := d.seq, body := d.message, repaired := false }] := by
  change ∃ s', execMessageDeliver k s = .next s' ∧ _
  rw [execMessageDeliver, hfind]
  dsimp -zeta only
  rw [if_neg hfull]
  extract_lets repaired body cargo quiet s1 s2
  have hrep : repaired = false := hwhole
  have h1 : s1.mem = s.mem ∧ s1.net.slots = s.net.slots.filter (fun x => x.key ≠ k) ∧ s1.net.windows = (s.net.finish k).windows ∧
      s1.net.delivered = s.net.delivered ++ [{ key := k, seq := d.seq, body := d.message, repaired := false }] := by
    refine ⟨rfl, ?_⟩
    simp only [s1, State.updNet, hrep, Bool.false_eq_true, if_false]
    split
    · exact ⟨rfl, rfl, rfl⟩
    · rw [owe_eq]
      exact ⟨rfl, rfl, rfl⟩
  have h2 : KeepsReceived s1 s2 := by
    simp only [s2, hrep, Bool.false_eq_true, if_false]
    split
    · exact stirAgent_keeps ..
    · exact stirAgent_keeps ..
  have hafter : ∀ {s'}, KeepsReceived s2 s' → s'.mem = s.mem ∧ s'.net.slots = s.net.slots.filter (fun x => x.key ≠ k) ∧
      s'.net.windows = (s.net.finish k).windows ∧
      s'.net.delivered = s.net.delivered ++ [{ key := k, seq := d.seq, body := d.message, repaired := false }] := by
    intro s' h
    obtain ⟨hmem, hslots, hwindows, hdelivered⟩ := h2.trans h
    obtain ⟨hmem1, hslots1, hwindows1, hdelivered1⟩ := h1
    exact ⟨hmem.trans hmem1, hslots.trans hslots1, hwindows.trans hwindows1, hdelivered.trans hdelivered1⟩
  cases hcargo : cargo with
  | none => exact ⟨_, rfl, hafter (remoteAnswer_keeps ..)⟩
  | some c =>
    obtain ⟨x, hx, rfl⟩ := Option.map_eq_some_iff.mp hcargo
    obtain ⟨s', hland, hkeeps⟩ := landCargo_keeps s2 k d.seq d.message
      (hremote x (List.mem_of_find?_eq_some hx) (by simpa using List.find?_some hx))
    exact ⟨s', congrArg (fun o => Host.Outcome.next (Option.getD o s)) hland, hafter hkeeps⟩

/-- A fragment that waits opens a slot once one is free, and the cycles it has waited count. -/
theorem ingressSlotAdmit_opens {s : State} {i t0 : Nat} {f : Frag} (hf : s.net.ingress[i]? = some (f, t0))
    (hslot : ∀ x ∈ s.net.slots, x.key ≠ f.key) (hroom : s.net.slotsOf f.key < slotsAt f.key.net)
    (hfin : ¬ Finished s.net f.key) (hd : distance s.net f.key ≤ 255 ∨ 32768 ≤ distance s.net f.key) :
    let w := s.net.count f.key (fun c => { c with wait := satInc c.wait (s.cycle - t0) })
    exec (.ingressSlotAdmit i) s = .next (openSlot { s with net := { w with ingress := w.ingress.eraseIdx i } } f) := by
  intro w
  have hopen : ¬ (s.net.opens f && s.net.slotsOf f.key ≥ slotLimit f.key.net) = true := by
    rw [slotLimit_eq_slotsAt, Bool.and_eq_true, decide_eq_true_eq]
    exact fun h => Nat.not_le.mpr hroom h.2
  have htake := takeFragment_of_opens (s := { s with net := { w with ingress := w.ingress.eraseIdx i } }) (f := f)
    (fun ⟨x, hx, he⟩ => hslot x hx he) hfin hd
  change execIngressSlotAdmit i s = _
  rw [execIngressSlotAdmit, hf]
  exact (if_neg hopen).trans (congrArg _ (htake.trans (if_neg (Nat.not_le.mpr hroom))))

/-- R34, R35: decoding from the data fragments, what a delivery leaves, and the ingress buffer. -/
theorem messageDelivered : Claims.MessageDelivered := by
  intro s d size data hfind _ hk hsize hfrags hremote
  have hfull : ¬ d.frags.length < d.k := by rw [hfrags.length_eq, List.length_mapIdx, hk]; exact Nat.lt_irrefl _
  obtain ⟨s', hexec, hmem, hslots, hwindows, hdelivered⟩ :=
    exec_messageDeliver_keeps hfind hfull (not_repaired_of_data hk hfrags _) hremote
  rw [message_of_data hk hfrags hsize] at hdelivered
  refine ⟨⟨s', hexec, hslots, hdelivered, fun hd => Finished.congr hwindows (finished_finish hd), hmem⟩, fun i f t0 hf hslot hroom hfin hd => ?_⟩
  refine ⟨_, ingressSlotAdmit_opens hf hslot hroom hfin hd, rfl, ?_, _, rfl, rfl, rfl⟩
  exact congrArg NetCnt.wait (countersOf_count s.net f.key (f := fun c => { c with wait := satInc c.wait (s.cycle - t0) }) (fun _ => ⟨rfl, rfl⟩))

end Sys2Proof.Machine
end
section
/-! SUPPORT. What is on its way in the networks does not matter to a fetch: states that differ in their networks alone, with the same next
number, have the same instruction at a thread's pc. -/

namespace Sys2Proof.Machine
open Sys2Proof.Claims

-- One after another: proofs elaborated at a time take a thread each, whose stacks are the most of the check's memory.
set_option Elab.async false

/-! ### States that differ in their networks alone -/

/-- A state with other networks. -/
def State.withNet (s : State) (w : Net) : State := { s with net := w }

/-- Two states that differ in their networks alone, which give the next number alike. -/
def SameButNet (s s' : State) : Prop := ∃ w, s' = s.withNet w ∧ w.serial = s.net.serial

theorem SameButNet.refl (s : State) : SameButNet s s := ⟨_, rfl, rfl⟩

/-- Two accesses that come to the same, in states that differ in their networks alone; which fault it is does not matter. -/
inductive Acc.Alike {α : Type} : Acc α → Acc α → Prop
  | ok {s s' : State} {v : α} (h : SameButNet s s') : Alike (.ok s v) (.ok s' v)
  | fault {s s' : State} {c k c' k' : Nat} {p p' : Word} : Alike (.fault s c k p) (.fault s' c' k' p')
  | wait : Alike .wait .wait

theorem Acc.Alike.bind {α β : Type} {a b : Acc α} {f g : State → α → Acc β} (h : Acc.Alike a b)
    (hf : ∀ s s' v, SameButNet s s' → Acc.Alike (f s v) (g s' v)) : Acc.Alike (a.bind f) (b.bind g) := by
  cases h with
  | ok h => exact hf _ _ _ h
  | fault => exact .fault
  | wait => exact .wait

theorem Acc.Alike.ite {α : Type} {c : Prop} [Decidable c] {a b a' b' : Acc α} (ha : Acc.Alike a a') (hb : Acc.Alike b b') :
    Acc.Alike (if c then a else b) (if c then a' else b') := by
  split
  · exact ha
  · exact hb

/-! ### The LLC and the expander do not look at the networks -/

section
variable (s : State) (w : Net)

theorem llcHold_withNet (line : Nat) : llcHold (s.withNet w) line = ((llcHold s line).1.withNet w, (llcHold s line).2) := by
  simp only [llcHold]
  change (if (llcAt s (baseOf line)).lines.contains line = true then _ else _) = _
  split <;> rfl

theorem llcGet_withNet (pa n : Nat) : llcGet (s.withNet w) pa n = ((llcGet s pa n).1.withNet w, (llcGet s pa n).2) := by
  rw [llcGet, llcHold_withNet]
  rfl

theorem llcLines_withNet : ∀ (k : Nat) (s : State) (pa : Nat),
    llcLines k (s.withNet w) pa = ((llcLines k s pa).1.withNet w, (llcLines k s pa).2)
  | 0, _, _ => rfl
  | k + 1, s, pa => by
    rw [llcLines, llcGet_withNet]
    dsimp only
    rw [llcLines_withNet k]
    rfl

theorem expandAt_withNet (dir t : Nat) : expandAt (s.withNet w) dir t = ((expandAt s dir t).1.withNet w, (expandAt s dir t).2) := by
  have hready : ∀ pa, stackReady (s.withNet w) pa = stackReady s pa := fun _ => rfl
  have hready1 : ∀ pa, stackReady ((llcGet s (dir + 8 * t) 8).1.withNet w) pa = stackReady (llcGet s (dir + 8 * t) 8).1 pa := fun _ => rfl
  have hmem : ∀ u : State, (u.withNet w).mem = u.mem := fun _ => rfl
  simp only [expandAt, llcGet_withNet, llcLines_withNet, hready, hready1, hmem]
  split
  · rfl
  split
  · rfl
  split
  · rfl
  split
  · rfl
  split
  · rfl
  split <;> rfl

theorem tileFor_withNet (d i : Nat) (p : CompPage) (t : Nat) :
    tileFor (s.withNet w) d i p t = ((tileFor s d i p t).1.withNet w, (tileFor s d i p t).2) := by
  have htiles : sliceAt (s.withNet w) d i = sliceAt s d i := rfl
  unfold tileFor
  rw [htiles, expandAt_withNet]
  split
  · rfl
  · dsimp only
    generalize expandAt s p.dir t = r
    obtain ⟨s1, e⟩ := r
    cases e <;> rfl

end

/-- What does not look at the networks leaves states alike, with one result. -/
theorem sameButNet_of_withNet {α : Type} {f : State → State × α} (hf : ∀ s w, f (s.withNet w) = ((f s).1.withNet w, (f s).2)) {s s' : State}
    (h : SameButNet s s') : SameButNet (f s).1 (f s').1 ∧ (f s').2 = (f s).2 := by
  obtain ⟨w, rfl, hw⟩ := h
  have hnet : (f s).1.net = s.net := congrArg (fun r => r.1.net) (hf s s.net)
  rw [hf]
  exact ⟨⟨w, rfl, hw.trans (congrArg Net.serial hnet).symm⟩, rfl⟩

theorem llcGet_sameButNet {s s' : State} (h : SameButNet s s') (pa n : Nat) :
    SameButNet (llcGet s pa n).1 (llcGet s' pa n).1 ∧ (llcGet s' pa n).2 = (llcGet s pa n).2 :=
  sameButNet_of_withNet (f := fun s => llcGet s pa n) (fun s w => llcGet_withNet s w pa n) h

theorem expandAt_sameButNet {s s' : State} (h : SameButNet s s') (dir t : Nat) :
    SameButNet (expandAt s dir t).1 (expandAt s' dir t).1 ∧ (expandAt s' dir t).2 = (expandAt s dir t).2 :=
  sameButNet_of_withNet (f := fun s => expandAt s dir t) (fun s w => expandAt_withNet s w dir t) h

theorem tileFor_sameButNet {s s' : State} (h : SameButNet s s') (d i : Nat) (p : CompPage) (t : Nat) :
    SameButNet (tileFor s d i p t).1 (tileFor s' d i p t).1 ∧ (tileFor s' d i p t).2 = (tileFor s d i p t).2 :=
  sameButNet_of_withNet (f := fun s => tileFor s d i p t) (fun s w => tileFor_withNet s w d i p t) h

/-! ### Sending, and a line that is installed -/

theorem stirAgent_withNet (s : State) (w : Net) (a : Agent) (c : Option Cargo) :
    stirAgent (s.withNet w) a c = (stirAgent s a c).withNet w := by
  have hasid : (agentAsid (s.withNet w) a).or (cargoAsid (s.withNet w) c) = (agentAsid s a).or (cargoAsid s c) := rfl
  rw [stirAgent, stirAgent, hasid]
  split <;> rfl

theorem sendMessage_sameButNet {s s' : State} (h : SameButNet s s') (m : Msg) (cargo : Cargo) :
    SameButNet (sendMessage s m cargo) (sendMessage s' m cargo) := by
  obtain ⟨w, rfl, hw⟩ := h
  have hcode : codeFor (s.withNet w) m = codeFor s m := rfl
  rw [sendMessage, sendMessage, hcode]
  split
  · next c _ =>
    obtain ⟨w1, he1, h1⟩ := sendUnder_sent s m (some cargo) c
    obtain ⟨w2, he2, h2⟩ := sendUnder_sent (s.withNet w) m (some cargo) c
    have hserial1 : w1.serial = s.net.serial := by rw [h1, stirAgent_net]
    have hserial2 : w2.serial = w.serial := by rw [h2, stirAgent_net]; rfl
    rw [he1, he2, stirAgent_withNet]
    exact ⟨w2, rfl, hserial2.trans (hw.trans hserial1.symm)⟩
  · exact ⟨w, rfl, hw⟩

theorem writeBack_sameButNet {s s' : State} (h : SameButNet s s') (d i : Nat) (l : SLine) (waiting : List Req) :
    SameButNet (writeBack s d i l waiting) (writeBack s' d i l waiting) := by
  obtain ⟨w, rfl, hw⟩ := h
  have hno : takeSerial (s.withNet w) = (s.net.serial, s.withNet { w with serial := w.serial + 1 }) := by
    rw [← hw]
    rfl
  rw [writeBack, writeBack, hno]
  exact sendMessage_sameButNet ⟨{ w with serial := w.serial + 1 }, rfl, congrArg (· + 1) hw⟩ _ _

theorem setSlice_sameButNet {s s' : State} (h : SameButNet s s') (x : Slice) : SameButNet (s.setSlice x) (s'.setSlice x) := by
  obtain ⟨w, rfl, hw⟩ := h
  exact ⟨w, rfl, hw⟩

theorem installAt_sameButNet {s s' : State} (h : SameButNet s s') (x : Slice) (l : SLine) :
    SameButNet (installAt s x l) (installAt s' x l) := by
  unfold installAt
  split
  · exact setSlice_sameButNet h _
  split
  · exact writeBack_sameButNet (setSlice_sameButNet h _) ..
  · exact setSlice_sameButNet h _

/-! ### Reads, walks and fetches (R203, R206, R210, R285) -/

theorem useGot_alike {s s' : State} (h : SameButNet s s') (p : Word) (g : Got) : Acc.Alike (useGot p s g) (useGot p s' g) := by
  obtain ⟨w, rfl, hw⟩ := h
  unfold useGot
  refine .ite .fault ?_
  split
  · exact .ok ⟨w, rfl, hw⟩
  · exact .ok ⟨w, rfl, hw⟩

theorem llcLoad_alike {s s' : State} (h : SameButNet s s') (lv : Nat) (x : Xl) (n : Nat) : Acc.Alike (llcLoad s lv x n) (llcLoad s' lv x n) := by
  have hexp := expandAt_sameButNet h (compDir x (pageBits lv)).1 (compDir x (pageBits lv)).2
  have hget := llcGet_sameButNet h x.pa n
  unfold llcLoad
  dsimp only
  rw [hget.2]
  obtain ⟨w, rfl, hw⟩ := h
  refine .ite (.ok ⟨w, rfl, hw⟩) (.ite .fault (.ite ?_ (useGot_alike hget.1 _ _)))
  generalize expandAt s (compDir x (pageBits lv)).1 (compDir x (pageBits lv)).2 = r at hexp ⊢
  generalize expandAt (s.withNet w) (compDir x (pageBits lv)).1 (compDir x (pageBits lv)).2 = r' at hexp ⊢
  obtain ⟨s1, e⟩ := r
  obtain ⟨s2, e'⟩ := r'
  obtain ⟨h1, (rfl : e' = e)⟩ := hexp
  cases e' with
  | fault c k => exact .fault
  | tile bs b => exact useGot_alike h1 _ _

theorem missRead_alike {s s' : State} (h : SameButNet s s') (d lv : Nat) (x : Xl) (n : Nat) :
    Acc.Alike (missRead s d lv x n) (missRead s' d lv x n) := by
  have htile := tileFor_sameButNet h d (sliceIndex x.iset x.pa) (x.window lv) (compDir x (pageBits lv)).2
  have hline := llcGet_sameButNet h (x.pa / 128 * 128) 128
  have hget := llcGet_sameButNet h x.pa n
  have hslice : ∀ {u u' : State}, SameButNet u u' → sliceAt u' d (sliceIndex x.iset x.pa) = sliceAt u d (sliceIndex x.iset x.pa) := by
    rintro u _ ⟨w, rfl, -⟩
    rfl
  unfold missRead
  dsimp only
  rw [hline.2, hget.2, hslice h, hslice hline.1]
  obtain ⟨w, rfl, hw⟩ := h
  refine .ite .fault (.ite .wait (.ite ?_ (.ite .wait (.ite (useGot_alike (installAt_sameButNet hline.1 _ _) _ _) (useGot_alike hget.1 _ _)))))
  generalize tileFor s d (sliceIndex x.iset x.pa) (x.window lv) (compDir x (pageBits lv)).2 = r at htile ⊢
  generalize tileFor (s.withNet w) d (sliceIndex x.iset x.pa) (x.window lv) (compDir x (pageBits lv)).2 = r' at htile ⊢
  obtain ⟨s1, e⟩ := r
  obtain ⟨s2, e'⟩ := r'
  obtain ⟨h1, (rfl : e' = e)⟩ := htile
  cases e' with
  | fault c k => exact .fault
  | tile bs b =>
    dsimp only
    rw [hslice h1]
    split
    · exact useGot_alike (installAt_sameButNet h1 _ _) _ _
    · exact useGot_alike h1 _ _

theorem readBytes_alike {s s' : State} (h : SameButNet s s') (die : Option Nat) (lv : Nat) (x : Xl) (n : Nat) :
    Acc.Alike (readBytes s die lv x n) (readBytes s' die lv x n) := by
  have hplace : placeOf s' die x n = placeOf s die x n := by
    obtain ⟨w, rfl, -⟩ := h
    rfl
  unfold readBytes
  rw [hplace]
  dsimp only
  split
  · have hbusy : ∀ line, llcBusy s' line = llcBusy s line := by
      obtain ⟨w, rfl, -⟩ := h
      exact fun _ => rfl
    rw [hbusy]
    exact .ite .wait (llcLoad_alike h ..)
  · next d _ =>
    have hslice : ∀ i, sliceAt s' d i = sliceAt s d i := by
      obtain ⟨w, rfl, -⟩ := h
      exact fun _ => rfl
    rw [hslice]
    refine .ite .wait ?_
    split
    · exact useGot_alike (setSlice_sameButNet h _) _ _
    · exact .ite .wait (missRead_alike h ..)

theorem readTable_alike {s s' : State} (h : SameButNet s s') (die : Option Nat) (a : Nat) : Acc.Alike (readTable s die a) (readTable s' die a) := by
  unfold readTable
  refine .bind ?_ (fun _ _ _ h => .ok h)
  cases die with
  | none => exact llcLoad_alike h ..
  | some d => exact readBytes_alike h ..

theorem walkFrom_alike (die : Option Nat) (core asid va : Nat) : ∀ (k lv a : Nat) {s s' : State}, SameButNet s s' →
    Acc.Alike (walkFrom die core asid va k lv a s) (walkFrom die core asid va k lv a s')
  | 0, _, _, _, _, _ => .fault
  | k + 1, lv, a, s, s', h => by
    have hread := readTable_alike h die (a + 8 * walkIdx va lv)
    unfold walkFrom
    generalize readTable s die (a + 8 * walkIdx va lv) = r at hread ⊢
    generalize readTable s' die (a + 8 * walkIdx va lv) = r' at hread ⊢
    cases hread with
    | wait => exact .wait
    | fault => exact .fault
    | ok h1 =>
      refine .ite .fault (.ite (.ite (.ok h1) .fault) (.ite .fault (walkFrom_alike die core asid va k _ _ ?_)))
      obtain ⟨w, rfl, hw⟩ := h1
      cases die with
      | none => exact ⟨w, rfl, hw⟩
      | some d => exact ⟨w, rfl, hw⟩

theorem translate_alike {s s' : State} (h : SameButNet s s') (die : Option Nat) (core asid va : Nat) (nd : Need) :
    Acc.Alike (translate s die core asid va nd) (translate s' die core asid va nd) := by
  unfold translate
  refine .ite .fault (.bind ?_ (fun s1 s2 e h => ?_))
  · have hpart : partOf s' asid = partOf s asid := by
      obtain ⟨w, rfl, -⟩ := h
      rfl
    have hstart : ∀ root, walkStart s' die core asid va root = walkStart s die core asid va root := by
      obtain ⟨w, rfl, -⟩ := h
      exact fun _ => rfl
    unfold walk
    rw [hpart]
    split
    · exact .fault
    · rw [hstart]
      exact walkFrom_alike die core asid va _ _ _ h
  · dsimp only
    split
    · exact .fault
    · exact .ok h

theorem threadXl_alike {s s' : State} (h : SameButNet s s') (t : Thread) (va : Nat) (nd : Need) :
    Acc.Alike (threadXl s t va nd) (threadXl s' t va nd) := by
  unfold threadXl
  cases t.id with
  | sys n => exact .ite .fault (.ite (.ok h) (translate_alike h ..))
  | ctl d c k => exact translate_alike h ..

theorem threadBytes_alike {s s' : State} (h : SameButNet s s') (t : Thread) (die : Option Nat) (lv : Nat) (x : Xl) (n : Nat) :
    Acc.Alike (threadBytes s t die lv x n) (threadBytes s' t die lv x n) := by
  unfold threadBytes
  refine .bind (readBytes_alike h ..) (fun s1 s2 bs h1 => .ok ?_)
  obtain ⟨w, rfl, -⟩ := h
  obtain ⟨w1, rfl, hw1⟩ := h1
  have hcorr : correctedIn (s.withNet w) (s1.withNet w1) = correctedIn s s1 := rfl
  rw [hcorr]
  split
  · exact ⟨w1, rfl, hw1⟩
  · exact ⟨w1, rfl, hw1⟩

/-- The bytes a fetch reads. -/
def fetchBytes (s : State) (t : Thread) : Acc (List Byte) :=
  (threadXl s t t.pc.toNat (Need.fetch (t.mode = .user))).bind (fun s' v => threadBytes s' t t.id.die? v.2 v.1 4)

theorem pcInstr_eq (s : State) (t : Thread) : pcInstr s t = if t.pc.toNat % 4 ≠ 0 then none else
    match fetchBytes s t with
    | .ok _ bs => decodeScalar ((wordOfBytes bs).getD 0)
    | _ => none := by
  have hfetch : fetch s t = if t.pc.toNat % 4 ≠ 0 then .trapped (misaligned s t t.pc) else match fetchBytes s t with
      | .wait => .wait
      | .fault s' c k p => .trapped (accessFault s' t c k p t.pc.toNat false)
      | .ok s' bs => .word s' ((wordOfBytes bs).getD 0) := rfl
  rw [pcInstr, hfetch]
  by_cases h : t.pc.toNat % 4 ≠ 0
  · rw [if_pos h, if_pos h]
  · rw [if_neg h, if_neg h]
    cases fetchBytes s t <;> rfl

/-- The instruction at a thread's pc does not depend on what is on its way in the networks. -/
theorem pcInstr_sameButNet {s s' : State} (h : SameButNet s s') (t : Thread) : pcInstr s' t = pcInstr s t := by
  have hbytes : Acc.Alike (fetchBytes s t) (fetchBytes s' t) := .bind (threadXl_alike h ..) (fun _ _ _ h => threadBytes_alike h ..)
  rw [pcInstr_eq, pcInstr_eq]
  generalize fetchBytes s t = a at hbytes ⊢
  generalize fetchBytes s' t = b at hbytes ⊢
  cases hbytes <;> rfl

end Sys2Proof.Machine
end
section
/-! SUPPORT. Losses: the notice of a slot that times out, NET_LOSS at a requester, and where O41 fails. -/

namespace Sys2Proof.Machine
open Sys2Proof.Claims

-- One after another: proofs elaborated at a time take a thread each, whose stacks are the most of the check's memory.
set_option Elab.async false

/-! ### A decode timeout and its notice (R36) -/

/-- A sum of the powers of two that `p` picks has the bits that `p` picks. -/
theorem testBit_sum_pow (p : Nat → Bool) : ∀ n, ((List.range n).map (fun i => if p i then 2 ^ i else 0)).foldl (fun a b => a + b) 0 < 2 ^ n ∧
    ∀ k < n, (((List.range n).map (fun i => if p i then 2 ^ i else 0)).foldl (fun a b => a + b) 0).testBit k = p k
  | 0 => ⟨by simp, fun k hk => absurd hk (Nat.not_lt_zero k)⟩
  | n + 1 => by
    obtain ⟨hlt, hbit⟩ := testBit_sum_pow p n
    rw [List.range_succ, List.map_append, List.foldl_append]
    simp only [List.map_cons, List.map_nil, List.foldl_cons, List.foldl_nil]
    generalize ((List.range n).map (fun i => if p i then 2 ^ i else 0)).foldl (fun a b => a + b) 0 = x at hlt hbit ⊢
    have hpow : 2 ^ (n + 1) = 2 ^ n + 2 ^ n := by omega
    cases hp : p n with
    | true =>
      simp only [if_true]
      refine ⟨by omega, fun k hk => ?_⟩
      rcases Nat.lt_succ_iff_lt_or_eq.mp hk with h | rfl
      · rw [Nat.add_comm, Nat.testBit_two_pow_add_gt h, hbit k h]
      · rw [Nat.add_comm, Nat.testBit_two_pow_add_eq, Nat.testBit_lt_two_pow hlt, hp]
        rfl
    | false =>
      simp only [Bool.false_eq_true, if_false, Nat.add_zero]
      refine ⟨by omega, fun k hk => ?_⟩
      rcases Nat.lt_succ_iff_lt_or_eq.mp hk with h | rfl
      · exact hbit k h
      · rw [Nat.testBit_lt_two_pow hlt, hp]

/-- The bitmap of a slot shows the fragments it holds. -/
theorem testBit_bitmap (d : DSlot) {k : Nat} (h : k < d.k + d.m) : d.bitmap.testBit k = true ↔ ∃ f ∈ d.frags, f.1 = k := by
  have hbit := (testBit_sum_pow (fun n => d.frags.any (fun f => f.1 = n)) (d.k + d.m)).2 k h
  rw [DSlot.bitmap, hbit, List.any_eq_true]
  simp only [decide_eq_true_eq]

/-- The message of a loss notice. -/
def noticeMsg (d : DSlot) : Msg :=
  { src := BitVec.ofNat 12 d.key.dst, dst := BitVec.ofNat 12 d.key.src, dev := d.key.net = 2, traffic := .control, seq := 0
    body := natBytes 2 d.key.msgid ++ natBytes 3 d.bitmap, who := .unit }

/-- A notice on a network of the package leaves, where the code of its class has a data fragment. -/
theorem sendNotice_of_coded {s : State} {d : DSlot} (hnet : d.key.net ≤ 1) (hcode : 1 ≤ (chipCode s (noticeMsg d).net 3).k) :
    ∃ w fr, sendNotice s d = { s with net := w } ∧ w.slots = s.net.slots ∧ w.counters = s.net.counters ∧
      w.notices = s.net.notices ++ [{ no := s.net.serial, key := d.key, cls := d.cls, bitmap := d.bitmap }] ∧
      w.flight = s.net.flight ++ fr ∧ ∀ f ∈ fr, f.hdr.cls = 3 ∧ f.hdr.src = BitVec.ofNat 12 d.key.dst ∧ f.hdr.dst = BitVec.ofNat 12 d.key.src := by
  let s2 := s.updNet (fun w => { w with
    serial := w.serial + 1, notices := w.notices ++ [{ no := s.net.serial, key := d.key, cls := d.cls, bitmap := d.bitmap }] })
  let c := chipCode s (noticeMsg d).net 3
  have hdev : (noticeMsg d).dev = false := decide_eq_false (by omega)
  have hk : 1 ≤ c.k := hcode
  have hspan : 5 ≤ c.span := le_min (by decide) (show 5 ≤ 512 * c.k by omega)
  have hpos : ¬ c.span = 0 := by omega
  have hsent : sendNotice s d = encodeOne 3 c (some (.notice s.net.serial)) s2 (noticeMsg d) := by
    have hencode : encodeAt s2 (noticeMsg d) (some (.notice s.net.serial)) = some (encodeOne 3 c (some (.notice s.net.serial)) s2 (noticeMsg d)) := by
      rw [encodeAt_of_onChip hdev]
      exact (if_neg hpos).trans (congrArg some (sendUnder_of_le hspan))
    exact congrArg (fun o => Option.getD o s) hencode
  obtain ⟨w, he, hw⟩ := encodeOne_sent 3 c (some (.notice s.net.serial)) s2 (noticeMsg d)
  obtain ⟨hflight, -⟩ := encodeOne_flight (s := s2) hdev 3 c (some (.notice s.net.serial))
  rw [he] at hflight
  refine ⟨w, _, hsent.trans he, ?_, ?_, ?_, hflight, fun f hf => ?_⟩
  · rw [hw]; rfl
  · rw [hw]; rfl
  · rw [hw]; rfl
  · rw [fragments_eq] at hf
    obtain ⟨n, -, rfl⟩ := List.mem_map.mp hf
    exact ⟨rfl, rfl, rfl⟩

/-- A notice that cannot leave, its class having a code without data fragments, is dropped. -/
theorem sendNotice_of_uncoded {s : State} {d : DSlot} (hnet : d.key.net ≤ 1) (hcode : (chipCode s (noticeMsg d).net 3).k = 0) :
    sendNotice s d = s := by
  have hdev : (noticeMsg d).dev = false := decide_eq_false (by omega)
  have hspan : (chipCode s (noticeMsg d).net 3).span = 0 := by
    rw [Code.span, hcode]
    rfl
  let s2 := s.updNet (fun w => { w with
    serial := w.serial + 1, notices := w.notices ++ [{ no := s.net.serial, key := d.key, cls := d.cls, bitmap := d.bitmap }] })
  have hencode : encodeAt s2 (noticeMsg d) (some (.notice s.net.serial)) = none := by
    rw [encodeAt_of_onChip hdev]
    exact if_pos hspan
  exact congrArg (fun o => Option.getD o s) hencode

/-- The networks when a slot of a network of the package has closed at its timeout. -/
def timedOut (w : Net) (key : MsgKey) : Net :=
  (Net.finish { w with slots := w.slots.filter (fun x => x.key ≠ key) } key).count key (fun c => { c with lost := satInc c.lost 1 })

/-- A slot that is short at its timeout closes, its message is finished, NETLOSS counts, and a notice goes back. -/
theorem exec_decodeTimeout {s : State} {d : DSlot} (hfind : s.net.slots.find? (fun x => x.key = d.key) = some d) (hnet : d.key.net ≤ 1)
    (hshort : d.frags.length < d.k) (hdue : d.due ≤ s.cycle) :
    exec (.decodeTimeout d.key) s = .next (sendNotice (s.withNet (timedOut s.net d.key)) d) := by
  have hnot2 : ¬ d.key.net = 2 := by omega
  change execDecodeTimeout d.key s = _
  rw [execDecodeTimeout, hfind]
  refine (if_neg (by omega)).trans ?_
  simp only [hnot2, decide_false, Bool.false_and, Bool.false_eq_true, if_false, Net.owe, ne_eq, not_false_eq_true, if_true]
  rfl

/-- R36, on the networks of the package: what O41 says of a decode timeout holds where the code of the notice's class has a data
fragment. -/
theorem decodeTimeout_notifies {s : State} {d : DSlot} (hfind : s.net.slots.find? (fun x => x.key = d.key) = some d) (hnet : d.key.net ≤ 1)
    (hshort : d.frags.length < d.k) (hdue : d.due ≤ s.cycle) (hcode : 1 ≤ (chipCode s (noticeMsg d).net 3).k) :
    NetStep (.decodeTimeout d.key) s (fun q => q.slots = s.net.slots.filter (fun x => x.key ≠ d.key) ∧
      (countersOf q d.key).lost = oneMore (countersOf s.net d.key).lost ∧
      (∃ no b, q.notices = s.net.notices ++ [{ no := no, key := d.key, cls := d.cls, bitmap := b }] ∧
        ∀ k, k < d.k + d.m → (b.testBit k = true ↔ ∃ f ∈ d.frags, f.1 = k)) ∧
      ∃ fr, q.flight = s.net.flight ++ fr ∧ ∀ f ∈ fr, f.hdr.cls = 3 ∧ f.hdr.src = BitVec.ofNat 12 d.key.dst ∧
        f.hdr.dst = BitVec.ofNat 12 d.key.src) := by
  obtain ⟨w, fr, hsend, hslots, hcounters, hnotices, hflight, hfr⟩ :=
    sendNotice_of_coded (s := s.withNet (timedOut s.net d.key)) hnet hcode
  refine ⟨w, (exec_decodeTimeout hfind hnet hshort hdue).trans (congrArg _ hsend), hslots, ?_,
    ⟨_, _, hnotices, fun k hk => testBit_bitmap d hk⟩, fr, hflight, hfr⟩
  have hsame : countersOf w d.key = countersOf (timedOut s.net d.key) d.key := by
    simp only [countersOf, Net.counter, hcounters]
    rfl
  rw [hsame]
  exact congrArg NetCnt.lost (countersOf_count _ d.key (f := fun c => { c with lost := satInc c.lost 1 }) (fun _ => ⟨rfl, rfl⟩))

/-! ### A loss is raised at the requester (R37, R38) -/

/-- A generator finds its element answered by the loss. -/
theorem genLoss_answers (s : State) (p q e : Nat) (n : NetInfo) : ∃ dead,
    (genLoss s p q e n).resps = s.resps.filter (fun r => !r.isOf p q e) ++ [⟨p, q, e, .lost n.key n.cls n.bitmap n.timer, dead⟩] :=
  ⟨_, rfl⟩

theorem genLoss_frame (s : State) (p q e : Nat) (n : NetInfo) :
    (genLoss s p q e n).mem = s.mem ∧ (genLoss s p q e n).threads = s.threads := by
  simp [genLoss, offGen, State.offTransit, State.updNet]

theorem not_isOf_of_mem_genLoss {s : State} {p q e : Nat} {n : NetInfo} {r : Req} (h : r ∈ (genLoss s p q e n).reqs) : ¬ r.isOf p q e = true := by
  have hr : r ∈ s.reqs.filter (fun r => !r.isOf p q e) := h
  simpa using (List.mem_filter.mp hr).2

theorem raiseLoss_gen (s : State) (p q e : Nat) (n : NetInfo) : raiseLoss s (.gen p q e) n = genLoss s p q e n := rfl

/-- A running thread outside a handler takes the trap at its access, whatever is on its way in the networks. -/
theorem raiseLoss_thread {s s' : State} {t : Thread} {n : NetInfo} (h : SameButNet s s') (ht : s.thread? t.id = some t)
    (hrun : t.run = .running) (hinh : t.inh = false) (hwait : t.wait ≠ .steal) (hsteal : ∀ x ∈ s.steals, x.thief ≠ t.id)
    (hacc : ∃ a, (pcInstr s t).bind (pcAccess t) = some a) (hlive : threadCancelled s t = false) :
    ∃ s1 ev norec, raiseLoss s' (.thread t.id) n = syncTrap s1 t 12 0 false norec t.pc ev := by
  have hpc := pcInstr_sameButNet h t
  obtain ⟨⟨va, write⟩, hva⟩ := hacc
  obtain ⟨w, rfl, -⟩ := h
  have hnone : (s.withNet w).steals.any (fun x => x.thief = t.id && x.dead.isSome && !x.acked && !x.gone) = false :=
    List.any_eq_false.mpr (fun x hx => by simp [hsteal x hx])
  have ht' : (s.withNet w).thread? t.id = some t := ht
  have hlive' : threadCancelled (s.withNet w) t = false := hlive
  simp only [raiseLoss, hnone, Bool.and_false, Bool.false_eq_true, if_false, ht', if_neg hwait, hpc, hva, threadLoss, hlive', hrun, hinh, ne_eq,
    not_true_eq_false]
  exact ⟨_, _, _, rfl⟩

/-- The state in which a notice's loss is raised. -/
theorem exec_lossNoticeReceive {s : State} {i : Nat} {n : Notice} {t : Timer} (hn : s.net.notices[i]? = some n)
    (harr : s.arrived (.notice n.no) = true) (hretain : ∀ r ∈ s.net.retain, r.key ≠ n.key) (htransit : ∀ x ∈ s.net.transit, x.1 ≠ some n.key)
    (ht : s.net.timers.find? (fun x => x.key = n.key) = some t) :
    ∃ s', SameButNet s s' ∧ exec (.lossNoticeReceive i) s = .next (raiseLoss s' t.who { key := n.key, cls := n.cls, bitmap := n.bitmap, timer := false }) := by
  have hnoretain : s.net.retain.find? (fun r => r.key = n.key && !r.retx) = none :=
    List.find?_eq_none.mpr (fun r hr => by simp [hretain r hr])
  have hnotransit : s.net.transit.find? (fun x => x.1 = some n.key) = none :=
    List.find?_eq_none.mpr (fun x hx => by simp [htransit x hx])
  refine ⟨s.withNet { s.net with notices := s.net.notices.eraseIdx i, retain := s.net.retain.filter (fun x => x.key ≠ n.key)
                                 timers := s.net.timers.filter (fun x => x.who ≠ t.who) }, ⟨_, rfl, rfl⟩, ?_⟩
  change execLossNoticeReceive i s = _
  rw [execLossNoticeReceive, hn]
  simp only [harr, Bool.not_true, Bool.false_eq_true, if_false, State.updNet, hnoretain, lossOf, hnotransit, ht]
  rfl

/-- R37, R38: a notice that has come raises NET_LOSS at the requester. -/
theorem lossNoticeReceive_raises {s : State} {i : Nat} {n : Notice} {t : Timer} (hn : s.net.notices[i]? = some n)
    (harr : s.arrived (.notice n.no) = true) (hretain : ∀ r ∈ s.net.retain, r.key ≠ n.key) (htransit : ∀ x ∈ s.net.transit, x.1 ≠ some n.key)
    (ht : s.net.timers.find? (fun x => x.key = n.key) = some t) :
    LossRaised (.lossNoticeReceive i) s t.who { key := n.key, cls := n.cls, bitmap := n.bitmap, timer := false } := by
  obtain ⟨s', hsame, hexec⟩ := exec_lossNoticeReceive hn harr hretain htransit ht
  refine ⟨fun p q e hwho => ?_, fun u hwho hu hrun hinh hwait hsteal hacc hlive => ?_⟩
  · rw [hwho, raiseLoss_gen] at hexec
    obtain ⟨w, rfl, -⟩ := hsame
    obtain ⟨hmem, hthreads⟩ := genLoss_frame (s.withNet w) p q e { key := n.key, cls := n.cls, bitmap := n.bitmap, timer := false }
    exact ⟨_, hexec, genLoss_answers (s.withNet w) p q e _, fun r hr hof => absurd hof (not_isOf_of_mem_genLoss hr), hmem, hthreads⟩
  · rw [hwho] at hexec
    obtain ⟨s1, ev, norec, he⟩ := raiseLoss_thread hsame hu hrun hinh hwait hsteal hacc hlive
    exact ⟨s1, ev, norec, hexec.trans (congrArg _ he)⟩

/-- The state in which an expired timer's loss is raised. -/
theorem exec_responseTimerExpire {s : State} {j : Nat} {t : Timer} (ht : s.net.timers[j]? = some t) (hdue : t.due ≤ s.cycle) :
    ∃ s', SameButNet s s' ∧ exec (.responseTimerExpire j) s = .next (expiryLoss s' t.who { key := t.key, cls := t.cls, bitmap := 0, timer := true }) := by
  let late := (s.net.timers.filter (fun x => x.who = t.who && x.answer)).map (fun x => x.key)
  let w := late.foldl (fun v k => { (v.finish k) with
    slots := v.slots.filter (fun d => d.key ≠ k), transit := v.transit.filter (fun x => x.1 ≠ some k) }) s.net
  have hserial : w.serial = s.net.serial :=
    List.foldlRecOn (motive := fun v : Net => v.serial = s.net.serial) late _ rfl (fun v hv k _ => hv)
  refine ⟨s.withNet { w with timers := w.timers.filter (fun x => x.who ≠ t.who) }, ⟨_, rfl, hserial⟩, ?_⟩
  change execResponseTimerExpire j s = _
  rw [execResponseTimerExpire, ht]
  exact if_neg (Nat.not_lt.mpr hdue)

/-- A request whose timer has run out may still be performed; its answer is dead. -/
theorem dead_of_mem_orphan {s : State} {p q e : Nat} {r : Req} (hr : r ∈ (orphan s (.gen p q e)).reqs) (hof : r.isOf p q e = true) :
    r.dead.isSome = true := by
  obtain ⟨x, -, rfl⟩ := List.mem_map.mp hr
  by_cases hx : (x.isOf p q e && x.dead.isNone) = true
  · rw [if_pos hx]
    rfl
  · rw [if_neg hx] at hof ⊢
    rw [hof, Bool.true_and, Option.isNone_iff_eq_none] at hx
    exact Option.isSome_iff_ne_none.mpr hx

/-- R37, R38: a response timer that runs out raises NET_LOSS at the requester. -/
theorem responseTimerExpire_raises {s : State} {j : Nat} {t : Timer} (ht : s.net.timers[j]? = some t) (hdue : t.due ≤ s.cycle) :
    LossRaised (.responseTimerExpire j) s t.who { key := t.key, cls := t.cls, bitmap := 0, timer := true } := by
  obtain ⟨s', hsame, hexec⟩ := exec_responseTimerExpire ht hdue
  refine ⟨fun p q e hwho => ?_, fun u hwho hu hrun hinh hwait hsteal hacc hlive => ?_⟩
  · rw [hwho] at hexec
    obtain ⟨w, rfl, -⟩ := hsame
    exact ⟨_, hexec, ⟨_, rfl⟩, fun r hr hof => ⟨rfl, dead_of_mem_orphan (s := s.withNet w) hr hof⟩, rfl, rfl⟩
  · rw [hwho] at hexec
    obtain ⟨s1, ev, norec, he⟩ := raiseLoss_thread hsame hu hrun hinh hwait hsteal hacc hlive
    exact ⟨s1, ev, norec, hexec.trans (congrArg _ he)⟩

/-! ### Where O41 fails -/

/-- Refutes O41: with a code of class CTRL that has no data fragment (k = 0, which no accepted write leaves, but which no premise
excludes as O40's 1 ≤ k does), the loss notice of a slot that times out cannot leave, and none is listed. Of the three claims
`fragmentArrives` and `messageDelivered` hold, and of the third its clauses at the requester (`lossNoticeReceive_raises`,
`responseTimerExpire_raises`) and, with a code that has a data fragment, the one at the slot (`decodeTimeout_notifies`). -/
theorem not_messageArrival : ¬ Obligations.MessageArrival := by
  rintro ⟨-, -, hlost⟩
  let d : DSlot := { key := { net := 0, src := 0, dst := 1, msgid := 5, io := 0 }, len := 4, k := 2, m := 1, fsz := 0, cls := 0, seq := 0
                     frags := [(2, [])], retx := false, due := 0 }
  let s : State := { State.reset with
    pkg := { Pkg.reset with sprcode := List.replicate 12 0, sprWritten := List.replicate 12 true }
    net := { Net.reset with slots := [d] } }
  obtain ⟨hslot, -, -⟩ := hlost s d 0 0 { no := 0, key := d.key, cls := 0, bitmap := 0 }
    { who := .unit, key := d.key, cls := 0, due := 0, answer := false }
  obtain ⟨w, hexec, -, -, ⟨no, b, hnotices, -⟩, -⟩ := hslot rfl (by decide) (by decide) (by decide)
  have hdropped : exec (.decodeTimeout d.key) s = .next (s.withNet (timedOut s.net d.key)) :=
    (exec_decodeTimeout rfl (by decide) (by decide) (by decide)).trans (congrArg _ (sendNotice_of_uncoded (by decide) (by decide)))
  have hw : timedOut s.net d.key = w := by
    injection hdropped.symm.trans hexec with hs
    exact congrArg State.net hs
  have hnone : (timedOut s.net d.key).notices = [] := rfl
  rw [hw, hnotices] at hnone
  simp at hnone

end Sys2Proof.Machine
end
section
/-! SUPPORT. A port whose command stands alone: what its turn reads, and that it goes on to act. -/

namespace Sys2Proof.Claims
open Sys2Proof.Machine

-- One after another: proofs elaborated at a time take a thread each, whose stacks are the most of the check's memory.
set_option Elab.async false

/-! ### A port whose command stands alone -/

section
variable {s : State} {pr : PortRef} {op : Nat} {f : CmdF} {p : Place} {q : Port} {r : Running} (h : Stands s pr op f p q r)
include h

theorem Stands.place?_id : s.place? p.id = some p := by
  have hid : p.id = pr.place := by simpa using List.find?_some h.place
  rw [hid, h.place]

theorem Stands.port?_num : p.port? q.num = some q := by
  have hnum : q.num = pr.port := by simpa using List.find?_some h.port
  rw [hnum, h.port]

theorem Stands.runs_eq : q.runs = [r] := by
  rw [Port.runs, h.alone.1, h.running]
  rfl

/-- At its turn the command acts. -/
theorem Stands.portTurn_eq (act : Place → Port → Running → State → State) : portTurn pr op f act s = .next (act p q r s) := by
  have hfind : (q.runs ++ q.logs).find? (fun r => r.cmd.op = op && r.cmd.f = f) = some r := by
    rw [h.runs_eq, h.alone.2]
    exact List.find?_cons_of_pos (by simp [h.isOp, h.fields])
  have hgo : ¬ (!placeMoves s p || q.held) = true := by simp [h.moves, h.notHeld]
  simp only [portTurn, h.place, h.port]
  rw [if_neg hgo, hfind]
  simp only [h.noElems, List.head?_nil]

/-- No rollback is due. -/
theorem Stands.rollDue_eq : rollDue s p = false := by
  have hmoves := h.moves
  simp only [placeMoves, Bool.and_eq_true, Bool.not_eq_true'] at hmoves
  obtain ⟨⟨⟨⟨-, hdue⟩, -⟩, -⟩, -⟩ := hmoves
  exact hdue

/-- The port has room for an element. -/
theorem Stands.roomy_eq : q.roomy = true := by
  simp [Port.roomy, h.runs_eq, h.noElems]

/-- What a command does after its first part of a turn, where that has changed nothing. -/
theorem Stands.goOn_eq (k : Place → Port → Running → State) : goOn s p q r k = k p q r := by
  have hfind : q.runs.find? (fun x => x.cmd = r.cmd) = some r := by
    rw [h.runs_eq]
    exact List.find?_cons_of_pos (by simp)
  have htwin : q.twin r = r := by
    rw [Port.twin, h.runs_eq]
    simp [h.notFrozen]
  simp [goOn, again, h.place?_id, h.port?_num, h.rollDue_eq, hfind, htwin, h.notFrozen]

/-- A command that waits for its first element has no token to send. -/
theorem Stands.deliver_eq (hstage : r.stage = 2) (hbytes : r.bytes = []) {total : Nat} (hmore : r.doneN < total) : deliver s p q r total = s := by
  have hcollect : Running.collect 64 r = r := by rw [Running.collect, h.noElems]
  have hnone : nextToken q r.cmd.op total r = none := by
    rw [nextToken, hstage]
    simp [hcollect, hbytes, hmore]
  rw [deliver, h.notLogged.2, hnone]
  split <;> rfl

end

end Sys2Proof.Claims
end
section
/-! SUPPORT. The commands that reach a remote device: the element each sends at its turn, and its message (O29, R361). -/

namespace Sys2Proof.Machine
open Sys2Proof.Claims

-- One after another: proofs elaborated at a time take a thread each, whose stacks are the most of the check's memory.
set_option Elab.async false

/-! ### An element's message to a remote device -/

/-- The request of an element at address `a`, `data` with it, leaves for the port group that leads to the device. -/
def SendsRemote (s : State) (p : Place) (q : Port) (r : Running) (a : Nat) (data : List Byte) (s' : State) : Prop :=
  ∃ s0 m rq, s' = sendMessage s0 m (.remote p.id q.num q.reqNo) ∧ m.dev = false ∧ m.traffic = .request ∧
    m.src = coreEp p.die (p.portCore q.num) ∧ m.dst = portGroupEp (brosumIo s r.cmd.f.dev) ∧ m.who = .gen p.id q.num q.reqNo ∧
    s0.net = s.net ∧ s0.mem = s.mem ∧ s0.reqs = s.reqs ++ [rq] ∧ rq.kind = .remote r.cmd.f.dev ∧ rq.elem = q.reqNo ∧
    m.body = natBytes 1 r.cmd.op ++ natBytes 1 r.cmd.f.flags.toNat ++ natBytes 2 p.asid ++ natBytes 8 a ++ natBytes 4 (patUnit r.pat) ++ data

theorem issueRemote_sends {s : State} {p : Place} {q : Port} {r : Running} {e : Elem} {feat : Nat} (hfree : q.canIssue = true)
    (haddr : e.addr < 2 ^ 48) (hcap : bitsOf (peerCap s r.cmd.f.dev) feat 1 = 1) :
    SendsRemote s p q r e.addr e.data (issueRemote s p q r e feat) := by
  have hissue : ¬ (!q.canIssue) = true := by simp [hfree]
  simp only [issueRemote]
  rw [if_neg hissue, if_neg (Nat.not_le.mpr haddr), if_neg (by rw [hcap]; exact Nat.one_ne_zero)]
  exact ⟨_, _, _, rfl, rfl, rfl, rfl, rfl, rfl, rfl, rfl, rfl, rfl, rfl, rfl⟩

/-- The element a command without elements sends next. -/
def newElem (r : Running) (a : Nat) (data : List Byte) : Elem :=
  { n := r.next, addr := a, data := data, refusals := 0, hold := none, st := .queued }

theorem nextElem_of_noElems {r : Running} {total : Nat} {addr : Nat → Nat} (h : r.elems = []) (hmore : r.next < total) :
    r.nextElem total addr = some (newElem r (addr r.next) []) := by
  rw [Running.nextElem, h]
  exact if_pos hmore

theorem cmdCount_of_remote {op : Nat} {f : CmdF} (h : op = 0x0D ∨ op = 0x0E ∨ op = 0x0F) : cmdCount op f = f.count.toNat % 4096 :=
  if_pos h

/-! ### XGET -/

theorem exec_cmdXget {s : State} {pr : PortRef} {f : CmdF} {p : Place} {q : Port} {r : Running} (h : Stands s pr 0x0E f p q r)
    (hstage : r.stage = 2) (hbytes : r.bytes = []) (hmore : r.doneN < f.count.toNat % 4096) (hnext : r.next < f.count.toNat % 4096) :
    exec (.cmdXget pr f) s = .next (issueRemote s p q r (newElem r (patAddr r.pat f.base.toNat r.next) []) 0) := by
  obtain rfl := h.fields
  have htotal : cmdCount 0x0E r.cmd.f = r.cmd.f.count.toNat % 4096 := cmdCount_of_remote (.inr (.inl rfl))
  have hroom : ¬ (replaying s p || !q.roomy) = true := by simp [h.notLogged.2, h.roomy_eq]
  change execCmdXget pr r.cmd.f s = _
  rw [execCmdXget, h.portTurn_eq]
  simp only [htotal, h.deliver_eq hstage hbytes hmore, h.goOn_eq, if_neg hroom, nextElem_of_noElems h.noElems hnext]

/-! ### XPUT and CREDUCE -/

theorem patUnit_pos (p : Pat) : 1 ≤ patUnit p := by
  unfold patUnit
  split <;> decide

/-- The element formed of the bytes taken, of a command that is not SCATTER. -/
def formed (r : Running) : Elem := newElem r (patAddr r.pat r.cmd.f.base.toNat r.next) (r.bytes.take (patUnit r.pat))

/-- The command once it has formed its next element. -/
def afterForm (r : Running) : Running :=
  { r with next := r.next + 1, bytes := r.bytes.drop (patUnit r.pat), elems := [formed r] }

theorem form_eq {r : Running} {total : Nat} (hop : r.cmd.op ≠ 0x04) (helems : r.elems = []) (hmore : r.next < total)
    (hbytes : patUnit r.pat ≤ r.bytes.length) (hwithin : r.within r.next = patUnit r.pat) :
    r.form total none = some (afterForm r) := by
  have hgo : (r.next < total && r.bytes.length ≥ patUnit r.pat) = true := by simp [hmore, hbytes]
  have hne : patUnit r.pat ≠ 0 := Nat.ne_of_gt (patUnit_pos _)
  simp only [Running.form]
  rw [if_pos hgo, if_neg hop, hwithin, if_neg hne, helems]
  rfl

/-! ### A port whose command has changed -/

/-- The place of a port whose ports have changed. -/
def withPort (p : Place) (k : Nat) (g : Port → Port) : Place := { p with ports := updBy (fun y => y.num = k) g p.ports }

theorem place?_updPort {s : State} {p : Place} (h : s.place? p.id = some p) (k : Nat) (g : Port → Port) :
    (s.updPort p.id k g).place? p.id = some (withPort p k g) :=
  find?_updBy_hit (p := fun x : Place => x.id = p.id) (f := fun x => withPort x k g) (fun _ hx => hx) h

theorem port?_withPort {p : Place} {q : Port} {k : Nat} {g : Port → Port} (hg : ∀ y, (g y).num = y.num) (h : p.port? k = some q) :
    (withPort p k g).port? k = some (g q) :=
  find?_updBy_hit (fun y hy => by simpa [hg y] using hy) h

/-- A change of members that a search does not look at leaves the member found, changed. -/
theorem find?_updBy_blind {α : Type} {b p : α → Bool} {g : α → α} (h : ∀ x, p (g x) = p x) (l : List α) :
    (updBy b g l).find? p = (l.find? p).map (fun x => if b x then g x else x) := by
  have hp : (p ∘ fun x => if b x then g x else x) = p := by
    funext x
    simp only [Function.comp_apply]
    split
    · exact h x
    · rfl
  rw [updBy, List.find?_map, hp]

/-- A port's change is none of its region's rollback. -/
theorem rollDue_updPort (s : State) (p : Place) (i k : Nat) (g g' : Port → Port) :
    rollDue (s.updPort i k g) (withPort p k g') = rollDue s p := by
  have hrb : (regionOf (s.updPort i k g) (withPort p k g')).rb = (regionOf s p).rb := by
    cases hi : p.inst with
    | none => simp [regionOf, withPort, hi]
    | some j =>
      have hfind := find?_updBy_blind (b := fun x : Place => x.id = i) (g := fun x => withPort x k g)
        (p := fun x => x.asid = p.asid && x.lslot = p.lslot && x.inst.isNone) (fun _ => rfl) s.places
      simp only [regionOf, withPort, hi, State.updPort, State.updPlace] at hfind ⊢
      rw [hfind]
      cases s.places.find? (fun x => x.asid = p.asid && x.lslot = p.lslot && x.inst.isNone) with
      | none => rfl
      | some x =>
        simp only [Option.map_some, Option.getD_some]
        split <;> rfl
  rw [rollDue, rollDue, hrb]

/-! ### A turn of XPUT or CREDUCE -/

/-- What forming the next element of `r` changes of a command. -/
def formInto (r x : Running) : Running :=
  { x with elems := (afterForm r).elems, bytes := (afterForm r).bytes, next := (afterForm r).next, idx := (afterForm r).idx,
           doneN := (afterForm r).doneN }

theorem formInto_self (r : Running) : formInto r r = afterForm r := rfl

/-- The port of `r` once that has formed its next element. -/
def formedPort (r : Running) (y : Port) : Port := y.updRun r.cmd (formInto r)

section
variable {s : State} {pr : PortRef} {op : Nat} {f : CmdF} {p : Place} {q : Port} {r : Running} (h : Stands s pr op f p q r)
include h

theorem formedPort_runs : (formedPort r q).runs = [afterForm r] := by
  simp [formedPort, Port.updRun, Port.runs, h.running, h.alone.1, updBy, formInto_self]

theorem formedPort_canIssue : (formedPort r q).canIssue = true := by
  simp [Port.canIssue, Port.outstanding, Port.retries, formedPort_runs h, afterForm, formed, newElem]

/-- The port, read again after its command has formed an element, and no rollback is due. -/
theorem again_formed (k : Place → Port → State) :
    again (s.updRun p.id q.num r.cmd (formInto r)) p q k = k (withPort p q.num (formedPort r)) (formedPort r q) := by
  have hplace : (s.updRun p.id q.num r.cmd (formInto r)).place? p.id = some (withPort p q.num (formedPort r)) :=
    place?_updPort h.place?_id q.num (formedPort r)
  have hport : (withPort p q.num (formedPort r)).port? q.num = some (formedPort r q) := port?_withPort (fun _ => rfl) h.port?_num
  have hdue : rollDue (s.updRun p.id q.num r.cmd (formInto r)) (withPort p q.num (formedPort r)) = false :=
    (rollDue_updPort s p p.id q.num (formedPort r) (formedPort r)).trans h.rollDue_eq
  simp [again, hplace, hport, hdue]

/-- A command that takes a segment forms its next element of the bytes it has, and sends it on. -/
theorem takerTurn_eq (hop : op ≠ 0x04) {total : Nat} (hmore : r.next < total) (hbytes : patUnit r.pat ≤ r.bytes.length)
    (hwithin : r.within r.next = patUnit r.pat) (issue : State → Place → Port → Running → Elem → State) :
    takerTurn total false true issue p q r s =
      issue (s.updRun p.id q.num r.cmd (formInto r)) (withPort p q.num (formedPort r)) (formedPort r q) (afterForm r) (formed r) := by
  have hform := form_eq (by rw [h.isOp]; exact hop) h.noElems hmore hbytes hwithin
  have hfind : (formedPort r q).runs.find? (fun x => x.cmd = r.cmd) = some (afterForm r) := by
    rw [formedPort_runs h]
    exact List.find?_cons_of_pos (by simp [afterForm])
  have hfrozen : (afterForm r).frozen = none := h.notFrozen
  have hqueued : (afterForm r).elems.find? (fun e => e.st = .queued && e.hold.isNone) = some (formed r) := rfl
  have hagain := again_formed h
  unfold formInto at hagain ⊢
  simp [takerTurn, h.notFrozen, h.noRb, hform, h.roomy_eq, hagain, hfind, hfrozen, hqueued]

/-- The turn of a command that writes or combines at a remote device. -/
theorem portTurn_sendsRemote (hop : op = 0x0D ∨ op = 0x0F) {feat : Nat} (haddr : patAddr r.pat f.base.toNat r.next < 2 ^ 48)
    (hmore : r.next < f.count.toNat % 4096) (hbytes : patUnit r.pat ≤ r.bytes.length) (hwithin : r.within r.next = patUnit r.pat)
    (hcap : bitsOf (peerCap s f.dev) feat 1 = 1) :
    ∃ s', portTurn pr op f (fun p q r s => takerTurn (cmdCount op r.cmd.f) false true
        (fun s p q r e => issueRemote s p q r e feat) p q r s) s = .next s' ∧
      SendsRemote s p q r (patAddr r.pat f.base.toNat r.next) (r.bytes.take (patUnit r.pat)) s' := by
  obtain rfl := h.fields
  have hcount : cmdCount op r.cmd.f = r.cmd.f.count.toNat % 4096 := cmdCount_of_remote (hop.imp_right .inr)
  have hne : op ≠ 0x04 := by rcases hop with rfl | rfl <;> decide
  refine ⟨_, by rw [h.portTurn_eq, hcount, takerTurn_eq h hne hmore hbytes hwithin], ?_⟩
  exact issueRemote_sends (e := formed r) (formedPort_canIssue h) haddr hcap

end

/-! ### The obligation -/

/-- Settles O29: XGET sends its next element's request as it stands; XPUT and CREDUCE form the element of the bytes they have
taken, and send it on in the same turn, their port read again. -/
theorem remoteCommands : Obligations.RemoteCommands := by
  unfold Obligations.RemoteCommands
  intro s pr f p q r u at_ n sends haddr hnext
  have sent {i : Instr} {op : Nat} {data : List Byte} {s' : State} (h : Stands s pr op f p q r) (hexec : exec i s = .next s')
      (hs : SendsRemote s p q r at_ data s') : sends i op data := by
    obtain ⟨s0, m, rq, rfl, hm⟩ := hs
    rw [h.fields, h.isOp] at hm
    exact ⟨s0, m, rq, hexec, hm⟩
  refine ⟨fun h hstage hbytes hmore hcap => ?_, fun h hbytes hwithin hcap => ?_, fun h hbytes hwithin hcap => ?_⟩
  · rw [← h.fields] at hcap
    exact sent h (exec_cmdXget h hstage hbytes hmore hnext) (issueRemote_sends h.free.1 haddr hcap)
  · obtain ⟨s', hexec, hs⟩ := portTurn_sendsRemote h (.inl rfl) haddr hnext hbytes hwithin hcap
    exact sent h hexec hs
  · obtain ⟨s', hexec, hs⟩ := portTurn_sendsRemote h (.inr rfl) haddr hnext hbytes hwithin hcap
    exact sent h hexec hs

end Sys2Proof.Machine
end
section
/-! SUPPORT. A field of a package register replaced: bit by bit, and what each field of the register then holds. -/

namespace Sys2Proof.Machine

/-- A number with a field in the middle, the field replaced by `v`. -/
theorem replace_middle {n lo len high low old : Nat} (h : n = 2 ^ lo * (2 ^ len * high + old) + low) (v : Nat) :
    n - old * 2 ^ lo + v * 2 ^ lo = 2 ^ lo * (2 ^ len * high + v) + low := by
  rw [h, Nat.mul_add, Nat.mul_add, Nat.mul_comm old, Nat.mul_comm v]
  omega

/-- The field's bits are the new value's, every other bit stands. -/
theorem getLsbD_putField {lo len : Nat} (h : lo + len ≤ 64) (w : Word) (v i : Nat) :
    (putField w lo len v).getLsbD i = if lo ≤ i ∧ i < lo + len then v.testBit (i - lo) else w.getLsbD i := by
  rcases Nat.lt_or_ge i 64 with hi | hi
  case inr => rw [BitVec.getLsbD_of_ge _ _ hi, BitVec.getLsbD_of_ge _ _ hi, if_neg (by omega)]
  let low := w.toNat % 2 ^ lo
  let high := w.toNat / 2 ^ lo / 2 ^ len
  have hlow : low < 2 ^ lo := Nat.mod_lt _ (Nat.two_pow_pos lo)
  have hfield (x : Nat) : x % 2 ^ len < 2 ^ len := Nat.mod_lt _ (Nat.two_pow_pos len)
  have hw : w.toNat = 2 ^ lo * (2 ^ len * high + bitsOf w.toNat lo len) + low := by
    rw [bitsOf, Nat.div_add_mod, Nat.div_add_mod]
  have hbit : w.getLsbD i = (2 ^ lo * (2 ^ len * high + bitsOf w.toNat lo len) + low).testBit i := by rw [← hw]; rfl
  rw [putField, BitVec.getLsbD_ofNat, replace_middle hw, hbit, bitsOf, decide_eq_true hi, Bool.true_and]
  simp only [Nat.testBit_two_pow_mul_add _ hlow, Nat.testBit_two_pow_mul_add _ (hfield _), Nat.testBit_mod_two_pow]
  by_cases hbelow : i < lo
  · simp [hbelow, Nat.not_le.mpr hbelow]
  by_cases hin : i - lo < len
  · simp [hbelow, hin, show lo ≤ i ∧ i < lo + len by omega]
  · simp [hbelow, hin, show ¬ i < lo + len by omega]

theorem extractLsb'_putField_same {lo len : Nat} (h : lo + len ≤ 64) (w : Word) (v : Nat) :
    (putField w lo len v).extractLsb' lo len = BitVec.ofNat len v := by
  refine BitVec.eq_of_getLsbD_eq fun i hi => ?_
  rw [BitVec.getLsbD_extractLsb', getLsbD_putField h, if_pos ⟨Nat.le_add_right .., by omega⟩, Nat.add_sub_cancel_left, BitVec.getLsbD_ofNat]

theorem extractLsb'_putField_other {lo len lo' len' : Nat} (h : lo + len ≤ 64) (hout : lo' + len' ≤ lo ∨ lo + len ≤ lo') (w : Word)
    (v : Nat) : (putField w lo len v).extractLsb' lo' len' = w.extractLsb' lo' len' := by
  ext i hi
  rw [BitVec.getElem_extractLsb', BitVec.getElem_extractLsb', getLsbD_putField h, if_neg (by omega)]

theorem putField_bit_zero {k : Nat} (h : k < 64) (w : Word) : putField w k 1 0 = w &&& ~~~BitVec.twoPow 64 k := by
  refine BitVec.eq_of_getLsbD_eq fun i hi => ?_
  rw [getLsbD_putField h, BitVec.getLsbD_and, BitVec.getLsbD_not, BitVec.getLsbD_twoPow]
  split
  next hin =>
    obtain rfl : i = k := by omega
    simp [h]
  next hout => simp [hi, show k ≠ i by omega]

theorem putField_bit_one {k : Nat} (h : k < 64) (w : Word) : putField w k 1 1 = w ||| BitVec.twoPow 64 k := by
  refine BitVec.eq_of_getLsbD_eq fun i hi => ?_
  rw [getLsbD_putField h, BitVec.getLsbD_or, BitVec.getLsbD_twoPow]
  split
  next hin =>
    obtain rfl : i = k := by omega
    simp [h]
  next hout => simp [show k ≠ i by omega]

end Sys2Proof.Machine
end

section
/-! SUPPORT. Network boot (O38): what each step of the boot ROM leaves in BOOTSTAT and of its timer, and the image checks. -/

namespace Sys2Proof.Machine
open Sys2Proof.Claims

-- One after another: proofs elaborated at a time take a thread each, whose stacks are the most of the check's memory.
set_option Elab.async false

/-! ### Where the ROM stands (R49, R53) -/

theorem inRom_of_romAt {s : State} {g : BitVec 4} (h : RomAt s g) : inRom s = true := by
  obtain ⟨-, t, ht, hrun⟩ := h
  rw [inRom, ht]
  exact decide_eq_true hrun

theorem bootStage_of_romAt {s : State} {g : BitVec 4} (h : RomAt s g) : bootStage s = g.toNat := by
  rw [bootStage, ← toNat_extractLsb'_eq_bitsOf, h.1]

theorem ofNat_toNat_extractLsb' {n : Nat} (w : BitVec n) (lo len : Nat) : BitVec.ofNat len (w.extractLsb' lo len).toNat = w.extractLsb' lo len := by
  rw [BitVec.ofNat_toNat, BitVec.setWidth_eq]

/-- BOOTSTAT's own fields are what it holds. -/
theorem bootWord_self (w : Word) : BootWord w (w.extractLsb' 28 4).toNat (w.extractLsb' 24 4).toNat (w.extractLsb' 16 8).toNat
    (w.extractLsb' 15 1).toNat (w.extractLsb' 14 1).toNat := by
  simp only [BootWord, ofNat_toNat_extractLsb', and_self]

/-! ### The steps of the ROM (R49) -/

/-- R49's delays, 1, 2, 4 and 8 seconds on each port, then 60. -/
theorem retryDelay_succ (n : Nat) :
    retryDelay (n + 1) = if n ≥ 7 then 60 else ([1, 2, 4, 8, 1, 2, 4, 8] : List Nat).getD n 60 := by
  by_cases h : n ≥ 7
  · rw [retryDelay, if_pos h, if_pos (by omega)]
  · rw [if_neg h]
    have hn : n < 7 := by omega
    clear h
    revert n
    decide

theorem bootFails_of_exec {i : Instr} {s : State} {cause : Nat} (h : exec i s = .next (bootFail s cause)) : BootFails i s cause := by
  refine ⟨_, h, _, _, bootWord_self _, ?_, rfl, ?_, rfl⟩
  · simp only [BootWord, extractLsb'_putField_same, extractLsb'_putField_other, toNat_extractLsb'_eq_bitsOf _ 16 8,
      ofNat_toNat_extractLsb', Nat.reduceAdd, Nat.reduceLeDiff, or_true, true_or, and_self]
  · change s.cycle + retryDelay (s.pkg.boot.fails + 1) * cyclesPerSecond = _
    rw [retryDelay_succ, Nat.mul_comm, cyclesPerSecond]

theorem exec_ethernetLinkUp_of_rom {s : State} (h : RomAt s 0) :
    exec (.ethernetLinkUp (s.pkg.bootstat.extractLsb' 15 1).toNat) s = .next (setStage
      (s.updPkg (fun p => { p with ethUp := p.ethUp.set (s.pkg.bootstat.extractLsb' 15 1).toNat true })) 1 (8 * cyclesPerSecond)) :=
  congrArg _ (if_pos ⟨inRom_of_romAt h, bootStage_of_romAt h, (toNat_extractLsb'_eq_bitsOf _ _ _).symm⟩)

theorem exec_bootLinkTimeout_of_due {s : State} (h : RomAt s 0) (hdue : s.pkg.boot.due ≤ s.cycle) :
    exec .bootLinkTimeout s = .next (bootFail s 1) := congrArg _ (if_pos ⟨inRom_of_romAt h, bootStage_of_romAt h, hdue⟩)

theorem exec_bootDhcpOffer_of_rom {s : State} (h : RomAt s 1) (http : Bool) :
    exec (.bootDhcpOffer http) s =
      .next ((setStage s 3 0).updPkg (fun p => { p with bootstat := putField p.bootstat 14 1 (bit1 http) })) :=
  congrArg _ (if_pos ⟨inRom_of_romAt h, bootStage_of_romAt h⟩)

theorem exec_bootDhcpTimeout_of_due {s : State} (h : RomAt s 1) (hdue : s.pkg.boot.due ≤ s.cycle) :
    exec .bootDhcpTimeout s = .next (bootFail s 2) := congrArg _ (if_pos ⟨inRom_of_romAt h, bootStage_of_romAt h, hdue⟩)

theorem exec_bootRetryTimer_of_due {s : State} (h : RomAt s 15) (hdue : s.pkg.boot.due ≤ s.cycle) :
    exec .bootRetryTimer s = .next ((setStage s 0 (5 * cyclesPerSecond)).updPkg (fun p => { p with
      bootstat := putField p.bootstat 15 1 (retryPort p.boot.fails) })) :=
  congrArg _ (if_pos ⟨inRom_of_romAt h, bootStage_of_romAt h, hdue⟩)

/-- A transfer error, or a file longer than 48 MiB plus 256 bytes. -/
theorem exec_bootImageFetched_of_bad {s : State} (h : RomAt s 3) {ok : Bool} {img : List Byte}
    (hbad : ok = false ∨ 48 * 2 ^ 20 + 256 < img.length) : exec (.bootImageFetched ok img) s = .next (bootFail s 3) := by
  refine (congrArg _ (if_pos ⟨inRom_of_romAt h, bootStage_of_romAt h⟩)).trans (congrArg _ (if_pos ?_))
  rcases hbad with rfl | hlong
  · rfl
  · rw [decide_eq_true hlong, Bool.or_true]

/-- A file that has come, of a length that R49 allows: R51's checks decide. -/
theorem exec_bootImageFetched_of_whole {s : State} (h : RomAt s 3) {img : List Byte} (hlen : img.length ≤ 48 * 2 ^ 20 + 256) :
    exec (.bootImageFetched true img) s = .next (if imageCause s.pkg.ident img = 0 then imageStart s img
      else bootFail s (imageCause s.pkg.ident img)) := by
  refine (congrArg _ (if_pos ⟨inRom_of_romAt h, bootStage_of_romAt h⟩)).trans (congrArg _ (if_neg ?_))
  rw [Bool.not_true, Bool.false_or, decide_eq_true_iff]
  exact Nat.not_lt.mpr hlen

theorem bit1_eq_toNat (b : Bool) : bit1 b = b.toNat := by cases b <;> rfl

/-- The waits of R49 in cycles. -/
theorem eight_seconds : 8 * cyclesPerSecond = 14000000000 := rfl
theorem five_seconds : 5 * cyclesPerSecond = 8750000000 := rfl

/-- Two changes of the package registers one after the other are one. -/
theorem updPkg_updPkg (s : State) (f g : Pkg → Pkg) : (s.updPkg f).updPkg g = s.updPkg (fun p => g (f p)) := rfl

/-- A stage is entered by a change of the package registers alone. -/
theorem setStage_eq_updPkg (s : State) (n due : Nat) : setStage s n due =
    s.updPkg (fun p => { p with bootstat := putField p.bootstat 28 4 n, boot := { p.boot with due := s.cycle + due } }) := rfl

theorem pkgStep_ethernetLinkUp_of_rom {s : State} (h : RomAt s 0) :
    PkgStep (.ethernetLinkUp (s.pkg.bootstat.extractLsb' 15 1).toNat) s (fun q =>
      BootWord q.bootstat 1 (s.pkg.bootstat.extractLsb' 24 4).toNat (s.pkg.bootstat.extractLsb' 16 8).toNat
        (s.pkg.bootstat.extractLsb' 15 1).toNat (s.pkg.bootstat.extractLsb' 14 1).toNat ∧ q.boot.due = s.cycle + 14000000000) := by
  refine pkgStep_of_exec (by rw [exec_ethernetLinkUp_of_rom h, setStage_eq_updPkg, updPkg_updPkg]) ⟨?_, ?_⟩
  · simp only [BootWord, extractLsb'_putField_same, extractLsb'_putField_other, ofNat_toNat_extractLsb',
      Nat.reduceAdd, Nat.reduceLeDiff, true_or, and_self]
  · simp only [State.updPkg_cycle, eight_seconds]

theorem pkgStep_bootDhcpOffer_of_rom {s : State} (h : RomAt s 1) (http : Bool) :
    PkgStep (.bootDhcpOffer http) s (fun q =>
      BootWord q.bootstat 3 (s.pkg.bootstat.extractLsb' 24 4).toNat (s.pkg.bootstat.extractLsb' 16 8).toNat
        (s.pkg.bootstat.extractLsb' 15 1).toNat http.toNat) := by
  refine pkgStep_of_exec (by rw [exec_bootDhcpOffer_of_rom h http, setStage_eq_updPkg, updPkg_updPkg]) ?_
  simp only [BootWord, extractLsb'_putField_same, extractLsb'_putField_other, ofNat_toNat_extractLsb',
    bit1_eq_toNat, Nat.reduceAdd, Nat.reduceLeDiff, or_true, true_or, and_self]

theorem pkgStep_bootRetryTimer_of_due {s : State} (h : RomAt s 15) (hdue : s.pkg.boot.due ≤ s.cycle) :
    PkgStep .bootRetryTimer s (fun q =>
      BootWord q.bootstat 0 (s.pkg.bootstat.extractLsb' 24 4).toNat (s.pkg.bootstat.extractLsb' 16 8).toNat
        (retryPort s.pkg.boot.fails) (s.pkg.bootstat.extractLsb' 14 1).toNat ∧ q.boot.due = s.cycle + 8750000000) := by
  refine pkgStep_of_exec (by rw [exec_bootRetryTimer_of_due h hdue, setStage_eq_updPkg, updPkg_updPkg]) ⟨?_, ?_⟩
  · simp only [BootWord, extractLsb'_putField_same, extractLsb'_putField_other,
      ofNat_toNat_extractLsb', Nat.reduceAdd, Nat.reduceLeDiff, or_true, true_or, and_self]
  · simp only [five_seconds]

theorem networkBootSteps : NetworkBootSteps := by
  intro s http img
  exact ⟨pkgStep_ethernetLinkUp_of_rom, fun h hdue => bootFails_of_exec (exec_bootLinkTimeout_of_due h hdue),
    fun h => pkgStep_bootDhcpOffer_of_rom h http, fun h hdue => bootFails_of_exec (exec_bootDhcpTimeout_of_due h hdue),
    fun h => bootFails_of_exec (exec_bootImageFetched_of_bad h (.inl rfl)),
    fun h hlong => bootFails_of_exec (exec_bootImageFetched_of_bad h (.inr hlong)), pkgStep_bootRetryTimer_of_due⟩

/-! ### The checks of R51 -/

theorem bytesNat_eq_zero_iff : ∀ (l : List Byte), bytesNat l = 0 ↔ ∀ b ∈ l, b = 0
  | [] => by simp [bytesNat]
  | b :: l => by
    rw [bytesNat, Nat.add_eq_zero_iff, Nat.mul_eq_zero, or_iff_right (by decide), bytesNat_eq_zero_iff l, List.forall_mem_cons,
      ← BitVec.toNat_inj]
    rfl

/-- The one bits of a number, counted by position. -/
theorem onesIn_eq_countP : ∀ (k n : Nat), onesIn k n = (List.range k).countP (fun i => n.testBit i)
  | 0, _ => rfl
  | k + 1, n => by
    have hhead : n % 2 = if n.testBit 0 = true then 1 else 0 := by
      simp only [Nat.testBit_zero, decide_eq_true_iff]
      split <;> omega
    have htail : (fun i => n.testBit i) ∘ Nat.succ = fun i => (n / 2).testBit i := funext fun i => Nat.testBit_succ n i
    rw [onesIn, onesIn_eq_countP k, List.range_succ_eq_map, List.countP_cons, List.countP_map, htail, hhead, Nat.add_comm]

/-- A field of the header as a number (R50). -/
def imageNum (img : List Byte) (o n : Nat) : Nat := bytesNat ((img.drop o).take n)

/-- The bytes whose digest is signed: the first 128 of the header, and the body (R50). -/
def imageDigest (img : List Byte) : BitVec 256 := sha256 (img.take 128 ++ (img.drop 256).take (imageNum img 32 4))

/-- R51's first check, in the words of the statement. -/
def HeaderInOrder (img : List Byte) : Prop :=
  let num := imageNum img
  let zero (o n : Nat) : Prop := ∀ b ∈ (img.drop o).take n, b = 0
  num 0 4 = 0x4B4E4431 ∧ num 4 2 = 1 ∧ num 6 2 ≤ 3 ∧ zero 12 4 ∧ zero 36 28 ∧ zero 192 64 ∧ num 16 8 % 4096 = 0 ∧ num 32 4 % 64 = 0 ∧
  64 ≤ num 32 4 ∧ num 32 4 ≤ 48 * 2 ^ 20 ∧ num 16 8 + num 32 4 ≤ 2 ^ 26 ∧ num 24 8 % 4 = 0 ∧ num 24 8 < num 32 4

/-- R51's second check. -/
def KeyTrusted (d : Ident) (img : List Byte) : Prop :=
  sha256 ((img.drop 64).take 64) = d.roothash.getD (imageNum img 6 2) 0 ∧ d.revoke.getLsbD (imageNum img 6 2) = false

/-- R51's third check. -/
def SignatureGood (img : List Byte) : Prop := ecdsaVerify ((img.drop 64).take 64) (imageDigest img) ((img.drop 128).take 64) = true

/-- R51's fourth check. -/
def VersionRecent (d : Ident) (img : List Byte) : Prop :=
  ((List.range 64).filter (fun k => d.svnfuse.getLsbD k)).length ≤ imageNum img 8 4

theorem imgHdr_ok_iff {img : List Byte} (hlen : img.length = 256 + imageNum img 32 4) :
    (imgHdr img).ok img.length = true ↔ HeaderInOrder img := by
  have hwhole : 256 + (imgHdr img).len ≤ img.length := hlen.ge
  simp only [ImgHdr.ok, hwhole, Bool.and_eq_true, decide_eq_true_iff, and_true, Bool.not_eq_true']
  simp only [imgHdr, Bool.or_eq_false_iff, decide_eq_false_iff_not, not_not, bytesNat_eq_zero_iff, HeaderInOrder, imageNum, and_assoc,
    ne_eq]

theorem svn_lt_onesIn_iff (d : Ident) (img : List Byte) : (imgHdr img).svn < onesIn 64 d.svnfuse.toNat ↔ ¬ VersionRecent d img := by
  rw [onesIn_eq_countP, List.countP_eq_length_filter, VersionRecent, Nat.not_le]
  rfl

open Classical in
/-- R51: the first failing check gives the cause. -/
theorem imageCause_eq (d : Ident) {img : List Byte} (hlen : img.length = 256 + imageNum img 32 4) :
    imageCause d img = if HeaderInOrder img then if KeyTrusted d img then if SignatureGood img then if VersionRecent d img then 0
      else 7 else 6 else 5 else 4 := by
  have htrust : (sha256 (imgHdr img).key ≠ d.roothash.getD (imgHdr img).keyidx 0 ∨ bitsOf d.revoke.toNat (imgHdr img).keyidx 1 = 1) ↔
      ¬ KeyTrusted d img := by
    rw [KeyTrusted, not_and_or, bitsOf_one_eq_one_iff, Bool.not_eq_false]
    rfl
  have hsig : ecdsaVerify (imgHdr img).key (sha256 (img.take 128 ++ (img.drop 256).take (imgHdr img).len)) (imgHdr img).sig = true ↔
      SignatureGood img := Iff.rfl
  simp only [imageCause, Bool.not_eq_true', ← Bool.not_eq_true, imgHdr_ok_iff hlen, htrust, hsig, svn_lt_onesIn_iff, ite_not]

/-- An image that runs: its body in boot SRAM, its digest and version kept, BOOTSTAT's stage 5. -/
theorem imageStart_package (s : State) (img : List Byte) :
    (imageStart s img).sram = memWrite s.sram (imageNum img 16 8) ((img.drop 256).take (imageNum img 32 4)) ∧
    (imageStart s img).pkg.fwDigest = imageDigest img ∧ (imageStart s img).pkg.fwSvn = BitVec.ofNat 32 (imageNum img 8 4) ∧
    (imageStart s img).pkg.bootstat.extractLsb' 28 4 = 5 := by
  simp only [imageStart, State.updThread_sram, State.updThread_pkg, State.updPkg_sram, State.updPkg_pkg, imgHdr, imageNum, imageDigest,
    extractLsb'_putField_same, Nat.reduceAdd, Nat.reduceLeDiff, true_and]
  rfl

theorem thread?_congr {s s' : State} (h : s'.threads = s.threads) (id : ThreadId) : s'.thread? id = s.thread? id := by
  rw [State.thread?, State.thread?, h]

/-- A thread that has been updated is found as it then is. -/
theorem thread?_updThread {s : State} {id : ThreadId} {t : Thread} {f : Thread → Thread} (hf : ∀ u, (f u).id = u.id)
    (h : s.thread? id = some t) : (s.updThread id f).thread? id = some (f t) :=
  find?_updBy_hit (fun u hu => by rw [hf]; exact hu) h

/-- System core 0 starts at LOADADDR + ENTRY in monitor mode (R49). -/
theorem imageStart_thread {s : State} {t : Thread} (h : s.thread? (.sys 0) = some t) (img : List Byte) :
    (imageStart s img).thread? (.sys 0) = some { t with
      run := .running, mode := .monitor, pc := BitVec.ofNat 64 (imageNum img 16 8 + imageNum img 24 8) } := by
  rw [imageStart]
  exact thread?_updThread (fun _ => rfl) ((thread?_congr (State.updPkg_threads ..) _).trans h)

theorem imageChecks : ImageChecks := by
  intro s img h num load entry len zero body key slot id header trusted digest signed recent hlen hmax
  have hcause := imageCause_eq s.pkg.ident hlen
  have hexec := exec_bootImageFetched_of_whole h hmax
  have fails {cause : Nat} (hc : imageCause s.pkg.ident img = cause) (hne : cause ≠ 0) : BootFails (.bootImageFetched true img) s cause :=
    bootFails_of_exec (by rw [hexec, hc, if_neg hne])
  refine ⟨fun h1 => ?header, fun h1 h2 => ?trusted, fun h1 h2 h3 => ?signed, fun h1 h2 h3 h4 => ?recent, fun h1 h2 h3 h4 => ?starts⟩
  case header => exact fails (hcause.trans (if_neg h1)) (by decide)
  case trusted => exact fails (hcause.trans ((if_pos h1).trans (if_neg h2))) (by decide)
  case signed => exact fails (hcause.trans ((if_pos h1).trans ((if_pos h2).trans (if_neg h3)))) (by decide)
  case recent => exact fails (hcause.trans ((if_pos h1).trans ((if_pos h2).trans ((if_pos h3).trans (if_neg h4))))) (by decide)
  case starts =>
    obtain ⟨-, t, ht, -⟩ := h
    obtain ⟨hsram, hdigest, hsvn, hstage⟩ := imageStart_package s img
    have hzero : imageCause s.pkg.ident img = 0 :=
      hcause.trans ((if_pos h1).trans ((if_pos h2).trans ((if_pos h3).trans (if_pos h4))))
    exact ⟨_, _, by rw [hexec, if_pos hzero], hsram, hdigest, hsvn, hstage, imageStart_thread ht img, rfl, rfl, rfl⟩

/-- Settles O38: each step of the ROM changes its fields of BOOTSTAT and the timer alone, and the cause of an image that is refused is
that of the first check it fails. -/
theorem networkBoot : Obligations.NetworkBoot := ⟨networkBootSteps, imageChecks⟩

end Sys2Proof.Machine
end

section
/-! SUPPORT. Fuses and attestation (O39): what a blow, a write of ATTREQ and the end of a report leave. -/

namespace Sys2Proof.Machine
open Sys2Proof.Claims

-- One after another: proofs elaborated at a time take a thread each, whose stacks are the most of the check's memory.
set_option Elab.async false

/-! ### Fuses (R52) -/

/-- A fuse is blown: its bit is set, every other stands. -/
theorem getLsbD_or_shiftLeft_one (w : Word) (bit : BitVec 6) (k : Nat) :
    (w ||| (1#64 <<< bit.toNat)).getLsbD k = (w.getLsbD k || decide (k = bit.toNat)) := by
  have hbit := bit.isLt
  rw [BitVec.getLsbD_or, ← BitVec.twoPow_eq, BitVec.getLsbD_twoPow, decide_eq_true hbit, Bool.true_and]
  simp only [eq_comm]

theorem pkgStep_otpSvnBlow (s : State) (bit : BitVec 6) :
    PkgStep (.otpSvnBlow bit) s (fun q => (q.ident.svnfuse.getLsbD bit.toNat = true ∧
      ∀ k, k ≠ bit.toNat → q.ident.svnfuse.getLsbD k = s.pkg.ident.svnfuse.getLsbD k) ∧
      q = { s.pkg with ident := { s.pkg.ident with svnfuse := q.ident.svnfuse } }) := by
  refine pkgStep_of_exec rfl ⟨⟨?_, fun k hk => ?_⟩, rfl⟩
  · exact (getLsbD_or_shiftLeft_one ..).trans (by rw [decide_eq_true rfl, Bool.or_true])
  · exact (getLsbD_or_shiftLeft_one ..).trans (by rw [decide_eq_false hk, Bool.or_false])

/-! ### ATTREQ (R55) -/

theorem putErr_zero (w : Word) : putField w 2 1 0 = w &&& ~~~4#64 := putField_bit_zero (by decide) w
theorem putErr_one (w : Word) : putField w 2 1 1 = w ||| 4#64 := putField_bit_one (by decide) w

/-- BUSY cleared and DONE set. -/
theorem putDone (w : Word) : putField (putField w 0 1 0) 1 1 1 = (w &&& ~~~1#64) ||| 2 := by
  rw [putField_bit_one (by decide), putField_bit_zero (by decide)]
  rfl

theorem exec_attreqErrClear (s : State) : exec .attreqErrClear s = .next (s.updPkg (fun p => { p with attreq := s.pkg.attreq &&& ~~~4#64 })) := by
  change execAttreqErrClear s = _
  rw [execAttreqErrClear, State.updPkg, putErr_zero]
  rfl

theorem exec_attreqReport_of_err {s : State} {v : Word} (h : v.getLsbD 2 = true) : exec (.attreqReport v) s = exec .attreqErrClear s :=
  if_pos ((bitsOf_one_eq_one_iff _ _).mpr h)

theorem exec_attreqReport_of_busy {s : State} {v : Word} (h : v.getLsbD 2 = false) (hbusy : s.pkg.attreq.getLsbD 0 = true) :
    exec (.attreqReport v) s = .next (s.updPkg (fun p => { p with attreq := s.pkg.attreq ||| 4#64 })) := by
  have herr : ¬ bitsOf v.toNat 2 1 = 1 := by rw [bitsOf_one_eq_one_iff, h]; exact Bool.false_ne_true
  refine (if_neg herr).trans ((if_pos ((bitsOf_one_eq_one_iff _ _).mpr hbusy)).trans ?_)
  rw [State.updPkg, putErr_one]
  rfl

/-- The address bits of a buffer of 64-byte lines, 47:6. -/
theorem getLsbD_addrMask : ∀ i < 64, (0x0000FFFFFFFFFFC0 : Word).getLsbD i = decide (6 ≤ i ∧ i < 48) := by decide

theorem attreqFields_eq_append (v a : Word) : BitVec.ofNat 64 (bitsOf v.toNat 6 42 * 64 + bitsOf a.toNat 2 1 * 4 + 1) =
    0#16 ++ v.extractLsb' 6 42 ++ 0#3 ++ a.extractLsb' 2 1 ++ 1#2 := by
  apply BitVec.eq_of_toNat_eq
  simp only [toNat_append_eq_add, BitVec.toNat_ofNat, toNat_extractLsb'_eq_bitsOf, bitsOf]
  omega

/-- ATTREQ while a report is under way: the buffer's address, ERR as it was, BUSY. -/
theorem attreq_started (v a : Word) : BitVec.ofNat 64 (bitsOf v.toNat 6 42 * 64 + bitsOf a.toNat 2 1 * 4 + 1) =
    (v &&& 0x0000FFFFFFFFFFC0) ||| (a &&& 4) ||| 1 := by
  have hfour : (4 : Word) = BitVec.twoPow 64 2 := rfl
  have hone : (1 : Word) = BitVec.twoPow 64 0 := rfl
  rw [attreqFields_eq_append, hfour, hone]
  refine BitVec.eq_of_getLsbD_eq fun i hi => ?_
  rw [BitVec.getLsbD_or, BitVec.getLsbD_or, BitVec.getLsbD_and, BitVec.getLsbD_and, getLsbD_addrMask i hi]
  simp only [BitVec.getLsbD_append, BitVec.getLsbD_extractLsb', BitVec.getLsbD_twoPow, BitVec.getLsbD_zero]
  grind

theorem memRead_add (m : Mem) : ∀ (i a j : Nat), memRead m a (i + j) = memRead m a i ++ memRead m (a + i) j
  | 0, a, j => by rw [Nat.zero_add]; rfl
  | i + 1, a, j => by
    rw [Nat.add_right_comm, memRead, memRead_add m i, memRead, List.cons_append, Nat.add_right_comm a 1 i, Nat.add_assoc a i 1]

theorem length_memRead (m : Mem) : ∀ (n a : Nat), (memRead m a n).length = n
  | 0, _ => rfl
  | n + 1, a => by rw [memRead, List.length_cons, length_memRead m n]

/-- A write of bytes cut in two. -/
theorem memWrite_append : ∀ (l l' : List Byte) (m : Mem) (a : Nat), memWrite m a (l ++ l') = memWrite (memWrite m a l) (a + l.length) l'
  | [], _, _, _ => rfl
  | b :: l, l', m, a => by
    rw [List.cons_append, memWrite, memWrite, memWrite_append l, List.length_cons, Nat.add_right_comm, Nat.add_assoc]

/-! ### The report (R55) -/

/-- A read of bytes cut in two. -/
theorem take_memRead (m : Mem) (a i j : Nat) : (memRead m a (i + j)).take i = memRead m a i := by
  rw [memRead_add, List.take_left' (length_memRead ..)]

theorem drop_memRead (m : Mem) (a i j : Nat) : (memRead m a (i + j)).drop i = memRead m (a + i) j := by
  rw [memRead_add, List.drop_left' (length_memRead ..)]

/-- The digests that a report holds from FIRST on, by ascending ASID. -/
def digestsFrom (s : State) (first : Nat) : List (Nat × BitVec 256) := (digests s).filter (fun x => first ≤ x.1)

/-- What a report says before its signature, in the words of the statement. -/
def reportBody (s : State) (nonce : List Byte) (first : Nat) : List Byte :=
  let rest := digestsFrom s first
  let here := rest.take 64
  let next := if rest.length ≤ 64 then 0 else (rest.getD 64 (0, 0)).1
  natBytes 4 0x41545431 ++ natBytes 2 1 ++ natBytes 2 here.length ++ natBytes 4 s.pkg.ident.devid.toNat ++
    natBytes 4 s.pkg.fwSvn.toNat ++ natBytes 2 (digests s).length ++ natBytes 2 next ++ natBytes 12 0 ++ nonce ++
    digestBytes s.pkg.fwDigest ++ digestBytes s.pkg.rtDigest ++
    here.flatMap (fun x => natBytes 2 x.1 ++ natBytes 6 0 ++ digestBytes x.2)

theorem attestReport_eq (s : State) (nonce : List Byte) (first : Nat) : attestReport s nonce first =
    reportBody s nonce first ++ identitySign s.pkg.ident (sha256 (reportBody s nonce first)) s.freeCtr := by
  unfold attestReport reportBody
  extract_lets all from_ here next body rest here' next'
  have hnext : next = next' := by
    unfold next next'
    split
    next a d l hdrop =>
      have hlen : ¬ rest.length ≤ 64 := fun h => by simp [from_, List.drop_eq_nil_of_le (show from_.length ≤ 64 from h)] at hdrop
      have hget : rest[64]? = some (a, d) := by rw [← List.head?_drop]; exact congrArg List.head? hdrop
      rw [if_neg hlen, List.getD, hget]
      rfl
    next hdrop =>
      have hlen : rest.length ≤ 64 := List.drop_eq_nil_iff.mp hdrop
      rw [if_pos hlen]
  unfold body
  rw [hnext]
  rfl

theorem llcPutAll_mem : ∀ (k : Nat) (s : State) (a : Nat) (bs : List Byte), bs.length ≤ 64 * k → (llcPutAll k s a bs).mem = memWrite s.mem a bs
  | 0, _, _, _, h => by rw [List.eq_nil_of_length_eq_zero (Nat.le_zero.mp h)]; rfl
  | k + 1, s, a, bs, h => by
    rw [llcPutAll]
    split
    next hnil => rw [List.isEmpty_iff.mp hnil, memWrite]
    next hcons =>
      rw [llcPutAll_mem k _ _ _ (by rw [List.length_drop]; omega), llcPut_mem]
      rcases Nat.lt_or_ge bs.length 64 with hshort | hlong
      · rw [List.drop_eq_nil_of_le hshort.le, List.take_of_length_le hshort.le, memWrite]
      · conv_rhs => rw [← List.take_append_drop 64 bs, memWrite_append, List.length_take, Nat.min_eq_left hlong]

theorem llcPutAll_pkg : ∀ (k : Nat) (s : State) (a : Nat) (bs : List Byte), (llcPutAll k s a bs).pkg = s.pkg
  | 0, _, _, _ => rfl
  | k + 1, s, a, bs => by
    rw [llcPutAll]
    split
    · rfl
    · rw [llcPutAll_pkg k, llcPut_pkg]

/-- A write of ATTREQ while no report is under way starts one over the measurements as they stand. -/
theorem exec_attreqReport_of_idle {s : State} {v : Word} (h : v.getLsbD 2 = false) (hidle : s.pkg.attreq.getLsbD 0 = false) :
    let buf := (v.extractLsb' 6 42).toNat * 64
    let body := reportBody s (memRead s.mem buf 32) (bytesNat (memRead s.mem (buf + 32) 2))
    exec (.attreqReport v) s = .next { s with freeCtr := s.freeCtr + 8, pkg := { s.pkg with
      attreq := (v &&& 0x0000FFFFFFFFFFC0) ||| (s.pkg.attreq &&& 4) ||| 1
      report := some (body ++ identitySign s.pkg.ident (sha256 body) s.freeCtr) } } := by
  intro buf body
  have herr : ¬ bitsOf v.toNat 2 1 = 1 := by rw [bitsOf_one_eq_one_iff, h]; exact Bool.false_ne_true
  have hbusy : ¬ bitsOf s.pkg.attreq.toNat 0 1 = 1 := by rw [bitsOf_one_eq_one_iff, hidle]; exact Bool.false_ne_true
  have hbuf : bitsOf v.toNat 6 42 * 64 = buf := congrArg (· * 64) (toNat_extractLsb'_eq_bitsOf v 6 42).symm
  change execAttreqReport v s = _
  rw [execAttreqReport, if_neg herr, if_neg hbusy, ← attreq_started, ← attestReport_eq, ← take_memRead s.mem buf 32 2, ← drop_memRead,
    ← hbuf]
  rfl

/-- The report overwrites its buffer: DONE is set and BUSY clears. -/
theorem exec_attestReportDone_of_report {s : State} {bs : List Byte} (h : s.pkg.report = some bs) :
    ∃ s', exec .attestReportDone s = .next s' ∧ s'.mem = memWrite s.mem ((s.pkg.attreq.extractLsb' 6 42).toNat * 64) bs ∧
      s'.pkg = { s.pkg with attreq := (s.pkg.attreq &&& ~~~1#64) ||| 2, report := none } := by
  have hfits : bs.length ≤ 64 * (bs.length / 64 + 1) := by omega
  refine ⟨(llcPutAll (bs.length / 64 + 1) s (bitsOf s.pkg.attreq.toNat 6 42 * 64) bs).updPkg (fun p => { p with
    attreq := putField (putField p.attreq 0 1 0) 1 1 1, report := none }), ?_, ?_, ?_⟩
  · change execAttestReportDone s = _
    rw [execAttestReportDone, h]
  · rw [State.updPkg_mem, llcPutAll_mem _ _ _ _ hfits, toNat_extractLsb'_eq_bitsOf]
  · rw [State.updPkg_pkg, llcPutAll_pkg, putDone]

/-- Settles O39: fuses are only ever set, and each write of ATTREQ by its bit ERR and by BUSY. -/
theorem fusesAndReports : Obligations.FusesAndReports := by
  unfold Obligations.FusesAndReports
  intro s slot bit v bs revoked a
  exact ⟨fun h => pkgStep_of_exec (congrArg _ (if_neg h)) rfl, fun h => congrArg _ (if_pos h), pkgStep_otpSvnBlow s bit,
    pkgStep_of_exec (exec_attreqErrClear s) rfl, fun h => pkgStep_of_exec ((exec_attreqReport_of_err h).trans (exec_attreqErrClear s)) rfl,
    fun h hbusy => pkgStep_of_exec (exec_attreqReport_of_busy h hbusy) rfl, exec_attreqReport_of_idle, exec_attestReportDone_of_report⟩

end Sys2Proof.Machine
end

section
/-! SUPPORT. Ring ports (O53): what the end of a push leaves of its port, a host's push, the datagrams of R58, and the ring agent. -/

namespace Sys2Proof.Machine
open Sys2Proof.Claims

-- One after another: proofs elaborated at a time take a thread each, whose stacks are the most of the check's memory.
set_option Elab.async false

/-! ### A step that changes one port -/

/-- A step that leaves rings and memory alone, and of the ports changes port `p` of I/O die `io` alone, as `P` says. -/
def PortStep (i : Instr) (s : State) (io p : Nat) (P : State → RingPort → Prop) : Prop :=
  StepTo i s (fun s' => s'.rings = s.rings ∧ s'.mem = s.mem ∧ s'.pkg.rports = s.pkg.rports.set (io * 64 + p) (s'.rport io p) ∧
    P s' (s'.rport io p))

/-- There are 64 ports on each of two I/O dies. -/
theorem port_lt {s : State} {io p : Nat} (hio : io < 2) (hp : p < 64) (hlen : s.pkg.rports.length = 128) :
    io * 64 + p < s.pkg.rports.length := by
  omega

theorem rport_of_rports_set {s s' : State} {io p : Nat} {r : RingPort} (h : s'.pkg.rports = s.pkg.rports.set (io * 64 + p) r)
    (hlt : io * 64 + p < s.pkg.rports.length) : s'.rport io p = r := by
  rw [State.rport, h, List.getD_eq_getElem _ _ (by rw [List.length_set]; exact hlt), List.getElem_set_self]

theorem portStep_of_exec {i : Instr} {s s' : State} {io p : Nat} {r : RingPort} {P : State → RingPort → Prop} (h : exec i s = .next s')
    (hlt : io * 64 + p < s.pkg.rports.length) (hrings : s'.rings = s.rings) (hmem : s'.mem = s.mem)
    (hports : s'.pkg.rports = s.pkg.rports.set (io * 64 + p) r) (hP : P s' r) : PortStep i s io p P := by
  have hr : s'.rport io p = r := rport_of_rports_set hports hlt
  exact ⟨s', h, hrings, hmem, by rw [hr, hports], by rw [hr]; exact hP⟩

/-- A port put back, and nothing else. -/
theorem portStep_of_setRport {i : Instr} {s : State} {io p : Nat} {r : RingPort} {P : State → RingPort → Prop}
    (h : exec i s = .next (s.setRport io p r)) (hlt : io * 64 + p < s.pkg.rports.length) (hP : P (s.setRport io p r) r) : PortStep i s io p P :=
  portStep_of_exec h hlt rfl rfl rfl hP

/-! ### The end of a push (R57, R58) -/

/-- A port as the end of a push leaves it. -/
def RingPort.ended (r : RingPort) (job : Push) (status : Nat) : RingPort :=
  { r with
    donecnt := r.donecnt + 1, status := BitVec.ofNat 4 status, waiting := none, granted := none, busy := !r.queue.isEmpty
    seqs := match job.seq with | none => r.seqs | some k => (r.seqs ++ [(k, status)]).drop (r.seqs.length + 1 - 64) }

/-- Who hears of the end of a push: the host by a vector, the source of a datagram by an ACK for each time it has come. -/
def PushTold (io p : Nat) (job : Push) (status : Nat) (q q' : Pkg) : Prop :=
  match job.seq with
  | none => q'.msix = q.msix ++ [(io, p)]
  | some k => q'.udpOut = q.udpOut ++ List.replicate (1 + job.again) (io, udpHead 2 p status k.toNat)

@[simp] theorem pushDone_rings (s : State) (io p : Nat) (job : Push) (status : Nat) : (pushDone s io p job status).rings = s.rings := by
  unfold pushDone
  split <;> rfl

@[simp] theorem pushDone_mem (s : State) (io p : Nat) (job : Push) (status : Nat) : (pushDone s io p job status).mem = s.mem := by
  unfold pushDone
  split <;> rfl

theorem pushDone_rports (s : State) (io p : Nat) (job : Push) (status : Nat) :
    (pushDone s io p job status).pkg.rports = s.pkg.rports.set (io * 64 + p) ((s.rport io p).ended job status) := by
  unfold pushDone RingPort.ended
  cases job.seq with
  | none => rfl
  | some k =>
    simp only [State.setRport, State.updPkg_pkg, List.length_append, List.length_cons, List.length_nil]

theorem pushDone_told (s : State) (io p : Nat) (job : Push) (status : Nat) :
    PushTold io p job status s.pkg (pushDone s io p job status).pkg := by
  unfold pushDone PushTold
  cases job.seq <;> rfl

theorem portStep_of_pushDone {i : Instr} {s : State} {io p : Nat} {job : Push} {status : Nat} {P : State → RingPort → Prop}
    (h : exec i s = .next (pushDone s io p job status)) (hlt : io * 64 + p < s.pkg.rports.length)
    (hP : P (pushDone s io p job status) ((s.rport io p).ended job status)) : PortStep i s io p P :=
  portStep_of_exec h hlt (pushDone_rings ..) (pushDone_mem ..) (pushDone_rports ..) hP

/-- A push that ends as it leaves the queue: its port is put back, then ended. -/
theorem portStep_of_pushDone_setRport {i : Instr} {s : State} {io p : Nat} {r : RingPort} {job : Push} {status : Nat}
    {P : State → RingPort → Prop} (h : exec i s = .next (pushDone (s.setRport io p r) io p job status))
    (hlt : io * 64 + p < s.pkg.rports.length) (hP : P (pushDone (s.setRport io p r) io p job status) (r.ended job status)) :
    PortStep i s io p P := by
  have hr : (s.setRport io p r).rport io p = r := rport_of_rports_set rfl hlt
  refine portStep_of_exec h hlt (pushDone_rings ..) (pushDone_mem ..) ?_ hP
  rw [pushDone_rports, hr]
  exact List.set_set ..

/-! ### A host's push (R15, R57) -/

/-- The writes that the host has posted ahead of RPPUSH come first. -/
theorem exec_rppushWrite_posted (s : State) (io p : Nat) (v : Word) (hv : Option (BitVec 32)) (posted : List (Nat × List Byte)) :
    exec (.rppushWrite io p v hv posted) s = exec (.rppushWrite io p v none []) (hostPosted io p hv posted s) := rfl

theorem exec_rppushWrite_of_unreached {s : State} {io : Nat} (h : hostReaches s io = false) (p : Nat) (v : Word) :
    exec (.rppushWrite io p v none []) s = .next s := if_pos (by rw [Bool.not_eq_true']; exact h)

/-- The push of `n` granules that the host asks for. -/
def hostPush (r : RingPort) (n : Nat) : Push :=
  { n := n, bytes := memRead r.staging 0 (64 * min n 1024), seq := none, again := 0, b0 := r.b0, b1 := r.b1, b2 := r.b2 }

theorem hostPush_of_le (r : RingPort) {n : Nat} (h : n ≤ 1024) : hostPush r n =
    { n := n, bytes := memRead r.staging 0 (64 * n), seq := none, again := 0, b0 := r.b0, b1 := r.b1, b2 := r.b2 } := by
  rw [hostPush, Nat.min_eq_left h]

/-- A write of RPPUSH that comes: refused while BUSY, refused with an end where it may not be made, queued otherwise. -/
theorem exec_rppushWrite_of_reached {s : State} {io : Nat} (hreach : hostReaches s io = true) (p : Nat) (v : Word) : exec (.rppushWrite io p v none []) s =
    if (s.rport io p).busy then .next (s.setRport io p { s.rport io p with status := 3 })
    else if (s.pkg.hostver.getD io 0).toNat / 2 ^ 16 ≠ 1 ∨ (s.rport io p).b2.extractLsb' 30 2 ≠ 1 ∨ 1024 < (v.extractLsb' 0 11).toNat then
      .next (pushDone s io p (hostPush (s.rport io p) (v.extractLsb' 0 11).toNat) 3)
    else .next (s.setRport io p { s.rport io p with
      busy := true, queue := (s.rport io p).queue ++ [hostPush (s.rport io p) (v.extractLsb' 0 11).toNat] }) := by
  have hsrc : (s.rport io p).src ≠ 1 ↔ (s.rport io p).b2.extractLsb' 30 2 ≠ 1 := by
    rw [RingPort.src, ← toNat_extractLsb'_eq_bitsOf, ne_eq, ne_eq, ← BitVec.toNat_inj]
    rfl
  change execRppushWrite io p v none [] s = _
  rw [execRppushWrite, show hostPosted io p none [] s = s from rfl]
  simp only [hreach, Bool.not_true, Bool.false_eq_true, if_false, hsrc, hostPush, toNat_extractLsb'_eq_bitsOf, gt_iff_lt]

/-! ### Datagrams (R58) -/

/-- A datagram that is of another source than the port is bound to, of another UDP port, or that comes over a link that is down. -/
theorem udpHeard_eq_false {s : State} {io p : Nat} {d : Datagram} (hport : (dgHdr d).port = p)
    (h : (s.rport io p).b2.extractLsb' 30 2 ≠ 2 ∨ (s.rport io p).b1.extractLsb' 0 48 ≠ d.mac ∨ d.port ≠ 0x4B55 ∨
      s.pkg.ethUp.getD io false = false) : udpHeard s io d = false := by
  subst hport
  rw [← Bool.not_eq_true]
  intro hheard
  simp only [udpHeard, Bool.and_eq_true, decide_eq_true_iff, RingPort.src, ← toNat_extractLsb'_eq_bitsOf] at hheard
  obtain ⟨⟨⟨⟨⟨⟨⟨hup, -⟩, hudp⟩, -⟩, -⟩, -⟩, hsrc⟩, hmac⟩ := hheard
  rcases h with h | h | h | h
  · exact h (BitVec.eq_of_toNat_eq hsrc)
  · exact h (BitVec.eq_of_toNat_eq hmac)
  · exact h hudp
  · exact Bool.false_ne_true (h.symm.trans hup)

theorem exec_udpHello_of_unheard {s : State} {io : Nat} {d : Datagram} (h : udpHeard s io d = false) :
    exec (.udpHello io d.mac ⟨d.addr, d.port⟩ d.bytes) s = .next s := if_pos (by
  change (!udpHeard s io d || _) = true
  rw [h, Bool.not_false, Bool.true_or])

theorem exec_udpPush_of_unheard {s : State} {io : Nat} {d : Datagram} (h : udpHeard s io d = false) :
    exec (.udpPush io d.mac d.addr d.port d.bytes) s = .next s := if_pos (by
  change (!udpHeard s io d || _ || _ || _ || _) = true
  rw [h]
  rfl)

theorem exec_udpHello_of_heard {s : State} {io : Nat} {d : Datagram} (h : udpHeard s io d = true) (hop : (dgHdr d).op = 0) :
    exec (.udpHello io d.mac ⟨d.addr, d.port⟩ d.bytes) s = .next (s.updPkg (fun q => { q with udpOut := q.udpOut ++
      [(io, [BitVec.ofNat 8 (min (dgHdr d).ver 1), 0, BitVec.ofNat 8 (dgHdr d).port, 0] ++ List.replicate 12 0)] })) := if_neg (by
  change ¬ (!udpHeard s io d || decide ((dgHdr d).op ≠ 0)) = true
  rw [h, hop]
  decide)

/-- The queued push of a datagram. -/
def datagramPush (r : RingPort) (d : Datagram) : Push :=
  { n := (dgHdr d).n, bytes := (d.bytes.drop 16).take (64 * (dgHdr d).n), seq := some (dgHdr d).seq, again := 0, b0 := r.b0, b1 := r.b1, b2 := r.b2 }

/-- A PUSH that the agent takes: of its source, of version 0 or 1, with its N granules whole. -/
structure PushHeard (s : State) (io : Nat) (d : Datagram) : Prop where
  heard : udpHeard s io d = true
  op : (dgHdr d).op = 1
  ver : (dgHdr d).ver ≤ 1
  n : (dgHdr d).n ≤ 140
  whole : 16 + 64 * (dgHdr d).n ≤ d.bytes.length

theorem PushHeard.passes {s : State} {io : Nat} {d : Datagram} (h : PushHeard s io d) : ¬ (!udpHeard s io d || (dgHdr d).op ≠ 1 ||
    (dgHdr d).ver > 1 || (dgHdr d).n > 140 || d.bytes.length < 16 + 64 * (dgHdr d).n) = true := by
  simp only [h.heard, h.op, Nat.not_lt.mpr h.ver, Nat.not_lt.mpr h.n, Nat.not_lt.mpr h.whole, ne_eq, not_true_eq_false, decide_false,
    Bool.not_true, Bool.or_self, Bool.false_eq_true, not_false_eq_true]

section
variable {s : State} {io : Nat} {d : Datagram} (h : PushHeard s io d) {r : RingPort} (hr : s.rport io (dgHdr d).port = r)
include h hr

/-- A SEQ among the last 64 is acknowledged again. -/
theorem exec_udpPush_of_known {x : BitVec 32 × Nat} (hknown : r.seqs.find? (fun x => x.1 = (dgHdr d).seq) = some x) :
    exec (.udpPush io d.mac d.addr d.port d.bytes) s = .next (s.updPkg (fun q => { q with
      udpOut := q.udpOut ++ [(io, udpHead 2 (dgHdr d).port x.2 (dgHdr d).seq.toNat)] })) := by
  refine (if_neg h.passes).trans ?_
  rw [hr, hknown]

/-- One whose push is queued is counted with it. -/
theorem exec_udpPush_of_queued (hnew : r.seqs.find? (fun x => x.1 = (dgHdr d).seq) = none)
    (hqueued : ∃ j ∈ r.queue, j.seq = some (dgHdr d).seq) : exec (.udpPush io d.mac d.addr d.port d.bytes) s =
      .next (s.setRport io (dgHdr d).port { r with
        queue := r.queue.map (fun j => j.repeated (dgHdr d).seq)
        waiting := r.waiting.map (fun x => (x.1.repeated (dgHdr d).seq, x.2)) }) := by
  have hany : r.queue.any (fun j => j.seq = some (dgHdr d).seq) = true := by
    obtain ⟨j, hj, hseq⟩ := hqueued
    exact List.any_eq_true.mpr ⟨j, hj, decide_eq_true hseq⟩
  refine (if_neg h.passes).trans ?_
  rw [hr, hnew]
  exact if_pos (by rw [hany, Bool.true_or])

/-- Any other is queued. -/
theorem exec_udpPush_of_new (hnew : r.seqs.find? (fun x => x.1 = (dgHdr d).seq) = none) (hqueue : ∀ j ∈ r.queue, j.seq ≠ some (dgHdr d).seq)
    (hwaiting : ∀ j b, r.waiting = some (j, b) → j.seq ≠ some (dgHdr d).seq) : exec (.udpPush io d.mac d.addr d.port d.bytes) s =
      .next (s.setRport io (dgHdr d).port { r with busy := true, queue := r.queue ++ [datagramPush r d] }) := by
  have hany : r.queue.any (fun j => j.seq = some (dgHdr d).seq) = false :=
    List.any_eq_false.mpr fun j hj => by rw [decide_eq_true_iff]; exact hqueue j hj
  refine (if_neg h.passes).trans ?_
  rw [hr, hnew]
  refine if_neg ?_
  rw [hany, Bool.false_or]
  cases hw : r.waiting with
  | none => exact Bool.false_ne_true
  | some x => exact fun hseq => hwaiting x.1 x.2 hw (of_decide_eq_true hseq)

end

/-- A repeat is still the same push: only the count of its ACKs goes up. -/
theorem repeated_same (j : Push) (seq : BitVec 32) : ((j.repeated seq).n, (j.repeated seq).bytes, (j.repeated seq).seq) = (j.n, j.bytes, j.seq) := by
  rw [Push.repeated]
  split <;> rfl

/-! ### RPBIND2 (R342) -/

/-- The binding that a write of RPBIND2 makes: SRC 3 held at 0, LIMIT 0 or above 1024 at 1024. -/
def bind2 (v : Word) : Word :=
  let src := bitsOf v.toNat 30 2
  let lim := bitsOf v.toNat 0 11
  BitVec.ofNat 64 ((if src = 3 then 0 else src) * 2 ^ 30 + (if lim = 0 ∨ lim > 1024 then 1024 else lim))

theorem exec_rpbind2Write (s : State) (io : Nat) (v : Word) {p : Nat} (hp : p < 64)
    (hsel : (s.pkg.rpsel.getD io 0).extractLsb' 0 6 = BitVec.ofNat 6 p) : exec (.rpbind2Write io v) s =
      .next (s.setRport io p { s.rport io p with b0 := (s.rport io p).staged0, b1 := (s.rport io p).staged1, b2 := bind2 v }) := by
  have hport : bitsOf (s.pkg.rpsel.getD io 0).toNat 0 6 = p := by
    rw [← toNat_extractLsb'_eq_bitsOf, hsel, BitVec.toNat_ofNat]
    exact Nat.mod_eq_of_lt hp
  change execRpbind2Write io v s = _
  rw [execRpbind2Write, hport]
  rfl

theorem bind2_src (v : Word) : (bind2 v).extractLsb' 30 2 = if v.extractLsb' 30 2 = 3 then 0 else v.extractLsb' 30 2 := by
  have hthree : v.extractLsb' 30 2 = 3 ↔ bitsOf v.toNat 30 2 = 3 := by
    rw [← BitVec.toNat_inj, toNat_extractLsb'_eq_bitsOf]
    rfl
  have hlim : bitsOf v.toNat 0 11 < 2 ^ 11 := Nat.mod_lt _ (by decide)
  have hsrc : bitsOf v.toNat 30 2 < 2 ^ 2 := Nat.mod_lt _ (by decide)
  apply BitVec.eq_of_toNat_eq
  simp only [hthree, apply_ite BitVec.toNat, toNat_extractLsb'_eq_bitsOf]
  rw [bind2, BitVec.toNat_ofNat, bitsOf]
  change _ = if _ then 0 else _
  split_ifs <;> omega

theorem bind2_limit (v : Word) : ((bind2 v).extractLsb' 0 11).toNat =
    if (v.extractLsb' 0 11).toNat = 0 ∨ 1024 < (v.extractLsb' 0 11).toNat then 1024 else (v.extractLsb' 0 11).toNat := by
  have hlim : bitsOf v.toNat 0 11 < 2 ^ 11 := Nat.mod_lt _ (by decide)
  have hsrc : bitsOf v.toNat 30 2 < 2 ^ 2 := Nat.mod_lt _ (by decide)
  simp only [toNat_extractLsb'_eq_bitsOf]
  rw [bind2, BitVec.toNat_ofNat, bitsOf]
  split_ifs <;> omega

/-! ### The ring agent (R56) -/

/-- A push of a port with no binding, of no granule or above the limit is refused, by the binding it was asked under. -/
theorem exec_ringAgentPush_of_refused {s : State} {io p : Nat} {r : RingPort} (hr : s.rport io p = r) {job : Push} {rest : List Push}
    (hwaiting : r.waiting = none) (hqueue : r.queue = job :: rest)
    (hbad : job.b2.extractLsb' 30 2 = 0 ∨ job.n = 0 ∨ (job.b2.extractLsb' 0 11).toNat < job.n) :
    exec (.ringAgentPush io p) s = .next (pushDone (s.setRport io p { r with queue := rest, granted := none }) io p job 3) := by
  have hrefused : bitsOf job.b2.toNat 30 2 = 0 ∨ job.n = 0 ∨ job.n > bitsOf job.b2.toNat 0 11 := by
    rw [← toNat_extractLsb'_eq_bitsOf, ← toNat_extractLsb'_eq_bitsOf]
    exact hbad.imp_left (congrArg BitVec.toNat)
  change execRingAgentPush io p s = _
  rw [execRingAgentPush, hr]
  simp only [hwaiting, hqueue]
  exact if_pos hrefused

theorem ringFresh_of_not_stored {s : State} {asid block : Nat} {g : Ring} (hring : s.ring? asid block = some g) (hstored : g.stored = false) :
    ringFresh s asid block = s := by
  rw [ringFresh, hring]
  exact if_neg (by rw [hstored]; exact Bool.false_ne_true)

theorem exec_ringAgentPush_of_granted {s : State} {io p : Nat} {r : RingPort} (hr : s.rport io p = r) {job : Push} {b0 b1 : Word} {pos : Nat}
    (hwaiting : r.waiting = some (job, b0, b1)) (hgranted : r.granted = some (pos, 0)) :
    exec (.ringAgentPush io p) s = .next (pushCopy s io p job (b0.extractLsb' 48 16).toNat ((b0.extractLsb' 6 42).toNat * 64)
      (b1.extractLsb' 48 16).toNat pos) := by
  change execRingAgentPush io p s = _
  rw [execRingAgentPush, hr]
  simp only [hwaiting, hgranted, toNat_extractLsb'_eq_bitsOf]
  rfl

section
variable {s : State} {asid block pos : Nat} {g : Ring} (hring : s.ring? asid block = some g) (hstored : g.stored = false)
  (hclaim : ∃ c ∈ g.claims, c.pos = pos ∧ c.st = .opened) (io p : Nat) (job : Push) {scope : Nat}
include hring hstored hclaim

/-- A claim whose scope has been cancelled since its grant gets no copy. -/
theorem pushCopy_of_scopeGone (hgone : scopeGone s asid scope = true) :
    pushCopy s io p job asid block scope pos = pushDone (voidAt s asid block pos) io p job 2 := by
  have hopen : g.claims.any (fun c => c.pos = pos && c.st = .opened) = true := by simpa using hclaim
  rw [pushCopy, ringFresh_of_not_stored hring hstored]
  simp only [hring, hopen, hgone, Bool.not_true, Bool.false_eq_true, if_false, if_true]

/-- A claim whose granules are copied is committed. -/
theorem pushCopy_of_commit (hgone : scopeGone s asid scope = false) {s1 s2 s3 : State} {bs : List Byte} {a m osc : Nat}
    (hread : readBytes s (some g.die) 3 g.xl 64 = .ok s1 bs)
    (hcopy : copyGranules asid (ringBlock bs).base (ringBlock bs).lgn job.n s1 pos job.bytes = some s2)
    (hcommit : ringAtSlice s2 asid g.xl (.ring io p) (.commit block pos scope) = some (s3, .granted a m, osc)) :
    pushCopy s io p job asid block scope pos = pushDone (stir s3 asid) io p job 0 := by
  have hopen : g.claims.any (fun c => c.pos = pos && c.st = .opened) = true := by simpa using hclaim
  rw [pushCopy, ringFresh_of_not_stored hring hstored]
  simp only [hring, hopen, hgone, hread, hcopy, hcommit, Bool.not_true, Bool.false_eq_true, if_false]

end

/-! ### The obligation -/

/-- Settles O53: a push changes its own port, and ends once: by a refusal, by the commit of its claim, or by its VOID. -/
theorem ringPorts : Obligations.RingPorts := by
  unfold Obligations.RingPorts
  intro s io p r v d hv posted hio hp hlen hr n src h port told ends
  have hlt := port_lt hio hp hlen
  have portStep {i : Instr} {P : State → RingPort → Prop} (h : PortStep i s io p P) : port i P := h
  clear_value port
  obtain rfl := hr
  refine ⟨exec_rppushWrite_posted s io p v hv posted, fun hno => exec_rppushWrite_of_unreached hno p v, fun hreach => ?host,
    fun hport hheard => ⟨fun hop => ?hello, fun hop hver hn hwhole => ?push⟩,
    fun hport hdrop => ⟨exec_udpHello_of_unheard (udpHeard_eq_false hport hdrop), exec_udpPush_of_unheard (udpHeard_eq_false hport hdrop)⟩,
    fun hsel => ?rpbind2, fun job rest hwaiting hqueue hbad => ?refused,
    fun job b0 b1 pos g s1 s2 s3 bs a m osc hwaiting hgranted => ?granted⟩
  case host =>
    have hexec := exec_rppushWrite_of_reached hreach p v
    refine ⟨fun hbusy => ?_, fun hidle hver hsrc hn => ?_, fun hidle hbad => ?_⟩
    · exact portStep (portStep_of_setRport (hexec.trans (if_pos hbusy)) hlt rfl)
    · have hgood : ¬ ((s.pkg.hostver.getD io 0).toNat / 2 ^ 16 ≠ 1 ∨ src ≠ 1 ∨ 1024 < n) := by
        simp only [hver, hsrc, Nat.not_lt.mpr hn, ne_eq, not_true_eq_false, or_self, not_false_eq_true]
      rw [if_neg (Bool.eq_false_iff.mp hidle), if_neg hgood, hostPush_of_le _ hn] at hexec
      exact portStep (portStep_of_setRport hexec hlt rfl)
    · rw [if_neg (Bool.eq_false_iff.mp hidle), if_pos hbad] at hexec
      exact portStep (portStep_of_pushDone hexec hlt ⟨rfl, rfl, rfl, pushDone_told s io p (hostPush _ _) 3⟩)
  case hello =>
    subst hport
    exact pkgStep_of_exec (exec_udpHello_of_heard hheard hop) rfl
  case push =>
    subst hport
    have hpush : PushHeard s io d := ⟨hheard, hop, hver, hn, hwhole⟩
    refine ⟨fun st hknown => ?_, fun hnew hqueued => ?_, fun hnew hqueue hwaiting => ?_⟩
    · exact pkgStep_of_exec (exec_udpPush_of_known hpush rfl hknown) rfl
    · refine portStep (portStep_of_setRport (exec_udpPush_of_queued hpush rfl hnew hqueued) hlt ⟨?_, rfl⟩)
      rw [List.map_map]
      exact List.map_congr_left fun j _ => repeated_same j _
    · exact portStep (portStep_of_setRport (exec_udpPush_of_new hpush rfl hnew hqueue hwaiting) hlt rfl)
  case rpbind2 =>
    refine portStep (portStep_of_setRport (exec_rpbind2Write s io v hp hsel) hlt ?_)
    exact ⟨rfl, rfl, bind2_src v, bind2_limit v, rfl⟩
  case refused =>
    refine portStep (portStep_of_pushDone_setRport (exec_ringAgentPush_of_refused rfl hwaiting hqueue hbad) hlt ?_)
    exact ⟨rfl, rfl, rfl, pushDone_told (s.setRport io p { s.rport io p with queue := rest, granted := none }) io p job 3⟩
  case granted =>
    intro asid block hring hstored hclaim
    have hexec := exec_ringAgentPush_of_granted rfl hwaiting hgranted
    refine ⟨fun hgone => hexec.trans (congrArg _ (pushCopy_of_scopeGone hring hstored hclaim io p job hgone)), ?_⟩
    intro hgone hread hcopy hcommit hport hports
    have hended : (pushDone (stir s3 asid) io p job 0).rport io p = (s.rport io p).ended job 0 := by
      rw [← hport]
      exact rport_of_rports_set (pushDone_rports (stir s3 asid) io p job 0) (port_lt (s := stir s3 asid) hio hp hports)
    exact ⟨_, hexec.trans (congrArg _ (pushCopy_of_commit hring hstored hclaim io p job hgone hread hcopy hcommit)),
      pushDone_rings .., pushDone_mem .., pushDone_told (stir s3 asid) io p job 0, hended⟩

end Sys2Proof.Machine
end

section
/-! SUPPORT. What reset leaves (O58). -/

namespace Sys2Proof.Machine

/-- Every thread that reset leaves is a system core's. -/
theorem reset_threads_sys {t : Thread} (h : t ∈ State.reset.threads) : ∃ n, t.id = .sys n := by
  rcases List.mem_cons.mp h with rfl | h
  · exact ⟨0, rfl⟩
  · obtain ⟨n, -, rfl⟩ := List.mem_map.mp h
    exact ⟨n + 1, rfl⟩

/-- A system core other than IO0's first has every register zero and waits for firmware (R333). -/
theorem reset_thread?_sys {n : Nat} (h1 : 1 ≤ n) (h32 : n < 32) : State.reset.thread? (.sys n) = some (Thread.fresh (.sys n)) := by
  have hfirst : ¬ decide (ThreadId.sys 0 = .sys n) = true := by
    rw [decide_eq_true_iff, ThreadId.sys.injEq]
    omega
  have hrest : (List.range 31).find? ((fun t : Thread => decide (t.id = .sys n)) ∘ fun k => Thread.fresh (.sys (k + 1))) = some (n - 1) := by
    rw [List.find?_range_eq_some]
    simp only [Function.comp_apply, Thread.fresh, ThreadId.sys.injEq, List.mem_range, decide_eq_true_iff, Bool.not_eq_true',
      decide_eq_false_iff_not]
    exact ⟨by omega, by omega, fun j hj => by omega⟩
  refine (List.find?_cons_of_neg (p := fun t : Thread => decide (t.id = .sys n)) hfirst).trans ?_
  rw [List.find?_map, hrest, Option.map_some, Nat.sub_add_cancel h1]

theorem reset_thread?_ctl (d c h : Nat) : State.reset.thread? (.ctl d c h) = none := by
  refine List.find?_eq_none.mpr fun t ht => ?_
  obtain ⟨n, hn⟩ := reset_threads_sys ht
  rw [hn, decide_eq_true_iff]
  exact ThreadId.noConfusion

/-- Settles O58: the 32 system cores, one in the boot ROM and the others not started; a thread in the ROM lets a cycle pass. -/
theorem resetLeaves : Obligations.ResetLeaves := by
  unfold Obligations.ResetLeaves
  refine ⟨⟨rfl, rfl⟩, rfl, rfl, rfl, rfl, ⟨_, rfl, rfl, rfl⟩, fun n h1 h32 => ⟨_, reset_thread?_sys h1 h32, rfl, rfl⟩, reset_thread?_ctl,
    fun a => ⟨rfl, rfl⟩, rfl⟩

end Sys2Proof.Machine
end

section
/-! SUPPORT. Partitions, threads and places as they are found after a change, and what a status instruction leaves in its thread
(R321). -/

namespace Sys2Proof.Machine
open Sys2Proof.Claims

-- One after another: proofs elaborated at a time take a thread each, whose stacks are the most of the check's memory.
set_option Elab.async false

/-! ### Partitions -/

theorem asid_of_partOf {s : State} {a : Nat} {p : Partition} (h : partOf s a = some p) : p.asid = a :=
  of_decide_eq_true (List.find?_some (p := fun p : Partition => decide (p.asid = a)) h)

theorem partOf_congr {s s' : State} (h : s'.parts = s.parts) (a : Nat) : partOf s' a = partOf s a := by rw [partOf, partOf, h]

/-- A change that keeps the ASID leaves every partition found where it was, changed if it is the one. -/
theorem partOf_updPart_map {f : Partition → Partition} (hf : ∀ q, (f q).asid = q.asid) (s : State) (a b : Nat) :
    partOf (s.updPart a f) b = (partOf s b).map (fun x => if x.asid = a then f x else x) := by
  have hblind := find?_updBy_blind (b := fun x : Partition => decide (x.asid = a)) (p := fun x : Partition => decide (x.asid = b)) (g := f)
    (fun x => by rw [hf]) s.parts
  rw [partOf, State.updPart, hblind]
  simp only [decide_eq_true_eq]
  rfl

theorem partOf_updPart {f : Partition → Partition} (hf : ∀ q, (f q).asid = q.asid) {s : State} {a : Nat} {p : Partition}
    (h : partOf s a = some p) : partOf (s.updPart a f) a = some (f p) := by
  rw [partOf_updPart_map hf, h, Option.map_some, if_pos (asid_of_partOf h)]

theorem partOf_updPart_other {f : Partition → Partition} (hf : ∀ q, (f q).asid = q.asid) {s : State} {a b : Nat} (h : b ≠ a) :
    partOf (s.updPart a f) b = partOf s b := by
  rw [partOf_updPart_map hf]
  cases hp : partOf s b with
  | none => rfl
  | some p => rw [Option.map_some, if_neg (by rw [asid_of_partOf hp]; exact h)]

theorem partOf_setPart {s : State} {p q : Partition} (h : partOf s p.asid = some q) : partOf (s.setPart p) p.asid = some p :=
  find?_updBy_hit (p := fun x : Partition => decide (x.asid = p.asid)) (fun _ _ => decide_eq_true rfl) h

/-- A stirred partition's silence starts again, and nothing else of it changes (R102). -/
theorem partOf_stir {s : State} {a : Nat} {p : Partition} (h : partOf s a = some p) :
    partOf (stir s a) a = some { p with silent := s.cycle } := partOf_updPart (f := fun p => { p with silent := s.cycle }) (fun _ => rfl) h

/-- Where no two partitions share an ASID, each is the one found under its own. -/
theorem partOf_of_mem {s : State} {q : Partition} (hnodup : (s.parts.map (fun x => x.asid)).Nodup) (hq : q ∈ s.parts) :
    partOf s q.asid = some q := by
  cases h : partOf s q.asid with
  | none => simpa using List.find?_eq_none.mp h q hq
  | some x => rw [List.inj_on_of_nodup_map hnodup (List.mem_of_find?_eq_some h) hq (asid_of_partOf h)]

@[simp] theorem partOf_updPkg (s : State) (f : Pkg → Pkg) (a : Nat) : partOf (s.updPkg f) a = partOf s a := rfl
@[simp] theorem partOf_setThread (s : State) (t : Thread) (a : Nat) : partOf (s.setThread t) a = partOf s a := rfl
@[simp] theorem partOf_updThread (s : State) (t : ThreadId) (f : Thread → Thread) (a : Nat) : partOf (s.updThread t f) a = partOf s a := rfl

/-! ### Places and threads -/

theorem place?_updPlace {s : State} {p : Place} {f : Place → Place} (hf : ∀ y, (f y).id = y.id) (h : s.place? p.id = some p) :
    (s.updPlace p.id f).place? p.id = some (f p) :=
  find?_updBy_hit (p := fun x : Place => x.id = p.id) (fun y hy => by simpa [hf] using hy) h

/-- Another thread is as it was. -/
theorem thread?_updThread_other {s : State} {a b : ThreadId} {f : Thread → Thread} (hf : ∀ u, (f u).id = u.id) (h : b ≠ a) :
    (s.updThread a f).thread? b = s.thread? b := by
  rw [State.thread?, State.updThread, find?_updBy_blind (fun u => by rw [hf])]
  cases hu : s.threads.find? (fun u => u.id = b) with
  | none => simp [State.thread?, hu]
  | some u =>
    have hid : u.id = b := of_decide_eq_true (List.find?_some (p := fun u : Thread => decide (u.id = b)) hu)
    simp [State.thread?, hu, hid, h]

/-! ### Reports -/

theorem tstatWord_eq_report {maj fn code : Nat} (hm : maj < 2 ^ 8) (hf : fn < 2 ^ 8) (hc : code < 2 ^ 8) :
    tstatWord maj fn code = report maj fn code := by
  apply BitVec.eq_of_toNat_eq
  have hlow : maj <<< 8 ||| code = maj * 2 ^ 8 + code := by rw [← Nat.shiftLeft_add_eq_or_of_lt hc, Nat.shiftLeft_eq]
  have hall : fn <<< 16 ||| (maj <<< 8 ||| code) = fn * 2 ^ 16 + (maj * 2 ^ 8 + code) := by
    rw [hlow, ← Nat.shiftLeft_add_eq_or_of_lt (by omega), Nat.shiftLeft_eq]
  have hfn : fn <<< 16 < 2 ^ 64 := by rw [Nat.shiftLeft_eq]; omega
  have hmaj : maj <<< 8 < 2 ^ 64 := by rw [Nat.shiftLeft_eq]; omega
  simp only [tstatWord, report, BitVec.toNat_or, BitVec.toNat_shiftLeft, BitVec.toNat_ofNat]
  rw [Nat.mod_eq_of_lt (show maj < 2 ^ 64 by omega), Nat.mod_eq_of_lt (show fn < 2 ^ 64 by omega),
    Nat.mod_eq_of_lt (show code < 2 ^ 64 by omega), Nat.mod_eq_of_lt hfn, Nat.mod_eq_of_lt hmaj, Nat.or_assoc, hall,
    Nat.mod_eq_of_lt (by omega), Nat.add_assoc]

/-- What a status instruction leaves in its thread. -/
theorem report_reports (t : Thread) (d : Reg) {maj fn code : Nat} (hm : maj < 2 ^ 8) (hf : fn < 2 ^ 8) (hc : code < 2 ^ 8) (v : Word) :
    Reports t (t.report d maj fn code v) d maj fn code v := by
  obtain ⟨hd, hother, hpc⟩ := Thread.retire_spec { t with tstat := tstatWord maj fn code, wait := .none } d
    (if code = 0 then v else ofSigned (-(code : Int)))
  refine ⟨hpc, ?_, hd, hother, ?_⟩
  · simp [Thread.report, tstatWord_eq_report hm hf hc]
  · simp [Thread.report]

@[simp] theorem Thread.report_id (t : Thread) (d : Reg) (maj fn code : Nat) (v : Word) : (t.report d maj fn code v).id = t.id := by
  simp [Thread.report]

/-- The same for a pair, whose registers are two. -/
theorem reportPair_reports (t : Thread) {d : Reg} (hd : Sys2Proof.pairOk d = true) {maj fn code : Nat} (hm : maj < 2 ^ 8) (hf : fn < 2 ^ 8)
    (hc : code < 2 ^ 8) (v w : Word) :
    ReportsPair t (t.reportPair d maj fn code v w) d maj fn code (if code = 0 then v else BitVec.ofInt 64 (-(code : Int)))
      (if code = 0 then w else 0) := by
  obtain ⟨heven, hne⟩ : d.toNat % 2 = 0 ∧ d.toNat ≠ 0 := by simpa [Sys2Proof.pairOk] using hd
  have hnext : (d + 1).toNat = d.toNat + 1 := by
    have := d.isLt
    have hone : (1 : Reg).toNat = 1 := rfl
    rw [BitVec.toNat_add, hone]
    omega
  have h0 : d ≠ 0 := fun e => hne (by rw [e]; rfl)
  have h1 : d + 1 ≠ 0 := fun e => by
    rw [e] at hnext
    exact absurd hnext (by simp)
  have hdiff : d ≠ d + 1 := fun e => by
    rw [← e] at hnext
    omega
  refine ⟨?_, ?_, ?_, ?_, fun r hr hr1 => ?_, ?_⟩
  · simp [Thread.reportPair, Thread.writePair]
  · simp [Thread.reportPair, Thread.writePair, tstatWord_eq_report hm hf hc]
  · rw [Thread.reportPair, Thread.reg_advance, Thread.writePair, Thread.reg_writeReg_other hdiff, Thread.reg_writeReg_same h0]
    rfl
  · rw [Thread.reportPair, Thread.reg_advance, Thread.writePair, Thread.reg_writeReg_same h1]
  · rw [Thread.reportPair, Thread.reg_advance, Thread.writePair, Thread.reg_writeReg_other hr1, Thread.reg_writeReg_other hr]
    rfl
  · simp [Thread.reportPair, Thread.writePair]

@[simp] theorem Thread.reportPair_id (t : Thread) (d : Reg) (maj fn code : Nat) (v w : Word) :
    (t.reportPair d maj fn code v w).id = t.id := by simp [Thread.reportPair, Thread.writePair]

end Sys2Proof.Machine
end

section
/-! SUPPORT. SWAPP (O18): its start, the members of a swap set, and what the exchange of planes leaves of them (R66, R345). -/

namespace Sys2Proof.Machine
open Sys2Proof.Claims

-- One after another: proofs elaborated at a time take a thread each, whose stacks are the most of the check's memory.
set_option Elab.async false

/-! ### The start of a swap -/

/-- A swap that is not accepted is reported in its step. -/
theorem exec_swapp_of_refused {s : State} {t : Thread} {d a : Reg} (h : Issues s t) (hmode : t.mode = .monitor) {code : Nat}
    (hcode : (if (t.reg a).toNat ≥ 2 ^ 16 then 1 else swapCode s ((t.reg a).toNat % 2 ^ 16)) = code) (hne : code ≠ 0) :
    exec (.swapp d a) s = .next (partResult (s.setThread (t.report d 0x30 4 code 0)) ((t.reg a).toNat % 2 ^ 16) code) := by
  change onCur s _ = _
  rw [onCur_issues h, if_neg (by simp [hmode])]
  simp only [hcode, if_neg hne]

@[simp] theorem partResult_threads (s : State) (asid result : Nat) : (partResult s asid result).threads = s.threads := by rw [partResult, State.updPkg]
@[simp] theorem partResult_parts (s : State) (asid result : Nat) : (partResult s asid result).parts = s.parts := by rw [partResult, State.updPkg]
@[simp] theorem partResult_mem (s : State) (asid result : Nat) : (partResult s asid result).mem = s.mem := by rw [partResult, State.updPkg]
@[simp] theorem partResult_places (s : State) (asid result : Nat) : (partResult s asid result).places = s.places := by rw [partResult, State.updPkg]

@[simp] theorem thread?_partResult (s : State) (asid result : Nat) (id : ThreadId) : (partResult s asid result).thread? id = s.thread? id :=
  thread?_congr (partResult_threads s asid result) id

@[simp] theorem partOf_partResult (s : State) (asid result a : Nat) : partOf (partResult s asid result) a = partOf s a :=
  partOf_congr (partResult_parts s asid result) a

/-- The report of a swap that is refused with a code. -/
theorem swapp_reports {s : State} {t : Thread} {d a : Reg} (h : Issues s t) (hmode : t.mode = .monitor) {code : Nat}
    (hcode : (if (t.reg a).toNat ≥ 2 ^ 16 then 1 else swapCode s ((t.reg a).toNat % 2 ^ 16)) = code) (hne : code ≠ 0)
    (hlt : code < 2 ^ 8) :
    ∃ s' u, exec (.swapp d a) s = .next s' ∧ s'.thread? t.id = some u ∧ Reports t u d 0x30 4 code 0 := by
  have hid : s.thread? t.id = some t := by
    rw [show t.id = s.cur from of_decide_eq_true (List.find?_some (p := fun u : Thread => decide (u.id = s.cur)) h)]
    exact h
  refine ⟨_, t.report d 0x30 4 code 0, exec_swapp_of_refused h hmode hcode hne, ?_, report_reports t d (by decide) (by decide) hlt 0⟩
  rw [thread?_partResult]
  have hput := thread?_setThread (u := t.report d 0x30 4 code 0) (by rw [Thread.report_id]; exact hid)
  rwa [Thread.report_id] at hput

theorem swappStarts : Claims.SwappStarts := by
  intro s t d a h hmode
  have told {code : Nat} {w : Word} (hcode : (if (t.reg a).toNat ≥ 2 ^ 16 then 1 else swapCode s ((t.reg a).toNat % 2 ^ 16)) = code)
      (hne : code ≠ 0) (hlt : code < 2 ^ 8) (hneg : (BitVec.ofInt 64 (-(code : Int))).toInt = -(code : Int)) (hw : report 0x30 4 code = w) :
      ∃ s' u, exec (.swapp d a) s = .next s' ∧ s'.thread? t.id = some u ∧ (d ≠ 0 → (u.reg d).toInt = -(code : Int)) ∧ u.pc = t.pc + 4 ∧
        u.tstat = w := by
    obtain ⟨s', u, hexec, hu, hpc, htstat, hreg, -⟩ := swapp_reports h hmode hcode hne hlt
    exact ⟨s', u, hexec, hu, fun hd => by rw [hreg hd, if_neg hne, hneg], hpc, htstat.trans hw⟩
  refine ⟨fun hbig => ?big, fun hlt hnone => ?none, fun hlt hok => ?accepted⟩
  case big => exact told (code := 1) (if_pos hbig) (by decide) (by decide) (by decide) (by decide)
  case none =>
    refine told (code := 3) ?_ (by decide) (by decide) (by decide) (by decide)
    rw [if_neg (by omega), Nat.mod_eq_of_lt hlt, swapCode, hnone]
  case accepted =>
    change onCur s _ = _
    rw [onCur_issues h, if_neg (by simp [hmode])]
    simp only [Nat.mod_eq_of_lt hlt, if_neg (Nat.not_le.mpr hlt), hok, if_true]

/-! ### The members of a swap set -/

/-- A swap set is made of its first members and of some of the rest, none of them twice. -/
theorem swapSet_perm : ∀ (k : Nat) (l rest : List Partition), ∃ out, (swapSet k l rest ++ out).Perm (l ++ rest)
  | 0, l, rest => ⟨rest, .refl _⟩
  | k + 1, l, rest => by
    rw [swapSet]
    let meets (q : Partition) : Bool := l.any (fun p => p.meets q)
    split
    · exact ⟨rest, .refl _⟩
    · obtain ⟨out, hout⟩ := swapSet_perm k (l ++ rest.filter meets) (rest.filter (fun q => !(rest.filter meets).contains q))
      have hrest : rest.filter (fun q => !(rest.filter meets).contains q) = rest.filter (fun q => !meets q) :=
        List.filter_congr fun q hq => by simp [hq]
      refine ⟨out, hout.trans ?_⟩
      rw [hrest, List.append_assoc]
      exact (List.filter_append_perm meets rest).append_left l

section
variable {s : State} {p : Partition} (hnodup : (s.parts.map (fun q => q.asid)).Nodup) (hp : partOf s p.asid = some p)
include hnodup hp

/-- The members of a swap set are partitions of the package, each with an ASID of its own. -/
theorem swapSetOf_members : ((swapSetOf s p).map (fun q => q.asid)).Nodup ∧ ∀ q ∈ swapSetOf s p, partOf s q.asid = some q := by
  let placed := s.parts.filter (fun q => q.st ≠ .drained && q.asid ≠ p.asid)
  obtain ⟨out, hperm⟩ := swapSet_perm placed.length [p] placed
  have hall : (([p] ++ placed).map (fun q => q.asid)).Nodup := by
    refine List.nodup_cons.mpr ⟨fun hin => ?_, (List.filter_sublist.map _).nodup hnodup⟩
    obtain ⟨q, hq, hasid⟩ := List.mem_map.mp hin
    have hother := (List.mem_filter.mp hq).2
    simp [hasid] at hother
  refine ⟨?_, fun q hq => ?_⟩
  · have hboth := (hperm.map (fun q => q.asid)).nodup_iff.mpr hall
    rw [List.map_append] at hboth
    exact hboth.of_append_left
  · rcases List.mem_append.mp (hperm.mem_iff.mp (List.mem_append_left out hq)) with h | h
    · rw [List.mem_singleton.mp h]
      exact hp
    · exact partOf_of_mem hnodup (List.mem_filter.mp h).1

end

/-! ### The exchange of planes -/

/-- A HALTED member leaves the active planes, and a STORED one comes back into them: the two passes of the exchange. -/
def swapOut (s : State) (p : Partition) : State := if p.st = .halted then swapOne s p else s
def swapIn (s : State) (p : Partition) : State := if p.st = .stored then swapOne s p else s

theorem swapOut_of_halted {s : State} {p : Partition} (h : p.st = .halted) : swapOut s p =
    { s with threads := s.threads.filter (fun t => !(!t.id.isSys && t.asid = p.asid)) }.updPart p.asid (fun q =>
      { q with st := .stored, parked := q.parked ++ s.threads.filter (fun (t : Thread) => !t.id.isSys && t.asid = p.asid) }) := by
  rw [swapOut, if_pos h, swapOne, h]

theorem swapIn_of_stored {s : State} {p : Partition} (h : p.st = .stored) : swapIn s p =
    { s with threads := s.threads ++ p.parked }.updPart p.asid (fun q => { q with st := .halted, parked := [] }) := by
  rw [swapIn, if_pos h, swapOne, h]

/-- Nothing but threads and partitions takes part in the exchange. -/
theorem swapOut_mem (s : State) (p : Partition) : (swapOut s p).mem = s.mem := by
  unfold swapOut swapOne
  split
  · split <;> rfl
  · rfl

theorem swapIn_mem (s : State) (p : Partition) : (swapIn s p).mem = s.mem := by
  unfold swapIn swapOne
  split
  · split <;> rfl
  · rfl

theorem foldl_keeps {α β : Type} {f : State → α → State} {g : State → β} (hf : ∀ s x, g (f s x) = g s) (l : List α) (s : State) :
    g (l.foldl f s) = g s :=
  List.foldlRecOn (motive := fun x => g x = g s) l f rfl fun x hx a _ => (hf x a).trans hx

theorem swapOut_sysThread {s : State} {p : Partition} {id : ThreadId} (hsys : id.isSys = true) : (swapOut s p).thread? id = s.thread? id := by
  by_cases h : p.st = .halted
  · rw [swapOut_of_halted h, State.thread?, State.updPart_threads, List.find?_filter, State.thread?]
    congr 1
    funext u
    by_cases hu : u.id = id <;> simp [hu, hsys]
  · rw [swapOut, if_neg h]

theorem swapIn_sysThread {s : State} {p : Partition} {id : ThreadId} {t : Thread} (ht : s.thread? id = some t) :
    (swapIn s p).thread? id = some t := by
  by_cases h : p.st = .stored
  · rw [swapIn_of_stored h, State.thread?, State.updPart_threads, List.find?_append, show s.threads.find? _ = some t from ht]
    rfl
  · rwa [swapIn, if_neg h]

/-- A partition is as it was unless it is the HALTED one that leaves. -/
theorem swapOut_partOf {s : State} {p : Partition} {a : Nat} (h : p.asid = a → p.st ≠ .halted) : partOf (swapOut s p) a = partOf s a := by
  by_cases hst : p.st = .halted
  · rw [swapOut_of_halted hst, partOf_updPart_other (by exact fun _ => rfl) (fun e => h e.symm hst)]
    rfl
  · rw [swapOut, if_neg hst]

theorem swapIn_partOf {s : State} {p : Partition} {a : Nat} (h : p.asid = a → p.st ≠ .stored) : partOf (swapIn s p) a = partOf s a := by
  by_cases hst : p.st = .stored
  · rw [swapIn_of_stored hst, partOf_updPart_other (by exact fun _ => rfl) (fun e => h e.symm hst)]
    rfl
  · rw [swapIn, if_neg hst]

/-- A launch thread of another partition stays. -/
theorem mem_threads_swapOut {s : State} {p : Partition} {u : Thread} (hu : u ∈ s.threads) (h : u.asid ≠ p.asid) : u ∈ (swapOut s p).threads := by
  by_cases hst : p.st = .halted
  · rw [swapOut_of_halted hst]
    exact List.mem_filter.mpr ⟨hu, by simp [h]⟩
  · rwa [swapOut, if_neg hst]

theorem mem_threads_swapIn {s : State} {p : Partition} {u : Thread} (hu : u ∈ s.threads) : u ∈ (swapIn s p).threads := by
  by_cases hst : p.st = .stored
  · rw [swapIn_of_stored hst]
    exact List.mem_append_left _ hu
  · rwa [swapIn, if_neg hst]

theorem foldl_swapOut_partOf {a : Nat} : ∀ {l : List Partition} {s : State}, (∀ p ∈ l, p.asid = a → p.st ≠ .halted) →
    partOf (l.foldl swapOut s) a = partOf s a
  | [], _, _ => rfl
  | p :: l, s, h => by
    rw [List.foldl_cons, foldl_swapOut_partOf (fun q hq => h q (List.mem_cons_of_mem p hq)), swapOut_partOf (h p List.mem_cons_self)]

theorem foldl_swapIn_partOf {a : Nat} : ∀ {l : List Partition} {s : State}, (∀ p ∈ l, p.asid = a → p.st ≠ .stored) →
    partOf (l.foldl swapIn s) a = partOf s a
  | [], _, _ => rfl
  | p :: l, s, h => by
    rw [List.foldl_cons, foldl_swapIn_partOf (fun q hq => h q (List.mem_cons_of_mem p hq)), swapIn_partOf (h p List.mem_cons_self)]

/-- The members of a list with ASIDs of their own: behind the first, none has its ASID. -/
theorem asid_ne_of_nodup_cons {p : Partition} {l : List Partition} (h : ((p :: l).map (fun q => q.asid)).Nodup) {q : Partition} (hq : q ∈ l) :
    q.asid ≠ p.asid := fun e => (List.nodup_cons.mp h).1 (List.mem_map.mpr ⟨q, hq, e⟩)

/-- A HALTED member is STORED after the first pass, with its launch threads parked. -/
theorem foldl_swapOut_stores {l : List Partition} {s : State} {q x : Partition} (hnodup : (l.map (fun p => p.asid)).Nodup) (hq : q ∈ l)
    (hst : q.st = .halted) (hx : partOf s q.asid = some x) : ∃ x', partOf (l.foldl swapOut s) q.asid = some x' ∧ x'.st = .stored ∧
      ∀ u ∈ s.threads, u.id.isSys = false → u.asid = q.asid → u ∈ x'.parked := by
  induction l generalizing s with
  | nil => cases hq
  | cons p l ih =>
    rw [List.foldl_cons]
    rcases List.mem_cons.mp hq with rfl | hq
    · have hafter : partOf (swapOut s q) q.asid = some { x with
          st := .stored, parked := x.parked ++ s.threads.filter (fun (t : Thread) => !t.id.isSys && t.asid = q.asid) } := by
        rw [swapOut_of_halted hst]
        exact partOf_updPart (by exact fun _ => rfl) hx
      refine ⟨_, (foldl_swapOut_partOf fun p hp e => absurd e (asid_ne_of_nodup_cons hnodup hp)).trans hafter, rfl, fun u hu hctl hasid => ?_⟩
      exact List.mem_append_right _ (List.mem_filter.mpr ⟨hu, by simp [hctl, hasid]⟩)
    · have hne := asid_ne_of_nodup_cons hnodup hq
      obtain ⟨x', hx', hst', hparked⟩ := ih (List.nodup_cons.mp hnodup).2 hq
        ((swapOut_partOf fun e => absurd e.symm hne).trans hx)
      exact ⟨x', hx', hst', fun u hu hctl hasid => hparked u (mem_threads_swapOut hu (by rw [hasid]; exact hne)) hctl hasid⟩

theorem mem_threads_foldl_swapIn {u : Thread} (l : List Partition) {s : State} (hu : u ∈ s.threads) : u ∈ (l.foldl swapIn s).threads :=
  List.foldlRecOn (motive := fun x => u ∈ x.threads) l swapIn hu fun _ hx _ _ => mem_threads_swapIn hx

/-- A STORED member is HALTED after the second pass, with nothing parked and its threads back. -/
theorem foldl_swapIn_halts {l : List Partition} {s : State} {q x : Partition} (hnodup : (l.map (fun p => p.asid)).Nodup) (hq : q ∈ l)
    (hst : q.st = .stored) (hx : partOf s q.asid = some x) : ∃ x', partOf (l.foldl swapIn s) q.asid = some x' ∧ x'.st = .halted ∧
      x'.parked = [] ∧ ∀ u ∈ q.parked, u ∈ (l.foldl swapIn s).threads := by
  induction l generalizing s with
  | nil => cases hq
  | cons p l ih =>
    rw [List.foldl_cons]
    rcases List.mem_cons.mp hq with rfl | hq
    · have hafter : partOf (swapIn s q) q.asid = some { x with st := .halted, parked := [] } := by
        rw [swapIn_of_stored hst]
        exact partOf_updPart (by exact fun _ => rfl) hx
      refine ⟨_, (foldl_swapIn_partOf fun p hp e => absurd e (asid_ne_of_nodup_cons hnodup hp)).trans hafter, rfl, rfl, fun u hu => ?_⟩
      refine mem_threads_foldl_swapIn l ?_
      rw [swapIn_of_stored hst]
      exact List.mem_append_right _ hu
    · exact ih (List.nodup_cons.mp hnodup).2 hq
        ((swapIn_partOf fun e => absurd e.symm (asid_ne_of_nodup_cons hnodup hq)).trans hx)

/-! ### The end of a swap -/

/-- The set a swap exchanges: that of its partition, or nothing. -/
def swapMembers (s : State) (asid : Nat) : List Partition := match partOf s asid with | some p => swapSetOf s p | none => []

/-- The planes once a swap has ended with a result. -/
def swapped (s : State) (asid : Nat) : State :=
  if swapCode s asid = 0 then (swapMembers s asid).foldl swapIn ((swapMembers s asid).foldl swapOut s) else s

theorem exec_swapPlanesDone {s : State} {t : Thread} {asid due : Nat} {d : Reg} (ht : s.thread? t.id = some t) (hwait : t.wait = .swapp asid due d)
    (hdue : due ≤ s.cycle) : exec (.swapPlanesDone t.id) s =
      .next (partResult ((swapped s asid).updThread t.id (fun u => u.report d 0x30 4 (swapCode s asid) 0)) asid (swapCode s asid)) := by
  change execSwapPlanesDone t.id s = _
  simp only [execSwapPlanesDone, ht, hwait, if_neg (Nat.not_lt.mpr hdue), swapped]
  split <;> rfl

theorem swapCode_lt (s : State) (asid : Nat) : swapCode s asid < 2 ^ 8 := by
  unfold swapCode
  split
  · decide
  · simp only
    split <;> decide

theorem swapped_sysThread {s : State} {asid : Nat} {id : ThreadId} {t : Thread} (hsys : id.isSys = true) (ht : s.thread? id = some t) :
    (swapped s asid).thread? id = some t := by
  unfold swapped
  split
  · refine List.foldlRecOn (motive := fun x => x.thread? id = some t) _ swapIn ?_ fun _ hx _ _ => swapIn_sysThread hx
    exact (foldl_keeps (g := fun x => x.thread? id) (fun _ _ => swapOut_sysThread hsys) _ s).trans ht
  · exact ht

theorem swapped_mem (s : State) (asid : Nat) : (swapped s asid).mem = s.mem := by
  unfold swapped
  split
  · rw [foldl_keeps (g := State.mem) swapIn_mem, foldl_keeps (g := State.mem) swapOut_mem]
  · rfl

section
variable {s : State} {p : Partition} (hcode : swapCode s p.asid = 0) (hnodup : (s.parts.map (fun q => q.asid)).Nodup)
  (hp : partOf s p.asid = some p)
include hcode hp

/-- The exchange of the planes of a set, by the two passes over its members. -/
theorem swapped_of_ok : swapped s p.asid = (swapSetOf s p).foldl swapIn ((swapSetOf s p).foldl swapOut s) := by
  rw [swapped, if_pos hcode, swapMembers, hp]

/-- Every member of a set whose swap is OK is HALTED or STORED. -/
theorem atRest_of_swapCode {q : Partition} (hq : q ∈ swapSetOf s p) : q.st = .halted ∨ q.st = .stored := by
  rw [swapCode, hp] at hcode
  simp only at hcode
  split at hcode
  next hok =>
    simp only [Bool.and_eq_true, List.all_eq_true, decide_eq_true_eq, Bool.or_eq_true] at hok
    obtain ⟨⟨-, hall⟩, -⟩ := hok
    exact hall q hq
  · cases hcode

include hnodup

theorem swapped_halted {q : Partition} (hq : q ∈ swapSetOf s p) (hst : q.st = .halted) :
    ∃ q', partOf (swapped s p.asid) q.asid = some q' ∧ q'.st = .stored ∧
      ∀ u ∈ s.threads, u.id.isSys = false → u.asid = q.asid → u ∈ q'.parked := by
  obtain ⟨hset, hfound⟩ := swapSetOf_members hnodup hp
  rw [swapped_of_ok hcode hp, foldl_swapIn_partOf]
  · exact foldl_swapOut_stores hset hq hst (hfound q hq)
  · rintro r hr hasid hstored
    rw [List.inj_on_of_nodup_map hset hr hq hasid, hst] at hstored
    cases hstored

theorem swapped_stored {q : Partition} (hq : q ∈ swapSetOf s p) (hst : q.st = .stored) :
    ∃ q', partOf (swapped s p.asid) q.asid = some q' ∧ q'.st = .halted ∧ q'.parked = [] ∧ ∀ u ∈ q.parked, u ∈ (swapped s p.asid).threads := by
  obtain ⟨hset, hfound⟩ := swapSetOf_members hnodup hp
  rw [swapped_of_ok hcode hp]
  refine foldl_swapIn_halts hset hq hst ((foldl_swapOut_partOf fun r hr hasid hhalted => ?_).trans (hfound q hq))
  rw [List.inj_on_of_nodup_map hset hr hq hasid, hst] at hhalted
  cases hhalted

end

theorem swapCompletes : Claims.SwapCompletes := by
  intro s t asid due d ht hsys hwait hdue
  refine ⟨_, exec_swapPlanesDone ht hwait hdue, ?report, (partResult_mem ..).trans (swapped_mem s asid),
    fun hne => ⟨?parts, fun id hid => ?others⟩, fun p hok hnodup hp q hq => ?ok⟩
  case report =>
    refine ⟨_, ?_, report_reports t d (by decide) (by decide) (swapCode_lt s asid) 0⟩
    rw [thread?_partResult]
    exact thread?_updThread (fun u => Thread.report_id u ..) (swapped_sysThread hsys ht)
  case parts => simp [swapped, hne]
  case others =>
    rw [thread?_partResult, thread?_updThread_other (fun u => Thread.report_id u ..) hid, swapped, if_neg hne]
  case ok =>
    obtain rfl := asid_of_partOf hp
    rcases atRest_of_swapCode hok hp hq with hst | hst
    · obtain ⟨q', hq', hst', hparked⟩ := swapped_halted hok hnodup hp hq hst
      exact ⟨q', by rwa [partOf_partResult], fun _ => ⟨hst', hparked⟩, fun h => (by rw [hst] at h; cases h)⟩
    · obtain ⟨q', hq', hst', hparked, hback⟩ := swapped_stored hok hnodup hp hq hst
      refine ⟨q', by rwa [partOf_partResult], fun h => (by rw [hst] at h; cases h), fun _ => ⟨hst', hparked, fun u hu hctl => ?_⟩⟩
      rw [partResult_threads]
      refine List.mem_map.mpr ⟨u, hback u hu, if_neg ?_⟩
      simp only [decide_eq_true_eq]
      rintro e
      rw [e, hsys] at hctl
      cases hctl

/-- Settles O18: a swap's start in its four cases, and its end by the two passes over the swap set, whose members are at rest and
have ASIDs of their own. -/
theorem swapPartition : Obligations.SwapPartition := ⟨swappStarts, swapCompletes⟩

end Sys2Proof.Machine
end

section
/-! SUPPORT. LAUNCH and LWAIT (O22): the entry a launch record makes, and what LWAIT gives of it (R67-R71, R322). -/

namespace Sys2Proof.Machine
open Sys2Proof.Claims

-- One after another: proofs elaborated at a time take a thread each, whose stacks are the most of the check's memory.
set_option Elab.async false

/-! ### What these instructions do first -/

/-- A thread with nothing buffered and no imprecise error goes through a synchronising point as it stands (R314). -/
theorem syncPoint_of_clear {s : State} {t : Thread} (himp : t.imp = []) (hbuf : t.stbuf = []) (k : State → Thread → State) :
    syncPoint s t k = k (s.setThread t) t := by
  have hself : ({ t with stbuf := [] } : Thread) = t := by rw [← hbuf]
  rw [syncPoint]
  split
  next e _ he => simp [himp] at he
  next => simp only [hbuf, drainList, hself]

theorem acquireAt_eq (s : State) (t : Thread) (sc : Nat) : acquireAt s t sc = { s with slices := (acquireAt s t sc).slices } := by
  unfold acquireAt flashInvalidate
  split
  · split <;> rfl
  · rfl

@[simp] theorem acquireAt_parts (s : State) (t : Thread) (sc : Nat) : (acquireAt s t sc).parts = s.parts := by rw [acquireAt_eq]
@[simp] theorem acquireAt_threads (s : State) (t : Thread) (sc : Nat) : (acquireAt s t sc).threads = s.threads := by rw [acquireAt_eq]

theorem id_of_issues {s : State} {t : Thread} (h : Issues s t) : s.thread? t.id = some t := by
  rw [show t.id = s.cur from of_decide_eq_true (List.find?_some (p := fun u : Thread => decide (u.id = s.cur)) h)]
  exact h

/-! ### Slots and launch IDs (R68) -/

theorem freeSlot_spec {p : Partition} {slot : Nat} : ∀ {k i : Nat}, p.freeSlot k i = some slot → p.task? slot = none ∧ slot < i + k
  | k + 1, i, h => by
    rw [Partition.freeSlot] at h
    split at h
    · obtain ⟨hnone, hlt⟩ := freeSlot_spec h
      exact ⟨hnone, by omega⟩
    next hfree =>
      cases h
      exact ⟨by simpa using hfree, by omega⟩

theorem slot_ne_of_task?_none {p : Partition} {slot : Nat} (h : p.task? slot = none) {e : TgEntry} (he : e ∈ p.tasks) : e.slot ≠ slot := by
  simpa using List.find?_eq_none.mp h e he

/-- A launch ID within a partition's slots names its slot. -/
theorem slot_of_lidOf {g g' slot slot' : Nat} (h : slot < 4096) (h' : slot' < 4096) (e : lidOf g slot = lidOf g' slot') : slot = slot' := by
  unfold lidOf at e
  omega

theorem lidOf_lt {g slot : Nat} (h : slot < 4096) : lidOf g slot / 2 ^ 28 = 0 := by
  unfold lidOf
  omega

/-! ### The entry of a record (R67, R70, R71, R75) -/

/-- The READY entry of a record without predecessors. -/
def readyEntry (r : LaunchRec) (slot gen : Nat) (who : Option ThreadId) (qseq now : Nat) : TgEntry :=
  { newEntry r slot gen who [] with st := .ready, qseq := qseq, readyAt := now, joined := now }

/-- The partition with that entry, which counts in its scope's WORK. -/
def entered (p : Partition) (r : LaunchRec) (slot : Nat) (who : Option ThreadId) (now : Nat) : Partition :=
  { p.workUp r.scope with tasks := p.tasks ++ [readyEntry r slot (p.gen slot) who p.qseq now], silent := now, qseq := p.qseq + 1 }

/-- An entry without predecessors that has just been made goes to the ready queue of its priority. -/
theorem settle_newEntry {p : Partition} {r : LaunchRec} {slot : Nat} {who : Option ThreadId} (now : Nat) (hnpred : r.npred = 0)
    (hfree : p.task? slot = none) :
    ({ p.workUp r.scope with tasks := p.tasks ++ [newEntry r slot (p.gen slot) who []], silent := now } : Partition).settle slot now =
      entered p r slot who now := by
  let e := newEntry r slot (p.gen slot) who []
  let q : Partition := { p.workUp r.scope with tasks := p.tasks ++ [e], silent := now }
  have hfound : q.task? slot = some e := by
    rw [Partition.task?, List.find?_append, show p.tasks.find? _ = none from hfree]
    exact List.find?_cons_of_pos (l := []) (a := e) (p := fun x : TgEntry => decide (x.slot = slot)) (by simp [e, newEntry])
  have hpreds : e.preds = [] := by simp [e, newEntry, hnpred]
  have hold (f : TgEntry → TgEntry) : updBy (fun x => x.slot = slot) f p.tasks = p.tasks := by
    refine (List.map_congr_left fun x hx => if_neg ?_).trans (List.map_id _)
    simpa using slot_ne_of_task?_none hfree hx
  have hnew (f : TgEntry → TgEntry) : updBy (fun x => x.slot = slot) f q.tasks = p.tasks ++ [f e] := by
    rw [show q.tasks = p.tasks ++ [e] from rfl, updBy, List.map_append, show p.tasks.map _ = p.tasks from hold f]
    simp [e, newEntry]
  change q.settle slot now = _
  rw [Partition.settle, hfound]
  simp only [hpreds, List.any_nil, Bool.false_eq_true, if_false]
  rw [if_neg (by simp [e, newEntry]), Partition.enqueue, Partition.updTask]
  simp only [hnew]
  rfl

theorem createEntry_of_noPreds {s : State} {asid : Nat} {p : Partition} {r : LaunchRec} {slot : Nat} (who : Option ThreadId)
    (hnpred : r.npred = 0) (hfree : p.task? slot = none) (hp : partOf s asid = some p) :
    partOf (createEntry s asid p r slot who) asid = some (entered p r slot who s.cycle) ∧ (createEntry s asid p r slot who).threads = s.threads := by
  obtain rfl := asid_of_partOf hp
  let q : Partition := { p.workUp r.scope with tasks := p.tasks ++ [newEntry r slot (p.gen slot) who []] }
  have hcreate : createEntry s p.asid p r slot who =
      (stir (s.setPart q) p.asid).updPart p.asid (fun x => x.settle slot s.cycle) := by
    simp only [createEntry, hnpred, List.range_zero, List.map_nil, List.any_nil, Bool.false_eq_true, if_false]
    rfl
  have hset : partOf (s.setPart q) p.asid = some q := partOf_setPart (p := q) hp
  have hsettle (x : Partition) : (x.settle slot s.cycle).asid = x.asid := by
    unfold Partition.settle Partition.enqueue Partition.updTask
    split
    · rfl
    · split_ifs <;> rfl
  refine ⟨?_, by rw [hcreate, State.updPart_threads, stir]; rfl⟩
  rw [hcreate, partOf_updPart hsettle (partOf_stir hset)]
  exact congrArg some (settle_newEntry s.cycle hnpred hfree)

/-! ### LAUNCH -/

section
variable {s s1 : State} {t : Thread} {p : Partition} {d a : Reg} {bs : List Byte} {slot : Nat} (himp : t.imp = []) (hbuf : t.stbuf = [])
  (h : Issues s t)
include himp hbuf h

theorem exec_launch_of_read (halign : (t.reg a).toNat % 8 = 0) (hread : readWords t 8 (s.setThread t) (t.reg a).toNat = .ok s1 bs) :
    exec (.launch d a) s = .next (launchDone d t s1 (some bs)) := by
  change onCur s _ = _
  rw [onCur_issues h, syncPoint_of_clear himp hbuf]
  simp only [halign, ne_eq, not_true_eq_false, if_false, hread]

theorem exec_launch_of_misaligned (halign : (t.reg a).toNat % 8 ≠ 0) : exec (.launch d a) s = .next (launchDone d t (s.setThread t) none) := by
  change onCur s _ = _
  rw [onCur_issues h, syncPoint_of_clear himp hbuf]
  simp only [if_pos halign]

end

theorem launchWith_of_record {s : State} {asid : Nat} {p : Partition} {bs : List Byte} {slot : Nat} (who : Option ThreadId)
    (hp : partOf s asid = some p) (hrun : p.st = .running) (hplain : bitsOf (launchRec bs).ctl 5 1 = 0) (hok : (launchRec bs).ok s p = true)
    (hlive : p.scopeCancelled (launchRec bs).scope = false) (hslot : p.freeSlot 4096 0 = some slot) :
    launchWith s asid who (some bs) = (createEntry s asid p (launchRec bs) slot who, 0, lidOf (p.gen slot) slot) := by
  simp [launchWith, hp, hrun, hplain, hok, hlive, hslot]

/-- The entry just made is READY, and is the one its ID names. -/
theorem stateCode_entered {s : State} {asid : Nat} {p : Partition} {r : LaunchRec} {slot now : Nat} {who : Option ThreadId}
    (hp : partOf s asid = some (entered p r slot who now)) (hfree : p.task? slot = none) (hlt : slot < 4096) (hslots : ∀ e ∈ p.tasks, e.slot < 4096) :
    stateCode s asid (lidOf (p.gen slot) slot) = 2 := by
  have hother : p.tasks.find? (fun e => lidOf e.gen e.slot = lidOf (p.gen slot) slot) = none := List.find?_eq_none.mpr fun e he => by
    simpa using fun heq => slot_ne_of_task?_none hfree he (slot_of_lidOf (hslots e he) hlt heq)
  have hnamed : (entered p r slot who now).launch? (lidOf (p.gen slot) slot) = some (readyEntry r slot (p.gen slot) who p.qseq now) := by
    rw [Partition.launch?, if_neg (by rw [lidOf_lt hlt]; decide)]
    rw [show (entered p r slot who now).tasks = p.tasks ++ [readyEntry r slot (p.gen slot) who p.qseq now] from rfl, List.find?_append, hother]
    exact List.find?_cons_of_pos (l := []) (a := readyEntry r slot (p.gen slot) who p.qseq now)
      (p := fun x : TgEntry => decide (lidOf x.gen x.slot = lidOf (p.gen slot) slot)) (by simp [readyEntry, newEntry])
  rw [stateCode, hp, Option.bind_some, hnamed]
  rfl

theorem launchCreates : Claims.LaunchCreates := by
  intro s s1 t p d a bs slot h himp hbuf hpair hp
  refine ⟨fun halign hread hp1 ht1 hrun => ?creates, fun halign hrun => ?misaligned⟩
  case creates =>
    intro r hplain hok hnpred hlive hslot hslots lid
    obtain ⟨hfree, hlt⟩ := freeSlot_spec hslot
    obtain ⟨hpart, hthreads⟩ := createEntry_of_noPreds (some t.id) hnpred hfree hp1
    have hcode : stateCode (createEntry s1 t.asid p (launchRec bs) slot (some t.id)) t.asid (lidOf (p.gen slot) slot) = 2 :=
      stateCode_entered hpart hfree (by omega) hslots
    refine ⟨_, t.reportPair d 0x2E 0 0 (BitVec.ofNat 64 lid) 2, exec_launch_of_read himp hbuf h halign hread, ?_,
      reportPair_reports t hpair (by decide) (by decide) (by decide) (BitVec.ofNat 64 lid) 2,
      entered p r slot (some t.id) s1.cycle, readyEntry r slot (p.gen slot) (some t.id) p.qseq s1.cycle, ?_, rfl, rfl, rfl, rfl, rfl, rfl, rfl, rfl,
      rfl, rfl, ?_, rfl, rfl⟩
    · rw [launchDone, launchWith_of_record (some t.id) hp1 hrun hplain hok hlive hslot]
      simp only [hcode]
      exact thread?_updThread (f := fun u => u.reportPair d 0x2E 0 0 (BitVec.ofNat 64 lid) 2) (fun u => Thread.reportPair_id u ..)
        ((thread?_congr hthreads t.id).trans ht1)
    · rw [launchDone, launchWith_of_record (some t.id) hp1 hrun hplain hok hlive hslot]
      exact hpart
    · simpa [newEntry, readyEntry] using hnpred
  case misaligned =>
    have hwith : launchWith (s.setThread t) t.asid (some t.id) none = (s.setThread t, 3, 0) := by
      simp [launchWith, hp, hrun]
    refine ⟨_, _, exec_launch_of_misaligned himp hbuf h halign, ?_, reportPair_reports t hpair (by decide) (by decide) (by decide) 0
      (BitVec.ofNat 64 (stateCode (s.setThread t) t.asid 0)), ?_⟩
    · rw [launchDone, hwith]
      exact thread?_updThread (fun u => Thread.reportPair_id u ..) (thread?_setThread (id_of_issues h))
    · rw [launchDone, hwith]
      obtain hasid := asid_of_partOf hp
      exact ⟨by rw [hasid]; exact hp, rfl, rfl⟩

/-! ### LWAIT -/

/-- A thread that begins to wait, or goes on waiting, changes no memory and no slice. -/
theorem waits_of_waitIn {s : State} {t : Thread} {i : Instr} {w : Wait} (h : Issues s t) (hexec : exec i s = .next (waitIn s t w)) :
    Waits s t i w := by
  refine ⟨_, hexec, ?_⟩
  unfold waitIn
  split
  next hw =>
    refine ⟨?_, rfl, rfl⟩
    rw [← hw]
    exact thread?_setThread (id_of_issues h)
  · exact ⟨thread?_setThread (u := { t with wait := w }) (id_of_issues (t := t) h), rfl, rfl⟩

theorem gen_putBy (p : Partition) (slot g : Nat) : ({ p with gens := putBy (fun x => x.1 = slot) (slot, g) p.gens } : Partition).gen slot = g := by
  simp only [Partition.gen]
  rw [find?_putBy (by simp)]

theorem lwaitReaps : Claims.LwaitReaps := by
  intro s t p d a e h hp hwait hlt
  have hlid : (t.reg a).toNat % 2 ^ 32 = (t.reg a).toNat := Nat.mod_eq_of_lt (by omega)
  have hexec : exec (.lwait d a) s = _ := onCur_issues h
  simp only [hlid, if_neg hwait, hp, Option.bind_some] at hexec
  refine ⟨fun hnamed => ⟨fun hst => ?complete, fun hst => ?waits⟩, fun hnone => ?stale⟩
  case complete =>
    simp only [hnamed, if_pos hst] at hexec
    let reaped (p : Partition) : Partition :=
      { p with tasks := p.tasks.filter (fun x => x.slot ≠ e.slot), gens := putBy (fun x => x.1 = e.slot) (e.slot, (e.gen + 1) % 2 ^ 16) p.gens }
    refine ⟨_, t.report d 0x2E 1 0 (BitVec.ofNat 64 (e.status + 256 * e.verdict)), reaped p, hexec, ?_, report_reports t d (by decide) (by decide) (by decide) _,
      ?_, rfl, gen_putBy p e.slot _⟩
    · have hput := thread?_setThread (u := t.report d 0x2E 1 0 (BitVec.ofNat 64 (e.status + 256 * e.verdict)))
        (s := (acquireAt s t 3).updPart t.asid reaped) (by
          rw [Thread.report_id]
          exact (thread?_congr (acquireAt_threads s t 3) t.id).trans (id_of_issues h))
      rwa [Thread.report_id] at hput
    · rw [partOf_setThread]
      exact partOf_updPart (f := reaped) (fun _ => rfl) ((partOf_congr (acquireAt_parts s t 3) t.asid).trans hp)
  case waits =>
    simp only [hnamed, if_neg hst] at hexec
    exact waits_of_waitIn h hexec
  case stale =>
    simp only [hnone] at hexec
    refine ⟨_, t.report d 0x2E 1 8 0, hexec, ?_, report_reports t d (by decide) (by decide) (by decide) 0, ?_, rfl, rfl⟩
    · have hput := thread?_setThread (u := t.report d 0x2E 1 8 0) (by rw [Thread.report_id]; exact id_of_issues h)
      rwa [Thread.report_id] at hput
    · rw [partOf_setThread, asid_of_partOf hp]
      exact hp

/-- Settles O22: the entry a record without predecessors makes, by `createEntry` and `settle`; the misaligned record; and LWAIT by the
entry its ID names. -/
theorem launchAndLwait : Obligations.LaunchAndLwait := ⟨launchCreates, lwaitReaps⟩

end Sys2Proof.Machine
end

section
/-! SUPPORT. The block schedule and the context switch (O45): which block a region chooses (R80, R81, R331), and the sites it then runs on (R82,
R130). -/

namespace Sys2Proof.Machine
open Sys2Proof.Claims

-- One after another: proofs elaborated at a time take a thread each, whose stacks are the most of the check's memory.
set_option Elab.async false

/-! ### The longest WAIT (R80, R81) -/

/-- One comparison of the choice by WAIT: a longer one displaces what was found. -/
def Place.longer (p : Place) (found : Option Nat) (b : Nat) : Option Nat :=
  if p.waitOf b = 0 then found
  else match found with
    | none => some b
    | some c => if p.waitOf b > p.waitOf c then some b else found

theorem Place.choice_eq (p : Place) :
    p.choice = match p.blocks.find? (fun b => p.passc.getD b 0 = 16) with | some b => some b | none => p.blocks.foldl p.longer none := rfl

theorem Place.longer_none {p : Place} {b : Nat} (h : 0 < p.waitOf b) : p.longer none b = some b := if_neg (Nat.ne_of_gt h)

theorem Place.longer_of_lt {p : Place} {b c : Nat} (h : p.waitOf c < p.waitOf b) : p.longer (some c) b = some b :=
  (if_neg (by omega)).trans (if_pos h)

theorem Place.longer_of_le {p : Place} {b c : Nat} (h : p.waitOf b ≤ p.waitOf c) : p.longer (some c) b = some c := by
  unfold Place.longer
  split
  · rfl
  · exact if_neg (by omega)

/-- What the comparisons find was there before or is one of the blocks compared. -/
theorem foldl_longer_mem {p : Place} {l : List Nat} {a : Option Nat} {c : Nat} (h : l.foldl p.longer a = some c) : a = some c ∨ c ∈ l := by
  induction l generalizing a with
  | nil => exact .inl h
  | cons b l ih =>
    rcases ih h with hb | hl
    · unfold Place.longer at hb
      split at hb
      · exact .inl hb
      · cases a with
        | none => exact .inr (by cases hb; exact .head l)
        | some d =>
          simp only at hb
          split at hb
          · exact .inr (by cases hb; exact .head l)
          · exact .inl hb
    · exact .inr (.tail b hl)

/-- No block of a smaller or equal WAIT displaces the one found. -/
theorem foldl_longer_keeps {p : Place} {l : List Nat} {b : Nat} (h : ∀ c ∈ l, p.waitOf c ≤ p.waitOf b) : l.foldl p.longer (some b) = some b := by
  induction l with
  | nil => rfl
  | cons c l ih =>
    rw [List.foldl_cons, Place.longer_of_le (h c (.head l))]
    exact ih fun d hd => h d (.tail c hd)

theorem foldl_longer_none {p : Place} {l : List Nat} (h : ∀ c ∈ l, p.waitOf c = 0) : l.foldl p.longer none = none := by
  induction l with
  | nil => rfl
  | cons c l ih =>
    rw [List.foldl_cons, show p.longer none c = none from if_pos (h c (.head l))]
    exact ih fun d hd => h d (.tail c hd)

/-! ### The blocks in order -/

/-- A resident block parts the list of them into those of lower and those of higher numbers. -/
theorem Place.blocks_split {p : Place} {b : Nat} (h : b ∈ p.blocks) : ∃ low high, p.blocks = low ++ b :: high ∧ ∀ c ∈ low, c < b := by
  obtain ⟨low, high, e⟩ := List.append_of_mem h
  have hsorted : p.blocks.Pairwise (· < ·) := List.pairwise_lt_range.filter _
  rw [e, List.pairwise_append] at hsorted
  obtain ⟨-, -, hlow⟩ := hsorted
  exact ⟨low, high, e, fun c hc => hlow c hc b (.head high)⟩

theorem Place.blocks_find?_none {p : Place} (h : ∀ c ∈ p.blocks, p.passc.getD c 0 ≠ 16) : p.blocks.find? (fun b => p.passc.getD b 0 = 16) = none :=
  List.find?_eq_none.mpr fun c hc => by simpa using h c hc

/-- With no block passed over sixteen times, the longest WAIT is chosen, the lowest number among equals. -/
theorem Place.choice_longest {p : Place} {b : Nat} (hb : b ∈ p.blocks) (hpass : ∀ c ∈ p.blocks, p.passc.getD c 0 ≠ 16) (hpos : 0 < p.waitOf b)
    (hmax : ∀ c ∈ p.blocks, p.waitOf c < p.waitOf b ∨ (p.waitOf c = p.waitOf b ∧ b ≤ c)) : p.choice = some b := by
  obtain ⟨low, high, e, hlow⟩ := p.blocks_split hb
  rw [p.choice_eq, p.blocks_find?_none hpass]
  have htake : p.longer (low.foldl p.longer none) b = some b := by
    cases hfound : low.foldl p.longer none with
    | none => exact Place.longer_none hpos
    | some c =>
      rcases foldl_longer_mem hfound with hnone | hmem
      · cases hnone
      · have hless := hlow c hmem
        have hwait := hmax c (e ▸ List.mem_append_left _ hmem)
        exact Place.longer_of_lt (by omega)
  simp only [e, List.foldl_append, List.foldl_cons, htake]
  exact foldl_longer_keeps fun c hc => by
    have := hmax c (e ▸ List.mem_append_right _ (.tail b hc))
    omega

/-- The first block passed over sixteen times goes before all others. -/
theorem Place.choice_passed {p : Place} {b : Nat} (hb : b ∈ p.blocks) (hpass : p.passc.getD b 0 = 16)
    (hfirst : ∀ c ∈ p.blocks, p.passc.getD c 0 = 16 → b ≤ c) : p.choice = some b := by
  obtain ⟨low, high, e, hlow⟩ := p.blocks_split hb
  have hnone : low.find? (fun b => decide (p.passc.getD b 0 = 16)) = none := List.find?_eq_none.mpr fun c hc => by
    have hle := hfirst c (e ▸ List.mem_append_left _ hc)
    have hlt := hlow c hc
    simp only [decide_eq_true_eq]
    exact fun h16 => absurd (hle h16) (by omega)
  have hfind : p.blocks.find? (fun b => decide (p.passc.getD b 0 = 16)) = some b := by
    rw [e, List.find?_append, hnone, Option.none_or]
    exact List.find?_cons_of_pos (p := fun b => decide (p.passc.getD b 0 = 16)) (by simpa using hpass)
  rw [p.choice_eq, hfind]

theorem Place.choice_none {p : Place} (hpass : ∀ c ∈ p.blocks, p.passc.getD c 0 ≠ 16) (hwait : ∀ c ∈ p.blocks, p.waitOf c = 0) : p.choice = none := by
  rw [p.choice_eq, p.blocks_find?_none hpass]
  exact foldl_longer_none hwait

/-- The PASS count of a block after a choice. -/
theorem Place.passed_getD (p : Place) (b : Nat) {c : Nat} (hc : c < 4) :
    (p.passed b).getD c 0 =
      if c = b then 0 else if c ∈ p.blocks ∧ 0 < p.waitOf c then min 16 (p.passc.getD c 0 + 1) else p.passc.getD c 0 := by
  simp [Place.passed, List.getD, List.getElem?_range hc]

/-! ### The step of the block scheduler -/

/-- The block a region takes at its segment's end: that of FSEL, else R81's choice; once it idles, the first to receive a record (R81, R331). -/
def Place.pick (p : Place) : Option Nat := match p.sel, p.idle with | some b, _ => some b | none, true => p.first | none, false => p.choice

section
variable {s : State} {p : Place} (h : s.place? p.id = some p) (hinst : p.inst = none) (hmoves : placeMoves s p = true)
  (hdrained : placeDrained s p = true) (hchosen : p.chosen = none) (hsched : p.sched ≠ some p.begun)
include h hinst hmoves hdrained hchosen hsched

/-- A region at its segment's end makes its choice. -/
theorem exec_blockSchedule : exec (.blockSchedule p.id) s =
    match p.pick with
    | none => .next (s.updPlace p.id (fun x => { x with idle := true }))
    | some b => .next (s.updPlace p.id (fun x => x.choose b)) := by
  change execBlockSchedule p.id s = _
  rw [execBlockSchedule, h]
  simp only [hinst, hmoves, hdrained, hchosen, hsched, Option.isSome_none, Bool.not_true, Bool.or_false, decide_false,
    Bool.false_eq_true, if_false]
  rfl

/-- The block chosen stands in the place, and its PASS counts (R81). -/
theorem blockSchedule_chooses {b : Nat} (hpick : p.pick = some b) :
    StepTo (.blockSchedule p.id) s (fun s' => s'.place? p.id = some (p.choose b) ∧ s'.sites = s.sites) := by
  refine ⟨s.updPlace p.id (fun x => x.choose b), ?_, place?_updPlace (fun _ => rfl) h, rfl⟩
  rw [exec_blockSchedule h hinst hmoves hdrained hchosen hsched, hpick]

end

theorem stepTo_mono {i : Instr} {s : State} {P Q : State → Prop} (h : StepTo i s P) (hPQ : ∀ s', P s' → Q s') : StepTo i s Q := by
  obtain ⟨s', hexec, hP⟩ := h
  exact ⟨s', hexec, hPQ s' hP⟩

/-! ### The sites of a configured place (R78, R82) -/

/-- A place configured with a folio has that folio's cells as its sites, none of which holds a token. -/
theorem configure_sites {s : State} {p : Place} {k : Nat} {f : Folio} (hf : p.slots.getD k none = some f) :
    ((configure s p k).sites.filter (fun x => x.node.place = p.id)).map (fun x => (x.node.x, x.node.y)) = f.cells.map (fun c => (c.x, c.y)) ∧
    ∀ x ∈ (configure s p k).sites, x.node.place = p.id → x.ina = [] ∧ x.inb = [] ∧ x.inc = [] ∧ x.out = [] := by
  have hsites : (configure s p k).sites = (keepLeft s p).sites.filter (fun x => x.node.place ≠ p.id) ++ sitesOf (keepLeft s p) p f := by
    simp only [configure, hf]
  have hown : ∀ x ∈ sitesOf (keepLeft s p) p f, x.node.place = p.id ∧ x.ina = [] ∧ x.inb = [] ∧ x.inc = [] ∧ x.out = [] := by
    intro x hx
    obtain ⟨c, -, rfl⟩ := List.mem_map.mp hx
    exact ⟨rfl, rfl, rfl, rfl, rfl⟩
  rw [hsites]
  refine ⟨?_, fun x hx hplace => ?_⟩
  · have hothers : (((keepLeft s p).sites.filter (fun x => x.node.place ≠ p.id)).filter (fun x => x.node.place = p.id)) = [] := by
      simp [List.filter_filter]
    have hall : (sitesOf (keepLeft s p) p f).filter (fun x => x.node.place = p.id) = sitesOf (keepLeft s p) p f :=
      List.filter_eq_self.mpr fun x hx => by simpa using (hown x hx).1
    rw [List.filter_append, hothers, hall, List.nil_append, sitesOf, List.map_map]
    rfl
  · rcases List.mem_append.mp hx with hother | hmine
    · simp [hplace] at hother
    · exact (hown x hmine).2

theorem configure_places (s : State) (p : Place) (k : Nat) : (configure s p k).places = s.places := by
  unfold configure keepLeft
  split
  · rfl
  · split <;> rfl

/-- Its record stays as it was. -/
theorem place?_configure (s : State) (p : Place) (k id : Nat) : (configure s p k).place? id = s.place? id := by
  rw [State.place?, configure_places, State.place?]

/-! ### The obligation -/

theorem blockChosen : Claims.BlockChosen := by
  intro s p b h hinst hmoves hdrained
  have hchooses := fun hchosen hsched => blockSchedule_chooses (b := b) h hinst hmoves hdrained hchosen hsched
  refine ⟨fun hchosen hsched hsel => ?selected, fun hchosen hsched hsel hidle hb hpass hpos hmax => ?longest,
    fun hchosen hsched hsel hidle hb hpass hfirst => ?passed, fun hchosen hsched hsel hidle hwait hpass => ?idles,
    fun hchosen hsched hsel hidle hfirst => ?first, fun f hchosen hf => ?switches⟩
  case selected =>
    exact stepTo_mono (hchooses hchosen hsched (by simp only [Place.pick, hsel])) fun s' ⟨hplace, hsites⟩ => ⟨_, hplace, rfl, rfl, rfl, rfl, hsites⟩
  case longest =>
    exact stepTo_mono (hchooses hchosen hsched (by simp only [Place.pick, hsel, hidle]; exact p.choice_longest hb hpass hpos hmax)) fun s' ⟨hplace, _⟩ =>
      ⟨_, hplace, rfl, fun c hc => p.passed_getD b hc⟩
  case passed =>
    exact stepTo_mono (hchooses hchosen hsched (by simp only [Place.pick, hsel, hidle]; exact p.choice_passed hb hpass hfirst)) fun s' ⟨hplace, _⟩ => ⟨_, hplace, rfl⟩
  case idles =>
    refine ⟨s.updPlace p.id (fun x => { x with idle := true }), ?_, _, place?_updPlace (by exact fun _ => rfl) h, hchosen, rfl, rfl⟩
    have hpick : p.pick = none := by simp only [Place.pick, hsel, hidle]; exact p.choice_none hpass hwait
    rw [exec_blockSchedule h hinst hmoves hdrained hchosen hsched, hpick]
  case first =>
    exact stepTo_mono (hchooses hchosen hsched (by simp only [Place.pick, hsel, hidle]; exact hfirst)) fun s' ⟨hplace, _⟩ => ⟨_, hplace, rfl, rfl⟩
  case switches =>
    obtain ⟨hcells, hempty⟩ := configure_sites (s := s.updPlace p.id (fun x => x.runs b)) hf
    refine ⟨configure (s.updPlace p.id (fun x => x.runs b)) p b, ?_, p.runs b, ?_, rfl, rfl, hcells, hempty⟩
    · change execContextSwitch p.id s = _
      rw [execContextSwitch, h]
      simp only [hmoves, hinst, hchosen, hdrained, Bool.not_true, Bool.false_eq_true, if_false]
    · rw [place?_configure]
      exact place?_updPlace (fun _ => rfl) h

/-- The place of a folded footprint once it runs its next logical instance. -/
def Place.turned (p : Place) (cur : Nat) : Place :=
  { p with run := cur + 1, slots := p.slots.set cur none, inst := p.inst.map (fun y => { y with cur := cur + 1, struck := false }) }

theorem foldedTurn : Claims.FoldedTurn := by
  intro s p i f h hinst hmoves hstruck hnext hready hf
  have hargs : (i.args.isEmpty || i.args.any (fun k => !(guyLine s p.asid k).isEmpty)) = true := by
    rcases hready with hnone | ⟨k, hk, hline⟩
    · simp [hnone]
    · simp only [Bool.or_eq_true, List.any_eq_true]
      exact .inr ⟨k, hk, by simpa using hline⟩
  refine ⟨configure (s.updPlace p.id (fun x => x.turned i.cur)) p (i.cur + 1), ?_, p.turned i.cur, { i with cur := i.cur + 1, struck := false }, ?_,
    rfl, by rw [Place.turned, hinst]; rfl, rfl, rfl, (configure_sites hf).1⟩
  · change execContextSwitch p.id s = _
    rw [execContextSwitch, h]
    simp only [hmoves, hinst, hstruck, hargs, Nat.not_le.mpr hnext, decide_false, Bool.not_true, Bool.or_false, Bool.false_eq_true, if_false]
    rfl
  · rw [place?_configure]
    exact place?_updPlace (fun _ => rfl) h

/-- Settles O45: R81's choice read from the fold over the resident blocks, and the sites that `configure` gives the block or the folded
instance a region then runs. -/
theorem blockSchedule : Obligations.BlockSchedule := ⟨blockChosen, foldedTurn⟩

end Sys2Proof.Machine
end

section
/-! SUPPORT. Answers at a stream port, and its events (O50): what an answer leaves of the command that waits for it (R204, R214, R224, R426), and
the walk, the window and the rate of a port (R85, R203, R206). -/

namespace Sys2Proof.Machine
open Sys2Proof.Claims

-- One after another: proofs elaborated at a time take a thread each, whose stacks are the most of the check's memory.
set_option Elab.async false

/-! ### A message that sets out -/

/-- It changes the networks, and the silence of a partition. -/
theorem sendMessage_eq (s : State) (m : Msg) (cargo : Cargo) : ∃ w ps, sendMessage s m cargo = { s with net := w, parts := ps } := by
  unfold sendMessage
  split
  next c _ =>
    obtain ⟨w, he, -⟩ := sendUnder_sent s m (some cargo) c
    exact ⟨w, (stirAgent s m.who (some cargo)).parts, by rw [he, stirAgent_eq]⟩
  next => exact ⟨s.net, s.parts, rfl⟩

/-! ### A walk moves no byte of memory (R203, R206) -/

/-- Memory stands as `m`. -/
def MemIs (m : Mem) (s : State) : Prop := s.mem = m

section
variable {m : Mem} {s : State}

theorem memIs_sendMessage {g : Msg} {cargo : Cargo} (h : MemIs m s) : MemIs m (sendMessage s g cargo) := by
  obtain ⟨w, ps, he⟩ := sendMessage_eq s g cargo
  rw [he]
  exact h

theorem memIs_llcGet (pa n : Nat) (h : MemIs m s) : MemIs m (llcGet s pa n).1 := (llcHold_mem s (pa / 128)).trans h

theorem memIs_llcLines (k : Nat) (pa : Nat) (h : MemIs m s) : MemIs m (llcLines k s pa).1 := by
  induction k generalizing s pa with
  | zero => exact h
  | succ k ih => exact ih (pa + 128) (memIs_llcGet pa 128 h)

theorem memIs_installAt {x : Slice} {l : SLine} (h : MemIs m s) : MemIs m (installAt s x l) := by
  unfold installAt
  split
  · exact h
  · dsimp only
    split
    · exact memIs_sendMessage h
    · exact h

theorem memIs_expandAt (dir t : Nat) (h : MemIs m s) : MemIs m (expandAt s dir t).1 := by
  have hentry := memIs_llcGet (dir + 8 * t) 8 h
  unfold expandAt
  dsimp only
  split
  · exact h
  split
  · exact hentry
  split
  · exact hentry
  split
  · exact hentry
  split
  · exact memIs_llcLines _ _ hentry
  split <;> exact memIs_llcLines _ _ hentry

theorem memIs_tileFor (d i : Nat) (w : CompPage) (t : Nat) (h : MemIs m s) : MemIs m (tileFor s d i w t).1 := by
  have hexpand := memIs_expandAt w.dir t h
  unfold tileFor
  split
  · exact h
  · split <;> next e => rw [e] at hexpand; exact hexpand

theorem useGot_memIs {w : Word} {g : Got} (h : MemIs m s) : (useGot w s g).Leaves (MemIs m) := by
  unfold useGot
  split
  · exact h
  · change MemIs m (if _ then _ else _)
    split <;> exact h

theorem llcLoad_memIs (lv : Nat) (x : Xl) (n : Nat) (h : MemIs m s) : (llcLoad s lv x n).Leaves (MemIs m) := by
  have hexpand := memIs_expandAt (compDir x (pageBits lv)).1 (compDir x (pageBits lv)).2 h
  unfold llcLoad
  split
  · exact h
  split
  · exact h
  split
  · split
    · next e => rw [e] at hexpand; exact hexpand
    · next e => rw [e] at hexpand; exact useGot_memIs hexpand
  · exact useGot_memIs (memIs_llcGet _ _ h)

theorem missRead_memIs (d lv : Nat) (x : Xl) (n : Nat) (h : MemIs m s) : (missRead s d lv x n).Leaves (MemIs m) := by
  have htile := memIs_tileFor d (sliceIndex x.iset x.pa) (x.window lv) (compDir x (pageBits lv)).2 h
  unfold missRead
  dsimp only
  split
  · exact h
  split
  · trivial
  split
  · split
    · next e => rw [e] at htile; exact htile
    · next e =>
      rw [e] at htile
      refine useGot_memIs ?_
      split
      · exact memIs_installAt htile
      · exact htile
  split
  · trivial
  split
  · exact useGot_memIs (memIs_installAt (memIs_llcGet _ _ h))
  · exact useGot_memIs (memIs_llcGet _ _ h)

theorem readBytes_memIs (die : Option Nat) (lv : Nat) (x : Xl) (n : Nat) (h : MemIs m s) : (readBytes s die lv x n).Leaves (MemIs m) := by
  unfold readBytes
  generalize placeOf s die x n = dx
  obtain ⟨d, y⟩ := dx
  dsimp only
  split
  · split
    · trivial
    · exact llcLoad_memIs _ _ _ h
  · split
    · trivial
    split
    · exact useGot_memIs h
    split
    · trivial
    · exact missRead_memIs _ _ _ _ h

theorem readTable_memIs (die : Option Nat) (a : Nat) (h : MemIs m s) : (readTable s die a).Leaves (MemIs m) := by
  unfold readTable
  refine Acc.leaves_bind ?_ (fun _ _ _ h1 => h1)
  split
  · exact llcLoad_memIs _ _ _ h
  · exact readBytes_memIs _ _ _ _ h

theorem walkFrom_memIs (die : Option Nat) (core asid va k lv a : Nat) (h : MemIs m s) : (walkFrom die core asid va k lv a s).Leaves (MemIs m) := by
  induction k generalizing lv a s with
  | zero => exact h
  | succ k ih =>
    have hread := readTable_memIs die (a + 8 * walkIdx va lv) h
    unfold walkFrom
    split
    · trivial
    next e =>
      rw [e] at hread
      exact hread
    next s1 v e =>
      rw [e] at hread
      have hmem : MemIs m s1 := hread
      dsimp only
      split
      · exact hmem
      split
      · split <;> exact hmem
      split
      · exact hmem
      refine ih _ _ ?_
      split <;> exact hmem

theorem walk_memIs (die : Option Nat) (core asid va : Nat) (h : MemIs m s) : (walk s die core asid va).Leaves (MemIs m) := by
  unfold walk
  split
  · exact h
  · exact walkFrom_memIs die core asid va _ _ _ h

end

/-! ### A port that changes -/

section
variable {s : State} {p : Place} {q : Port} (h : HasPort s p q)
include h

theorem hasPort_updPort {g : Port → Port} (hg : ∀ y, (g y).num = y.num) : HasPort (s.updPort p.id q.num g) (withPort p q.num g) (g q) :=
  ⟨place?_updPort h.place q.num g, by rw [hg]; exact port?_withPort hg h.port⟩

theorem hasPort_congr {s' : State} (hplaces : s'.places = s.places) : HasPort s' p q :=
  ⟨by rw [State.place?, hplaces]; exact h.place, h.port⟩

/-- A step after which the port stands as `q`. -/
theorem portBecomes_of_hasPort {i : Instr} {s0 : State} {P : State → Port → Prop} (hexec : exec i s0 = .next s) (hmem : s.mem = s0.mem) (hP : P s q) :
    PortBecomes i s0 p.id q.num P := ⟨s, p, q, hexec, h.place, h.port, hP, hmem⟩

end

theorem Port.runs_updRun (q : Port) (c : QCmd) (f : Running → Running) :
    (q.updRun c f).runs = q.runs.map (fun x => if x.cmd = c then f x else x) := by
  cases hr : q.running <;> simp [Port.runs, Port.updRun, updBy, hr]

/-! ### The answers (R204, R214, R224, R426) -/

section
variable {s : State} {p : Place} {q : Port} {r : Running} {e : Elem} {no i : Nat} (h : HasPort s p q)
include h

/-- An answer that has come goes to the element that waits for it. -/
theorem exec_generatorResponse {k : RespKind} (hwaits : q.awaits no = some (r, e)) (harrived : s.arrived (.resp p.id q.num no) = true)
    (hanswer : s.resps[i]? = some { place := p.id, port := q.num, elem := no, kind := k, dead := none }) :
    exec (.generatorResponse i) s = .next (answerElem { s with resps := s.resps.eraseIdx i } p q r e k) := by
  change execGeneratorResponse i s = _
  have hplace : ({ s with resps := s.resps.eraseIdx i } : State).place? p.id = some p := h.place
  rw [execGeneratorResponse, hanswer]
  simp only [harrived, Bool.not_true, Bool.false_eq_true, if_false, hplace, h.port, hwaits]

/-- One that changes the command alone. -/
theorem becomes_of_updRun {s0 : State} {f : Running → Running} {j : Instr} {P : State → Port → Prop} (hmem : s.mem = s0.mem)
    (hexec : exec j s0 = .next (s.updRun p.id q.num r.cmd f)) (hP : P (s.updRun p.id q.num r.cmd f) (q.updRun r.cmd f)) :
    PortBecomes j s0 p.id q.num P :=
  portBecomes_of_hasPort (hasPort_updPort h (g := fun y => y.updRun r.cmd f) (fun _ => rfl)) hexec hmem hP

end

/-- An answer for killed work counts in its cancellation record and is dropped (R108). -/
theorem portAnswers_dead {s : State} {i key : Nat} {a : Resp} {bs : List Byte} (ha : s.resps[i]? = some a) (hdata : a.kind = .data bs)
    (hdead : a.dead = some key) (harrived : s.arrived (.resp a.place a.port a.elem) = true) :
    StepTo (.generatorResponse i) s (fun s' => s'.resps = s.resps.eraseIdx i ∧ s'.places = s.places ∧
      ∀ g k, partOf s (key / 2 ^ 32) = some g → g.tickets.find? (fun k => k.val = key % 2 ^ 32) = some k → k.counts.length = 11 →
        ∃ g' k', partOf s' (key / 2 ^ 32) = some g' ∧ g'.tickets.find? (fun k => k.val = key % 2 ^ 32) = some k' ∧
          k'.counts[4]? = some (min (2 ^ 32 - 1) (k.counts.getD 4 0 + 1))) := by
  refine ⟨bumpTicket { s with resps := s.resps.eraseIdx i } key 4 1, ?_, rfl, rfl, fun g k hg hk hlen => ?_⟩
  · change execGeneratorResponse i s = _
    rw [execGeneratorResponse, ha]
    simp only [harrived, Bool.not_true, Bool.false_eq_true, if_false, hdead, hdata]
  · refine ⟨_, k.bump 4 1, partOf_updPart (by exact fun _ => rfl) hg, ?_, ?_⟩
    · exact find?_updBy_hit (p := fun k : Ticket => decide (k.val = key % 2 ^ 32)) (f := fun k => k.bump 4 1) (fun _ hx => hx) hk
    · simp [Ticket.bump, hlen]

/-! ### A refused request goes out again (R214, R426) -/

theorem sendReq_keeps (s : State) (p : Place) (q : Req) :
    (sendReq s p q).places = s.places ∧ (sendReq s p q).mem = s.mem ∧ (sendReq s p q).reqs = s.reqs ++ [q] := by
  unfold sendReq
  obtain ⟨w, ps, he⟩ := sendMessage_eq { s with reqs := s.reqs ++ [q] }
    (packageMsg (coreEp p.die q.core) (sliceEp q.die (sliceIndex q.iset q.pa)) .request 0 (natBytes 8 q.pa ++ q.carried)
      (.gen q.place q.port q.elem)) (.req q.place q.port q.elem)
  rw [he]
  exact ⟨rfl, rfl, rfl⟩

/-- The request of an element whose timer for the request `no` has run out. -/
def dueReq (no now : Nat) (e : Elem) : Option Req :=
  match e.st with
  | .retry t rq => if rq.elem = no ∧ t ≤ now then some rq else none
  | _ => none

/-- The timer of `x` stands before that of `e` (R426). -/
def retriesBefore (no : Nat) (e x : Elem) : Bool :=
  match x.st, e.st with
  | .retry u y, .retry t _ => u < t || (u = t && y.elem < no)
  | _, _ => false

theorem dueReq_eq_some {no now : Nat} {e : Elem} {rq : Req} : dueReq no now e = some rq ↔ ∃ t, e.st = .retry t rq ∧ rq.elem = no ∧ t ≤ now := by
  unfold dueReq
  split
  next t y hst =>
    rw [hst, Option.ite_none_right_eq_some]
    constructor
    · rintro ⟨hdue, hy⟩
      cases hy
      exact ⟨t, rfl, hdue⟩
    · rintro ⟨u, hu, hdue⟩
      cases hu
      exact ⟨hdue, rfl⟩
  next hno =>
    constructor
    · intro hf
      cases hf
    · rintro ⟨t, ht, -⟩
      exact absurd ht (hno t rq)

theorem exec_retryTimerExpire {s : State} {p : Place} {q : Port} (h : HasPort s p q) (no : Nat) : exec (.retryTimerExpire p.id q.num no) s =
    match q.runs.findSome? (fun r => r.elems.findSome? (fun e => (dueReq no s.cycle e).map (fun rq => (r, e, rq)))) with
    | none => .next s
    | some (r, e, rq) =>
      if q.runs.any (fun x => x.elems.any (retriesBefore no e)) then .next s
      else .next (sendReq (s.updRun p.id q.num r.cmd (fun x => x.updElem e.n (fun y => { y with st := .sent rq.elem }))) p
        { rq with refusals := rq.refusals + 1, prio := rq.refusals + 1 ≥ 8 }) := by
  change execRetryTimerExpire p.id q.num no s = _
  rw [execRetryTimerExpire, h.place]
  simp only [h.port]
  rfl

theorem portAnswers_retry {s : State} {p : Place} {q : Port} {r : Running} {e : Elem} {no t : Nat} {rq : Req} (h : HasPort s p q)
    (hr : r ∈ q.runs) (he : e ∈ r.elems) (hst : e.st = .retry t rq) (hno : rq.elem = no) (ht : t ≤ s.cycle)
    (hone : ∀ r' ∈ q.runs, ∀ e' ∈ r'.elems, ∀ t' rq', e'.st = .retry t' rq' → rq'.elem = no → r' = r ∧ e' = e)
    (hfirst : ∀ r' ∈ q.runs, ∀ e' ∈ r'.elems, ∀ t' rq', e'.st = .retry t' rq' → t < t' ∨ t = t' ∧ no ≤ rq'.elem) :
    PortBecomes (.retryTimerExpire p.id q.num no) s p.id q.num (fun s' q' => Changed q q' r (Holds e (.sent no)) ∧
      s'.reqs = s.reqs ++ [{ rq with refusals := rq.refusals + 1, prio := decide (8 ≤ rq.refusals + 1) }]) := by
  have hown : dueReq no s.cycle e = some rq := dueReq_eq_some.mpr ⟨t, hst, hno, ht⟩
  have hdue : q.runs.findSome? (fun r => r.elems.findSome? (fun e => (dueReq no s.cycle e).map (fun rq => (r, e, rq)))) = some (r, e, rq) := by
    cases hfound : q.runs.findSome? (fun r => r.elems.findSome? (fun e => (dueReq no s.cycle e).map (fun rq => (r, e, rq)))) with
    | none =>
      have hnone := List.findSome?_eq_none_iff.mp (List.findSome?_eq_none_iff.mp hfound r hr) e he
      rw [hown] at hnone
      cases hnone
    | some x =>
      obtain ⟨r', hr', hx⟩ := List.exists_of_findSome?_eq_some hfound
      obtain ⟨e', he', hx'⟩ := List.exists_of_findSome?_eq_some hx
      obtain ⟨rq', hrq', rfl⟩ := Option.map_eq_some_iff.mp hx'
      obtain ⟨t', hst', hno', -⟩ := dueReq_eq_some.mp hrq'
      obtain ⟨rfl, rfl⟩ := hone r' hr' e' he' t' rq' hst' hno'
      rw [hown] at hrq'
      rw [Option.some.inj hrq']
  have hnone : q.runs.any (fun x => x.elems.any (retriesBefore no e)) = false := by
    simp only [List.any_eq_false]
    intro r' hr' hany
    obtain ⟨e', he', hbefore⟩ := List.any_eq_true.mp hany
    unfold retriesBefore at hbefore
    rw [hst] at hbefore
    split at hbefore
    next u y t' y' hst' heq =>
      cases heq
      have := hfirst r' hr' e' he' u y hst'
      simp only [Bool.or_eq_true, Bool.and_eq_true, decide_eq_true_eq] at hbefore
      omega
    next => cases hbefore
  have hexec := exec_retryTimerExpire h no
  simp only [hdue, hnone, Bool.false_eq_true, if_false] at hexec
  obtain ⟨hplaces, hmem, hreqs⟩ := sendReq_keeps (s.updRun p.id q.num r.cmd (fun x => x.updElem e.n (fun y => { y with st := .sent rq.elem }))) p
    { rq with refusals := rq.refusals + 1, prio := rq.refusals + 1 ≥ 8 }
  have hupd := hasPort_updPort h (g := fun y => y.updRun r.cmd (fun x => x.updElem e.n (fun y => { y with st := .sent rq.elem }))) (fun _ => rfl)
  refine portBecomes_of_hasPort (hasPort_congr hupd hplaces) hexec hmem ⟨?_, hreqs⟩
  rw [← hno]
  exact q.runs_updRun r.cmd _

theorem portAnswers : Claims.PortAnswers := by
  intro s p q r e no i h answer becomes
  refine ⟨fun hwaits harrived => ?_, fun _ _ _ ha hdata hdead harrived => portAnswers_dead ha hdata hdead harrived,
    fun _ _ hr he hst hno ht hone hfirst => portAnswers_retry h hr he hst hno ht hone hfirst⟩
  have hstep {k : RespKind} (ha : answer k) := exec_generatorResponse h hwaits harrived ha
  have hport : HasPort { s with resps := s.resps.eraseIdx i } p q := hasPort_congr h rfl
  refine ⟨fun bs ha => ?data, fun fl ha => ?ack, fun hint rq ha => ?refused, fun code sub pte ha hop => ?fault, fun m cls bm tm ha hop hgroup => ?lost,
    fun code sub pte ha hop => ?prefetch⟩
  case data => exact becomes_of_updRun hport rfl (hstep ha) ⟨rfl, q.runs_updRun _ _⟩
  case ack =>
    have hdone := hasPort_updPort hport (g := fun y => y.updRun r.cmd (Done e)) (fun _ => rfl)
    exact portBecomes_of_hasPort (hasPort_updPort hdone (g := fun y => { y with flags := y.flags ||| fl }) (fun _ => rfl)) (hstep ha) rfl
      ⟨rfl, q.runs_updRun _ _, rfl⟩
  case refused => exact becomes_of_updRun hport rfl (hstep ha) ⟨rfl, q.runs_updRun _ _⟩
  case fault =>
    have hexec := hstep ha
    simp only [answerElem, if_neg hop] at hexec
    exact becomes_of_updRun hport rfl hexec ⟨rfl, _, q.runs_updRun _ _⟩
  case lost =>
    have hexec := hstep ha
    simp only [answerElem, if_neg hop, if_neg (show ¬ (r.cmd.op = 0x06 ∧ cls = 1) by tauto)] at hexec
    exact becomes_of_updRun hport rfl hexec ⟨rfl, q.runs_updRun _ _⟩
  case prefetch =>
    have hexec := hstep ha
    simp only [answerElem, if_pos hop] at hexec
    exact becomes_of_updRun hport rfl hexec ⟨rfl, q.runs_updRun _ _⟩

/-! ### The events of a port (R85, R203, R206) -/

/-- A generator keeps the entry a walk has given it. -/
theorem genEnt_keepXlat {s : State} {p : Place} {k : Nat} {d : PortDecl} (hd : p.decl k = some d) (x : Xlat) : genEnt (keepXlat s p k x) p k = some x := by
  rw [keepXlat, hd, genEnt, hd]
  simp only [Option.bind_some]
  rw [find?_putBy (by simp [GenXlat.isOf]), Option.map_some]

@[simp] theorem keepXlat_mem (s : State) (p : Place) (k : Nat) (x : Xlat) : (keepXlat s p k x).mem = s.mem := by
  unfold keepXlat
  split <;> rfl

@[simp] theorem keepXlat_walkq (s : State) (p : Place) (k : Nat) (x : Xlat) : (keepXlat s p k x).walkq = s.walkq := by
  unfold keepXlat
  split <;> rfl

theorem pageWalkDone_leaves {s s1 : State} {p : Place} {q : Port} {r : Running} {va leaf lv : Nat} {d : PortDecl} (h : HasPort s p q)
    (hfind : q.runs.find? (fun r => r.walking.isSome) = some r) (hva : r.walking = some va) (hturn : walkTurnOf s p q.num = true)
    (hd : p.decl q.num = some d) (hwalk : walk s (some p.die) (p.portCore q.num) p.asid va = .ok s1 (leaf, lv)) :
    StepTo (.pageWalkDone p.id q.num) s (fun s' =>
      genEnt s' p q.num = some { asid := p.asid, vpage := va / 2 ^ pageBits lv, size := pageBits lv, pte := BitVec.ofNat 64 leaf, lv := lv } ∧
      (∀ w ∈ s'.walkq, ¬ (w.2.2.1 = p.id ∧ w.2.2.2 = q.num)) ∧ s'.mem = s.mem) := by
  have hmem : s1.mem = s.mem := (walk_memIs (some p.die) (p.portCore q.num) p.asid va (m := s.mem) rfl).of_ok hwalk
  have hexec : exec (.pageWalkDone p.id q.num) s = execPageWalkDone p.id q.num s := rfl
  rw [execPageWalkDone, h.place] at hexec
  simp only [h.port, hfind, hva, Option.getD_some, hturn, Bool.not_true, Bool.false_eq_true, if_false, hwalk] at hexec
  refine ⟨_, hexec, genEnt_keepXlat hd _, fun w hw => ?_, by rw [keepXlat_mem]; exact hmem⟩
  rw [keepXlat_walkq] at hw
  simpa [-not_and, not_and_or] using (List.mem_filter.mp hw).2

theorem windowOf_eq (s : State) (cnt winlg : Nat) :
    windowOf s cnt winlg = max 1 ((if cnt = 0 then 2 ^ winlg else cnt) * (s.pkg.pwrstat.extractLsb' 7 5).toNat / 16) := by
  rw [toNat_extractLsb'_eq_bitsOf, windowOf]

/-- A window that has admitted its rate admits no token more (R85). -/
theorem letIn_of_full {s : State} {p : Place} {q : Port} (hq : p.port? q.num = some q) (hfull : q.mayIn s = false) (tok : Token) :
    letIn s p q.num tok = (s, false) := by
  unfold letIn
  rw [hq]
  split
  next q' _ _ hq' _ =>
    cases hq'
    simp only [hfull, Bool.not_false, if_true]
  next => rfl

theorem rateWindow_begins {s : State} {p : Place} {q : Port} (h : HasPort s p q) (hbegin : s.cycle % 2 ^ q.winlg = 0) (hlast : q.lastIn < s.cycle) :
    PortBecomes (.rateWindow p.id q.num) s p.id q.num (fun _ q' => q' = { q with used := 0 }) := by
  refine portBecomes_of_hasPort (hasPort_updPort h (g := fun y => { y with used := 0 }) (fun _ => rfl)) ?_ rfl rfl
  change execRateWindow p.id q.num s = _
  rw [execRateWindow, h.place, Option.bind_some, h.port]
  simp [hbegin, hlast]

theorem rgrateWrite_sets {s : State} {p : Place} {q : Port} {v : Word} (h : HasPort s p q) (hnum : q.num = (v.extractLsb' 0 6).toNat) :
    PortBecomes (.rgrateWrite p.id v) s p.id q.num (fun _ q' =>
      q'.cnt = (v.extractLsb' 48 16).toNat ∧ q'.winlg = max 6 (v.extractLsb' 44 4).toNat ∧ q'.queue = q.queue ∧ q'.running = q.running) := by
  simp only [toNat_extractLsb'_eq_bitsOf] at hnum ⊢
  have hnamed : HasPort (s.updPlace p.id (fun x => { x with rgport := bitsOf v.toNat 0 6 })) { p with rgport := bitsOf v.toNat 0 6 } q :=
    ⟨place?_updPlace (f := fun x => { x with rgport := bitsOf v.toNat 0 6 }) (fun _ => rfl) h.place, h.port⟩
  refine portBecomes_of_hasPort (hasPort_updPort hnamed (g := fun y => { y with cnt := bitsOf v.toNat 48 16, winlg := max 6 (bitsOf v.toNat 44 4) })
    (fun _ => rfl)) ?_ rfl ⟨rfl, rfl, rfl, rfl⟩
  rw [hnum]
  rfl

theorem portEvents : Claims.PortEvents := by
  intro s p q r va v h
  refine ⟨fun s1 leaf lv d hfind hva hturn hd hwalk => pageWalkDone_leaves h hfind hva hturn hd hwalk, rateWindow_begins h,
    fun hwindow hfull tok => letIn_of_full h.port ?_ tok, rgrateWrite_sets h⟩
  rw [← windowOf_eq] at hfull
  simpa [Port.mayIn, hwindow] using hfull

/-- Settles O50: an answer changes the command that waits for it and nothing else of its port; a walk reads memory alone; and the window and the
rate of a port are its own fields. -/
theorem portTraffic : Obligations.PortTraffic := ⟨portAnswers, portEvents⟩

end Sys2Proof.Machine
end

section
/-! SUPPORT. Partition commands (O43): a write of PARTCMD by its OP (R64), and what each command leaves of its partition (R63-R65, R83). -/

namespace Sys2Proof.Machine
open Sys2Proof.Claims

-- One after another: proofs elaborated at a time take a thread each, whose stacks are the most of the check's memory.
set_option Elab.async false

/-! ### PARTCMD (R64) -/

/-- PARTCMD as an accepted command leaves it: the word written, with BUSY 0 and ERR as it was. -/
theorem partcmd_word (v c : Word) : putField (putField v 0 1 0) 1 1 (bitsOf c.toNat 1 1) = (v &&& ~~~3#64) ||| (c &&& 2#64) := by
  have herr (w : Word) : putField w 1 1 (bitsOf c.toNat 1 1) = putField w 1 1 0 ||| (c &&& BitVec.twoPow 64 1) := by
    refine BitVec.eq_of_getLsbD_eq fun i hi => ?_
    simp only [BitVec.getLsbD_or, BitVec.getLsbD_and, BitVec.getLsbD_twoPow, getLsbD_putField (show 1 + 1 ≤ 64 by decide)]
    by_cases h1 : i = 1
    · subst h1
      cases hc : c.getLsbD 1 with
      | true => simp [(bitsOf_one_eq_one_iff c 1).mpr hc]
      | false => simp [(bitsOf_one_eq_zero_iff c 1).mpr hc]
    · rw [if_neg (by omega), if_neg (by omega)]
      simp [Ne.symm h1]
  rw [herr, putField_bit_zero (by decide), putField_bit_zero (by decide), BitVec.and_assoc]
  rfl

theorem bitsOf_of_extractLsb' {n : Nat} {w : BitVec n} {lo len : Nat} {b : BitVec len} (h : w.extractLsb' lo len = b) : bitsOf w.toNat lo len = b.toNat := by
  rw [← toNat_extractLsb'_eq_bitsOf, h]

/-- A write that is accepted starts its command. -/
theorem partRow_of_accepted {s : State} {v : Word} {op : BitVec 3} (h : Accepted s v op) : partRow op.toNat v s = .next (partDo (commanded s v) v) := by
  obtain ⟨hop, herr, hbusy⟩ := h
  have hword : s.updPkg (fun k => { k with partcmd := putField (putField v 0 1 0) 1 1 (bitsOf s.pkg.partcmd.toNat 1 1) }) = commanded s v := by
    rw [partcmd_word]
    rfl
  have herr' : bitsOf v.toNat 1 1 ≠ 1 := fun h1 => by rw [(bitsOf_one_eq_one_iff v 1).mp h1] at herr; cases herr
  have hbusy' : bitsOf s.pkg.partcmd.toNat 0 1 ≠ 1 := fun h1 => by rw [(bitsOf_one_eq_one_iff _ 0).mp h1] at hbusy; cases hbusy
  rw [partRow, if_pos (bitsOf_of_extractLsb' hop), writePartcmd, if_neg herr', if_neg hbusy', hword]

/-- The command an OP names, with the operands of the word (R64). -/
theorem partDo_of_op (s : State) {v : Word} {op : BitVec 3} (h : v.extractLsb' 3 3 = op) : partDo s v =
    match op.toNat with
    | 0 => partCreate s ((v.extractLsb' 6 42).toNat * 64) (v.extractLsb' 48 16).toNat
    | 1 => partDestroy s (v.extractLsb' 48 16).toNat
    | 2 => partHalt s (v.extractLsb' 48 16).toNat (bitsOf v.toNat 2 1 = 1)
    | 3 => partResume s (v.extractLsb' 48 16).toNat
    | 4 => partDrain s (v.extractLsb' 48 16).toNat ((v.extractLsb' 6 42).toNat * 64)
    | 5 => partFill s (v.extractLsb' 48 16).toNat ((v.extractLsb' 6 42).toNat * 64)
    | _ => partResult s (v.extractLsb' 48 16).toNat 1 := by
  simp only [toNat_extractLsb'_eq_bitsOf]
  rw [← bitsOf_of_extractLsb' h]
  rfl

section
variable {s : State} {v : Word}

theorem exec_partcmdCreate (h : Accepted s v 0) : exec (.partcmdCreate v) s =
    .next (partCreate (commanded s v) ((v.extractLsb' 6 42).toNat * 64) (v.extractLsb' 48 16).toNat) :=
  (partRow_of_accepted h).trans (congrArg _ (partDo_of_op (commanded s v) h.1))

theorem exec_partcmdDestroy (h : Accepted s v 1) : exec (.partcmdDestroy v) s = .next (partDestroy (commanded s v) (v.extractLsb' 48 16).toNat) :=
  (partRow_of_accepted h).trans (congrArg _ (partDo_of_op (commanded s v) h.1))

theorem exec_partcmdHalt (h : Accepted s v 2) : exec (.partcmdHalt v) s =
    .next (partHalt (commanded s v) (v.extractLsb' 48 16).toNat (bitsOf v.toNat 2 1 = 1)) :=
  (partRow_of_accepted h).trans (congrArg _ (partDo_of_op (commanded s v) h.1))

theorem exec_partcmdResume (h : Accepted s v 3) : exec (.partcmdResume v) s = .next (partResume (commanded s v) (v.extractLsb' 48 16).toNat) :=
  (partRow_of_accepted h).trans (congrArg _ (partDo_of_op (commanded s v) h.1))

theorem exec_partcmdDrain (h : Accepted s v 4) : exec (.partcmdDrain v) s =
    .next (partDrain (commanded s v) (v.extractLsb' 48 16).toNat ((v.extractLsb' 6 42).toNat * 64)) :=
  (partRow_of_accepted h).trans (congrArg _ (partDo_of_op (commanded s v) h.1))

theorem exec_partcmdFill (h : Accepted s v 5) : exec (.partcmdFill v) s =
    .next (partFill (commanded s v) (v.extractLsb' 48 16).toNat ((v.extractLsb' 6 42).toNat * 64)) :=
  (partRow_of_accepted h).trans (congrArg _ (partDo_of_op (commanded s v) h.1))

/-- A write while a command is under way sets ERR alone. -/
theorem partRow_of_busy {op : BitVec 3} (hop : v.extractLsb' 3 3 = op) (herr : v.getLsbD 1 = false) (hbusy : s.pkg.partcmd.getLsbD 0 = true) :
    partRow op.toNat v s = .next (s.updPkg (fun k => { k with partcmd := s.pkg.partcmd ||| 2#64 })) := by
  have herr' : bitsOf v.toNat 1 1 ≠ 1 := fun h1 => by rw [(bitsOf_one_eq_one_iff v 1).mp h1] at herr; cases herr
  rw [partRow, if_pos (bitsOf_of_extractLsb' hop), writePartcmd, if_neg herr', if_pos ((bitsOf_one_eq_one_iff _ 0).mpr hbusy),
    putField_bit_one (by decide)]
  rfl

theorem pkgStep_of_busy {i : Instr} {op : BitVec 3} (hexec : exec i s = partRow op.toNat v s) (hop : v.extractLsb' 3 3 = op)
    (herr : v.getLsbD 1 = false) (hbusy : s.pkg.partcmd.getLsbD 0 = true) :
    PkgStep i s (fun q => q = { s.pkg with partcmd := s.pkg.partcmd ||| 2#64 }) :=
  pkgStep_of_exec (hexec.trans (partRow_of_busy hop herr hbusy)) rfl

theorem pkgStep_partcmdErrClear : PkgStep .partcmdErrClear s (fun q => q = { s.pkg with partcmd := s.pkg.partcmd &&& ~~~2#64 }) := by
  refine pkgStep_of_exec (f := fun k => { k with partcmd := s.pkg.partcmd &&& ~~~2#64 }) ?_ rfl
  have hexec : exec .partcmdErrClear s = .next (writePartcmd s 2) := rfl
  rw [hexec, writePartcmd, if_pos (by decide), putField_bit_zero (by decide)]
  rfl

end

/-! ### PARTSTAT (R64) -/

theorem code_eq_stateNo (st : PState) : st.code = stateNo st := by cases st <;> rfl

/-- A command's end names its partition, the result and the state the partition is in. -/
theorem told_partResult {s : State} {asid result : Nat} {q : Partition} (h : partOf s asid = some q) :
    Told (partResult s asid result) asid result (stateNo q.st) := by
  rw [Told, partResult, stateOf, h, ← code_eq_stateNo]
  rfl

theorem told_partResult_none {s : State} {asid result : Nat} (h : partOf s asid = none) : Told (partResult s asid result) asid result 0 := by
  rw [Told, partResult, stateOf, h]
  rfl

/-! ### CREATE (R63, R65) -/

section
variable {s : State} {addr asid : Nat} {r : PartRec} (hrec : (recBytes s addr).map partRec = some r)
include hrec

theorem partCreate_of_bad (hbad : r.ok = false ∨ ¬ ∀ x ∈ r.rects, s.dieUsable x.die = true) : partCreate s addr asid = partResult s r.asid 1 := by
  have hif : (!r.ok || !r.rects.all (fun x => s.dieUsable x.die)) = true := by
    rw [Bool.or_eq_true, Bool.not_eq_true', Bool.not_eq_true', ← Bool.not_eq_true (List.all _ _), List.all_eq_true]
    exact hbad
  rw [partCreate, hrec]
  simp only [if_pos hif]

variable (hok : r.ok = true) (husable : ∀ x ∈ r.rects, s.dieUsable x.die = true)
  (hcat : catCheck { s with parts := freshPart r s.cycle :: s.parts.filter (fun q => q.asid ≠ r.asid) } r.asid r.catbase r.catcount 0 = none)
include hok husable hcat

/-- A record in order is judged by the partitions there are, in R65's order. -/
theorem partCreate_of_ok : partCreate s addr asid =
    if (partOf s r.asid).isSome then partResult s r.asid 3
    else if s.parts.length ≥ 512 then partResult s r.asid 5
    else if planeTaken s (freshPart r s.cycle) (r.plane = 1) then partResult s r.asid 2
    else match (if r.plane = 1 then claimPlanes s (freshPart r s.cycle) else some s) with
      | none => partResult s r.asid 2
      | some s1 =>
        if r.plane = 1 && !(planedRows s1 (freshPart r s.cycle)).isEmpty then
          setPartBusy (s1.updPkg (fun k => { k with copying := some { asid := r.asid, addr := addr, record := (recBytes s addr).getD [] } })) true
        else partResult { s1 with parts := s1.parts ++ [(freshPart r s.cycle).withCatalogue
          { s with parts := freshPart r s.cycle :: s.parts.filter (fun q => q.asid ≠ r.asid) } r.catbase r.catcount] } r.asid 0 := by
  have hif : (!r.ok || !r.rects.all (fun x => s.dieUsable x.die)) = false := by
    simpa [hok] using husable
  rw [partCreate, hrec]
  simp only [hif, Bool.false_eq_true, if_false, hcat] <;> rfl

end

/-- Planes without snapshot copies are claimed as they are (R251). -/
theorem claimPlanes_of_noRows {s : State} {p : Partition} (h : planedRows s p = []) : claimPlanes s p = some s := by
  simp [claimPlanes, h]

/-- A partition that has been added is found. -/
theorem partOf_append {s : State} {p : Partition} (h : partOf s p.asid = none) : partOf { s with parts := s.parts ++ [p] } p.asid = some p := by
  rw [partOf, List.find?_append, show s.parts.find? _ = none from h, Option.none_or]
  exact List.find?_cons_of_pos (l := []) (a := p) (p := fun x : Partition => decide (x.asid = p.asid)) (by simp)

theorem partitionCreate : Claims.PartitionCreate := by
  intro s v r s0 fresh trial refused usable
  refine ⟨fun hacc hrec => ?create, fun i hi hop herr hbusy => ?busy, pkgStep_partcmdErrClear⟩
  case create =>
    have hexec := exec_partcmdCreate hacc
    refine ⟨fun hbad hnone => ?bad, fun hok husable hcat => ?judged⟩
    case bad =>
      rw [partCreate_of_bad hrec hbad] at hexec
      exact ⟨_, hexec, partResult_parts .., told_partResult_none (s := s0) hnone⟩
    case judged =>
      rw [partCreate_of_ok hrec hok husable hcat] at hexec
      refine ⟨fun p hp => ?used, fun hnone hfull => ?full, fun hnone hroom => ⟨fun htaken => ?taken, fun hplane hclaim => ?conflict,
        fun hfree hrows => ?made⟩⟩
      case used =>
        rw [show partOf s0 r.asid = some p from hp] at hexec
        exact ⟨_, hexec, partResult_parts .., told_partResult (s := s0) hp⟩
      case full =>
        rw [show partOf s0 r.asid = none from hnone, if_neg (by simp), if_pos (show s0.parts.length ≥ 512 from hfull)] at hexec
        exact ⟨_, hexec, partResult_parts .., told_partResult_none (s := s0) hnone⟩
      all_goals
        rw [show partOf s0 r.asid = none from hnone, if_neg (by simp), if_neg (show ¬ s0.parts.length ≥ 512 from Nat.not_le.mpr hroom)] at hexec
      case taken =>
        rw [if_pos (show planeTaken s0 (freshPart r s0.cycle) (r.plane = 1) = true from htaken)] at hexec
        exact ⟨_, hexec, partResult_parts .., told_partResult_none (s := s0) hnone⟩
      case conflict =>
        rw [if_pos hplane, show claimPlanes s0 (freshPart r s0.cycle) = none from hclaim] at hexec
        refine ⟨_, hexec, ?_⟩
        split
        · exact ⟨partResult_parts .., told_partResult_none (s := s0) hnone⟩
        · exact ⟨partResult_parts .., told_partResult_none (s := s0) hnone⟩
      case made =>
        have hclaimed : (if r.plane = 1 then claimPlanes s0 fresh else some s0) = some s0 := by
          split
          next hplane => exact claimPlanes_of_noRows (hrows hplane)
          next => rfl
        have hnorows : ¬ (r.plane = 1 && !(planedRows s0 fresh).isEmpty) = true := by
          by_cases hplane : r.plane = 1
          · simp [hrows hplane]
          · simp [hplane]
        rw [if_neg (by rw [show planeTaken s0 (freshPart r s0.cycle) (r.plane = 1) = false from hfree]; exact Bool.false_ne_true),
          show (if r.plane = 1 then claimPlanes s0 (freshPart r s0.cycle) else some s0) = some s0 from hclaimed] at hexec
        simp only [if_neg (show ¬ (r.plane = 1 && !(planedRows s0 (freshPart r s0.cycle)).isEmpty) = true from hnorows)] at hexec
        refine ⟨_, hexec, ?_, fresh.withCatalogue trial r.catbase r.catcount, partResult_parts .., rfl, rfl, rfl, rfl, rfl, rfl, rfl, rfl, rfl, rfl⟩
        have htold := told_partResult (result := 0) (partOf_append (s := s0) (p := fresh.withCatalogue trial r.catbase r.catcount) hnone)
        have hst : stateNo (fresh.withCatalogue trial r.catbase r.catcount).st = if r.plane = 0 then 1 else 4 := by
          change stateNo (if r.plane = 0 then PState.running else PState.stored) = _
          split <;> rfl
        rw [hst] at htold
        exact htold
  case busy =>
    rcases hop with ⟨rfl, hop⟩ | ⟨rfl, hop⟩ | ⟨rfl, hop⟩ | ⟨rfl, hop⟩ | ⟨rfl, hop⟩ | ⟨rfl, hop⟩
    · exact pkgStep_of_busy rfl hop herr hbusy
    · exact pkgStep_of_busy rfl hop herr hbusy
    · exact pkgStep_of_busy rfl hop herr hbusy
    · exact pkgStep_of_busy rfl hop herr hbusy
    · exact pkgStep_of_busy rfl hop herr hbusy
    · exact pkgStep_of_busy rfl hop herr hbusy

end Sys2Proof.Machine
end

section
/-! SUPPORT. The life of a partition (O43): DESTROY, HALT and RESUME, DRAIN and FILL (R64, R65, R83). -/

namespace Sys2Proof.Machine
open Sys2Proof.Claims

-- One after another: proofs elaborated at a time take a thread each, whose stacks are the most of the check's memory.
set_option Elab.async false

/-! ### DESTROY -/

theorem partOf_dropPartition (s : State) (asid : Nat) : partOf (dropPartition s asid) asid = none :=
  List.find?_eq_none.mpr fun q hq => by simpa using (List.mem_filter.mp hq).2

/-- The threads a destroyed partition leaves are of system cores. -/
theorem isSys_of_mem_dropPartition {s : State} {asid : Nat} {t : Thread} (ht : t ∈ (dropPartition s asid).threads) (hasid : t.asid = asid) :
    t.id.isSys = true := by
  obtain ⟨u, hu, rfl⟩ := List.mem_map.mp ht
  have hstays := (List.mem_filter.mp hu).2
  by_cases h : u.asid = asid
  · rw [if_pos h]
    simpa [h] using hstays
  · rw [if_neg h] at hasid
    exact absurd hasid h

section
variable {s : State} {p : Partition} (hp : partOf s p.asid = some p)
include hp

theorem partDestroy_of_rest (hst : p.st ∈ [PState.halted, .stored, .drained]) :
    partDestroy s p.asid = partResult (dropPartition s p.asid) p.asid 0 := by
  rw [partDestroy, hp]
  rcases List.mem_cons.mp hst with h | hst
  · simp only [h]
  rcases List.mem_cons.mp hst with h | hst
  · simp only [h]
  · simp only [List.mem_singleton.mp hst]

theorem partDestroy_of_running (hst : p.st ∈ [PState.running, .halting]) : partDestroy s p.asid = partResult s p.asid 4 := by
  rw [partDestroy, hp]
  rcases List.mem_cons.mp hst with h | hst
  · simp only [h]
  · simp only [List.mem_singleton.mp hst]

end

/-! ### HALT (R83, R97) -/

/-- What becomes of a partition's rings changes neither memory nor places, and takes no partition away. -/
structure RingKeeps (s s' : State) : Prop where
  mem : s'.mem = s.mem
  places : s'.places = s.places
  asids : s'.parts.map (fun q => q.asid) = s.parts.map (fun q => q.asid)

theorem RingKeeps.refl (s : State) : RingKeeps s s := ⟨rfl, rfl, rfl⟩

theorem RingKeeps.trans {a b c : State} (h : RingKeeps a b) (h' : RingKeeps b c) : RingKeeps a c :=
  ⟨h'.mem.trans h.mem, h'.places.trans h.places, h'.asids.trans h.asids⟩

/-- One that folds over a list keeps what its step keeps. -/
theorem RingKeeps.foldl {α : Type} {f : State → α → State} (hf : ∀ s x, RingKeeps s (f s x)) (l : List α) (s : State) : RingKeeps s (l.foldl f s) :=
  List.foldlRecOn (motive := fun x => RingKeeps s x) l f (.refl s) fun x hx a _ => hx.trans (hf x a)

theorem ringKeeps_tellWaiter (s : State) (w : RWaiter) (res : RingRes) : RingKeeps s (tellWaiter s w res) := by
  unfold tellWaiter
  split <;> exact ⟨rfl, rfl, rfl⟩

/-- A partition put in its own place is there under its own ASID. -/
theorem asids_setPart (s : State) (q : Partition) : (s.setPart q).parts.map (fun x => x.asid) = s.parts.map (fun x => x.asid) := by
  rw [State.setPart, updBy, List.map_map]
  refine List.map_congr_left fun x _ => ?_
  by_cases h : x.asid = q.asid
  · simp [h]
  · simp [h]

theorem ringKeeps_ringReset (s : State) (r : Ring) : RingKeeps s (ringReset s r).1 := by
  unfold ringReset
  dsimp only
  refine RingKeeps.trans ?_ (.foldl (fun st w => ringKeeps_tellWaiter st w _) _ _)
  split
  · exact ⟨rfl, rfl, asids_setPart s _⟩
  · exact ⟨rfl, rfl, rfl⟩

theorem ringKeeps_ringFresh (s : State) (asid block : Nat) : RingKeeps s (ringFresh s asid block) := by
  unfold ringFresh
  split
  · split
    · exact ringKeeps_ringReset s _
    · exact .refl s
  · exact .refl s

theorem ringKeeps_ringsFresh (s : State) (asid : Nat) : RingKeeps s (ringsFresh s asid) :=
  .foldl (f := fun st (r : Ring) => ringFresh st asid r.block) (fun st r => ringKeeps_ringFresh st asid r.block) _ s

theorem ringKeeps_ringWaiters (s : State) (asid : Nat) : RingKeeps s (ringWaiters s asid) :=
  .foldl (f := fun st (t : Thread) => abandonRing st t.id) (fun _ _ => ⟨rfl, rfl, rfl⟩) _ s

theorem RingKeeps.partOf {s s' : State} (h : RingKeeps s s') {a : Nat} {p : Partition} (hp : Machine.partOf s a = some p) :
    ∃ q, Machine.partOf s' a = some q := by
  have hmem : a ∈ s'.parts.map (fun q => q.asid) := by
    rw [h.asids]
    exact List.mem_map.mpr ⟨p, List.mem_of_find?_eq_some hp, asid_of_partOf hp⟩
  obtain ⟨q, hq, hasid⟩ := List.mem_map.mp hmem
  exact Option.isSome_iff_exists.mp (List.find?_isSome.mpr ⟨q, hq, decide_eq_true hasid⟩)

/-- Without a rollback region none goes back. -/
theorem rbHaltRegions_of_none {s : State} {asid : Nat} (h : ∀ x ∈ s.places, x.rb = none) : rbHaltRegions s asid = s := by
  refine List.foldlRecOn (motive := fun st => st = s) _ _ rfl ?_
  rintro _ rfl x -
  split
  next p hp => rw [h p (List.mem_of_find?_eq_some hp)]
  next => rfl

/-- A partition that halts: its wait at rings given up, its threads frozen. -/
def halting (s : State) (asid : Nat) (rbhalt : Bool) : State :=
  let s0 := ringsFresh s asid
  let s1 := (ringWaiters s0 asid).updPart asid (fun q => { q with st := .halting, rbhalt := rbhalt })
  { s1 with threads := updBy (fun t => t.asid = asid) (Thread.halt s0) s1.threads }

theorem ringKeeps_halting (s : State) (asid : Nat) (rbhalt : Bool) : (halting s asid rbhalt).mem = s.mem ∧ (halting s asid rbhalt).places = s.places :=
  have h := (ringKeeps_ringsFresh s asid).trans (ringKeeps_ringWaiters (ringsFresh s asid) asid)
  ⟨h.mem, h.places⟩

theorem partHalt_of_running {s : State} {p : Partition} (hp : partOf s p.asid = some p) (hst : p.st = .running) (hrb : ∀ x ∈ s.places, x.rb = none)
    (rbhalt : Bool) : partHalt s p.asid rbhalt = partResult (halting s p.asid rbhalt) p.asid 0 := by
  have hnone : ∀ x ∈ (halting s p.asid rbhalt).places, x.rb = none := by
    rw [(ringKeeps_halting s p.asid rbhalt).2]
    exact hrb
  rw [partHalt, hp]
  simp only [hst, ne_eq, not_true_eq_false, if_false]
  change partResult (if rbhalt = true then rbHaltRegions (halting s p.asid rbhalt) p.asid else halting s p.asid rbhalt) p.asid 0 = _
  rw [rbHaltRegions_of_none hnone, ite_self]

theorem partOf_halting {s : State} {p : Partition} (hp : partOf s p.asid = some p) (rbhalt : Bool) :
    ∃ q, partOf (halting s p.asid rbhalt) p.asid = some q ∧ q.st = .halting := by
  obtain ⟨q, hq⟩ := ((ringKeeps_ringsFresh s p.asid).trans (ringKeeps_ringWaiters (ringsFresh s p.asid) p.asid)).partOf hp
  exact ⟨_, partOf_updPart (f := fun q => { q with st := .halting, rbhalt := rbhalt }) (fun _ => rfl) hq, rfl⟩

/-- Every thread of a partition is changed alike. -/
theorem of_mem_updBy_asid {l : List Thread} {asid : Nat} {f : Thread → Thread} {P : Thread → Prop} (hP : ∀ t, P (f t))
    {t : Thread} (ht : t ∈ updBy (fun t => t.asid = asid) f l) (hasid : t.asid = asid) : P t := by
  obtain ⟨u, -, rfl⟩ := List.mem_map.mp ht
  by_cases h : u.asid = asid
  · simp only [decide_eq_true_eq, h, if_true]
    exact hP u
  · simp only [decide_eq_true_eq, h, if_false] at hasid

/-! ### RESUME (R75, R83) -/

/-- A partition that runs again. -/
def resumed (s : State) (asid : Nat) : State :=
  let s1 := s.updPart asid (fun q => { q.shiftWaits s.cycle with st := .running, rbhalt := false, silent := s.cycle, standby := false })
  { s1 with threads := updBy (fun t => t.asid = asid) (fun t => { t with frozen := false }) s1.threads }

theorem partResume_of_halted {s : State} {p : Partition} (hp : partOf s p.asid = some p) (hst : p.st = .halted) (hrb : ∀ x ∈ s.places, x.rb = none) :
    partResume s p.asid = partResult (resumed s p.asid) p.asid 0 := by
  have hports : ((resumed s p.asid).places.filter (fun x => x.asid = p.asid)).foldl (fun st x =>
      match x.rb with | some b => if b.due then st else rereadPorts st x b | none => st) (resumed s p.asid) = resumed s p.asid := by
    refine List.foldlRecOn (motive := fun st => st = resumed s p.asid) _ _ rfl ?_
    rintro _ rfl x hx
    rw [hrb x (List.mem_filter.mp hx).1]
  rw [partResume, hp]
  simp only [hst, ne_eq, not_true_eq_false, if_false]
  exact congrArg (fun st => partResult st p.asid 0) hports

/-! ### BUSY -/

theorem partcmd_setPartBusy (s : State) (b : Bool) : (setPartBusy s b).pkg.partcmd.getLsbD 0 = b := by
  change (putField s.pkg.partcmd 0 1 (bit1 b)).getLsbD 0 = b
  rw [getLsbD_putField (by decide), if_pos (by decide)]
  cases b <;> rfl

theorem partcmd_partResult (s : State) (asid result : Nat) : (partResult s asid result).pkg.partcmd = s.pkg.partcmd := by
  obtain ⟨w, hw⟩ : ∃ w, partResult s asid result = s.updPkg (fun k => { k with partstat := w }) := ⟨_, rfl⟩
  rw [hw]
  rfl

/-! ### Copies (R65) -/

theorem partFill_of_drained {s : State} {p : Partition} {addr rec_ : Nat} {bs : List Byte} (hp : partOf s p.asid = some p) (hne : p.asid ≠ 0)
    (hst : p.st = .drained) (hrec : s.pkg.fillRec = some rec_) (hbytes : recBytes s rec_ = some bs) (hok : (partRec bs).ok = true)
    (hasid : (partRec bs).asid = p.asid) (hshape : sameShape p (partRec bs) = true) (hmove : canMove s p (partRec bs) = true)
    (hfree : planeTaken s { p with rects := (partRec bs).rects } true = false) : partFill s p.asid addr =
      setPartBusy (s.updPkg (fun k => { k with copying := some { asid := p.asid, addr := addr, record := bs }, fillRec := none })) true := by
  rw [partFill, if_neg hne, hp]
  simp only [hrec, Option.bind_some, hbytes]
  rw [if_neg (by simp [hst]), if_neg (by simp [hok, hasid, hshape, hmove]), hfree]
  rfl

/-- The machine once its copy is no longer under way. -/
def copied (s : State) : State := setPartBusy (s.updPkg (fun k => { k with copying := none })) false

theorem copied_parts (s : State) : (copied s).parts = s.parts := by rw [copied, setPartBusy, State.updPkg_parts, State.updPkg_parts]
theorem copied_partcmd (s : State) : (copied s).pkg.partcmd.getLsbD 0 = false := partcmd_setPartBusy _ false
theorem partOf_copied (s : State) (a : Nat) : partOf (copied s) a = partOf s a := partOf_congr (copied_parts s) a

theorem partOf_setPartBusy_copying {s : State} {a : Nat} {p : Partition} (hp : partOf s a = some p) :
    partOf (setPartBusy (s.updPkg (fun k => { k with copying := none })) false) a = some p := (partOf_copied s a).trans hp

theorem freeSpan_parts (s : State) (pa n : Nat) : (freeSpan s pa n).parts = s.parts := rfl
theorem freeSpan_pkg (s : State) (pa n : Nat) : (freeSpan s pa n).pkg = s.pkg := rfl

section
variable {s : State} {p : Partition} {addr : Nat} (hp : partOf s p.asid = some p)
include hp

theorem exec_partitionCopyDone_of_drain (hcopy : s.pkg.copying = some { asid := p.asid, addr := addr, record := [] }) :
    exec .partitionCopyDone s =
      .next (partResult ((freeSpan (copied s) addr (min p.saveSize (memTop - addr))).setPart { p with st := .drained }) p.asid 0) := by
  change execPartitionCopyDone s = _
  rw [execPartitionCopyDone, hcopy]
  simp only [partOf_setPartBusy_copying hp, List.isEmpty_nil, if_true]
  rfl

variable {bs : List Byte} {m : Partition} (hcopy : s.pkg.copying = some { asid := p.asid, addr := addr, record := bs }) (hne : bs ≠ [])
  (hm : partOf (movePartition (copied s) p (partRec bs)) p.asid = some m)
include hcopy hne hm

theorem exec_partitionCopyDone_of_fill (hcat : catCheck (movePartition (copied s) p (partRec bs)) p.asid m.catbase m.catcount 0 = none)
    (hrows : planedRows (movePartition (copied s) p (partRec bs)) m = []) :
    let s2 := movePartition (copied s) p (partRec bs)
    exec .partitionCopyDone s = .next (partResult { s2.setPart { m.withCatalogue s2 m.catbase m.catcount with st := .stored } with
      warm := s2.warm.filter (fun w => w.asid ≠ p.asid) } p.asid 0) := by
  intro s2
  change execPartitionCopyDone s = _
  unfold copied at hm hcat hrows
  rw [execPartitionCopyDone, hcopy]
  simp only [partOf_setPartBusy_copying hp,
    show bs.isEmpty = false by simpa using hne, Bool.false_eq_true, if_false, hm, hcat, claimPlanes_of_noRows hrows, hrows, List.isEmpty_nil, Bool.not_true]
  rfl

theorem exec_partitionCopyDone_of_badCatalogue {result index : Nat}
    (hcat : catCheck (movePartition (copied s) p (partRec bs)) p.asid m.catbase m.catcount 0 = some (result, index)) :
    exec .partitionCopyDone s = .next (partResult ((copied s).updPkg (fun k =>
      { k with catctl := catctlWord k.catctl result index (bitsOf k.catctl.toNat 0 1) })) p.asid 1) := by
  change execPartitionCopyDone s = _
  unfold copied at hm hcat
  rw [execPartitionCopyDone, hcopy]
  simp only [partOf_setPartBusy_copying hp,
    show bs.isEmpty = false by simpa using hne, Bool.false_eq_true, if_false, hm, hcat]
  rfl

end

/-- A partition that has been moved is the one its record places. -/
theorem partOf_movePartition {s : State} {p : Partition} (hp : partOf s p.asid = some p) (r : PartRec) :
    partOf (movePartition s p r) p.asid = some (p.moved (moves p.rects r.rects) r) :=
  partOf_setPart (s := s) (p := p.moved (moves p.rects r.rects) r) hp

/-! ### The obligation -/

theorem partitionLife : Claims.PartitionLife := by
  intro s v p hp named addr frozen isIn
  have hp0 : partOf (commanded s v) p.asid = some p := hp
  refine ⟨fun hacc hnamed hst => ?destroy, fun hacc hnamed hst => ?badstate, fun hacc hnamed hst hrb => ?halt, fun hst hmet => ?halted,
    fun hacc hnamed hst hrb => ?resume, fun hacc hnamed hst => ?drain, fun hcopy => ?drained, fun hacc hzero => ?record,
    fun rec_ bs hacc hnamed hne hst hrec hbytes hok hasid hshape hmove hfree => ?fill, ?filled⟩
  case destroy =>
    refine ⟨partResult (dropPartition (commanded s v) p.asid) p.asid 0, ?_, told_partResult_none (partOf_dropPartition _ _), partResult_parts ..,
      partResult_places .., partResult_mem .., fun t ht hasid => isSys_of_mem_dropPartition (by rwa [partResult_threads] at ht) hasid⟩
    rw [exec_partcmdDestroy hacc, hnamed, partDestroy_of_rest hp0 hst]
  case badstate =>
    refine ⟨partResult (commanded s v) p.asid 4, ?_, told_partResult hp0, partResult_parts ..⟩
    rw [exec_partcmdDestroy hacc, hnamed, partDestroy_of_running hp0 hst]
  case halt =>
    have hexec := exec_partcmdHalt hacc
    let rbhalt : Bool := bitsOf v.toNat 2 1 = 1
    obtain ⟨q, hq, hhalting⟩ := partOf_halting hp0 rbhalt
    rw [hnamed, partHalt_of_running hp0 hst hrb] at hexec
    refine ⟨_, hexec, ?_, ⟨q, by rwa [partOf_partResult], hhalting⟩, fun t ht hasid => ?_, ?_⟩
    · have htold := told_partResult (result := 0) hq
      rwa [hhalting] at htold
    · rw [partResult_threads] at ht
      exact of_mem_updBy_asid (P := fun t => t.frozen = true) (f := Thread.halt (ringsFresh (commanded s v) p.asid)) (fun _ => rfl) ht hasid
    · rw [partResult_mem]
      exact (ringKeeps_halting (commanded s v) p.asid rbhalt).1
  case halted =>
    have hpart := partOf_updPart (f := fun q => { q with st := .halted, haltedAt := s.cycle, silent := s.cycle, standby := false }) (fun _ => rfl) hp
    have hexec : exec (.partitionHalted p.asid) s = execPartitionHalted p.asid s := rfl
    rw [execPartitionHalted, hp] at hexec
    simp only [hst, hmet, ne_eq, not_true_eq_false, decide_false, Bool.not_true, Bool.or_false, Bool.false_eq_true, if_false] at hexec
    refine ⟨_, hexec, ⟨{ p with st := .halted, haltedAt := s.cycle, silent := s.cycle, standby := false }, ?_, rfl⟩, ?_, ?_⟩
    · split
      · rw [partOf_partResult]
        exact hpart
      · exact hpart
    · split
      · rw [partResult_mem]
        rfl
      · rfl
    · split
      · rw [partResult_threads]
        rfl
      · rfl
  case resume =>
    have hpart : partOf (resumed (commanded s v) p.asid) p.asid = some _ := partOf_updPart (by exact fun _ => rfl) hp0
    refine ⟨partResult (resumed (commanded s v) p.asid) p.asid 0, ?_, told_partResult hpart, ⟨_, by rwa [partOf_partResult], rfl⟩,
      fun t ht hasid => ?_, partResult_mem ..⟩
    · rw [exec_partcmdResume hacc, hnamed, partResume_of_halted hp0 hst hrb]
    · rw [partResult_threads] at ht
      exact of_mem_updBy_asid (P := fun t => t.frozen = false) (f := fun t => { t with frozen := false }) (fun _ => rfl) ht hasid
  case drain =>
    refine ⟨_, exec_partcmdDrain hacc, ?_⟩
    rw [hnamed, partDrain, if_pos (by rw [stateOf, hp0]; simp [hst, PState.code])]
    exact ⟨partcmd_setPartBusy _ true, rfl, rfl⟩
  case drained =>
    have hpart : partOf ((freeSpan (copied s) addr (min p.saveSize (memTop - addr))).setPart { p with st := .drained }) p.asid =
        some { p with st := .drained } := by
      refine partOf_setPart (p := { p with st := .drained }) (q := p) ?_
      rw [partOf_congr (freeSpan_parts ..), partOf_copied]
      exact hp
    refine ⟨_, exec_partitionCopyDone_of_drain hp hcopy, told_partResult hpart, ?_, by rwa [partOf_partResult]⟩
    rw [partcmd_partResult, State.setPart_pkg, freeSpan_pkg]
    exact copied_partcmd s
  case record =>
    refine ⟨{ (commanded s v).pkg with fillRec := some addr }, ?_, rfl⟩
    rw [exec_partcmdFill hacc, hzero]
    rfl
  case fill =>
    refine ⟨_, exec_partcmdFill hacc, ?_⟩
    rw [hnamed, partFill_of_drained hp0 hne hst hrec hbytes hok hasid hshape hmove hfree]
    exact ⟨partcmd_setPartBusy _ true, rfl, rfl⟩
  case filled =>
    rintro bs s1 hcopy hbs rfl s2 m hm
    have hp1 : partOf (copied s) p.asid = some p := (partOf_copied s p.asid).trans hp
    refine ⟨fun hcat hrows => ?stored, fun hcat => ?refused⟩
    case stored =>
      have hmoved : m = p.moved (moves p.rects (partRec bs).rects) (partRec bs) := by
        rw [show partOf s2 p.asid = _ from partOf_movePartition hp1 (partRec bs)] at hm
        exact (Option.some.inj hm).symm
      have hasid : m.asid = p.asid := asid_of_partOf hm
      let q : Partition := { m.withCatalogue s2 m.catbase m.catcount with st := .stored }
      have hpart : partOf { s2.setPart q with warm := s2.warm.filter (fun w => w.asid ≠ p.asid) } p.asid = some q := by
        rw [← hasid] at hm ⊢
        exact (partOf_congr (s := s2.setPart q) rfl _).trans (partOf_setPart (p := q) hm)
      refine ⟨_, exec_partitionCopyDone_of_fill hp hcopy hbs hm hcat hrows, told_partResult hpart, q, by rwa [partOf_partResult], rfl, ?_⟩
      subst hmoved
      exact ⟨rfl, rfl, rfl⟩
    case refused =>
      obtain ⟨⟨result, index⟩, hbad⟩ := Option.ne_none_iff_exists'.mp hcat
      refine ⟨_, exec_partitionCopyDone_of_badCatalogue hp hcopy hbs hm hbad, told_partResult (q := p) ?_, ?_⟩
      · rw [partOf_updPkg]
        exact hp1
      · rw [partResult_parts, State.updPkg_parts, copied_parts]

/-- Settles O43: each command of PARTCMD by what it does to an accepted write's machine, with the judgements of CREATE and FILL in their order, and
the copy's end. -/
theorem partitions : Obligations.Partitions := ⟨partitionCreate, partitionLife⟩

end Sys2Proof.Machine
end

section
/-! SUPPORT. The dispatcher (O44): the heads it passes over, the region it finds, and what a started launch is (R75-R79). -/

namespace Sys2Proof.Machine
open Sys2Proof.Claims

-- One after another: proofs elaborated at a time take a thread each, whose stacks are the most of the check's memory.
set_option Elab.async false

/-! ### Changes of launch entries alone -/

/-- Only the entries of partitions are changed. -/
def onTasks (a k : Nat) (f : TgEntry → TgEntry) (q : Partition) : Partition := if q.asid = a then q.updTask k f else q

theorem onTasks_view (a k : Nat) (f : TgEntry → TgEntry) (q : Partition) :
    (onTasks a k f q).asid = q.asid ∧ (onTasks a k f q).st = q.st ∧ (onTasks a k f q).curq = q.curq := by
  unfold onTasks
  split <;> exact ⟨rfl, rfl, rfl⟩

theorem updTask_parts (s : State) (a k : Nat) (f : TgEntry → TgEntry) : (s.updTask a k f).parts = s.parts.map (onTasks a k f) := by
  refine List.map_congr_left fun q _ => ?_
  simp only [decide_eq_true_eq]
  rfl

theorem activeAsid_updTask (s : State) (a k : Nat) (f : TgEntry → TgEntry) (b : Nat) : activeAsid (s.updTask a k f) b = activeAsid s b := by
  unfold activeAsid State.updTask
  rw [partOf_updPart_map (by exact fun _ => rfl)]
  cases partOf s b with
  | none => rfl
  | some q => by_cases h : q.asid = a <;> simp [h, Partition.updTask]

theorem keptFor_updTask (s : State) (a k : Nat) (f : TgEntry → TgEntry) (die gx gy : Nat) :
    keptFor (s.updTask a k f) die gx gy = keptFor s die gx gy := by
  have hview (q : Partition) := onTasks_view a k f q
  unfold keptFor
  rw [updTask_parts, List.filter_map, List.foldl_map]
  simp only [Function.comp_def, activeAsid_updTask, (hview _).1, (hview _).2.2]

/-- Where a region is free depends on no launch's entry (R76). -/
theorem findRegion_updTask (s : State) (p : Partition) (g : Folio) (a k : Nat) (f : TgEntry → TgEntry) :
    findRegion (s.updTask a k f) p g = findRegion s p g := by
  have hocc (die gx gy : Nat) : occupied (s.updTask a k f) die gx gy = occupied s die gx gy := by
    unfold occupied
    simp only [activeAsid_updTask, keptFor_updTask]
    rfl
  have hfree (die gx gy : Nat) : regionFree (s.updTask a k f) p g die gx gy = regionFree s p g die gx gy := by
    unfold regionFree
    simp only [hocc]
    rfl
  unfold findRegion
  simp only [hfree]

/-! ### The heads that stay (R76) -/

/-- Heads that found no region have been marked: nothing changes but launch entries, none of which goes away. -/
structure Marked (p : Partition) (slot : Nat) (s s' : State) : Prop where
  rest : s' = { s with parts := s'.parts }
  region : ∀ f, findRegion s' p f = findRegion s p f
  entry : ∀ q x, partOf s p.asid = some q → q.task? slot = some x → ∃ q' x', partOf s' p.asid = some q' ∧ q'.task? slot = some x'

theorem Marked.refl (p : Partition) (slot : Nat) (s : State) : Marked p slot s s := ⟨rfl, fun _ => rfl, fun q x hq hx => ⟨q, x, hq, hx⟩⟩

theorem Marked.trans {p : Partition} {slot : Nat} {a b c : State} (h : Marked p slot a b) (h' : Marked p slot b c) : Marked p slot a c where
  rest := by rw [h'.rest, h.rest]
  region f := (h'.region f).trans (h.region f)
  entry q x hq hx := by
    obtain ⟨q', x', hq', hx'⟩ := h.entry q x hq hx
    exact h'.entry q' x' hq' hx'

/-- An entry that is changed under its own slot is found there. -/
theorem task?_updTask {q : Partition} {slot k : Nat} {f : TgEntry → TgEntry} (hf : ∀ e, (f e).slot = e.slot) :
    (q.updTask k f).task? slot = (q.task? slot).map (fun e => if e.slot = k then f e else e) := by
  have hblind := find?_updBy_blind (b := fun e : TgEntry => decide (e.slot = k)) (p := fun e : TgEntry => decide (e.slot = slot)) (g := f)
    (fun e => by rw [hf]) q.tasks
  simp only [decide_eq_true_eq] at hblind
  exact hblind

theorem marked_updTask (p : Partition) (slot : Nat) (s : State) (k : Nat) {f : TgEntry → TgEntry} (hf : ∀ e, (f e).slot = e.slot) :
    Marked p slot s (s.updTask p.asid k f) where
  rest := rfl
  region g := findRegion_updTask s p g p.asid k f
  entry q x hq hx := by
    refine ⟨q.updTask k f, if x.slot = k then f x else x, partOf_updPart (by exact fun _ => rfl) hq, ?_⟩
    rw [task?_updTask hf, hx]
    rfl

/-- Heads without a region are passed over. -/
theorem tryLevels_of_blocked {p : Partition} (slot : Nat) {high : List Nat} (low : List Nat) {s : State}
    (h : ∀ l ∈ high, ∀ b, p.headOf l s.cycle = some b →
      b.folio < p.catcount ∧ ∃ g, p.cached p.homedie p.homecore b.folio = some g ∧ findRegion s p g = none) :
    ∃ s', tryLevels p (high ++ low) s = tryLevels p low s' ∧ Marked p slot s s' := by
  induction high generalizing s with
  | nil => exact ⟨s, rfl, .refl p slot s⟩
  | cons l high ih =>
    rw [List.cons_append, tryLevels]
    cases hhead : p.headOf l s.cycle with
    | none => exact ih fun m hm => h m (.tail l hm)
    | some b =>
      obtain ⟨hfolio, g, hcached, hnone⟩ := h l (.head high) b hhead
      simp only [if_neg (Nat.not_le.mpr hfolio), hcached, hnone]
      have hmark := marked_updTask p slot s b.slot (f := fun x => { x with blockedAt := match x.blockedAt with | none => some s.cycle | b => b })
        (fun _ => rfl)
      obtain ⟨s', hs', hmarked⟩ := ih (s := s.updTask p.asid b.slot (fun x => { x with blockedAt := match x.blockedAt with | none => some s.cycle | b => b }))
        (fun m hm c hc => by
          obtain ⟨hfolio', g', hcached', hnone'⟩ := h m (.tail l hm) c hc
          exact ⟨hfolio', g', hcached', (hmark.region g').trans hnone'⟩)
      exact ⟨s', hs', hmark.trans hmarked⟩

/-- The levels the dispatcher serves above one of them. -/
theorem levels_split {p : Partition} {now lvl : Nat} (h : lvl ∈ p.levels now) : ∃ high low, p.levels now = high ++ lvl :: low ∧ ∀ l ∈ high, lvl < l := by
  obtain ⟨high, low, e⟩ := List.append_of_mem h
  have hsorted : (p.levels now).Pairwise (· > ·) := List.Pairwise.filter _ (by decide)
  rw [e, List.pairwise_append] at hsorted
  obtain ⟨-, -, hhigh⟩ := hsorted
  exact ⟨high, low, e, fun l hl => hhigh l hl lvl (.head low)⟩

/-! ### The start of a launch (R76, R78) -/

/-- A region that is found is free. -/
theorem regionFree_of_findRegion {s : State} {p : Partition} {f : Folio} {die gx gy : Nat} (h : findRegion s p f = some (die, gx, gy)) :
    regionFree s p f die gx gy = true := by
  obtain ⟨d, -, hd⟩ := List.exists_of_findSome?_eq_some h
  obtain ⟨y, -, hy⟩ := List.exists_of_findSome?_eq_some hd
  obtain ⟨x, -, hx⟩ := List.exists_of_findSome?_eq_some hy
  split at hx
  next hfree =>
    cases hx
    exact hfree
  next => cases hx

theorem idleThread_spec {s : State} {die core n : Nat} (h : idleThread s die core = some n) :
    n < 4 ∧ ∀ u ∈ s.threads, u.id = .ctl die core n → u.idle = true := by
  refine ⟨List.mem_range.mp (List.mem_of_find?_eq_some h), fun u hu hid => ?_⟩
  have hnone := List.find?_some h
  simp only [Bool.not_eq_true', List.any_eq_false] at hnone
  simpa [hid] using hnone u hu

/-- A folio put in a region adds one place and changes the fabric under it. -/
theorem placeFolio_eq (s : State) (asid die gx gy lslot scope : Nat) (f : Folio) :
    let r := placeFolio s asid die gx gy lslot scope f none
    r.2 = s.nextPlace ∧ r.1.mem = s.mem ∧ r.1.pkg = s.pkg ∧ r.1.threads = s.threads ∧ r.1.parts = s.parts ∧ r.1.cycle = s.cycle ∧
    ∃ x, r.1.places = s.places ++ [x] ∧ x.id = s.nextPlace ∧ x.asid = asid ∧ x.die = die ∧ x.gx = gx ∧ x.gy = gy ∧ x.gw = f.w ∧
      x.gh = f.h ∧ x.slots = [some f, none, none, none] ∧ x.lslot = lslot ∧ x.scope = scope ∧ x.inst = none := by
  have hconf (t : State) (p : Place) : ∃ sites rslots segs left, configure t p 0 = { t with sites := sites, rslots := rslots, segs := segs, left := left } := by
    unfold configure keepLeft
    split
    · exact ⟨_, _, _, _, rfl⟩
    · split <;> exact ⟨_, _, _, _, rfl⟩
  unfold placeFolio
  dsimp only
  obtain ⟨sites, rslots, segs, left, he⟩ := hconf _ _
  rw [he]
  exact ⟨rfl, rfl, rfl, rfl, rfl, rfl, _, rfl, rfl, rfl, rfl, rfl, rfl, rfl, rfl, rfl, rfl, rfl, rfl⟩

theorem touchCache_tasks (p : Partition) (die core routine : Nat) : (p.touchCache die core routine).tasks = p.tasks := by
  unfold Partition.touchCache
  split <;> rfl

theorem touchCache_asid (p : Partition) (die core routine : Nat) : (p.touchCache die core routine).asid = p.asid := by
  unfold Partition.touchCache
  split <;> rfl

/-- The registers of an entry thread (R78). -/
theorem entryThread_reg (die core n place : Nat) (p : Partition) (e : TgEntry) :
    (entryThread die core n place p e).reg 1 = e.arg ∧ (entryThread die core n place p e).reg 2 = BitVec.ofNat 64 (lidOf e.gen e.slot) ∧
    ∀ r : Reg, r ≠ 1 → r ≠ 2 → (entryThread die core n place p e).reg r = 0 := by
  unfold entryThread
  refine ⟨?_, ?_, fun r h1 h2 => ?_⟩
  · rw [Thread.reg_writeReg_other (by decide), Thread.reg_writeReg_same (by decide)]
  · rw [Thread.reg_writeReg_same (by decide)]
  · rw [Thread.reg_writeReg_other h2, Thread.reg_writeReg_other h1]
    unfold Thread.reg
    split
    · rfl
    · simp [Thread.fresh]

/-- A partition one of whose launches starts. -/
def Partition.starts (q : Partition) (p : Partition) (e : TgEntry) (place now : Nat) : Partition :=
  { (q.updTask e.slot (fun x => { x with st := .running, place := some place, startCycle := now, blockedAt := none, capped := false })).touchCache
      p.homedie p.homecore e.folio with lastStart := some now }

/-- The machine once a launch's entry thread has taken the place of an idle one (R78). -/
def withEntry (s : State) (die core n place : Nat) (p : Partition) (e : TgEntry) : State :=
  { s with threads := s.threads.filter (fun (t : Thread) => t.id ≠ ThreadId.ctl die core n) ++ [entryThread die core n place p e] }

theorem startLaunch_eq {s : State} {p : Partition} {e : TgEntry} {f : Folio} {die gx gy n : Nat} (hbad : f.bad p.catcount (some (gx, gy)) = none)
    (hn : idleThread s die (coreOfGranule gx gy) = some n) :
    let r := placeFolio s p.asid die gx gy e.slot e.scope f none
    startLaunch s p e f die gx gy =
      stir ((withEntry r.1 die (coreOfGranule gx gy) n r.2 p e).updPart p.asid (fun q => q.starts p e r.2 s.cycle)) p.asid := by
  simp only [startLaunch, hbad, hn]
  rfl

theorem Partition.starts_asid (q p : Partition) (e : TgEntry) (place now : Nat) : (q.starts p e place now).asid = q.asid :=
  touchCache_asid ..

theorem Partition.starts_task? {q p : Partition} {e x : TgEntry} (place now : Nat) (hx : q.task? e.slot = some x) :
    (q.starts p e place now).task? e.slot =
      some { x with st := .running, place := some place, startCycle := now, blockedAt := none, capped := false } := by
  have hslot : x.slot = e.slot := of_decide_eq_true (List.find?_some (p := fun y : TgEntry => decide (y.slot = e.slot)) hx)
  have htasks : (q.starts p e place now).tasks = (q.updTask e.slot (fun x =>
      { x with st := .running, place := some place, startCycle := now, blockedAt := none, capped := false })).tasks := touchCache_tasks ..
  rw [Partition.task?, htasks]
  exact (task?_updTask (by exact fun _ => rfl)).trans (by rw [hx, Option.map_some, if_pos hslot])

/-! ### The dispatcher's steps -/

/-- The dispatcher has started a launch less than eight cycles ago (R76). -/
def Partition.early (p : Partition) (now : Nat) : Bool := match p.lastStart with | some c => now < c + 8 | none => false

theorem exec_dispatch {s : State} {p : Partition} (hp : partOf s p.asid = some p) :
    exec (.dispatch p.asid) s = if p.st ≠ .running || p.early s.cycle then .next s else .next (tryLevels p (p.levels s.cycle) s) := by
  change execDispatch p.asid s = _
  rw [execDispatch, hp]
  rfl

theorem dispatches {s : State} {p : Partition} {e : TgEntry} {f : Folio} {lvl die gx gy : Nat} (hp : partOf s p.asid = some p)
    (hst : p.st = .running) (hlast : ∀ c, p.lastStart = some c → c + 8 ≤ s.cycle) (hlvl : lvl ∈ p.levels s.cycle)
    (hhead : p.headOf lvl s.cycle = some e)
    (habove : ∀ l ∈ p.levels s.cycle, lvl < l → ∀ b, p.headOf l s.cycle = some b →
      b.folio < p.catcount ∧ ∃ g, p.cached p.homedie p.homecore b.folio = some g ∧ findRegion s p g = none)
    (hfolio : e.folio < p.catcount) (hcached : p.cached p.homedie p.homecore e.folio = some f) (hfound : findRegion s p f = some (die, gx, gy)) :
    ∃ s', exec (.dispatch p.asid) s = .next (startLaunch s' p e f die gx gy) ∧ Marked p e.slot s s' := by
  obtain ⟨high, low, hsplit, hhigh⟩ := levels_split hlvl
  obtain ⟨s', hpassed, hmarked⟩ := tryLevels_of_blocked e.slot (lvl :: low) (s := s) (fun l hl =>
    habove l (hsplit ▸ List.mem_append_left _ hl) (hhigh l hl))
  refine ⟨s', ?_, hmarked⟩
  have hearly : p.early s.cycle = false := by
    unfold Partition.early
    cases hc : p.lastStart with
    | none => rfl
    | some c => simpa using hlast c hc
  have hhead' : p.headOf lvl s'.cycle = some e := by
    rw [hmarked.rest]
    exact hhead
  rw [exec_dispatch hp, if_neg (by simp [hst, hearly]), hsplit, hpassed, tryLevels, hhead']
  simp only [if_neg (Nat.not_le.mpr hfolio), hcached, (hmarked.region f).trans hfound]

theorem dispatcherSteps : Claims.DispatcherSteps := by
  intro s p e f lvl die gx gy hp he
  refine ⟨fun hst hlast hlvl hhead habove hfolio hcached hfound hbad => ?starts, fun hst hready hlevel hwait => ?ages,
    fun hst hhead hlimit hblocked => ?capped, fun x hx hasid hinst hactive => ?powered⟩
  case starts =>
    obtain ⟨s', hexec, hmarked⟩ := dispatches hp hst hlast hlvl hhead habove hfolio hcached hfound
    obtain ⟨q, x, hq, hx⟩ := hmarked.entry p e hp he
    obtain ⟨hmem', hpkg', hthreads', hplaces', hnext, hcycle'⟩ : s'.mem = s.mem ∧ s'.pkg = s.pkg ∧ s'.threads = s.threads ∧ s'.places = s.places ∧
        s'.nextPlace = s.nextPlace ∧ s'.cycle = s.cycle := by
      rw [hmarked.rest]
      exact ⟨rfl, rfl, rfl, rfl, rfl, rfl⟩
    obtain ⟨n, hn⟩ : ∃ n, idleThread s' die (coreOfGranule gx gy) = some n := by
      have hfree := regionFree_of_findRegion ((hmarked.region f).trans hfound)
      simp only [regionFree, Bool.and_eq_true] at hfree
      exact Option.isSome_iff_exists.mp hfree.2
    obtain ⟨hlt, hidle⟩ := idleThread_spec hn
    obtain ⟨hid, hmem, hpkg, hthreads, hparts, hcycle, y, hplaces, hy⟩ := placeFolio_eq s' p.asid die gx gy e.slot e.scope f
    rw [hnext] at hid hy
    obtain ⟨hreg1, hreg2, hregs⟩ := entryThread_reg die (coreOfGranule gx gy) n s.nextPlace p e
    have hstart := startLaunch_eq (e := e) hbad hn
    let r := placeFolio s' p.asid die gx gy e.slot e.scope f none
    have hentered : partOf (withEntry r.1 die (coreOfGranule gx gy) n r.2 p e) p.asid = some q := (partOf_congr hparts p.asid).trans hq
    have hpart := (partOf_congr (congrArg State.parts hstart) p.asid).trans
      (partOf_stir (partOf_updPart (f := fun q => q.starts p e r.2 s'.cycle) (fun q => Partition.starts_asid q ..) hentered))
    have hentry := Partition.starts_task? (p := p) r.2 s'.cycle hx
    refine ⟨_, hexec, ?mem, ?pkg, ⟨entryThread die (coreOfGranule gx gy) n s.nextPlace p e, n, ?threads, rfl, hlt,
      hthreads' ▸ hidle, rfl, rfl, rfl, hreg1, hreg2, hregs, rfl, rfl, rfl, rfl⟩, ⟨y, ?places, hy⟩, _, _, hpart, hentry, rfl, congrArg some hid, hcycle'⟩
    case mem => exact (congrArg State.mem hstart).trans (hmem.trans hmem')
    case pkg => exact (congrArg State.pkg hstart).trans (hpkg.trans hpkg')
    case threads =>
      rw [← hthreads', ← hthreads, ← hid]
      exact congrArg State.threads hstart
    case places =>
      rw [← hplaces']
      exact (congrArg State.places hstart).trans hplaces
  case ages =>
    change execLaunchAging p.asid e.slot s = _
    have hcounts : p.st.counts = true := by
      rcases hst with h | h <;> rw [h] <;> rfl
    have hdue : e.due s.cycle = true := by simp [TgEntry.due, TgEntry.dueAt, hready, hlevel, hwait]
    rw [execLaunchAging, hp]
    simp only [he, hcounts, hdue, Bool.not_true, Bool.or_false, Bool.false_eq_true, if_false]
  case capped =>
    change execHeadBlockLimit p.asid lvl s = _
    obtain ⟨c, hc⟩ := Option.isSome_iff_exists.mp hblocked
    have hcapped : p.capped lvl s.cycle = true := by simp [Partition.capped, hhead, hc, hlimit c hc]
    rw [execHeadBlockLimit, hp]
    simp only [hhead, hst, hcapped, decide_true, Bool.and_self, if_true]
  case powered =>
    change execFolioPowerReady x.id s = _
    have hact : activeAsid s x.asid = true := by rw [activeAsid, hasid, hp]; exact hactive
    rw [execFolioPowerReady, hx]
    simp only [hinst, hact, Option.isSome_none, Bool.not_true, Bool.or_false, Bool.false_eq_true, if_false]

end Sys2Proof.Machine
end

section
/-! SUPPORT. The completion of a launch (O44): its region goes back and its entry is COMPLETE, whatever becomes of its successors (R70, R71, R73,
R74). -/

namespace Sys2Proof.Machine
open Sys2Proof.Claims

-- One after another: proofs elaborated at a time take a thread each, whose stacks are the most of the check's memory.
set_option Elab.async false

/-! ### A record that is written (R73, R103) -/

/-- It changes no thread, no partition and no place. -/
theorem recPut_keeps {s s' : State} {asid va : Nat} {bs : List Byte} (h : recPut s asid va bs = some s') :
    s'.threads = s.threads ∧ s'.parts = s.parts ∧ s'.places = s.places := by
  have hstore {x : Xl} {s1 : State} (hs : llcStore s x bs = .ok s1 ()) : s1.threads = s.threads ∧ s1.parts = s.parts ∧ s1.places = s.places := by
    unfold llcStore at hs
    split_ifs at hs
    · cases hs
      exact ⟨rfl, rfl, rfl⟩
    · cases hs
      exact ⟨llcPut_threads .., llcPut_parts .., llcPut_places ..⟩
  unfold recPut at h
  split at h
  next =>
    split at h
    next hs =>
      cases h
      obtain ⟨hthreads, hparts, hplaces⟩ := hstore hs
      exact ⟨hthreads, hparts, hplaces⟩
    next => cases h
  next => cases h

/-- A step that moves no place, and whose threads are as they were but for what they wait for and are told. -/
structure Stays (s s' : State) : Prop where
  places : s'.places = s.places
  threads : ∀ t ∈ s'.threads, ∃ u ∈ s.threads, u.id = t.id ∧ u.asid = t.asid ∧ u.lslot = t.lslot

theorem Stays.of_eq {s s' : State} (hplaces : s'.places = s.places) (hthreads : s'.threads = s.threads) : Stays s s' :=
  ⟨hplaces, fun t ht => ⟨t, hthreads ▸ ht, rfl, rfl, rfl⟩⟩

theorem Stays.trans {a b c : State} (h : Stays a b) (h' : Stays b c) : Stays a c where
  places := h'.places.trans h.places
  threads t ht := by
    obtain ⟨u, hu, hid, hasid, hslot⟩ := h'.threads t ht
    obtain ⟨v, hv, hid', hasid', hslot'⟩ := h.threads u hu
    exact ⟨v, hv, hid'.trans hid, hasid'.trans hasid, hslot'.trans hslot⟩

theorem Stays.foldl {α : Type} {f : State → α → State} (hf : ∀ s x, Stays s (f s x)) (l : List α) (s : State) : Stays s (l.foldl f s) :=
  List.foldlRecOn (motive := fun x => Stays s x) l f (.of_eq rfl rfl) fun x hx a _ => hx.trans (hf x a)

theorem stays_stir (s : State) (asid : Nat) : Stays s (stir s asid) := .of_eq rfl rfl
theorem stays_updPart (s : State) (asid : Nat) (f : Partition → Partition) : Stays s (s.updPart asid f) := .of_eq rfl rfl
theorem stays_setPart (s : State) (p : Partition) : Stays s (s.setPart p) := .of_eq rfl rfl
theorem stays_updTask (s : State) (asid slot : Nat) (f : TgEntry → TgEntry) : Stays s (s.updTask asid slot f) := .of_eq rfl rfl

theorem stays_updThread (s : State) (id : ThreadId) {f : Thread → Thread}
    (hf : ∀ u, (f u).id = u.id ∧ (f u).asid = u.asid ∧ (f u).lslot = u.lslot) : Stays s (s.updThread id f) where
  places := rfl
  threads t ht := by
    obtain ⟨u, hu, rfl⟩ := List.mem_map.mp ht
    refine ⟨u, hu, ?_⟩
    split
    · exact ⟨(hf u).1.symm, (hf u).2.1.symm, (hf u).2.2.symm⟩
    · exact ⟨rfl, rfl, rfl⟩

theorem stays_postSupervisor (s : State) (asid code : Nat) (eval : Word) (norec : Bool) : Stays s (postSupervisor s asid code eval norec) :=
  stays_updThread s _ fun u => by split <;> exact ⟨rfl, rfl, rfl⟩

theorem writeCompletion_stays (s : State) (asid : Nat) (e : TgEntry) (cycles : Nat) :
    Stays s (writeCompletion s asid e cycles) ∧ (writeCompletion s asid e cycles).parts = s.parts := by
  have hput : ∃ s1, s1 = (match recPut s asid e.crec (completionBytes e cycles) with
      | some s' => s'
      | none => postSupervisor s asid 41 (BitVec.ofNat 64 (lidOf e.gen e.slot)) false) ∧ Stays s s1 ∧ s1.parts = s.parts := by
    refine ⟨_, rfl, ?_⟩
    split
    next s' h =>
      obtain ⟨hthreads, hparts, hplaces⟩ := recPut_keeps h
      exact ⟨.of_eq hplaces hthreads, hparts⟩
    next => exact ⟨stays_postSupervisor .., rfl⟩
  obtain ⟨s1, hs1, hstays, hparts⟩ := hput
  have hwrite : writeCompletion s asid e cycles = (match e.creator with | some t => s1.setEvent t | none => s1) := by
    rw [hs1]
    rfl
  rw [hwrite]
  split
  · exact ⟨hstays.trans (stays_updThread s1 _ fun _ => ⟨rfl, rfl, rfl⟩), hparts⟩
  · exact ⟨hstays, hparts⟩

/-! ### The entries of a slot -/

/-- The entries in one of a partition's slots. -/
def Partition.inSlot (p : Partition) (slot : Nat) : List TgEntry := p.tasks.filter (fun e => e.slot = slot)

theorem Partition.task?_eq_head? (p : Partition) (slot : Nat) : p.task? slot = (p.inSlot slot).head? := List.head?_filter.symm

theorem inSlot_of_task? {p : Partition} {slot : Nat} {e : TgEntry} (h : p.task? slot = some e) : e ∈ p.inSlot slot :=
  List.mem_filter.mpr ⟨List.mem_of_find?_eq_some h, by simpa using List.find?_some h⟩

/-- A change that keeps slots. -/
theorem filter_slot_updBy {b : TgEntry → Bool} {f : TgEntry → TgEntry} (hf : ∀ x, (f x).slot = x.slot) (slot : Nat) (l : List TgEntry) :
    (updBy b f l).filter (fun e => e.slot = slot) = updBy b f (l.filter (fun e => e.slot = slot)) := by
  rw [updBy, updBy, List.filter_map]
  congr 1
  refine List.filter_congr fun x _ => ?_
  simp only [Function.comp_apply]
  split
  · rw [hf]
  · rfl

/-- One that does not touch a slot's entries leaves them. -/
theorem filter_slot_updBy_of_none {b : TgEntry → Bool} {f : TgEntry → TgEntry} (hf : ∀ x, (f x).slot = x.slot) {slot : Nat} {l : List TgEntry}
    (h : ∀ x ∈ l.filter (fun e => e.slot = slot), b x = false) :
    (updBy b f l).filter (fun e => e.slot = slot) = l.filter (fun e => e.slot = slot) := by
  rw [filter_slot_updBy hf]
  refine (List.map_congr_left fun x hx => ?_).trans (List.map_id _)
  rw [h x hx]
  rfl

theorem inSlot_updTask_other {p : Partition} {slot k : Nat} {f : TgEntry → TgEntry} (hf : ∀ x, (f x).slot = x.slot) (h : k ≠ slot) :
    (p.updTask k f).inSlot slot = p.inSlot slot :=
  filter_slot_updBy_of_none hf fun x hx => by
    have hslot := (List.mem_filter.mp hx).2
    simp only [decide_eq_true_eq] at hslot
    simpa [hslot] using Ne.symm h

theorem inSlot_updTask_same {p : Partition} {slot : Nat} {f : TgEntry → TgEntry} (hf : ∀ x, (f x).slot = x.slot) :
    (p.updTask slot f).inSlot slot = (p.inSlot slot).map f := by
  refine (filter_slot_updBy hf slot p.tasks).trans (List.map_congr_left fun x hx => if_pos (List.mem_filter.mp hx).2)

/-- Entries that are COMPLETE, every one. -/
def AllComplete (l : List TgEntry) : Prop := ∀ x ∈ l, x.st = .complete

/-! ### The edges of a launch that is over (R70, R71) -/

section
variable {p : Partition} {slot : Nat} (hall : AllComplete (p.inSlot slot))
include hall

/-- A slot of COMPLETE entries is none that waits for a predecessor. -/
theorem slot_ne_of_waiting {x : TgEntry} (hx : x ∈ p.tasks) (hst : x.st = .pending ∨ x.st = .held) : x.slot ≠ slot := by
  intro hslot
  have hcomplete := hall x (List.mem_filter.mpr ⟨hx, by simpa using hslot⟩)
  rw [hcomplete] at hst
  rcases hst with h | h <;> cases h

/-- Settling an entry that waits leaves the COMPLETE ones. -/
theorem inSlot_settle (k now : Nat) : (p.settle k now).inSlot slot = p.inSlot slot := by
  unfold Partition.settle
  cases he : p.task? k with
  | none => rfl
  | some e =>
    dsimp only
    split
    · rfl
    next hwaits =>
      have hk : k ≠ slot := by
        rw [← (show e.slot = k by simpa using List.find?_some he)]
        exact slot_ne_of_waiting hall (List.mem_of_find?_eq_some he) (by tauto)
      split
      · exact inSlot_updTask_other (fun _ => rfl) hk
      split
      · exact inSlot_updTask_other (fun _ => rfl) hk
      · exact inSlot_updTask_other (fun _ => rfl) hk

/-- So does the evaluation of the edges towards a launch, and no slot of theirs is to be cancelled. -/
theorem inSlot_evaluate (lid status verdict now : Nat) :
    (p.evaluate lid status verdict now).1.inSlot slot = p.inSlot slot ∧ ∀ j ∈ (p.evaluate lid status verdict now).2, j ≠ slot := by
  unfold Partition.evaluate
  dsimp only
  refine ⟨?_, fun j hj => ?_⟩
  · refine List.foldlRecOn (motive := fun q : Partition => q.inSlot slot = p.inSlot slot) _ _ ?_ fun q hq k _ => ?_
    · rw [Partition.inSlot, Partition.inSlot]
      refine filter_slot_updBy_of_none (by exact fun _ => rfl) fun x hx => ?_
      have hcomplete := hall x hx
      simp [hcomplete]
    · split
      · exact hq
      · exact (inSlot_settle (p := q) (fun x hx => hall x (hq ▸ hx)) k now).trans hq
  · obtain ⟨x, hx, rfl⟩ := List.mem_map.mp hj
    obtain ⟨hmem, hhit⟩ := List.mem_filter.mp hx
    simp only [Bool.and_eq_true, Bool.or_eq_true, decide_eq_true_eq] at hhit
    obtain ⟨⟨hst, -⟩, -⟩ := hhit
    exact slot_ne_of_waiting hall hmem hst

end

/-- What settling and evaluating leave of a partition's name. -/
theorem settle_asid (p : Partition) (k now : Nat) : (p.settle k now).asid = p.asid := by
  unfold Partition.settle
  split
  · rfl
  · split
    · rfl
    split
    · rfl
    split <;> rfl

theorem evaluate_asid (p : Partition) (lid status verdict now : Nat) : (p.evaluate lid status verdict now).1.asid = p.asid := by
  unfold Partition.evaluate
  dsimp only
  refine List.foldlRecOn (motive := fun q : Partition => q.asid = p.asid) _ _ rfl fun q hq k _ => ?_
  split
  · exact hq
  · exact (settle_asid q k now).trans hq

/-! ### An entry becomes COMPLETE, and its successors' edges are evaluated -/

/-- The machine once an entry is COMPLETE, before any edge is looked at. -/
def completed (s : State) (asid slot : Nat) (e : TgEntry) : State :=
  (writeCompletion (stir s asid) asid e (if e.st = .running then s.cycle - e.startCycle else 0)).updPart asid (fun p =>
    (p.updTask slot (fun x => { x with st := .complete })).workDown e.scope)

/-- The edges towards it are evaluated; what they cancel completes in turn. -/
def cascade (k : Nat) (s : State) (asid slot : Nat) (e : TgEntry) : State :=
  match partOf s asid with
  | none => s
  | some p => (p.evaluate (lidOf e.gen slot) e.status e.verdict s.cycle).2.foldl (fun st j =>
      completeEntry k (st.updTask asid j (fun x => { x with status := 2, verdict := 0 })) asid j)
      (s.setPart (p.evaluate (lidOf e.gen slot) e.status e.verdict s.cycle).1)

theorem completeEntry_of_complete {k : Nat} {s : State} {asid slot : Nat} {e : TgEntry} (h : (partOf s asid).bind (fun p => p.task? slot) = some e)
    (hst : e.st = .complete) : completeEntry (k + 1) s asid slot = s := by
  rw [completeEntry, h]
  exact if_pos hst

theorem completeEntry_of_none {k : Nat} {s : State} {asid slot : Nat} (h : (partOf s asid).bind (fun p => p.task? slot) = none) :
    completeEntry (k + 1) s asid slot = s := by
  rw [completeEntry, h]

theorem completeEntry_of_live {k : Nat} {s : State} {asid slot : Nat} {e : TgEntry} (h : (partOf s asid).bind (fun p => p.task? slot) = some e)
    (hst : e.st ≠ .complete) : completeEntry (k + 1) s asid slot = cascade k (completed s asid slot e) asid slot e := by
  rw [completeEntry, h]
  exact if_neg hst

/-- The places stay through it, and the threads. -/
theorem stays_completeEntry (k : Nat) (s : State) (asid slot : Nat) : Stays s (completeEntry k s asid slot) := by
  induction k generalizing s slot with
  | zero => exact .of_eq rfl rfl
  | succ k ih =>
    cases h : (partOf s asid).bind (fun p => p.task? slot) with
    | none =>
      rw [completeEntry_of_none h]
      exact .of_eq rfl rfl
    | some e =>
      by_cases hst : e.st = .complete
      · rw [completeEntry_of_complete h hst]
        exact .of_eq rfl rfl
      · rw [completeEntry_of_live h hst]
        have hcompleted : Stays s (completed s asid slot e) :=
          (stays_stir s asid).trans ((writeCompletion_stays (stir s asid) asid e _).1.trans (stays_updPart ..))
        refine hcompleted.trans ?_
        unfold cascade
        split
        · exact .of_eq rfl rfl
        · exact (stays_setPart ..).trans (.foldl (fun st j => (stays_updTask ..).trans (ih _ j)) _ _)

/-- The entries in a slot of a partition are these. -/
def SlotIs (asid slot : Nat) (l : List TgEntry) (s : State) : Prop := ∃ p, partOf s asid = some p ∧ p.inSlot slot = l

section
variable {asid slot : Nat} {l : List TgEntry} (hall : AllComplete l)
include hall

theorem slotIs_cascade {k : Nat} (hnext : ∀ s j, SlotIs asid slot l s → SlotIs asid slot l (completeEntry k s asid j)) {s : State} (j : Nat) (e : TgEntry)
    (h : SlotIs asid slot l s) : SlotIs asid slot l (cascade k s asid j e) := by
  obtain ⟨p, hp, rfl⟩ := h
  obtain ⟨hkept, hothers⟩ := inSlot_evaluate hall (lidOf e.gen j) e.status e.verdict s.cycle
  unfold cascade
  simp only [hp]
  refine List.foldlRecOn (motive := SlotIs asid slot (p.inSlot slot)) _ _ ?_ fun st hst i hi => hnext _ i ?_
  · refine ⟨_, ?_, hkept⟩
    have hasid := (evaluate_asid p (lidOf e.gen j) e.status e.verdict s.cycle).trans (asid_of_partOf hp)
    rw [← hasid] at hp ⊢
    exact partOf_setPart hp
  · obtain ⟨q, hq, hl⟩ := hst
    exact ⟨_, partOf_updPart (by exact fun _ => rfl) hq, (inSlot_updTask_other (by exact fun _ => rfl) (hothers i hi)).trans hl⟩

/-- COMPLETE entries stay what they are, whatever completes after them. -/
theorem slotIs_completeEntry (k : Nat) (s : State) (j : Nat) (h : SlotIs asid slot l s) : SlotIs asid slot l (completeEntry k s asid j) := by
  induction k generalizing s j with
  | zero => exact h
  | succ k ih =>
    cases he : (partOf s asid).bind (fun p => p.task? j) with
    | none => rwa [completeEntry_of_none he]
    | some e =>
      by_cases hst : e.st = .complete
      · rwa [completeEntry_of_complete he hst]
      · rw [completeEntry_of_live he hst]
        refine slotIs_cascade hall ih j e ?_
        obtain ⟨p, hp, rfl⟩ := h
        have hj : j ≠ slot := by
          rintro rfl
          rw [hp] at he
          exact hst (hall e (inSlot_of_task? he))
        refine ⟨_, partOf_updPart (by exact fun _ => rfl) (p := { p with silent := s.cycle }) ?_, inSlot_updTask_other (by exact fun _ => rfl) hj⟩
        exact (partOf_congr (writeCompletion_stays (stir s asid) asid e _).2 asid).trans (partOf_stir hp)

end

/-- A launch that completes leaves its entry COMPLETE, with the counts and the outcome it had. -/
theorem completeEntry_completes {k : Nat} {s : State} {asid : Nat} {p : Partition} {e : TgEntry} (hp : partOf s asid = some p)
    (he : p.task? e.slot = some e) (hst : e.st = .running) :
    SlotIs asid e.slot ((p.inSlot e.slot).map (fun x => { x with st := .complete })) (completeEntry (k + 1) s asid e.slot) := by
  have hfound : (partOf s asid).bind (fun p => p.task? e.slot) = some e := by rw [hp]; exact he
  have hall : AllComplete ((p.inSlot e.slot).map (fun x => { x with st := .complete })) := by
    intro x hx
    obtain ⟨y, -, rfl⟩ := List.mem_map.mp hx
    rfl
  rw [completeEntry_of_live hfound (by rw [hst]; exact nofun)]
  refine slotIs_cascade hall (fun s j h => slotIs_completeEntry hall k s j h) e.slot e ?_
  refine ⟨_, partOf_updPart (by exact fun _ => rfl) (p := { p with silent := s.cycle }) ?_, inSlot_updTask_same (by exact fun _ => rfl)⟩
  exact (partOf_congr (writeCompletion_stays (stir s asid) asid e _).2 asid).trans (partOf_stir hp)

end Sys2Proof.Machine
end

section
/-! SUPPORT. The end of a launch's region, and the wait census (O44): R73, R102, R103. -/

namespace Sys2Proof.Machine
open Sys2Proof.Claims

-- One after another: proofs elaborated at a time take a thread each, whose stacks are the most of the check's memory.
set_option Elab.async false

/-! ### The region goes back (R73) -/

theorem removePlace_threads (s : State) (id : Nat) : (removePlace s id).threads = s.threads := by
  unfold removePlace keepLeft
  split
  · rfl
  · dsimp only
    split <;> rfl

theorem removePlace_parts (s : State) (id : Nat) : (removePlace s id).parts = s.parts := by
  unfold removePlace keepLeft
  split
  · rfl
  · dsimp only
    split <;> rfl

/-- The places that stay are those of other numbers. -/
theorem mem_places_removePlace {s : State} {id : Nat} {x : Place} : x ∈ (removePlace s id).places ↔ x ∈ s.places ∧ x.id ≠ id := by
  cases h : s.place? id with
  | none =>
    have hnone : ∀ y ∈ s.places, y.id ≠ id := by simpa [State.place?] using h
    have hsame : removePlace s id = s := by rw [removePlace, h]
    rw [hsame]
    exact ⟨fun hx => ⟨hx, hnone x hx⟩, fun hx => hx.1⟩
  | some p =>
    have hplaces : (removePlace s id).places = s.places.filter (fun x => x.id ≠ id) := by
      rw [removePlace, h]
      dsimp only
      unfold keepLeft
      split <;> rfl
    rw [hplaces, List.mem_filter, decide_eq_true_iff]

theorem mem_places_foldl_removePlace {ids : List Nat} {s : State} {x : Place} :
    x ∈ (ids.foldl removePlace s).places ↔ x ∈ s.places ∧ x.id ∉ ids := by
  induction ids generalizing s with
  | nil => simp
  | cons id ids ih =>
    rw [List.foldl_cons, ih, mem_places_removePlace, List.mem_cons, not_or, and_assoc]

/-- What a freed region leaves of its partition's launches. -/
theorem freed_tasks (p : Partition) (dies : List Nat) (now : Nat) (hit : PitchReq → Bool) :
    (dies.foldl (fun q d => q.freed d now) (p.withdraw now hit)).tasks = p.tasks ∧
    (dies.foldl (fun q d => q.freed d now) (p.withdraw now hit)).asid = p.asid :=
  List.foldlRecOn (motive := fun q : Partition => q.tasks = p.tasks ∧ q.asid = p.asid) dies _ ⟨rfl, rfl⟩ fun _ hq _ _ => hq

/-- The numbers of a launch's places. -/
def placeIds (s : State) (asid slot : Nat) : List Nat := (placesOf s asid slot).map (fun x => x.id)

section
variable {s : State} {asid slot : Nat} (hplain : ∀ x ∈ s.places, x.asid = asid → x.lslot = slot → x.inst = none)
include hplain

/-- A launch without instances gives back its own places. -/
theorem releaseRegion_of_plain : ∃ dies : List Nat, releaseRegion s asid slot =
    { (placeIds s asid slot).foldl removePlace s with
      threads := ((placeIds s asid slot).foldl removePlace s).threads.filter (fun t => t.id.isSys || !(t.asid = asid && t.lslot = slot)) }.updPart asid
      (fun p => dies.foldl (fun q d => q.freed d s.cycle) (p.withdraw s.cycle (fun r => (placeIds s asid slot).contains r.node.place))) := by
  have hmine : ∀ x ∈ placesOf s asid slot, x.inst = none := by
    intro x hx
    obtain ⟨hmem, hown⟩ := List.mem_filter.mp hx
    simp only [Bool.and_eq_true, decide_eq_true_eq] at hown
    exact hplain x hmem hown.1 hown.2
  have hinst : (placesOf s asid slot).filter (fun x => x.inst.isSome) = [] :=
    List.filter_eq_nil_iff.mpr fun x hx => by simp [hmine x hx]
  have hregion : (placesOf s asid slot).filter (fun x => x.inst.isNone) = placesOf s asid slot :=
    List.filter_eq_self.mpr fun x hx => by simp [hmine x hx]
  refine ⟨((placesOf s asid slot).map (fun x => x.die)).eraseDups, ?_⟩
  rw [releaseRegion]
  simp only [hinst, hregion, List.map_nil, List.foldl_nil]
  rfl

theorem releaseRegion_places {x : Place} : x ∈ (releaseRegion s asid slot).places ↔ x ∈ s.places ∧ x.id ∉ placeIds s asid slot := by
  obtain ⟨dies, he⟩ := releaseRegion_of_plain hplain
  rw [he]
  exact mem_places_foldl_removePlace

theorem releaseRegion_threads :
    (releaseRegion s asid slot).threads = s.threads.filter (fun t => t.id.isSys || !(t.asid = asid && t.lslot = slot)) := by
  obtain ⟨dies, he⟩ := releaseRegion_of_plain hplain
  rw [he, State.updPart_threads]
  exact congrArg (List.filter _) (foldl_keeps (g := State.threads) removePlace_threads _ s)

theorem releaseRegion_part {p : Partition} (hp : partOf s asid = some p) :
    ∃ q, partOf (releaseRegion s asid slot) asid = some q ∧ q.tasks = p.tasks := by
  obtain ⟨dies, he⟩ := releaseRegion_of_plain hplain
  have hparts : ((placeIds s asid slot).foldl removePlace s).parts = s.parts := foldl_keeps (g := State.parts) removePlace_parts _ s
  rw [he]
  refine ⟨_, partOf_updPart (fun q => (freed_tasks q dies s.cycle _).2) (p := p) ?_, (freed_tasks p dies s.cycle _).1⟩
  exact (partOf_congr hparts asid).trans hp

end

/-! ### The completion -/

/-- A launch whose thread has ended and whose regions rest is over (R73). -/
theorem launchOver_of_rested {s : State} {asid : Nat} {e : TgEntry} (hst : e.st = .running) (hdone : e.threadDone = true)
    (hbufs : ∀ t ∈ s.threads, t.asid = asid → t.lslot = e.slot → t.id.isSys = false → t.stbuf = [])
    (hrest : ∀ x ∈ s.places, x.asid = asid → x.lslot = e.slot → Rested s x) : launchOver s asid e = true := by
  have hmine : ∀ x ∈ placesOf s asid e.slot, Rested s x := by
    intro x hx
    obtain ⟨hmem, hown⟩ := List.mem_filter.mp hx
    simp only [Bool.and_eq_true, decide_eq_true_eq] at hown
    exact hrest x hmem hown.1 hown.2
  have htraffic : (placesOf s asid e.slot).all (fun x => noTraffic s x.id) = true := List.all_eq_true.mpr fun x hx => by
    obtain ⟨-, -, -, -, htraffic⟩ := hmine x hx
    exact htraffic
  have hquiet : (placesOf s asid e.slot).all (fun x => x.inst.isNone && placeQuiet s x && portsIdle x && rbClear x) = true := by
    refine List.all_eq_true.mpr fun x hx => ?_
    obtain ⟨hinst, hq, hidle, hclear, -⟩ := hmine x hx
    simp [hinst, hq, hidle, hclear]
  have hthreads : s.threads.all (fun t => t.id.isSys || t.asid ≠ asid || t.lslot ≠ e.slot || t.stbuf.isEmpty) = true := by
    refine List.all_eq_true.mpr fun t ht => ?_
    by_cases hsys : t.id.isSys = true
    · simp [hsys]
    by_cases hasid : t.asid = asid
    · by_cases hslot : t.lslot = e.slot
      · simp [hbufs t ht hasid hslot (by simpa using hsys)]
      · simp [hslot]
    · simp [hasid]
  simp only [launchOver, hst, hdone, htraffic, hthreads, hquiet, decide_true, Bool.and_self, Bool.true_or]

/-- The counts and flags an entry is given before its region goes back (R74). -/
def counted (segs : Nat) (flags : TgEntry → BitVec 7) (x : TgEntry) : TgEntry := { x with segs := segs, flags := flags x }

theorem finishLaunch_eq (s : State) (asid : Nat) (e : TgEntry) : ∃ segs flags, finishLaunch s asid e =
    stir (completeEntry 4097 (releaseRegion (s.updTask asid e.slot (counted segs flags)) asid e.slot) asid e.slot) asid := by
  unfold finishLaunch
  exact ⟨_, fun x => _, rfl⟩

theorem launchCompletes : Claims.LaunchCompletes := by
  intro s p e hp he hst hdone hkilled hbufs hrest
  have hexec : exec (.launchComplete p.asid e.slot) s = .next (finishLaunch s p.asid e) := by
    change execLaunchComplete p.asid e.slot s = _
    rw [execLaunchComplete, hp, Option.bind_some, he]
    simp only [launchOver_of_rested hst hdone hbufs hrest, hkilled, Bool.not_false, Bool.and_self, if_true]
  have hplain : ∀ x ∈ s.places, x.asid = p.asid → x.lslot = e.slot → x.inst = none := fun x hx hasid hslot => (hrest x hx hasid hslot).1
  obtain ⟨segs, flags, hfinish⟩ := finishLaunch_eq s p.asid e
  let s1 := s.updTask p.asid e.slot (counted segs flags)
  let s2 := releaseRegion s1 p.asid e.slot
  have hstays : Stays s2 (stir (completeEntry 4097 s2 p.asid e.slot) p.asid) := (stays_completeEntry 4097 s2 p.asid e.slot).trans (stays_stir ..)
  have hplaces {x : Place} : x ∈ (stir (completeEntry 4097 s2 p.asid e.slot) p.asid).places ↔ x ∈ s.places ∧ x.id ∉ placeIds s p.asid e.slot := by
    rw [hstays.places]
    exact releaseRegion_places (s := s1) hplain
  have hids {x : Place} (hx : x ∈ s.places) (hown : x.asid = p.asid ∧ x.lslot = e.slot) : x.id ∈ placeIds s p.asid e.slot :=
    List.mem_map.mpr ⟨x, List.mem_filter.mpr ⟨hx, by simpa using hown⟩, rfl⟩
  refine ⟨_, hexec, ?_⟩
  rw [hfinish]
  refine ⟨fun x hx hown => ?gone, fun x hx hother hone => ?stays, fun t ht hasid hslot => ?threads, ?entry⟩
  case gone =>
    obtain ⟨hmem, hid⟩ := hplaces.mp hx
    exact hid (hids hmem hown)
  case stays =>
    refine ⟨x, hplaces.mpr ⟨hx, fun hid => ?_⟩, rfl⟩
    obtain ⟨y, hy, hyid⟩ := List.mem_map.mp hid
    obtain ⟨hmem, hown⟩ := List.mem_filter.mp hy
    rw [hone y hmem hyid] at hown
    exact hother (by simpa using hown)
  case threads =>
    obtain ⟨u, hu, hid, hasid', hslot'⟩ := hstays.threads t ht
    rw [releaseRegion_threads (s := s1) hplain] at hu
    have hstill := (List.mem_filter.mp hu).2
    rw [← hid]
    simpa [hasid', hslot', hasid, hslot] using hstill
  case entry =>
    have hp1 : partOf s1 p.asid = some (p.updTask e.slot (counted segs flags)) :=
      partOf_updPart (by exact fun _ => rfl) hp
    obtain ⟨q, hq, htasks⟩ := releaseRegion_part (s := s1) (slot := e.slot) hplain hp1
    let e1 : TgEntry := counted segs flags e
    have he1 : q.task? e.slot = some e1 := by
      rw [Partition.task?, htasks]
      exact (task?_updTask (by exact fun _ => rfl)).trans (by rw [he, Option.map_some, if_pos rfl])
    obtain ⟨q', hq', hslot⟩ := completeEntry_completes (k := 4096) (e := e1) hq he1 hst
    refine ⟨{ q' with silent := _ }, { e1 with st := .complete }, partOf_stir hq', ?_, rfl, rfl, fun _ => ⟨rfl, rfl⟩⟩
    have hentries : q'.inSlot e.slot = (q.inSlot e.slot).map (fun x => { x with st := .complete }) := hslot
    have hhead := q'.task?_eq_head? e.slot
    rw [hentries, List.head?_map, ← Partition.task?_eq_head?, he1] at hhead
    exact hhead

/-! ### The wait census (R102, R103) -/

/-- Rings that no plain store has met stay as they are (R97). -/
theorem foldl_ringFresh_of_clean {s : State} {asid : Nat} (h : ∀ r ∈ s.rings, r.asid = asid → r.stored = false) :
    (s.rings.filter (fun r => r.asid = asid)).foldl (fun st r => ringFresh st asid r.block) s = s := by
  refine List.foldlRecOn (motive := fun st => st = s) _ _ rfl ?_
  intro st hst r _
  rw [hst]
  cases hr : s.ring? asid r.block with
  | none => rw [ringFresh, hr]
  | some g =>
    have hg := List.find?_some hr
    simp only [Bool.and_eq_true, decide_eq_true_eq] at hg
    exact ringFresh_of_not_stored hr (h g (List.mem_of_find?_eq_some hr) hg.1)

/-- A census record changes no thread and no partition. -/
theorem censusPut_keeps (k : Nat) (s : State) (asid va : Nat) (bs : List Byte) :
    (censusPut k s asid va bs).1.threads = s.threads ∧ (censusPut k s asid va bs).1.parts = s.parts := by
  induction k generalizing s va bs with
  | zero => exact ⟨rfl, rfl⟩
  | succ k ih =>
    rw [censusPut]
    split
    · exact ⟨rfl, rfl⟩
    · split
      next s1 h =>
        obtain ⟨hthreads, hparts, -⟩ := recPut_keeps h
        obtain ⟨ht, hp⟩ := ih s1 (va + 64) (bs.drop 64)
        exact ⟨ht.trans hthreads, hp.trans hparts⟩
      next => exact ⟨rfl, rfl⟩

/-- A census trap is posted to the partition's supervisor; without an area nothing is written. -/
theorem censusTrap_posts {s : State} {asid code : Nat} {p : Partition} (hp : partOf s asid = some p) (es : List (List Byte)) :
    ∃ s1 eval norec, censusTrap s asid code es = postSupervisor s1 asid code eval norec ∧ s1.threads = s.threads ∧ s1.parts = s.parts ∧
      (bitsOf p.census.toNat 12 36 = 0 → norec = true ∧ s1 = s) := by
  simp only [censusTrap, hp]
  by_cases hbase : bitsOf p.census.toNat 12 36 = 0
  · simp only [hbase, Nat.zero_mul, if_true]
    exact ⟨s, _, _, rfl, rfl, rfl, fun _ => ⟨rfl, rfl⟩⟩
  · rw [if_neg (by omega)]
    obtain ⟨hthreads, hparts⟩ := censusPut_keeps _ s asid (bitsOf p.census.toNat 12 36 * 4096) _
    exact ⟨_, _, _, rfl, hthreads, hparts, fun h => absurd h hbase⟩

/-- An agent of a ring port waits (R56). -/
def RWaiter.isAgent (w : RWaiter) : Bool := match w.who with | .ring _ _ => true | _ => false

theorem RWaiter.isAgent_iff (w : RWaiter) : w.isAgent = true ↔ ∃ io n, w.who = .ring io n := by
  unfold RWaiter.isAgent
  split
  next io n h => exact ⟨fun _ => ⟨io, n, h⟩, fun _ => rfl⟩
  next hno => exact ⟨nofun, fun ⟨io, n, h⟩ => absurd h (hno io n)⟩

theorem agentWaits_iff (s : State) (asid : Nat) :
    agentWaits s asid = true ↔ ∃ r ∈ s.rings, r.asid = asid ∧ ∃ w ∈ r.waiters, ∃ io n, w.who = .ring io n := by
  have hdef : agentWaits s asid = s.rings.any (fun r => r.asid = asid && r.waiters.any RWaiter.isAgent) := rfl
  simp only [hdef, List.any_eq_true, Bool.and_eq_true, decide_eq_true_eq, RWaiter.isAgent_iff]

section
variable {s : State} {p : Partition} (hp : partOf s p.asid = some p) (hst : p.st = .running) (hsilent : p.silent + 65536 ≤ s.cycle)
  (hclean : ∀ r ∈ s.rings, r.asid = p.asid → r.stored = false)
  (hwait : ∀ u ∈ s.threads, u.asid = p.asid → u.run = .running → (threadCensus u).isSome = true)
  (hsome : (∃ u ∈ s.threads, u.asid = p.asid ∧ u.run = .running) ∨ p.pitches ≠ [])
include hp hst hsilent hclean hwait hsome

/-- With every live thread in a census wait and one waiter at least, the silence ends in a trap or, where a ring agent waits, in activity. -/
theorem exec_waitDeadlock : ∃ es, exec (.waitDeadlock p.asid) s =
    if agentWaits s p.asid then .next (stir s p.asid)
    else .next (censusTrap (s.updPart p.asid (fun q => { q with silent := s.cycle })) p.asid 38 es) := by
  have hlive {u : Thread} : u ∈ liveThreads s p.asid ↔ u ∈ s.threads ∧ u.asid = p.asid ∧ u.run = .running := by
    rw [liveThreads, List.mem_filter, Bool.and_eq_true, decide_eq_true_iff, decide_eq_true_iff]
  let es := (liveThreads s p.asid).filterMap threadCensus ++ p.pitches.map pitchCensus
  have hes : es.isEmpty = false := by
    rw [Bool.eq_false_iff, ne_eq, List.isEmpty_iff, List.append_eq_nil_iff, not_and_or]
    rcases hsome with ⟨u, hu, hasid, hrun⟩ | hpitch
    · obtain ⟨c, hc⟩ := Option.isSome_iff_exists.mp (hwait u hu hasid hrun)
      exact .inl (List.ne_nil_of_mem (List.mem_filterMap.mpr ⟨u, hlive.mpr ⟨hu, hasid, hrun⟩, hc⟩))
    · exact .inr (by simpa using hpitch)
  have hall : (liveThreads s p.asid).any (fun t => (threadCensus t).isNone) = false := by
    rw [List.any_eq_false]
    intro u hu
    obtain ⟨hmem, hasid, hrun⟩ := hlive.mp hu
    have hin := hwait u hmem hasid hrun
    rw [Option.isNone_iff_eq_none]
    intro hnone
    rw [hnone] at hin
    cases hin
  refine ⟨es, ?_⟩
  change execWaitDeadlock p.asid s = _
  rw [execWaitDeadlock, foldl_ringFresh_of_clean hclean]
  simp only [hp]
  rw [if_neg (by simp only [hst, hall, show ((liveThreads s p.asid).filterMap threadCensus ++ p.pitches.map pitchCensus).isEmpty = false from hes]
                 simpa using hsilent)]

end

theorem waitCensus : Claims.WaitCensus := by
  intro s p v hp hst hsilent hclean hwait hsome hv agent
  obtain ⟨es, hexec⟩ := exec_waitDeadlock hp hst hsilent hclean hwait hsome
  refine ⟨fun hno => ?trap, fun hagent => ?activity⟩
  case activity => rwa [if_pos ((agentWaits_iff s p.asid).mpr hagent)] at hexec
  case trap =>
    rw [if_neg (fun h => hno ((agentWaits_iff s p.asid).mp h))] at hexec
    have hpart : partOf (s.updPart p.asid (fun q => { q with silent := s.cycle })) p.asid = some { p with silent := s.cycle } :=
      partOf_updPart (by exact fun _ => rfl) hp
    obtain ⟨s1, eval, norec, htrap, hthreads, hparts, harea⟩ := censusTrap_posts (code := 38) hpart es
    have hpart1 : partOf s1 p.asid = some { p with silent := s.cycle } := (partOf_congr hparts p.asid).trans hpart
    have hwho : supervisorOf s1 p.asid = v.id := by
      have hid : v.id = supervisorOf s p.asid := of_decide_eq_true (List.find?_some (p := fun u : Thread => decide (u.id = supervisorOf s p.asid)) hv)
      rw [hid, supervisorOf, supervisorOf, hpart1, hp]
    have hthread : s1.thread? v.id = some v := by
      rw [← hwho, supervisorOf, hpart1]
      rw [supervisorOf, hp] at hv
      exact (thread?_congr hthreads _).trans hv
    rw [htrap, postSupervisor, hwho] at hexec
    refine ⟨_, hexec, ⟨_, hpart1, rfl⟩, _, thread?_updThread (fun u => by split <;> rfl) hthread, fun hstopped hended => ?_⟩
    rw [if_neg (by tauto)]
    refine ⟨_, rfl, rfl, rfl, fun hzero => ?_⟩
    obtain ⟨hnorec, hs1⟩ := harea (by rw [← toNat_extractLsb'_eq_bitsOf, hzero]; rfl)
    subst hs1
    exact ⟨hnorec, rfl⟩

/-- Settles O44: the heads that stay and the one that starts, by the levels in their order; the entries of a slot that are COMPLETE, through the
cascade of its successors; and the census of an unbroken silence. -/
theorem dispatcher : Obligations.Dispatcher := ⟨dispatcherSteps, launchCompletes, waitCensus⟩

end Sys2Proof.Machine
end


section
/-! SUPPORT. How the instructions on scopes, barriers, deques and rings end (R321): a report put into a thread that has kept its registers, and
the partition that is left. -/

namespace Sys2Proof.Machine
open Sys2Proof.Claims

-- One after another: proofs elaborated at a time take a thread each, whose stacks are the most of the check's memory.
set_option Elab.async false

/-! ### Threads that have kept their registers -/

/-- Two threads that differ at most in what they wait for, in their scope and in their event flag, as far as a report shows. -/
structure SameRegs (t u : Thread) : Prop where
  pc : u.pc = t.pc
  gpr : u.gpr = t.gpr
  mode : u.mode = t.mode
  sup : u.sup = t.sup
  mon : u.mon = t.mon
  fflags : u.fflags = t.fflags
  kreg : u.kreg = t.kreg
  asid : u.asid = t.asid

theorem SameRegs.refl (t : Thread) : SameRegs t t := ⟨rfl, rfl, rfl, rfl, rfl, rfl, rfl, rfl⟩

theorem SameRegs.trans {a b c : Thread} (h : SameRegs a b) (h' : SameRegs b c) : SameRegs a c where
  pc := h'.pc.trans h.pc
  gpr := h'.gpr.trans h.gpr
  mode := h'.mode.trans h.mode
  sup := h'.sup.trans h.sup
  mon := h'.mon.trans h.mon
  fflags := h'.fflags.trans h.fflags
  kreg := h'.kreg.trans h.kreg
  asid := h'.asid.trans h.asid

theorem SameRegs.reg {t u : Thread} (h : SameRegs t u) (r : Reg) : u.reg r = t.reg r := by
  unfold Thread.reg
  simp only [h.gpr]

theorem reports_of_sameRegs {t u w : Thread} {d : Reg} {maj fn code : Nat} {v : Word} (hr : Reports u w d maj fn code v) (h : SameRegs t u) :
    Reports t w d maj fn code v := by
  obtain ⟨hpc, htstat, hd, hother, hwait, hmode, hsup, hmon, hfflags, hkreg, hasid⟩ := hr
  exact ⟨by rw [hpc, h.pc], htstat, hd, fun r hne => (hother r hne).trans (h.reg r), hwait, hmode.trans h.mode, hsup.trans h.sup,
    hmon.trans h.mon, hfflags.trans h.fflags, hkreg.trans h.kreg, hasid.trans h.asid⟩

theorem reportsPair_of_sameRegs {t u x : Thread} {d : Reg} {maj fn code : Nat} {v w : Word} (hr : ReportsPair u x d maj fn code v w)
    (h : SameRegs t u) : ReportsPair t x d maj fn code v w := by
  obtain ⟨hpc, htstat, hd, hd1, hother, hwait, hmode, hkreg, hfflags⟩ := hr
  exact ⟨by rw [hpc, h.pc], htstat, hd, hd1, fun r hne hne1 => (hother r hne hne1).trans (h.reg r), hwait, hmode.trans h.mode,
    hkreg.trans h.kreg, hfflags.trans h.fflags⟩

/-- A pair is written to the general registers whatever TSTAT holds. -/
theorem gpr_writePair (t : Thread) (x y : Word) (d : Reg) (lo hi : Word) :
    (({ t with tstat := x, wait := .none } : Thread).writePair d lo hi).gpr = (({ t with tstat := y, wait := .none } : Thread).writePair d lo hi).gpr := by
  unfold Thread.writePair Thread.writeReg
  split <;> split <;> rfl

/-- What the report of a deque entry leaves: zeros unless the outcome is OK (R321). -/
theorem reportEntry_reports (t : Thread) {d : Reg} (hd : Sys2Proof.pairOk d = true) {fn code : Nat} (hf : fn < 2 ^ 8) (hc : code < 2 ^ 8)
    (e : Word128) :
    ReportsPair t (t.reportEntry d fn code e) d 0x2E fn code (if code = 0 then e.extractLsb' 0 64 else 0)
      (if code = 0 then e.extractLsb' 64 64 else 0) := by
  obtain ⟨hpc, -, hlo, hhi, hother, hwait, hmode, hkreg, hfflags⟩ := reportPair_reports t hd (maj := 0x2E) (fn := fn) (code := 0) (by decide) hf
    (by decide) (if code = 0 then e.extractLsb' 0 64 else 0) (if code = 0 then e.extractLsb' 64 64 else 0)
  have hreg (r : Reg) : (t.reportEntry d fn code e).reg r = (t.reportPair d 0x2E fn 0 (if code = 0 then e.extractLsb' 0 64 else 0)
      (if code = 0 then e.extractLsb' 64 64 else 0)).reg r := by
    have hgpr := gpr_writePair t (tstatWord 0x2E fn code) (tstatWord 0x2E fn 0) d (if code = 0 then e.extractLsb' 0 64 else 0)
      (if code = 0 then e.extractLsb' 64 64 else 0)
    simp only [Thread.reg, Thread.reportEntry, Thread.reportPair, Thread.advance, hgpr, if_true]
  refine ⟨by simp [Thread.reportEntry, Thread.writePair], ?_, (hreg d).trans hlo, (hreg (d + 1)).trans hhi,
    fun r hr hr1 => (hreg r).trans (hother r hr hr1), ?_⟩
  · simp [Thread.reportEntry, Thread.writePair, tstatWord_eq_report (show (0x2E : Nat) < 2 ^ 8 by decide) hf hc]
  · simp [Thread.reportEntry, Thread.writePair]

@[simp] theorem Thread.reportEntry_id (t : Thread) (d : Reg) (fn code : Nat) (e : Word128) : (t.reportEntry d fn code e).id = t.id := by
  simp [Thread.reportEntry, Thread.writePair]

/-- A change of some threads that keeps their IDs leaves each found under its own. -/
theorem thread?_updBy {f : Thread → Thread} (hf : ∀ u, (f u).id = u.id) (s : State) (b : Thread → Bool) (id : ThreadId) :
    ({ s with threads := updBy b f s.threads } : State).thread? id = (s.thread? id).map (fun u => if b u then f u else u) :=
  find?_updBy_blind (p := fun u : Thread => decide (u.id = id)) (fun u => by rw [hf]) s.threads

/-! ### Instructions that end with a report -/

section
variable {s s1 : State} {t u : Thread} {i : Instr} {d : Reg} {maj fn code : Nat} {v w : Word} {P : State → Prop}

/-- An instruction that has changed threads as well reports to its own as that then stands. -/
theorem ends_of_updThread (hexec : exec i s = .next (s1.updThread t.id (fun x => x.report d maj fn code v)))
    (hu : s1.thread? t.id = some u) (hsame : SameRegs t u) (hP : P (s1.updThread t.id (fun x => x.report d maj fn code v)))
    (hm : maj < 2 ^ 8 := by decide) (hf : fn < 2 ^ 8 := by decide) (hc : code < 2 ^ 8 := by decide) : Ends s t i d maj fn code v P :=
  ⟨_, u.report d maj fn code v, hexec, thread?_updThread (fun x => Thread.report_id x ..) hu, reports_of_sameRegs (report_reports u d hm hf hc v) hsame, hP⟩

theorem endsPair_of_updThread (hpair : Sys2Proof.pairOk d = true)
    (hexec : exec i s = .next (s1.updThread t.id (fun x => x.reportPair d maj fn code v w)))
    (hu : s1.thread? t.id = some u) (hsame : SameRegs t u) (hP : P (s1.updThread t.id (fun x => x.reportPair d maj fn code v w)))
    (hm : maj < 2 ^ 8 := by decide) (hf : fn < 2 ^ 8 := by decide) (hc : code < 2 ^ 8 := by decide) :
    EndsPair s t i d maj fn code (if code = 0 then v else BitVec.ofInt 64 (-(code : Int))) (if code = 0 then w else 0) P :=
  ⟨_, u.reportPair d maj fn code v w, hexec, thread?_updThread (fun x => Thread.reportPair_id x ..) hu,
    reportsPair_of_sameRegs (reportPair_reports u hpair hm hf hc v w) hsame, hP⟩

variable (h : Issues s t)
include h

theorem thread?_setThread_of_issues (hthreads : s1.threads = s.threads) (hid : u.id = t.id) : (s1.setThread u).thread? t.id = some u := by
  rw [← hid]
  exact thread?_setThread (by rw [hid]; exact (thread?_congr hthreads t.id).trans (id_of_issues h))

/-- One that has changed no thread puts back its own with the report. -/
theorem ends_of_setThread (hthreads : s1.threads = s.threads) (hexec : exec i s = .next (s1.setThread (t.report d maj fn code v)))
    (hP : P (s1.setThread (t.report d maj fn code v)))
    (hm : maj < 2 ^ 8 := by decide) (hf : fn < 2 ^ 8 := by decide) (hc : code < 2 ^ 8 := by decide) : Ends s t i d maj fn code v P :=
  ⟨_, t.report d maj fn code v, hexec, thread?_setThread_of_issues h hthreads (Thread.report_id ..), report_reports t d hm hf hc v, hP⟩

theorem endsPair_of_reportEntry (hpair : Sys2Proof.pairOk d = true) {e : Word128} (hthreads : s1.threads = s.threads)
    (hexec : exec i s = .next (s1.setThread (t.reportEntry d fn code e))) (hP : P (s1.setThread (t.reportEntry d fn code e)))
    (hf : fn < 2 ^ 8 := by decide) (hc : code < 2 ^ 8 := by decide) :
    EndsPair s t i d 0x2E fn code (if code = 0 then e.extractLsb' 0 64 else 0) (if code = 0 then e.extractLsb' 64 64 else 0) P :=
  ⟨_, t.reportEntry d fn code e, hexec, thread?_setThread_of_issues h hthreads (Thread.reportEntry_id ..), reportEntry_reports t hpair hf hc e, hP⟩

end

/-! ### The partition that is left -/

section
variable {s s' : State} {p q : Partition} {asid : Nat}

theorem leaves_of_partOf (hp : partOf s' p.asid = some p) (hmem : s'.mem = s.mem) (hpkg : s'.pkg = s.pkg) : Leaves s p s' := ⟨hp, hmem, hpkg⟩

variable (hp : partOf s asid = some p)
include hp

/-- A report changes no partition. -/
theorem leaves_setThread (u : Thread) : Leaves s p (s.setThread u) := ⟨by rw [asid_of_partOf hp]; exact hp, rfl, rfl⟩

theorem leaves_updThread (id : ThreadId) (f : Thread → Thread) : Leaves s p (s.updThread id f) := ⟨by rw [asid_of_partOf hp]; exact hp, rfl, rfl⟩

/-- A partition put in the place of the one of its ASID is found there. -/
theorem partOf_setPart_of_asid (hq : q.asid = p.asid) : partOf (s.setPart q) q.asid = some q :=
  partOf_setPart (q := p) (by rw [hq, asid_of_partOf hp]; exact hp)

theorem leaves_setPart {s2 : State} (hparts : s2.parts = (s.setPart q).parts) (hmem : s2.mem = s.mem) (hpkg : s2.pkg = s.pkg)
    (hq : q.asid = p.asid := by rfl) : Leaves s q s2 :=
  ⟨(partOf_congr hparts q.asid).trans (partOf_setPart_of_asid hp hq), hmem, hpkg⟩

end

@[simp] theorem Partition.workUp_asid (p : Partition) (id : Nat) : (p.workUp id).asid = p.asid := rfl
@[simp] theorem Partition.workDown_asid (p : Partition) (id : Nat) : (p.workDown id).asid = p.asid := rfl
@[simp] theorem Partition.setBar_asid (p : Partition) (b : Barrier) : (p.setBar b).asid = p.asid := rfl
@[simp] theorem Partition.setDeque_asid (p : Partition) (q : Deque) : (p.setDeque q).asid = p.asid := rfl

end Sys2Proof.Machine
end


section
/-! SUPPORT. SCOPEN, SCCLOSE and SCSET (O19): the free ID that SCOPEN finds, and what is left of a scope that closes (R107, R322). -/

namespace Sys2Proof.Machine
open Sys2Proof.Claims

-- One after another: proofs elaborated at a time take a thread each, whose stacks are the most of the check's memory.
set_option Elab.async false

/-! ### The next free ID (R107) -/

/-- The IDs that SCOPEN looks at behind `i`, `k` of them: from the next one on, 1 behind 65,535. -/
def idsAfter (k i : Nat) : List Nat := (List.range k).map (fun m => (min i 65535 + m) % 65535 + 1)

theorem idsAfter_nodup {k : Nat} (hk : k ≤ 65535) (i : Nat) : (idsAfter k i).Nodup := by
  refine List.Nodup.map_on (fun m hm n hn e => ?_) List.nodup_range
  rw [List.mem_range] at hm hn
  omega

theorem idsAfter_succ (k i : Nat) : idsAfter (k + 1) i =
    (if i ≥ 65535 then 1 else i + 1) :: idsAfter k (if i ≥ 65535 then 1 else i + 1) := by
  rw [idsAfter, idsAfter, List.range_succ_eq_map, List.map_cons, List.map_map]
  congr 1
  · split <;> omega
  · refine List.map_congr_left fun m _ => ?_
    simp only [Function.comp_apply]
    split <;> omega

/-- SCOPEN takes a free one of them, if there is one. -/
theorem nextScope_of_free {p : Partition} : ∀ {k i : Nat}, (∃ j ∈ idsAfter k i, p.scopeExists j = false) →
    p.nextScope k i ∈ idsAfter k i ∧ p.scopeExists (p.nextScope k i) = false
  | 0, i, ⟨j, hj, _⟩ => by simp [idsAfter] at hj
  | k + 1, i, ⟨j, hj, hfree⟩ => by
    rw [idsAfter_succ] at hj ⊢
    rw [Partition.nextScope]
    generalize (if i ≥ 65535 then 1 else i + 1) = j1 at hj ⊢
    split
    next htaken =>
      have hne : j ≠ j1 := fun e => by simp [e, htaken] at hfree
      obtain ⟨hmem, hnone⟩ := nextScope_of_free ⟨j, List.mem_of_ne_of_mem hne hj, hfree⟩
      exact ⟨List.mem_cons_of_mem _ hmem, hnone⟩
    next hnone => exact ⟨List.mem_cons_self, by simpa using hnone⟩

/-- Of more IDs than there are scopes one is free. -/
theorem exists_free_of_length {p : Partition} {l : List Nat} (hl : l.Nodup) (hlen : p.scopes.length < l.length) :
    ∃ j ∈ l, p.scopeExists j = false := by
  by_contra hnone
  push Not at hnone
  have hsub : l ⊆ p.scopes.map (fun x => x.id) := fun j hj => by
    obtain ⟨x, hx⟩ := Option.isSome_iff_exists.mp (Bool.eq_true_of_not_eq_false (hnone j hj))
    exact List.mem_map.mpr ⟨x, List.mem_of_find?_eq_some hx, of_decide_eq_true (List.find?_some (p := fun x : Scope => decide (x.id = j)) hx)⟩
  have hle := (List.subperm_of_subset hl hsub).length_le
  rw [List.length_map] at hle
  omega

/-- With fewer than 4,096 scopes the ID that SCOPEN takes is free, and lies within 1 to 65,535. -/
theorem nextScope_spec {p : Partition} (hroom : p.scopes.length < 4096) :
    1 ≤ p.nextScope (p.scopes.length + 1) p.lastScope ∧ p.nextScope (p.scopes.length + 1) p.lastScope ≤ 65535 ∧
      p.scopeExists (p.nextScope (p.scopes.length + 1) p.lastScope) = false := by
  have hsome := exists_free_of_length (p := p) (idsAfter_nodup (k := p.scopes.length + 1) (by omega) p.lastScope) (by simp [idsAfter])
  obtain ⟨hmem, hfree⟩ := nextScope_of_free hsome
  obtain ⟨m, -, hm⟩ := List.mem_map.mp hmem
  exact ⟨by omega, by omega, hfree⟩

/-! ### SCOPEN -/

theorem scopenCreates : Claims.ScopenCreates := by
  intro s t p d h hp
  have hexec : exec (.scopen d) s = _ := onCur_issues h
  simp only [onPart, hp] at hexec
  refine ⟨fun hmark hexists hlive hroom => ?created, fun hnone => ?badscope, fun hmark hexists hlive hfull => ?full, fun hmark hexists hdead => ?cancelled⟩
  case created =>
    obtain ⟨hlow, hhigh, hfree⟩ := nextScope_spec hroom
    simp only [hmark, hexists, hlive, Bool.not_true, Bool.or_self, Bool.false_eq_true, if_false, if_neg (Nat.not_le.mpr hroom)] at hexec
    refine ⟨_, hlow, hhigh, hfree, ends_of_setThread h (s1 := s.setPart _) rfl hexec (leaves_setPart hp rfl rfl rfl)⟩
  case badscope =>
    rw [if_pos (by simpa using hnone)] at hexec
    exact ends_of_setThread h rfl hexec (leaves_setThread hp _)
  case full =>
    simp only [hmark, hexists, hlive, Bool.not_true, Bool.or_self, Bool.false_eq_true, if_false, if_pos hfull] at hexec
    exact ends_of_setThread h rfl hexec (leaves_setThread hp _)
  case cancelled =>
    simp only [hmark, hexists, hdead, Bool.not_true, Bool.or_self, Bool.false_eq_true, if_false, if_true] at hexec
    exact ends_of_setThread h rfl hexec (leaves_setThread hp _)

/-! ### SCCLOSE -/

/-- Where no plain store has met the rings of a partition they stand as they are (R97). -/
theorem ringsFresh_of_clean {s : State} {asid : Nat} (h : ∀ r ∈ s.rings, r.asid = asid → r.stored = false) : ringsFresh s asid = s := by
  have hnone : s.rings.filter (fun r => r.asid = asid && r.stored) = [] := List.filter_eq_nil_iff.mpr fun r hr => by
    intro hmet
    simp only [Bool.and_eq_true, decide_eq_true_eq] at hmet
    simp [h r hr hmet.1] at hmet
  rw [ringsFresh, hnone, List.foldl_nil]

/-- A thread that has given up its wait. -/
def Thread.rest (u : Thread) : Thread := { u with wait := .none }

/-- Some threads give up their waits at rings. -/
def ringsLeft (s : State) (l : List Thread) : State :=
  l.foldl (fun st u => (abandonRing st u.id).updThread u.id Thread.rest) s

/-- Each of them is found as it was but for its wait, and nothing but rings and threads has changed. -/
structure GaveUp (s s' : State) : Prop where
  parts : s'.parts = s.parts
  mem : s'.mem = s.mem
  pkg : s'.pkg = s.pkg
  thread : ∀ {id : ThreadId} {u : Thread}, s.thread? id = some u → ∃ u', s'.thread? id = some u' ∧ (u' = u ∨ u' = u.rest)

theorem gaveUp_ringsLeft (s : State) (l : List Thread) : GaveUp s (ringsLeft s l) := by
  refine List.foldlRecOn (motive := GaveUp s) l _ ⟨rfl, rfl, rfl, fun h => ⟨_, h, .inl rfl⟩⟩ fun st hst v _ => ?_
  refine ⟨hst.parts, hst.mem, hst.pkg, fun {id u} hu => ?_⟩
  obtain ⟨u', hu', hor⟩ := hst.thread hu
  refine ⟨_, (thread?_updBy (f := Thread.rest) (fun _ => rfl) (abandonRing st v.id) _ id).trans (congrArg _ hu'), ?_⟩
  dsimp only
  split
  · exact .inr (by rcases hor with rfl | rfl <;> rfl)
  · exact hor

section
variable {s : State} {t : Thread} {p : Partition} {d a : Reg} (h : Issues s t) (hp : partOf s t.asid = some p)
  (hclean : ∀ r ∈ s.rings, r.asid = t.asid → r.stored = false)

/-- The threads of a partition whose current scope is `v` are marked (R107). -/
def markScope (s : State) (asid v : Nat) : State :=
  { s with threads := updBy (fun u => u.asid = asid && u.scope = v) (fun u => { u with scopeFree := true }) s.threads }

/-- What SCCLOSE leaves of a scope that is at rest, but for the report: it is freed, its waits at rings are given up, its threads marked. -/
def scopeClosed (s : State) (p : Partition) (v : Nat) : State :=
  let s1 := s.setPart { p with scopes := p.scopes.filter (fun y => y.id ≠ v) }
  markScope (ringsLeft s1 ((s1.threads.filter (fun u => u.asid = p.asid && u.scope = v)).filter
    (fun u => match u.wait with | .ring _ _ _ => true | _ => false))) p.asid v

include h hp

/-- SCCLOSE that changes nothing reports why. -/
theorem scclose_refused {code : Nat} (hexec : exec (.scclose d a) s = .next (s.updThread t.id (fun u => u.report d 0x2F 1 code 0)))
    (hc : code < 2 ^ 8) : Ends s t (.scclose d a) d 0x2F 1 code 0 (Leaves s p) :=
  ends_of_updThread hexec (id_of_issues h) (.refl t) (leaves_updThread hp ..) (hc := hc)

include hclean

theorem exec_scclose : exec (.scclose d a) s = .next (
    let done (s' : State) (c : Nat) : State := s'.updThread t.id (fun u => u.report d 0x2F 1 c 0)
    if (t.reg a).toNat ≥ 2 ^ 16 then done s 3
    else if (t.reg a).toNat = 0 then done s 6
    else match p.scope? (t.reg a).toNat with
      | none => done s 3
      | some x =>
        if p.scopes.any (fun y => y.parent = (t.reg a).toNat && y.id ≠ 0) || x.work ≠ 0 ||
          p.tickets.any (fun k => k.scope = (t.reg a).toNat && !k.acked) then done s 4
        else done (scopeClosed s p (t.reg a).toNat) 0) := by
  refine (onCur_issues h).trans ?_
  simp only [ringsFresh_of_clean hclean, onPart, hp]
  rfl

end

theorem scopeClosed_thread {s : State} {t : Thread} {p : Partition} {v : Nat} (ht : s.thread? t.id = some t) :
    ∃ u, (scopeClosed s p v).thread? t.id = some u ∧ SameRegs t u := by
  obtain ⟨u, hu, hor⟩ := (gaveUp_ringsLeft (s.setPart { p with scopes := p.scopes.filter (fun y => y.id ≠ v) }) _).thread ht
  refine ⟨_, (thread?_updBy (by exact fun _ => rfl) _ _ t.id).trans (congrArg _ hu), ?_⟩
  dsimp only
  split <;> rcases hor with rfl | rfl <;> exact ⟨rfl, rfl, rfl, rfl, rfl, rfl, rfl, rfl⟩

/-- Every thread that is found in the scope is marked, whatever becomes of it by a report. -/
theorem scopeFree_of_closed {s : State} {p : Partition} {v : Nat} {id : ThreadId} {f : Thread → Thread}
    (hf : ∀ u, (f u).asid = u.asid ∧ (f u).scope = u.scope ∧ (f u).scopeFree = u.scopeFree) {u : Thread}
    (hu : u ∈ ((scopeClosed s p v).updThread id f).threads) (hasid : u.asid = p.asid) (hscope : u.scope = v) : u.scopeFree = true := by
  have hmarked : ∀ w ∈ (scopeClosed s p v).threads, w.asid = p.asid → w.scope = v → w.scopeFree = true := by
    intro w hw hwasid hwscope
    obtain ⟨w0, -, ⟨-, rfl⟩ | ⟨hother, rfl⟩⟩ := mem_updBy hw
    · rfl
    · simp [hwasid, hwscope] at hother
  obtain ⟨w, hw, ⟨-, rfl⟩ | ⟨-, rfl⟩⟩ := mem_updBy hu
  · obtain ⟨hfa, hfs, hff⟩ := hf w
    rw [hff]
    exact hmarked w hw (hfa.symm.trans hasid) (hfs.symm.trans hscope)
  · exact hmarked u hw hasid hscope

theorem scopesCloseAndSet : Claims.ScopesCloseAndSet := by
  intro s t p d a h hp hclean v
  have hclose := exec_scclose (d := d) (a := a) h hp hclean
  have hset : exec (.scset d a) s = _ := onCur_issues h
  simp only [onPart, hp] at hset
  dsimp only at hclose
  refine ⟨fun x hlt hne hx => ⟨fun hwork htickets hchildren => ?closed, fun hbusy => ?busy⟩, fun hzero => ?root, fun x hlt hx => ?set,
    fun hbad => ?noScope, fun hbad => ?noSet⟩
  case closed =>
    have hrest : (p.scopes.any (fun y => y.parent = (t.reg a).toNat && y.id ≠ 0) || x.work ≠ 0 ||
        p.tickets.any (fun k => k.scope = (t.reg a).toNat && !k.acked)) = false := by
      simpa [hwork] using ⟨hchildren, htickets⟩
    rw [if_neg (by omega), if_neg hne, hx] at hclose
    simp only [hrest, Bool.false_eq_true, if_false] at hclose
    obtain ⟨u, hu, hsame⟩ := scopeClosed_thread (p := p) (v := v) (id_of_issues h)
    have hgave := gaveUp_ringsLeft (s.setPart { p with scopes := p.scopes.filter (fun y => y.id ≠ v) })
    exact ends_of_updThread hclose hu hsame ⟨leaves_setPart hp (hgave _).parts (hgave _).mem (hgave _).pkg,
      fun w hw => scopeFree_of_closed (by simp [Thread.report]) hw⟩
  case busy =>
    rw [if_neg (by omega), if_neg hne, hx] at hclose
    simp only at hclose
    rw [if_pos (by
      rw [Bool.or_eq_true, Bool.or_eq_true]
      rcases hbusy with hwork | ⟨k, hk, hscope, hacked⟩ | ⟨y, hy, hparent, hid⟩
      · exact .inl (.inr (by simpa using hwork))
      · exact .inr (List.any_eq_true.mpr ⟨k, hk, by simpa [hacked] using hscope⟩)
      · exact .inl (.inl (List.any_eq_true.mpr ⟨y, hy, by simpa [hid] using hparent⟩)))] at hclose
    exact scclose_refused h hp hclose (by decide)
  case root =>
    rw [if_neg (by omega), if_pos hzero] at hclose
    exact scclose_refused h hp hclose (by decide)
  case set =>
    have hexists : p.scopeExists v = true := by rw [Partition.scopeExists, hx]; rfl
    rw [if_neg (by simpa [v, hexists] using hlt)] at hset
    refine ⟨_, _, hset, thread?_setThread_of_issues h rfl (Thread.report_id ..), ?_, leaves_setThread hp _, _,
      thread?_setThread_of_issues h rfl (Thread.report_id ..), by simp [Thread.report, v], by simp [Thread.report]⟩
    exact reports_of_sameRegs (report_reports _ d (by decide) (by decide) (by decide) _) ⟨rfl, rfl, rfl, rfl, rfl, rfl, rfl, rfl⟩
  case noScope =>
    rcases hbad with hbig | ⟨hne, hnone⟩
    · rw [if_pos hbig] at hclose
      exact scclose_refused h hp hclose (by decide)
    · rw [if_neg hne, hnone, ite_self] at hclose
      exact scclose_refused h hp hclose (by decide)
  case noSet =>
    rw [if_pos (by simpa [Partition.scopeExists] using hbad)] at hset
    exact ends_of_setThread h rfl hset (leaves_setThread hp _)

/-- Settles O19: the ID that SCOPEN takes is free because it looks at more IDs than there are scopes; SCCLOSE and SCSET by their cases. -/
theorem scopeInstructions : Obligations.ScopeInstructions := ⟨scopenCreates, scopesCloseAndSet⟩

end Sys2Proof.Machine
end


section
/-! SUPPORT. CANCEL, CWAIT and the acknowledgement of a cancellation (O20): the ticket that is given, what CWAIT finds of it, and what is left of
it once nothing of the killed work is on its way (R107, R108, R110, R111). -/

namespace Sys2Proof.Machine
open Sys2Proof.Claims

-- One after another: proofs elaborated at a time take a thread each, whose stacks are the most of the check's memory.
set_option Elab.async false

/-! ### CANCEL and CWAIT -/

theorem cancelAndCwait : Claims.CancelAndCwait := by
  intro s t p d a b h hp
  dsimp only
  have hcancel : exec (.cancel d a b) s = _ := onCur_issues h
  have hcwait : exec (.cwait d a) s = _ := onCur_issues h
  simp only [onPart, hp] at hcancel hcwait
  refine ⟨fun halign hlt hne hexists hroom => ?given, fun halign => ?misaligned, fun k hk hlt hwait => ⟨fun hacked => ?acked, fun hopen => ?waits⟩,
    fun hlt hnone hwait => ?stale, fun hwait => ?killed⟩
  case given =>
    simp only [halign, hexists, ne_eq, not_true_eq_false, if_false, if_neg (Nat.not_le.mpr hlt), if_neg hne, Bool.not_true, Bool.false_eq_true,
      if_neg (Nat.not_le.mpr hroom)] at hcancel
    exact hcancel
  case misaligned =>
    rw [if_pos halign] at hcancel
    exact hcancel
  case acked =>
    simp only [if_neg hwait, Nat.mod_eq_of_lt hlt, hk, hacked, if_true] at hcwait
    exact hcwait
  case waits =>
    simp only [if_neg hwait, Nat.mod_eq_of_lt hlt, hk, hopen, Bool.false_eq_true, if_false] at hcwait
    exact waits_of_waitIn h hcwait
  case stale =>
    simp only [if_neg hwait, Nat.mod_eq_of_lt hlt, hnone] at hcwait
    exact ends_of_setThread h rfl hcwait (leaves_setThread hp _)
  case killed =>
    rw [if_pos hwait] at hcwait
    exact ends_of_setThread h rfl hcwait (leaves_setThread hp _)

/-! ### A ticket among those of its partition -/

/-- The first ticket of a number, where it is not acknowledged, is the first that is not. -/
theorem find?_unacked {l : List Ticket} {k : Ticket} (hk : l.find? (fun x => x.val = k.val) = some k) (hacked : k.acked = false) :
    l.find? (fun x => x.val = k.val && !x.acked) = some k := by
  induction l with
  | nil => cases hk
  | cons y l ih =>
    by_cases hy : y.val = k.val
    · rw [List.find?_cons_of_pos (by simpa using hy)] at hk
      cases hk
      exact List.find?_cons_of_pos (by simp [hacked])
    · rw [List.find?_cons_of_neg (by simpa using hy)] at hk
      rw [List.find?_cons_of_neg (by simp [hy])]
      exact ih hk

/-- The tickets of a partition once one of them is acknowledged: of the others that are, the fifteen most recent stay with it (R111). -/
def acknowledged (l : List Ticket) (ticket : Nat) (k : Ticket) : List Ticket :=
  (l.filter (fun x => x.val ≠ ticket)).filter (fun x => !x.acked) ++
    (((l.filter (fun x => x.val ≠ ticket)).filter (fun x => x.acked)).drop
      (((l.filter (fun x => x.val ≠ ticket)).filter (fun x => x.acked)).length - 15)) ++ [k]

theorem find?_acknowledged {l : List Ticket} {ticket : Nat} {k : Ticket} (hk : k.val = ticket) :
    (acknowledged l ticket k).find? (fun x => x.val = ticket) = some k := by
  have hother : ((l.filter (fun x => x.val ≠ ticket)).filter (fun x => !x.acked) ++
      (((l.filter (fun x => x.val ≠ ticket)).filter (fun x => x.acked)).drop
        (((l.filter (fun x => x.val ≠ ticket)).filter (fun x => x.acked)).length - 15))).find? (fun x => decide (x.val = ticket)) = none := by
    refine List.find?_eq_none.mpr fun x hx => ?_
    have hkept : x ∈ l.filter (fun x => x.val ≠ ticket) := by
      rcases List.mem_append.mp hx with hx | hx
      · exact List.mem_of_mem_filter hx
      · exact List.mem_of_mem_filter (List.mem_of_mem_drop hx)
    simpa using (List.mem_filter.mp hkept).2
  rw [acknowledged, List.find?_append, hother]
  simp [hk]

/-! ### The acknowledgement (R110, R112) -/

/-- The ticket as it is acknowledged, with the entries of its subtree that deques still hold. -/
def Ticket.acknowledge (k : Ticket) (p : Partition) (hit : Nat → Bool) : Ticket :=
  { k with acked := true
           counts := k.counts.set 9 ((p.deques.map (fun q => (q.entries.filter (fun e => hit (entryScope e))).length)).sum) }

/-- Its partition with the ticket acknowledged. -/
def Partition.acknowledge (p : Partition) (ticket : Nat) (k : Ticket) (hit : Nat → Bool) : Partition :=
  { p with tickets := acknowledged p.tickets ticket (k.acknowledge p hit) }

/-- The machine with the ticket acknowledged and its record written, but for the event flag. -/
def recorded (s2 : State) (p : Partition) (k : Ticket) (hit : Nat → Bool) (asid ticket now : Nat) : State :=
  let s3 := s2.setPart (p.acknowledge ticket k hit)
  match recPut s3 asid k.addr (cancelBytes k (now - k.killCycle)
    ((p.deques.map (fun q => (q.entries.filter (fun e => hit (entryScope e))).length)).sum)) with
  | some x => x
  | none => postSupervisor s3 asid 42 (BitVec.ofNat 64 ticket) false

/-- Then the owner's event flag is set. -/
def toldOwner (s : State) (k : Ticket) (asid : Nat) : State := stir (match k.owner with | some t => s.setEvent t | none => s) asid

theorem recorded_parts (s2 : State) (p : Partition) (k : Ticket) (hit : Nat → Bool) (asid ticket now : Nat) :
    (recorded s2 p k hit asid ticket now).parts = (s2.setPart (p.acknowledge ticket k hit)).parts := by
  unfold recorded
  dsimp only
  split
  next x hx => exact (recPut_keeps hx).2.1
  next => rfl

/-- A thread that is there stays there. -/
theorem recorded_thread {s2 : State} {p : Partition} {k : Ticket} {hit : Nat → Bool} {asid ticket now : Nat} {id : ThreadId} {u : Thread}
    (hu : s2.thread? id = some u) : ∃ u', (recorded s2 p k hit asid ticket now).thread? id = some u' := by
  unfold recorded
  dsimp only
  split
  next x hx => exact ⟨u, (thread?_congr (recPut_keeps hx).1 id).trans hu⟩
  next =>
    refine ⟨_, (thread?_updBy (fun w => ?_) _ _ id).trans (congrArg _ hu)⟩
    split <;> rfl

section
variable {s : State} {g : Partition} {k : Ticket} (hg : partOf s g.asid = some g) (hk : g.tickets.find? (fun x => x.val = k.val) = some k)
  (hacked : k.acked = false)
include hg hk hacked

theorem exec_cancelAcknowledge : exec (.cancelAcknowledge g.asid k.val) s =
    let hit := fun x => g.inSubtree k.scope x
    let loads := s.threads.any (fun t => t.asid = g.asid && t.run = .stopped && (match t.wait with | .fload _ _ _ _ _ => true | _ => false) &&
      (match g.task? t.lslot with | some e => e.killed && hit e.scope | none => false))
    if (g.tickets.takeWhile (fun x => x.val ≠ k.val)).any (fun x => !x.acked && g.inSubtree x.scope k.scope) ||
      (g.tickets.filter (fun x => !x.acked && hit x.scope)).any (fun x => trafficOf s (deadKey g.asid x.val)) || loads then .next s
    else
      let killed := g.tasks.filter (fun e => e.st = .running && e.killed && hit e.scope)
      let s1 := killRings (killed.foldl (fun st e => drainKilled st g.asid e.slot) s) g.asid (deadKey g.asid k.val) hit
      if ringsOpen s1 g.asid hit || killed.any (fun e => killedStores s1 g.asid e.slot) then .next s1
      else
        let s2 := finishKilled s1 g.asid hit
        match partOf s2 g.asid, (partOf s2 g.asid).bind (fun p => p.tickets.find? (fun x => x.val = k.val && !x.acked)) with
        | some p, some k2 => .next (toldOwner (recorded s2 p k2 hit g.asid k.val s.cycle) k2 g.asid)
        | _, _ => .next s2 := by
  change execCancelAcknowledge g.asid k.val s = _
  rw [execCancelAcknowledge, hg]
  simp only [find?_unacked hk hacked]
  rfl

end

/-- What an acknowledgement leaves: the ticket is acknowledged in its partition, and its owner's event flag is set. -/
theorem toldOwner_recorded {s2 : State} {asid ticket now : Nat} {p : Partition} {k2 : Ticket} {hit : Nat → Bool} (hp : partOf s2 asid = some p)
    (hval : k2.val = ticket) :
    (∃ g' k', partOf (toldOwner (recorded s2 p k2 hit asid ticket now) k2 asid) asid = some g' ∧
      g'.tickets.find? (fun x => x.val = ticket) = some k' ∧ k'.acked = true ∧ k'.scope = k2.scope) ∧
    ∀ u, k2.owner = some u.id → s2.thread? u.id = some u →
      ∃ u', (toldOwner (recorded s2 p k2 hit asid ticket now) k2 asid).thread? u.id = some u' ∧ u'.event = true := by
  constructor
  · have hset : partOf (recorded s2 p k2 hit asid ticket now) asid = some (p.acknowledge ticket k2 hit) := by
      rw [partOf_congr (recorded_parts ..), ← asid_of_partOf hp]
      exact partOf_setPart_of_asid (q := p.acknowledge ticket k2 hit) hp rfl
    refine ⟨_, k2.acknowledge p hit, partOf_stir (p := p.acknowledge ticket k2 hit) ?_, find?_acknowledged hval, rfl, rfl⟩
    split <;> exact hset
  · intro u howner hu
    obtain ⟨u', hu'⟩ := recorded_thread (p := p) (k := k2) (hit := hit) (asid := asid) (ticket := ticket) (now := now) hu
    refine ⟨{ u' with event := true }, ?_, rfl⟩
    rw [toldOwner, howner]
    exact thread?_updThread (f := fun u => { u with event := true }) (fun _ => rfl) hu'

theorem cancelAcknowledged : Claims.CancelAcknowledged := by
  intro s g k hg hk hacked
  have hexec := exec_cancelAcknowledge hg hk hacked
  dsimp only at hexec ⊢
  rw [List.any_filter] at hexec
  refine ⟨fun hstill => ?waits, fun p k2 hmove hold hrings hstores hloads hp hk2 => ?acknowledged⟩
  case waits =>
    rw [if_pos (by rw [Bool.or_eq_true, Bool.or_eq_true]; tauto)] at hexec
    exact hexec
  case acknowledged =>
    have hnoLoad : s.threads.any (fun t => t.asid = g.asid && t.run = .stopped && (match t.wait with | .fload _ _ _ _ _ => true | _ => false) &&
        (match g.task? t.lslot with | some e => e.killed && g.inSubtree k.scope e.scope | none => false)) = false := by
      rw [List.any_eq_false]
      intro t ht hload
      simp only [Bool.and_eq_true, decide_eq_true_eq] at hload
      obtain ⟨⟨⟨-, hrun⟩, hwait⟩, -⟩ := hload
      split at hwait
      next a b c d e hw => exact hloads t ht hrun a b c d e hw
      next => cases hwait
    have hnoStore := List.any_eq_false.mpr fun e he => Bool.not_eq_true _ ▸ hstores e he
    have hval : k2.val = k.val := by
      have hfound := List.find?_some hk2
      simp only [Bool.and_eq_true, decide_eq_true_eq] at hfound
      exact hfound.1
    rw [hmove, hold, hnoLoad, if_neg (by decide), hrings, hnoStore, if_neg (by decide)] at hexec
    simp only [hp, Option.bind_some, hk2] at hexec
    exact ⟨_, hexec, toldOwner_recorded hp hval⟩

/-- Settles O20: a ticket is the first of its number in its partition, before it is acknowledged and after. -/
theorem cancellation : Obligations.Cancellation := ⟨cancelAndCwait, cancelAcknowledged⟩

end Sys2Proof.Machine
end


section
/-! SUPPORT. Barriers (O21): what BARINIT sets up, the arrivals at a barrier, and what BARWAIT finds there (R104, R105, R113). -/

namespace Sys2Proof.Machine
open Sys2Proof.Claims

-- One after another: proofs elaborated at a time take a thread each, whose stacks are the most of the check's memory.
set_option Elab.async false

/-! ### Event flags (R326) -/

/-- Setting event flags leaves each thread found as it was but for the flag. -/
theorem setEvents_thread {s : State} {id : ThreadId} {u : Thread} (hu : s.thread? id = some u) (asid : Nat) (c : Thread → Bool) :
    ∃ u', (s.setEvents asid c).thread? id = some u' ∧ (u' = u ∨ u' = { u with event := true }) := by
  refine ⟨_, (thread?_updBy (by exact fun _ => rfl) s _ id).trans (congrArg _ hu), ?_⟩
  dsimp only
  split
  · exact .inr rfl
  · exact .inl rfl

/-- A flag set for a whole partition stands in every thread of it, reported to or not. -/
theorem event_of_setEvents {s : State} {asid : Nat} {id : ThreadId} {f : Thread → Thread}
    (hf : ∀ u, (f u).asid = u.asid ∧ (f u).event = u.event) {u : Thread}
    (hu : u ∈ ((s.setEvents asid (fun _ => true)).updThread id f).threads) (hasid : u.asid = asid) : u.event = true := by
  have hset : ∀ w ∈ (s.setEvents asid (fun _ => true)).threads, w.asid = asid → w.event = true := by
    intro w hw hwasid
    obtain ⟨w0, -, ⟨-, rfl⟩ | ⟨hother, rfl⟩⟩ := mem_updBy hw
    · rfl
    · simp [hwasid] at hother
  obtain ⟨w, hw, ⟨-, rfl⟩ | ⟨-, rfl⟩⟩ := mem_updBy hu
  · obtain ⟨hfa, hfe⟩ := hf w
    rw [hfe]
    exact hset w hw (hfa.symm.trans hasid)
  · exact hset u hw hasid

/-! ### BARINIT -/

/-- A barrier of `n` participants under a scope, in phase 0. -/
def freshBarrier (b n sc : Nat) : Barrier := { id := b, n := n, scope := sc, phase := 0, arrived := [], leaving := 0, dead := false }

section
variable {s : State} {t : Thread} {p : Partition} {d a b : Reg} (h : Issues s t) (hp : partOf s t.asid = some p) (hbar : (t.reg a).toNat < 64)
include h hp

theorem exec_barinit : exec (.barinit d a b) s = .next (
    let done (s' : State) (c : Nat) : State := s'.setThread (t.report d 0x2C 1 c 0)
    if (t.reg b).toNat ≥ 2 ^ 23 ∨ (t.reg a).toNat > 63 ∨ bitsOf (t.reg b).toNat 16 7 = 0 ∨ bitsOf (t.reg b).toNat 16 7 > 64 then done s 6
    else if !p.scopeExists ((t.reg b).toNat % 2 ^ 16) then done s 3
    else if s.threads.any (fun u => u.asid = p.asid && u.wait = .barrier (t.reg a).toNat) then done s 4
    else
      let old := p.bar (t.reg a).toNat
      let p1 := if old.n ≠ 0 ∨ old.dead then p.workDown old.scope else p
      let s1 := s.setPart ((p1.setBar (freshBarrier (t.reg a).toNat (bitsOf (t.reg b).toNat 16 7) ((t.reg b).toNat % 2 ^ 16))).workUp ((t.reg b).toNat % 2 ^ 16))
      if old.phase = 0 then done s1 0 else (s1.setEvents p.asid (fun _ => true)).updThread t.id (fun u => u.report d 0x2C 1 0 0)) := by
  refine (onCur_issues h).trans ?_
  simp only [onPart, hp]
  rfl

theorem barinit_refused {code : Nat} (hexec : exec (.barinit d a b) s = .next (s.setThread (t.report d 0x2C 1 code 0))) (hc : code < 2 ^ 8) :
    Ends s t (.barinit d a b) d 0x2C 1 code 0 (Leaves s p) :=
  ends_of_setThread h rfl hexec (leaves_setThread hp _) (hc := hc)

end

theorem barriersComplete : Claims.BarriersComplete := by
  intro s t p d a b n sc h hp hbar
  have hexec := exec_barinit (d := d) (a := a) (b := b) h hp
  dsimp only at hexec ⊢
  refine ⟨fun hn1 hn64 hsc hv => ?fields, fun hbad => ?refused⟩
  case fields =>
    have hn : bitsOf (t.reg b).toNat 16 7 = n := by
      rw [hv, bitsOf]
      omega
    have hscope : (t.reg b).toNat % 2 ^ 16 = sc := by omega
    rw [hn, hscope, if_neg (by omega)] at hexec
    refine ⟨fun hexists hfree => ?set, fun hexists hwaited => ?busy, fun hnone => ?badscope⟩
    case set =>
      have hnobody : (s.threads.any (fun u => u.asid = p.asid && u.wait = .barrier (t.reg a).toNat)) = false := by
        rw [List.any_eq_false]
        intro u hu hw
        exact hfree ⟨u, hu, by simpa using hw⟩
      simp only [hexists, hnobody, Bool.not_true, Bool.false_eq_true, if_false] at hexec
      let old := p.bar (t.reg a).toNat
      have hasid : (if old.n ≠ 0 ∨ old.dead = true then p.workDown old.scope else p).asid = p.asid := by split <;> rfl
      by_cases hphase : (p.bar (t.reg a).toNat).phase = 0
      · rw [if_pos hphase] at hexec
        exact ends_of_setThread h (s1 := s.setPart _) rfl hexec ⟨leaves_setPart hp rfl rfl rfl hasid, fun hne => absurd hphase hne⟩
      · rw [if_neg hphase] at hexec
        obtain ⟨u, hu, hor⟩ := setEvents_thread (s := s.setPart _) (id_of_issues h) p.asid (fun _ => true)
        refine ends_of_updThread hexec hu ?_ ⟨leaves_setPart hp rfl rfl rfl hasid, fun _ w hw hwasid =>
          event_of_setEvents (by simp [Thread.report]) hw hwasid⟩
        rcases hor with rfl | rfl <;> exact ⟨rfl, rfl, rfl, rfl, rfl, rfl, rfl, rfl⟩
    case busy =>
      obtain ⟨u, hu, hasid, hwait⟩ := hwaited
      have hbody : (s.threads.any (fun u => u.asid = p.asid && u.wait = .barrier (t.reg a).toNat)) = true :=
        List.any_eq_true.mpr ⟨u, hu, by simp [hasid, hwait]⟩
      simp only [hexists, hbody, Bool.not_true, Bool.false_eq_true, if_false, if_true] at hexec
      exact barinit_refused h hp hexec (by decide)
    case badscope =>
      simp only [hnone, Bool.not_false, if_true] at hexec
      exact barinit_refused h hp hexec (by decide)
  case refused =>
    rw [if_pos (by rw [bitsOf]; omega)] at hexec
    exact barinit_refused h hp hexec (by decide)

/-! ### BARARR -/

/-- A participant arrives. -/
def Barrier.arrive (x : Barrier) (c : Nat) : Barrier := { x with arrived := x.arrived ++ [c] }

/-- Telling the threads at a barrier leaves each thread found as it was but for its wait. -/
theorem tellBarrier_thread {s : State} {id : ThreadId} {u : Thread} (hu : s.thread? id = some u) (asid b : Nat) (ph : Option Nat) :
    ∃ u', (tellBarrier s asid b ph).thread? id = some u' ∧ SameRegs u u' := by
  refine ⟨_, (thread?_updBy (by exact fun _ => rfl) s _ id).trans (congrArg _ hu), ?_⟩
  dsimp only
  split <;> exact ⟨rfl, rfl, rfl, rfl, rfl, rfl, rfl, rfl⟩

section
variable {s : State} {t : Thread} {p : Partition} {d a b : Reg} (h : Issues s t) (hp : partOf s t.asid = some p) (himp : t.imp = [])
  (hbuf : t.stbuf = []) (hfree : t.scopeFree = false) (hbar : (t.reg a).toNat < 64)
include h hp himp hbuf hfree hbar

theorem exec_bararr : exec (.bararr d a) s = .next (
    let x := p.bar (t.reg a).toNat
    let done (s' : State) (c v : Nat) : State := s'.updThread t.id (fun u => u.report d 0x2C 2 c (BitVec.ofNat 64 v))
    let s0 := s.setThread t
    if x.dead then done s0 2 0
    else if p.scopeCancelled t.scope then done s0 2 0
    else match p.childOf x.scope p.scopes.length t.scope with
      | none => done s0 7 0
      | some c =>
        if x.arrived.contains c then done s0 4 0
        else
          let y := x.arrive c
          if x.arrived.length + 1 = x.n then
            done (((tellBarrier s0 p.asid (t.reg a).toNat (some y.complete.phase)).setPart (p.setBar y.complete)).setEvents p.asid (fun _ => true))
              0 x.phase
          else done (s0.setPart (p.setBar y)) 0 x.phase) := by
  refine (onCur_issues h).trans ?_
  rw [syncPoint_of_clear himp hbuf]
  simp only [onPart, partOf_setThread, hp, if_neg (show ¬ (t.reg a).toNat > 63 by omega), hfree, Bool.false_eq_true, if_false,
    List.length_append, List.length_singleton]
  rfl

end

/-! ### BARWAIT -/

section
variable {s : State} {t : Thread} {p : Partition} {d a b : Reg} (h : Issues s t) (hp : partOf s t.asid = some p) (hbar : (t.reg a).toNat < 64)
include h hp hbar

theorem exec_barwait_of_passed {k : Nat} (hwait : t.wait = .passed k) :
    exec (.barwait d a b) s = .next ((acquireAt s t 3).setThread (t.report d 0x2C 3 0 (BitVec.ofNat 64 k))) := by
  refine (onCur_issues h).trans ?_
  simp only [onPart, hp, if_neg (show ¬ (t.reg a).toNat > 63 by omega), hwait]

theorem exec_barwait (hwait : ∀ k, t.wait ≠ .passed k) : exec (.barwait d a b) s = .next (
    let x := p.bar (t.reg a).toNat
    if x.dead || t.wait = .killed then s.setThread (t.report d 0x2C 3 2 0)
    else if x.phase ≠ (t.reg b).toNat % 2 ^ 16 then (acquireAt s t 3).setThread (t.report d 0x2C 3 0 (BitVec.ofNat 64 x.phase))
    else waitIn s t (.barrier (t.reg a).toNat)) := by
  refine (onCur_issues h).trans ?_
  simp only [onPart, hp, if_neg (show ¬ (t.reg a).toNat > 63 by omega)]

end

theorem barrierArrivals : Claims.BarrierArrivals := by
  intro s t p d a b c h hp himp hbuf hfree hbar
  have harr := exec_bararr (d := d) h hp himp hbuf hfree hbar
  have hself : (s.setThread t).thread? t.id = some t := thread?_setThread_of_issues h rfl rfl
  dsimp only at harr ⊢
  refine ⟨fun hlive hscope hchild hnew => ?arrives, fun hdead => ?dead, fun hlive hpassed hkilled hphase => ?passes,
    fun hlive hpassed hkilled hphase => ?waits, fun k hk => exec_barwait_of_passed h hp hbar hk, fun hover hpassed => ?ended⟩
  case arrives =>
    simp only [hlive, hscope, hchild, Bool.false_eq_true, if_false, List.contains_eq_mem, hnew, decide_false] at harr
    refine ⟨fun hlast => ?last, fun hearly => ?early⟩
    case last =>
      rw [if_pos hlast] at harr
      obtain ⟨u, hu, hsame⟩ := tellBarrier_thread hself p.asid (t.reg a).toNat
        (some ((p.bar (t.reg a).toNat).arrive c).complete.phase)
      obtain ⟨w, hw, hor⟩ := setEvents_thread
        (s := (tellBarrier (s.setThread t) p.asid (t.reg a).toNat (some ((p.bar (t.reg a).toNat).arrive c).complete.phase)).setPart
          (p.setBar ((p.bar (t.reg a).toNat).arrive c).complete)) hu p.asid (fun _ => true)
      refine ends_of_updThread harr hw (hsame.trans ?_) ⟨?_, fun w hw hwasid => event_of_setEvents (by simp [Thread.report]) hw hwasid⟩
      · rcases hor with rfl | rfl <;> exact ⟨rfl, rfl, rfl, rfl, rfl, rfl, rfl, rfl⟩
      · refine leaves_setPart hp ?_ rfl rfl
        simp only [Barrier.complete, Barrier.arrive, hlive, Bool.false_or]
        rfl
    case early =>
      rw [if_neg hearly] at harr
      exact ends_of_updThread harr hself (.refl t) (leaves_setPart hp rfl rfl rfl)
  case dead =>
    rw [if_pos hdead] at harr
    exact ends_of_updThread harr hself (.refl t) (leaves_updThread (s := s.setThread t) hp ..)
  case passes =>
    refine (exec_barwait h hp hbar hpassed).trans ?_
    dsimp only
    rw [if_neg (by simp [hlive, hkilled]), if_pos hphase]
  case waits =>
    refine waits_of_waitIn h ((exec_barwait h hp hbar hpassed).trans ?_)
    dsimp only
    rw [if_neg (by simp [hlive, hkilled]), if_neg (by simpa using hphase)]
  case ended =>
    have hwait := exec_barwait (d := d) (b := b) h hp hbar hpassed
    dsimp only at hwait
    rw [if_pos (by simpa using hover)] at hwait
    exact ends_of_setThread h rfl hwait (leaves_setThread hp _)

/-- Settles O21: BARINIT, BARARR and BARWAIT by the cases of their tests; the threads a barrier tells, and those whose flags it sets, keep
their registers. -/
theorem barriers : Obligations.Barriers := ⟨barriersComplete, barrierArrivals⟩

end Sys2Proof.Machine
end


section
/-! SUPPORT. Deques (O23): pushes and pops, the messages of a steal, DQEXT, and a copy that nobody has answered for (R88-R95). -/

namespace Sys2Proof.Machine
open Sys2Proof.Claims

-- One after another: proofs elaborated at a time take a thread each, whose stacks are the most of the check's memory.
set_option Elab.async false

/-! ### The deques of a partition -/

/-- A deque is found under its own core. -/
theorem deque_key (p : Partition) (dc : Nat × Nat) : (p.deque dc).die = dc.1 ∧ (p.deque dc).core = dc.2 := by
  unfold Partition.deque
  cases hq : p.deque? dc with
  | none => exact ⟨rfl, rfl⟩
  | some q =>
    have hfound := List.find?_some hq
    simpa using hfound

/-- A deque that has been put back is found. -/
theorem deque_setDeque {p : Partition} {q : Deque} {dc : Nat × Nat} (hdie : q.die = dc.1) (hcore : q.core = dc.2) :
    (p.setDeque q).deque dc = q := by
  rw [Partition.deque, Partition.deque?, Partition.setDeque, ← hdie, ← hcore, find?_putBy (by simp)]
  rfl

theorem deque_congr {p p' : Partition} (h : p'.deques = p.deques) (dc : Nat × Nat) : p'.deque dc = p.deque dc := by
  rw [Partition.deque, Partition.deque, Partition.deque?, Partition.deque?, h]

theorem dropWork_keeps (p : Partition) (es : List Word128) : (p.dropWork es).deques = p.deques ∧ (p.dropWork es).asid = p.asid :=
  List.foldlRecOn (motive := fun q : Partition => q.deques = p.deques ∧ q.asid = p.asid) es _ ⟨rfl, rfl⟩ fun _ hq _ _ => hq

/-- WORK that rises cancels no scope. -/
theorem scopeCancelled_workUp (p : Partition) (i j : Nat) : (p.workUp i).scopeCancelled j = p.scopeCancelled j := by
  have hfind : (p.workUp i).scope? j = (p.scope? j).map (fun x => if x.id = i then { x with work := x.work + 1 } else x) := by
    have hblind := find?_updBy_blind (b := fun x : Scope => decide (x.id = i)) (p := fun x : Scope => decide (x.id = j))
      (g := fun x => { x with work := x.work + 1 }) (fun _ => rfl) p.scopes
    rw [Partition.scope?, Partition.workUp, hblind]
    simp only [decide_eq_true_eq]
    rfl
  rw [Partition.scopeCancelled, Partition.scopeCancelled, hfind]
  cases p.scope? j with
  | none => rfl
  | some x =>
    dsimp only [Option.map_some]
    split <;> rfl

@[simp] theorem refill_entries (s : State) (asid : Nat) (q : Deque) : (refill s asid q).entries = q.entries := by unfold refill; dsimp only; split <;> rfl
@[simp] theorem refill_die (s : State) (asid : Nat) (q : Deque) : (refill s asid q).die = q.die := by unfold refill; dsimp only; split <;> rfl
@[simp] theorem refill_core (s : State) (asid : Nat) (q : Deque) : (refill s asid q).core = q.core := by unfold refill; dsimp only; split <;> rfl

/-! ### Entries (R89, R92) -/

/-- The entry of a scope and of what DQPUSH's registers hold. -/
def taskEntry (sc : Nat) (hi : BitVec 48) (lo : Word) : Word128 := BitVec.ofNat 16 sc ++ hi ++ lo

theorem taskEntry_halves (sc : Nat) (hi : BitVec 48) (lo : Word) :
    (taskEntry sc hi lo).extractLsb' 0 64 = lo ∧ (taskEntry sc hi lo).extractLsb' 64 64 = BitVec.ofNat 16 sc ++ hi :=
  ⟨BitVec.extractLsb'_append_eq_right, BitVec.extractLsb'_append_eq_left⟩

theorem entryScope_taskEntry {sc : Nat} (hsc : sc < 2 ^ 16) (hi : BitVec 48) (lo : Word) : entryScope (taskEntry sc hi lo) = sc := by
  have htop : (taskEntry sc hi lo).toNat / 2 ^ 112 = sc := by
    rw [taskEntry, toNat_append_eq_add, toNat_append_eq_add, BitVec.toNat_ofNat, Nat.mod_eq_of_lt hsc]
    have := hi.isLt
    have := lo.isLt
    omega
  rw [entryScope, toNat_extractLsb'_eq_bitsOf, bitsOf, htop, Nat.mod_eq_of_lt hsc]

/-! ### DQPOP -/

/-- Nothing is discarded behind a tail that is not cancelled. -/
theorem cutTail_of_live {p : Partition} {w : Word128} (h : p.scopeCancelled (entryScope w) = false) (rest : List Word128) :
    cutTail p (rest ++ [w]) = ([], rest ++ [w]) := by
  simp [cutTail, h]

/-- A partition whose deque of a core has lost its tail: what is discarded, what is taken, and what stays. -/
def popped (s : State) (p : Partition) (dc : Nat × Nat) (gone : List Word128) (taken : Option Word128) (rest : List Word128) : Partition :=
  ((p.setDeque (refill s p.asid (((p.deque dc).shrink rest).skipBy gone.length))).dropWork gone).dropWork taken.toList

theorem popped_asid (s : State) (p : Partition) (dc : Nat × Nat) (gone : List Word128) (taken : Option Word128) (rest : List Word128) :
    (popped s p dc gone taken rest).asid = p.asid := ((dropWork_keeps ..).2.trans (dropWork_keeps ..).2)

theorem popped_entries (s : State) (p : Partition) (dc : Nat × Nat) (gone : List Word128) (taken : Option Word128) (rest : List Word128) :
    ((popped s p dc gone taken rest).deque dc).entries = rest := by
  obtain ⟨hdie, hcore⟩ := deque_key p dc
  rw [popped, deque_congr ((dropWork_keeps ..).1.trans (dropWork_keeps ..).1),
    deque_setDeque (q := refill s p.asid (((p.deque dc).shrink rest).skipBy gone.length)) ((refill_die ..).trans hdie) ((refill_core ..).trans hcore), refill_entries]
  rfl

section
variable {s : State} {t : Thread} {p : Partition} {e : Reg} (h : Issues s t) (hp : partOf s t.asid = some p)
include h hp

theorem exec_dqpop : exec (.dqpop e) s =
    let q := p.deque (ownCore t p)
    let cut := cutTail p q.entries
    let p2 := popped s p (ownCore t p) cut.1 cut.2.getLast? cut.2.dropLast
    .next ((s.setPart p2).setThread (match cut.2.getLast? with
      | some w => t.reportEntry e 3 0 w
      | none => t.reportEntry e 3 1 0)) := by
  refine (onCur_issues h).trans ?_
  simp only [hp]
  rfl

variable (hpair : Sys2Proof.pairOk e = true)
include hpair

/-- A tail entry whose scope is not cancelled is taken. -/
theorem dqpop_takes {rest : List Word128} {w : Word128} (hentries : (p.deque (ownCore t p)).entries = rest ++ [w])
    (hlive : p.scopeCancelled (entryScope w) = false) :
    EndsPair s t (.dqpop e) e 0x2E 3 0 (w.extractLsb' 0 64) (w.extractLsb' 64 64) (fun s' => s'.mem = s.mem ∧
      ∃ p', partOf s' t.asid = some p' ∧ (p'.deque (ownCore t p)).entries = rest) := by
  have hexec := exec_dqpop (e := e) h hp
  simp only [hentries, cutTail_of_live hlive, List.getLast?_concat, List.dropLast_concat] at hexec
  have hset : partOf (s.setPart (popped s p (ownCore t p) [] (some w) rest)) t.asid = some (popped s p (ownCore t p) [] (some w) rest) := by
    rw [← asid_of_partOf hp, ← popped_asid s p (ownCore t p) [] (some w) rest]
    exact partOf_setPart_of_asid hp (popped_asid ..)
  exact endsPair_of_reportEntry h hpair (s1 := s.setPart _) rfl hexec ⟨rfl, _, hset, popped_entries ..⟩

theorem dqpop_empty (hentries : (p.deque (ownCore t p)).entries = []) :
    EndsPair s t (.dqpop e) e 0x2E 3 1 0 0 (fun s' => s'.mem = s.mem) := by
  have hexec := exec_dqpop (e := e) h hp
  simp only [hentries, cutTail, List.reverse_nil, List.takeWhile_nil, List.dropWhile_nil, List.getLast?_nil] at hexec
  exact endsPair_of_reportEntry h hpair (s1 := s.setPart _) rfl hexec rfl

end

/-! ### DQPUSH -/

/-- A deque with an entry at its tail. -/
def Deque.withTail (q : Deque) (w : Word128) : Deque := { q with entries := q.entries ++ [w] }

/-- A partition with an entry at the tail of a deque, and with WORK of its scope. -/
def pushed (p : Partition) (q : Deque) (sc : Nat) (w : Word128) : Partition := (p.setDeque (q.withTail w)).workUp sc

section
variable {s : State} {t : Thread} {p : Partition} {d a b : Reg} (h : Issues s t) (hp : partOf s t.asid = some p)
include h hp

/-- The deque DQPUSH acts on is that of the thread's own core; it is spilled where it is full on chip. -/
theorem exec_dqpush (hfree : t.scopeFree = false) (hlive : p.scopeCancelled t.scope = false) : exec (.dqpush d a b) s =
    let q := p.deque (ownCore t p)
    let push (s' : State) (q' : Deque) : State := (s'.updPart p.asid (fun r =>
      pushed r q' t.scope (taskEntry t.scope ((t.reg b).extractLsb' 0 48) (t.reg a)))).setThread (t.report d 0x2E 2 0 0)
    if q.onchip < 256 then .next (push s q)
    else match spill s p.asid q with
      | some (s', q') => .next (push s' q')
      | none => .next (syncTrap s t 36 0 false false t.pc q.dqext) := by
  refine (onCur_issues h).trans ?_
  simp only [hp, hfree, hlive, Bool.false_eq_true, if_false]
  split
  · rfl
  · cases spill s p.asid (p.deque (ownCore t p)) <;> rfl

theorem exec_dqpush_of_cancelled (hfree : t.scopeFree = false) (hdead : p.scopeCancelled t.scope = true) :
    exec (.dqpush d a b) s = .next (s.setThread (t.report d 0x2E 2 2 0)) := by
  refine (onCur_issues h).trans ?_
  simp only [hp, hfree, hdead, Bool.false_eq_true, if_false, if_true]

end

theorem partOf_pushed {s : State} {p : Partition} {asid : Nat} (hp : partOf s asid = some p) (q : Deque) (sc : Nat) (w : Word128) :
    partOf (s.updPart p.asid (fun r => pushed r q sc w)) asid = some (pushed p q sc w) := by
  rw [asid_of_partOf hp]
  exact partOf_updPart (by exact fun _ => rfl) hp

/-- What a push leaves of the deque it was made to. -/
theorem deque_pushed (p : Partition) (dc : Nat × Nat) (sc : Nat) (w : Word128) :
    (pushed p (p.deque dc) sc w).deque dc = (p.deque dc).withTail w := by
  obtain ⟨hdie, hcore⟩ := deque_key p dc
  exact (deque_congr (p := p.setDeque ((p.deque dc).withTail w)) rfl dc).trans (deque_setDeque hdie hcore)

theorem ownCore_congr {t u : Thread} {p q : Partition} (hid : u.id = t.id) (hdie : q.homedie = p.homedie) (hcore : q.homecore = p.homecore) :
    ownCore u q = ownCore t p := by
  unfold ownCore
  rw [hid, hdie, hcore]

/-- The machine after a push, at its next instruction. -/
theorem issues_setThread {s s1 : State} {t u : Thread} (h : Issues s t) (hcur : s1.cur = s.cur) (hthreads : s1.threads = s.threads)
    (hid : u.id = t.id) : Issues (s1.setThread u) u := by
  have hself : s.cur = t.id := (of_decide_eq_true (List.find?_some (p := fun u : Thread => decide (u.id = s.cur)) h)).symm
  change (s1.setThread u).thread? s1.cur = some u
  rw [hcur, hself]
  exact thread?_setThread_of_issues h hthreads hid

theorem dequePushPop : Claims.DequePushPop := by
  intro s t p d e a b h hp hpair q entry
  refine ⟨fun hfree hlive hsc hroom => ?pushes, fun rest w hentries hlive => dqpop_takes h hp hpair hentries hlive,
    fun hentries => dqpop_empty h hp hpair hentries, fun hfree hlive hfull => ?spills, fun hfree hdead => ?cancelled⟩
  case pushes =>
    have hexec := exec_dqpush (d := d) (a := a) (b := b) h hp hfree hlive
    dsimp only at hexec
    rw [if_pos hroom] at hexec
    have hpart := partOf_pushed hp q t.scope entry
    refine ⟨ends_of_setThread h (s1 := s.updPart p.asid _) rfl hexec ⟨?_, rfl, rfl⟩, fun s1 u hnext hu => ?_⟩
    · rw [← asid_of_partOf hp] at hpart
      exact hpart
    · rw [hexec] at hnext
      cases hnext
      obtain rfl : t.report d 0x2E 2 0 0 = u :=
        Option.some.inj ((thread?_setThread_of_issues (s1 := s.updPart p.asid _) h rfl (Thread.report_id ..)).symm.trans hu)
      have hown : ownCore (t.report d 0x2E 2 0 0) (pushed p q t.scope entry) = ownCore t p := ownCore_congr (Thread.report_id ..) rfl rfl
      have hnow := dqpop_takes (e := e) (p := pushed p q t.scope entry) (rest := q.entries) (w := entry)
        (issues_setThread (u := t.report d 0x2E 2 0 0) (s1 := s.updPart p.asid _) h rfl rfl (Thread.report_id ..))
        (by rw [partOf_setThread, show (t.report d 0x2E 2 0 0).asid = t.asid by simp [Thread.report]]; exact hpart) hpair
        (by rw [hown, deque_pushed]; rfl) (by
          rw [show entryScope entry = t.scope from entryScope_taskEntry hsc _ _, pushed, scopeCancelled_workUp]
          exact hlive)
      obtain ⟨hlo, hhi⟩ := taskEntry_halves t.scope ((t.reg b).extractLsb' 0 48) (t.reg a)
      rw [show entry.extractLsb' 0 64 = t.reg a from hlo, show entry.extractLsb' 64 64 = _ from hhi, hown] at hnow
      obtain ⟨s', u', hpop, hu', hreports, -, hleft⟩ := hnow
      rw [show (t.report d 0x2E 2 0 0).asid = t.asid by simp [Thread.report]] at hleft
      rw [Thread.report_id] at hu'
      exact ⟨s', u', hpop, by rw [Thread.report_id]; exact hu', hreports, hleft⟩
  case spills =>
    have hexec := exec_dqpush (d := d) (a := a) (b := b) h hp hfree hlive
    dsimp only at hexec
    rw [if_neg (Nat.not_lt.mpr hfull)] at hexec
    refine ⟨fun s1 q1 hspill hp1 ht1 => ?_, fun hspill => ?_⟩
    · rw [show spill s p.asid (p.deque (ownCore t p)) = some (s1, q1) from hspill] at hexec
      have hput := thread?_setThread (s := s1.updPart p.asid (fun r => pushed r q1 t.scope entry)) (u := t.report d 0x2E 2 0 0)
        (by rw [Thread.report_id]; exact ht1)
      rw [Thread.report_id] at hput
      exact ⟨_, _, hexec, hput, report_reports t d (by decide) (by decide) (by decide) 0, rfl, partOf_pushed hp1 q1 t.scope entry⟩
    · rw [show spill s p.asid (p.deque (ownCore t p)) = none from hspill] at hexec
      exact hexec
  case cancelled => exact ends_of_setThread h rfl (exec_dqpush_of_cancelled h hp hfree hdead) (leaves_setThread hp _)

end Sys2Proof.Machine
end


section
/-! SUPPORT. Steals, DQEXT and lost copies (O23): the messages of a steal, and what becomes of the victim's copy (R90, R94, R95). -/

namespace Sys2Proof.Machine
open Sys2Proof.Claims

-- One after another: proofs elaborated at a time take a thread each, whose stacks are the most of the check's memory.
set_option Elab.async false

/-! ### What a message leaves that sets out -/

section
variable (s : State) (m : Msg) (cargo : Cargo)

theorem sendMessage_threads : (sendMessage s m cargo).threads = s.threads := by
  obtain ⟨w, ps, he⟩ := sendMessage_eq s m cargo
  rw [he]

theorem sendMessage_steals : (sendMessage s m cargo).steals = s.steals := by
  obtain ⟨w, ps, he⟩ := sendMessage_eq s m cargo
  rw [he]

theorem sendMessage_mem : (sendMessage s m cargo).mem = s.mem := by
  obtain ⟨w, ps, he⟩ := sendMessage_eq s m cargo
  rw [he]

variable {s} in
/-- A partition is found as it was, but for its silence. -/
theorem sendMessage_partOf {asid : Nat} {p : Partition} (hp : partOf s asid = some p) :
    ∃ k, partOf (sendMessage s m cargo) asid = some { p with silent := k } := by
  have hstir (k : Nat) : ∃ n, partOf (stir s k) asid = some { p with silent := n } := by
    refine ⟨if p.asid = k then s.cycle else p.silent, ?_⟩
    rw [show stir s k = s.updPart k (fun p => { p with silent := s.cycle }) from rfl,
      partOf_updPart_map (f := fun p => { p with silent := s.cycle }) (fun _ => rfl), hp, Option.map_some]
    split <;> rfl
  have hagent : ∃ n, partOf (stirAgent s m.who (some cargo)) asid = some { p with silent := n } := by
    unfold stirAgent
    split
    next k _ => exact hstir k
    next => exact ⟨p.silent, hp⟩
  unfold sendMessage
  split
  next c _ =>
    obtain ⟨w, he, -⟩ := sendUnder_sent s m (some cargo) c
    rw [he]
    exact hagent
  next => exact ⟨p.silent, hp⟩

end

/-! ### DQSTEAL -/

theorem sendSteal_sends {s : State} {t : Thread} (h : Issues s t) (d : Reg) (v : Nat × Nat) :
    ∃ x : Steal, (sendSteal s t d v).steals = s.steals ++ [x] ∧ x.thief = t.id ∧ x.asid = t.asid ∧ x.die = v.1 ∧ x.core = v.2 ∧ x.dst = d ∧
      x.answered = false ∧ x.entry = none ∧ x.acked = false ∧ (sendSteal s t d v).thread? t.id = some { t with wait := .steal } ∧
      (sendSteal s t d v).mem = s.mem := by
  refine ⟨{ no := (takeSerial s).1, thief := t.id, asid := t.asid, die := v.1, core := v.2, dst := d, answered := false, entry := none,
            acked := false, gone := false, dead := none }, ?_, rfl, rfl, rfl, rfl, rfl, rfl, rfl, rfl, ?_, ?_⟩
  · rw [sendSteal, sendMessage_steals]
    rfl
  · rw [sendSteal, thread?_congr (sendMessage_threads ..)]
    exact thread?_setThread_of_issues (u := { t with wait := .steal }) h rfl rfl
  · rw [sendSteal, sendMessage_mem]
    rfl

section
variable {s : State} {t : Thread} {p : Partition} {d a : Reg} {die core : Nat} (h : Issues s t) (hp : partOf s t.asid = some p) (hdie : die < 8)
  (hcore : core < 32) (hv : (t.reg a).toNat = die * 256 + core)
include h hp hdie hcore hv

/-- DQSTEAL of a named core. -/
theorem exec_dqsteal : exec (.dqsteal d a) s = .next (
    if (die, core) ∉ p.cores then s.setThread (t.reportEntry d 4 6 0)
    else if (die, core) = ownCore t p then s.setThread (t.reportEntry d 4 1 0)
    else sendSteal s t d (die, core)) := by
  have hnamed : (die * 256 + core) / 256 = die ∧ (die * 256 + core) % 32 = core := by omega
  have hplain : ¬ (die * 256 + core ≥ 2 ^ 11 ∨ bitsOf (die * 256 + core) 5 3 ≠ 0) := by
    rw [bitsOf]
    omega
  refine (onCur_issues h).trans ?_
  simp only [hp, hv, if_neg (show ¬ die * 256 + core = 0xFFFF by omega), if_neg hplain, hnamed, List.contains_eq_mem, Bool.not_eq_true',
    decide_eq_false_iff_not]

end

/-! ### The messages of a steal -/

/-- What is at the head and may be stolen is stolen. -/
theorem stealFrom_head {p : Partition} {w : Word128} (hlive : p.scopeCancelled (entryScope w) = false) (hfree : w.getLsbD 88 = false)
    (rest : List Word128) : stealFrom p (w :: rest) = ([], some w, rest) := by
  have hsteal : entryNoSteal w = false := by
    rw [entryNoSteal, decide_eq_false_iff_not]
    intro hbit
    have hnum := congrArg BitVec.toNat hbit
    rw [toNat_extractLsb'_eq_bitsOf] at hnum
    rw [(bitsOf_one_eq_one_iff w 88).mp hnum] at hfree
    cases hfree
  simp [stealFrom, hlive, hsteal]

/-- A victim's deque after a steal, with the copy of what was taken. -/
def robbed (s : State) (p : Partition) (x : Steal) (tid : ThreadId) (gone : List Word128) (e : Option Word128) (left : List Word128) : Deque :=
  { (Deque.afterSteal s p (p.deque (x.die, x.core)) left).skipBy gone.length with
    copies := (p.deque (x.die, x.core)).copies ++ e.toList.map (fun w => { no := x.no, thief := tid, entry := w, at_ := s.cycle }) }

theorem robbed_spec (s : State) (p : Partition) (x : Steal) (tid : ThreadId) (gone : List Word128) (e : Option Word128) (left : List Word128) :
    (robbed s p x tid gone e left).die = x.die ∧ (robbed s p x tid gone e left).core = x.core ∧ (robbed s p x tid gone e left).entries = left := by
  obtain ⟨hdie, hcore⟩ := deque_key p (x.die, x.core)
  simp only [robbed, Deque.afterSteal, Deque.skipBy, refill_die, refill_core, refill_entries, hdie, hcore, and_self]

/-- What it answers its thief. -/
def stealReply (x : Steal) (tid : ThreadId) (e : Option Word128) : Msg :=
  packageMsg (coreEp x.die x.core) (threadEp tid) .response x.no (natBytes 1 (if e.isSome then 0 else 1) ++ natBytes 16 (e.getD 0).toNat)
    (if x.gone then .unit else .thread tid)

/-- What the thief answers. -/
def stealThanks (x : Steal) (tid : ThreadId) : Msg :=
  packageMsg (threadEp tid) (coreEp x.die x.core) .control x.no (natBytes 4 x.no) .unit

/-- Its partition. -/
def afterRobbery (s : State) (p : Partition) (x : Steal) (tid : ThreadId) (gone : List Word128) (e : Option Word128) (left : List Word128) : Partition :=
  ((p.setDeque (robbed s p x tid gone e left)).dropWork gone).dropWork e.toList

theorem deque_afterRobbery (s : State) (p : Partition) (x : Steal) (tid : ThreadId) (gone : List Word128) (e : Option Word128) (left : List Word128) :
    (afterRobbery s p x tid gone e left).deque (x.die, x.core) = robbed s p x tid gone e left := by
  obtain ⟨hdie, hcore, -⟩ := robbed_spec s p x tid gone e left
  rw [afterRobbery, deque_congr ((dropWork_keeps ..).1.trans (dropWork_keeps ..).1)]
  exact deque_setDeque hdie hcore

theorem stealRequest_takes {s : State} {tid : ThreadId} {x : Steal} {p : Partition} {gone left : List Word128} {e : Option Word128}
    (hx : s.steals.find? (fun y => y.thief = tid && !y.answered && s.arrived (.steal y.no)) = some x) (hp : partOf s x.asid = some p)
    (hsteal : stealFrom p (p.deque (x.die, x.core)).entries = (gone, e, left)) :
    ∃ s' p', exec (.stealRequest tid) s = .next s' ∧
      s'.steals = s.steals.map (fun y => if y.no = x.no then { y with answered := true, entry := e } else y) ∧
      partOf s' x.asid = some p' ∧ (p'.deque (x.die, x.core)).entries = left ∧
      (p'.deque (x.die, x.core)).copies = (p.deque (x.die, x.core)).copies ++
        e.toList.map (fun w => { no := x.no, thief := tid, entry := w, at_ := s.cycle }) := by
  let p1 := afterRobbery s p x tid gone e left
  let s1 : State := { s.setPart p1 with
    steals := updBy (fun y => y.no = x.no) (fun y => { y with answered := true, entry := e }) s.steals }
  have hexec : exec (.stealRequest tid) s = .next (sendMessage s1 (stealReply x tid e) (.stealBack x.no)) := by
    change execStealRequest tid s = _
    rw [execStealRequest, hx]
    simp only [hp, hsteal]
    rfl
  have hasid : p1.asid = p.asid := (dropWork_keeps ..).2.trans (dropWork_keeps ..).2
  have hset : partOf s1 x.asid = some p1 := by
    rw [← asid_of_partOf hp, ← hasid]
    exact partOf_setPart_of_asid (q := p1) hp hasid
  obtain ⟨k, hpart⟩ := sendMessage_partOf (stealReply x tid e) (.stealBack x.no) hset
  have hdeque : ({ p1 with silent := k } : Partition).deque (x.die, x.core) = robbed s p x tid gone e left :=
    (deque_congr rfl _).trans (deque_afterRobbery s p x tid gone e left)
  refine ⟨_, { p1 with silent := k }, hexec, ?_, hpart, by rw [hdeque]; exact (robbed_spec ..).2.2, by rw [hdeque]; rfl⟩
  rw [sendMessage_steals]
  simp only [s1, updBy, decide_eq_true_eq]

section
variable {s : State} {t : Thread} {x : Steal}
  (hx : s.steals.find? (fun y => y.thief = t.id && y.answered && !y.acked && s.arrived (.stealBack y.no)) = some x)
include hx

/-- A response whose thief has been told already that nothing comes is dropped. -/
theorem exec_stealResponse_of_gone (hgone : x.gone = true) :
    exec (.stealResponse t.id) s = .next { s with steals := s.steals.filter (fun y => y.no ≠ x.no) } := by
  change execStealResponse t.id s = _
  rw [execStealResponse, hx]
  simp only [hgone, if_true]

/-- One that the thief waits for gives it the entry, or zeros, and is acknowledged. -/
theorem stealResponse_gives (h : Issues s t) (hgone : x.gone = false) (hdead : x.dead = none) (hwait : t.wait = .steal)
    (hpair : Sys2Proof.pairOk x.dst = true) :
    EndsPair s t (.stealResponse t.id) x.dst 0x2E 4 (if x.entry.isSome then 0 else 1) ((x.entry.getD 0).extractLsb' 0 64)
      ((x.entry.getD 0).extractLsb' 64 64)
      (fun s' => s'.steals = s.steals.map (fun y => if y.no = x.no then { y with acked := true } else y)) := by
  let s1 : State := { s with steals := updBy (fun y => y.no = x.no) (fun y => { y with acked := true }) s.steals }
  let told (u : Thread) : Thread := if u.wait = .steal && x.dead.isNone then
    (match x.entry with | some e => u.reportEntry x.dst 4 0 e | none => u.reportEntry x.dst 4 1 0) else u
  have hexec : exec (.stealResponse t.id) s = .next ((sendMessage s1 (stealThanks x t.id) (.stealAck x.no)).updThread t.id told) := by
    change execStealResponse t.id s = _
    rw [execStealResponse, hx]
    simp only [hgone, Bool.false_eq_true, if_false]
    rfl
  have hid (u : Thread) : (told u).id = u.id := by
    dsimp only [told]
    split
    · split <;> exact Thread.reportEntry_id ..
    · rfl
  have hfound := thread?_updThread hid ((thread?_congr (sendMessage_threads s1 (stealThanks x t.id) (.stealAck x.no)) t.id).trans (id_of_issues h))
  have hsteals : (sendMessage s1 (stealThanks x t.id) (.stealAck x.no)).steals = s.steals.map (fun y => if y.no = x.no then { y with acked := true } else y) := by
    rw [sendMessage_steals]
    simp only [s1, updBy, decide_eq_true_eq]
  have htold : told t = match x.entry with | some e => t.reportEntry x.dst 4 0 e | none => t.reportEntry x.dst 4 1 0 := if_pos (by simp [hwait, hdead])
  rw [htold] at hfound
  refine ⟨_, _, hexec, hfound, ?_, hsteals⟩
  cases x.entry with
  | some e => exact reportEntry_reports t hpair (by decide) (by decide) e
  | none => exact reportEntry_reports t hpair (by decide) (by decide) 0

end

/-- The copy of a steal is freed by its acknowledgement. -/
theorem stealAck_frees {s : State} {x : Steal} {p : Partition} (hp : partOf s x.asid = some p)
    (hx : s.steals.find? (fun y => y.no = x.no && y.acked && s.arrived (.stealAck x.no)) = some x) :
    ∃ s' p', exec (.stealAck x.no) s = .next s' ∧ s'.steals = s.steals.filter (fun y => y.no ≠ x.no) ∧ partOf s' x.asid = some p' ∧
      (p'.deque (x.die, x.core)).entries = (p.deque (x.die, x.core)).entries ∧
      (p'.deque (x.die, x.core)).copies = (p.deque (x.die, x.core)).copies.filter (fun c => c.no ≠ x.no) := by
  let q : Deque := { p.deque (x.die, x.core) with copies := (p.deque (x.die, x.core)).copies.filter (fun c => c.no ≠ x.no) }
  let freed (r : Partition) : Partition :=
    r.setDeque { r.deque (x.die, x.core) with copies := (r.deque (x.die, x.core)).copies.filter (fun c => c.no ≠ x.no) }
  have hexec : exec (.stealAck x.no) s = .next { s.updPart x.asid freed with steals := s.steals.filter (fun y => y.no ≠ x.no) } := by
    change execStealAck x.no s = _
    rw [execStealAck, hx]
  obtain ⟨hdie, hcore⟩ := deque_key p (x.die, x.core)
  have hdeque : (freed p).deque (x.die, x.core) = q := deque_setDeque (q := q) hdie hcore
  exact ⟨_, freed p, hexec, rfl, partOf_updPart (f := freed) (fun _ => rfl) hp, by rw [hdeque], by rw [hdeque]⟩

theorem stealsComplete : Claims.StealsComplete := by
  intro s t p d a die core h hp hdie hcore hpair
  refine ⟨fun hv => ?named, fun x hasid => ?messages⟩
  case named =>
    have hexec := exec_dqsteal (d := d) h hp hdie hcore hv
    refine ⟨fun hin hother => ?_, fun hin hown => ?_, fun hout => ?_⟩
    · rw [if_neg (not_not.mpr hin), if_neg hother] at hexec
      obtain ⟨x, hsteals, hthief, hx, hxdie, hxcore, hdst, hanswered, hentry, hacked, hthread, hmem⟩ := sendSteal_sends h d (die, core)
      exact ⟨_, x, hexec, hsteals, hthief, hx, hxdie, hxcore, hdst, hanswered, hentry, hacked, hthread, hmem⟩
    · rw [if_neg (not_not.mpr hin), if_pos hown] at hexec
      exact endsPair_of_reportEntry h hpair rfl hexec (leaves_setThread hp _)
    · rw [if_pos hout] at hexec
      exact endsPair_of_reportEntry h hpair rfl hexec (leaves_setThread hp _)
  case messages =>
    rw [← hasid] at hp ⊢
    exact ⟨fun gone e left hx hsteal => stealRequest_takes hx hp hsteal,
      fun w rest hentries hlive hfree => by rw [hentries]; exact stealFrom_head hlive hfree rest,
      fun hx => ⟨fun hgone hdead hwait hpair => stealResponse_gives hx h hgone hdead hwait hpair,
        fun hgone => ⟨_, exec_stealResponse_of_gone hx hgone, rfl, rfl⟩⟩,
      fun hx => stealAck_frees hp hx⟩

/-! ### DQEXT (R90) -/

/-- A field of a word that is left in its place. -/
theorem land_mask_shiftLeft (n lo len : Nat) : n &&& (2 ^ len - 1) <<< lo = bitsOf n lo len <<< lo := by
  refine Nat.eq_of_testBit_eq fun i => ?_
  simp only [bitsOf, Nat.testBit_and, Nat.testBit_shiftLeft, Nat.testBit_two_pow_sub_one, Nat.testBit_mod_two_pow, Nat.testBit_div_two_pow]
  by_cases hlo : lo ≤ i
  · simp [hlo, Nat.sub_add_cancel hlo, Bool.and_comm]
  · simp [hlo]

/-- The register holds its base and its size. -/
theorem dqext_word (v : Word) {l : Nat} (hl : l < 2 ^ 12) :
    BitVec.ofNat 64 (bitsOf v.toNat 12 36 * 4096 + l) = (v &&& 0x0000FFFFFFFFF000) ||| BitVec.ofNat 64 l := by
  have hfield : bitsOf v.toNat 12 36 < 2 ^ 36 := Nat.mod_lt _ (by decide)
  have hbase : v.toNat &&& 0x0000FFFFFFFFF000 = bitsOf v.toNat 12 36 <<< 12 := land_mask_shiftLeft v.toNat 12 36
  refine BitVec.eq_of_toNat_eq ?_
  rw [BitVec.toNat_or, BitVec.toNat_and, BitVec.toNat_ofNat, BitVec.toNat_ofNat, show (0x0000FFFFFFFFF000 : Word).toNat = 0x0000FFFFFFFFF000 from rfl,
    hbase, Nat.mod_eq_of_lt (show l < 2 ^ 64 by omega), ← Nat.shiftLeft_add_eq_or_of_lt hl, Nat.shiftLeft_eq]
  omega

theorem dqext_size (l : Nat) : (if l = 0 then 0 else if l < 8 then 8 else if l > 24 then 24 else l) = if l = 0 then 0 else max 8 (min 24 l) := by
  split_ifs <;> omega

theorem dqextWrite_sets {s : State} {g : Partition} {die core : Nat} (v : Word) (hg : partOf s g.asid = some g)
    (hempty : (g.deque (die, core)).spilled = 0) :
    StepTo (.dqextWrite g.asid die core v) s (fun s' => s'.mem = s.mem ∧ ∃ g' q', partOf s' g.asid = some g' ∧ q' = g'.deque (die, core) ∧
      q'.entries = (g.deque (die, core)).entries ∧ q'.spilled = 0 ∧ q'.dqext = (v &&& 0x0000FFFFFFFFF000) |||
        BitVec.ofNat 64 (if (v.extractLsb' 0 5).toNat = 0 then 0 else max 8 (min 24 (v.extractLsb' 0 5).toNat))) := by
  let l := if (v.extractLsb' 0 5).toNat = 0 then 0 else max 8 (min 24 (v.extractLsb' 0 5).toNat)
  have hl : l < 2 ^ 12 := by
    dsimp only [l]
    split <;> omega
  let q : Deque := { g.deque (die, core) with dqext := (v &&& 0x0000FFFFFFFFF000) ||| BitVec.ofNat 64 l }
  have hexec : exec (.dqextWrite g.asid die core v) s = .next (s.setPart (g.setDeque q)) := by
    change execDqextWrite g.asid die core v s = _
    rw [execDqextWrite, hg]
    simp only [if_neg (not_not.mpr hempty), dqext_size, ← toNat_extractLsb'_eq_bitsOf v 0 5]
    rw [dqext_word v hl]
  obtain ⟨hdie, hcore⟩ := deque_key g (die, core)
  exact ⟨_, hexec, rfl, g.setDeque q, q, partOf_setPart_of_asid (q := g.setDeque q) hg rfl, (deque_setDeque (q := q) hdie hcore).symm, rfl, hempty, rfl⟩

/-! ### A copy that nobody has answered for (R95) -/

/-- Where all that a search can give is one value, and it gives something, it gives that value. -/
theorem findSome?_eq_of_forall {α β : Type} {f : α → Option β} {l : List α} {v : β} (hall : ∀ a ∈ l, ∀ b, f a = some b → b = v) {a : α} (ha : a ∈ l)
    (hsome : (f a).isSome) : l.findSome? f = some v := by
  obtain ⟨b, hb⟩ := Option.isSome_iff_exists.mp (List.findSome?_isSome_iff.mpr ⟨a, ha, hsome⟩)
  obtain ⟨a', ha', hb'⟩ := List.exists_of_findSome?_eq_some hb
  rw [hb, hall a' ha' b hb']

section
variable {s : State} {g : Partition} {y : Deque} {c : StealCopy} (hy : y ∈ g.deques) (hc : c ∈ y.copies) (hg : g ∈ s.parts)
  (hone : ∀ g2 ∈ s.parts, ∀ y2 ∈ g2.deques, ∀ c2 ∈ y2.copies, c2.no = c.no → g2 = g ∧ y2 = y ∧ c2 = c)
include hy hc hg hone

/-- A copy with a number of its own is the one found. -/
theorem findSome?_copy : s.parts.findSome? (fun p => p.deques.findSome? (fun q =>
      (q.copies.find? (fun x => x.no = c.no)).map (fun x => (p.asid, q, x)))) = some (g.asid, y, c) := by
  have hcopy {g2 : Partition} (hg2 : g2 ∈ s.parts) {y2 : Deque} (hy2 : y2 ∈ g2.deques) {b : Nat × Deque × StealCopy}
      (hb : (y2.copies.find? (fun x => x.no = c.no)).map (fun x => (g2.asid, y2, x)) = some b) : b = (g.asid, y, c) := by
    obtain ⟨c2, hc2, rfl⟩ := Option.map_eq_some_iff.mp hb
    obtain ⟨rfl, rfl, rfl⟩ := hone g2 hg2 y2 hy2 c2 (List.mem_of_find?_eq_some hc2) (by simpa using List.find?_some hc2)
    rfl
  have hhere : ((y.copies.find? (fun x => x.no = c.no)).map (fun x => (g.asid, y, x))).isSome := by
    rw [Option.isSome_map, List.find?_isSome]
    exact ⟨c, hc, by simp⟩
  refine findSome?_eq_of_forall (fun g2 hg2 b hb => ?_) hg (List.findSome?_isSome_iff.mpr ⟨y, hy, hhere⟩)
  obtain ⟨y2, hy2, hb2⟩ := List.exists_of_findSome?_eq_some hb
  exact hcopy hg2 hy2 hb2

theorem exec_stealCopyTimeout : exec (.stealCopyTimeout c.no) s =
    if s.cycle < c.at_ + 4 * ((s.pkg.sprtmo.getD (if c.thief.dieCode = y.die then 0 else 1) 0).toNat % 2 ^ 32) then .next s
    else match takeRecord s g.asid .scalar (dequeLostInfo g.asid y.die y.core c.entry) with
      | (s1, some (a, nr)) =>
        .next (postSupervisor (s1.updPart g.asid (fun p =>
          p.setDeque { p.deque (y.die, y.core) with copies := (p.deque (y.die, y.core)).copies.filter (fun x => x.no ≠ c.no) }))
          g.asid 37 (BitVec.ofNat 64 a) nr)
      | (_, none) => .next s := by
  change execStealCopyTimeout c.no s = _
  rw [execStealCopyTimeout, findSome?_copy hy hc hg hone]
  rfl

end

/-- A trap posted to a thread that runs is the last of its pending ones. -/
theorem postTrap_pends {s : State} {u : Thread} (hu : s.thread? u.id = some u) (hrun : u.run = .running) (a : AsyncTrap) :
    (postTrap s u.id a).thread? u.id = some { u with async := u.async ++ [a], event := true } := by
  rw [postTrap, thread?_updThread (fun w => by split <;> rfl) hu, if_neg (by simp [hrun])]

theorem dequeEvents : Claims.DequeEvents := by
  intro s g die core v hg
  dsimp only
  refine ⟨fun hempty => dqextWrite_sets v hg hempty, fun hheld => ?ignored, fun y hy c hc hin hone => ?timeout⟩
  case ignored =>
    change execDqextWrite g.asid die core v s = _
    rw [execDqextWrite, hg]
    exact if_pos hheld
  case timeout =>
    have hexec := exec_stealCopyTimeout hy hc hin hone
    refine ⟨fun hearly => hexec.trans (if_pos hearly), fun s1 hdue hfull => ?full, fun s1 a nr g1 u hdue htaken hg1 hu hrun => ?lost⟩
    case full =>
      rw [if_neg (Nat.not_lt.mpr hdue), hfull] at hexec
      exact hexec
    case lost =>
      rw [if_neg (Nat.not_lt.mpr hdue), htaken] at hexec
      let q : Deque := { g1.deque (y.die, y.core) with copies := (g1.deque (y.die, y.core)).copies.filter (fun x => x.no ≠ c.no) }
      let freed (p : Partition) : Partition :=
        p.setDeque { p.deque (y.die, y.core) with copies := (p.deque (y.die, y.core)).copies.filter (fun x => x.no ≠ c.no) }
      have hpart : partOf (s1.updPart g.asid freed) g.asid = some (g1.setDeque q) := partOf_updPart (f := freed) (fun _ => rfl) hg1
      have hsup : supervisorOf s1 g.asid = u.id :=
        (of_decide_eq_true (List.find?_some (p := fun w : Thread => decide (w.id = supervisorOf s1 g.asid)) hu)).symm
      have hid : supervisorOf (s1.updPart g.asid freed) g.asid = u.id := by
        rw [← hsup, supervisorOf, supervisorOf, hpart, hg1]
        rfl
      rw [hsup] at hu
      obtain ⟨hdie, hcore⟩ := deque_key g1 (y.die, y.core)
      have hdeque : (g1.setDeque q).deque (y.die, y.core) = q := deque_setDeque (q := q) hdie hcore
      refine ⟨_, hexec, rfl, ⟨g1.setDeque q, q, hpart, hdeque.symm, rfl, fun k hk => ?_⟩, ?_⟩
      · simpa using (List.mem_filter.mp hk).2
      · rw [postSupervisor, hid]
        refine ⟨_, _, postTrap_pends (s := s1.updPart g.asid freed) hu hrun _, rfl, rfl, rfl, rfl⟩

/-- Settles O23: an entry that is pushed stands at the tail of the deque that DQPOP takes it from; a steal by its messages; a copy by its number. -/
theorem deques : Obligations.Deques := ⟨dequePushPop, stealsComplete, dequeEvents⟩

end Sys2Proof.Machine
end


section
/-! SUPPORT. The ring operations and their instructions (O24): how far the counters of a ring advance, and how an instruction ends by what the home
slice answers (R98-R100). -/

namespace Sys2Proof.Machine
open Sys2Proof.Claims

-- One after another: proofs elaborated at a time take a thread each, whose stacks are the most of the check's memory.
set_option Elab.async false

/-! ### How far the counters go (R98, R99) -/

/-- PTAIL stays before a claim that is open. -/
theorem tailOver_of_opened {cs : List Claim} {p : Nat} (h : ∀ c ∈ cs, c.pos = p → c.st = .opened) : ∀ k, tailOver cs k p = p
  | 0 => rfl
  | k + 1 => by
    rw [tailOver, List.find?_eq_none.mpr fun c hc => by simpa using h c hc]

theorem tailOver_of_find {cs : List Claim} {p : Nat} {c : Claim} (h : cs.find? (fun c => c.pos = p && c.st ≠ .opened) = some c) (k : Nat) :
    tailOver cs (k + 1) p = tailOver cs k (p + c.n) := by
  rw [tailOver, h]

/-- CRES stays where no claim is VOID. -/
theorem resOver_of_noVoid {cs : List Claim} (h : ∀ c ∈ cs, c.st ≠ .void) (p : Nat) : ∀ k, resOver cs k p = p
  | 0 => rfl
  | k + 1 => by
    rw [resOver, List.find?_eq_none.mpr fun c hc => by simp [h c hc]]

/-- CHEAD stays before a reservation that is not retired. -/
theorem headOver_of_held {cs : List Claim} {rs : List Resv} {p : Nat} (hvoid : ∀ c ∈ cs, c.st ≠ .void)
    (h : ∀ x ∈ rs, x.pos = p → x.retired = false) : ∀ k, headOver cs rs k p = p
  | 0 => rfl
  | k + 1 => by
    rw [headOver, List.find?_eq_none.mpr fun x hx => by simpa using h x hx, List.find?_eq_none.mpr fun c hc => by simp [hvoid c hc]]

theorem headOver_of_find {cs : List Claim} {rs : List Resv} {p : Nat} {x : Resv} (h : rs.find? (fun x => x.pos = p && x.retired) = some x) (k : Nat) :
    headOver cs rs (k + 1) p = headOver cs rs k (p + x.n) := by
  rw [headOver, h]

/-- A ring whose counters have gone as far as they go. -/
theorem ringAdvance_rest {b : RBlock} {r : Ring} (hvoid : ∀ c ∈ r.claims, c.st ≠ .void) (htail : ∀ c ∈ r.claims, c.pos = b.ptail → c.st = .opened)
    (hhead : ∀ x ∈ r.resvs, x.pos = b.chead → x.retired = false) (hclaims : ∀ c ∈ r.claims, b.chead < c.pos + c.n)
    (hresvs : ∀ x ∈ r.resvs, b.chead < x.pos + x.n) : ringAdvance b r = (b, r) := by
  simp only [ringAdvance, tailOver_of_opened htail, resOver_of_noVoid hvoid, headOver_of_held hvoid hhead, max_self]
  rw [List.filter_eq_self.mpr fun c hc => by simpa using hclaims c hc, List.filter_eq_self.mpr fun x hx => by simpa using hresvs x hx]

/-- PTAIL passes a committed claim that starts at it. -/
theorem ringAdvance_committed {b : RBlock} {r : Ring} {c : Claim} (hclaims : r.claims = [c]) (hresvs : r.resvs = []) (hst : c.st = .committed)
    (hpos : c.pos = b.ptail) (hn : 1 ≤ c.n) (hhead : b.chead = b.ptail) : ringAdvance b r = ({ b with ptail := b.ptail + c.n }, r) := by
  have hvoid : ∀ c' ∈ [c], c'.st ≠ .void := by simp [hst]
  have htail (k : Nat) : tailOver [c] (k + 1) b.ptail = b.ptail + c.n := by
    rw [tailOver_of_find (c := c) (by simp [hpos, hst]), tailOver_of_opened]
    intro c' hc' hcpos
    obtain rfl := List.mem_singleton.mp hc'
    omega
  have hkept : [c].filter (fun c => b.chead < c.pos + c.n) = [c] := List.filter_eq_self.mpr fun c' hc' => by
    obtain rfl := List.mem_singleton.mp hc'
    simp only [decide_eq_true_eq]
    omega
  simp only [ringAdvance, hclaims, hresvs, htail, resOver_of_noVoid hvoid, headOver_of_held (rs := []) hvoid (by simp), max_self, hkept, List.filter_nil]
  rw [← hclaims, ← hresvs]

/-- CHEAD passes a retired reservation that starts at it, and what it has passed leaves the tables. -/
theorem ringAdvance_retired {b : RBlock} {r : Ring} {c : Claim} {x : Resv} (hclaims : r.claims = [c]) (hresvs : r.resvs = [x])
    (hst : c.st = .committed) (hretired : x.retired = true) (hpos : c.pos = b.chead) (hxpos : x.pos = b.chead) (hn : 1 ≤ x.n) (hcn : c.n = x.n)
    (htail : b.ptail = b.chead + x.n) : ringAdvance b r = ({ b with chead := b.chead + x.n }, { r with claims := [], resvs := [] }) := by
  have hvoid : ∀ c' ∈ [c], c'.st ≠ .void := by simp [hst]
  have hhead (k : Nat) : headOver [c] [x] (k + 1) b.chead = b.chead + x.n := by
    rw [headOver_of_find (x := x) (by simp [hxpos, hretired]), headOver_of_held hvoid]
    intro x' hx' hxpos'
    obtain rfl := List.mem_singleton.mp hx'
    omega
  have hstay (k : Nat) : tailOver [c] k b.ptail = b.ptail := by
    refine tailOver_of_opened (fun c' hc' hcpos => ?_) k
    obtain rfl := List.mem_singleton.mp hc'
    omega
  have hgone : [c].filter (fun c => b.chead + x.n < c.pos + c.n) = [] := by simp [hpos, hcn]
  have hxgone : [x].filter (fun y => b.chead + x.n < y.pos + y.n) = [] := by simp [hxpos]
  simp only [ringAdvance, hclaims, hresvs, hhead, hstay, resOver_of_noVoid hvoid, max_self, hgone, hxgone]

/-! ### The four operations -/

section
variable (b : RBlock) (r : Ring) (who : Agent) (blk sc : Nat) {n : Nat} (hn : 1 ≤ n)
include hn

theorem ringApply_claim_granted (hroom : b.pclaim + n ≤ b.chead + 2 ^ b.lgn) (horder : b.chead ≤ b.pclaim) (hwaiters : r.waiters = [])
    (hopen : (r.claims.filter (fun c => c.st = .opened)).length < 64) :
    ringApply b r who false (.claim blk n sc) = ({ b with pclaim := b.pclaim + n },
      { r with claims := r.claims ++ [{ pos := b.pclaim, n := n, st := .opened, scope := sc }] }, .granted b.pclaim n) := by
  have hgrant : claimGrant b r n = true := by
    simp only [claimGrant, hopen, decide_true, Bool.and_true, decide_eq_true_eq]
    omega
  simp only [ringApply, if_neg (show ¬ (n = 0 ∨ n > 2 ^ b.lgn) by omega), hwaiters, List.any_nil, Bool.not_false, Bool.or_true, hgrant, Bool.and_self,
    if_true]

theorem ringApply_claim_waits (hfit : n ≤ 2 ^ b.lgn) (hfull : b.chead + 2 ^ b.lgn < b.pclaim + n) :
    ringApply b r who false (.claim blk n sc) =
      (b, { r with waiters := r.waiters ++ [{ who := who, claims := true, n := n, scope := sc }] }, .waits) := by
  have hgrant : claimGrant b r n = false := by
    rw [claimGrant, Bool.and_eq_false_iff, decide_eq_false_iff_not]
    exact .inl (by omega)
  simp only [ringApply, if_neg (show ¬ (n = 0 ∨ n > 2 ^ b.lgn) by omega), hgrant, Bool.and_false, Bool.false_eq_true, if_false]

/-- A commit of the claim at PTAIL moves PTAIL past it. -/
theorem ringApply_commit (hclaims : r.claims = [{ pos := b.ptail, n := n, st := .opened, scope := sc }]) (hresvs : r.resvs = [])
    (hhead : b.chead = b.ptail) :
    ringApply b r who false (.commit blk b.ptail sc) = ({ b with ptail := b.ptail + n },
      { r with claims := [{ pos := b.ptail, n := n, st := .committed, scope := sc }] }, .granted b.ptail 0) := by
  let r1 : Ring := { r with claims := [{ pos := b.ptail, n := n, st := .committed, scope := sc }] }
  have hadvance : ringAdvance b r1 = ({ b with ptail := b.ptail + n }, r1) :=
    ringAdvance_committed (r := r1) (c := { pos := b.ptail, n := n, st := .committed, scope := sc }) rfl hresvs rfl rfl hn hhead
  have hmarked : updBy (fun x : Claim => x.pos = b.ptail && x.st = .opened) (fun x => { x with st := .committed }) r.claims = r1.claims := by
    simp [hclaims, updBy, r1]
  rw [ringApply, if_pos (by simp [hclaims]), hmarked]
  exact congrArg (fun y : RBlock × Ring => (y.1, y.2, RingRes.granted b.ptail 0)) hadvance

/-- A wait takes the granules of the claim at CRES. -/
theorem ringApply_wait (hfit : n ≤ 2 ^ b.lgn) (hclaims : r.claims = [{ pos := b.cres, n := n, st := .committed, scope := sc }]) (hresvs : r.resvs = [])
    (hwaiters : r.waiters = []) (hhead : b.chead = b.cres) (htail : b.ptail = b.cres + n) :
    ringApply b r who false (.wait blk n sc) = ({ b with cres := b.cres + n },
      { r with resvs := [{ pos := b.cres, n := n, retired := false, scope := sc }] }, .granted b.cres n) := by
  have hbefore : ringAdvance b r = (b, r) := by
    refine ringAdvance_rest ?_ ?_ ?_ ?_ ?_ <;> simp [hclaims, hresvs] <;> omega
  have hrun : runLength r.claims (r.claims.length + 1) b.cres = n := by
    have hfound : r.claims.find? (fun c => c.pos ≤ b.cres && b.cres < c.pos + c.n && c.st = .committed) =
        some { pos := b.cres, n := n, st := .committed, scope := sc } := by
      rw [hclaims, List.find?_cons_of_pos (by simpa using Nat.pos_of_ne_zero (by omega))]
    have hnone : r.claims.find? (fun c => c.pos ≤ b.cres + n && b.cres + n < c.pos + c.n && c.st = .committed) = none := by
      simp [hclaims]
    simp only [runLength, hfound, Nat.add_sub_cancel_left]
    rw [hclaims, List.length_singleton, runLength, ← hclaims, hnone, Nat.add_zero]
  have hgrant : waitGrant b r n = some n := by
    simp [waitGrant, hrun, hresvs, htail]
  let b1 : RBlock := { b with cres := b.cres + n }
  let r1 : Ring := { r with resvs := r.resvs ++ [{ pos := b.cres, n := n, retired := false, scope := sc }] }
  have hafter : ringAdvance b1 r1 = (b1, r1) := by
    refine ringAdvance_rest ?_ ?_ ?_ ?_ ?_ <;> simp [hclaims, hresvs, b1, r1] <;> omega
  have happly : ringApply b r who false (.wait blk n sc) = (b1, r1, .granted b.cres n) := by
    simp only [ringApply, if_neg (show ¬ (n = 0 ∨ n > 2 ^ b.lgn) by omega), hbefore]
    rw [if_pos (by simp [hwaiters]), hgrant]
    exact congrArg (fun y : RBlock × Ring => (y.1, y.2, RingRes.granted b.cres n)) hafter
  rw [happly]
  simp only [r1, hresvs, List.nil_append]
  rfl

/-- Retiring the oldest reservation moves CHEAD past it, and what CHEAD has passed leaves the tables. -/
theorem ringApply_retire (hclaims : r.claims = [{ pos := b.chead, n := n, st := .committed, scope := sc }])
    (hresvs : r.resvs = [{ pos := b.chead, n := n, retired := false, scope := sc }]) (htail : b.ptail = b.chead + n) :
    ringApply b r who false (.retire blk b.chead sc) = ({ b with chead := b.chead + n }, { r with claims := [], resvs := [] }, .granted b.chead 0) := by
  let r1 : Ring := { r with resvs := [{ pos := b.chead, n := n, retired := true, scope := sc }] }
  have hadvance : ringAdvance b r1 = ({ b with chead := b.chead + n }, { r1 with claims := [], resvs := [] }) :=
    ringAdvance_retired (r := r1) (x := { pos := b.chead, n := n, retired := true, scope := sc }) hclaims rfl rfl rfl rfl rfl hn rfl htail
  have hmarked : updBy (fun y : Resv => y.pos = b.chead && !y.retired) (fun y => { y with retired := true }) r.resvs = r1.resvs := by
    simp [hresvs, updBy, r1]
  rw [ringApply, if_pos (by simp [hresvs]), hmarked]
  exact congrArg (fun y : RBlock × Ring => (y.1, y.2, RingRes.granted b.chead 0)) hadvance

end

theorem ringOperations : Claims.RingOperations := by
  intro b r who blk n sc
  refine ⟨fun hn hroom horder hwaiters hopen => ringApply_claim_granted b r who blk sc hn hroom horder hwaiters hopen,
    fun hn hfit hfull => ringApply_claim_waits b r who blk sc hn hfit hfull, fun hbad => ⟨if_pos hbad, if_pos hbad⟩,
    fun hn hclaims hresvs hhead hres => ringApply_commit b r who blk sc hn hclaims hresvs hhead,
    fun hn hfit hclaims hresvs hwaiters hhead htail => ringApply_wait b r who blk sc hn hfit hclaims hresvs hwaiters hhead htail,
    fun hn hclaims hresvs htail hres => ringApply_retire b r who blk sc hn hclaims hresvs htail, fun hnone => ?_, fun hnone => ?_⟩
  · rw [ringApply, hnone]
    rfl
  · rw [ringApply, hnone]
    rfl

end Sys2Proof.Machine
end


section
/-! SUPPORT. The ring instructions (O24): how they end by what the home slice answers (R98, R100, R322). -/

namespace Sys2Proof.Machine
open Sys2Proof.Claims

-- One after another: proofs elaborated at a time take a thread each, whose stacks are the most of the check's memory.
set_option Elab.async false

/-! ### What an instruction does with the slice's answer -/

/-- The thread of a ring instruction, which names the ring. -/
def Thread.naming (t : Thread) (block : Nat) : Thread := { t with lastRing := some block }

/-- The end of a ring instruction by the answer of the home slice, with the ring's OSCOPE. -/
def ringTold (fn : Nat) (d : Reg) (op : RingOp) (pair : Bool) (s2 : State) (t : Thread) (osc : Nat) : RingRes → State
  | .waits => stir (s2.updThread t.id (fun u => { u with wait := .ring op.block op.isClaim d })) t.asid
  | .status c => s2.updThread t.id (fun u => if pair then u.reportPair d 0x2E fn c 0 0 else u.report d 0x2E fn c 0)
  | .granted p m => match op with
    | .claim _ _ _ => s2.updThread t.id (fun u => u.report d 0x2E fn 0 (BitVec.ofNat 64 p))
    | .wait _ _ _ => (acquireAt s2 (t.naming op.block) osc).updThread t.id (fun u => u.reportPair d 0x2E fn 0 (BitVec.ofNat 64 p) (BitVec.ofNat 64 m))
    | _ => s2.updThread t.id (fun u => u.report d 0x2E fn 0 0)

theorem ringInstr_atSlice {fn : Nat} {d : Reg} {op : RingOp} {pair : Bool} {s s1 s2 : State} {t : Thread} {p : Partition} {x : Xl} {lv osc : Nat}
    {res : RingRes} (halign : op.block % 64 = 0) (hp : partOf s t.asid = some p) (hfree : t.scopeFree = false)
    (hxl : threadXl s (t.naming op.block) op.block (Need.atomic (t.mode = .user)) = .ok s1 (x, lv))
    (hat : ringAtSlice (s1.setThread (t.naming op.block)) t.asid x (.thread t.id) op = some (s2, res, osc)) :
    ringInstr fn d op pair s t = ringTold fn d op pair s2 t osc res := by
  have hnaming : ({ t with lastRing := some op.block } : Thread) = t.naming op.block := rfl
  have hfree' : ¬ (t.naming op.block).scopeFree = true := by simp [Thread.naming, hfree]
  have hp' : partOf s (t.naming op.block).asid = some p := hp
  rw [ringInstr, hnaming]
  simp only [if_neg (not_not.mpr halign), hp', if_neg hfree']
  simp only [show (t.naming op.block).mode = t.mode from rfl, show (t.naming op.block).asid = t.asid from rfl,
    show (t.naming op.block).id = t.id from rfl, hxl, hat]
  cases res with
  | waits => rfl
  | status c => rfl
  | granted q m => cases op with
    | claim b n sc => rfl
    | commit b pos sc => rfl
    | wait b n sc => rfl
    | retire b pos sc => rfl

/-! ### The four instructions -/

section
variable {s : State} {t : Thread} {d a b : Reg} (h : Issues s t)
include h

theorem exec_rclaim : exec (.rclaim d a b) s = .next (ringInstr 5 d (.claim (t.reg a).toNat (t.reg b).toNat t.scope) false s t) := onCur_issues h
theorem exec_rwait : exec (.rwait d a b) s = .next (ringInstr 7 d (.wait (t.reg a).toNat (t.reg b).toNat t.scope) true s t) := onCur_issues h

variable (himp : t.imp = []) (hbuf : t.stbuf = [])
include himp hbuf

theorem exec_rcommit :
    exec (.rcommit d a b) s = .next (ringInstr 6 d (.commit (t.reg a).toNat (t.reg b).toNat t.scope) false (s.setThread t) t) :=
  (onCur_issues h).trans (by rw [syncPoint_of_clear himp hbuf])

theorem exec_rretire :
    exec (.rretire d a b) s = .next (ringInstr 8 d (.retire (t.reg a).toNat (t.reg b).toNat t.scope) false (s.setThread t) t) :=
  (onCur_issues h).trans (by rw [syncPoint_of_clear himp hbuf])

end

theorem ringInstr_misaligned {fn : Nat} {d : Reg} {op : RingOp} {pair : Bool} {s : State} {t : Thread} {v : Word} (hblock : op.block = v.toNat)
    (halign : v.toNat % 64 ≠ 0) : ringInstr fn d op pair s t = syncTrap s t 33 0 false false t.pc v := by
  simp only [ringInstr, hblock, if_pos halign, misaligned, BitVec.ofNat_toNat, BitVec.setWidth_eq]

section
variable {s s2 : State} {t : Thread} {block osc : Nat} {ev : Bool} {i : Instr} {d : Reg} {op : RingOp} {fn : Nat}
  (ht : s2.thread? t.id = some { t.naming block with event := ev })
include ht

/-- A thread that is told a status or a grant has kept its registers. -/
theorem ends_of_ringTold {code : Nat} {v : Word} (hexec : exec i s = .next (s2.updThread t.id (fun u => u.report d 0x2E fn code v)))
    (hf : fn < 2 ^ 8) (hc : code < 2 ^ 8) : Ends s t i d 0x2E fn code v (fun s' => s'.mem = s2.mem) :=
  ends_of_updThread hexec ht ⟨rfl, rfl, rfl, rfl, rfl, rfl, rfl, rfl⟩ rfl (hf := hf) (hc := hc)

/-- One whose wait is granted acquires first (R100). -/
theorem endsPair_of_ringTold {v w : Word} (hpair : Sys2Proof.pairOk d = true)
    (hexec : exec i s = .next ((acquireAt s2 (t.naming block) osc).updThread t.id (fun u => u.reportPair d 0x2E fn 0 v w))) (hf : fn < 2 ^ 8) :
    EndsPair s t i d 0x2E fn 0 v w (fun s' => s'.mem = s2.mem) := by
  refine endsPair_of_updThread hpair hexec ((thread?_congr (acquireAt_threads ..) t.id).trans ht) ⟨rfl, rfl, rfl, rfl, rfl, rfl, rfl, rfl⟩ ?_ (hf := hf)
  rw [State.updThread_mem, acquireAt_eq]

/-- One that has to wait holds its wait. -/
theorem waits_of_ringTold {pair : Bool} (hexec : exec i s = .next (ringTold fn d op pair s2 t osc .waits)) :
    ∃ s' u, exec i s = .next s' ∧ s'.thread? t.id = some u ∧ u = { t.naming block with event := ev, wait := .ring op.block op.isClaim d } :=
  ⟨_, _, hexec, thread?_updThread (f := fun u => { u with wait := .ring op.block op.isClaim d }) (fun _ => rfl) ht, rfl⟩

end

theorem ringInstructions : Claims.RingInstructions := by
  intro s s1 s2 t d e a b p x lv P m osc ev h himp hbuf hfree hp hpair
  dsimp only
  refine ⟨fun halign ht hP => ⟨fun hxl => ?unsynced, fun hxl => ?synced⟩, fun halign => ?misaligned⟩
  case unsynced =>
    have claims {res : RingRes} (hat : ringAtSlice _ _ _ _ (.claim (t.reg a).toNat (t.reg b).toNat t.scope) = some (s2, res, osc)) :=
      (exec_rclaim (d := d) h).trans (congrArg _ (ringInstr_atSlice (op := .claim (t.reg a).toNat (t.reg b).toNat t.scope) halign hp hfree hxl hat))
    have waits {res : RingRes} (hat : ringAtSlice _ _ _ _ (.wait (t.reg a).toNat (t.reg b).toNat t.scope) = some (s2, res, osc)) :=
      (exec_rwait (d := e) h).trans (congrArg _ (ringInstr_atSlice (op := .wait (t.reg a).toNat (t.reg b).toNat t.scope) halign hp hfree hxl hat))
    exact ⟨fun hat => ends_of_ringTold ht (claims hat) (by decide) (by decide), fun hat => endsPair_of_ringTold ht hpair (waits hat) (by decide),
      fun hat => ends_of_ringTold ht (claims hat) (by decide) (by decide), fun hat => waits_of_ringTold ht (claims hat),
      fun hat => waits_of_ringTold ht (waits hat)⟩
  case synced =>
    have commits {res : RingRes} (hat : ringAtSlice _ _ _ _ (.commit (t.reg a).toNat (t.reg b).toNat t.scope) = some (s2, res, osc)) :=
      (exec_rcommit (d := d) h himp hbuf).trans (congrArg _ (ringInstr_atSlice (op := .commit (t.reg a).toNat (t.reg b).toNat t.scope) halign hp hfree hxl hat))
    have retires {res : RingRes} (hat : ringAtSlice _ _ _ _ (.retire (t.reg a).toNat (t.reg b).toNat t.scope) = some (s2, res, osc)) :=
      (exec_rretire (d := d) h himp hbuf).trans (congrArg _ (ringInstr_atSlice (op := .retire (t.reg a).toNat (t.reg b).toNat t.scope) halign hp hfree hxl hat))
    exact ⟨fun hat => ends_of_ringTold ht (commits hat) (by decide) (by decide), fun hat => ends_of_ringTold ht (commits hat) (by decide) (by decide),
      fun hat => ends_of_ringTold ht (retires hat) (by decide) (by decide), fun hat => ends_of_ringTold ht (retires hat) (by decide) (by decide)⟩
  case misaligned =>
    exact ⟨(exec_rclaim h).trans (congrArg _ (ringInstr_misaligned rfl halign)), (exec_rwait h).trans (congrArg _ (ringInstr_misaligned rfl halign)),
      (exec_rcommit h himp hbuf).trans (congrArg _ (ringInstr_misaligned rfl halign)),
      (exec_rretire h himp hbuf).trans (congrArg _ (ringInstr_misaligned rfl halign))⟩

end Sys2Proof.Machine
end


section
/-! SUPPORT. An access to memory moves no thread (R210-R220): what the grants of a ring need of the read and the write of its block. -/

namespace Sys2Proof.Machine
open Sys2Proof.Claims

-- One after another: proofs elaborated at a time take a thread each, whose stacks are the most of the check's memory.
set_option Elab.async false

/-- The threads stand as `l`. -/
def ThreadsAre (l : List Thread) (s : State) : Prop := s.threads = l

section
variable {l : List Thread} {s : State}

/-! ### The levels -/

theorem llcGet_threads (s : State) (pa n : Nat) : (llcGet s pa n).1.threads = s.threads := llcHold_threads s (pa / 128)

theorem llcLines_threads (k : Nat) (s : State) (pa : Nat) : (llcLines k s pa).1.threads = s.threads := by
  induction k generalizing s pa with
  | zero => rfl
  | succ k ih => exact (ih (llcGet s pa 128).1 (pa + 128)).trans (llcGet_threads s pa 128)

theorem installAt_threads (s : State) (x : Slice) (y : SLine) : (installAt s x y).threads = s.threads := by
  unfold installAt
  split
  case h_1 => rfl
  case h_2 =>
    dsimp only
    split
    case isTrue => exact sendMessage_threads ..
    case isFalse => rfl

theorem expandAt_threads (s : State) (dir t : Nat) : (expandAt s dir t).1.threads = s.threads := by
  have hentry := llcGet_threads s (dir + 8 * t) 8
  have hchunk (k a : Nat) := (llcLines_threads k (llcGet s (dir + 8 * t) 8).1 a).trans hentry
  unfold expandAt
  dsimp only
  split
  · rfl
  split
  · exact hentry
  split
  · exact hentry
  split
  · exact hentry
  split
  · exact hchunk ..
  split <;> exact hchunk ..

theorem tileFor_threads (s : State) (d i : Nat) (w : CompPage) (t : Nat) : (tileFor s d i w t).1.threads = s.threads := by
  have hexpand := expandAt_threads s w.dir t
  unfold tileFor
  split
  · rfl
  · split <;> next e => rw [e] at hexpand; exact hexpand

/-! ### A read -/

theorem useGot_threadsAre {w : Word} {g : Got} (h : ThreadsAre l s) : (useGot w s g).Leaves (ThreadsAre l) := by
  unfold useGot
  split
  · exact h
  · change ThreadsAre l (if _ then _ else _)
    split <;> exact h

theorem llcLoad_threadsAre (lv : Nat) (x : Xl) (n : Nat) (h : ThreadsAre l s) : (llcLoad s lv x n).Leaves (ThreadsAre l) := by
  have hexpand := (expandAt_threads s (compDir x (pageBits lv)).1 (compDir x (pageBits lv)).2).trans h
  unfold llcLoad
  split
  · exact h
  split
  · exact h
  split
  · split
    · next e => rw [e] at hexpand; exact hexpand
    · next e => rw [e] at hexpand; exact useGot_threadsAre hexpand
  · exact useGot_threadsAre ((llcGet_threads ..).trans h)

theorem missRead_threadsAre (d lv : Nat) (x : Xl) (n : Nat) (h : ThreadsAre l s) : (missRead s d lv x n).Leaves (ThreadsAre l) := by
  have htile := (tileFor_threads s d (sliceIndex x.iset x.pa) (x.window lv) (compDir x (pageBits lv)).2).trans h
  unfold missRead
  dsimp only
  split
  · exact h
  split
  · trivial
  split
  · split
    · next e => rw [e] at htile; exact htile
    · next e =>
      rw [e] at htile
      refine useGot_threadsAre ?_
      split
      · exact (installAt_threads ..).trans htile
      · exact htile
  split
  · trivial
  split
  · exact useGot_threadsAre ((installAt_threads ..).trans ((llcGet_threads ..).trans h))
  · exact useGot_threadsAre ((llcGet_threads ..).trans h)

theorem readBytes_threadsAre (die : Option Nat) (lv : Nat) (x : Xl) (n : Nat) (h : ThreadsAre l s) : (readBytes s die lv x n).Leaves (ThreadsAre l) := by
  unfold readBytes
  generalize placeOf s die x n = dx
  obtain ⟨d, y⟩ := dx
  dsimp only
  split
  · split
    · trivial
    · exact llcLoad_threadsAre _ _ _ h
  · split
    · trivial
    split
    · exact useGot_threadsAre h
    split
    · trivial
    · exact missRead_threadsAre _ _ _ _ h

/-! ### A write -/

theorem llcBack_threads (s : State) (line : Nat) (data : List Byte) (bad : List Nat) : (llcBack s line data bad).threads = s.threads :=
  llcPut_threads s (line * 128) data

theorem llcStore_threadsAre (x : Xl) (bs : List Byte) (h : ThreadsAre l s) : (llcStore s x bs).Leaves (ThreadsAre l) := by
  unfold llcStore
  split
  · exact h
  split
  · exact h
  split
  · exact h
  · exact (llcPut_threads (markRing s x.pa bs.length) x.pa bs).trans h

theorem hitWrite_threadsAre (sl : Slice) (y : SLine) (x : Xl) (bs : List Byte) (h : ThreadsAre l s) :
    (hitWrite s sl y x bs).Leaves (ThreadsAre l) := by
  unfold hitWrite
  dsimp only
  split
  · exact h
  split
  · exact h
  split
  · trivial
  split
  · exact Acc.leaves_bind (llcStore_threadsAre x bs h) (fun _ _ _ h1 => h1)
  · refine Acc.leaves_bind (llcStore_threadsAre x bs ?_) (fun _ _ _ h1 => h1)
    split
    · exact (llcBack_threads ..).trans h
    · exact h

theorem missWrite_threadsAre (sl : Slice) (x : Xl) (bs : List Byte) (h : ThreadsAre l s) : (missWrite s sl x bs).Leaves (ThreadsAre l) := by
  have hline := (llcGet_threads s (x.pa / 128 * 128) 128).trans h
  unfold missWrite
  dsimp only
  split
  · exact h
  split
  · trivial
  split
  · split
    · exact hline
    · exact (installAt_threads ..).trans hline
  · exact Acc.leaves_bind (llcStore_threadsAre x bs h) (fun _ _ _ h1 => h1)

theorem writeBytes_threadsAre (die : Option Nat) (x : Xl) (bs : List Byte) (h : ThreadsAre l s) : (writeBytes s die x bs).Leaves (ThreadsAre l) := by
  unfold writeBytes
  generalize placeOf s die x bs.length = dx
  obtain ⟨d, y⟩ := dx
  dsimp only
  split
  · split
    · trivial
    · exact llcStore_threadsAre _ _ h
  · split
    · trivial
    split
    · exact hitWrite_threadsAre _ _ _ _ h
    split
    · trivial
    · exact missWrite_threadsAre _ _ _ h

end

/-! ### The threads an access that completes leaves -/

theorem threads_of_readBytes {s s' : State} {die : Option Nat} {lv : Nat} {x : Xl} {n : Nat} {bs : List Byte}
    (h : readBytes s die lv x n = .ok s' bs) : s'.threads = s.threads := by
  have hleaves := readBytes_threadsAre (l := s.threads) die lv x n rfl
  rw [h] at hleaves
  exact hleaves

theorem threads_of_writeBytes {s s' : State} {die : Option Nat} {x : Xl} {bs : List Byte}
    (h : writeBytes s die x bs = .ok s' ()) : s'.threads = s.threads := by
  have hleaves := writeBytes_threadsAre (l := s.threads) die x bs rfl
  rw [h] at hleaves
  exact hleaves

end Sys2Proof.Machine
end


section
/-! SUPPORT. What happens at a ring's home slice (O24): plain stores, operations of any agent, and grants (R97-R101). -/

namespace Sys2Proof.Machine
open Sys2Proof.Claims

-- One after another: proofs elaborated at a time take a thread each, whose stacks are the most of the check's memory.
set_option Elab.async false

/-! ### A plain store (R97) -/

/-- The tables of a ring as a plain store to its block leaves them. -/
def Ring.cleared (r : Ring) : Ring := { r with claims := [], resvs := [], waiters := [], stored := false }

theorem tellWaiter_rings (s : State) (w : RWaiter) (res : RingRes) : (tellWaiter s w res).rings = s.rings := by
  unfold tellWaiter
  split <;> rfl

theorem ring?_congr {s s' : State} (h : s'.rings = s.rings) (asid block : Nat) : s'.ring? asid block = s.ring? asid block := by
  rw [State.ring?, h, State.ring?]

theorem ring?_setRing (s : State) (r : Ring) : (s.setRing r).ring? r.asid r.block = some r := find?_putBy (by simp) s.rings

theorem foldl_tellWaiter_rings (l : List RWaiter) (res : RingRes) (s : State) : (l.foldl (fun st w => tellWaiter st w res) s).rings = s.rings :=
  List.foldlRecOn (motive := fun st => st.rings = s.rings) l _ rfl fun st hst w _ => (tellWaiter_rings st w res).trans hst

theorem ring?_ringReset (s : State) (r : Ring) : (ringReset s r).1.ring? r.asid r.block = some r.cleared := by
  unfold ringReset
  exact (ring?_congr (foldl_tellWaiter_rings ..) _ _).trans (ring?_setRing _ r.cleared)

theorem ringFresh_of_stored {s : State} {asid block : Nat} {r : Ring} (hring : s.ring? asid block = some r) (hstored : r.stored = true) :
    ringFresh s asid block = (ringReset s r).1 := by
  rw [ringFresh, hring]
  exact if_pos hstored

/-! ### An operation of any agent (R98) -/

theorem exec_ringOpAtSlice {s s1 s2 : State} {asid : Nat} {op : RingOp} {who : Agent} {y : Xl} {lv osc : Nat} {res : RingRes}
    (halign : op.block % 64 = 0) (htr : translate s none 0 asid op.block (Need.atomic false) = .ok s1 (y, lv))
    (hat : ringAtSlice s1 asid y who op = some (s2, res, osc)) :
    exec (.ringOpAtSlice asid op who) s = .next (tellWaiter s2 { who := who, claims := op.isClaim, n := 0, scope := op.scope } res) := by
  change execRingOpAtSlice asid op who s = _
  simp only [execRingOpAtSlice, htr, if_neg (not_not.mpr halign), hat]

/-- What a ring port holds of an outcome: the grant or the status. -/
def RingRes.atPort (res : RingRes) : Option (Nat × Nat) :=
  match res with
  | .granted p _ => some (p, 0)
  | .status c => some (0, c)
  | .waits => none

/-- A ring port that is told holds what it was granted. -/
theorem rports_tellWaiter {s : State} {w : RWaiter} {io port : Nat} (hw : w.who = .ring io port) (res : RingRes) {rp : RingPort}
    (hrp : s.pkg.rports[io * 64 + port]? = some rp) :
    (tellWaiter s w res).pkg.rports[io * 64 + port]? = some { rp with granted := res.atPort } := by
  unfold tellWaiter
  rw [hw]
  simp only [List.getElem?_mapIdx, hrp, Option.map_some, if_true]
  rfl

/-! ### Grants (R98-R100) -/

theorem wait_of_reports {t : Thread} {d : Reg} {maj fn code : Nat} {v : Word} (u : Thread) (h : Reports t u d maj fn code v) : u.wait = .none := by
  obtain ⟨-, -, -, -, hwait, -⟩ := h
  exact hwait

theorem wait_of_reportsPair {t : Thread} {d : Reg} {maj fn code : Nat} {v w : Word} (u : Thread) (h : ReportsPair t u d maj fn code v w) :
    u.wait = .none := by
  obtain ⟨-, -, -, -, -, hwait, -⟩ := h
  exact hwait

/-- An even register above g0 begins a pair. -/
theorem pairOk_of_even {d : Reg} (hd : d.getLsbD 0 = false) (hd0 : d ≠ 0) : Sys2Proof.pairOk d = true := by
  have hne : d.toNat ≠ 0 := fun e => hd0 (BitVec.eq_of_toNat_eq e)
  have heven : d.toNat % 2 = 0 := by
    rw [BitVec.getLsbD, Nat.testBit_zero, decide_eq_false_iff_not] at hd
    omega
  simp [Sys2Proof.pairOk, heven, hne]

theorem ringPut_threads {s s' : State} {r : Ring} {x : Xl} {b : RBlock} (h : ringPut s r x b = some s') : s'.threads = s.threads := by
  unfold ringPut at h
  split at h
  next s1 hwrite =>
    rw [← Option.some.inj h]
    exact (threads_of_writeBytes hwrite : s1.threads = s.threads)
  next => exact absurd h (by simp)

/-- A ring whose counters move leaves each thread found as it was but for its event flag (R326). -/
theorem ringEvents_thread {s : State} {id : ThreadId} {u : Thread} (hu : s.thread? id = some u) (asid block : Nat) (old new : RBlock) :
    ∃ u', (ringEvents s asid block old new).thread? id = some u' ∧ (u' = u ∨ u' = { u with event := true }) := by
  unfold ringEvents
  split
  · exact ⟨u, hu, .inl rfl⟩
  · exact setEvents_thread hu ..

/-- A thread that is told the outcome of a ring operation: nothing, where it waits at no ring. -/
def Thread.told (u : Thread) (res : RingRes) : Thread :=
  match u.wait with
  | .ring _ claims d => match res with
    | .granted p m => if claims then u.report d 0x2E 5 0 (BitVec.ofNat 64 p) else u.reportPair d 0x2E 7 0 (BitVec.ofNat 64 p) (BitVec.ofNat 64 m)
    | .status c => if claims then u.report d 0x2E 5 c 0 else u.reportPair d 0x2E 7 c 0 0
    | .waits => u
  | _ => u

theorem tellWaiter_of_thread {s : State} {w : RWaiter} {id : ThreadId} (hw : w.who = .thread id) (res : RingRes) :
    tellWaiter s w res = s.updThread id (fun u => u.told res) := by
  unfold tellWaiter
  rw [hw]
  rfl

theorem tellWaiter_threads {s : State} {w : RWaiter} (hw : ∀ id, w.who ≠ .thread id) (res : RingRes) : (tellWaiter s w res).threads = s.threads := by
  unfold tellWaiter
  split
  next id e => exact absurd e (hw id)
  next => rfl
  next => rfl

theorem Thread.told_id (u : Thread) (res : RingRes) : (u.told res).id = u.id := by
  unfold Thread.told
  split
  · split
    · split
      · exact Thread.report_id ..
      · exact Thread.reportPair_id ..
    · split
      · exact Thread.report_id ..
      · exact Thread.reportPair_id ..
    · rfl
  · rfl

/-- One that waits for nothing is told nothing. -/
theorem tellWaiter_thread_idle {s : State} {id : ThreadId} {u : Thread} (hu : s.thread? id = some u) (hwait : u.wait = .none) (w : RWaiter)
    (res : RingRes) : (tellWaiter s w res).thread? id = some u := by
  by_cases hw : ∃ id', w.who = .thread id'
  · obtain ⟨id', hw⟩ := hw
    rw [tellWaiter_of_thread hw]
    by_cases hid : id = id'
    · subst hid
      rw [thread?_updThread (fun v => v.told_id res) hu, Thread.told, hwait]
    · rw [thread?_updThread_other (fun v => v.told_id res) hid, hu]
  · exact (thread?_congr (tellWaiter_threads (not_exists.mp hw) res) id).trans hu

/-- One whose wait is granted has its report. -/
theorem tellWaiter_thread_granted {s : State} {id : ThreadId} {u : Thread} (hu : s.thread? id = some u) {block : Nat} {cl : Bool} {d : Reg}
    (hwait : u.wait = .ring block cl d) {w : RWaiter} (hw : w.who = .thread id) (p m : Nat) :
    (tellWaiter s w (.granted p m)).thread? id = some (if cl then u.report d 0x2E 5 0 (BitVec.ofNat 64 p)
      else u.reportPair d 0x2E 7 0 (BitVec.ofNat 64 p) (BitVec.ofNat 64 m)) := by
  rw [tellWaiter_of_thread hw, thread?_updThread (fun v => v.told_id _) hu, Thread.told, hwait]

/-- A wait that is granted acquires at OSCOPE (R100). -/
def waitAcquires (s : State) (who : Agent) (claims : Bool) (osc : Nat) : State :=
  match who with
  | .thread t => match s.thread? t with
    | some u => if !claims then acquireAt s u osc else s
    | none => s
  | _ => s

theorem waitAcquires_threads (s : State) (who : Agent) (claims : Bool) (osc : Nat) : (waitAcquires s who claims osc).threads = s.threads := by
  unfold waitAcquires
  split
  · split
    · split
      · exact acquireAt_threads ..
      · rfl
    · rfl
  · rfl

/-- The operation that the first waiter of its kind waits for. -/
def RWaiter.op (w : RWaiter) (block : Nat) (claims : Bool) : RingOp := if claims then .claim block w.n w.scope else .wait block w.n w.scope

section
variable {s s1 s3 : State} {asid block k : Nat} {cl : Bool} {r r' : Ring} {w : RWaiter} {bs : List Byte} {b' : RBlock} {p m : Nat} {g : Partition}

theorem grantWaiters_granted (hring : s.ring? asid block = some r) (hw : r.waiters.find? (fun y => y.claims = cl) = some w)
    (hread : readBytes s (some r.die) 3 r.xl 64 = .ok s1 bs) (hg : partOf s1 asid = some g)
    (happly : ringApply (ringBlock bs) r w.who true (w.op block cl) = (b', r', .granted p m))
    (hput : ringPut (s1.setPart (ringWork g r (w.op block cl))) { r' with waiters := r'.waiters.erase w } r.xl b' = some s3) :
    grantWaiters (k + 1) s asid block cl = grantWaiters k (waitAcquires (tellWaiter (ringEvents s3 asid block (ringBlock bs) b') w (.granted p m))
      w.who cl (ringBlock bs).oscope) asid block cl := by
  rw [RWaiter.op] at happly hput
  rw [grantWaiters]
  simp only [hring, hw, hread, happly, hg, hput]
  rfl

variable {Q : Thread → Prop} (hevent : ∀ u, Q u → Q { u with event := true }) (hidle : ∀ u, Q u → u.wait = .none) {id : ThreadId}
include hevent hidle

/-- A grant leaves a thread that waits for nothing as it is, but for its event flag. -/
theorem granted_thread (h3 : s3.threads = s.threads) (hQ : ∃ u, s.thread? id = some u ∧ Q u) (old new : RBlock) (w : RWaiter) (res : RingRes)
    (osc : Nat) :
    ∃ u, (waitAcquires (tellWaiter (ringEvents s3 asid block old new) w res) w.who cl osc).thread? id = some u ∧ Q u := by
  obtain ⟨u, hu, hQu⟩ := hQ
  obtain ⟨u', hu', hor⟩ := ringEvents_thread ((thread?_congr h3 id).trans hu) asid block old new
  have hQu' : Q u' := by
    rcases hor with rfl | rfl
    · exact hQu
    · exact hevent u hQu
  exact ⟨u', (thread?_congr (waitAcquires_threads ..) id).trans (tellWaiter_thread_idle hu' (hidle u' hQu') w res), hQu'⟩

theorem grantWaiters_thread (hQ : ∃ u, s.thread? id = some u ∧ Q u) : ∃ u, (grantWaiters k s asid block cl).thread? id = some u ∧ Q u := by
  induction k generalizing s with
  | zero => exact hQ
  | succ k ih =>
    rw [grantWaiters]
    split
    next => exact hQ
    next r hring =>
      split
      next w s1 bs hw hread =>
        dsimp only
        split
        next => exact hQ
        next =>
          split
          next => exact hQ
          next s3 hput =>
            refine ih (granted_thread hevent hidle ?_ hQ _ _ w _ _)
            refine (ringPut_threads hput).trans (Eq.trans ?_ (threads_of_readBytes hread))
            split <;> rfl
      next => exact hQ

end

theorem ringEventsHold : Claims.RingEvents := by
  intro s r t g d w b' r' P m s1 s3 bs cl hring
  dsimp only
  refine ⟨fun hstored => ?stored, fun hstored => ?clean, fun op y lv s2 res osc who halign htr hat => ?op,
    fun hstored hw hwho hread hg happly hput ht hwait hd hd0 => ?grant⟩
  case stored =>
    refine ⟨ringFresh s r.asid r.block, rfl, (ringKeeps_ringFresh s r.asid r.block).mem, r.cleared, ?_, rfl⟩
    rw [ringFresh_of_stored hring hstored]
    exact ring?_ringReset s r
  case clean => exact congrArg Host.Outcome.next (ringFresh_of_not_stored hring hstored)
  case op =>
    refine ⟨_, exec_ringOpAtSlice halign htr hat, (ringKeeps_tellWaiter ..).mem, tellWaiter_rings .., fun io port rp hport hrp => ?_⟩
    exact rports_tellWaiter hport res hrp
  case grant =>
    change partOf s1 r.asid = some g at hg
    have hwop : (if cl then RingOp.claim r.block w.n w.scope else .wait r.block w.n w.scope) = w.op r.block cl := rfl
    rw [hwop] at happly hput
    refine ⟨_, rfl, ?_⟩
    rw [ringFresh_of_not_stored hring hstored, grantWaiters_granted hring hw hread hg happly hput]
    obtain ⟨u, hu, hor⟩ := ringEvents_thread ht r.asid r.block (ringBlock bs) b'
    have hsame : SameRegs t u := by
      rcases hor with rfl | rfl <;> exact ⟨rfl, rfl, rfl, rfl, rfl, rfl, rfl, rfl⟩
    have huwait : u.wait = .ring r.block cl d := by
      rcases hor with rfl | rfl <;> exact hwait
    have htold := (thread?_congr (waitAcquires_threads _ w.who cl (ringBlock bs).oscope) t.id).trans (tellWaiter_thread_granted hu huwait hwho P m)
    cases cl with
    | true =>
      exact grantWaiters_thread (Q := fun x => Reports t x d 0x2E 5 0 (BitVec.ofNat 64 P)) (fun _ h => h) wait_of_reports
        ⟨_, htold, reports_of_sameRegs (report_reports u d (by decide) (by decide) (by decide) _) hsame⟩
    | false =>
      exact grantWaiters_thread (Q := fun x => ReportsPair t x d 0x2E 7 0 (BitVec.ofNat 64 P) (BitVec.ofNat 64 m)) (fun _ h => h) wait_of_reportsPair
        ⟨_, htold, reportsPair_of_sameRegs (reportPair_reports u (pairOk_of_even hd hd0) (by decide) (by decide) (by decide) _ _) hsame⟩

/-- Settles O24: the operations on block and tables, the instructions by the slice's answer, and the events at the home slice. -/
theorem rings : Obligations.Rings := ⟨ringOperations, ringInstructions, ringEventsHold⟩

end Sys2Proof.Machine
end

section
/-! SUPPORT. A switch box and the gating of sites (O48): the walk of a good token through its box (R115, R148, R154, R155), its message
where it crosses to another core (R116), and when a site sleeps (R173). -/

namespace Sys2Proof.Machine
open Sys2Proof.Claims

-- One after another: proofs elaborated at a time take a thread each, whose stacks are the most of the check's memory.
set_option Elab.async false

/-! ### What a message that has set out leaves in transit -/

theorem pieces_ne_nil (c : Code) (body : List Byte) : pieces c body ≠ [] := by
  unfold pieces cutInto
  split <;> simp

theorem not_arrived_encodeOne (cls : Nat) (c : Code) (g : Cargo) (s : State) (m : Msg) : (encodeOne cls c (some g) s m).arrived g = false := by
  obtain ⟨key, htransit⟩ : ∃ key, (encodeOne cls c (some g) s m).net.transit = s.net.transit ++ [(key, g)] := ⟨_, rfl⟩
  simp [State.arrived, htransit]

/-- A message inside the package sets out in one piece at least: its cargo has not arrived. -/
theorem not_arrived_sendMessage {s : State} {m : Msg} (hdev : m.dev = false) (g : Cargo) : (sendMessage s m g).arrived g = false := by
  rw [sendMessage, codeFor_of_onChip hdev]
  change (sendUnder s m (some g) _).arrived g = false
  rw [sendUnder, ← List.dropLast_append_getLast (pieces_ne_nil (chipCode s m.net m.cls) m.body), List.foldl_append, List.foldl_cons, List.foldl_nil]
  exact not_arrived_encodeOne ..

/-- A token that is sent on changes the networks and the silence of a partition. -/
theorem sendToken_eq (s : State) (a : Agent) (seq : Nat) (c : Cargo) (body : List Byte) :
    ∃ w ps, sendToken s a seq c body = { s with net := w, parts := ps } := by
  unfold sendToken
  split
  next => exact ⟨s.net, s.parts, rfl⟩
  next => exact sendMessage_eq ..

theorem not_arrived_sendToken {s : State} {a : Agent} (h : (lineEnds s a).isSome = true) (seq : Nat) (c : Cargo) (body : List Byte) :
    (sendToken s a seq c body).arrived c = false := by
  obtain ⟨⟨src, dst⟩, hends⟩ := Option.isSome_iff_exists.mp h
  rw [sendToken, hends]
  exact not_arrived_sendMessage rfl c

/-! ### Lines of a seam -/

theorem guySink_congr {s s' : State} (h : s'.places = s.places) (asid k : Nat) : guySink s' asid k = guySink s asid k := by
  simp only [guySink, State.place?, h]

theorem lineEnds_congr {s s' : State} (h : s'.places = s.places) (a : Agent) : lineEnds s' a = lineEnds s a := by
  simp only [lineEnds, State.place?, h, guySink_congr h]

/-- The ends of a seam do not depend on the number of the token that crosses it. -/
theorem lineEnds_seam (s : State) (n : Node) (o k k' : Nat) : lineEnds s (.seam n o k) = lineEnds s (.seam n o k') := rfl

/-! ### A token through its box -/

theorem updBy_eq_self {α : Type} {p : α → Bool} {f : α → α} {l : List α} (h : ∀ x ∈ l, p x = true → f x = x) : updBy p f l = l := by
  refine (List.map_congr_left fun x hx => ?_).trans (List.map_id l)
  split
  next hp => exact h x hx hp
  next => rfl

/-- Where no site of the box sleeps none is woken. -/
theorem startWake_of_awake {s : State} {n : Node} (h : ∀ y ∈ s.sites, y.node = n → y.asleep s.cycle = false) (bs : List Branch) :
    startWake s n bs = s := by
  have hwake : wakeSite s n = s := by
    have hsites : (wakeSite s n).sites = s.sites := updBy_eq_self fun y hy hn => by simp [h y hy (of_decide_eq_true hn)]
    exact (show wakeSite s n = { s with sites := (wakeSite s n).sites } from rfl).trans (by rw [hsites])
  unfold startWake
  split
  next => exact hwake
  next => rfl

theorem sourceTake_eq (s : State) (n : Node) (code : Nat) :
    ∃ sites rslots segs, sourceTake s n code = { s with sites := sites, rslots := rslots, segs := segs } := by
  unfold sourceTake
  split
  next => exact ⟨_, _, _, rfl⟩
  next => split <;> exact ⟨_, _, _, rfl⟩

/-- A box finds nothing to correct in a good token (R148). -/
theorem inspect_of_good {s : State} {t : Token} (h : t.chk = .good) (p : Place) (n : Node) : inspect s p n t false = (s, t) := by
  simp [inspect, tokenError, h]

theorem not_rollDue_of_placeMoves {s : State} {p : Place} (h : placeMoves s p = true) : rollDue s p = false := by
  simp only [placeMoves, Bool.and_eq_true, Bool.not_eq_true'] at h
  tauto

section
variable {s : State} {n : Node} {src : BitVec 6} {p : Place} {f : Folio} {t : Token} {bs : List Branch} (hplace : s.place? n.place = some p)
  (hfolio : p.folio = some f) (hmoves : placeMoves s p = true) (htok : sourceTok s n src.toNat = some t) (hgood : t.chk = .good)
  (hbs : f.branches n.x n.y src.toNat = bs) (hne : bs ≠ []) (hready : ∀ b ∈ bs, branchReady s p n b = true)
  (hroute : isSegCode src.toNat = true → ∀ o r, .seg o r ∈ bs → t.route = BitVec.ofNat 12 r)
  (hawake : ∀ y ∈ s.sites, y.node = n → y.asleep s.cycle = false)
include hplace hfolio hmoves htok hgood hbs hne hready hroute hawake

/-- A good token goes down every branch of its box. -/
theorem exec_switchForward :
    exec (.switchForward n src) s = .next (bs.foldl (fun st b => branchPut st n t b) (sourceTake s n src.toNat)) := by
  have hall : bs.all (branchReady s p n) = true := List.all_eq_true.mpr hready
  have hempty : bs.isEmpty = false := by simpa using hne
  change execSwitchForward n src s = _
  rw [execSwitchForward, hplace, htok]
  simp only [hfolio, hmoves, hbs, startWake_of_awake hawake, hempty, hall, inspect_of_good hgood, Bool.and_false, Bool.not_true,
    Bool.false_eq_true, if_false]
  cases hseg : isSegCode src.toNat with
  | false => simp [not_rollDue_of_placeMoves hmoves]
  | true =>
    rw [(List.any_eq_false (l := bs)).mpr ?routes]
    · simp [not_rollDue_of_placeMoves hmoves]
    case routes =>
      intro b hb
      cases b with
      | seg o r => simp [hroute hseg o r hb]
      | site i => simp
      | router k i => simp

end

/-- A token stands on a segment. -/
def State.onSegment (s : State) (g : Seg) : State := { s with segs := s.segs ++ [g] }

/-- What leaves box `n` by output `o`, numbered `no`, with the route ID that the switch gives it (R295). -/
def onward (n : Node) (t : Token) (o r u v no : Nat) : Seg :=
  { node := { n with x := u, y := v }, code := o, tok := { t with route := BitVec.ofNat 12 r }, seq := no }

theorem branchPut_within {s : State} {n : Node} {o u v : Nat} (hfar : farBox o n.x n.y = some (u, v)) (hends : lineEnds s (.seam n o 0) = none)
    (t : Token) (r : Nat) : branchPut s n t (.seg o r) = s.onSegment (onward n t o r u v 0) := by
  simp [branchPut, hfar, hends, State.onSegment, onward]

/-- A token that leaves its core stands on the segment, numbered, and is a message (R116). -/
theorem branchPut_across {s : State} {n : Node} {o u v : Nat} (hfar : farBox o n.x n.y = some (u, v)) (hends : lineEnds s (.seam n o 0) ≠ none)
    (t : Token) (r : Nat) : branchPut s n t (.seg o r) =
      sendToken ((takeSerial s).2.onSegment (onward n t o r u v s.net.serial)) (.seam n o s.net.serial) s.net.serial
        (.token (.seam n o s.net.serial)) (tokBytes { t with route := BitVec.ofNat 12 r }) := by
  have hsome : (lineEnds s (.seam n o 0)).isNone = false := by simpa [Option.isSome_iff_ne_none] using hends
  simp only [branchPut, hfar, hsome, Bool.false_eq_true, if_false]
  rfl

theorem switchForwards : Claims.SwitchForwards := by
  intro s n src p f t bs hplace hfolio hmoves htok hgood hbs hne hready hroute hawake s1 e seg
  have hexec : e = .next (bs.foldl (fun st b => branchPut st n t b) s1) :=
    exec_switchForward hplace hfolio hmoves htok hgood hbs hne hready hroute hawake
  obtain ⟨sites, rslots, segs, hs1⟩ := sourceTake_eq s n src.toNat
  have hmem : s1.mem = s.mem := (congrArg (fun s : State => s.mem) hs1 :)
  have hcycle : s1.cycle = s.cycle := (congrArg (fun s : State => s.cycle) hs1 :)
  refine ⟨hexec, fun o r u v hb hfar hends => ?within, fun o r u v hb hfar hends => ?across, fun i hb => ?site, fun k i hb => ?router⟩ <;>
    rw [hexec, hb, List.foldl_cons, List.foldl_nil]
  case within => exact congrArg Host.Outcome.next (branchPut_within hfar hends t r)
  case across =>
    let s2 := (takeSerial s1).2.onSegment (onward n t o r u v s1.net.serial)
    have hcrosses : (lineEnds s2 (.seam n o s1.net.serial)).isSome = true := by
      rw [lineEnds_congr (s := s1) (s' := s2) rfl, lineEnds_seam s1 n o _ 0]
      exact Option.isSome_iff_ne_none.mpr hends
    rw [branchPut_across hfar hends]
    refine ⟨_, s1.net.serial, rfl, ?_, ?_, fun _ => not_arrived_sendToken hcrosses ..⟩ <;>
      obtain ⟨w, ps, he⟩ := sendToken_eq s2 (.seam n o s1.net.serial) s1.net.serial (.token (.seam n o s1.net.serial))
        (tokBytes { t with route := BitVec.ofNat 12 r })
    · exact congrArg (fun s : State => s.segs) he
    · exact (congrArg (fun s : State => s.mem) he).trans hmem
  case site => rw [branchPut, hcycle]
  case router => rfl

/-! ### Gating (R173) -/

theorem siteGating : Claims.SiteGating := by
  intro s x hx
  refine ⟨fun hidle hwaking => ?gates, fun hbusy => ?stays, fun c hwaking hdue => ?wakes⟩
  case gates =>
    change execSiteClockGate x.node s = _
    rw [execSiteClockGate, hx]
    exact if_pos (by simp [hidle, hwaking])
  case stays =>
    change execSiteClockGate x.node s = _
    rw [execSiteClockGate, hx]
    refine if_neg fun h => ?_
    rw [Bool.and_eq_true, decide_eq_true_iff, Option.isNone_iff_eq_none] at h
    obtain ⟨hidle, hnone⟩ := h
    rcases hbusy with hlt | hsome
    · omega
    · rw [hnone] at hsome
      cases hsome
  case wakes =>
    change execSiteWake x.node s = _
    rw [execSiteWake, hx]
    simp only [hwaking]
    rw [if_pos hdue]

/-- Settles O48: a good token's walk through its box, branch by branch, with its message in transit where it crosses a seam; and the tests of
gating and waking. -/
theorem fabricSwitching : Obligations.FabricSwitching := ⟨switchForwards, siteGating⟩

end Sys2Proof.Machine
end

section
/-! SUPPORT. Calls on the fabric (O36): what stands on a guy line as tokens enter and leave it (R137, R138), a PITCH whose record is complete
(R127, R411), and a turn of ARGP and of STRIKE (R412). -/

namespace Sys2Proof.Machine
open Sys2Proof.Claims

-- One after another: proofs elaborated at a time take a thread each, whose stacks are the most of the check's memory.
set_option Elab.async false

/-! ### The context of a site -/

theorem siteCtx_spec {s : State} {n : Node} {op : Nat} {w : CellF} {c : Ctx} (h : siteCtx s n op w = some c) :
    c.s = s ∧ c.w = w ∧ s.site? n = some c.x ∧ c.x.node = n := by
  unfold siteCtx at h
  split at h
  next p x hp hx =>
    split at h
    next f hf =>
      split at h
      next => cases h
      next =>
        cases h
        exact ⟨rfl, rfl, hx, of_decide_eq_true (List.find?_some (p := fun y : Site => decide (y.node = n)) hx)⟩
    next => cases h
  next => cases h

theorem site?_updSite {s : State} {n : Node} {x : Site} {f : Site → Site} (hf : ∀ y, (f y).node = y.node) (h : s.site? n = some x) :
    (s.updSite n f).site? n = some (f x) :=
  find?_updBy_hit (p := fun y : Site => decide (y.node = n)) (fun y hy => by simpa [hf] using hy) h

theorem site?_congr {s s' : State} (h : s'.sites = s.sites) (n : Node) : s'.site? n = s.site? n := by rw [State.site?, State.site?, h]

/-- A sound head passes its check (R148, R200). -/
theorem checkHeads_of_sound {c : Ctx} {i : Nat} {t : Token} (hhead : c.head i = some t) (hsound : Sound t) : checkHeads c [i] = c := by
  obtain ⟨hchk, hres⟩ := hsound
  rw [checkHeads, List.foldl_cons, List.foldl_nil, hhead]
  exact if_pos (by simp [hchk, hres])

/-- A beat is never before its sidecar (R189). -/
theorem not_short_of_data {c : Ctx} {i : Nat} {t : Token} (hhead : c.head i = some t) (hdata : t.kind = .data) : c.short i = false := by
  simp only [Ctx.short, hhead, hdata]
  unfold sidecarShort
  split <;> rfl

@[simp] theorem Site.eat_a_node (x : Site) : (x.eat [0]).node = x.node := rfl
@[simp] theorem Site.eat_a_ina (x : Site) : (x.eat [0]).ina = x.ina.drop 1 := rfl

/-! ### Guy lines (R137, R138) -/

theorem guyAt_key (s : State) (asid k : Nat) : (s.guyAt asid k).asid = asid ∧ (s.guyAt asid k).route = k := by
  unfold State.guyAt
  cases h : s.guy.find? (fun g => g.asid = asid && g.route = k) with
  | none => exact ⟨rfl, rfl⟩
  | some g => simpa using List.find?_some h

theorem guyLine_congr {s s' : State} (h : s'.guy = s.guy) (asid k : Nat) : guyLine s' asid k = guyLine s asid k := by
  rw [guyLine, State.guyAt, h]
  rfl

theorem guyLine_setGuy {s : State} {g : GuyLine} {asid k : Nat} (hasid : g.asid = asid) (hroute : g.route = k) :
    guyLine (setGuy s g) asid k = g.toks := by
  subst hasid hroute
  rw [guyLine, State.guyAt, setGuy, find?_putBy (by simp)]
  rfl

theorem guyLine_guyTake (s : State) (asid k : Nat) : guyLine (guyTake s asid k) asid k = (guyLine s asid k).drop 1 :=
  guyLine_setGuy (guyAt_key s asid k).1 (guyAt_key s asid k).2

/-- A token enters behind those on its line, with the line's route ID. -/
theorem guyLine_guyPut (n : Node) (asid k : Nat) (s : State) (t : Token) :
    guyLine (guyPut n asid k s t) asid k = guyLine s asid k ++ [{ t with route := BitVec.ofNat 12 k }] := by
  obtain ⟨hasid, hroute⟩ := guyAt_key s asid k
  unfold guyPut
  dsimp only
  obtain ⟨w, ps, he⟩ := sendToken_eq (setGuy s { s.guyAt asid k with
    next := (s.guyAt asid k).next + 1, toks := (s.guyAt asid k).toks ++ [{ t with route := BitVec.ofNat 12 k }] })
    (.guy n asid k (s.guyAt asid k).next) (s.guyAt asid k).next (.token (.guy n asid k (s.guyAt asid k).next)) (tokBytes { t with route := BitVec.ofNat 12 k })
  rw [he]
  exact (guyLine_congr rfl asid k).trans (guyLine_setGuy hasid hroute)

/-- It changes the line, the networks and the silence of a partition. -/
theorem guyPut_eq (n : Node) (asid k : Nat) (s : State) (t : Token) :
    ∃ g w ps, guyPut n asid k s t = { s with guy := g, net := w, parts := ps } := by
  unfold guyPut
  dsimp only
  obtain ⟨w, ps, he⟩ := sendToken_eq (setGuy s _) _ _ _ _
  exact ⟨_, w, ps, he⟩

theorem guySend_eq (s : State) (n : Node) (asid k : Nat) (l : List Token) :
    ∃ g w ps, guySend s n asid k l = { s with guy := g, net := w, parts := ps } := by
  refine List.foldlRecOn (motive := fun (x : State) => ∃ g w ps, x = { s with guy := g, net := w, parts := ps }) l _ ⟨s.guy, s.net, s.parts, rfl⟩ ?_
  rintro _ ⟨g, w, ps, rfl⟩ t -
  exact guyPut_eq n asid k { s with guy := g, net := w, parts := ps } t

theorem guyLine_guySend (s : State) (n : Node) (asid k : Nat) (l : List Token) :
    guyLine (guySend s n asid k l) asid k = guyLine s asid k ++ l.map (fun u => { u with route := BitVec.ofNat 12 k }) := by
  induction l generalizing s with
  | nil => exact (List.append_nil _).symm
  | cons t l ih =>
    have hput := ih (guyPut n asid k s t)
    rw [guyLine_guyPut, List.append_assoc] at hput
    exact hput

/-- A sound token of its own line is taken as it is (R138). -/
theorem takeGuy_of_sound {t : Token} {line : Nat} (hroute : t.route = BitVec.ofNat 12 line) (hsound : Sound t) (s : State) (p : Place) (n : Node) :
    takeGuy s p n line t = (s, t) := by
  obtain ⟨hchk, hres⟩ := hsound
  simp [takeGuy, hroute, inspect, tokenError, hchk, hres]

/-! ### A call is made (R127, R411) -/

/-- The first pitch of a partition ends its silence, which no queue sees (R102). -/
theorem firstWaiter_eq (s : State) (asid : Nat) : firstWaiter s asid = s ∨ firstWaiter s asid = stir s asid := by
  unfold firstWaiter
  exact ite_eq_or_eq ..

theorem partOf_firstWaiter {s : State} {asid : Nat} {p : Partition} (hp : partOf s asid = some p) :
    ∃ n, partOf (firstWaiter s asid) asid = some { p with silent := n } := by
  rcases firstWaiter_eq s asid with h | h <;> rw [h]
  · exact ⟨p.silent, hp⟩
  · exact ⟨s.cycle, partOf_stir hp⟩

theorem firstWaiter_sites (s : State) (asid : Nat) : (firstWaiter s asid).sites = s.sites := by
  rcases firstWaiter_eq s asid with h | h <;> rw [h]
  rfl

theorem site?_updPitch {s : State} {n : Node} {x : Site} (f : PitchSt → PitchSt) (h : s.site? n = some x) :
    (s.updPitch n f).site? n = some { x with st := .pitch (f x.st.pitch?).tidy } :=
  site?_updSite (fun _ => rfl) h

/-- The request of a call (R128). -/
def pitchReq (c : Ctx) (routine k now : Nat) : PitchReq :=
  { core := 32 * c.place.die + c.place.coreAt c.x.node, node := c.x.node, call := (c.x.st.pitch?).next, routine := routine, k := k
    scope := c.place.scope, unstow := none, stowing := none, freed := [], kept := [], frozen := 0, waitFrom := now }

/-- The call of a complete record (R411). -/
def recordCall (c : Ctx) (routine narg nres k : Nat) (toks : List Token) : Call :=
  { num := (c.x.st.pitch?).next, routine := routine, k := k, narg := narg, nres := nres, toks := toks, hdr := c.hdr 0, phys := [], opened := []
    closed := [], res := [], sent := 0, struck := false }

theorem newCall_part {s : State} {c : Ctx} {p : Partition} (hp : partOf s c.place.asid = some p) (routine narg nres k : Nat) (toks : List Token) :
    ∃ q, partOf (newCall s c routine narg nres k toks) c.place.asid = some q ∧ q.curq = p.curq ++ [pitchReq c routine k s.cycle] := by
  obtain ⟨n, hn⟩ := partOf_firstWaiter hp
  exact ⟨_, partOf_updPart (by exact fun _ => rfl) ((partOf_congr rfl _).trans hn), rfl⟩

/-- A PITCH with one more call, its result owed to the output. -/
def PitchSt.withCall (q : PitchSt) (k : Call) : PitchSt :=
  { q with toks := [], items := q.items ++ [.call k.num], calls := q.calls ++ [k], next := k.num + 1 }

theorem newCall_site {s : State} {c : Ctx} {x : Site} (hx : s.site? c.x.node = some x) (routine narg nres k : Nat) (toks : List Token) :
    (newCall s c routine narg nres k toks).site? c.x.node =
      some { x with st := .pitch (x.st.pitch?.withCall (recordCall c routine narg nres k toks)).tidy } :=
  site?_updPitch (s := firstWaiter s c.place.asid) (fun q => q.withCall (recordCall c routine narg nres k toks))
    ((site?_congr (firstWaiter_sites s _) _).trans hx)

theorem PitchSt.tidy_of_noCalls {q : PitchSt} (h : q.calls = []) : q.tidy = q := by
  obtain ⟨toks, routine, items, calls, next⟩ := q
  cases h
  rfl

theorem PitchSt.tidy_withCall {q : PitchSt} (h : q.calls = []) (k : Call) : (q.withCall k).tidy = q.withCall k := by
  have howed : (q.items ++ [PItem.call k.num]).contains (PItem.call k.num) = true := by simp
  have hkept : (q.withCall k).calls.filter (fun c => !c.over || (q.withCall k).items.contains (.call c.num)) = (q.withCall k).calls := by
    simp only [PitchSt.withCall, h, List.nil_append, List.filter_cons, howed, Bool.or_true, if_true, List.filter_nil]
  rw [PitchSt.tidy, hkept]

/-- The beat of a complete record is consumed, and stands as the record. -/
def recordTaken (c : Ctx) (t : Token) (routine : Nat) : State :=
  (c.s.updSite c.x.node (fun x => { x.eat [0] with lastActive := c.s.cycle })).updPitch c.x.node (fun q => { q with toks := [t], routine := routine })

theorem recordTaken_site {c : Ctx} {ps : PitchSt} (hx : c.s.site? c.x.node = some c.x) (hst : c.x.st = .pitch ps) (hcalls : ps.calls = [])
    (t : Token) (routine : Nat) : ∃ x, (recordTaken c t routine).site? c.x.node = some x ∧ x.ina = c.x.ina.drop 1 ∧
      x.st = .pitch { ps with toks := [t], routine := routine } := by
  refine ⟨_, site?_updPitch _ (site?_updSite (fun _ => rfl) hx), rfl, ?_⟩
  change OpSt.pitch (PitchSt.tidy { c.x.st.pitch? with toks := [t], routine := routine }) = _
  rw [hst]
  exact congrArg OpSt.pitch (PitchSt.tidy_of_noCalls hcalls)

section
variable {c : Ctx} {t h : Token} {ps : PitchSt} {routine narg nres k : Nat} (hhdr : c.hdr 0 = some h)
  (hopen : c.x.segOpen = true) (htoks : ps.toks = []) (hitems : ps.items = []) (hcalls : ps.calls = []) (hst : c.x.st = .pitch ps)
  (hdata : t.kind = .data) (himm : c.imm < 2 ^ 15) (hnum : c.imm % 256 = routine) (hroll : rollDue c.s c.place = false)
  (hhead : c.head 0 = some t) (hsound : Sound t) (hroutine : routineHead c.s c.place.asid routine = some (narg, nres)) (hone : narg * k ≤ 1)
include hhdr hopen htoks hitems hcalls hst hdata himm hnum hroll hhead hsound hroutine hone

/-- With no call under way and nothing owed, a beat that completes a record makes its call. -/
theorem pitchStep_calls : pitchStep c k = newCall (recordTaken c t routine) c routine narg nres k [t] := by
  have hdyn : ¬ bitsOf c.imm 15 1 = 1 := by
    rw [bitsOf, Nat.div_eq_of_lt himm]
    decide
  have hp : c.x.st.pitch? = ps := by rw [hst]; rfl
  have hopens : pitchOpen c ps = none := by rw [pitchOpen, hcalls]; rfl
  have hcloses : pitchClose c ps = none := by rw [pitchClose, hcalls]; rfl
  have hemits : pitchEmit c ps = none := by rw [pitchEmit, hitems]
  have hreceives : pitchReceive c ps = none := by
    have hlines : ps.lines = [] := by rw [PitchSt.lines, hcalls]; rfl
    have hheld (l : List (Nat × Token)) : l.findSome? (fun h => (([] : List ResLine).find? (fun r => r.line = h.1)).map (fun r => (r, h.2))) = none :=
      List.findSome?_eq_none_iff.mpr fun _ _ => rfl
    simp only [pitchReceive, hlines, hheld]
    rfl
  have hinput : pitchData c ps k false t = some (newCall (recordTaken c t routine) c routine narg nres k [t]) := by
    simp [pitchData, hopen, hhdr, hnum, hroutine, htoks, hcalls, hone, recordTaken]
  simp only [pitchStep, hdyn, if_false, decide_false, checkHeads_of_sound hhead hsound, hp, hhead, hdata, hopens, hcloses, hreceives, hemits, hroll]
  simp [Kind.framing, hdata, hinput, hhead]

/-- The call stands at the site, and its request behind the queue. -/
theorem pitchStep_spec {p : Partition} (hx : c.s.site? c.x.node = some c.x) (hp : partOf c.s c.place.asid = some p) (hnumber : ps.routine = routine) :
    ∃ x p', (pitchStep c k).site? c.x.node = some x ∧ partOf (pitchStep c k) c.place.asid = some p' ∧
      p'.curq = p.curq ++ [pitchReq c routine k c.s.cycle] ∧ x.ina = c.x.ina.drop 1 ∧
      x.st = .pitch { ps with items := [.call ps.next], calls := [recordCall c routine narg nres k [t]], next := ps.next + 1 } := by
  rw [pitchStep_calls hhdr hopen htoks hitems hcalls hst hdata himm hnum hroll hhead hsound hroutine hone]
  obtain ⟨x, hx1, hina, hst1⟩ := recordTaken_site hx hst hcalls t routine
  obtain ⟨p', hp', hcurq⟩ := newCall_part (s := recordTaken c t routine) ((partOf_congr rfl _).trans hp) routine narg nres k [t]
  refine ⟨_, p', newCall_site hx1 routine narg nres k [t], hp', hcurq, hina, ?_⟩
  have hnext : (c.x.st.pitch?).next = ps.next := by rw [hst]; rfl
  simp only [hst1, OpSt.pitch?]
  rw [PitchSt.tidy_withCall (by exact hcalls)]
  simp [PitchSt.withCall, recordCall, hitems, hcalls, htoks, hnumber, hnext]

end

/-! ### ARGP and STRIKE (R412) -/

theorem place?_congr {s s' : State} (h : s'.places = s.places) (id : Nat) : s'.place? id = s.place? id := by rw [State.place?, State.place?, h]

/-- A token of the argument line leaves by the output, without the line's route. -/
theorem argpStep_spec {c : Ctx} {t : Token} {line : Nat} {rest : List Token} (hx : c.s.site? c.x.node = some c.x) (hroll : rollDue c.s c.place = false)
    (hline : guyLine c.s c.place.asid line = t :: rest) (hhead : guyHead c.s c.place.asid line = some t) (hsound : Sound t)
    (hroute : t.route = BitVec.ofNat 12 line) (hdata : t.kind = .data) :
    ∃ x, (argpStep c line).site? c.x.node = some x ∧ guyLine (argpStep c line) c.place.asid line = rest ∧
      x.out = c.x.out ++ c.emit [(0, { t with route := 0 })] ∧ x.st = .line false := by
  have hroll1 : rollDue (guyTake c.s c.place.asid line) c.place = false := hroll
  simp only [argpStep, hhead, takeGuy_of_sound hroute hsound, hroll1, hdata, Bool.false_eq_true, if_false, ne_eq, not_true, decide_false, Bool.false_and]
  refine ⟨_, site?_updSite (fun _ => rfl) ((site?_congr rfl _).trans hx), ?_, rfl, ?_⟩
  · exact (guyLine_congr rfl _ _).trans ((guyLine_guyTake ..).trans (by rw [hline]; rfl))
  · rfl

/-- A result goes out on the line of its position, behind SOT and the header in force. -/
theorem strikeStep_spec {c : Ctx} {i : Inst} {t h : Token} {k line : Nat} (hx : c.s.site? c.x.node = some c.x) (hroll : rollDue c.s c.place = false)
    (hhead : c.head 0 = some t) (hsound : Sound t) (hdata : t.kind = .data) (hhdr : c.hdr 0 = some h) (hopen : c.x.segOpen = true)
    (hst : c.x.st = .strike k) (hline : i.results[k]? = some line) :
    ∃ x, (strikeStep c i).site? c.x.node = some x ∧ x.st = .strike (k + 1) ∧ x.ina = c.x.ina.drop 1 ∧
      guyLine (strikeStep c i) c.place.asid line = guyLine c.s c.place.asid line ++
        [plainTok .sot (hdrField h 160 32), h, t].map (fun u => { u with route := BitVec.ofNat 12 line }) := by
  simp only [strikeStep, checkHeads_of_sound hhead hsound, hst, hhead, hroll, not_short_of_data hhead hdata, hdata, hopen, hhdr, hline, Bool.not_true,
    Bool.false_eq_true, if_false]
  have hsites : (guySend c.s c.x.node c.place.asid line [plainTok .sot (hdrField h 160 32), h, t]).sites = c.s.sites := by
    obtain ⟨g, w, ps, hsent⟩ := guySend_eq c.s c.x.node c.place.asid line [plainTok .sot (hdrField h 160 32), h, t]
    rw [hsent]
  have hguy := guyLine_guySend c.s c.x.node c.place.asid line [plainTok .sot (hdrField h 160 32), h, t]
  generalize guySend c.s c.x.node c.place.asid line [plainTok .sot (hdrField h 160 32), h, t] = st at hsites hguy
  exact ⟨_, site?_updSite (fun _ => rfl) ((site?_congr hsites _).trans hx), rfl, rfl, (guyLine_congr rfl _ _).trans hguy⟩

/-- Settles O36: a record that a beat completes becomes a call and its request; a turn of ARGP and of STRIKE by what it takes from its line and puts
on it. -/
theorem callCells : Obligations.CallCells := by
  intro s n w c t h p ps routine hhdr hopen hp pitches
  have hcalls {i : Instr} {op k nres narg : Nat} (hstage : Stage s n op w c [(0, t)]) (hexec : siteCtx s n op w = some c → exec i s = .next (pitchStep c k))
      (hone : narg * k ≤ 1) (htoks : ps.toks = []) (hitems : ps.items = []) (hcalls : ps.calls = []) (hnumber : ps.routine = routine)
      (hst : c.x.st = .pitch ps) (hdata : t.kind = .data) (himm : c.imm < 2 ^ 15) (hnum : c.imm % 256 = routine)
      (hroutine : routineHead s c.place.asid routine = some (narg, nres)) : pitches i k nres narg := by
    obtain ⟨hctx, hroll, hroom, hheads⟩ := hstage
    obtain ⟨-, hhead, hsound⟩ := hheads (0, t) (List.mem_singleton_self _)
    obtain ⟨hs, -, hx, hnode⟩ := siteCtx_spec hctx
    subst hs hnode
    obtain ⟨x, p', hx', hp', hcurq, hina, hst'⟩ :=
      pitchStep_spec hhdr hopen htoks hitems hcalls hst hdata himm hnum hroll hhead hsound hroutine hone hx hp hnumber
    have hnext : (c.x.st.pitch?).next = ps.next := by rw [hst]; rfl
    exact ⟨_, x, p', _, hexec hctx, hx', hp', hcurq, rfl, rfl, rfl, hnext, rfl, rfl, hina, _, hst', hnext, rfl, rfl, rfl, rfl, hhdr⟩
  refine ⟨fun htoks hitems hno hnumber hst hdata himm hnum => ⟨fun nres hstage hr => ?pitch, fun nres hstage hr => ?pitchg⟩,
    fun i line rest hstage hinst hstruck hst hline hheld hhead hsound hroute hdata => ?argp,
    fun i k line hstage hinst hstruck hst hline hroom hdata => ?strike⟩
  case pitch =>
    refine hcalls hstage (fun hctx => ?_) (Nat.le_refl _) htoks hitems hno hnumber hst hdata himm hnum hr
    change execCellPitch n w s = _
    rw [execCellPitch, hctx]
  case pitchg =>
    refine hcalls hstage (fun hctx => ?_) (by omega) htoks hitems hno hnumber hst hdata himm hnum hr
    change execCellPitchg n w s = _
    rw [execCellPitchg, hctx]
    rfl
  case argp =>
    obtain ⟨hctx, hroll, hroom, -⟩ := hstage
    obtain ⟨hs, hw, hx, hnode⟩ := siteCtx_spec hctx
    subst hs hw hnode
    obtain ⟨x, hx', hrest, hout, hst'⟩ := argpStep_spec hx hroll hheld hhead hsound hroute hdata
    refine ⟨_, x, ?_, hx', hrest, hout.trans ?_, hst'⟩
    · change execCellArgp _ _ _ = _
      simp only [execCellArgp, hctx, hinst, hst, hline, hroom, hstruck]
      rfl
    · rw [Ctx.emit, List.filter_cons, List.filter_nil]
      rfl
  case strike =>
    obtain ⟨hctx, hroll, -, hheads⟩ := hstage
    obtain ⟨-, hhead, hsound⟩ := hheads (0, t) (List.mem_singleton_self _)
    obtain ⟨hs, -, hx, hnode⟩ := siteCtx_spec hctx
    subst hs hnode
    obtain ⟨x, hx', hst', hina, hsent⟩ := strikeStep_spec hx hroll hhead hsound hdata hhdr hopen hst hline
    refine ⟨_, x, ?_, hx', hst', hina, hsent⟩
    change execCellStrike _ _ _ = _
    simp only [execCellStrike, hctx, hinst, hstruck, hroom]
    rfl

end Sys2Proof.Machine
end

section
/-! SUPPORT. Partitions up to their silence (O46): what sending leaves of a partition, whatever traffic it stirs (R102). -/

namespace Sys2Proof.Machine
open Sys2Proof.Claims

-- One after another: proofs elaborated at a time take a thread each, whose stacks are the most of the check's memory.
set_option Elab.async false

/-! ### Partitions up to their silence -/

/-- A partition without the cycle since which it is silent. -/
def Partition.unheard (p : Partition) : Partition := { p with silent := 0 }

def State.unheard (s : State) : List Partition := s.parts.map Partition.unheard

theorem partOf_of_unheard {s s' : State} (h : s'.unheard = s.unheard) {a : Nat} {p : Partition} (hp : partOf s a = some p) :
    ∃ n, partOf s' a = some { p with silent := n } := by
  have hfind (t : State) : t.unheard.find? (fun q => q.asid = a) = (partOf t a).map Partition.unheard := List.find?_map
  have hmap := hfind s'
  rw [h, hfind s, hp] at hmap
  obtain ⟨q, hq, hqp⟩ := Option.map_eq_some_iff.mp hmap.symm
  refine ⟨q.silent, hq.trans (congrArg some ?_)⟩
  calc q = { q.unheard with silent := q.silent } := rfl
    _ = { p with silent := q.silent } := by rw [hqp]; rfl

@[simp] theorem unheard_stir (s : State) (a : Nat) : (stir s a).unheard = s.unheard := by
  refine (List.map_map ..).trans (List.map_congr_left fun p _ => ?_)
  simp only [Function.comp_apply]
  split <;> rfl

@[simp] theorem unheard_stirAgent (s : State) (a : Agent) (c : Option Cargo) : (stirAgent s a c).unheard = s.unheard := by
  unfold stirAgent
  split
  · exact unheard_stir ..
  · rfl

@[simp] theorem unheard_sendMessage (s : State) (m : Msg) (c : Cargo) : (sendMessage s m c).unheard = s.unheard := by
  unfold sendMessage
  split
  next code _ =>
    obtain ⟨w, hsent, -⟩ := sendUnder_sent s m (some c) code
    rw [hsent]
    exact unheard_stirAgent ..
  next => rfl

@[simp] theorem unheard_sendToken (s : State) (a : Agent) (seq : Nat) (c : Cargo) (body : List Byte) :
    (sendToken s a seq c body).unheard = s.unheard := by
  unfold sendToken
  split
  · rfl
  · exact unheard_sendMessage ..

theorem unheard_guySend (s : State) (n : Node) (asid k : Nat) (l : List Token) : (guySend s n asid k l).unheard = s.unheard :=
  foldl_keeps (g := State.unheard) (fun st _ => unheard_sendToken (setGuy st _) ..) l s

end Sys2Proof.Machine
end

section
/-! SUPPORT. The footprints that a Curator finds and the instances that it places on them (O46): the search around a granule (R125, R127), the
route IDs (R137), and what a grant leaves of a place and of the partition (R128, R130, R411). -/

namespace Sys2Proof.Machine
open Sys2Proof.Claims

-- One after another: proofs elaborated at a time take a thread each, whose stacks are the most of the check's memory.
set_option Elab.async false

/-! ### The search (R125, R127, R131) -/

theorem candidates_nodup (gx gy : Nat) : (candidates gx gy).Nodup := by
  have hspiral : spiral.Nodup := by decide
  refine hspiral.filterMap fun a b o ha hb => ?_
  simp only [Option.mem_def, Option.ite_none_right_eq_some, Option.some.injEq] at ha hb
  obtain ⟨⟨hax, hay⟩, rfl⟩ := ha
  obtain ⟨⟨hbx, hby⟩, he⟩ := hb
  obtain ⟨hx, hy⟩ := Prod.mk.inj he
  exact Prod.ext (by omega) (by omega)

theorem warmFirst_nodup {cs : List (Nat × Nat)} (h : cs.Nodup) (s : State) (p : Partition) (die : Nat) (f : Folio) :
    (warmFirst s p die f cs).Nodup := by
  unfold warmFirst
  split
  · exact (List.filter_append_perm ..).nodup_iff.mpr h
  · exact h

theorem pick_length_le (ok : Nat × Nat → Bool) (f : Folio) (n : Nat) (l got : List (Nat × Nat)) : (pick ok f n got l).length ≤ max n got.length := by
  induction l generalizing got with
  | nil => exact Nat.le_max_right ..
  | cons o l ih =>
    unfold pick
    split
    next hroom =>
      simp only [Bool.and_eq_true, decide_eq_true_eq] at hroom
      have hnext := ih (got ++ [o])
      rw [List.length_append, List.length_singleton] at hnext
      omega
    next => exact ih got

theorem sublist_pick (ok : Nat × Nat → Bool) (f : Folio) (n : Nat) (l got : List (Nat × Nat)) : got.Sublist (pick ok f n got l) := by
  induction l generalizing got with
  | nil => exact List.Sublist.refl got
  | cons o l ih =>
    unfold pick
    split
    · exact (List.sublist_append_left got [o]).trans (ih _)
    · exact ih got

theorem idsFor_le (p : Partition) (f : Folio) (k : Nat) : p.idsFor f k ≤ k := by
  unfold Partition.idsFor
  dsimp only
  split
  · exact Nat.le_refl k
  · exact Nat.min_le_left ..

/-- The footprints found are no more than the request asks for: each of them is a member of its own among those picked. -/
theorem findFootprints_length_le (s : State) (p : Partition) (die : Nat) (f : Folio) {cs freed : List (Nat × Nat)} (k : Nat) (hcs : cs.Nodup)
    (hfreed : freed.length ≤ p.idsFor f k) : (findFootprints s p die f cs freed k).length ≤ k := by
  unfold findFootprints
  dsimp only
  have horder := warmFirst_nodup hcs s p die f
  generalize warmFirst s p die f cs = order at horder
  have hsub := sublist_pick (passes s p die f []) f (p.idsFor f k) order freed
  have hlen := pick_length_le (passes s p die f []) f (p.idsFor f k) order freed
  generalize pick (passes s p die f []) f (p.idsFor f k) freed order = found at hsub hlen
  have hnear : (order.filter found.contains).length ≤ (found.filter order.contains).length :=
    ((horder.filter _).subperm fun o ho => by
      simp only [List.mem_filter, List.contains_iff_mem] at ho ⊢
      exact ho.symm).length_le
  have hfar : ((freed.filter (fun o => !order.contains o)).filter found.contains).length ≤ (found.filter (fun o => !order.contains o)).length :=
    (List.filter_sublist.trans (hsub.filter _)).length_le
  have hsplit := List.length_eq_length_filter_add (l := found) order.contains
  have hk := idsFor_le p f k
  rw [List.filter_append, List.length_append]
  omega

/-! ### Route IDs (R137) -/

theorem length_filter_not_contains {α : Type} [BEq α] [LawfulBEq α] {l : List α} (h : l.Nodup) (u : List α) :
    l.length ≤ (l.filter (fun x => !u.contains x)).length + u.length := by
  have hused : (l.filter u.contains).length ≤ u.length :=
    ((h.filter _).subperm fun x hx => List.contains_iff_mem.mp (List.mem_filter.mp hx).2).length_le
  have hsplit := List.length_eq_length_filter_add (l := l) u.contains
  omega

theorem freeIds_length {p : Partition} {n : Nat} (h : n + p.poolUsed.length ≤ 1024) : (p.freeIds n).length = n := by
  have hpool : ((List.range 1024).map (fun i => 3072 + i)).Nodup := List.nodup_range.map fun _ _ => Nat.add_left_cancel
  have hfree := length_filter_not_contains hpool p.poolUsed
  rw [List.length_map, List.length_range] at hfree
  rw [Partition.freeIds, List.length_take]
  omega

/-! ### The instances placed for a request (R128, R130) -/

/-- A place holds physical instance `q` of `m` of a request that place `x` has made for a routine, at origin `o`. -/
def InstanceOf (r : PitchReq) (x : Place) (f : Folio) (asid m q : Nat) (o : Nat × Nat) (y : Place) : Prop :=
  ∃ i, y.inst = some i ∧ i.caller = r.node ∧ i.call = r.call ∧ i.logical = (List.range r.k).filter (fun n => n % m = q) ∧ i.st = .awake ∧
    i.args.length = f.narg ∧ i.results.length = f.nres ∧ y.asid = asid ∧ y.die = x.die ∧ (y.gx, y.gy) = o ∧ y.slots.getD 0 none = some f ∧
    y.lslot = x.lslot ∧ y.scope = x.scope

theorem configure_eq (s : State) (p : Place) (k : Nat) :
    ∃ sites rslots segs left, configure s p k = { s with sites := sites, rslots := rslots, segs := segs, left := left } := by
  unfold configure keepLeft
  split
  · exact ⟨_, _, _, _, rfl⟩
  · split <;> exact ⟨_, _, _, _, rfl⟩

/-- An instance placed adds one place and changes the fabric under it. -/
theorem placeFolio_inst (s : State) (asid die gx gy lslot scope : Nat) (f : Folio) (i : Inst) :
    ∃ x sites rslots segs left warm, placeFolio s asid die gx gy lslot scope f (some i) =
        ({ s with places := s.places ++ [x], nextPlace := s.nextPlace + 1, warm := warm, sites := sites, rslots := rslots, segs := segs, left := left },
          s.nextPlace) ∧
      x.id = s.nextPlace ∧ x.asid = asid ∧ x.die = die ∧ x.gx = gx ∧ x.gy = gy ∧ x.lslot = lslot ∧ x.scope = scope ∧ x.inst = some i := by
  unfold placeFolio
  dsimp only
  obtain ⟨sites, rslots, segs, left, he⟩ := configure_eq _ _ _
  rw [he]
  exact ⟨_, _, _, _, _, _, rfl, rfl, rfl, rfl, rfl, rfl, rfl, rfl, rfl⟩

theorem updBy_append_singleton {α : Type} {p : α → Bool} {l : List α} (h : ∀ x ∈ l, p x = false) (f : α → α) {y : α} (hy : p y = true) :
    updBy p f (l ++ [y]) = l ++ [f y] := by
  have hsame : updBy p f l = l := updBy_eq_self fun x hx hp => absurd hp (by rw [h x hx]; decide)
  rw [updBy, List.map_append, ← updBy, hsame, List.map_singleton, if_pos hy]

section
variable {s : State} {asid : Nat} {p : Partition}

/-- One instance more: its place is a new one, its route IDs are in use and its scope has work. -/
theorem grantOne_spec (hp : partOf s asid = some p) (hnew : ∀ y ∈ s.places, y.id < s.nextPlace) (r : PitchReq) (x : Place) (f : Folio) {m q : Nat}
    (o : Nat × Nat) (hqm : q < m) (hqk : q < r.k) (hids : f.narg + f.nres + p.poolUsed.length ≤ 1024) :
    let s' := (grantOne s asid r x f m q o).1
    s'.nextPlace = s.nextPlace + 1 ∧ (∃ y, s'.places = s.places ++ [y] ∧ y.id = s.nextPlace ∧ InstanceOf r x f asid m q o y) ∧
    ∃ p', partOf s' asid = some p' ∧ p'.rrCore = p.rrCore ∧ p'.curq = p.curq ∧ p'.poolUsed.length = p.poolUsed.length + (f.narg + f.nres) := by
  have hlen := freeIds_length hids
  have hmine : 0 < ((List.range r.k).filter (fun i => i % m = q)).length :=
    List.length_pos_of_mem (List.mem_filter.mpr ⟨List.mem_range.mpr hqk, decide_eq_true (Nat.mod_eq_of_lt hqm)⟩)
  unfold grantOne
  rw [hp]
  dsimp only
  generalize p.freeIds (f.narg + f.nres) = ids at hlen
  obtain ⟨y, sites, rslots, segs, left, warm, he, hid, hasid, hdie, hgx, hgy, hlslot, hscope, hinst⟩ :=
    placeFolio_inst s asid x.die o.1 o.2 x.lslot x.scope f
      { caller := r.node, call := r.call, logical := (List.range r.k).filter (fun i => i % m = q), cur := 0, args := ids.take f.narg
        results := ids.drop f.narg, st := .awake, stowSlots := [], buffered := [], activeAt := s.cycle, struck := false, wave := 0 }
  rw [he]
  refine ⟨rfl, ⟨_, updBy_append_singleton (fun z hz => decide_eq_false (hnew z hz).ne) _ (decide_eq_true hid), hid,
    _, hinst, rfl, rfl, rfl, rfl, ?_, ?_, hasid, hdie, Prod.ext hgx hgy, ?_, hlslot, hscope⟩, _,
    partOf_updPart (f := fun q : Partition => Partition.workUp { q with poolUsed := q.poolUsed ++ ids } x.scope) (fun _ => rfl)
      ((partOf_congr rfl asid).trans hp), rfl, rfl, ?_⟩
  · change (ids.take f.narg).length = f.narg
    rw [List.length_take]
    omega
  · change (ids.drop f.narg).length = f.nres
    rw [List.length_drop]
    omega
  · exact if_pos hmine
  · exact List.length_append.trans (by rw [hlen])

theorem place?_of_append {s s' : State} {y : Place} (h : s'.places = s.places ++ [y]) {n : Nat} (hn : y.id ≠ n) : s'.place? n = s.place? n := by
  rw [State.place?, h, List.find?_append, List.find?_cons_of_neg (by simpa using hn), List.find?_nil, Option.or_none, State.place?]

theorem place?_append_new {s s' : State} {y : Place} (h : s'.places = s.places ++ [y]) (hnew : ∀ z ∈ s.places, z.id < y.id) :
    s'.place? y.id = some y := by
  have hnone : s.places.find? (fun z => z.id = y.id) = none := List.find?_eq_none.mpr fun z hz => by simpa using (hnew z hz).ne
  rw [State.place?, h, List.find?_append, hnone, Option.none_or, List.find?_cons_of_pos (by simp)]

/-- The instances of a request stand in new places, one after another. -/
theorem grantAll_spec (hp : partOf s asid = some p) (hnew : ∀ y ∈ s.places, y.id < s.nextPlace) (r : PitchReq) (x : Place) (f : Folio) {m q : Nat}
    (os : List (Nat × Nat)) (hm : q + os.length ≤ m) (hk : q + os.length ≤ r.k) (hids : os.length * (f.narg + f.nres) + p.poolUsed.length ≤ 1024) :
    let s' := (grantAll asid r x f m q os s).1
    (∀ n, n < s.nextPlace → s'.place? n = s.place? n) ∧
    (∀ j o, os[j]? = some o → ∃ y, s'.place? (s.nextPlace + j) = some y ∧ InstanceOf r x f asid m (q + j) o y) ∧
    ∃ p', partOf s' asid = some p' ∧ p'.rrCore = p.rrCore ∧ p'.curq = p.curq := by
  induction os generalizing s p q with
  | nil => exact ⟨fun n _ => rfl, fun j o h => by simp at h, p, hp, rfl, rfl⟩
  | cons o os ih =>
    rw [List.length_cons] at hm hk hids
    rw [Nat.succ_mul] at hids
    obtain ⟨hnext, ⟨y, hplaces, hid, hy⟩, p1, hp1, hrr1, hcurq1, hpool1⟩ := grantOne_spec hp hnew r x f o (m := m) (q := q) (by omega) (by omega) (by omega)
    have hnew1 : ∀ z ∈ (grantOne s asid r x f m q o).1.places, z.id < (grantOne s asid r x f m q o).1.nextPlace := by
      intro z hz
      rw [hplaces] at hz
      rw [hnext]
      rcases List.mem_append.mp hz with hold | hlast
      · exact (hnew z hold).trans (Nat.lt_succ_self _)
      · rw [List.mem_singleton.mp hlast, hid]
        exact Nat.lt_succ_self _
    obtain ⟨hkeep, hplaced, p', hp', hrr', hcurq'⟩ := ih hp1 hnew1 (q := q + 1) (by omega) (by omega) (by omega)
    rw [hnext] at hkeep hplaced
    refine ⟨fun n hn => (hkeep n (by omega)).trans (place?_of_append hplaces (by omega)), fun j o' hj => ?_, p', hp', hrr'.trans hrr1,
      hcurq'.trans hcurq1⟩
    cases j with
    | zero =>
      obtain rfl : o = o' := by simpa using hj
      refine ⟨y, (hkeep _ (by omega)).trans ?_, hy⟩
      rw [Nat.add_zero, ← hid]
      exact place?_append_new hplaces (hid.symm ▸ hnew)
    | succ j =>
      obtain ⟨z, hz, hinst⟩ := hplaced j o' (by simpa using hj)
      exact ⟨z, by rw [← hz]; congr 1; omega, by rw [show q + (j + 1) = q + 1 + j by omega]; exact hinst⟩

end

/-! ### What opening the argument lines leaves (R411, R139) -/

/-- A place without its rollback record and its instance's wave count. -/
def Place.shed (y : Place) : Place := { y with rb := none, inst := y.inst.map (fun i => { i with wave := 0 }) }

def State.footing (s : State) : List Place := s.places.map Place.shed

theorem InstanceOf.of_shed {r : PitchReq} {x : Place} {f : Folio} {asid m q : Nat} {o : Nat × Nat} {y y' : Place}
    (h : InstanceOf r x f asid m q o y) (he : y'.shed = y.shed) : InstanceOf r x f asid m q o y' := by
  obtain ⟨i, hi, hcaller, hcall, hlogical, hst, hargs, hresults, hasid, hdie, ho, hslots, hlslot, hscope⟩ := h
  obtain ⟨i', hi', he'⟩ : ∃ i', y'.inst = some i' ∧ { i' with wave := 0 } = { i with wave := 0 } := by
    have hinst : y'.inst.map (fun i => { i with wave := 0 }) = y.inst.map (fun i => { i with wave := 0 }) := congrArg Place.inst he
    rw [hi] at hinst
    exact Option.map_eq_some_iff.mp hinst
  exact ⟨i', hi', (congrArg Inst.caller he').trans hcaller, (congrArg Inst.call he').trans hcall, (congrArg Inst.logical he').trans hlogical,
    (congrArg Inst.st he').trans hst, (congrArg (·.args.length) he').trans hargs, (congrArg (·.results.length) he').trans hresults,
    (congrArg Place.asid he).trans hasid, (congrArg Place.die he).trans hdie,
    (congrArg (fun z => (z.gx, z.gy)) he).trans ho, (congrArg (·.slots.getD 0 none) he).trans hslots,
    (congrArg Place.lslot he).trans hlslot, (congrArg Place.scope he).trans hscope⟩

theorem place?_of_footing {s s' : State} (h : s'.footing = s.footing) {n : Nat} {y : Place} (hy : s.place? n = some y) :
    ∃ y', s'.place? n = some y' ∧ y'.shed = y.shed := by
  have hfind (t : State) : t.footing.find? (fun q => q.id = n) = (t.place? n).map Place.shed := List.find?_map
  have hmap := hfind s'
  rw [h, hfind s, hy] at hmap
  exact Option.map_eq_some_iff.mp hmap.symm

theorem footing_updPlace (s : State) (n : Nat) {g : Place → Place} (hg : ∀ y, (g y).shed = y.shed) : (s.updPlace n g).footing = s.footing := by
  refine (List.map_map ..).trans (List.map_congr_left fun y _ => ?_)
  simp only [Function.comp_apply]
  split
  · exact hg y
  · rfl

theorem footing_updRb (s : State) (p : Place) (g : Rollback → Rollback) : (s.updRb p g).footing = s.footing :=
  footing_updPlace s _ fun _ => rfl

theorem footing_guySend (s : State) (n : Node) (asid k : Nat) (l : List Token) : (guySend s n asid k l).footing = s.footing := by
  obtain ⟨g, w, ps, he⟩ := guySend_eq s n asid k l
  rw [he]
  rfl

theorem footing_openLines (s : State) (n : Node) (asid wave : Nat) (c : Call) (i : Nat) : (openLines s n asid wave c i).footing = s.footing := by
  unfold openLines
  split
  next => rfl
  next e _ =>
    refine (foldl_keeps (g := State.footing) (fun st a => footing_guySend st ..) _ _).trans ?_
    have hwave : (s.updPlace e.place (fun p => { p with inst := p.inst.map (fun y => { y with wave := wave }) })).footing = s.footing :=
      footing_updPlace s _ fun y => by cases h : y.inst <;> simp [Place.shed, h]
    split
    next => exact (footing_updRb ..).trans hwave
    next => exact hwave

theorem unheard_openLines (s : State) (n : Node) (asid wave : Nat) (c : Call) (i : Nat) : (openLines s n asid wave c i).unheard = s.unheard := by
  unfold openLines
  split
  next => rfl
  next e _ =>
    refine (foldl_keeps (g := State.unheard) (fun st a => unheard_guySend st ..) _ _).trans ?_
    split <;> rfl

/-! ### A grant (R128) -/

/-- A granted request has its instances placed, up to what the opening of their lines changes, and its partition without it, up to
its silence. -/
theorem grant_spec {s : State} {asid : Nat} {p : Partition} {r : PitchReq} {x : Place} {f : Folio} {os : List (Nat × Nat)}
    (hp : partOf s asid = some p) (hgood : os.findSome? (fun o => f.bad p.catcount (some o)) = none) :
    let s1 := (grantAll asid r x f os.length 0 os s).1
    (grant s asid r x f os).footing = s1.footing ∧
    (grant s asid r x f os).unheard =
      (s1.updPart asid (fun p => (p.leave r s.cycle).touchCache (r.core / 32) (r.core % 32) r.routine)).unheard := by
  unfold grant
  simp only [hp, hgood]
  split
  next => exact ⟨rfl, unheard_stir ..⟩
  next y _ =>
    split
    next => exact ⟨rfl, unheard_stir ..⟩
    next c _ =>
      exact ⟨foldl_keeps (g := State.footing) (fun st i => footing_openLines st ..) _ _,
        (foldl_keeps (g := State.unheard) (fun st i => unheard_openLines st ..) _ _).trans (unheard_stir ..)⟩

theorem length_dropFirst {α : Type} {p : α → Bool} {l : List α} {x : α} (hx : x ∈ l) (hp : p x = true) : (dropFirst p l).length + 1 = l.length := by
  induction l with
  | nil => cases hx
  | cons y l ih =>
    unfold dropFirst
    split
    next => rfl
    next hy =>
      rcases List.mem_cons.mp hx with rfl | htail
      · exact absurd hp hy
      · exact congrArg (· + 1) (ih htail)

theorem PitchReq.same_self (r : PitchReq) : r.same r = true := by
  simp [PitchReq.same]

/-- A request that leaves is one less in the queue. -/
theorem length_curq_leave {p : Partition} {r : PitchReq} (h : r ∈ p.curq) (now : Nat) : (p.leave r now).curq.length + 1 = p.curq.length :=
  (congrArg (· + 1) (List.length_map ..)).trans (length_dropFirst h r.same_self)

theorem touchCache_curq (p : Partition) (die core routine : Nat) : (p.touchCache die core routine).curq = p.curq := by
  unfold Partition.touchCache
  split <;> rfl

theorem touchCache_rrCore (p : Partition) (die core routine : Nat) : (p.touchCache die core routine).rrCore = p.rrCore := by
  unfold Partition.touchCache
  split <;> rfl

/-- A request granted: each of its instances stands at its origin, and the request has left the queue. -/
theorem grant_places {s : State} {asid : Nat} {p : Partition} {r : PitchReq} {x : Place} {f : Folio} {os : List (Nat × Nat)}
    (hp : partOf s asid = some p) (hgood : os.findSome? (fun o => f.bad p.catcount (some o)) = none) (hnew : ∀ y ∈ s.places, y.id < s.nextPlace)
    (hk : os.length ≤ r.k) (hids : os.length * (f.narg + f.nres) + p.poolUsed.length ≤ 1024) (hr : r ∈ p.curq) :
    (∀ j o, os[j]? = some o → ∃ y, (grant s asid r x f os).place? (s.nextPlace + j) = some y ∧ InstanceOf r x f asid os.length j o y) ∧
    ∃ q, partOf (grant s asid r x f os) asid = some q ∧ q.rrCore = p.rrCore ∧ q.curq.length + 1 = p.curq.length := by
  obtain ⟨hfooting, hunheard⟩ := grant_spec (x := x) hp hgood (r := r)
  obtain ⟨-, hplaced, p', hp', hrr, hcurq⟩ :=
    grantAll_spec hp hnew r x f os (m := os.length) (q := 0) (Nat.zero_add _).le ((Nat.zero_add _).trans_le hk) hids
  refine ⟨fun j o ho => ?_, ?_⟩
  · obtain ⟨y, hy, hinst⟩ := hplaced j o ho
    obtain ⟨y', hy', hshed⟩ := place?_of_footing hfooting hy
    rw [Nat.zero_add] at hinst
    exact ⟨y', hy', hinst.of_shed hshed⟩
  · obtain ⟨n, hq⟩ := partOf_of_unheard hunheard (partOf_updPart
      (f := fun q => (q.leave r s.cycle).touchCache (r.core / 32) (r.core % 32) r.routine) (fun q => touchCache_asid ..) hp')
    refine ⟨_, hq, (touchCache_rrCore ..).trans hrr, ?_⟩
    change ((p'.leave r s.cycle).touchCache (r.core / 32) (r.core % 32) r.routine).curq.length + 1 = _
    rw [touchCache_curq, length_curq_leave (hcurq.symm ▸ hr), hcurq]

end Sys2Proof.Machine
end

section
/-! SUPPORT. How a Curator serves the head of a queue (O46): a pitch and an unstow (R125, R127-R129, R133). -/

namespace Sys2Proof.Machine
open Sys2Proof.Claims

-- One after another: proofs elaborated at a time take a thread each, whose stacks are the most of the check's memory.
set_option Elab.async false

/-! ### The head of a queue -/

/-- A request is examined on the footprints that a stow has freed for it, or on all that are found. -/
theorem examine_of_enough {s : State} {asid : Nat} {p : Partition} {r : PitchReq} {x : Place} {f : Folio} {freed found os : List (Nat × Nat)}
    (hfreed : pick (passes s p x.die f []) f (p.idsFor f r.k) [] r.freed = freed)
    (hfound : findFootprints s p x.die f (candidates ((x.at_ r.node.x r.node.y).1 / 4) ((x.at_ r.node.x r.node.y).2 / 4)) freed r.k = found)
    (hos : (if f.foldable = true ∧ freed ≠ [] then freed else found) = os) (henough : r.k ≤ os.length ∨ (f.foldable = true ∧ os ≠ [])) :
    examine s asid p r x f = grant s asid r x f os := by
  unfold examine
  simp only [hfreed, hfound]
  by_cases hfold : f.foldable = true ∧ freed ≠ []
  · rw [if_pos hfold] at hos
    rw [if_pos (by simpa using hfold), hos]
  · rw [if_neg hfold] at hos
    subst hos
    rw [if_neg (by simpa using hfold)]
    by_cases hall : found.length ≥ r.k
    · rw [if_pos hall]
    · obtain ⟨hf, hne⟩ := henough.resolve_left hall
      rw [if_neg hall, if_pos (by simpa [hf, Nat.one_le_iff_ne_zero] using hne)]

/-- No more footprints are taken than a request asks for. -/
theorem footprints_length_le {s : State} {p : Partition} {die : Nat} {f : Folio} {ok : Nat × Nat → Bool} {origins cs freed os : List (Nat × Nat)} {k : Nat}
    (hcs : cs.Nodup) (hfreed : pick ok f (p.idsFor f k) [] origins = freed)
    (hos : (if f.foldable = true ∧ freed ≠ [] then freed else findFootprints s p die f cs freed k) = os) : os.length ≤ k := by
  have hlen : freed.length ≤ p.idsFor f k := by
    rw [← hfreed]
    exact (pick_length_le ..).trans (by simp)
  rw [← hos]
  split
  · exact hlen.trans (idsFor_le ..)
  · exact findFootprints_length_le s p die f k hcs hlen

section
variable {s : State} {p : Partition} {core : Nat} {r : PitchReq} {rest : List PitchReq}

theorem mem_curq_of_queueOf (h : p.queueOf core = r :: rest) : r ∈ p.curq ∧ r.core = core ∧ r.frozen = 0 := by
  have hr : r ∈ p.queueOf core := h ▸ List.mem_cons_self
  simpa [Partition.queueOf] using hr

/-- The queue whose turn it is has the turn, and what heads it is served. -/
theorem exec_curatorServeHead (hp : partOf s p.asid = some p) (hrun : p.st = .running) (hload : p.loading = false)
    (hturn : p.nextQueue = some core) (hqueue : p.queueOf core = r :: rest) :
    let s1 := s.updPart p.asid (fun q => { q with rrCore := core })
    (r.unstow = none → exec (.curatorServeHead p.asid core) s = .next (servePitch s1 p.asid p r)) ∧
    (∀ id, r.unstow = some id → exec (.curatorServeHead p.asid core) s = .next (serveUnstow s1 p.asid p r id)) := by
  have hgrants : ¬ ((!p.grants || decide (p.nextQueue ≠ some core)) = true) := by simp [Partition.grants, hrun, hload, hturn]
  constructor
  · intro hpitch
    change execCuratorServeHead p.asid core s = _
    simp only [execCuratorServeHead, hp, hqueue, hpitch, if_neg hgrants]
  · intro id hunstow
    change execCuratorServeHead p.asid core s = _
    simp only [execCuratorServeHead, hp, hqueue, hunstow, if_neg hgrants]

/-- A pitch whose routine is cached is examined. -/
theorem servePitch_of_cached {x : Place} {f : Folio} {asid : Nat} (hx : s.place? r.node.place = some x) (hstow : r.stowing = none)
    (hroutine : r.routine < p.catcount) (hcached : p.cached (r.core / 32) (r.core % 32) r.routine = some f) :
    servePitch s asid p r = examine s asid p r x f := by
  unfold servePitch
  rw [hx]
  dsimp only
  rw [hstow, if_neg (by simp), if_neg (Nat.not_le.mpr hroutine), hcached]

/-- An instance for which a candidate passes stands there and is copied back, and its request has left the queue (R133). -/
theorem serveUnstow_spec {x : Place} {i : Inst} {f : Folio} {asid : Nat} {o : Nat × Nat} (hp : partOf s asid = some p) (hr : r ∈ p.curq)
    (hx : s.place? x.id = some x) (hi : x.inst = some i) (hst : i.st = .stowed) (hf : x.shape = some f) {q : Partition}
    (ho : (candidates x.gx x.gy).find? (passes s q x.die f []) = some o) :
    (∃ y, (serveUnstow s asid q r x.id).place? x.id = some y ∧ (y.gx, y.gy) = o ∧ y.inst = some { i with st := .unstowing }) ∧
    ∃ q', partOf (serveUnstow s asid q r x.id) asid = some q' ∧ q'.curq.length + 1 = p.curq.length := by
  have hmoved := place?_updPlace
    (f := fun y => { y with gx := o.1, gy := o.2, inst := y.inst.map (fun k => { k with st := .unstowing }) }) (fun _ => rfl) hx
  unfold serveUnstow
  simp only [hx, hi, hf, ho, hmoved]
  rw [if_neg (not_not.mpr hst)]
  exact ⟨⟨_, hmoved, rfl, congrArg (Option.map _) hi⟩, _,
    partOf_stir (partOf_updPart (p := p) (f := fun q => q.leave r s.cycle) (fun _ => rfl) ((partOf_congr rfl asid).trans hp)),
    length_curq_leave hr s.cycle⟩

theorem curatorServes : CuratorServes := by
  intro s p core r rest x f o hp hrun hload hturn hqueue s1 here freed found os
  have hp1 : partOf s1 p.asid = some { p with rrCore := core } := partOf_updPart (f := fun q => { q with rrCore := core }) (fun _ => rfl) hp
  obtain ⟨hr, -, -⟩ := mem_curq_of_queueOf hqueue
  obtain ⟨hservePitch, hserveUnstow⟩ := exec_curatorServeHead hp hrun hload hturn hqueue
  constructor
  · intro hpitch hstow hx hnew hroutine hcached henough hgood hids
    have hgrant : servePitch s1 p.asid p r = grant s1 p.asid r x f os :=
      (servePitch_of_cached (s := s1) hx hstow hroutine hcached).trans (examine_of_enough rfl rfl rfl henough)
    have hlen : os.length ≤ r.k := footprints_length_le (candidates_nodup ..) (freed := freed) rfl rfl
    obtain ⟨hplaced, q, hq, hrr, hcurq⟩ := grant_places (x := x) hp1 hgood hnew hlen hids hr
    refine ⟨_, (hservePitch hpitch).trans (congrArg _ hgrant), fun j o ho => ?_, q, hq, hrr, hcurq⟩
    obtain ⟨y, hy, i, hi⟩ := hplaced j o ho
    exact ⟨y, i, hy, hi⟩
  · intro i hunstow hx hi hst hf ho
    exact ⟨_, hserveUnstow _ hunstow, serveUnstow_spec hp1 hr hx hi hst hf ho⟩

end

end Sys2Proof.Machine
end

section
/-! SUPPORT. What a read of memory leaves alone (O46): a property that the moves of lines between the levels keep, every read keeps (R202, R210,
R220). -/

namespace Sys2Proof.Machine
open Sys2Proof.Claims

-- One after another: proofs elaborated at a time take a thread each, whose stacks are the most of the check's memory.
set_option Elab.async false

/-- A property that the moves of lines between the levels keep. -/
structure ReadClosed (P : State → Prop) : Prop where
  llcGet : ∀ {s} (pa n : Nat), P s → P (llcGet s pa n).1
  setSlice : ∀ {s} (x : Slice), P s → P (s.setSlice x)
  installAt : ∀ {s} (x : Slice) (l : SLine), P s → P (installAt s x l)
  corrected : ∀ {s : State} (n : Nat), P s → P { s with corrected := n }

theorem Acc.Leaves.orAtLlc {α : Type} {Q : State → Prop} {a b : Acc α} (ha : a.Leaves Q) (hb : b.Leaves Q) : (a.orAtLlc b).Leaves Q := by
  cases a with
  | wait => exact hb
  | ok => exact ha
  | fault => exact ha

section
variable {P : State → Prop} (hP : ReadClosed P) {s : State}
include hP

theorem ReadClosed.llcLines (k pa : Nat) (h : P s) : P (llcLines k s pa).1 := by
  induction k generalizing s pa with
  | zero => exact h
  | succ k ih => exact ih (pa + 128) (hP.llcGet pa 128 h)

theorem ReadClosed.expandAt (dir t : Nat) (h : P s) : P (expandAt s dir t).1 := by
  have hentry : P (Machine.llcGet s (dir + 8 * t) 8).1 := hP.llcGet _ 8 h
  unfold Machine.expandAt
  dsimp only
  split
  next => exact h
  next =>
    split
    next => exact hentry
    next =>
      split
      next => exact hentry
      next =>
        split
        next => exact hentry
        next =>
          split
          next => exact hP.llcLines _ _ hentry
          next => split <;> exact hP.llcLines _ _ hentry

theorem ReadClosed.tileFor (d i : Nat) (w : CompPage) (t : Nat) (h : P s) : P (tileFor s d i w t).1 := by
  have hexpand := hP.expandAt w.dir t h
  unfold Machine.tileFor
  split
  next => exact h
  next =>
    split
    next e => exact (congrArg Prod.fst e ▸ hexpand :)
    next e => exact hP.setSlice _ (congrArg Prod.fst e ▸ hexpand :)

theorem ReadClosed.useGot (w : Word) (g : Got) (h : P s) : (useGot w s g).Leaves P := by
  unfold Machine.useGot
  split
  next => exact h
  next =>
    change P (if _ then _ else _)
    split
    · exact h
    · exact hP.corrected _ h

theorem ReadClosed.llcLoad (lv : Nat) (x : Xl) (n : Nat) (h : P s) : (llcLoad s lv x n).Leaves P := by
  have hexpand := hP.expandAt (compDir x (pageBits lv)).1 (compDir x (pageBits lv)).2 h
  unfold Machine.llcLoad
  split
  next => exact h
  next =>
    split
    next => exact h
    next =>
      split
      next =>
        split
        next e => exact (congrArg Prod.fst e ▸ hexpand :)
        next e => exact hP.useGot _ _ (congrArg Prod.fst e ▸ hexpand :)
      next => exact hP.useGot _ _ (hP.llcGet _ _ h)

theorem ReadClosed.missRead (d lv : Nat) (x : Xl) (n : Nat) (h : P s) : (missRead s d lv x n).Leaves P := by
  have htile := hP.tileFor d (sliceIndex x.iset x.pa) (x.window lv) (compDir x (pageBits lv)).2 h
  unfold Machine.missRead
  dsimp only
  split
  next => exact h
  next =>
    split
    next => trivial
    next =>
      split
      next =>
        split
        next e => exact (congrArg Prod.fst e ▸ htile :)
        next e =>
          rw [e] at htile
          refine hP.useGot _ _ ?_
          split
          · exact hP.installAt _ _ htile
          · exact htile
      next =>
        split
        next => trivial
        next =>
          split
          next => exact hP.useGot _ _ (hP.installAt _ _ (hP.llcGet _ _ h))
          next => exact hP.useGot _ _ (hP.llcGet _ _ h)

theorem ReadClosed.readBytes (die : Option Nat) (lv : Nat) (x : Xl) (n : Nat) (h : P s) : (readBytes s die lv x n).Leaves P := by
  unfold Machine.readBytes
  generalize placeOf s die x n = dx
  obtain ⟨d, y⟩ := dx
  dsimp only
  split
  next =>
    split
    next => trivial
    next => exact hP.llcLoad _ _ _ h
  next =>
    split
    next => trivial
    next =>
      split
      next => exact hP.useGot _ _ (hP.setSlice _ h)
      next =>
        split
        next => trivial
        next => exact hP.missRead _ _ _ _ h

/-- The words that a unit's reads correct leave the property standing. -/
theorem ReadClosed.hwSeen (k asid va n : Nat) (h : P s) : P (hwSeen k s asid va n) := by
  induction k generalizing s va with
  | zero => exact h
  | succ k ih =>
    refine ih (va + 64) ?_
    split
    next x lv _ =>
      have hread := (hP.readBytes ((partOf s asid).map (fun p => p.homedie)) lv x n h).orAtLlc (hP.llcLoad lv x n h)
      split
      next e =>
        split
        · exact hread.of_ok e
        · exact h
      next => exact h
    next => exact h

theorem ReadClosed.imageSeen (p : Partition) (routine : Nat) (h : P s) : P (imageSeen s p routine) := by
  unfold Machine.imageSeen
  split
  next => exact h
  next => exact hP.hwSeen _ _ _ _ (hP.hwSeen _ _ _ _ h)

end

/-! ### Places, threads and partitions (R123) -/

/-- The places and threads of two states are the same, and so are their partitions up to their silence. -/
def Alike (s t : State) : Prop := t.places = s.places ∧ t.threads = s.threads ∧ t.unheard = s.unheard

theorem unheard_congr {s t : State} (h : t.parts = s.parts) : t.unheard = s.unheard := by
  rw [State.unheard, h, State.unheard]

theorem Alike.trans {s t u : State} (h : Alike s t) (h' : Alike t u) : Alike s u :=
  ⟨h'.1.trans h.1, h'.2.1.trans h.2.1, h'.2.2.trans h.2.2⟩

theorem alike_sendMessage (s : State) (m : Msg) (c : Cargo) : Alike s (sendMessage s m c) := by
  obtain ⟨w, ps, he⟩ := sendMessage_eq s m c
  exact ⟨by rw [he], by rw [he], unheard_sendMessage s m c⟩

/-- No move of a line between the levels touches a place, a thread or a partition. -/
theorem alike_readClosed (s : State) : ReadClosed (Alike s) where
  llcGet pa n h := h.trans ⟨llcHold_places .., llcHold_threads .., unheard_congr (llcHold_parts ..)⟩
  setSlice x h := h
  installAt x l h := by
    unfold installAt
    split
    next => exact h
    next =>
      dsimp only
      split
      next => exact Alike.trans h (alike_sendMessage ..)
      next => exact h
  corrected n h := h

end Sys2Proof.Machine
end

section
/-! SUPPORT. Loading a catalogue, and fetching a routine of it (O46): the word of CATCTL (R121), and what enters a core's cache (R123). -/

namespace Sys2Proof.Machine
open Sys2Proof.Claims

-- One after another: proofs elaborated at a time take a thread each, whose stacks are the most of the check's memory.
set_option Elab.async false

/-! ### CATCTL (R121) -/

/-- RESULT, INDEX and BUSY of the word. -/
theorem catctlWord_fields (w : Word) (result index : Nat) {busy : Nat} (hbusy : busy < 2) :
    (catctlWord w result index busy).extractLsb' 4 4 = BitVec.ofNat 4 result ∧
    (catctlWord w result index busy).extractLsb' 24 8 = BitVec.ofNat 8 index ∧
    (catctlWord w result index busy).extractLsb' 0 1 = BitVec.ofNat 1 busy := by
  refine ⟨BitVec.eq_of_toNat_eq ?_, BitVec.eq_of_toNat_eq ?_, BitVec.eq_of_toNat_eq ?_⟩ <;>
  · simp only [catctlWord, BitVec.toNat_ofNat, toNat_extractLsb'_eq_bitsOf, bitsOf]
    omega

/-- ASID and COUNT, bits 63:48 and 40:32. -/
theorem getLsbD_catctlMask : ∀ i < 64, (0xFFFF01FF00000000 : Word).getLsbD i = decide (48 ≤ i ∨ (32 ≤ i ∧ i < 41)) := by decide

/-- A write that is no command to clear ERR leaves ASID and COUNT as written and ERR as it was. -/
theorem catctlWord_written (v c : Word) (result : Nat) {busy : Nat} (hbusy : busy < 2) :
    catctlWord (BitVec.ofNat 64 (bitsOf v.toNat 48 16 * 2 ^ 48 + bitsOf v.toNat 32 9 * 2 ^ 32 + bitsOf c.toNat 1 1 * 2)) result 0 busy =
      (v &&& 0xFFFF01FF00000000) ||| (c &&& 2) ||| BitVec.ofNat 64 (result % 16 * 16 + busy) := by
  have happend : catctlWord (BitVec.ofNat 64 (bitsOf v.toNat 48 16 * 2 ^ 48 + bitsOf v.toNat 32 9 * 2 ^ 32 + bitsOf c.toNat 1 1 * 2)) result 0 busy =
      v.extractLsb' 48 16 ++ 0#7 ++ v.extractLsb' 32 9 ++ 0#24 ++ BitVec.ofNat 4 result ++ 0#2 ++ c.extractLsb' 1 1 ++ BitVec.ofNat 1 busy := by
    apply BitVec.eq_of_toNat_eq
    simp only [catctlWord, toNat_append_eq_add, BitVec.toNat_ofNat, toNat_extractLsb'_eq_bitsOf, bitsOf]
    omega
  have hlow : BitVec.ofNat 64 (result % 16 * 16 + busy) = 0#56 ++ BitVec.ofNat 4 result ++ 0#3 ++ BitVec.ofNat 1 busy := by
    apply BitVec.eq_of_toNat_eq
    simp only [toNat_append_eq_add, BitVec.toNat_ofNat]
    omega
  have htwo : (2 : Word) = BitVec.twoPow 64 1 := rfl
  rw [happend, hlow, htwo]
  refine BitVec.eq_of_getLsbD_eq fun i hi => ?_
  rw [BitVec.getLsbD_or, BitVec.getLsbD_or, BitVec.getLsbD_and, BitVec.getLsbD_and, getLsbD_catctlMask i hi]
  simp only [BitVec.getLsbD_append, BitVec.getLsbD_extractLsb', BitVec.getLsbD_twoPow, BitVec.getLsbD_zero]
  grind

/-- The command to clear ERR is not in the word of a load. -/
theorem bitsOf_clearErr (v : Word) {lo len : Nat} (h : 2 ≤ lo) : bitsOf (v &&& ~~~2#64).toNat lo len = bitsOf v.toNat lo len := by
  rw [← toNat_extractLsb'_eq_bitsOf, ← toNat_extractLsb'_eq_bitsOf]
  congr 1
  refine BitVec.eq_of_getLsbD_eq fun i hi => ?_
  have htwo : (2#64).getLsbD (lo + i) = false := by
    rw [show (2#64) = BitVec.twoPow 64 1 from rfl, BitVec.getLsbD_twoPow]
    simp
    omega
  rw [BitVec.getLsbD_extractLsb', BitVec.getLsbD_extractLsb', BitVec.getLsbD_and, BitVec.getLsbD_not, htwo]
  have hbit := BitVec.lt_of_getLsbD (x := v) (i := lo + i)
  cases hv : v.getLsbD (lo + i) with
  | false => simp
  | true => simp [hbit hv]

section
variable {s : State} (v : Word)

/-- A write during a load sets ERR. -/
theorem exec_catctlLoad_of_busy (hbusy : s.pkg.catctl.getLsbD 0 = true) :
    exec (.catctlLoad v) s = .next (s.updPkg (fun k => { k with catctl := k.catctl ||| 2 })) := by
  have herr : ¬ bitsOf (v &&& ~~~2#64).toNat 1 1 = 1 := by rw [bitsOf_one_eq_one_iff]; simp
  change Host.Outcome.next (writeCatctl s (v &&& ~~~(2#64))) = _
  unfold writeCatctl
  dsimp only
  rw [if_neg herr, if_pos ((bitsOf_one_eq_one_iff _ 0).mpr hbusy)]
  rfl

/-- A write while none is under way names a partition and a count: RESULT 4, RESULT 5, or the load is under way. -/
theorem exec_catctlLoad_of_idle {fields : Word} {asid count : Nat} (hidle : s.pkg.catctl.getLsbD 0 = false)
    (hfields : (v &&& 0xFFFF01FF00000000) ||| (s.pkg.catctl &&& 2) = fields) (hasid : (v.extractLsb' 48 16).toNat = asid)
    (hcount : (v.extractLsb' 32 9).toNat = count) : exec (.catctlLoad v) s = .next (
      if (partOf s asid).isNone then s.updPkg (fun k => { k with catctl := fields ||| 0x40 })
      else if count > 256 then s.updPkg (fun k => { k with catctl := fields ||| 0x50 })
      else (s.updPkg (fun k => { k with catctl := fields ||| 1, catJob := some (asid, (s.pkg.catbase2.extractLsb' 6 42).toNat * 64, count) })).updPart asid
        (fun p => { p with loading := true })) := by
  subst hfields hasid hcount
  have herr : ¬ bitsOf (v &&& ~~~2#64).toNat 1 1 = 1 := by rw [bitsOf_one_eq_one_iff]; simp
  have hbusy : ¬ bitsOf s.pkg.catctl.toNat 0 1 = 1 := by rw [bitsOf_one_eq_one_iff, hidle]; decide
  change Host.Outcome.next (writeCatctl s (v &&& ~~~(2#64))) = _
  unfold writeCatctl
  dsimp only
  rw [if_neg herr, if_neg hbusy]
  simp only [bitsOf_clearErr v (show 2 ≤ 48 by decide), bitsOf_clearErr v (show 2 ≤ 32 by decide), catctlWord_written v _ _ (show 0 < 2 by decide),
    catctlWord_written v _ _ (show 1 < 2 by decide), toNat_extractLsb'_eq_bitsOf]
  rfl

end

theorem exec_catctlErrClear (s : State) : exec .catctlErrClear s = .next (s.updPkg (fun k => { k with catctl := k.catctl &&& ~~~2#64 })) := by
  have hclear : putField s.pkg.catctl 1 1 0 = s.pkg.catctl &&& ~~~2#64 := putField_bit_zero (by decide) _
  change Host.Outcome.next (s.updPkg (fun k => { k with catctl := putField s.pkg.catctl 1 1 0 })) = _
  rw [hclear]
  rfl

/-! ### A routine enters the cache of a core (R123) -/

section
variable {pin : CacheEnt → Bool} {die core n : Nat}

theorem makeRoom_subset (k : Nat) (l : List CacheEnt) : ∀ e ∈ makeRoom pin die core n k l, e ∈ l := by
  induction k generalizing l with
  | zero => exact fun e he => he
  | succ k ih =>
    unfold makeRoom
    split
    next => exact fun e he => he
    next =>
      split
      next v _ => exact fun e he => (List.mem_filter.mp (ih _ e he)).1
      next => exact fun e he => he

theorem cacheLines_of_none {l : List CacheEnt} (h : l.filter (fun e => e.die = die && e.core = core) = []) : cacheLines die core l = 0 := by
  rw [cacheLines, h]
  rfl

/-- Where none of a core's routines is pinned, as many leave as the lines of another need. -/
theorem makeRoom_fits (hn : n ≤ 16) (k : Nat) {l : List CacheEnt} (hpin : ∀ e ∈ l, pin e = false)
    (hk : (l.filter (fun e => e.die = die && e.core = core)).length < k) : cacheLines die core (makeRoom pin die core n k l) + n ≤ 16 := by
  induction k generalizing l with
  | zero => exact absurd hk (Nat.not_lt_zero _)
  | succ k ih =>
    unfold makeRoom
    split
    next hfits => exact hfits
    next hfull =>
      split
      next v hv =>
        have hmine : (decide (v.die = die) && decide (v.core = core)) = true := by
          have hfound := List.find?_some hv
          rw [Bool.and_eq_true] at hfound
          exact hfound.1
        have hfewer : ((l.filter (fun e => e ≠ v)).filter (fun e => e.die = die && e.core = core)).length <
            (l.filter (fun e => e.die = die && e.core = core)).length := by
          rw [List.filter_comm]
          exact List.length_filter_lt_length_iff_exists.mpr
            ⟨v, List.mem_filter.mpr ⟨List.mem_of_find?_eq_some hv, hmine⟩, by simp⟩
        exact ih (fun e he => hpin e (List.mem_filter.mp he).1) (by omega)
      next hnone =>
        have hempty : l.filter (fun e => e.die = die && e.core = core) = [] :=
          List.filter_eq_nil_iff.mpr fun e he hmine => by
            have := List.find?_eq_none.mp hnone e he
            rw [hpin e he] at this
            exact this (by simpa using hmine)
        rw [cacheLines_of_none hempty] at hfull
        omega

/-- An image of sixteen lines at most enters the cache of a core that has nothing pinned. -/
theorem cached_fillCache {p : Partition} {routine : Nat} {f : Folio} (hn : n ≤ 16) (hpin : ∀ e ∈ p.cache, pin e = false)
    (hcount : (p.cache.filter (fun e => e.die = die && e.core = core)).length ≤ 16) :
    (p.fillCache pin die core routine n f).cached die core routine = some f := by
  have hrest : ∀ e ∈ p.cache.filter (fun e => !(e.die = die && e.core = core && e.routine = routine)), e ∈ p.cache :=
    fun e he => (List.mem_filter.mp he).1
  have hroom := makeRoom_fits hn 17 (l := p.cache.filter (fun e => !(e.die = die && e.core = core && e.routine = routine)))
    (fun e he => hpin e (hrest e he))
    (Nat.lt_succ_of_le (((List.filter_sublist.filter _).length_le).trans hcount))
  unfold Partition.fillCache
  dsimp only
  rw [if_pos hroom]
  have hnone : (makeRoom pin die core n 17 (p.cache.filter (fun e => !(e.die = die && e.core = core && e.routine = routine)))).find?
      (fun e => e.die = die && e.core = core && e.routine = routine) = none :=
    List.find?_eq_none.mpr fun e he => by
      have hother := (List.mem_filter.mp (makeRoom_subset 17 _ e he)).2
      rwa [Bool.not_eq_true', ← Bool.not_eq_true] at hother
  rw [Partition.cached, List.find?_append, hnone, Option.none_or, List.find?_cons_of_pos (by simp)]
  rfl

theorem fillCache_asid (p : Partition) (routine : Nat) (f : Folio) : (p.fillCache pin die core routine n f).asid = p.asid := by
  unfold Partition.fillCache
  dsimp only
  split <;> rfl

theorem fillCache_fetching (p : Partition) (routine : Nat) (f : Folio) : (p.fillCache pin die core routine n f).fetching = p.fetching := by
  unfold Partition.fillCache
  dsimp only
  split <;> rfl

end

/-- A tainted region changes the entry of its launch alone. -/
theorem taint_spec (s : State) (x : Place) (v : Nat) {a : Nat} {q : Partition} (hq : partOf s a = some q) :
    (taint s x v).places = s.places ∧ (taint s x v).threads = s.threads ∧
    ∃ q', partOf (taint s x v) a = some q' ∧ q'.cache = q.cache ∧ q'.fetching = q.fetching := by
  unfold taint
  split
  next => exact ⟨rfl, rfl, q, hq, rfl, rfl⟩
  next =>
    have hpart := partOf_updPart_map (f := fun p => p.updTask x.lslot (fun e => { e with verdict := max e.verdict v })) (fun _ => rfl) s x.asid a
    rw [hq] at hpart
    refine ⟨rfl, rfl, _, hpart, ?_, ?_⟩ <;>
    · dsimp only
      split <;> rfl

/-! ### The claims -/

section
variable {s s1 : State} {asid base count : Nat} (hjob : s.pkg.catJob = some (asid, base, count))
  (hs1 : (s.updPkg (fun k => { k with catJob := none })).updPart asid (fun q => { q with loading := false }) = s1)
include hjob hs1

/-- A load that finds every entry in order: the catalogue is the new one (R121). -/
theorem exec_catalogueLoadDone_of_good {s2 : State} (hs2 : s1.updPkg (fun k => { k with catctl := catctlWord k.catctl 0 0 0 }) = s2)
    (hcheck : catCheck s1 asid base count 0 = none) : exec .catalogueLoadDone s =
      .next (({ s2 with warm := s2.warm.filter (fun w => w.asid ≠ asid) } : State).updPart asid (fun p => p.withCatalogue s1 base count)) := by
  change execCatalogueLoadDone s = _
  unfold execCatalogueLoadDone
  rw [hjob]
  dsimp only
  rw [hs1, hcheck, hs2]

/-- A load that finds a fault: RESULT and INDEX tell it (R122). -/
theorem exec_catalogueLoadDone_of_bad {result index : Nat} (hcheck : catCheck s1 asid base count 0 = some (result, index)) :
    exec .catalogueLoadDone s = .next (s1.updPkg (fun k => { k with catctl := catctlWord k.catctl result index 0 })) := by
  change execCatalogueLoadDone s = _
  unfold execCatalogueLoadDone
  rw [hjob]
  dsimp only
  rw [hs1, hcheck]

end

/-- The load that is no longer under way: the registers are else as they were, and so are the warm footprints. -/
theorem pkg_of_loadEnded {s s1 : State} {asid : Nat}
    (hs1 : (s.updPkg (fun k => { k with catJob := none })).updPart asid (fun q => { q with loading := false }) = s1) :
    s1.pkg = { s.pkg with catJob := none } ∧ s1.warm = s.warm := by
  rw [← hs1, State.updPart_pkg, State.updPkg_pkg, State.updPart_warm, State.updPkg_warm]
  exact ⟨rfl, rfl⟩

/-- A load that finds every entry in order gives the partition its new catalogue, with an empty cache and no warm footprint. -/
theorem catalogueLoadDone_of_good {s s1 : State} {p : Partition} {base count : Nat} (hp : partOf s1 p.asid = some { p with loading := false })
    (hjob : s.pkg.catJob = some (p.asid, base, count))
    (hs1 : (s.updPkg (fun k => { k with catJob := none })).updPart p.asid (fun q => { q with loading := false }) = s1)
    (hcheck : catCheck s1 p.asid base count 0 = none) :
    StepTo .catalogueLoadDone s (fun s' => (s'.pkg.catctl = catctlWord s.pkg.catctl 0 0 0 ∧ s'.pkg.catJob = none) ∧
      (∀ w ∈ s'.warm, w.asid ≠ p.asid) ∧ ∃ q, partOf s' p.asid = some q ∧ q.catbase = base ∧ q.catcount = count ∧ q.cache = [] ∧ q.loading = false ∧
        (∃ d, q.digest = some d) ∧ q.tasks = p.tasks ∧ q.scopes = p.scopes) := by
  obtain ⟨s2, hs2⟩ : ∃ s2, s1.updPkg (fun k => { k with catctl := catctlWord k.catctl 0 0 0 }) = s2 := ⟨_, rfl⟩
  have hpkg : s2.pkg.catctl = catctlWord s.pkg.catctl 0 0 0 ∧ s2.pkg.catJob = none := by
    rw [← hs2, State.updPkg_pkg, (pkg_of_loadEnded hs1).1]
    exact ⟨rfl, rfl⟩
  have hp2 : partOf s2 p.asid = some { p with loading := false } := by
    rw [← hs2, partOf_congr (State.updPkg_parts ..), hp]
  refine ⟨_, exec_catalogueLoadDone_of_good hjob hs1 hs2 hcheck, hpkg, fun w hw => ?_, _,
    partOf_updPart (f := fun q => q.withCatalogue s1 base count) (fun _ => rfl) ((partOf_congr rfl _).trans hp2), rfl, rfl, rfl, rfl, ⟨_, rfl⟩, rfl, rfl⟩
  simpa using (List.mem_filter.mp hw).2

/-- One that does not changes RESULT and INDEX alone. -/
theorem catalogueLoadDone_of_bad {s s1 : State} {p : Partition} {base count result index : Nat}
    (hp : partOf s1 p.asid = some { p with loading := false }) (hjob : s.pkg.catJob = some (p.asid, base, count))
    (hs1 : (s.updPkg (fun k => { k with catJob := none })).updPart p.asid (fun q => { q with loading := false }) = s1)
    (hcheck : catCheck s1 p.asid base count 0 = some (result, index)) :
    StepTo .catalogueLoadDone s (fun s' => s'.pkg.catctl = catctlWord s.pkg.catctl result index 0 ∧ s'.warm = s.warm ∧
      partOf s' p.asid = some { p with loading := false }) := by
  refine ⟨_, exec_catalogueLoadDone_of_bad hjob hs1 hcheck, ?_, ?_, (partOf_congr (State.updPkg_parts ..) _).trans hp⟩
  · rw [State.updPkg_pkg, (pkg_of_loadEnded hs1).1]
  · rw [State.updPkg_warm, (pkg_of_loadEnded hs1).2]

/-- The pages of an image of 64 KiB at most fill sixteen lines at most. -/
theorem imageLines_le {o : Option (List Byte)} (h : ∀ bs, o = some bs → bs.length ≤ 65536) : ((o.getD []).length + 4095) / 4096 ≤ 16 := by
  cases o with
  | none => decide
  | some bs =>
    have hbs := h bs rfl
    rw [Option.getD_some]
    omega

/-- A fetch that finds its image in order: what its reads correct is told, and the routine is in the cache (R123, R202). -/
theorem catalogueFetchDone_spec {s s1 : State} {p : Partition} {die core routine : Nat} {f : Folio} (hp : partOf s p.asid = some p)
    (hload : p.loading = false) (hfetching : (die, core, routine) ∈ p.fetching)
    (hs1 : s.updPart p.asid (fun q => { q with fetching := q.fetching.filter (fun y => y ≠ (die, core, routine)) }) = s1)
    (hfetch : fetchFolio s1 p routine none = .folio f) (hlen : ∀ bs, readImage s1 p routine = some bs → bs.length ≤ 65536)
    (hcount : (p.cache.filter (fun e => e.die = die && e.core = core)).length ≤ 16) (hpin : ∀ e ∈ p.cache, pinned s p.asid e = false) :
    StepTo (.catalogueFetchDone p.asid die core routine) s (fun s' => s'.places = s.places ∧ s'.threads = s.threads ∧
      ∃ q, partOf s' p.asid = some q ∧ q.cached die core routine = some f ∧ (die, core, routine) ∉ q.fetching) := by
  have hgo : ¬ ((p.loading || !p.fetching.contains (die, core, routine)) = true) := by simp [hload, hfetching]
  have hp1 : partOf s1 p.asid = some { p with fetching := p.fetching.filter (fun y => y ≠ (die, core, routine)) } := by
    rw [← hs1]
    exact partOf_updPart (f := fun q => { q with fetching := q.fetching.filter (fun y => y ≠ (die, core, routine)) }) (fun _ => rfl) hp
  have hpin1 : ∀ e ∈ p.cache, pinned s1 p.asid e = false := hs1 ▸ hpin
  have halike1 : s1.places = s.places ∧ s1.threads = s.threads := hs1 ▸ ⟨rfl, rfl⟩
  have hlines := imageLines_le hlen
  obtain ⟨hplaces2, hthreads2, hunheard2⟩ := (alike_readClosed s1).imageSeen p routine ⟨rfl, rfl, rfl⟩
  obtain ⟨now, hp2⟩ := partOf_of_unheard hunheard2 hp1
  unfold StepTo
  change ∃ s', execCatalogueFetchDone p.asid die core routine s = .next s' ∧ _
  simp only [execCatalogueFetchDone, hp, if_neg hgo, hs1, hfetch]
  generalize imageSeen s1 p routine = s2 at hplaces2 hthreads2 hp2 ⊢
  generalize (((readImage s1 p routine).getD []).length + 4095) / 4096 = n at hlines ⊢
  have hfill {s3 : State} (hplaces3 : s3.places = s2.places) (hthreads3 : s3.threads = s2.threads) {q : Partition} (hq : partOf s3 p.asid = some q)
      (hcache : q.cache = p.cache) (hleft : q.fetching = p.fetching.filter (fun y => y ≠ (die, core, routine))) :
      ∃ s', (.next (s3.updPart p.asid (fun q => q.fillCache (pinned s1 p.asid) die core routine n f)) : Out) = .next s' ∧
        s'.places = s.places ∧ s'.threads = s.threads ∧
        ∃ q, partOf s' p.asid = some q ∧ q.cached die core routine = some f ∧ (die, core, routine) ∉ q.fetching := by
    refine ⟨_, rfl, hplaces3.trans (hplaces2.trans halike1.1), hthreads3.trans (hthreads2.trans halike1.2), _,
      partOf_updPart (fun q => fillCache_asid q ..) hq, cached_fillCache hlines (hcache.symm ▸ hpin1) (hcache.symm ▸ hcount), ?_⟩
    rw [fillCache_fetching, hleft]
    simp
  split
  next =>
    split
    next x _ =>
      obtain ⟨hplaces3, hthreads3, q, hq, hcache, hleft⟩ := taint_spec s2 x 1 hp2
      exact hfill hplaces3 hthreads3 hq hcache hleft
    next => exact hfill rfl rfl hp2 rfl rfl
  next => exact hfill rfl rfl hp2 rfl rfl

theorem catalogueLoads : CatalogueLoads := by
  intro s v p base count die core routine f hp c fields idle s1 word
  have hp1 : partOf s1 p.asid = some { p with loading := false } :=
    partOf_updPart (f := fun q => { q with loading := false }) (fun _ => rfl) ((partOf_congr rfl _).trans hp)
  refine ⟨fun hidle hasid hcount => ?starts, fun hidle hnone => ?noasid, fun hidle hasid hcount => ?toomany, fun hbusy => ?busy, ?clear,
    fun hjob hcheck => ?done, fun result index hjob hcheck => ?fails, fun hload hfetching hfetch hlen hcount hpin => ?fetch⟩
  case starts =>
    have hexec := exec_catctlLoad_of_idle v hidle rfl hasid rfl
    rw [if_neg (by simp [hp]), if_neg (Nat.not_lt.mpr hcount)] at hexec
    exact ⟨_, hexec, rfl, rfl, _, partOf_updPart (f := fun q => { q with loading := true }) (fun _ => rfl) ((partOf_congr rfl _).trans hp), rfl⟩
  case noasid =>
    have hexec := exec_catctlLoad_of_idle v hidle rfl rfl rfl
    rw [if_pos (Option.isNone_iff_eq_none.mpr hnone)] at hexec
    exact pkgStep_of_exec hexec rfl
  case toomany =>
    have hexec := exec_catctlLoad_of_idle v hidle rfl hasid rfl
    rw [if_neg (by simp [hp]), if_pos hcount] at hexec
    exact pkgStep_of_exec hexec rfl
  case busy => exact pkgStep_of_exec (exec_catctlLoad_of_busy v hbusy) rfl
  case clear => exact pkgStep_of_exec (exec_catctlErrClear s) rfl
  case done =>
    obtain ⟨s', hexec, ⟨hword, hjob'⟩, hrest⟩ := catalogueLoadDone_of_good hp1 hjob rfl hcheck
    exact ⟨s', hexec, hword ▸ catctlWord_fields _ 0 0 (by decide), hjob', hrest⟩
  case fails =>
    obtain ⟨s', hexec, hword, hrest⟩ := catalogueLoadDone_of_bad hp1 hjob rfl hcheck
    exact ⟨s', hexec, hword ▸ catctlWord_fields _ result index (by decide), hrest⟩
  case fetch => exact catalogueFetchDone_spec hp hload hfetching rfl hfetch hlen hcount hpin

/-- Settles O46: the word of CATCTL field by field and what a load and a fetch leave; the head of a queue by the footprints found for it. -/
theorem catalogueAndCurator : Obligations.CatalogueAndCurator := ⟨catalogueLoads, curatorServes⟩

end Sys2Proof.Machine
end

section
/-! SUPPORT. The waits of the Curator and the ends of its copies (O47): the stall and the standby (R136, R141), an unstow that has completed (R133)
and STOWCFG (R134). -/

namespace Sys2Proof.Machine
open Sys2Proof.Claims

-- One after another: proofs elaborated at a time take a thread each, whose stacks are the most of the check's memory.
set_option Elab.async false

/-! ### The stall and the standby (R136, R141) -/

/-- A census trap leaves the partition as it is and puts one trap behind those that its supervisor has pending. -/
theorem censusTrap_spec {s : State} {asid code : Nat} {p : Partition} {v : Thread} (hp : partOf s asid = some p)
    (hv : s.thread? (supervisorOf s asid) = some v) (es : List (List Byte)) :
    partOf (censusTrap s asid code es) asid = some p ∧ ∃ v', (censusTrap s asid code es).thread? v.id = some v' ∧
      (v.run ≠ .stopped → v.run ≠ .ended → ∃ a, v'.async = v.async ++ [a] ∧ a.code = code ∧ a.asid = asid ∧
        (p.census.extractLsb' 12 36 = 0 → a.norec = true ∧ (censusTrap s asid code es).mem = s.mem)) := by
  obtain ⟨s1, eval, norec, htrap, hthreads, hparts, harea⟩ := censusTrap_posts (code := code) hp es
  have hp1 : partOf s1 asid = some p := (partOf_congr hparts asid).trans hp
  have hid : v.id = supervisorOf s asid := of_decide_eq_true (List.find?_some (p := fun u : Thread => decide (u.id = supervisorOf s asid)) hv)
  have hwho : supervisorOf s1 asid = v.id := by rw [hid, supervisorOf, supervisorOf, hp1, hp]
  have hthread : s1.thread? v.id = some v := by
    rw [hid]
    exact (thread?_congr hthreads _).trans hv
  rw [htrap, postSupervisor, hwho]
  refine ⟨hp1, _, thread?_updThread (fun u => by split <;> rfl) hthread, fun hstopped hended => ?_⟩
  rw [if_neg (by tauto)]
  refine ⟨_, rfl, rfl, rfl, fun hzero => ?_⟩
  obtain ⟨hnorec, rfl⟩ := harea (by rw [← toNat_extractLsb'_eq_bitsOf, hzero]; rfl)
  exact ⟨hnorec, rfl⟩

/-- A queue whose requests change neither their core nor their state stands as it did, each request as it then is. -/
theorem queueOf_updBy {p q : Partition} {b : PitchReq → Bool} {f : PitchReq → PitchReq} (hq : q.curq = updBy b f p.curq)
    (hf : ∀ r, (f r).core = r.core ∧ (f r).frozen = r.frozen) (core : Nat) : q.queueOf core = updBy b f (p.queueOf core) := by
  rw [Partition.queueOf, hq, updBy, List.filter_map, Partition.queueOf, updBy]
  congr 2
  funext r
  simp only [Function.comp_apply]
  split
  · rw [(hf r).1, (hf r).2]
  · rfl

section
variable {s : State} {p : Partition} (hp : partOf s p.asid = some p) (hrun : p.st = .running)
include hp hrun

theorem exec_curatorStall {core : Nat} {r : PitchReq} {rest : List PitchReq} (hqueue : p.queueOf core = r :: rest) (hdue : r.waitFrom + 32768 ≤ s.cycle) :
    exec (.curatorStall p.asid core) s = .next (censusTrap
      (s.updPart p.asid (fun q => { q with curq := updBy r.same (fun x => { x with waitFrom := s.cycle }) q.curq })) p.asid 39
      ((p.pitches.filter (fun x => x.core / 32 = core / 32)).map pitchCensus)) := by
  change execCuratorStall p.asid core s = _
  unfold execCuratorStall
  rw [hp]
  simp only [hqueue]
  rw [if_neg (by simp [hrun, hdue])]

theorem exec_granulesStandby (hstandby : p.standby = false) :
    exec (.granulesStandby p.asid) s = .next { s.updPart p.asid (fun q => { q with standby := true }) with
      places := updBy (fun x => x.asid = p.asid && x.inst.isSome) (fun x => { x with ready := true }) s.places } := by
  change execGranulesStandby p.asid s = _
  unfold execGranulesStandby
  rw [hp]
  dsimp only
  rw [if_neg (by simp [hrun, hstandby])]
  rfl

end

theorem curatorWaits : CuratorWaits := by
  intro s p core r rest v hp hrun
  constructor
  · intro hqueue hdue hv
    have hp1 := partOf_updPart (f := fun q => { q with curq := updBy r.same (fun x => { x with waitFrom := s.cycle }) q.curq }) (fun _ => rfl) hp
    have hwho : supervisorOf (s.updPart p.asid (fun q => { q with curq := updBy r.same (fun x => { x with waitFrom := s.cycle }) q.curq })) p.asid =
        supervisorOf s p.asid := by rw [supervisorOf, supervisorOf, hp1, hp]
    obtain ⟨hpart, v', hv', hposted⟩ := censusTrap_spec (code := 39) hp1 (hwho.symm ▸ hv)
      ((p.pitches.filter (fun x => x.core / 32 = core / 32)).map pitchCensus)
    have hhead := queueOf_updBy (p := p) (q := { p with curq := updBy r.same (fun x => { x with waitFrom := s.cycle }) p.curq }) rfl (fun _ => ⟨rfl, rfl⟩) core
    rw [hqueue] at hhead
    exact ⟨_, exec_curatorStall hp hrun hqueue hdue, ⟨v', hv', hposted⟩, _, hpart, _, _, hhead, if_pos r.same_self⟩
  · intro hstandby
    refine ⟨_, exec_granulesStandby hp hrun hstandby,
      ⟨_, partOf_updPart (f := fun q => { q with standby := true }) (fun _ => rfl) hp, rfl⟩, fun x hx hasid hinst => ?_⟩
    obtain ⟨y, -, ⟨-, rfl⟩ | ⟨hother, rfl⟩⟩ := mem_updBy hx
    · rfl
    · exact absurd hother (by simp [hasid, hinst])

end Sys2Proof.Machine
end

section
/-! SUPPORT. The ends of the copies (O47): a result that reaches an instance kept out, where no two places share a number (R133), an unstow that has
completed (R133), and STOWCFG (R134). -/

namespace Sys2Proof.Machine
open Sys2Proof.Claims

-- One after another: proofs elaborated at a time take a thread each, whose stacks are the most of the check's memory.
set_option Elab.async false

/-! ### A copy in the stow area -/

theorem pageWrite_keeps (p : Partition) (pages : List Nat) (s : State) :
    (pageWrite p pages s).places = s.places ∧ (pageWrite p pages s).guy = s.guy ∧ (pageWrite p pages s).parts = s.parts := by
  refine List.foldlRecOn (motive := fun t : State => t.places = s.places ∧ t.guy = s.guy ∧ t.parts = s.parts) pages _ ⟨rfl, rfl, rfl⟩ ?_
  intro t ht va _
  split <;> exact ht

theorem askUnstow_keeps (s : State) (id : Nat) : (askUnstow s id).places = s.places ∧ (askUnstow s id).guy = s.guy := by
  unfold askUnstow
  split
  next => exact ⟨rfl, rfl⟩
  next => split <;> exact ⟨rfl, rfl⟩

/-! ### An instance that is struck -/

theorem removePlace_eq {s : State} {id : Nat} {y : Place} (hy : s.place? id = some y) : ∃ sites rslots segs left reqs resps,
    removePlace s id = { s with
      places := s.places.filter (fun x => x.id ≠ id), sites := sites, rslots := rslots, segs := segs, left := left, reqs := reqs, resps := resps } := by
  unfold removePlace keepLeft
  rw [hy]
  dsimp only
  split <;> exact ⟨_, _, _, _, _, _, rfl⟩

theorem place?_filter_ne {s s' : State} {id n : Nat} (h : s'.places = s.places.filter (fun x => x.id ≠ id)) (hn : n ≠ id) : s'.place? n = s.place? n := by
  rw [State.place?, h, List.find?_filter, State.place?]
  congr 1
  funext x
  by_cases hx : x.id = n
  · simp [hx, hn]
  · simp [hx]

/-- An instance that is struck leaves every other place where it was, and its own lines empty (R137, R420). -/
theorem strikeInstance_spec {s : State} {id : Nat} {y : Place} {j : Inst} (hy : s.place? id = some y) (hj : y.inst = some j) {n : Nat} {x : Place}
    (hn : n ≠ id) (hx : s.place? n = some x) :
    (strikeInstance s id).place? n = some x ∧
    (strikeInstance s id).guy = s.guy.filter (fun g => !(g.asid = y.asid && (j.args ++ j.results).contains g.route)) := by
  obtain ⟨sites, rslots, segs, left, reqs, resps, hremove⟩ := removePlace_eq hy
  have hgone : (removePlace s id).place? n = some x := (place?_filter_ne (by rw [hremove]) hn).trans hx
  have hguy : (removePlace s id).guy = s.guy := by rw [hremove]
  have hghost (t : State) (ht : t.places = (removePlace s id).places ++ [y.ghost]) : t.place? n = some x := by
    rw [State.place?, ht, List.find?_append, show (removePlace s id).places.find? _ = some x from hgone, Option.some_or]
  unfold strikeInstance
  rw [hy]
  simp only [hj]
  rw [← hguy]
  generalize removePlace s id = s0 at hgone hghost ⊢
  by_cases hcopying : (decide (j.st = .copying) || decide (j.st = .vacated)) = true
  · simp only [if_pos hcopying]
    split
    · split <;> exact ⟨hghost _ rfl, rfl⟩
    · exact ⟨hghost _ rfl, rfl⟩
  · simp only [if_neg hcopying]
    split
    · split <;> exact ⟨hgone, rfl⟩
    · exact ⟨hgone, rfl⟩

theorem guyLine_of_filtered {s s' : State} {f : GuyLine → Bool} (h : s'.guy = s.guy.filter f) {asid k : Nat}
    (hf : ∀ g : GuyLine, g.asid = asid → g.route = k → f g = false) : guyLine s' asid k = [] := by
  have hnone : s'.guy.find? (fun g => g.asid = asid && g.route = k) = none := by
    rw [h, List.find?_eq_none]
    intro g hg hkey
    simp only [Bool.and_eq_true, decide_eq_true_eq] at hkey
    exact absurd (List.mem_filter.mp hg).2 (by rw [hf g hkey.1 hkey.2]; decide)
  rw [guyLine, State.guyAt, hnone]
  rfl

/-- Where an instance's result lines have drained its footprint goes back; its result lines are as they were, empty, and so is every
other place. -/
theorem releaseDrained_spec {s : State} {id : Nat} {y : Place} {j : Inst} (hy : s.place? id = some y) (hj : y.inst = some j) {n k : Nat} {x : Place}
    (hn : n ≠ id) (hx : s.place? n = some x) (hk : k ∈ j.results) :
    (releaseDrained s id).place? n = some x ∧ guyLine (releaseDrained s id) y.asid k = guyLine s y.asid k := by
  unfold releaseDrained
  rw [hy]
  simp only [hj]
  split
  next hdrained =>
    simp only [Bool.and_eq_true, List.all_eq_true, List.isEmpty_iff] at hdrained
    obtain ⟨hplace, hguy⟩ := strikeInstance_spec hy hj hn hx
    refine ⟨hplace, (guyLine_of_filtered hguy fun g hasid hroute => ?_).trans (hdrained.2 k hk).symm⟩
    rw [hasid, hroute]
    simp [hk]
  next => exact ⟨hx, rfl⟩

/-! ### What ends a copy -/

/-- The place's instance has the line among its result lines. -/
def Place.sendsOn (asid k : Nat) (z : Place) : Bool :=
  z.asid = asid && (match z.inst with | some j => j.results.contains k | none => false)

theorem sendsOn_iff {asid k : Nat} {z : Place} : z.sendsOn asid k = true ↔ z.asid = asid ∧ ∃ j, z.inst = some j ∧ k ∈ j.results := by
  rw [Place.sendsOn, Bool.and_eq_true, decide_eq_true_iff]
  cases z.inst <;> simp

/-- What a place's instance is once a result has come to its record. -/
def Place.buffer (x : Place) (k : Nat) (tok : Token) : Place :=
  { x with inst := x.inst.map (fun y => { y with buffered := y.buffered ++ [(k, tok)] }) }

/-- Another place is as it was. -/
theorem place?_updPlace_other {s : State} {a b : Nat} {f : Place → Place} (hf : ∀ y, (f y).id = y.id) (h : b ≠ a) :
    (s.updPlace a f).place? b = s.place? b := by
  rw [State.place?, State.updPlace, find?_updBy_blind (fun y => by rw [hf])]
  cases hy : s.places.find? (fun y => y.id = b) with
  | none => exact hy.symm
  | some y =>
    have hid : y.id = b := of_decide_eq_true (List.find?_some (p := fun y : Place => decide (y.id = b)) hy)
    rw [Option.map_some, if_neg (by simpa [hid] using h)]
    exact hy.symm

/-- A place stands so, and so do the tokens of a line. -/
def Recorded (x : Place) (asid k : Nat) (l : List Token) (t : State) : Prop := t.place? x.id = some x ∧ guyLine t asid k = l

section
variable {x : Place} {asid k : Nat} {l : List Token} {t : State} (h : Recorded x asid k l t)
include h

theorem Recorded.of_same {u : State} (hplaces : u.places = t.places) (hguy : u.guy = t.guy) : Recorded x asid k l u :=
  ⟨(congrArg (List.find? _) hplaces).trans h.1, (guyLine_congr hguy asid k).trans h.2⟩

theorem Recorded.pageWrite (p : Partition) (pages : List Nat) : Recorded x asid k l (pageWrite p pages t) := by
  obtain ⟨hplaces, hguy, -⟩ := pageWrite_keeps p pages t
  exact h.of_same hplaces hguy

theorem Recorded.askUnstow (id : Nat) : Recorded x asid k l (askUnstow t id) := by
  obtain ⟨hplaces, hguy⟩ := askUnstow_keeps t id
  exact h.of_same hplaces hguy

end

section
variable {s : State} {p : Partition} {x : Place} {i : Inst} (hp : partOf s p.asid = some p) (hx : s.place? x.id = some x) (hasid : x.asid = p.asid)
  (hi : x.inst = some i)
include hx hasid hi

/-- Where each place is the one of its number, a result that reaches an instance being copied, kept out or stowed goes from its line to
the record (R133). -/
theorem stowedResultArrive_spec {k : Nat} {tok : Token} (hplaces : ∀ y ∈ s.places, s.place? y.id = some y)
    (hst : i.st = .copying ∨ i.st = .vacated ∨ i.st = .stowed) (hroom : i.buffered.length < 4096) (hhead : guyHead s p.asid k = some tok)
    (hmine : ∃ y ∈ s.sites, y.node.place = x.id ∧ ∃ l ∈ (y.st.pitch?).lines, l.line = k)
    (hapart : ∀ y ∈ s.places, ∀ j, y.inst = some j → k ∈ j.results → y.id ≠ x.id) :
    StepTo (.stowedResultArrive x.id k tok) s (fun s' => guyLine s' p.asid k = (guyLine s p.asid k).tail ∧
      ∃ y, s'.place? x.id = some y ∧ y.inst = some { i with buffered := i.buffered ++ [(k, tok)] }) := by
  let s1 := (guyTake s x.asid k).updPlace x.id (fun y => y.buffer k tok)
  have hx1 : s1.place? x.id = some (x.buffer k tok) := place?_updPlace (s := guyTake s x.asid k) (fun _ => rfl) hx
  have hline1 : guyLine s1 p.asid k = (guyLine s p.asid k).tail := by
    rw [← List.drop_one, ← guyLine_guyTake, ← hasid]
    exact guyLine_congr rfl ..
  have hinst1 : (x.buffer k tok).inst = some { i with buffered := i.buffered ++ [(k, tok)] } := congrArg (Option.map _) hi
  have hgo : ¬ ((!(s.sites.filter (fun y => y.node.place = x.id)).any (fun y => y.st.pitch?.lines.any (fun l => l.line = k)) ||
      (i.st ≠ .copying && i.st ≠ .vacated && i.st ≠ .stowed) || i.buffered.length ≥ 4096 || guyHead s x.asid k ≠ some tok) = true) := by
    obtain ⟨y, hy, hplace, l, hl, hline⟩ := hmine
    have hany : (s.sites.filter (fun y => y.node.place = x.id)).any (fun y => y.st.pitch?.lines.any (fun l => l.line = k)) = true :=
      List.any_eq_true.mpr ⟨y, List.mem_filter.mpr ⟨hy, decide_eq_true hplace⟩, List.any_eq_true.mpr ⟨l, hl, decide_eq_true hline⟩⟩
    rw [hany, hasid, hhead]
    rcases hst with h | h | h <;> simp [h, hroom]
  have hfound {z : Place} (hz : z ∈ s1.places) {j : Inst} (hj : z.inst = some j) (hk : k ∈ j.results) : z.id ≠ x.id ∧ s1.place? z.id = some z := by
    obtain ⟨y, hy, ⟨hmine, rfl⟩ | ⟨hother, rfl⟩⟩ := mem_updBy hz
    · obtain ⟨j', hj', rfl⟩ := Option.map_eq_some_iff.mp hj
      exact absurd (of_decide_eq_true hmine) (hapart y hy j' hj' hk)
    · have hid : z.id ≠ x.id := of_decide_eq_false hother
      exact ⟨hid, (place?_updPlace_other (s := guyTake s x.asid k) (f := fun y => y.buffer k tok) (fun _ => rfl) hid).trans (hplaces z hy)⟩
  have hreleased {z : Place} (hz : z ∈ s1.places) (hsender : z.sendsOn x.asid k = true) :
      (releaseDrained s1 z.id).place? x.id = some (x.buffer k tok) ∧ guyLine (releaseDrained s1 z.id) p.asid k = guyLine s1 p.asid k := by
    obtain ⟨hown, j, hj, hk⟩ := sendsOn_iff.mp hsender
    obtain ⟨hid, hz'⟩ := hfound hz hj hk
    rw [← hasid, ← hown]
    exact releaseDrained_spec hz' hj hid.symm hx1 hk
  unfold StepTo
  change ∃ s', execStowedResultArrive x.id k tok s = .next s' ∧ _
  unfold execStowedResultArrive
  rw [hx]
  simp only [hi, if_neg hgo]
  have hdone {t : State} (ht : Recorded (x.buffer k tok) p.asid k (guyLine s p.asid k).tail t) :
      guyLine t p.asid k = (guyLine s p.asid k).tail ∧
      ∃ y, t.place? x.id = some y ∧ y.inst = some { i with buffered := i.buffered ++ [(k, tok)] } := ⟨ht.2, _, ht.1, hinst1⟩
  have hs2 : Recorded (x.buffer k tok) p.asid k (guyLine s p.asid k).tail
      (match (s1.places.find? (Place.sendsOn x.asid k)).map (fun z => z.id) with
      | some id => releaseDrained s1 id
      | none => s1) := by
    cases hfind : s1.places.find? (Place.sendsOn x.asid k) with
    | none => exact ⟨hx1, hline1⟩
    | some z =>
      obtain ⟨hplace, hline⟩ := hreleased (List.mem_of_find?_eq_some hfind) (List.find?_some (p := Place.sendsOn x.asid k) hfind)
      exact ⟨hplace, hline.trans hline1⟩
  have htold {s2 : State} (h2 : Recorded (x.buffer k tok) p.asid k (guyLine s p.asid k).tail s2) : Recorded (x.buffer k tok) p.asid k (guyLine s p.asid k).tail
      (match partOf s2 x.asid, i.stowSlots.head? with
      | some q, some slot => pageWrite q ((slotPages q [slot]).drop 8) s2
      | _, _ => s2) := by
    split
    · exact h2.pageWrite ..
    · exact h2
  refine ⟨_, rfl, hdone ?_⟩
  split
  next => exact (htold hs2).askUnstow _
  next => exact htold hs2

include hp

/-- Once an unstow has completed the instance is awake and its slots are free (R133). -/
theorem unstowCopyDone_spec (hst : i.st = .unstowing) (hserved : ∀ q ∈ p.curq, q.unstow ≠ some x.id) (hslots : slotFault? s p true i.stowSlots = none) :
    StepTo (.unstowCopyDone x.id) s (fun s' => ∃ y, s'.place? x.id = some y ∧
      y.inst = some { i with st := .awake, stowSlots := [], activeAt := s.cycle } ∧ y.ready = p.standby) := by
  have hgo : ¬ ((decide (i.st ≠ .unstowing) || p.curq.any (fun r => r.unstow = some x.id)) = true) := by
    simpa [hst] using hserved
  unfold StepTo
  change ∃ s', execUnstowCopyDone x.id s = .next s' ∧ _
  unfold execUnstowCopyDone
  simp only [hx, hi, hasid, hp, if_neg hgo, hslots]
  exact ⟨_, rfl, _, place?_updPlace
    (f := fun y => { y with ready := p.standby, inst := y.inst.map (fun j => { j with st := .awake, stowSlots := [], activeAt := s.cycle }) })
    (fun _ => rfl) hx, congrArg (Option.map _) hi, rfl⟩

end

/-! ### STOWCFG (R134) -/

/-- BASE of STOWCFG, bits 47:21. -/
theorem getLsbD_stowcfgMask : ∀ i < 64, (0x0000FFFFFFE00000 : Word).getLsbD i = decide (21 ≤ i ∧ i < 48) := by decide

/-- BASE as written, and the number of slots. -/
theorem stowcfg_word (v : Word) {n : Nat} (hn : n < 2 ^ 21) :
    BitVec.ofNat 64 (bitsOf v.toNat 21 27 * 2 ^ 21 + n) = (v &&& 0x0000FFFFFFE00000) ||| BitVec.ofNat 64 n := by
  have hword : BitVec.ofNat 64 (bitsOf v.toNat 21 27 * 2 ^ 21 + n) = 0#16 ++ v.extractLsb' 21 27 ++ BitVec.ofNat 21 n := by
    apply BitVec.eq_of_toNat_eq
    simp only [toNat_append_eq_add, BitVec.toNat_ofNat, toNat_extractLsb'_eq_bitsOf, bitsOf]
    omega
  have hslots : BitVec.ofNat 64 n = 0#43 ++ BitVec.ofNat 21 n := by
    apply BitVec.eq_of_toNat_eq
    simp only [toNat_append_eq_add, BitVec.toNat_ofNat]
    omega
  rw [hword, hslots]
  refine BitVec.eq_of_getLsbD_eq fun i hi => ?_
  rw [BitVec.getLsbD_or, BitVec.getLsbD_and, getLsbD_stowcfgMask i hi]
  simp only [BitVec.getLsbD_append, BitVec.getLsbD_extractLsb', BitVec.getLsbD_zero]
  grind

theorem stowcfgWrite_of_unused {s : State} {asid : Nat} (v : Word) (h : usedSlots s asid = []) :
    exec (.stowcfgWrite asid v) s = .next (s.updPart asid (fun q => { q with
      stowcfg := (v &&& 0x0000FFFFFFE00000) ||| BitVec.ofNat 64 (min 4096 (v.extractLsb' 0 13).toNat) })) := by
  change Host.Outcome.next (writeStowcfg s asid v) = _
  rw [writeStowcfg, if_neg (by simp [h]), stowcfg_word v (by omega), toNat_extractLsb'_eq_bitsOf]

/-- STOWCFG is ignored while a slot is in use. -/
theorem stowcfgWrite_of_used {s : State} {asid : Nat} (v : Word) (h : usedSlots s asid ≠ []) : exec (.stowcfgWrite asid v) s = .next s := by
  change Host.Outcome.next (writeStowcfg s asid v) = _
  rw [writeStowcfg, if_pos (by simpa using h)]

end Sys2Proof.Machine
end

section
/-! SUPPORT. The end of a stow (O47): its victims are stowed and the request is served, or they are kept out (R131, R132). -/

namespace Sys2Proof.Machine
open Sys2Proof.Claims

-- One after another: proofs elaborated at a time take a thread each, whose stacks are the most of the check's memory.
set_option Elab.async false

/-! ### Instances that leave the fabric -/

/-- A living instance stands at the place of a number, in this state of a stow. -/
def State.standsAt (s : State) (st : StowSt) (n : Nat) : Prop := ∃ y, s.place? n = some y ∧ y.killed = false ∧ ∃ j, y.inst = some j ∧ j.st = st

theorem standsAt_congr {s s' : State} (h : s'.places = s.places) (st : StowSt) (n : Nat) : s'.standsAt st n ↔ s.standsAt st n := by
  simp only [State.standsAt, State.place?, h]

theorem keepLeft_places (s : State) (p : Place) : (keepLeft s p).places = s.places := by
  unfold keepLeft
  split <;> rfl

theorem keepLeft_parts (s : State) (p : Place) : (keepLeft s p).parts = s.parts := by
  unfold keepLeft
  split <;> rfl

/-- An instance whose copy has completed is stowed; another of them stands as it did. -/
theorem stowAway_standsAt {s : State} {st : StowSt} {id : Nat} (h : s.standsAt st id) :
    (stowAway s id).standsAt .stowed id ∧ ∀ st' n, n ≠ id → s.standsAt st' n → (stowAway s id).standsAt st' n := by
  obtain ⟨y, hy, hkilled, j, hj, -⟩ := h
  have hid : y.id = id := of_decide_eq_true (List.find?_some (p := fun y : Place => decide (y.id = id)) hy)
  subst hid
  have hplaces : (stowAway s y.id).places =
      (s.updPlace y.id (fun x => { x with inst := x.inst.map (fun i => { i with st := .stowed }) })).places := by
    unfold stowAway
    simp only [hy, hkilled]
    rw [if_neg Bool.false_ne_true, State.updPart_places, State.updPlace, keepLeft_places]
    rfl
  refine ⟨(standsAt_congr hplaces ..).mpr ⟨_, place?_updPlace (by exact fun _ => rfl) hy, hkilled, _, congrArg (Option.map _) hj, rfl⟩,
    fun st' n hn hother => (standsAt_congr hplaces ..).mpr ?_⟩
  obtain ⟨x, hx, hrest⟩ := hother
  exact ⟨x, (place?_updPlace_other (by exact fun _ => rfl) hn).trans hx, hrest⟩

theorem foldl_stowAway_standsAt {ids : List Nat} {s : State} (h : ∀ n ∈ ids, ∃ st, s.standsAt st n) :
    (∀ n ∈ ids, (ids.foldl stowAway s).standsAt .stowed n) ∧ ∀ n, s.standsAt .stowed n → (ids.foldl stowAway s).standsAt .stowed n := by
  induction ids generalizing s with
  | nil => exact ⟨nofun, fun _ hn => hn⟩
  | cons id ids ih =>
    obtain ⟨st, hst⟩ := h id List.mem_cons_self
    obtain ⟨hstowed, hothers⟩ := stowAway_standsAt hst
    have hkeeps (st' : StowSt) (n : Nat) (hn : s.standsAt st' n) : ∃ st'', (stowAway s id).standsAt st'' n ∧ (st' = .stowed → st'' = .stowed) := by
      by_cases he : n = id
      · exact ⟨.stowed, he ▸ hstowed, fun _ => rfl⟩
      · exact ⟨st', hothers st' n he hn, fun h => h⟩
    obtain ⟨hall, hstay⟩ := ih (s := stowAway s id) fun n hn => by
      obtain ⟨st', hst'⟩ := h n (List.mem_cons_of_mem id hn)
      obtain ⟨st'', hst'', -⟩ := hkeeps st' n hst'
      exact ⟨st'', hst''⟩
    refine ⟨fun n hn => ?_, fun n hn => ?_⟩
    · rcases List.mem_cons.mp hn with rfl | htail
      · exact hstay n hstowed
      · exact hall n htail
    · obtain ⟨st'', hst'', hsame⟩ := hkeeps .stowed n hn
      exact hstay n (hsame rfl ▸ hst'')

theorem vacate_places (s : State) (vs : List Place) : (vacate s vs).places = ((vs.map (fun x => x.id)).foldl stowAway s).places :=
  foldl_keeps (f := fun (t : State) (x : Place) => askUnstow t x.id) (g := State.places) (fun t x => (askUnstow_keeps t x.id).1) _ _

/-! ### The partition is still there -/

theorem isSome_partOf_updPart {f : Partition → Partition} (hf : ∀ q, (f q).asid = q.asid) (s : State) (a b : Nat) :
    (partOf (s.updPart a f) b).isSome = (partOf s b).isSome := by
  rw [partOf_updPart_map hf, Option.isSome_map]

theorem isSome_partOf_stowAway (s : State) (id a : Nat) : (partOf (stowAway s id) a).isSome = (partOf s a).isSome := by
  unfold stowAway
  split
  next => rfl
  next =>
    split
    next => rw [isSome_partOf_updPart (by exact fun _ => rfl), partOf_congr (removePlace_parts ..)]
    next => rw [isSome_partOf_updPart (by exact fun _ => rfl), partOf_congr ((State.updPlace_parts ..).trans (keepLeft_parts ..))]

theorem isSome_partOf_askUnstow (s : State) (id a : Nat) : (partOf (askUnstow s id) a).isSome = (partOf s a).isSome := by
  unfold askUnstow
  split
  next => rfl
  next =>
    split
    next => rfl
    next => exact isSome_partOf_updPart (fun q => by split <;> rfl) ..

theorem isSome_partOf_vacate (s : State) (vs : List Place) (a : Nat) : (partOf (vacate s vs) a).isSome = (partOf s a).isSome :=
  (foldl_keeps (f := fun (t : State) (x : Place) => askUnstow t x.id) (g := fun t => (partOf t a).isSome)
    (fun t x => isSome_partOf_askUnstow t x.id a) _ _).trans
    (foldl_keeps (g := fun t => (partOf t a).isSome) (fun t id => isSome_partOf_stowAway t id a) _ _)

/-! ### The stow is done -/

/-- A copied instance is kept out of the fabric. -/
def Place.keepOut (x : Place) : Place :=
  { x with inst := x.inst.map (fun (i : Inst) => if i.st = StowSt.copying then { i with st := .vacated } else i) }

def keptOut (vs : List Place) (s : State) : State :=
  { s with places := updBy (fun x => vs.any (fun v => v.id = x.id)) Place.keepOut s.places }

theorem keptOut_standsAt {s : State} {vs : List Place} {v : Place} (hv : v ∈ vs) (h : s.standsAt .copying v.id) :
    (keptOut vs s).standsAt .vacated v.id := by
  obtain ⟨y, hy, hkilled, j, hj, hst⟩ := h
  have hid : y.id = v.id := of_decide_eq_true (List.find?_some (p := fun y : Place => decide (y.id = v.id)) hy)
  have hvictim : vs.any (fun w => w.id = y.id) = true := List.any_eq_true.mpr ⟨v, hv, decide_eq_true hid.symm⟩
  have hfind := find?_updBy_blind (b := fun x : Place => vs.any (fun w => w.id = x.id)) (p := fun x : Place => decide (x.id = v.id)) (g := Place.keepOut)
    (fun _ => rfl) s.places
  rw [show s.places.find? _ = some y from hy, Option.map_some, if_pos hvictim] at hfind
  refine ⟨y.keepOut, hfind, hkilled, { j with st := .vacated }, ?_, rfl⟩
  rw [Place.keepOut, hj, Option.map_some, if_pos hst]

/-- A request of a stow whose copies have completed: its victims are kept out; they are stowed and it is served, where the Curator grants, and its
routine is unknown or is cached with the route IDs. -/
theorem stowServe_spec {s : State} {p : Partition} {r : PitchReq} {vs : List Place} (hp : partOf s p.asid = some p) (hlive : r.frozen = 0)
    (hvs : ∀ v ∈ vs, s.standsAt .copying v.id) :
    (p.grants = false → ∀ v ∈ vs, (stowServe s p.asid p r vs).standsAt .vacated v.id) ∧
    (p.grants = true → p.catcount ≤ r.routine ∨ (∃ g, p.cached (r.core / 32) (r.core % 32) r.routine = some g ∧ p.hasIds r g = true) →
      ∃ s3 q, stowServe s p.asid p r vs = servePitch s3 p.asid q { r with stowing := none } ∧ partOf s3 p.asid = some q ∧
        ∀ v ∈ vs, s3.standsAt .stowed v.id) := by
  have hout : ∀ v ∈ vs, (keptOut vs s).standsAt .vacated v.id := fun v hv => keptOut_standsAt hv (hvs v hv)
  have hstays : ¬ r.frozen = 3 := by omega
  constructor
  · intro hgrants
    have hserve : stowServe s p.asid p r vs = keptOut vs s := by
      unfold stowServe
      dsimp only
      rw [if_neg hstays, hgrants]
      rfl
    exact hserve ▸ hout
  · intro hgrants hready
    have hids : ¬ ((decide (r.routine < p.catcount) && (match p.cached (r.core / 32) (r.core % 32) r.routine with
        | some f => !p.hasIds r f | none => false)) = true) := by
      rcases hready with hunknown | ⟨g, hcached, hids⟩
      · simp [Nat.not_lt.mpr hunknown]
      · simp [hcached, hids]
    have himage : ¬ ((decide (r.routine < p.catcount) && (p.cached (r.core / 32) (r.core % 32) r.routine).isNone) = true) := by
      rcases hready with hunknown | ⟨g, hcached, -⟩
      · simp [Nat.not_lt.mpr hunknown]
      · simp [hcached]
    have hsome : (partOf (vacate (keptOut vs s) vs) p.asid).isSome = true := by
      rw [isSome_partOf_vacate, partOf_congr (s := s) (s' := keptOut vs s) rfl, hp]
      rfl
    obtain ⟨q, hq⟩ := Option.isSome_iff_exists.mp hsome
    have hq2 := partOf_stir (partOf_updPart
      (f := fun q => { q with curq := updBy r.same (fun x => { x with stowing := none }) q.curq }) (fun _ => rfl) hq)
    have hserved {t : State} {q' : Partition} (ht : partOf t p.asid = some q') :
        (match partOf t p.asid with | some q => servePitch t p.asid q { r with stowing := none } | none => t) =
          servePitch t p.asid q' { r with stowing := none } := by rw [ht]
    refine ⟨_, _, ?_, hq2, fun v hv => ?_⟩
    · unfold stowServe
      dsimp only
      rw [if_neg hstays, hgrants, if_neg (by decide)]
      exact (if_neg hids).trans ((if_neg himage).trans (hserved hq2))
    · refine (standsAt_congr (vacate_places (keptOut vs s) vs) ..).mpr
        ((foldl_stowAway_standsAt fun n hn => ?_).1 v.id (List.mem_map.mpr ⟨v, hv, rfl⟩))
      obtain ⟨w, hw, rfl⟩ := List.mem_map.mp hn
      exact ⟨_, hout w hw⟩

section
variable {s : State} {p : Partition} {core : Nat} {r : PitchReq} {ids : List Nat} (hp : partOf s p.asid = some p)
  (hstower : p.stower core = some r) (hstowing : r.stowing = some ids)
  (hids : ∀ n ∈ ids, ∃ y j, s.place? n = some y ∧ y.asid = p.asid ∧ y.killed = false ∧ y.inst = some j ∧ j.st = .copying ∧
    slotFault? s p false j.stowSlots = none)
include hp hstower hstowing hids

/-- Copies that meet no fault end together. -/
theorem exec_stowCopyDone : ∃ pages, exec (.stowCopyDone p.asid core) s =
    .next (stowServe (pageWrite p pages s) p.asid p r (ids.filterMap (fun n => s.place? n))) := by
  change ∃ pages, execStowCopyDone p.asid core s = _
  unfold execStowCopyDone
  simp only [hp, hstower, hstowing, Option.getD_some]
  split
  next v fault h =>
    obtain ⟨x, hx, hfault⟩ := List.exists_of_findSome?_eq_some h
    obtain ⟨n, hn, hnx⟩ := List.mem_filterMap.mp hx
    obtain ⟨y, j, hy, -, hkilled, hj, hst, hslots⟩ := hids n hn
    obtain rfl : y = x := Option.some.inj (hy.symm.trans hnx)
    simp [hj, hst, hkilled, hslots] at hfault
  next => exact ⟨_, rfl⟩

/-- Once the copies of a request's victims have completed they are stowed and the request is served, or they are kept out (R131, R132). -/
theorem stowCopyDone_spec (hlive : r.frozen = 0) :
    (p.grants = true → p.catcount ≤ r.routine ∨ (∃ g, p.cached (r.core / 32) (r.core % 32) r.routine = some g ∧ p.hasIds r g = true) →
      ∃ s3 q, exec (.stowCopyDone p.asid core) s = .next (servePitch s3 p.asid q { r with stowing := none }) ∧
        partOf s3 p.asid = some q ∧ ∀ n ∈ ids, ∃ y j, s3.place? n = some y ∧ y.inst = some j ∧ j.st = .stowed) ∧
    (p.grants = false → StepTo (.stowCopyDone p.asid core) s (fun s' => ∀ n ∈ ids, ∃ y j, s'.place? n = some y ∧ y.inst = some j ∧
      j.st = .vacated)) := by
  obtain ⟨pages, hexec⟩ := exec_stowCopyDone hp hstower hstowing hids
  obtain ⟨hplaces, -, hparts⟩ := pageWrite_keeps p pages s
  have hvictim {n : Nat} (hn : n ∈ ids) : ∃ v ∈ ids.filterMap (fun n => s.place? n), v.id = n := by
    obtain ⟨y, -, hy, -⟩ := hids n hn
    exact ⟨y, List.mem_filterMap.mpr ⟨n, hn, hy⟩, of_decide_eq_true (List.find?_some (p := fun y : Place => decide (y.id = n)) hy)⟩
  have hcopying : ∀ v ∈ ids.filterMap (fun n => s.place? n), (pageWrite p pages s).standsAt .copying v.id := by
    intro v hv
    obtain ⟨n, hn, hnv⟩ := List.mem_filterMap.mp hv
    obtain ⟨y, j, hy, -, hkilled, hj, hst, -⟩ := hids n hn
    have hid : v.id = n := of_decide_eq_true (List.find?_some (p := fun y : Place => decide (y.id = n)) hnv)
    exact (standsAt_congr hplaces ..).mpr ⟨y, hid ▸ hy, hkilled, j, hj, hst⟩
  have hstands {t : State} {st : StowSt} (h : ∀ v ∈ ids.filterMap (fun n => s.place? n), t.standsAt st v.id) :
      ∀ n ∈ ids, ∃ y j, t.place? n = some y ∧ y.inst = some j ∧ j.st = st := by
    intro n hn
    obtain ⟨v, hv, rfl⟩ := hvictim hn
    obtain ⟨y, hy, -, j, hj, hst⟩ := h v hv
    exact ⟨y, j, hy, hj, hst⟩
  obtain ⟨hout, hserved⟩ := stowServe_spec (r := r) ((partOf_congr hparts _).trans hp) hlive hcopying
  refine ⟨fun hgrants hready => ?_, fun hgrants => ⟨_, hexec, hstands (hout hgrants)⟩⟩
  obtain ⟨s3, q, hserve, hq, hstowed⟩ := hserved hgrants hready
  exact ⟨s3, q, hexec.trans (congrArg _ hserve), hq, hstands hstowed⟩

end

end Sys2Proof.Machine
end

section
/-! SUPPORT. Where O47 fails: a state whose two places share a number, so that a token taken at the one is drained at the other (R133). -/

namespace Sys2Proof.Machine
open Sys2Proof.Claims

-- One after another: proofs elaborated at a time take a thread each, whose stacks are the most of the check's memory.
set_option Elab.async false

/-! ### Two places of one number -/

/-- An instance of partition 1, of call 0 of the PITCH at place 9, with these argument and result lines. -/
def twinInst (args results : List Nat) (st : StowSt) (struck : Bool) : Inst :=
  { caller := { place := 9, x := 0, y := 0 }, call := 0, logical := [], cur := 0, args := args, results := results, st := st, stowSlots := []
    buffered := [], activeAt := 0, struck := struck, wave := 0 }

/-- A place of partition 1 that holds the instance, without a routine of its own. -/
def twinPlace (id : Nat) (i : Inst) : Place :=
  { id := id, asid := 1, die := 0, gx := 0, gy := 0, gw := 1, gh := 1, lslot := 0, scope := 0, slots := [], run := 0, sel := none
    chosen := none, sched := none, passc := [], spare := 0, idle := false, first := none, past := 0, before := 0, ready := true, ports := []
    unstitched := [], rgport := 0, killed := false, stopped := false, verdict := 0, segFault := [], segFlags := [], rb := none, inst := some i }

def twinPartition : Partition :=
  freshPart { asid := 1, plane := 0, ptroot := 0, catbase := 0, catcount := 0, homedie := 0, homecore := 0, rects := [], ok := true } 0

/-- A PITCH at place 1 whose call awaits its result on line 5, from place 2. -/
def twinPitch : Site :=
  freshSite { place := 1, x := 0, y := 0 } (.pitch
    { toks := [], routine := 0, items := [], next := 1
      calls := [{ num := 0, routine := 0, k := 1, narg := 0, nres := 1, toks := [], hdr := none
                  phys := [{ place := 2, args := [], results := [5], ended := [] }], opened := [], closed := [], res := [], sent := 0
                  struck := false }] }) 0

def twinToken : Token :=
  { kind := .data, pay := 0, mask := 0, res := 0, route := 5, last := false, void := false, chk := .good }

/-- Place 1 is stowed and two tokens wait for it on line 5. The first place of number 2 has line 5 as an argument line, the second as
a result line. -/
def twinState : State :=
  { State.reset with
    parts := [twinPartition]
    places := [twinPlace 1 (twinInst [] [] .vacated false), twinPlace 2 (twinInst [5] [] .awake true), twinPlace 2 (twinInst [] [5] .awake false)]
    sites := [twinPitch]
    guy := [{ asid := 1, route := 5, next := 3, toks := [twinToken, twinToken] }] }

theorem guyHead_twinState : guyHead twinState 1 5 = some twinToken := by
  decide +kernel

theorem length_tail_guyLine_twinState : (guyLine twinState 1 5).tail.length = 1 := by
  decide +kernel

/-- The token that arrives drains what waits behind it. -/
theorem stowedResultArrive_twinState :
    (match exec (.stowedResultArrive 1 5 twinToken) twinState with | .next s => (guyLine s 1 5).length | _ => 7) = 0 := by
  decide +kernel

theorem result_of_twinState {y : Place} {j : Inst} (hy : y ∈ twinState.places) (hj : y.inst = some j) (hk : 5 ∈ j.results) : y.id ≠ 1 := by
  have hy' : y ∈ [twinPlace 1 (twinInst [] [] .vacated false), twinPlace 2 (twinInst [5] [] .awake true),
    twinPlace 2 (twinInst [] [5] .awake false)] := hy
  simp only [List.mem_cons, List.not_mem_nil, or_false] at hy'
  rcases hy' with rfl | rfl | rfl
  · cases hj
    cases hk
  · decide
  · decide

/-- Refutes O47: where two places have one number (which no premise of `StowSteps` excludes), the arrival of a result at a PITCH kept
out may release the wrong one of them. The instance whose result line it is, is looked up by its number, and the first place of that
number is struck: its argument lines are emptied, and the line here loses the token that waits behind the one that arrived. Of the two
claims `curatorWaits` holds. Of the clauses of `StowSteps` the others hold (`stowCopyDone_spec`, `unstowCopyDone_spec`, `stowcfgWrite_of_unused`,
`stowcfgWrite_of_used`), and so does this one where each place is the one of its number (`stowedResultArrive_spec`). -/
theorem not_curatorStow : ¬ Obligations.CuratorStow := by
  rintro ⟨hstow, -⟩
  let r : PitchReq := { core := 0, node := { place := 9, x := 0, y := 0 }, call := 0, routine := 0, k := 0, scope := 0, unstow := none, stowing := none
                        freed := [], kept := [], frozen := 0, waitFrom := 0 }
  obtain ⟨-, harrives, -⟩ := hstow twinState twinPartition 0 r [] (twinPlace 1 (twinInst [] [] .vacated false)) (twinInst [] [] .vacated false)
    5 twinToken 0 rfl rfl rfl rfl
  have hlines : twinPitch.st.pitch?.lines = [{ call := 0, phys := 0, j := 0, line := 5, place := 2 }] := rfl
  have hmine : ∃ y ∈ twinState.sites, y.node.place = 1 ∧ ∃ l ∈ y.st.pitch?.lines, l.line = 5 :=
    ⟨twinPitch, .head _, rfl, _, hlines.symm.subst (motive := (_ ∈ ·)) (.head _), rfl⟩
  obtain ⟨s', hexec, hline, -⟩ := harrives (.inr (.inl rfl)) (by decide) guyHead_twinState hmine
    (fun y hy j hj hk => result_of_twinState hy hj hk)
  have hexec' : exec (.stowedResultArrive 1 5 twinToken) twinState = .next s' := hexec
  have hlost := stowedResultArrive_twinState
  rw [hexec'] at hlost
  have hlost' : (guyLine s' 1 5).length = 0 := hlost
  have hline' : guyLine s' 1 5 = (guyLine twinState 1 5).tail := hline
  rw [hline', length_tail_guyLine_twinState] at hlost'
  exact absurd hlost' one_ne_zero

end Sys2Proof.Machine
end
